-- ==== Sys2Proof/Word.lean ====
section
/-! DEFINITION. The word types of the tile and the plainest operations on them. -/

namespace Sys2Proof

/-- A 64-bit word: a cell, a set-up register, a Vector Store word (spec/00_scope.md, Notation). -/
abbrev W64 := BitVec 64

/-- One byte. -/
abbrev Byte := BitVec 8

/-- A line: 64 bytes, naturally aligned. -/
abbrev Line := BitVec 512

/-- One of the four Drami cores C0 to C3 (R12). -/
abbrev CoreId := Fin 4

/-- A Bool as a number, for building register words. -/
def b2n (b : Bool) : Nat := if b then 1 else 0

/-- A field of a register word: `width` bits of `v`, from bit `lo` upwards. -/
def fieldAt (lo width : Nat) (v : W64) : Nat := (v.toNat >>> lo) % 2 ^ width

/-- One bit of a register word. -/
def bitAt (i : Nat) (v : W64) : Bool := v.getLsbD i

end Sys2Proof
end

