-- ==== Sys2Proof/Syntax.lean ====
section
/-! DEFINITION. The commands of the block: ONE inductive, one constructor per row of spec/opcode_table.json, with the
operands the spec's words for the row need. A command is one event, whole and indivisible
(spec/95_what_each_step_holds.md). -/

namespace Sys2Proof

/-- Who makes a set-up window access (R573, R575): a core at Monitor level, Weado's system access master, or host
software through TFP.IREQ. -/
inductive Requester where
  | core (c : CoreId)
  | weado
  | host
  deriving DecidableEq, Repr

/-- The response codes of TFP and EMP (R455). -/
inductive RspCode where
  | okay | edec | etgt | epoi
  deriving DecidableEq, Repr

/-- The tie-off inputs (R6, R453): one bit wide where the spec says so. -/
structure TieOffs where
  tilebase : BitVec 28
  diepos : BitVec 3
  pairpos : BitVec 2
  snoopcap : Bool
  empch : Bool
  tracew : BitVec 2
  deriving DecidableEq, Repr

/-- The panel inputs as first sampled after AOPOR_N (R543). -/
structure PanelPins where
  attn : Bool
  pres : Bool
  tamper : Bool
  deriving DecidableEq, Repr

/-- What starts a warm reset other than the tile watchdog and a lifecycle transition (R467). -/
inductive WarmSource where
  | pin
  | rstctl (who : Requester)
  | weado
  deriving DecidableEq, Repr

/-- What starts a debug reset (R467). -/
inductive DebugResetSource where
  | pin | weado
  deriving DecidableEq, Repr

/-- The integrator-sourced clocks that CLKSTAT.LOST names, in its bit order (R482). -/
inductive Clock where
  | vclk | tclk | dclk (c : CoreId) | fclk | mclk | slclk | plclk | wclk | aoclk | tmclk | spclk
  deriving DecidableEq, Repr

/-- The links whose phase margin is tracked (R480). -/
inductive Link where
  | emp0 | emp1 | pair
  deriving DecidableEq, Repr

/-- A string-link message, its fields as R422 lays them out in M0 to M7. -/
structure Msg where
  type : BitVec 8
  src : BitVec 8
  dst : BitVec 8
  slot : BitVec 7
  epoch : BitVec 32
  mepoch : BitVec 32
  hbseq : BitVec 16
  ackseq : BitVec 16
  m2 : W64
  m3 : W64
  m4 : W64
  m5 : W64
  m6 : W64
  m7 : W64
  deriving DecidableEq, Repr

/-- What the exchange of R444 brings from the partner tile, with the outcome of pair training. -/
structure Partner where
  pairpos : BitVec 2
  spare : Bool
  idle : Bool
  wipePending : Bool
  lifecycle : BitVec 3
  trained : Bool
  engtime : W64
  /-- the partner's TILEROLE.EPOCH and FREASON (R23) -/
  epoch : BitVec 32
  freason : BitVec 4
  deriving DecidableEq, Repr

/-- An access the partner tile asks of this one over the pair link (R445, R113). -/
structure PairReq where
  /-- local word index -/
  word : BitVec 23
  /-- 0 read, 1 write, 2 bank-side accumulate -/
  op : BitVec 2
  data : W64
  be : BitVec 8
  poison : Bool
  /-- the bank operation of R56 -/
  acc : BitVec 4
  rm : BitVec 3
  /-- the request belongs to a chain issued at Monitor level (R61) -/
  monitor : Bool
  /-- a PX request (R112) or a BSA request (R114) of a chain, otherwise PL -/
  px : Bool
  /-- the chain's launch slot, the VOR and the element of a PX or BSA request (R113) -/
  slot : Fin 4
  vor : BitVec 5
  elem : BitVec 32
  /-- the halves that an accumulate enables (R115) -/
  half : BitVec 2
  tag : BitVec 32
  deriving DecidableEq, Repr

/-- How the partner tile's half of a chain in flight stands (R188, R447): an action of the present chain time has not
completed there, writes there have not been granted or acknowledged, the flags raised there, and its committed count. -/
structure PeerReport where
  busy : Bool
  out : Bool
  flags : BitVec 8
  commit : BitVec 32
  deriving DecidableEq, Repr

/-- A stream fault that the partner tile meets (R185), as R182 records it. -/
structure PeerFault where
  cause : BitVec 8
  vor : BitVec 5
  fidx : BitVec 32
  write : Bool
  vaddr : BitVec 48
  form : Bool
  level : BitVec 3
  pa : BitVec 52
  deriving DecidableEq, Repr

/-- A chain that a core of the partner tile has issued and that the pair launches (R448): the issuing core, the header, the
vector operation records, and what VISSUE captured there (R169, R315). -/
structure PeerProg where
  core : CoreId
  hdr : List W64
  vors : List (List W64)
  pg : Bool
  root : BitVec 40
  priv : BitVec 2
  vecBase : W64
  vecLim : W64
  deriving DecidableEq, Repr

/-- What a pair-link control word carries (R23, R185, R447 to R450, R472, R487, R515). -/
inductive PairWord where
  | enteredFenced (freason : BitVec 4)
  | heartbeat (m : Msg)
  | heartbeatAck (round : BitVec 16)
  | warmReset
  | coldReset
  | wipe
  | power (req : BitVec 3)
  | resume (slot : Fin 4)
  | cancel (slot : Fin 4)
  /-- how the partner's half of a chain stands (R447) -/
  | chain (slot : Fin 4) (r : PeerReport)
  /-- a stream fault on the partner tile (R185) -/
  | fault (slot : Fin 4) (f : PeerFault)
  /-- the pair launches a chain or group of a core of the partner tile (R448) -/
  | launch (progs : List PeerProg)
  /-- the partner's part of a release or a role reset has ended, and the pair becomes SPARE (R23, R434, R471) -/
  | drained
  | spare
  /-- REQROLE = 0b010 has been written on the partner tile (R23), or UNFUSE has (R450) -/
  | roleReset
  | unfuse
  /-- the engine freeze on the partner tile begins or ends (R529) -/
  | freeze (on : Bool)
  deriving DecidableEq, Repr

/-- A line response that a multi-line command carries: the line's physical address (bits [51:6]), its code and data. -/
structure LineRsp where
  line : BitVec 46
  code : RspCode
  data : Line
  deriving DecidableEq, Repr

/-- Which watchdog (R551). -/
inductive Watchdog where
  | core (c : CoreId)
  | tile
  deriving DecidableEq, Repr

/-- The context of a parcel command: the core that executes it at its pc, the header byte of the code line it was fetched
from (R202), and the parcel's condition (R207, R214). -/
structure PCtx where
  core : CoreId
  hdr : BitVec 8
  cond : BitVec 3
  deriving DecidableEq, Repr

/-- The commands. A paired parcel is ONE command, named by its first half SA; `sb` is the second half's code (R207).
`nxt` is the parcel after it, which R218, R222 and R236 look at. -/
inductive Instr where
  /-- Release of COLD_N starts the start-up sequence: tie-offs are sampled, fuses loaded, the Vector Store zero-filled and links trained. (R473) -/
  | coldResetRelease (t : TieOffs)
  /-- Release of the always-on reset resets the always-on region with WIPE_PENDING set, then proceeds as a cold start. (R468) -/
  | aoporRelease (t : TieOffs) (pnl : PanelPins)
  /-- A timed start-up step ends; the next step begins, and at step 4 RSTSTAT.UP is set. (R473) -/
  | startupStepDone
  /-- A warm reset from WARM_N, RSTCTL.WARM, the tile watchdog or Weado abandons chains and resets cores and hub state as R468 lists. (R467) -/
  | warmReset (src : WarmSource)
  /-- After a warm reset the tile reinitialises, wipes if WIPE_PENDING is set, sets UP and repeats the last passed boot. (R475) -/
  | warmResetRelease
  /-- A write of RSTCTL.CORERST bit c resets core c, discards its buffered stores and holds it until RUN bit c is set. (R470) -/
  | coreReset (who : Requester) (mask run : BitVec 4)
  /-- WTRST_N or a Weado command resets Weado run control, freezes, trace and the debug level. (R468) -/
  | debugReset (src : DebugResetSource)
  /-- A watched clock shows no edge for 64 AOCLK, which sets its LOST bit, raises MCHK and logs the event. (R465) -/
  | clockLost (clk : Clock)
  /-- A requested qualification pass starts once no chain is in flight and holds every launch. (R478) -/
  | qualPassStart
  /-- After 200 µs the pass tags every value FULL, sets QBAND, increments QCOUNT and makes an arrival on CAL_QUAL. (R478) -/
  | qualPassEnd
  /-- A write of CALCTL.REQUAL requests a qualification pass. (R478) -/
  | calctlRequal (who : Requester) (margin : BitVec 7)
  /-- A TM.TEMP sample updates BAND with hysteresis, and a band change requests a pass. (R479) -/
  | tempSample (temp : BitVec 12)
  /-- A link's phase margin falls below CALCTL.MARGIN and that link begins to retrain. (R480) -/
  | linkMarginLow (l : Link) (margin : BitVec 7)
  /-- A retrain ends, the held requests resume and LINK_RETRAIN arrives. (R480) -/
  | linkRetrainEnd (l : Link)
  /-- The supply crosses the droop-guard threshold and VCLK periods are lengthened or restored. (R481) -/
  | droopGuard (below : Bool)
  /-- A write to a set-up register that has no row of its own updates its fields under the window rules. (R574) -/
  | setupRegisterWrite (who : Requester) (off : BitVec 24) (be : BitVec 8) (val : W64)
  /-- A snoop-invalidate on TFP is answered within 4 FCLK and invalidates cached lines, clears a LOCK reservation and re-arms a watched entry. (R459) -/
  | snoopInvalidate (line : BitVec 46) (tag : BitVec 10)
  /-- REQROLE 0b001 turns a non-fused SPARE into MANAGER with the MEPOCH written to TROUPECFG. (R436) -/
  | reqroleManager (who : Requester)
  /-- REQROLE 0b010 in FENCED starts a role reset, for both tiles of a fused pair. (R19) -/
  | reqroleSpare (who : Requester)
  /-- REQROLE 0b011 fences the tile with FREASON 0x3. (R19) -/
  | reqroleFenced (who : Requester)
  /-- Once every chain has ended and every response has returned, the role reset makes the tile SPARE with EPOCH 0. (R471) -/
  | roleResetDone
  /-- A worker's or deputy's lease end passes and the tile cuts its strings with FREASON 0x1. (R426) -/
  | leaseExpiry
  /-- Every 8 µs a manager starts a heartbeat round and sends HEARTBEAT to each ADMITTING or LIVE slot and to the deputy. (R425) -/
  | heartbeatRound
  /-- A worker or deputy accepts a HEARTBEAT, answers it and renews its lease from the round named in ACKSEQ. (R426) -/
  | heartbeat (m : Msg)
  /-- The manager accepts an HBACK and records its arrival time for the slot. (R428) -/
  | hback (m : Msg)
  /-- Every 8 µs a deputy sends DEPHB echoing the latest heartbeat round it received. (R437) -/
  | dephbTimer
  /-- The manager accepts a DEPHB, which extends its own lease from the echoed round. (R438) -/
  | dephb (m : Msg)
  /-- 96 µs pass after a slot's latest HBACK or ADMITACK; the slot becomes DEAD and SL_LEASE arrives. (R428) -/
  | slotDead (slot : BitVec 7)
  /-- SLCMD KIND PROBE sends a PROBE message to a node. (R451) -/
  | slcmdProbe (who : Requester) (node : BitVec 8) (slot : BitVec 7)
  /-- A node accepts a PROBE and answers with PROBEREP. (R423) -/
  | probe (m : Msg)
  /-- The manager queues a PROBEREP in SLRX, whatever its slot and epoch. (R430) -/
  | proberep (m : Msg)
  /-- SLCMD KIND ADMIT increments the slot's epoch, sets the slot ADMITTING and sends ADMIT, or is refused. (R433) -/
  | slcmdAdmit (who : Requester) (node : BitVec 8) (slot : BitVec 7)
  /-- A spare accepts an ADMIT, becomes WORKER for the slot and epoch, starts its lease and sends ADMITACK. (R433) -/
  | admitMsg (m : Msg)
  /-- The manager accepts an ADMITACK, sets the slot LIVE and sets RESULT 1. (R433) -/
  | admitack (m : Msg)
  /-- No ADMITACK arrives within 16 µs; the slot becomes DEAD and RESULT is 3. (R433) -/
  | admitTimeout
  /-- SLCMD KIND APPOINT increments DGEN and sends APPOINT to a spare. (R437) -/
  | slcmdAppoint (who : Requester) (node : BitVec 8) (slot : BitVec 7)
  /-- A spare accepts an APPOINT, becomes DEPUTY with the manager's term and sends APPOINTACK. (R437) -/
  | appoint (m : Msg)
  /-- The manager accepts an APPOINTACK and sets DNODE, DVALID = 1 and SOLO = 0. (R437) -/
  | appointack (m : Msg)
  /-- No APPOINTACK arrives within 16 µs; RESULT is 3 and nothing changes. (R437) -/
  | appointTimeout
  /-- SLCMD KIND RELEASE sends RELEASE to a LIVE slot and completes. (R434) -/
  | slcmdRelease (who : Requester) (node : BitVec 8) (slot : BitVec 7)
  /-- A worker accepts a RELEASE and starts waiting for its chains, queues and DMA writes to drain. (R434) -/
  | release (m : Msg)
  /-- The worker's drain ends; it sends RELEASED and becomes SPARE. (R434) -/
  | releaseDrainDone
  /-- The manager accepts RELEASED, sets the slot EMPTY and makes an arrival on SL_LEASE. (R434) -/
  | released (m : Msg)
  /-- SLCMD KIND FENCE sends FENCED to a slot, which becomes DEAD, or to the deputy, which clears DVALID. (R451) -/
  | slcmdFence (who : Requester) (node : BitVec 8) (slot : BitVec 7)
  /-- A worker or deputy accepts a FENCED message naming its own term and enters FENCED with FREASON 0x2. (R431) -/
  | fenced (m : Msg)
  /-- The manager queues an ALERT about a core lock-up in SLRX. (R435) -/
  | alert (m : Msg)
  /-- A deputy accepts a GRPMIRROR, sets the group's bit in its group map and answers with GRPACK. (R441) -/
  | grpmirror (m : Msg)
  /-- The manager accepts a GRPACK and its ring engine continues the Summary Map scan of that group. (R441) -/
  | grpack (m : Msg)
  /-- No GRPACK arrives within 8 µs and the ring engine continues without it. (R441) -/
  | grpmirrorTimeout
  /-- A cue-traffic or notice message that passes the checks is queued in SLRX, or dropped when SLRX is full, and SL_MSG arrives. (R442) -/
  | firmwareMessage (m : Msg)
  /-- A write of SLTXCTL.SEND emits a firmware message, or sets REFUSED. (R442) -/
  | sltxSend (who : Requester) (type : BitVec 8) (slot : BitVec 7) (toDep : Bool)
  /-- A write of SLRXCTL.POP removes the head message of SLRX. (R451) -/
  | slrxPop (who : Requester) (clearOvf : Bool)
  /-- With less than 32 µs of its lease left, the manager issues an atomic OR of 0b01 to its arbitration word. (R438) -/
  | managerClaim
  /-- The claim's response either lets the manager win, go SOLO and fence the deputy, or leaves its lease to run out. (R438) -/
  | managerClaimResponse (code : RspCode) (old : W64)
  /-- The manager's lease runs out without a win and it cuts its strings with FREASON 0x1. (R438) -/
  | managerLeaseExpiry
  /-- A deputy with no heartbeat for 96 µs, or retrying after 8 µs, issues an atomic OR of 0b10 to its arbitration word. (R439) -/
  | deputyClaim
  /-- The claim's response makes the deputy MANAGER with MEPOCH + 1 and every slot DEAD, fences it, or schedules a retry. (R439) -/
  | deputyClaimResponse (code : RspCode) (old : W64)
  /-- A write of PAIRCTL.FUSE checks the tile's own preconditions and sets BUSY, or sets ERR. (R444) -/
  | pairctlFuse (who : Requester)
  /-- Pair training and the exchange finish; ENGTIME is aligned, both tiles set FUSED and PL_EVENT arrives. (R444) -/
  | fuseComplete (p : Partner)
  /-- The partner's FUSE does not arrive within 100 µs and both tiles fail with ERR 0x1. (R444) -/
  | fuseTimeout
  /-- A write of PAIRCTL.UNFUSE unfuses an idle fused spare pair, or sets ERR 0x3. (R450) -/
  | pairctlUnfuse (who : Requester) (partnerIdle : Bool)
  /-- A request for a word of the other parity arrives over the pair link and the holding tile presents it through PL, PX or BSA. (R445) -/
  | pairLinkRequest (q : PairReq)
  /-- The pair link fails; fused chains freeze and no HBACK is sent, so both leases run out. (R449) -/
  | pairLinkFailure
  /-- A write of VSREPAIR.START begins copying a logical bank into a spare, or sets ERR. (R40) -/
  | vsRepairStart (who : Requester) (lbank : BitVec 10) (spare : BitVec 2)
  /-- The copy passes row 8,191; VSMAP is updated, BUSY cleared, DONE set and VS_REPAIR arrives. (R40) -/
  | vsRepairDone
  /-- After INTERVAL VCLK the scrubber reads the next word and writes back a corrected single-bit error. (R48) -/
  | scrubStep
  /-- In each VCLK each bank grants one access by the precedence order and counts conflicts for the losers. (R51) -/
  | bankGrantCycle
  /-- A class B request that has waited 512 VCLK at a bank sets its starvation override. (R52) -/
  | starvationOverride (rq : Nat) (word : Nat)
  /-- With WIPE_PENDING set and VCLK running, the wipe starts from row 7,680 before any other access is granted. (R64) -/
  | wipeStart
  /-- The wipe passes row 8,191; WIPE_PENDING is cleared and VS_WIPEDONE arrives while UP = 1. (R63) -/
  | wipeDone
  /-- A chain reaching the head of its core's queue has its header and VOR lines read. (R148) -/
  | chainProgramRead (c : CoreId) (rsp : List LineRsp)
  /-- Once its program has been read, the engine checks the chain's header and VORs and rejects it or marks it ready. (R88) -/
  | chainCheck (c : CoreId)
  /-- A checked head chain with TEN = 1 consumes one arrival as soon as TRGCNT of its source is above 0. (R372) -/
  | triggerConsume (c : CoreId) (entry : Fin 8)
  /-- A head chain or group whose conditions all hold launches, takes its reservations and starts chain time at 0. (R151) -/
  | chainLaunch
  /-- At the end of each VCLK a chain's time advances when every scheduled action has completed, and otherwise counts a stall. (R141) -/
  | chainTimeTick (slot : Fin 4)
  /-- A stream buffer line read returns and its data or held fault is stored for the elements that need it. (R178) -/
  | streamLineResponse (slot : Fin 4) (line : BitVec 46) (code : RspCode) (data : Line)
  /-- A stream TLB walk read returns and the walk continues, faults or enters a translation. (R169) -/
  | streamWalkResponse (slot : Fin 4) (page : BitVec 36) (code : RspCode) (entry : W64)
  /-- A chain's line write response returns. (R175) -/
  | streamWriteResponse (slot : Fin 4) (line : BitVec 46) (code : RspCode)
  /-- Every write of a chain is granted or acknowledged; the chain completes, frees its reservations and returns its final status. (R154) -/
  | chainComplete (slot : Fin 4)
  /-- A write of ENGFLTn.RESUME retries the withheld actions of a suspended chain. (R183) -/
  | chainResume (who : Requester) (slot : Fin 4)
  /-- A write of ENGFLTn.CANCEL ends a suspended chain as ERROR with cause 0x4F after its outstanding responses return. (R184) -/
  | chainCancel (who : Requester) (slot : Fin 4) (resume : Bool)
  /-- A due journal record is written as one line once the previous record has been acknowledged. (R189) -/
  | journalRecordIssue (slot : Fin 4)
  /-- A journal write response returns; an error ends journalling and raises ENG_JERR. (R190) -/
  | journalWriteResponse (slot : Fin 4) (code : RspCode)
  /-- A written ENGCFG.DET takes effect in the first VCLK with no chain in flight. (R167) -/
  | engdetTakeEffect
  /-- Issues a chain program into the core's issue queue and pushes a ticket. (R247) -/
  | vissue (p : PCtx) (field : BitVec 10)
  /-- Collects the status record of a ticket. (R249) -/
  | vwait (p : PCtx) (field : BitVec 10)
  /-- Pushes FIELD sign-extended. (R216) -/
  | lit (p : PCtx) (field : BitVec 10)
  /-- Shifts x0 left by 10 and ORs in FIELD. (R216) -/
  | litx (p : PCtx) (field : BitVec 10)
  /-- Adds the sign-extended FIELD to x0. (R233) -/
  | addi (p : PCtx) (field : BitVec 10)
  /-- Reads a control word onto the stack. (R199) -/
  | cwr (p : PCtx) (field : BitVec 10)
  /-- Writes a control word from the stack. (R199) -/
  | cww (p : PCtx) (field : BitVec 10)
  /-- Relative branch with a delay parcel. (R235) -/
  | br (p : PCtx) (field : BitVec 10) (nxt : BitVec 20)
  /-- Relative call that pushes the return address. (R235) -/
  | call (p : PCtx) (field : BitVec 10) (nxt : BitVec 20)
  /-- Fast system call through FENTRY, saving FPC and FSTAT. (R353) -/
  | svc (p : PCtx) (field : BitVec 10)
  /-- Long-form load of the TYPE size from segment SEG. (R233) -/
  | ld (p : PCtx) (field : BitVec 10)
  /-- Long-form store of the SIZE width to segment SEG. (R233) -/
  | st (p : PCtx) (field : BitVec 10)
  /-- Loads from base + 8 × OFF. (R234) -/
  | ldc (p : PCtx) (field : BitVec 10)
  /-- Stores to base + 8 × OFF. (R234) -/
  | stc (p : PCtx) (field : BitVec 10)
  /-- Loads a word and sets the core's reservation on its line. (R238) -/
  | lock (p : PCtx) (field : BitVec 10)
  /-- Stores if the reservation holds and sets T accordingly. (R239) -/
  | unlock (p : PCtx) (field : BitVec 10)
  /-- Resumable byte copy between segments. (R241) -/
  | movb (p : PCtx) (field : BitVec 10)
  /-- Saves context groups G0 and G1 into a save area. (R244) -/
  | saveu (p : PCtx) (field : BitVec 10)
  /-- Saves context groups G2 and G3 into a save area. (R244) -/
  | savel (p : PCtx) (field : BitVec 10)
  /-- Loads both stacks of the running bank from a save area. (R300) -/
  | loadu (p : PCtx) (field : BitVec 10)
  /-- Loads the G2 and G3 words from a save area. (R300) -/
  | loadl (p : PCtx) (field : BitVec 10)
  /-- Stores the operand cells that a mask selects. (R246) -/
  | stm (p : PCtx) (field : BitVec 10)
  /-- Loads the operand cells that a mask selects. (R246) -/
  | ldm (p : PCtx) (field : BitVec 10)
  /-- Discards every TLB entry of a page in every core TLB and the stream TLB. (R331) -/
  | invpg (p : PCtx) (field : BitVec 10)
  /-- Discards every core TLB and stream TLB entry. (R331) -/
  | invall (p : PCtx) (field : BitVec 10)
  /-- Discards every walk-cache entry. (R331) -/
  | invwalk (p : PCtx) (field : BitVec 10)
  /-- Exception return after its delay parcel. (R347) -/
  | eret (p : PCtx) (field : BitVec 10) (nxt : BitVec 20)
  /-- Returns from a fast system call. (R354) -/
  | frtn (p : PCtx) (field : BitVec 10)
  /-- Decrements an event source's arrival counter. (R362) -/
  | ack (p : PCtx) (field : BitVec 10)
  /-- Ends service at a level of the priority stack, or raises PRIOFAULT. (R368) -/
  | eos (p : PCtx) (field : BitVec 10)
  /-- Stops issue until a deliverable event arrives, or switches task under the scheduler. (R369) -/
  | wait (p : PCtx) (field : BitVec 10)
  /-- Repeats the next parcel COUNT times. (R221) -/
  | rep (p : PCtx) (field : BitVec 10) (nxt : BitVec 20)
  /-- No operation. (R251) -/
  | nop (p : PCtx) (sb : BitVec 8) (nxt : BitVec 20)
  /-- Duplicates x0. (R251) -/
  | dup (p : PCtx) (sb : BitVec 8)
  /-- Drops x0. (R251) -/
  | drop (p : PCtx) (sb : BitVec 8)
  /-- Swaps x0 and x1. (R251) -/
  | swap (p : PCtx) (sb : BitVec 8)
  /-- Copies x1 to the top. (R251) -/
  | over (p : PCtx) (sb : BitVec 8)
  /-- Rotates the top three cells. (R251) -/
  | rot (p : PCtx) (sb : BitVec 8)
  /-- Drops x1. (R251) -/
  | nip (p : PCtx) (sb : BitVec 8)
  /-- Copies x0 below x1. (R251) -/
  | tuck (p : PCtx) (sb : BitVec 8)
  /-- Copies the cell at depth n mod 32. (R251) -/
  | pick (p : PCtx) (sb : BitVec 8)
  /-- 2DUP: duplicates the top two cells. (R251) -/
  | twoDup (p : PCtx) (sb : BitVec 8)
  /-- 2DROP: drops the top two cells. (R251) -/
  | twoDrop (p : PCtx) (sb : BitVec 8)
  /-- Pushes 0. (R251) -/
  | push0 (p : PCtx) (sb : BitVec 8)
  /-- Pushes 1. (R251) -/
  | push1 (p : PCtx) (sb : BitVec 8)
  /-- Pushes −1. (R251) -/
  | pushm1 (p : PCtx) (sb : BitVec 8)
  /-- Moves x0 to the return stack. (R251) -/
  | tor (p : PCtx) (sb : BitVec 8)
  /-- Moves y0 to the operand stack. (R251) -/
  | fromr (p : PCtx) (sb : BitVec 8)
  /-- Copies y0 to the operand stack. (R251) -/
  | rfetch (p : PCtx) (sb : BitVec 8)
  /-- Drops y0. (R251) -/
  | rdrop (p : PCtx) (sb : BitVec 8)
  /-- Pushes the operand stack depth. (R251) -/
  | depth (p : PCtx) (sb : BitVec 8)
  /-- Adds and sets Z, N, C and V. (R252) -/
  | add (p : PCtx) (sb : BitVec 8)
  /-- Subtracts and sets Z, N, C and V. (R252) -/
  | sub (p : PCtx) (sb : BitVec 8)
  /-- Adds with carry. (R252) -/
  | adc (p : PCtx) (sb : BitVec 8)
  /-- Subtracts with borrow. (R252) -/
  | sbc (p : PCtx) (sb : BitVec 8)
  /-- Negates x0. (R252) -/
  | neg (p : PCtx) (sb : BitVec 8)
  /-- Increments x0. (R252) -/
  | inc (p : PCtx) (sb : BitVec 8)
  /-- Decrements x0. (R252) -/
  | dec (p : PCtx) (sb : BitVec 8)
  /-- Low 64 bits of the product. (R252) -/
  | mul (p : PCtx) (sb : BitVec 8)
  /-- High 64 bits of the unsigned product. (R252) -/
  | mulhu (p : PCtx) (sb : BitVec 8)
  /-- High 64 bits of the signed product. (R252) -/
  | mulhs (p : PCtx) (sb : BitVec 8)
  /-- Unsigned divide, raising DIVZ on a zero divisor. (R252) -/
  | divu (p : PCtx) (sb : BitVec 8)
  /-- Signed divide towards zero. (R252) -/
  | divs (p : PCtx) (sb : BitVec 8)
  /-- Unsigned remainder. (R252) -/
  | modu (p : PCtx) (sb : BitVec 8)
  /-- Signed remainder with the sign of b. (R252) -/
  | mods (p : PCtx) (sb : BitVec 8)
  /-- The divide unit writes its result 36 DCLK after dispatch and releases a waiting parcel. (R262) -/
  | divideResult (c : CoreId)
  /-- Signed minimum. (R252) -/
  | min (p : PCtx) (sb : BitVec 8)
  /-- Signed maximum. (R252) -/
  | max (p : PCtx) (sb : BitVec 8)
  /-- Unsigned minimum. (R252) -/
  | minu (p : PCtx) (sb : BitVec 8)
  /-- Unsigned maximum. (R252) -/
  | maxu (p : PCtx) (sb : BitVec 8)
  /-- Absolute value. (R252) -/
  | abs (p : PCtx) (sb : BitVec 8)
  /-- Bitwise AND. (R253) -/
  | and (p : PCtx) (sb : BitVec 8)
  /-- Bitwise OR. (R253) -/
  | or (p : PCtx) (sb : BitVec 8)
  /-- Bitwise XOR. (R253) -/
  | xor (p : PCtx) (sb : BitVec 8)
  /-- b AND NOT a. (R253) -/
  | andn (p : PCtx) (sb : BitVec 8)
  /-- Bitwise NOT. (R253) -/
  | invert (p : PCtx) (sb : BitVec 8)
  /-- Shift left by a mod 64. (R253) -/
  | shl (p : PCtx) (sb : BitVec 8)
  /-- Logical shift right. (R253) -/
  | shr (p : PCtx) (sb : BitVec 8)
  /-- Arithmetic shift right. (R253) -/
  | sar (p : PCtx) (sb : BitVec 8)
  /-- Rotate left. (R253) -/
  | rol (p : PCtx) (sb : BitVec 8)
  /-- Rotate right. (R253) -/
  | ror (p : PCtx) (sb : BitVec 8)
  /-- Counts the 1 bits. (R253) -/
  | popc (p : PCtx) (sb : BitVec 8)
  /-- Counts the leading zeros. (R253) -/
  | clz (p : PCtx) (sb : BitVec 8)
  /-- Counts the trailing zeros. (R253) -/
  | ctz (p : PCtx) (sb : BitVec 8)
  /-- Reverses the bytes. (R253) -/
  | bswap (p : PCtx) (sb : BitVec 8)
  /-- Sign-extends bits [31:0]. (R253) -/
  | sext32 (p : PCtx) (sb : BitVec 8)
  /-- Zero-extends bits [31:0]. (R253) -/
  | zext32 (p : PCtx) (sb : BitVec 8)
  /-- Compare equal, setting T. (R254) -/
  | ceq (p : PCtx) (sb : BitVec 8)
  /-- Compare not equal. (R254) -/
  | cne (p : PCtx) (sb : BitVec 8)
  /-- Signed less-than compare. (R254) -/
  | clt (p : PCtx) (sb : BitVec 8)
  /-- Signed less-or-equal compare. (R254) -/
  | cle (p : PCtx) (sb : BitVec 8)
  /-- Signed greater-than compare. (R254) -/
  | cgt (p : PCtx) (sb : BitVec 8)
  /-- Signed greater-or-equal compare. (R254) -/
  | cge (p : PCtx) (sb : BitVec 8)
  /-- Unsigned less-than compare. (R254) -/
  | cltu (p : PCtx) (sb : BitVec 8)
  /-- Unsigned less-or-equal compare. (R254) -/
  | cleu (p : PCtx) (sb : BitVec 8)
  /-- Unsigned greater-than compare. (R254) -/
  | cgtu (p : PCtx) (sb : BitVec 8)
  /-- Unsigned greater-or-equal compare. (R254) -/
  | cgeu (p : PCtx) (sb : BitVec 8)
  /-- Tests x0 for non-zero and pops it. (R254) -/
  | tst (p : PCtx) (sb : BitVec 8)
  /-- Tests x0 for non-zero and keeps it. (R254) -/
  | tstk (p : PCtx) (sb : BitVec 8)
  /-- Pushes T. (R254) -/
  | pusht (p : PCtx) (sb : BitVec 8)
  /-- Sets T. (R254) -/
  | sett (p : PCtx) (sb : BitVec 8)
  /-- Clears T. (R254) -/
  | clrt (p : PCtx) (sb : BitVec 8)
  /-- Inverts T. (R254) -/
  | nott (p : PCtx) (sb : BitVec 8)
  /-- Selects b or a by T. (R254) -/
  | sel (p : PCtx) (sb : BitVec 8)
  /-- Loads 64 bits from DATA. (R255) -/
  | ld64 (p : PCtx) (sb : BitVec 8)
  /-- Stores 64 bits to DATA. (R255) -/
  | st64 (p : PCtx) (sb : BitVec 8)
  /-- Loads 32 bits zero-extended. (R255) -/
  | ld32u (p : PCtx) (sb : BitVec 8)
  /-- Loads 32 bits sign-extended. (R255) -/
  | ld32s (p : PCtx) (sb : BitVec 8)
  /-- Loads 16 bits zero-extended. (R255) -/
  | ld16u (p : PCtx) (sb : BitVec 8)
  /-- Loads 16 bits sign-extended. (R255) -/
  | ld16s (p : PCtx) (sb : BitVec 8)
  /-- Loads 8 bits zero-extended. (R255) -/
  | ld8u (p : PCtx) (sb : BitVec 8)
  /-- Loads 8 bits sign-extended. (R255) -/
  | ld8s (p : PCtx) (sb : BitVec 8)
  /-- Stores 32 bits. (R255) -/
  | st32 (p : PCtx) (sb : BitVec 8)
  /-- Stores 16 bits. (R255) -/
  | st16 (p : PCtx) (sb : BitVec 8)
  /-- Stores 8 bits. (R255) -/
  | st8 (p : PCtx) (sb : BitVec 8)
  /-- Loads 64 bits and advances the address. (R255) -/
  | ld64p (p : PCtx) (sb : BitVec 8)
  /-- Stores 64 bits and advances the address. (R255) -/
  | st64p (p : PCtx) (sb : BitVec 8)
  /-- Computed branch to x0. (R235) -/
  | brx (p : PCtx) (sb : BitVec 8) (nxt : BitVec 20)
  /-- Computed call to x0. (R235) -/
  | callx (p : PCtx) (sb : BitVec 8) (nxt : BitVec 20)
  /-- Returns to y0. (R235) -/
  | ret (p : PCtx) (sb : BitVec 8) (nxt : BitVec 20)
  /-- Makes every latent control-word write take effect. (R278) -/
  | sync (p : PCtx) (sb : BitVec 8)
  /-- Waits until every earlier store of the core has its response. (R256) -/
  | fence (p : PCtx) (sb : BitVec 8)
  /-- Halts the core for Weado, or raises BREAK. (R256) -/
  | brk (p : PCtx) (sb : BitVec 8)
  /-- At a parcel boundary a deliverable event source is taken: entry at its level through EVVEC, with the level added to the priority stack. (R365) -/
  | interruptEntry (c : CoreId) (hdr : BitVec 8)
  /-- A cache line fill or uncached read returns and releases the held load or fetch, or raises BUSERR. (R263) -/
  | lineFillResponse (c : CoreId) (fetch : Bool) (line : BitVec 46) (code : RspCode) (data : Line)
  /-- A core walk read returns and the walk continues, faults or enters a translation. (R317) -/
  | pageWalkResponse (c : CoreId) (ea : BitVec 52) (code : RspCode) (entry : W64)
  /-- A drained store-buffer entry's write response returns, freeing the entry or raising BUSERR_LATE. (R275) -/
  | storeDrainResponse (c : CoreId) (code : RspCode) (data : Line)
  /-- A dirty-line write-back returns, and an error raises BUSERR_LATE and drops the line. (R273) -/
  | writebackResponse (c : CoreId) (line : BitVec 46) (code : RspCode)
  /-- The spill engine moves the deepest cached cell of a full stack cache to the SPILL segment. (R288) -/
  | stackSpill (c : CoreId) (level : Fin 8) (ret : Bool) (rsp : List LineRsp)
  /-- The spill engine refills the shallowest spilled cell of a nearly empty stack cache. (R288) -/
  | stackFill (c : CoreId) (ret : Bool) (rsp : List LineRsp)
  /-- A CORECFG write takes effect at the next boundary after the pipeline, divide unit and store buffer drain. (R282) -/
  | corecfgTakeEffect (c : CoreId)
  /-- The scheduler saves the outgoing slot, loads the highest-priority READY slot and resumes it at TSPC. (R305) -/
  | taskSwitch (c : CoreId) (hdr : BitVec 8) (rsp : List LineRsp)
  /-- A hardware pulse arrives on a source; its counter, the matching task slots and the chain-trigger count are updated. (R357) -/
  | eventArrival (src : BitVec 9)
  /-- A write of EVSRCn.SET makes one arrival on the source. (R373) -/
  | evsrcSet (who : Requester) (src : BitVec 9) (val : W64)
  /-- Setting WATCHCFG.EN starts an arming pass over every entry in use, and clearing it ends every watch and empties RINGNEXT. (R402) -/
  | watchcfgEn (who : Requester) (val : W64)
  /-- A write of WATCHCFG.ARMALL arms every entry in use as on a first arming. (R389) -/
  | armall (who : Requester) (val : W64)
  /-- A write of WATCHARM.GO arms one entry as on a first arming. (R402) -/
  | watcharmGo (who : Requester) (entry : BitVec 15)
  /-- A read-for-watch response sets the entry WATCHING and compares shadows or scans Summary Map bits, or sets ERROR. (R389) -/
  | watchReadResponse (entry : BitVec 15) (code : RspCode) (data : Line)
  /-- The atomic ADD clearing a Summary Map bit returns and the group's doorbell lines are read. (R392) -/
  | summaryAddResponse (entry : BitVec 8) (code : RspCode)
  /-- A group's doorbell lines are read back and its cold rings are made eligible. (R392) -/
  | groupReadResponse (entry : BitVec 8) (k : Fin 8) (code : RspCode) (data : Line)
  /-- Every POLLGAP TCLK the polling fallback reads the next entry's line, and at the end of a sweep RING_POLL arrives. (R396) -/
  | pollRead
  /-- A read of RINGNEXT pops one eligible ring, ring 0 first, then round robin. (R399) -/
  | ringnextRead (who : Requester)
  /-- A RINGSET write with SET makes one ring eligible. (R402) -/
  | ringsetSet (who : Requester) (ring : BitVec 20)
  /-- A RINGSET write with GROUP makes every ring of a group eligible. (R402) -/
  | ringsetGroup (who : Requester) (ring : BitVec 20)
  /-- A write of DMACTL.START clears progress and errors and starts the channel. (R419) -/
  | dmaStart (who : Requester) (ch : Fin 64) (val : W64)
  /-- A write of DMACTL.RESTART on a halted channel resumes it from DMAPROG. (R417) -/
  | dmaRestart (who : Requester) (ch : Fin 64) (val : W64)
  /-- A write of DMACTL.CANCEL stops issuing and cancels the channel once its responses return. (R418) -/
  | dmaCancel (who : Requester) (ch : Fin 64) (val : W64)
  /-- Each TCLK the engine grants one read or write request of a channel, service channels first. (R413) -/
  | dmaRequestGrant
  /-- A channel read returns; an error stops the channel, which halts once its responses drain. (R416) -/
  | dmaReadResponse (ch : Fin 64) (tag : Nat) (code : RspCode) (data : Line)
  /-- A channel write response returns and advances progress, or halts the channel on an error. (R415) -/
  | dmaWriteResponse (ch : Fin 64) (tag : Nat) (code : RspCode)
  /-- A write of PWRCTL.REQ requests a power state, or is refused with ERR. (R486) -/
  | pwrctlReq (who : Requester) (val : W64)
  /-- The entry condition of a pending power request holds and the tile performs its part of the transition. (R486) -/
  | powerTransitionStart
  /-- A toggle of PWR.ACK completes the supply handshake of a transition. (R488) -/
  | pwrAckToggle
  /-- No PWR.ACK toggle arrives within ACKTMO, which sets ACKERR and raises MCHK. (R488) -/
  | pwrAckTimeout
  /-- PWR.GOOD falls outside DOZE and OFF; the tile logs it and enters OFF at once. (R490) -/
  | pwrGoodLost
  /-- A deliverable arrival, a task trigger, a halt request or a PWRCTL write ends NAP. (R487) -/
  | napWake
  /-- A PWRCTL.REQ write, a panel or supervisor arrival or a tile watchdog warning ends DOZE. (R487) -/
  | dozeWake
  /-- A TM.VBUS sample is compared with the WARN, FLUSH and OVER thresholds through the FILT filter. (R493) -/
  | vbusSample (v : BitVec 12)
  /-- BUDGET µs after the flush started, a slot-holding tile cuts its strings with FREASON 0x4. (R494) -/
  | flushBudgetExpiry
  /-- A write of PWRCTL.FLUSHDONE ends flush step 3 early. (R494) -/
  | flushdone (who : Requester)
  /-- Every outstanding response has returned; the flush is logged and the tile enters OFF when AUTOOFF = 1. (R494) -/
  | flushDrainDone
  /-- An LCCMD TRANSITION sets WIPE_PENDING and blows the fuses of the new lifecycle state, or is refused. (R503) -/
  | lccmdTransition (who : Requester) (target : BitVec 3)
  /-- An LCCMD RAISESVN raises the fused MINSVN, or is refused. (R505) -/
  | lccmdRaisesvn (who : Requester) (svn : BitVec 6)
  /-- An LCCMD WIPE sets WIPE_PENDING. (R515) -/
  | lccmdWipe (who : Requester)
  /-- A KEYCMD PROGRAM blows a key slot, or UID0 and UID1, from KEYDATA. (R505) -/
  | keycmdProgram (who : Requester) (slot : BitVec 2) (use : BitVec 3)
  /-- A KEYCMD REVOKE blows a slot's REVOKED fuse. (R505) -/
  | keycmdRevoke (who : Requester) (slot : BitVec 2)
  /-- A fuse command ends; BUSY clears, and a lifecycle transition draws a fresh challenge, drops the level to NONE and starts a warm reset. (R503) -/
  | fuseCommandDone
  /-- A write of BOOTCTL.GO checks the window and starts reading the boot image header. (R507) -/
  | bootctlGo (who : Requester) (port : Bool) (addr : BitVec 45)
  /-- The header arrives and is checked, and the payload copy through channel 63 starts, or the boot fails. (R507) -/
  | bootHeaderResponse (code : RspCode) (l0 l1 l2 l3 : Line)
  /-- Channel 63 finishes copying and hashing the payload and the signature check starts. (R507) -/
  | bootCopyDone
  /-- The signature check ends; on success BOOTVEC.0 and RUN bit 4 are set and STATE = PASSED, otherwise the boot fails. (R507) -/
  | bootVerifyDone
  /-- A write of DBGAUTH.GO requests a debug level and starts key and signature verification where needed. (R511) -/
  | dbgauthGo (who : Requester) (req : BitVec 2)
  /-- Verification ends and the level is granted or refused, counting refusals towards AUTHLOCK. (R511) -/
  | debugVerifyDone
  /-- A Weado SELECT command selects a Weado register. (R519) -/
  | wdSelect (di : W64)
  /-- A Weado READ command returns the selected register. (R519) -/
  | wdRead
  /-- A Weado WRITE command writes a selected register that has no row of its own. (R519) -/
  | wdWrite (di : W64)
  /-- A Weado VTREAD returns VTOUT and clears FULL. (R537) -/
  | vtread
  /-- A Weado VTWRITE fills VTIN when it is empty. (R537) -/
  | vtwrite (data : BitVec 32)
  /-- A write to VTOUT sets DATA and FULL, or sets OVR when FULL is already 1. (R536) -/
  | vtoutWrite (who : Requester) (val : W64)
  /-- A consuming read of VTIN returns its data and clears FULL. (R536) -/
  | vtinRead (who : Requester)
  /-- A write of DCTL.HALTREQ requests a halt of core c. (R521) -/
  | haltreq (c : CoreId) (stepMask : Bool)
  /-- At the first permitted boundary the core halts, DPC is saved and the LOCK reservation is cleared. (R522) -/
  | coreHalt (c : CoreId) (hdr : BitVec 8)
  /-- A write of DCTL.RESUME continues a halted core at DPC as a SYNC point. (R523) -/
  | debugResume (c : CoreId) (stepMask : Bool)
  /-- A write of DCTL.STEP runs a halted core for one step and halts it again. (R524) -/
  | debugStep (c : CoreId) (stepMask : Bool)
  /-- A write of DFEED executes one parcel on the halted core, or sets FEEDERR. (R526) -/
  | dfeed (c : CoreId) (parcel : BitVec 20)
  /-- A write of DPC while the core is halted changes where it resumes. (R528) -/
  | dpcWrite (c : CoreId) (val : W64)
  /-- A write of DX0 replaces x0 of the halted core's running bank. (R528) -/
  | dx0Write (c : CoreId) (val : W64)
  /-- A write of DY0 replaces y0 of the halted core's running bank. (R528) -/
  | dy0Write (c : CoreId) (val : W64)
  /-- A write of WFREEZE sets or ends the engine, DMA, scheduler, heartbeat and watchdog freezes. (R529) -/
  | wfreezeWrite (val : W64)
  /-- A write of SAMCTL.GO starts one 8-byte system access, or ends at once with RESULT 4. (R533) -/
  | samGo (val : W64)
  /-- The system access ends; BUSY clears, RESULT is set and read data lands in SAMDATA. (R535) -/
  | samResponse (code : RspCode) (data : W64)
  /-- An accepted press of PNL.ATTN makes an arrival on PANEL_ATTN and starts an evacuation when EVAC is IDLE. (R546) -/
  | panelPress
  /-- A write of PNLCTL.EVAC acts as a press. (R546) -/
  | pnlctlEvac (who : Requester) (val : W64)
  /-- A write of PNLCTL.CANCEL returns EVAC to IDLE. (R547) -/
  | pnlctlCancel (who : Requester) (val : W64)
  /-- In MIGRATING, once the tile is idle and off its role, EVAC becomes SAFE, after OFF is requested and entered when EVACOFF = 1. (R547) -/
  | evacSafe
  /-- EVAC has been MIGRATING for EVACTMO seconds; FCAUSE.EVTMO is set and a record is logged. (R548) -/
  | evacTimeout
  /-- An accepted fall of PNL.PRES outside SAFE sets SURPRISE, logs and starts the hold-up flush. (R549) -/
  | presenceLoss
  /-- An accepted rise of PNL.PRES makes an arrival on PANEL_PRESENCE and returns EVAC to IDLE. (R549) -/
  | presenceGain
  /-- An accepted rise of PNL.TAMPER triggers a wipe, drops the debug level to NONE, sets TAMPERED and logs. (R550) -/
  | tamperTrip
  /-- A watchdog's REMAIN reaches PERIOD div 4 and WDT_WARN or TWDT_WARN arrives. (R551) -/
  | watchdogWarning (wd : Watchdog)
  /-- A core watchdog reaches 0; EXPIRED is set, a record is logged and the core is reset. (R551) -/
  | coreWatchdogExpiry (c : CoreId)
  /-- The tile watchdog reaches 0; EXPIRED and FCAUSE.TWD are set, a record is logged and a warm reset follows. (R551) -/
  | tileWatchdogExpiry
  /-- A write of KICK reloads REMAIN from PERIOD. (R551) -/
  | watchdogKick (who : Requester) (wd : Watchdog) (val : W64)
  /-- WRSTN = 0 loads WS_BYPASS into the WIR and stops a running MBIST. (R558) -/
  | wrstnAssert
  /-- Wrapper instruction placing the 1-bit WBY between WSI and WSO. (R559) -/
  | wsBypass
  /-- Test instruction in which output cells drive the ports and input cells capture them. (R560) -/
  | wsExtest (cells : List (Nat × Bool))
  /-- Test instruction in which input cells drive the tile and output cells capture it. (R560) -/
  | wsIntest (cells : List (Nat × Bool))
  /-- Test instruction that drives every output to 0. (R560) -/
  | wsSafe
  /-- Loads the boundary cells for a later test instruction. (R559) -/
  | wsPreload (cells : List (Nat × Bool))
  /-- Test instruction that holds outputs at the WBR values. (R560) -/
  | wsClamp
  /-- Captures the VERSION value. (R559) -/
  | widcode
  /-- Test instruction selecting the MBIST register. (R560) -/
  | wmbist (val : W64)
  /-- Test instruction selecting the repair fuse register. (R560) -/
  | wrepair (val : W64)
  /-- Captures repair fuse entries 0 to 2. (R559) -/
  | wfuserd
  /-- An update of WMBIST with START starts the selected algorithm on all banks. (R564) -/
  | mbistStart (val : W64)
  /-- The MBIST algorithm ends and DONE, FAIL and NFAIL are set. (R563) -/
  | mbistDone
  /-- An update of WREPAIR with PROGRAM starts blowing a repair fuse entry, or is refused with ERR. (R567) -/
  | repairFuseProgram (val : W64)
  /-- Blowing of the LBANK and VALID fuses of the entry ends. (R567) -/
  | repairFuseDone
  /-- A control word from the partner tile arrives over the pair link, passing on its entry to FENCED, a relayed heartbeat or its acknowledgement, a warm or cold reset, a wipe trigger, a power request, or a RESUME or CANCEL. (R23) -/
  | pairLinkControlWord (w : PairWord)
  /-- A stopped clock shows edges again, so its domain takes any reset it missed and crossings into it resume. (R483) -/
  | clockReturn (clk : Clock)
  /-- The tile's timed part of a power transition (64 or 512 TCLK, the DOZE write-back, 5 µs after PWR.GOOD, 2 µs) ends, after which PWR.REQ changes or the new state is in force. (R486) -/
  | powerTilePartDone
  /-- An accepted change of PNL.ATTN from 1 to 0 after 20,000 samples clears PNLSTAT.ATTN. (R543) -/
  | attnRelease
  /-- An accepted change of PNL.TAMPER from 1 to 0 after 20,000 samples clears the filtered TAMPER level. (R550) -/
  | tamperClose
  /-- A parcel with a reserved MAJOR, a reserved short code or the all-zero encoding executes and raises ILLEGAL. (R250) -/
  | reservedParcel (p : PCtx) (parcel : BitVec 20)
  /-- A reserved WD.CMD code returns 0 on WD.DO and sets WSTAT.DENIED. (R519) -/
  | wdReservedCommand (cmd : BitVec 8)
  /-- Each TRCLK the trace port sends TRACEW/8 bytes from the FIFO or IDLE bytes, and sends OVF and SYNC when room returns after a drop. (R538) -/
  | tracePortTransfer
  /-- COLD_N is asserted, taking over from any warm reset, abandoning a repair copy and unfusing both tiles of a pair. (R483) -/
  | coldResetAssert
  /-- AOPOR_N is asserted or power is lost, cutting off a running fuse command or repair fuse programming. (R468) -/
  | alwaysOnResetAssert
  /-- A string-link message of a reserved type, or not addressed to this node, is dropped and counted in SLSTAT.BAD. (R424) -/
  | reservedMessage (m : Msg)
  deriving DecidableEq, Repr

end Sys2Proof
end

