-- ==== Sys2Proof/Decode.lean ====
section
/-! DEFINITION. The words that spell a command. spec/opcode_table.json gives bits to no row (95_what_each_step_holds.md: a command is one
event), so no word spells one. The parcels of the cores are read by their own fields in Machine/CoreRun.lean (R207). -/

namespace Sys2Proof

/-- The command that a word spells by the table's bits: the table gives no row any bits. -/
def decodeTableWord (_nbits _w : Nat) : Option Instr := none

end Sys2Proof
end

