-- ==== Sys2Proof/Config.lean ====
section
/-! DEFINITION. What an implementation fixes, and the FREE VALUES: constants without a body, applied to the
state's counter of free values, for every value the spec leaves open where the tile goes on (R11, notes/assumptions/5.md). -/

namespace Sys2Proof.Config

/-- The value of VERSION at patch level 0 (R2, and the example after it). -/
def version : W64 := 0x5C0A_1021_0300_0302#64

/-- A 64-bit value the spec calls unpredictable. Free: nothing constrains it. -/
opaque freeWord : Nat → W64

/-- A choice between two outcomes the spec allows. Free. -/
opaque freeBool : Nat → Bool

/-- A choice among a number of outcomes (a random replacement, a victim way). Free; used modulo the number. -/
opaque freeNat : Nat → Nat

/-- The data and check bits a bank array holds after an MBIST run (R563: any data and check bits). The first
argument numbers the run, the second is the address. -/
opaque freeByte : Nat → Nat → BitVec 8

/-- Which physical banks an MBIST run finds failing (R563, R564): a property of the silicon, which no rule fixes. -/
opaque mbistFails : Nat → Nat → Bool

end Sys2Proof.Config
end

