-- ==== Sys2Proof/Machine/Tab.lean ====
section
/-! DEFINITION. Sparse tables in one canonical form, and groups of four: the plain-data containers that State uses. -/

namespace Sys2Proof.Machine

/-- A sparse table: keys strictly rising, and no entry equal to what an unlisted key reads as. -/
abbrev Tab (α : Type) := List (Nat × α)

/-- The entry listed for a key. -/
def Tab.find {α : Type} : Tab α → Nat → Option α
  | [], _ => none
  | (k', v) :: t, k => if k' = k then some v else Tab.find t k

/-- What a key reads as, `d` being what an unlisted key reads as. -/
def Tab.get {α : Type} (d : α) (t : Tab α) (k : Nat) : α := (Tab.find t k).getD d

/-- Puts an entry at its place in the rising order. -/
def Tab.insert {α : Type} : Tab α → Nat → α → Tab α
  | [], k, v => [(k, v)]
  | (k', v') :: t, k, v =>
    if k < k' then (k, v) :: (k', v') :: t
    else if k' = k then (k, v) :: t
    else (k', v') :: Tab.insert t k v

/-- Removes a key. -/
def Tab.erase {α : Type} (t : Tab α) (k : Nat) : Tab α := t.filter (fun e => e.1 != k)

/-- Writes a key, keeping the canonical form: a value equal to the default is not listed. -/
def Tab.set {α : Type} [DecidableEq α] (d : α) (t : Tab α) (k : Nat) (v : α) : Tab α :=
  if v = d then Tab.erase t k else Tab.insert t k v

/-- Changes a key's value by a function. -/
def Tab.modify {α : Type} [DecidableEq α] (d : α) (t : Tab α) (k : Nat) (f : α → α) : Tab α :=
  Tab.set d t k (f (Tab.get d t k))

/-- The keys rise strictly. -/
def Tab.sorted {α : Type} : Tab α → Bool
  | [] => true
  | (k, _) :: t => t.all (fun e => k < e.1) && Tab.sorted t

/-- The canonical form, `d k` being what an unlisted key `k` reads as. -/
def Tab.wf {α : Type} [DecidableEq α] (d : Nat → α) (t : Tab α) : Bool :=
  Tab.sorted t && t.all (fun e => e.2 != d e.1)

/-- Four like things: the cores, the launch slots. -/
structure Quad (α : Type) where
  q0 : α
  q1 : α
  q2 : α
  q3 : α
  deriving DecidableEq, Repr

def Quad.get {α : Type} (q : Quad α) (i : Fin 4) : α :=
  match i with
  | 0 => q.q0
  | 1 => q.q1
  | 2 => q.q2
  | 3 => q.q3

def Quad.set {α : Type} (q : Quad α) (i : Fin 4) (v : α) : Quad α :=
  match i with
  | 0 => { q with q0 := v }
  | 1 => { q with q1 := v }
  | 2 => { q with q2 := v }
  | 3 => { q with q3 := v }

def Quad.all {α : Type} (q : Quad α) (p : α → Bool) : Bool := p q.q0 && p q.q1 && p q.q2 && p q.q3

def Quad.any {α : Type} (q : Quad α) (p : α → Bool) : Bool := p q.q0 || p q.q1 || p q.q2 || p q.q3

def Quad.map {α β : Type} (q : Quad α) (f : α → β) : Quad β := ⟨f q.q0, f q.q1, f q.q2, f q.q3⟩

def Quad.same {α : Type} (v : α) : Quad α := ⟨v, v, v, v⟩

def Quad.toList {α : Type} (q : Quad α) : List α := [q.q0, q.q1, q.q2, q.q3]

/-- The four indices. -/
def fours : List (Fin 4) := [0, 1, 2, 3]

end Sys2Proof.Machine
end

