-- ==== Sys2Proof/Machine/State.lean ====
section
/-! DEFINITION. The state of the tile, as plain data: every register, queue, buffer, counter, mode and pin that the spec
gives it, the queue of waiting commands, and the machine right after reset (notes/assumptions/1.md). -/

namespace Sys2Proof.Machine

/-! ## The Vector Store (spec/02_vector_store.md) -/

/-- The condition of a stored word's 72 bits (R43 to R45). -/
inductive WordErr where
  | good
  | single
  | double
  | poison
  deriving DecidableEq, Repr

/-- The bank arrays (R33). Byte `i` of the word at row `r` of physical bank `p` has the address `(p × 8192 + r) × 8 + i`.
`scramble` is `none` when an unlisted byte reads 0, and names the MBIST run that left every word with free contents (R563). -/
structure Memory where
  scramble : Option Nat
  cells : List Host.Cell
  errs : Tab WordErr
  deriving DecidableEq, Repr

/-- A 64-bit word as a requester receives it (R44). -/
structure XWord where
  data : W64
  poison : Bool
  deriving DecidableEq, Repr

/-- What a bank request does (R56, R58). -/
inductive BankOp where
  | read
  | write (data : W64) (be : BitVec 8) (poison : Bool)
  | acc (code : BitVec 4) (data : W64) (half : BitVec 2) (rm : BitVec 3) (poison : Bool)
  deriving DecidableEq, Repr

/-- Who receives the outcome of a bank request. -/
inductive ReqDest where
  /-- word `i` of load stream `opnd` of VOR `vor` of the chain in launch slot `slot` -/
  | load (slot : Fin 4) (vor opnd i : Nat)
  /-- word `i` of a line of a load stream in linear form that lies in the Vector Store window (R171) -/
  | lineWord (slot : Fin 4) (vor opnd line i : Nat)
  /-- a write whose lowest element is `e` -/
  | store (slot : Fin 4) (vor e : Nat)
  /-- a GATHER table read of element `e` -/
  | gather (slot : Fin 4) (vor e : Nat)
  /-- a SADD accumulate of element `e` -/
  | sadd (slot : Fin 4) (vor e : Nat)
  /-- word `i` of a core's line or word read -/
  | coreRead (c : CoreId) (i : Nat)
  /-- a word of a core's store-buffer drain -/
  | coreWrite (c : CoreId)
  /-- word `i` of a DMA read -/
  | dmaRead (ch : Fin 64) (tag i : Nat)
  | dmaWrite (ch : Fin 64) (tag : Nat)
  | sam
  /-- a request of the partner tile -/
  | pair (tag : BitVec 32)
  /-- the read of a core's LOCK of the word with this physical address divided by 8 (R238) -/
  | lock (c : CoreId) (w : Nat)
  /-- the write of a core's UNLOCK to that word (R239) -/
  | unlock (c : CoreId) (w : Nat)
  /-- an access of a core's spill engine or task scheduler (R288, R305) -/
  | coreEng (c : CoreId)
  /-- word `i` of the chain program of a queue entry (R148) -/
  | prog (c : CoreId) (entry : Fin 8) (i : Nat)
  | scrub
  | repair
  deriving DecidableEq, Repr

/-- A request waiting at a bank. -/
structure BankReq where
  /-- the requester number of R55 -/
  rq : Nat
  /-- local word index -/
  word : Nat
  op : BankOp
  /-- R61 permits the requester to reach a secure word -/
  secure : Bool
  /-- VCLK waited at the bank (R52) -/
  age : Nat
  /-- the starvation override is set (R52) -/
  ovr : Bool
  dest : ReqDest
  deriving DecidableEq, Repr

/-- The write half that a bank makes in the next VCLK (R48, R57, R58). -/
structure WriteHalf where
  word : Nat
  data : W64
  poison : Bool
  /-- flags the bank returns to the issuing operation (R56) -/
  flags : BitVec 8
  rq : Nat
  dest : ReqDest
  deriving DecidableEq, Repr

/-- An entry of VSMAP (R69). -/
structure VsMapEntry where
  lbank : BitVec 10
  valid : Bool
  src : Bool
  deriving DecidableEq, Repr

/-- VSREPAIR and the running copy (R70, R40). -/
structure RepairState where
  lbank : BitVec 10
  spare : BitVec 2
  busy : Bool
  err : Bool
  done : Bool
  /-- next row to copy; 8,192 when every row is copied -/
  row : Nat
  /-- the running copy's own LBANK and SPARE -/
  runLbank : BitVec 10
  runSpare : BitVec 2
  deriving DecidableEq, Repr

/-- VSECCLOG (R47). -/
structure EccLog where
  word : BitVec 23
  pbank : BitVec 10
  kind : Bool
  byScrub : Bool
  req : BitVec 5
  valid : Bool
  deriving DecidableEq, Repr

/-- A conflict or event counter of 48 bits with its saturation mark (R55, R168, R212, R283, R402). -/
structure Count48 where
  count : BitVec 48
  sat : Bool
  deriving DecidableEq, Repr

/-- The Vector Store block. -/
structure VStore where
  mem : Memory
  map0 : VsMapEntry
  map1 : VsMapEntry
  map2 : VsMapEntry
  repair : RepairState
  ceCount : BitVec 24
  ueCount : BitVec 16
  ceThresh : BitVec 16
  eccLog : EccLog
  /-- VSSCRUB (R49) -/
  interval : BitVec 32
  scrubEn : Bool
  passes : BitVec 16
  /-- the next word the scrubber visits (R48) -/
  scrubWord : Nat
  /-- VCLK left before the next scrub step -/
  scrubWait : Nat
  /-- the VSCONFn counters (R55), by requester number -/
  conf : Tab Count48
  /-- the class B pointer of each physical bank, as an offset from 12 (R51) -/
  bptr : Tab Nat
  /-- the core whose access the hub lets reach the CORE requester next (R50) -/
  hubNext : CoreId
  /-- the requests waiting at the banks, in the order issued -/
  reqs : List BankReq
  /-- the write halves of the next VCLK, by physical bank -/
  halves : Tab WriteHalf
  /-- SECROW (R66) and the wipe (R63, R64) -/
  wipePending : Bool
  wipeBusy : Bool
  wipeRow : Nat
  deny : Bool
  denyCnt : BitVec 16
  denyReq : BitVec 5
  /-- VSBASE (R67) -/
  baseEn : Bool
  base : BitVec 26
  deriving DecidableEq, Repr

/-! ## The vector engine (spec/03 to 06) -/

/-- A vector operation record (R71). -/
structure Vor where
  w0 : W64
  w1 : W64
  w2 : W64
  w3 : W64
  w4 : W64
  w5 : W64
  w6 : W64
  w7 : W64
  deriving DecidableEq, Repr

/-- What the engine captures from the issuing core at VISSUE (R169, R315): the page-table root, the privilege and the VEC
segment descriptor. -/
structure Captured where
  pg : Bool
  root : BitVec 40
  priv : BitVec 2
  vecBase : W64
  vecLim : W64
  deriving DecidableEq, Repr

/-- Where a chain program lies (R247): a Vector Store word index, or physical page addresses. -/
inductive ProgAddr where
  | word (w : W64)
  /-- the physical address of the header, and of the page that holds the lines past the first page's end -/
  | phys (pa0 pa1 : BitVec 52)
  deriving DecidableEq, Repr

/-- A status record (R155): its words W0 to W3. -/
structure StatusRec where
  w0 : W64
  w1 : W64
  w2 : W64
  w3 : W64
  deriving DecidableEq, Repr

/-- What a program read that failed reports (R148, R553 KIND 0x12). -/
structure ReadFail where
  vorx : Nat
  code : RspCode
  addr : BitVec 52
  isWord : Bool
  deriving DecidableEq, Repr

/-- How far a queued chain has come. -/
inductive EntryStage where
  | queued
  | read
  | readFailed (f : ReadFail)
  | ready
  | gone
  deriving DecidableEq, Repr

/-- An entry of a core's issue queue (R149): taken by VISSUE, released when a final record is collected (R249). -/
structure QEntry where
  taken : Bool
  prog : ProgAddr
  cap : Captured
  stage : EntryStage
  /-- Vector Store words of the program that PX has brought (R148), by word number; `none` where the read was refused -/
  got : List (Nat × Option XWord)
  /-- header words H0 to H7 once read -/
  hdr : List W64
  vors : List Vor
  /-- an arrival of TSRC is held (R372) -/
  trig : Bool
  /-- ENGTIME of the chain-done pulse that the held arrival came from (R166) -/
  trigAt : Option W64
  record : Option StatusRec
  final : Bool
  /-- a core reset has struck the issuing core: the record is discarded (R470) -/
  orphan : Bool
  deriving DecidableEq, Repr

/-- An element value on its way through the chain network. -/
structure Elem where
  val : Nat
  poison : Bool
  active : Bool
  deriving DecidableEq, Repr

/-- A stream fault held with a line or taking effect (R177, R182). -/
structure SFault where
  cause : BitVec 8
  vor : Nat
  fidx : Nat
  write : Bool
  vaddr : BitVec 48
  form : Bool
  level : BitVec 3
  pa : BitVec 52
  deriving DecidableEq, Repr

/-- A fault held with a line or a page before any action needs it (R178). -/
structure HeldFault where
  cause : BitVec 8
  level : BitVec 3
  pa : BitVec 52
  deriving DecidableEq, Repr

/-- A line of a load stream buffer (R172, R173), by its linear line number: requested, held, or held with a fault. -/
structure LineBuf where
  vor : Nat
  opnd : Nat
  vline : Nat
  /-- physical line, bits [51:6] -/
  pline : Nat
  words : Option (List XWord)
  /-- words granted so far of a line in the Vector Store window -/
  part : List (Nat × XWord)
  fault : Option HeldFault
  deriving DecidableEq, Repr

/-- A line write of a chain (R175): `port` is the requester number of the store port, 12 for PX, 13 for BSA. A line with no
byte enabled holds inactive elements only: it is translated and checked, and nothing is written (R87). -/
structure LineWrite where
  vor : Nat
  /-- the lowest element the line holds -/
  e : Nat
  /-- linear address of that element (R182) -/
  ea : Nat
  port : Nat
  vline : Nat
  pline : Nat
  be : BitVec 64
  data : Line
  pois : BitVec 8
  deriving DecidableEq, Repr

/-- What a PX or BSA access in linear form does (R171). -/
inductive PxKind where
  | gather
  | scatter
  | sadd
  deriving DecidableEq, Repr

/-- A PX or BSA access in linear form, waiting for its turn. `wait` is the physical line whose read is outstanding. -/
structure PxAcc where
  vor : Nat
  e : Nat
  kind : PxKind
  vaddr : BitVec 48
  z : Nat
  val : Nat
  poison : Bool
  wait : Option Nat
  deriving DecidableEq, Repr

/-- The accumulation of a PR VOR (R119 to R133). -/
structure RedAcc where
  /-- active elements so far -/
  count : Nat
  /-- lowest poisoned active element (R576) -/
  pois : Option Nat
  /-- the extreme or the logical result so far, and the element it came from -/
  val : Option Nat
  idx : Nat
  /-- lowest active NaN (R124) -/
  nanIdx : Option Nat
  /-- active 1 bits of FFIRST (R127) -/
  ones : Nat
  /-- IRSUM and ISCAN -/
  isum : Int
  /-- RSUM: one partial sum per tree level, as (size, value or EMPTY), the newest first (R122) -/
  tree : List (Nat × Option Nat)
  deriving DecidableEq, Repr

/-- An exact accumulator (R128) with its special-summand marks (R130). -/
structure Ax where
  sum : BitVec 4288
  snan : Bool
  zeroInf : Bool
  qnan : Bool
  pinf : Bool
  ninf : Bool
  /-- an active summand other than −0 has been added -/
  notNegZero : Bool
  /-- some active summand has been added -/
  any : Bool
  deriving DecidableEq, Repr

/-- The kinds of journal record (R191). -/
inductive JKind where
  | progress
  | suspend
  | done
  | error
  deriving DecidableEq, Repr

/-- A journal record that has fallen due (R189 to R192), without its number. -/
structure JRec where
  kind : JKind
  flags : BitVec 8
  cause : BitVec 8
  vorx : Nat
  wmark : Nat
  endt : Nat
  stalls : Nat
  deriving DecidableEq, Repr

/-- The journal of a chain (R186 to R192). It outlives the chain until its last record is acknowledged. -/
structure Journal where
  jen : Bool
  jbase : BitVec 45
  tag : BitVec 32
  slot : BitVec 7
  diepos : BitVec 3
  epoch : BitVec 32
  launchT : W64
  /-- the number of the last record issued -/
  seq : Nat
  /-- the watermark of the last record issued -/
  wmark : Nat
  waiting : Option JRec
  outstanding : Option JRec
  deriving DecidableEq, Repr

/-- Translation faults held for one stream's page (R178): the page, the stream, and whether the access writes. -/
structure PageFault where
  page : Nat
  key : Nat
  write : Bool
  f : HeldFault
  deriving DecidableEq, Repr

/-- How a chain in flight stands. -/
inductive ChainStatus where
  | running
  /-- R179 -/
  | suspended (f : SFault)
  /-- R183: RESUME has been written, and the withheld actions are retried once the engine is not frozen -/
  | resuming
  /-- R181, R184: no further action; waiting for responses, then ERROR with this cause, VOR, and failing address -/
  | ending (cause : BitVec 8) (vorx : Nat) (pa : BitVec 52)
  deriving DecidableEq, Repr

/-- A chain in flight. -/
structure Chain where
  core : CoreId
  entry : Fin 8
  /-- a core of the partner tile has issued it (R448) -/
  far : Bool
  hdr : List W64
  vors : List Vor
  cap : Captured
  /-- launch slots of its launch group, itself included (R151) -/
  group : List (Fin 4)
  launchT : W64
  time : Nat
  stalls : Nat
  flags : BitVec 8
  status : ChainStatus
  /-- the SUSPENDED record of the present suspension has been delivered -/
  told : Bool
  /-- the SUSPEND journal record of the present suspension has fallen due -/
  jtold : Bool
  /-- the actions of the present chain time have been presented -/
  presented : Bool
  /-- ENGTIME of the last CHAIN_TIME_TICK -/
  lastTick : W64
  /-- requester number of each stream's port (R139), by 8 × VOR + operand -/
  ports : Tab Nat
  /-- the launch-time windows of R176 -/
  pfLines : Nat
  wrLines : Nat
  /-- words captured by the load streams, by (8 × VOR + operand) × 2^40 + word number -/
  caps : Tab XWord
  /-- results of elements, by VOR × 2^40 + element -/
  res : Tab Elem
  /-- element groups that have entered, by VOR -/
  groups : Tab Nat
  /-- active elements met so far, by VOR (R103) -/
  rank : Tab Nat
  red : Tab RedAcc
  /-- the exact accumulator of each exact VOR whose last group has entered, by VOR (R129) -/
  axs : Tab Ax
  /-- A elements of EXPAND presented at this chain time: VOR, rank, element (R108) -/
  exp : List (Nat × Nat × Nat)
  /-- lowest element of each VOR whose write has failed, been dropped or will never be made, plus one (R188) -/
  lost : Tab Nat
  /-- elements whose writes have been presented, by VOR (R188) -/
  wpos : Tab Nat
  /-- next element that each linear load stream prefetches, by 8 × VOR + operand -/
  pfPos : Tab Nat
  lines : List LineBuf
  lwQueue : List LineWrite
  lwOut : List LineWrite
  px : List PxAcc
  pageFaults : List PageFault
  withheld : List BankReq
  /-- words still to cross the pair link at this chain time, to this tile and from it (R164) -/
  crossIn : Nat
  crossOut : Nat
  /-- what the partner tile has last reported, and what this tile has last told it (R447) -/
  peer : PeerReport
  sent : PeerReport
  journal : Journal
  /-- a SUSPEND record that RESUME has overtaken, and the line writes whose return it awaits (R189) -/
  jsusp : Option JRec
  jold : List LineWrite
  deriving DecidableEq, Repr

/-- A stream TLB entry (R169, R326). -/
structure TlbEntry where
  root : BitVec 40
  /-- TASKID.TAG for a core TLB; 0 in the stream TLB -/
  tag : BitVec 16
  /-- linear page number at the entry's size -/
  page : Nat
  /-- level of the leaf: 2, 3 or 4 -/
  level : Nat
  /-- physical base of the page -/
  base : BitVec 52
  w : Bool
  x : Bool
  t : Bool
  s : Bool
  a : Bool
  d : Bool
  g : Bool
  deriving DecidableEq, Repr

/-- A walk of the stream TLB in flight (R169): for a chain's page, the level whose entry is being read, and its address. -/
structure SWalk where
  slot : Fin 4
  cap : Captured
  page : Nat
  /-- the stream that needs the page: 8 × VOR + operand -/
  key : Nat
  level : Nat
  ea : BitVec 52
  write : Bool
  /-- INVALL has overtaken the walk (R332) -/
  stale : Bool
  /-- linear addresses that INVPG has named since it began (R332) -/
  inv : List (BitVec 48)
  deriving DecidableEq, Repr

/-- ENGFLTn (R182). -/
structure FaultRec where
  valid : Bool
  write : Bool
  core : BitVec 2
  vorx : BitVec 5
  cause : BitVec 8
  fidx : BitVec 32
  vaddr : BitVec 48
  form : Bool
  level : BitVec 3
  pa : BitVec 52
  launchT : W64
  tag : BitVec 32
  deriving DecidableEq, Repr

/-- The vector engine block. -/
structure Engine where
  /-- ENGCFG.DET as written, and in effect (R167) -/
  det : Bool
  detAct : Bool
  stall : Count48
  launch : Count48
  time : W64
  pfLines : BitVec 11
  wrLines : BitVec 11
  /-- the core that launched last (R152): 0 to 3, or in a pair 0 to 3 for EVEN and 4 to 7 for ODD (R448) -/
  lastCore : BitVec 3
  /-- ENGTIME of the last launch (R152) -/
  lastLaunch : Option W64
  /-- ENGTIME of the last rejection at the head of each core's queue (R153) -/
  rejectT : Quad (Option W64)
  /-- ENGTIME of the latest chain-done pulse of each source (R166), plus one -/
  pulses : Tab Nat
  slots : Quad (Option Chain)
  flt : Quad FaultRec
  ax0 : Ax
  ax1 : Ax
  tlb : List TlbEntry
  walks : List SWalk
  /-- journals of chains that have ended, by launch slot -/
  tails : Quad (List Journal)
  deriving DecidableEq, Repr

/-! ## Events, the error log, identity and role (spec/00, 01, 13, 21) -/

/-- EVSRCn (R373). TARGET of the fixed sources is computed when read (R359). -/
structure EvSrc where
  level : BitVec 3
  target : BitVec 2
  en : Bool
  trgen : Bool
  cnt : BitVec 8
  ovf : Bool
  trgovf : Bool
  trgcnt : BitVec 8
  deriving DecidableEq, Repr

/-- EVCTL.c, EVSTK.c and EVVEC.c (R373). -/
structure EvCore where
  thresh : BitVec 3
  nest : Bool
  active : BitVec 8
  vec : BitVec 38
  deriving DecidableEq, Repr

/-- A record of the tile error log (R552). -/
structure LogRec where
  l0 : W64
  l1 : W64
  l2 : W64
  l3 : W64
  deriving DecidableEq, Repr

/-- The tile error log and AOTIME (R552, R554). -/
structure ErrLog where
  slots : Tab LogRec
  wcount : BitVec 32
  aotime : W64
  deriving DecidableEq, Repr

/-- IDPARAM (R8). -/
structure IdParam where
  tilebase : BitVec 28
  diepos : BitVec 3
  pairpos : BitVec 2
  snoopcap : Bool
  empch : Bool
  tracew : BitVec 2
  paramerr : Bool
  deriving DecidableEq, Repr

/-- The roles of R16 to R19. -/
inductive Role where
  | spare | worker | deputy | manager | fenced
  deriving DecidableEq, Repr

/-- TILEROLE (R18), and the role reset in progress (R19, R471). -/
structure TileRole where
  role : Role
  fused : Bool
  slot : BitVec 7
  roleErr : Bool
  freason : BitVec 4
  epoch : BitVec 32
  resetting : Bool
  deriving DecidableEq, Repr
/-! ## The cores (spec/07 to 13, 20) -/

/-- A spill or fill that failed (R289): the memory fault that the first parcel needing the room or the cell raises. -/
structure SpillErr where
  code : BitVec 8
  eaddr : W64
  /-- the fault is that of the upper half of a split cell (R314, R348) -/
  split : Bool
  deriving DecidableEq, Repr

/-- The progress of a SAVEU or SAVEL under way (R243, R295): the value of the area cell, the first area, and the position in the
word sequence. -/
structure SaveProg where
  cell : W64
  start : W64
  pos : Nat
  deriving DecidableEq, Repr

/-- A stack bank: one complete context (R285, R286). -/
structure Bank where
  /-- cached operand cells, x0 first -/
  oc : List W64
  osp : BitVec 24
  /-- cached return cells, y0 first -/
  rc : List W64
  rsp : BitVec 24
  oerr : Option SpillErr
  rerr : Option SpillErr
  /-- STATUS[6:0] (R338), committed -/
  status : BitVec 7
  estat : W64
  epc : BitVec 48
  etarget : BitVec 48
  eaddr : W64
  fpc : BitVec 48
  fstat : W64
  /-- SEG.n.BASE and SEG.n.LIM (R311), committed -/
  segs : Tab (W64 × W64)
  loopcnt : BitVec 32
  flags : BitVec 5
  /-- R299 -/
  cstage : BitVec 8
  /-- R294 -/
  dirty : BitVec 4
  homeu : Option W64
  homel : Option W64
  saveu : Option SaveProg
  savel : Option SaveProg
  deriving DecidableEq, Repr

/-- What a core is doing. -/
inductive CoreSt where
  /-- its RUN bit is 0, or it is held in reset -/
  | off
  | running
  /-- WAIT has stopped issue (R369) -/
  | waiting
  /-- TSKCTL.IDLE (R306) -/
  | idle
  /-- WAIT has given up the running slot, whose context is still to be saved (R306) -/
  | switching
  /-- halted by Weado (R522) -/
  | halted
  /-- LOCKUP (R293) -/
  | locked
  deriving DecidableEq, Repr

/-- A transfer whose delay parcel executes next (R217, R219). -/
structure Delay where
  /-- the transfer parcel -/
  src : BitVec 48
  taken : Bool
  target : BitVec 48
  /-- the target's entry mark is to be checked (R206) -/
  check : Bool
  /-- the transfer is ERET (R236) -/
  eret : Bool
  deriving DecidableEq, Repr

/-- A repetition (R220 to R227). -/
structure Rep where
  addr : BitVec 48
  ni : Bool
  /-- no iteration has completed since the REP parcel -/
  first : Bool
  /-- an element of the interrupted iteration has completed (R227) -/
  mid : Bool
  deriving DecidableEq, Repr

/-- A divide in flight (R262): the level whose operand stack receives its result, and the cell, counted from the bottom of that
stack. The value is fixed at dispatch; until the divide ends no parcel takes the cell. -/
structure Divide where
  level : BitVec 3
  cell : Nat
  deriving DecidableEq, Repr

/-- The kinds of the physical attribute map (R321). -/
inductive AttrKind where
  | cached
  | uncached
  | device
  deriving DecidableEq, Repr

/-- Where a physical address of the tile's own requesters leads (R26). -/
inductive Route where
  | vs (off : Nat)
  | setup (off : Nat)
  | ext (kind : AttrKind) (emp : Bool)
  deriving DecidableEq, Repr

/-- A store-buffer entry (R275): a naturally aligned word. -/
structure SbEntry where
  /-- physical address of the word, divided by 8 -/
  word : BitVec 49
  be : BitVec 8
  data : W64
  began : Bool
  /-- the Monitor privilege of the store, for secure words -/
  secure : Bool
  /-- the Vector Store has refused it (R62) -/
  bad : Bool
  /-- where it leads, decided when it begins to drain: a change of the map applies to later accesses (R323) -/
  route : Option Route
  deriving DecidableEq, Repr

/-- A data-cache line (R269). -/
structure DLine where
  data : Line
  dirty : Bool
  deriving DecidableEq, Repr

/-- A read of a core on TFP or EMP that awaits its response (R263). -/
structure FillReq where
  line : BitVec 46
  fetch : Bool
  /-- the line is to enter a cache -/
  cache : Bool
  /-- a snoop-invalidate has met it (R284) -/
  snooped : Bool
  deriving DecidableEq, Repr

/-- What a translation is asked for (R319). -/
structure XNeed where
  w : Bool
  x : Bool
  d : Bool
  deriving DecidableEq, Repr

/-- A core walk in flight (R317). -/
structure CWalk where
  root : BitVec 40
  tag : BitVec 16
  priv : BitVec 2
  lin : BitVec 48
  need : XNeed
  level : Nat
  ea : BitVec 52
  /-- INVALL has overtaken it (R332) -/
  stale : Bool
  /-- linear addresses that INVPG has named since it began (R332) -/
  inv : List (BitVec 48)
  /-- INVWALK has overtaken it: it goes to its end, and leaves no walk-cache entry (R332, R335) -/
  late : Bool
  deriving DecidableEq, Repr

/-- A walk-cache entry (R328). -/
structure WalkEntry where
  root : BitVec 40
  level : Nat
  /-- the linear bits that index the levels down to `level` -/
  idx : Nat
  table : BitVec 52
  deriving DecidableEq, Repr

/-- What a held parcel waits for. -/
inductive HoldFor where
  /-- a word, named by its physical address divided by 8, of a line fill or of an uncached read (R263) -/
  | read (word : BitVec 49) (cached : Bool)
  /-- Vector Store words through the CORE requester (R270) -/
  | vs
  /-- its own code line -/
  | fetch (line : BitVec 46) (cached : Bool)
  /-- a table entry that a walk reads -/
  | walk (ea : BitVec 52)
  /-- store-buffer entries that must drain first (R239, R276, R331) -/
  | drain
  /-- the responses of every earlier store, for FENCE and VISSUE (R247, R256) -/
  | fence
  /-- a free store-buffer entry (R275) -/
  | sbRoom
  /-- room in a stack cache (R288) -/
  | room (ret : Bool)
  /-- a spilled cell (R288) -/
  | cell (ret : Bool)
  | divide
  /-- a free issue-queue entry (R248) -/
  | entry
  /-- a status record (R249) -/
  | record
  /-- the spill of bank 7 that precedes an entry to level 7 (R291) -/
  | seven
  /-- the walks that were in flight when INVWALK began (R332) -/
  | walks
  deriving DecidableEq, Repr

/-- A word that a held parcel has received. -/
structure Got where
  /-- physical address of the word, divided by 8 -/
  word : Nat
  data : W64
  bad : Bool
  deriving DecidableEq, Repr

/-- A memory fault that a walk has found for a held parcel, by linear page. -/
structure GotFault where
  page : Nat
  /-- the privilege of the access that walked (R319) -/
  priv : BitVec 2
  need : XNeed
  code : BitVec 8
  level : BitVec 3
  ea : BitVec 52
  deriving DecidableEq, Repr

/-- A parcel held in the pipeline, which executes again from its start when what it waits for has come. -/
structure Held where
  hdr : BitVec 8
  parcel : BitVec 20
  nxt : BitVec 20
  /-- fed by Weado (R526) -/
  feed : Bool
  why : HoldFor
  got : List Got
  faults : List GotFault
  /-- the divide of the pair's first half has written its result (R262) -/
  divided : Bool
  deriving DecidableEq, Repr

/-- How far a MOVB has come, for the overlap of R242: the cells it continues from, and the original values of the source bytes that
it has overwritten, by linear address. -/
structure MovbRun where
  src : W64
  dst : W64
  orig : List (Nat × Byte)
  deriving DecidableEq, Repr

/-- CLOCKUP (R309). -/
structure Lockup where
  locked : Bool
  level : BitVec 3
  cause : BitVec 4
  pc : BitVec 48
  deriving DecidableEq, Repr

/-- BELATE (R350). -/
structure Belate where
  pa : BitVec 52
  valid : Bool
  wb : Bool
  more : Bool
  deriving DecidableEq, Repr

/-- The states of a task slot (R302). -/
inductive SlotSt where
  | empty | ready | waiting | running
  deriving DecidableEq, Repr

/-- A task slot (R302, R309). -/
structure TSlot where
  st : SlotSt
  pri : BitVec 3
  ten : Bool
  tsrc : BitVec 9
  tovf : Bool
  tcnt : BitVec 8
  tag : BitVec 16
  pc : BitVec 48
  rpend : Bool
  areau : BitVec 43
  areal : BitVec 43
  /-- the parcel at TSPC is a checked target whose check is still due (R206): the transfer parcel's address -/
  chk : Option (BitVec 48)
  deriving DecidableEq, Repr

/-- An access of the Vector Store that an operation of the spill engine or the scheduler has made: the word, by its physical address
divided by 8, what was written, and the bank's answer. -/
structure EngAcc where
  word : Nat
  wr : Option (W64 × BitVec 8)
  data : W64
  bad : Bool
  deriving DecidableEq, Repr

/-- The operations of a core's spill engine and task scheduler (R288, R305). -/
inductive EngKind where
  | spill (level : BitVec 3) (ret : Bool)
  | fill (ret : Bool)
  /-- the slots out of and into which the scheduler switches -/
  | switch (out inn : Option Nat)
  deriving DecidableEq, Repr

/-- Such an operation while a bank still owes it an answer: it goes on with each answer, from its start, with the accesses made so
far answered as they were. -/
structure EngRun where
  kind : EngKind
  /-- the lines of TFP and EMP that its command has brought -/
  rsp : List LineRsp
  got : List EngAcc
  /-- accesses taken from `got` so far -/
  next : Nat
  /-- the access whose answer is awaited -/
  wait : Option (Nat × Option (W64 × BitVec 8))
  deriving DecidableEq, Repr

/-- The task scheduler of a core (R302, R309). -/
structure Sched where
  en : Bool
  slot : BitVec 3
  /-- the slot that a WAIT has given up, whose context the next switch saves (R306) -/
  out : BitVec 3
  /-- EN has been set and the slot is not yet RUNNING -/
  arm : Bool
  slots : Tab TSlot
  deriving DecidableEq, Repr

/-- What Weado holds for a core (R541). -/
structure CoreDbg where
  haltreq : Bool
  stepmask : Bool
  /-- a data-watch halt is due (R521) -/
  dwdue : Bool
  /-- a step is running (R524) -/
  stepping : Bool
  /-- the step has run and its halt is due (R524) -/
  stepDue : Bool
  /-- BRK has executed in a delay slot and its halt is due (R256) -/
  brkDue : Bool
  cause : BitVec 3
  feederr : Bool
  fexc : BitVec 8
  dpc : BitVec 48
  drpend : Bool
  dfaddr : W64
  /-- the core was halted when a reset struck it (R525) -/
  haltAtStart : Bool
  /-- the core resumes as soon as the fed parcel that still runs has ended (R532) -/
  resumeDue : Bool
  deriving DecidableEq, Repr

/-- A core. -/
structure Core where
  st : CoreSt
  /-- the parcel that executes next (R203) -/
  pc : BitVec 48
  level : BitVec 3
  banks : Tab Bank
  /-- the value still in force of every control word with a latent write (R278), by control-word number -/
  latent : Tab W64
  ptroot : W64
  fentry : W64
  tag : BitVec 16
  delay : Option Delay
  /-- the next parcel is a checked target; the transfer parcel's address (R206) -/
  chk : Option (BitVec 48)
  rep : Option Rep
  /-- the next parcel is fetched to resume a repetition (R225) -/
  repResume : Bool
  /-- an ERET or a RESUME leads to that fetch, and until it has read NI no event is delivered (R225, R226) -/
  repHold : Bool
  /-- the LOCK reservation, a physical line (R238) -/
  lockRes : Option (BitVec 46)
  divide : Option Divide
  sb : List SbEntry
  icache : Tab Line
  dcache : Tab DLine
  /-- write-backs whose response is awaited (R273) -/
  wbs : List (BitVec 46 × Line)
  fills : List FillReq
  walks : List CWalk
  tlb : List TlbEntry
  wcache : List WalkEntry
  held : Option Held
  movb : Option MovbRun
  /-- the code line last fetched past the instruction cache -/
  code : Option (BitVec 48)
  lbact : Bool
  lbprev : Option (BitVec 48)
  /-- CORECFG as written, and in force (R282) -/
  cfg : BitVec 5
  act : BitVec 5
  pairser : Count48
  detvoid : Count48
  stall : Count48
  /-- the core has run since CSTALL was last written or reset -/
  ran : Bool
  /-- an operation of the spill engine or the task scheduler that waits for the Vector Store -/
  eng : Option EngRun
  lockup : Lockup
  exvec : BitVec 38
  belate : Belate
  sched : Sched
  dbg : CoreDbg
  deriving DecidableEq, Repr

/-! ## Weado and trace (spec/20_weado_debug.md) -/

/-- SAMCTL, SAMADDR, SAMDATA and the access that runs (R533, R541). -/
structure Sam where
  write : Bool
  consume : Bool
  posted : Bool
  space : BitVec 2
  be : BitVec 8
  busy : Bool
  result : BitVec 3
  addr : BitVec 52
  data : W64
  /-- the running access awaits a response of TFP or EMP at this line -/
  out : Option (BitVec 52)
  /-- the running access is a read -/
  rd : Bool
  deriving DecidableEq, Repr

/-- TRCTL and the trace FIFO (R538 to R541). -/
structure Trace where
  en : Bool
  kinds : BitVec 6
  cores : BitVec 4
  dwhalt : Bool
  drops : BitVec 16
  fifo : List Byte
  /-- packets dropped since room was last short, to be told by OVF -/
  lost : Nat
  /-- packets since the last SYNC -/
  since : Nat
  /-- bytes still to send of the packet whose header has been sent -/
  mid : Nat
  /-- the bytes on TR.DATA, earliest first; empty while TR.VALID is 0 -/
  port : List Byte
  deriving DecidableEq, Repr

/-- VTOUT and VTIN (R536). -/
structure Vterm where
  outData : BitVec 32
  outFull : Bool
  outOvr : Bool
  inData : BitVec 32
  inFull : Bool
  deriving DecidableEq, Repr

/-- Weado's registers (R541), apart from those of the cores. -/
structure Weado where
  wfreeze : BitVec 11
  sel : BitVec 12
  dwaddr : W64
  dwmask : W64
  denied : Bool
  sam : Sam
  tr : Trace
  vt : Vterm
  /-- WD.DO of the last command -/
  wdDo : W64
  /-- commands answered with a pulse of WD.ACK -/
  acks : Nat
  deriving DecidableEq, Repr

/-! ## Rings and the Watch Table (spec/14_rings_doorbells.md) -/

/-- The states of a Watch Table entry (R388). -/
inductive WatchSt where
  | idle | arming | watching | error
  deriving DecidableEq, Repr

/-- A Watch Table entry (R388 to R390). An unlisted entry of a running arming pass has not been reached by it. -/
structure WEntry where
  st : WatchSt
  redo : Bool
  /-- its next data is handled as on a first arming (R389) -/
  first : Bool
  /-- it belongs to the arming pass that ARMBUSY reports -/
  inPass : Bool
  deriving DecidableEq, Repr

/-- Where the handling of a Summary Map line stands (R392, R441). -/
inductive ScanStep where
  /-- GRPMIRROR is out; the ring engine goes on without GRPACK at this time -/
  | mirror (until_ : Nat)
  | add
  /-- the doorbell lines of the group still awaited -/
  | reads (left : List (Fin 8))
  deriving DecidableEq, Repr

/-- A Summary Map line being handled: the bits of its word 0 not yet done, the lowest first (R392). -/
structure Scan where
  entry : BitVec 8
  bits : W64
  step : ScanStep
  deriving DecidableEq, Repr

/-- A watch or polling read that is outstanding; `discard` when its data no longer counts (R403). -/
structure WRead where
  entry : Nat
  discard : Bool
  deriving DecidableEq, Repr

/-- The ring engine and its registers (R388, R399, R402). -/
structure Rings where
  en : Bool
  nhot : BitVec 15
  pollgap : BitVec 16
  rcabase : BitVec 25
  dbbase : BitVec 29
  smbase : BitVec 38
  entries : Tab WEntry
  /-- shadows of hot doorbells, by ring (R388) -/
  shadows : Tab (BitVec 32)
  /-- the next entry an arming pass issues -/
  pass : Option Nat
  /-- entries waiting to be armed, in entry order -/
  queue : List Nat
  reads : List WRead
  scans : List Scan
  /-- responses still owed to scans that have ended early: the ADD (`none`) or a group read of an entry -/
  late : List (BitVec 8 × Option (Fin 8))
  /-- eligible rings, by group (R387) -/
  elig : Tab W64
  /-- the round-robin pointer of R399 -/
  ptr : Nat
  /-- the next entry that the polling sweep reads (R396) -/
  pollNext : Nat
  errPa : BitVec 52
  errValid : Bool
  errCode : BitVec 2
  errMore : Bool
  snoopCnt : Count48
  pollCnt : Count48
  deriving DecidableEq, Repr

/-! ## DMA channels (spec/15_dma.md) -/

/-- DMASTAT.STATE (R419). -/
inductive DmaSt where
  | idle | running | done | halted | cancelled
  deriving DecidableEq, Repr

/-- A walk of one side's byte sequence (R406, R407, R409). -/
structure DWalk where
  /-- address of the next list entry -/
  next : Nat
  /-- the sequence has no byte after the current piece -/
  last : Bool
  /-- the current piece: its address, the bytes left of it, the entry it came from -/
  piece : Nat
  left : Nat
  entry : Nat
  /-- consecutive entries that carried no byte (R408) -/
  empties : Nat
  /-- bytes still to skip after RESTART (R417) -/
  skip : Nat
  fetching : Bool
  deriving DecidableEq, Repr

/-- Bytes read and not yet written: the position of the first, the bytes, and the list entry that gave them. -/
structure DChunk where
  pos : Nat
  bytes : List Byte
  entry : Nat
  deriving DecidableEq, Repr

/-- What a DMA read is for. -/
inductive DReadKind where
  | data
  /-- an entry of the source list, or of the destination list -/
  | list (dst : Bool)
  deriving DecidableEq, Repr

/-- An outstanding DMA read. `part` holds the Vector Store words granted so far, of `words` in all; `words` is 0 for a read on
TFP or EMP. -/
structure DRead where
  tag : Nat
  kind : DReadKind
  addr : Nat
  len : Nat
  pos : Nat
  entry : Nat
  words : Nat
  part : List (Nat × XWord)
  refused : Bool
  deriving DecidableEq, Repr

/-- An outstanding DMA write. -/
structure DWrite where
  tag : Nat
  addr : Nat
  len : Nat
  pos : Nat
  /-- Vector Store words not yet granted; 0 for a write on TFP or EMP -/
  words : Nat
  refused : Bool
  /-- the bytes written -/
  bytes : List Byte
  deriving DecidableEq, Repr

/-- DMAERR.n (R419). -/
structure DmaErr where
  pa : BitVec 52
  valid : Bool
  dir : Bool
  list : Bool
  code : BitVec 4
  more : Bool
  deriving DecidableEq, Repr

/-- Why a channel issues nothing more and waits for its responses (R416, R418). -/
inductive DmaStop where
  | none | halt | cancel
  deriving DecidableEq, Repr

/-- A DMA channel (R404, R419). -/
structure Chan where
  st : DmaSt
  stop : DmaStop
  fixs : Bool
  fixd : Bool
  esize : BitVec 2
  src : BitVec 52
  dst : BitVec 52
  len : BitVec 32
  prog : Nat
  err : DmaErr
  sw : DWalk
  dw : DWalk
  /-- the next byte to read, and the next to write -/
  rpos : Nat
  wpos : Nat
  chunks : List DChunk
  reads : List DRead
  writes : List DWrite
  /-- byte ranges above DMAPROG whose write has returned OKAY -/
  acked : List (Nat × Nat)
  tag : Nat
  deriving DecidableEq, Repr

/-- The DMA engine: channels by number, and the round-robin pointers of R413. -/
structure Dma where
  chans : Tab Chan
  svcPtr : Nat
  listPtr : Nat
  deriving DecidableEq, Repr

/-! ## The troupe controller and the pair link (spec/16_troupe_macaron.md) -/

/-- SLOTTAB.s.STATE (R451). -/
inductive SlotState where
  | empty | admitting | live | dead
  deriving DecidableEq, Repr

/-- SLOTTAB.s (R451), with what the manager's hub records for the slot (R425, R428). -/
structure SlotEnt where
  st : SlotState
  fused : Bool
  node : BitVec 8
  epoch : BitVec 32
  /-- arrival of the latest HBACK or ADMITACK, in ns -/
  ackAt : Nat
  /-- the round it echoed -/
  ackRound : BitVec 16
  deriving DecidableEq, Repr

/-- A running SLCMD (R433, R437): the slot or node, and the time at which it times out. -/
inductive SlBusy where
  | no
  | admission (slot : BitVec 7) (until_ : Nat)
  | appoint (node : BitVec 8) (until_ : Nat)
  deriving DecidableEq, Repr

/-- A claim of the arbitration word (R438, R439). -/
inductive ClaimSt where
  | no
  | out
  /-- the next attempt of a deputy, in ns -/
  | retry (at_ : Nat)
  /-- the manager's claim has failed: its lease runs out -/
  | lost
  deriving DecidableEq, Repr

/-- The troupe controller (R421 to R442, R451). Times are in ns of SLCLK time. -/
structure Troupe where
  now : Nat
  node : BitVec 8
  mnode : BitVec 8
  dnode : BitVec 8
  dvalid : Bool
  solo : Bool
  dgen : BitVec 6
  mepoch : BitVec 32
  arb : BitVec 43
  busy : SlBusy
  result : BitVec 3
  stale : BitVec 16
  bad : BitVec 16
  rxovf : BitVec 16
  slots : Tab SlotEnt
  hbseq : BitVec 16
  /-- when the manager's next round, or the deputy's next DEPHB, falls due -/
  nextRound : Nat
  /-- the rounds whose times are recorded: sent by the manager, received by a worker or deputy (R426, R438) -/
  rounds : List (BitVec 16 × Nat)
  leaseEnd : Option Nat
  /-- the latest round the deputy has echoed (R425) -/
  depRound : BitVec 16
  /-- receipt of the deputy's latest HEARTBEAT (R439) -/
  lastHb : Nat
  claim : ClaimSt
  /-- nodes answered with FENCED, and when (R430) -/
  fencedAt : Tab Nat
  /-- the deputy's group map, by 64 groups (R441) -/
  groups : Tab W64
  releasing : Bool
  /-- the slot of the last term, which notices still name in FENCED (R435's example, R442) -/
  lastSlot : BitVec 7
  sltxw : Tab W64
  txType : BitVec 8
  txSlot : BitVec 7
  txDep : Bool
  refused : Bool
  slrx : List Msg
  ovf : Bool
  /-- messages sent on SL.TX, the oldest first -/
  tx : List Msg
  deriving DecidableEq, Repr

/-- PAIRCTL and the pair link (R443 to R451). -/
structure Pair where
  busy : Bool
  err : BitVec 4
  linkup : Bool
  /-- when the wait for the partner's FUSE ends, in ns -/
  until_ : Nat
  /-- the rounds of relayed HEARTBEATs whose acknowledgement is awaited (R449) -/
  relay : List (BitVec 16)
  /-- the ODD tile's part of a release or role reset has ended: told to EVEN, or heard by it (R23) -/
  drained : Bool
  /-- control words sent on PL.TX, the oldest first -/
  tx : List PairWord
  /-- words sent on PL.TX in answer to the partner's requests: tag, word, refused -/
  answers : List (BitVec 32 × XWord × Bool)
  /-- PX and BSA requests of the partner that wait for the chain time of their lane group (R113) -/
  inbox : List PairReq
  /-- the engine freeze is on at the partner tile (R529) -/
  farFreeze : Bool
  failed : Bool
  deriving DecidableEq, Repr


/-! ## Clocks, reset and calibration (spec/17_ports_clocks_reset.md) -/

/-- Where the tile stands between its resets (R468, R473, R475, R484). -/
inductive Phase where
  /-- AOPOR_N is asserted -/
  | aopor
  /-- COLD_N is asserted, or the tile stays in cold reset on PARAMERR (R7) -/
  | cold
  /-- step 1 to 3 of R473 runs -/
  | startup (step : Nat)
  /-- UP = 1 -/
  | up
  /-- a warm reset is asserted (R469) -/
  | warm
  /-- power state OFF -/
  | off
  deriving DecidableEq, Repr

/-- RSTCTL, RSTSTAT, BOOTVEC and CLKSTAT (R482), and the clocks that have stopped (R465, R483). -/
structure ResetClk where
  phase : Phase
  cause : BitVec 4
  warmCnt : BitVec 16
  run : BitVec 4
  bootvec : Quad (BitVec 48)
  lost : BitVec 16
  stopped : BitVec 16
  /-- stopped clocks whose domain has missed a warm reset -/
  missed : BitVec 16
  /-- a warm reset that waits for the end of the hold-up flush, with its cause (R518, R556) -/
  warmDue : Option (BitVec 4)
  deriving DecidableEq, Repr

/-- CALSTAT, CALCTL and the qualification pass (R476 to R482). -/
structure Calib where
  wanted : Bool
  running : Bool
  /-- restarts for margin in a row -/
  restarts : Nat
  band : BitVec 3
  qband : BitVec 3
  tagEmp0 : Bool
  tagEmp1 : Bool
  tagPair : Bool
  tagDroop : Bool
  qfail : Bool
  /-- the throttle stays in force until a pass succeeds: a pass failed, or a warm reset broke one off (R475, R478) -/
  keep : Bool
  qcount : BitVec 16
  retrains : BitVec 16
  margin : BitVec 7
  /-- links that retrain now -/
  trEmp0 : Bool
  trEmp1 : Bool
  trPair : Bool
  /-- the droop guard lengthens VCLK periods (R481) -/
  droop : Bool
  deriving DecidableEq, Repr

/-! ## Power states (spec/18_power_states.md) -/

/-- Where a power transition stands (R486 to R488). -/
inductive PwrStep where
  | idle
  /-- the tile's timed part runs; `up` for a transition to a higher state -/
  | part (target : BitVec 3) (up : Bool)
  /-- PWR.REQ has changed; the toggle of PWR.ACK is awaited -/
  | ack (target : BitVec 3) (up : Bool)
  deriving DecidableEq, Repr

/-- What ended step 3 of a hold-up flush, and what started it (R553 KIND 0x0C). -/
inductive FlushStage where
  | working
  /-- step 4 has run: by the budget or by FLUSHDONE -/
  | draining (done : Bool)
  deriving DecidableEq, Repr

/-- A hold-up flush (R494). -/
structure Flush where
  /-- AOTIME at its start, and the budget in µs that it keeps (R499) -/
  start : W64
  budget : Nat
  presence : Bool
  stage : FlushStage
  deriving DecidableEq, Repr

/-- PWRCTL, PWRSTAT and the power-state controller (R484 to R498). -/
structure Power where
  req : BitVec 3
  err : Bool
  autooff : Bool
  acktmo : BitVec 16
  state : BitVec 3
  emul : Bool
  /-- a request that has not been served waits for its entry condition (R486) -/
  asked : Bool
  /-- an event that ends NAP or DOZE has occurred: a PWRCTL write, or an arrival that a WAITING task slot has counted (R487) -/
  wake : Bool
  step : PwrStep
  ackerr : Bool
  goodlost : Bool
  flush : Option Flush
  /-- a flush that has tripped and waits for the end of a power transition (R496) -/
  flushDue : Option Bool
  /-- the state held before NAP -/
  before : BitVec 3
  /-- the code on PWR.REQ -/
  out : BitVec 3
  /-- AOTIME when PWR.REQ last changed, and whether the timeout has been told -/
  reqAt : W64
  told : Bool
  /-- sources whose arrivals DOZE holds (R487) -/
  heldArr : List Nat
  deriving DecidableEq, Repr

/-- SUPVCFG, SUPVSTAT and FLUSHCFG (R493, R498), with the runs of consecutive samples. -/
structure Supv where
  warn : BitVec 12
  flush : BitVec 12
  overv : BitVec 12
  filt : BitVec 4
  en : Bool
  vbus : BitVec 12
  valid : Bool
  low : Bool
  high : Bool
  /-- the FLUSH comparison is tripped -/
  under : Bool
  minv : BitVec 12
  nWarn : Nat
  nFlush : Nat
  nOver : Nat
  budget : BitVec 16
  deriving DecidableEq, Repr

/-! ## Security (spec/19_security_lifecycle.md) -/

/-- A key slot (R505). -/
structure KeySlot where
  prog : Bool
  boot : Bool
  debug : Bool
  rma : Bool
  revoked : Bool
  digest : BitVec 384
  deriving DecidableEq, Repr

/-- A running fuse command (R503, R505). -/
inductive FuseOp where
  | transition (target : BitVec 3)
  | raisesvn (svn : BitVec 6)
  | program (slot : BitVec 2) (use : BitVec 3) (digest : BitVec 384)
  | uid (u0 u1 : W64)
  | revoke (slot : BitVec 2)
  deriving DecidableEq, Repr

/-- The lifecycle fuses, key fuses and their commands (R500 to R505). -/
structure Fuses where
  lc : BitVec 3
  /-- the state in force: the fuses' state at the release of the last reset -/
  now : BitVec 3
  minsvn : BitVec 6
  keys : Quad KeySlot
  uid0 : W64
  uid1 : W64
  uidProg : Bool
  op : Option FuseOp
  lcErr : Bool
  keyErr : Bool
  keydata : Tab W64
  deriving DecidableEq, Repr

/-- Where a boot stands (R507). -/
inductive BootStep where
  | none
  | header
  | copy
  | verify
  deriving DecidableEq, Repr

/-- BOOTCTL, BOOTSTAT and the boot that runs (R506 to R510). -/
structure Boot where
  port : Bool
  addr : BitVec 45
  state : BitVec 3
  signed : Bool
  cause : BitVec 4
  svn : BitVec 6
  keyslot : BitVec 2
  step : BootStep
  /-- PORT and ADDR of the boot that runs, and of the last boot that passed -/
  cur : Bool × BitVec 45
  passed : Option (Bool × BitVec 45)
  /-- header bytes 0 to 255 -/
  hdr : List Byte
  /-- payload bytes that channel 63 has passed to the hash -/
  msg : List Byte
  deriving DecidableEq, Repr

/-- A running verification (R511): the requested level, the key slot, its outcome, and whether a tamper trip discards it (R518). -/
structure AuthRun where
  req : BitVec 2
  slot : Fin 4
  ok : Bool
  discard : Bool
  deriving DecidableEq, Repr

/-- DBGAUTH, DBGCHAL and DBGRESP (R511 to R513). -/
structure DbgAuth where
  level : BitVec 2
  /-- HALT was granted by a key with RMA = 1 -/
  byRma : Bool
  run : Option AuthRun
  denied : Bool
  fails : BitVec 4
  lock : Bool
  chal : BitVec 384
  resp : Tab W64
  deriving DecidableEq, Repr

/-! ## Service panel and watchdogs (spec/21_service_reliability.md) -/

/-- PNLCFG, PNLSTAT and PNLCTL (R543 to R550, R554). -/
structure Panel where
  evacoff : Bool
  evactmo : BitVec 16
  attn : Bool
  pres : Bool
  tamper : Bool
  evac : BitVec 2
  surprise : Bool
  tampered : Bool
  fcause : BitVec 4
  presses : BitVec 16
  locate : BitVec 2
  fwfault : Bool
  /-- AOTIME when MIGRATING began, and whether its timeout has been told -/
  since : W64
  told : Bool
  deriving DecidableEq, Repr

/-- WDCTL.c or TWDCTL (R551, R554). -/
structure Wdog where
  en : Bool
  lock : Bool
  restart : Bool
  expired : Bool
  period : BitVec 24
  remain : BitVec 24
  /-- the warning of this run has been given -/
  warned : Bool
  deriving DecidableEq, Repr

/-! ## The test wrapper (spec/22_test_wrapper.md) -/

/-- The wrapper: WIR, WBR, WMBIST, WREPAIR and the repair fuses (R557 to R568). -/
structure Wrapper where
  wir : BitVec 4
  refused : Bool
  /-- what the last capture of the WIR returned (R560) -/
  wirCap : BitVec 4
  /-- a test instruction has been taken: every core is held until a cold reset (R561) -/
  hold : Bool
  wbr : Tab Bool
  /-- the 64-bit register last captured -/
  cap : W64
  algo : BitVec 2
  mbusy : Bool
  done : Bool
  fail : Bool
  banksel : BitVec 10
  nfail : BitVec 11
  /-- MBIST runs begun, and the last one that ended -/
  runs : Nat
  lastRun : Option Nat
  lbank : BitVec 10
  spare : BitVec 2
  /-- the fuse entry being blown -/
  rbusy : Option (BitVec 2 × BitVec 10)
  rerr : Bool
  fuses : Tab (BitVec 16)
  deriving DecidableEq, Repr

/-- A response that the fabric still owes for a request whose requester a reset has struck: it is discarded when it comes (R469, R470). -/
inductive Owed where
  | dmaRead (ch : Fin 64) (tag : Nat)
  | dmaWrite (ch : Fin 64) (tag : Nat)
  | fill (c : CoreId) (fetch : Bool) (line : BitVec 46)
  | walk (c : CoreId) (ea : BitVec 52)
  | drain (c : CoreId)
  | writeback (c : CoreId) (line : BitVec 46)
  | streamLine (slot : Fin 4) (line : Nat)
  | streamWrite (slot : Fin 4) (line : Nat)
  | streamWalk (slot : Fin 4) (page : Nat)
  | journal (slot : Fin 4)
  | claim
  | sam
  deriving DecidableEq, Repr

/-- What the ports have emitted, the oldest first: snoop acknowledgements, answers on TFP.IRSP, posted writes of Weado. -/
structure Ports where
  snpack : List (BitVec 10)
  irsp : List (RspCode × W64)
  pwrites : List (BitVec 52 × BitVec 8 × W64)
  /-- the response to the last set-up window access of the tile's own requesters (R570 to R573) -/
  last : RspCode
  owed : List Owed
  deriving DecidableEq, Repr


/-! ## The state -/

structure State where
  id : IdParam
  role : TileRole
  ev : Tab EvSrc
  evc : Quad EvCore
  log : ErrLog
  vs : VStore
  eng : Engine
  /-- issue queues: the entries of each core, and the order of those not yet launched or rejected (R149) -/
  entries : Quad (Tab QEntry)
  iq : Quad (List (Fin 8))
  pamap : Tab W64
  cores : Quad Core
  weado : Weado
  rings : Rings
  dma : Dma
  troupe : Troupe
  pair : Pair
  rst : ResetClk
  cal : Calib
  pwr : Power
  supv : Supv
  fuses : Fuses
  boot : Boot
  auth : DbgAuth
  panel : Panel
  wds : Quad Wdog
  twd : Wdog
  wrap : Wrapper
  ports : Ports
  /-- the model's own counter of free values (notes/assumptions/5.md) -/
  free : Nat
  pending : List Instr
  deriving DecidableEq, Repr

/-- Why a command cannot take place. Every one is SAFE: nothing follows from a step that is refused. -/
inductive Refusal where
  /-- raised by no command: every arm of Machine/Dispatch.lean has its meaning -/
  | notModelled (mnemonic : String)
  /-- raised by the meaning of a command that reports an event which cannot occur in the state: a response that nobody awaits
  (R457), a time that has not come, a parcel on a core that does not execute -/
  | notNow (why : String)
  deriving DecidableEq, Repr

/-- No command of the block ends in a fault: the spec gives a reaction to every error it names. -/
inductive Fault where
  deriving DecidableEq, Repr

/-! ## Reset (R468, R569; notes/assumptions/1.md) -/

def idParam0 : IdParam := ⟨0, 0, 0, false, false, 0, false⟩
def role0 : TileRole := ⟨.spare, false, 0, false, 0, 0, false⟩
def evCore0 : EvCore := ⟨0, true, 0, 0⟩
def repair0 : RepairState := ⟨0, 0, false, false, false, 0, 0, 0⟩
def eccLog0 : EccLog := ⟨0, 0, false, false, 0, false⟩
def vstore0 : VStore :=
  { mem := ⟨none, [], []⟩, map0 := ⟨0, false, false⟩, map1 := ⟨0, false, false⟩, map2 := ⟨0, false, false⟩, repair := repair0,
    ceCount := 0, ueCount := 0, ceThresh := 0x100, eccLog := eccLog0, interval := 0x957, scrubEn := true, passes := 0, scrubWord := 0,
    scrubWait := 0x957, conf := [], bptr := [], hubNext := 0, reqs := [], halves := [], wipePending := true, wipeBusy := false, wipeRow := 7680,
    deny := false, denyCnt := 0, denyReq := 0, baseEn := false, base := 0 }
def noFault : FaultRec := ⟨false, false, 0, 0, 0, 0, 0, false, 0, 0, 0, 0⟩
def zeroAx : Ax := ⟨0, false, false, false, false, false, false, false⟩
def engine0 : Engine :=
  { det := false, detAct := false, stall := ⟨0, false⟩, launch := ⟨0, false⟩, time := 0, pfLines := 1024, wrLines := 1024, lastCore := 7,
    lastLaunch := none, rejectT := Quad.same none, pulses := [], slots := Quad.same none, flt := Quad.same noFault, ax0 := zeroAx, ax1 := zeroAx, tlb := [], walks := [], tails := Quad.same [] }
def sched0 : Sched := ⟨false, 0, 0, false, []⟩
def coreDbg0 : CoreDbg := ⟨false, true, false, false, false, false, 0, false, 0, 0, false, 0, false, false⟩
/-- A core held in reset (R286, R470, R569). -/
def core0 : Core :=
  { st := .off, pc := 0, level := 0, banks := [], latent := [], ptroot := 0, fentry := 0, tag := 0, delay := none, chk := none,
    rep := none, repResume := false, repHold := false, lockRes := none, divide := none, sb := [], icache := [], dcache := [], wbs := [], fills := [],
    walks := [], tlb := [], wcache := [], held := none, movb := none, code := none, lbact := false, lbprev := none, cfg := 0xF,
    act := 0xF, pairser := ⟨0, false⟩, detvoid := ⟨0, false⟩, stall := ⟨0, false⟩, ran := false, eng := none, lockup := ⟨false, 0, 0, 0⟩, exvec := 0,
    belate := ⟨0, false, false, false⟩, sched := sched0, dbg := coreDbg0 }
def sam0 : Sam := ⟨false, false, false, 0, 0xFF, false, 0, 0, 0, none, false⟩
def trace0 : Trace := ⟨false, 0x3F, 0xF, false, 0, [], 0, 0, 0, []⟩
/-- Weado after an always-on or debug reset (R468, R541): the core watchdogs and the tile watchdog freeze with their cores. -/
def weado0 : Weado := ⟨0x1F0, 0, 0, 0, false, sam0, trace0, ⟨0, false, false, 0, false⟩, 0, 0⟩
def rings0 : Rings :=
  { en := false, nhot := 0, pollgap := 0x10, rcabase := 0, dbbase := 0, smbase := 0, entries := [], shadows := [], pass := none,
    queue := [], reads := [], scans := [], late := [], elig := [], ptr := 0, pollNext := 0, errPa := 0, errValid := false, errCode := 0,
    errMore := false, snoopCnt := ⟨0, false⟩, pollCnt := ⟨0, false⟩ }
def troupe0 : Troupe :=
  { now := 0, node := 0, mnode := 0, dnode := 0, dvalid := false, solo := false, dgen := 0, mepoch := 0, arb := 0, busy := .no,
    result := 0, stale := 0, bad := 0, rxovf := 0, slots := [], hbseq := 0, nextRound := 0, rounds := [], leaseEnd := none,
    depRound := 0, lastHb := 0, claim := .no, fencedAt := [], groups := [], releasing := false, lastSlot := 0, sltxw := [], txType := 0x20,
    txSlot := 0, txDep := false, refused := false, slrx := [], ovf := false, tx := [] }
def pair0 : Pair := ⟨false, 0, false, 0, [], false, [], [], [], false, false⟩
def resetClk0 : ResetClk := ⟨.cold, 2, 0, 0, Quad.same 0, 0, 0, 0, none⟩
def calib0 : Calib :=
  ⟨false, false, 0, 0, 0, false, false, false, false, false, false, 0, 0, 0x10, false, false, false, false⟩
def power0 : Power := ⟨0, false, true, 0x3E8, 0, false, false, false, .idle, false, false, none, none, 0, 0, 0, false, []⟩
def supv0 : Supv := ⟨0, 0, 0, 4, false, 0, false, false, false, false, 0xFFF, 0, 0, 0, 0x3E8⟩
def keySlot0 : KeySlot := ⟨false, false, false, false, false, 0⟩
/-- The fuses of a part as delivered: BLANK, nothing programmed. -/
def fuses0 : Fuses := ⟨0, 0, 0, Quad.same keySlot0, 0, 0, false, none, false, false, []⟩
def boot0 : Boot := ⟨false, 0, 0, false, 0, 0, 0, .none, (false, 0), none, [], []⟩
def auth0 : DbgAuth := ⟨0, false, none, false, 0, false, 0, []⟩
def panel0 : Panel := ⟨true, 0x3C, false, false, false, 0, false, false, 0, 0, 0, false, 0, false⟩
def wdog0 : Wdog := ⟨false, false, false, false, 0x0F4240, 0x0F4240, false⟩
def wrapper0 : Wrapper := ⟨0, false, 0, false, [], 0, 0, false, false, false, 0, 0, 0, none, 0, 0, none, false, []⟩

/-- The machine right after reset: power has just come, the always-on region is reset with WIPE_PENDING = 1, and COLD_N is still
asserted. COLD_RESET_RELEASE or AOPOR_RELEASE starts the tile. -/
def State.reset : State :=
  { id := idParam0, role := role0, ev := [], evc := Quad.same evCore0, log := ⟨[], 0, 0⟩, vs := vstore0, eng := engine0,
    entries := Quad.same [], iq := Quad.same [], pamap := [], cores := Quad.same core0, weado := weado0, rings := rings0,
    dma := ⟨[], 0, 0⟩, troupe := troupe0, pair := pair0, rst := resetClk0, cal := calib0, pwr := power0, supv := supv0,
    fuses := fuses0, boot := boot0, auth := auth0, panel := panel0, wds := Quad.same wdog0, twd := wdog0, wrap := wrapper0,
    ports := ⟨[], [], [], .okay, []⟩, free := 0, pending := [] }
end Sys2Proof.Machine
end

