-- ==== Sys2Proof/Machine/Ops.lean ====
section
/-! DEFINITION. The operations that every block shares: event arrivals, the tile error log, free values, counters. -/

namespace Sys2Proof.Machine

/-! ## Free values (R11) -/

/-- Takes a free word: an opaque value that nothing constrains. -/
def State.takeWord (s : State) : W64 × State := (Config.freeWord s.free, { s with free := s.free + 1 })
def State.takeBool (s : State) : Bool × State := (Config.freeBool s.free, { s with free := s.free + 1 })
def State.takeNat (s : State) : Nat × State := (Config.freeNat s.free, { s with free := s.free + 1 })

/-! ## Counters -/

/-- A 48-bit counter counts up, saturating (R55, R168). -/
def Count48.bump (c : Count48) (n : Nat) : Count48 :=
  if c.count.toNat + n ≥ 2 ^ 48 then ⟨BitVec.ofNat 48 (2 ^ 48 - 1), true⟩
  else ⟨c.count + BitVec.ofNat 48 n, c.sat⟩

/-- A counter that saturates at its greatest value. -/
def satInc {w : Nat} (v : BitVec w) : BitVec w := if v = BitVec.allOnes w then v else v + 1

def count0 : Count48 := ⟨0, false⟩

/-! ## Events (R357 to R374) -/

def evSrc0 : EvSrc := ⟨0, 0, false, false, 0, false, false, 0⟩

def srcEngSuspend : Nat := 0x060
def srcEngJerr : Nat := 0x061
def srcVsCe : Nat := 0x068
def srcVsUe : Nat := 0x069
def srcVsSecdeny : Nat := 0x06A
def srcVsRepair : Nat := 0x06B
def srcVsWipedone : Nat := 0x06C
def srcMchk : Nat := 0x07D
def srcDmaHalt : Nat := 0x07E
def srcRingWatch : Nat := 0x080
def srcRingCtrl : Nat := 0x081
def srcRingPoll : Nat := 0x082
def srcSlMsg : Nat := 0x090
def srcSlLease : Nat := 0x091
def srcRoleChange : Nat := 0x092
def srcPlEvent : Nat := 0x093
def srcPanelAttn : Nat := 0x0A0
def srcPanelPresence : Nat := 0x0A1
def srcPanelTamper : Nat := 0x0A2
def srcSupvWarn : Nat := 0x0B0
def srcPwrFlush : Nat := 0x0B1
def srcCalQual : Nat := 0x0B2
def srcLinkRetrain : Nat := 0x0B3
def srcWeadoVt : Nat := 0x0C0
def srcDmaDone (n : Nat) : Nat := n
def srcChainDone (c : CoreId) (e : Fin 8) : Nat := 0x040 + 8 * c.val + e.val
def srcBuserrLate (c : CoreId) : Nat := 0x070 + c.val
def srcCoreLockup (c : CoreId) : Nat := 0x074 + c.val
def srcWdtWarn (c : CoreId) : Nat := 0x078 + c.val
def srcTwdtWarn : Nat := 0x07C

/-- One arrival at a source's own counters: CNT under R360, TRGCNT under R371. -/
def EvSrc.arrive (e : EvSrc) : EvSrc :=
  let e1 := if e.en then (if e.cnt = 255 then { e with ovf := true } else { e with cnt := e.cnt + 1 }) else e
  if e1.trgen then (if e1.trgcnt = 255 then { e1 with trgovf := true } else { e1 with trgcnt := e1.trgcnt + 1 }) else e1

def State.core (s : State) (c : CoreId) : Core := s.cores.get c
def setCore (c : CoreId) (k : Core) (s : State) : State := { s with cores := s.cores.set c k }
def withCore (c : CoreId) (f : Core → Core) (s : State) : State := setCore c (f (s.core c)) s

def slot0 : TSlot := ⟨.empty, 0, false, 0, false, 0, 0, 0, false, 0, 0, none⟩

/-- An arrival reaches a task slot (R303, R370): TCNT counts, and a WAITING slot becomes READY at the cost of one arrival. -/
def TSlot.arrive (t : TSlot) : TSlot :=
  let t1 := if t.tcnt = 255 then { t with tovf := true } else { t with tcnt := t.tcnt + 1 }
  if t1.st = .waiting && t1.tcnt != 0 then { t1 with st := .ready, tcnt := t1.tcnt - 1 } else t1

def Sched.arrive (n : Nat) (d : Sched) : Sched :=
  { d with slots := (List.range 8).foldl (fun t i =>
      let x := Tab.get slot0 t i
      if x.ten && x.tsrc.toNat == n then Tab.set slot0 t i x.arrive else t) d.slots }

/-- The core a source delivers to (R359). -/
def srcTarget (n : Nat) (e : EvSrc) : Nat := if 0x070 ≤ n ∧ n ≤ 0x07B then n % 4 else e.target.toNat

/-- In deterministic mode the crossing of an event request voids exactness (R281). -/
def voidDet (c : CoreId) (s : State) : State :=
  withCore c (fun k => if k.act.getLsbD 4 then { k with detvoid := k.detvoid.bump 1 } else k) s

/-- A WAITING task slot of the core counts arrivals of source `n`. -/
def Sched.awaits (d : Sched) (n : Nat) : Bool := d.slots.any (fun x => x.2.st == .waiting && x.2.ten && x.2.tsrc.toNat == n)

/-- The sources whose arrival ends DOZE (R487). -/
def endsDoze (n : Nat) : Bool := [srcPanelAttn, srcPanelPresence, srcPanelTamper, srcSupvWarn, srcTwdtWarn].contains n

/-- The tile is in DOZE, or on its way there. -/
def dozes (s : State) : Bool :=
  s.pwr.state == 3 || (match s.pwr.step with
    | .part 3 false => true
    | .ack 3 false => true
    | _ => false)

/-- An arrival on source `n` that the hub takes (R357): its counters, and every task slot that waits on it (R370, R303), which
ends NAP, as some sources end an emulated DOZE (R487). -/
def takeArrival (n : Nat) (s : State) : State :=
  let wakes := if dozes s then endsDoze n else s.cores.any (fun k => k.sched.awaits n)
  let s1 := { s with
    ev := Tab.modify evSrc0 s.ev n EvSrc.arrive
    cores := s.cores.map (fun k => { k with sched := k.sched.arrive n })
    pwr := { s.pwr with wake := s.pwr.wake || wakes } }
  let e := Tab.get evSrc0 s.ev n
  if e.en && e.level != 0 then voidDet (BitVec.toFin (BitVec.ofNat 2 (srcTarget n e))) s1 else s1

/-- An arrival on source `n`. In DOZE the hub is stopped and the arrival is held (R487); in OFF it is lost. -/
def arrive (n : Nat) (s : State) : State :=
  if s.pwr.state = 4 then s
  else if s.pwr.state = 3 && !s.pwr.emul then { s with pwr := { s.pwr with heldArr := s.pwr.heldArr ++ [n] } }
  else takeArrival n s

/-! ## The tile error log (R552) -/

def unitEngine : Nat := 4
def unitHub : Nat := 5
def unitSec : Nat := 6
def unitPorts : Nat := 7

def logRec0 : LogRec := ⟨0, 0, 0, 0⟩

def logSlot (l : ErrLog) (n : Nat) : LogRec := Tab.get logRec0 l.slots (n % 64)

/-- The number of a new record of a unit: records made in one AOCLK stand in ascending UNIT order, so that it goes before those of a
higher unit (R552). The first argument bounds how far back that can be. -/
def logPlace (l : ErrLog) (unit : Nat) : Nat → Nat → Nat
  | 0, n => n
  | fuel + 1, n =>
    let r := logSlot l (n - 1)
    if n ≠ 0 ∧ r.l2 = l.aotime ∧ r.l0.toNat / 2 ^ 44 % 16 > unit then logPlace l unit fuel (n - 1) else n

/-- The slots with record `n` taken in the place that a later record gives up to it. -/
def logShift (l : ErrLog) (t : Tab LogRec) (n : Nat) : Tab LogRec :=
  let r := logSlot l (n - 1)
  Tab.set logRec0 t (n % 64) { r with l0 := r.l0 + 1 }

/-- Writes a record of kind `kind` (R552, R553); a record with MCHK = 1 makes an arrival on MCHK. -/
def logRecord (kind unit : Nat) (addr : BitVec 52) (detail : W64) (mchk : Bool) (s : State) : State :=
  let last := s.log.wcount.toNat
  let n := logPlace s.log unit 63 last
  let moved := (List.range (last - n)).foldl (fun t i => logShift s.log t (last - i)) s.log.slots
  let l0 := n + kind * 2 ^ 32 + s.id.diepos.toNat * 2 ^ 40 + b2n mchk * 2 ^ 43 + unit * 2 ^ 44
  let r : LogRec := ⟨BitVec.ofNat 64 l0, addr.zeroExtend 64, s.log.aotime, detail⟩
  let s1 := { s with log := { s.log with slots := Tab.set logRec0 moved (n % 64) r, wcount := s.log.wcount + 1 } }
  if mchk then arrive srcMchk s1 else s1

/-! ## Trace (R538 to R541) -/

/-- LCSTAT.LEVEL: 0 NONE, 1 OBSERVE, 2 HALT (R511, R514). -/
def dbgLevel (s : State) : Nat := s.auth.level.toNat

def setWeado (w : Weado) (s : State) : State := { s with weado := w }

/-- The little-endian bytes of a number. -/
def bytesLE (v : Nat) (n : Nat) : List Byte := (List.range n).map (fun i => BitVec.ofNat 8 (v / 2 ^ (8 * i)))

/-- The SYNC packet (R539). -/
def syncPacket (s : State) : List Byte := BitVec.ofNat 8 0x15 :: bytesLE s.eng.time.toNat 8

/-- A packet enters the trace FIFO, or is dropped and counted (R538); SYNC follows every 4,096 packets. -/
def traceEnter (pkt : List Byte) (s : State) : State :=
  let t := s.weado.tr
  if t.fifo.length + pkt.length > 4096 || t.lost != 0 then
    setWeado { s.weado with tr := { t with lost := t.lost + 1, drops := satInc t.drops } } s
  else
    let more := if t.since ≥ 4095 then syncPacket s else []
    setWeado { s.weado with tr := { t with
      fifo := t.fifo ++ pkt ++ (if t.fifo.length + pkt.length + more.length > 4096 then [] else more)
      since := if t.since ≥ 4095 then 0 else t.since + 1 } } s

/-- A trace packet of kind `kind` (R539, R541): `src` 0 to 3 for a core, 4 the engine, 5 the hub. -/
def tracePacket (kind src : Nat) (payload : List Byte) (s : State) : State :=
  let t := s.weado.tr
  if t.en && dbgLevel s != 0 && t.kinds.getLsbD (kind - 2) && (src ≥ 4 || t.cores.getLsbD src) then
    traceEnter (BitVec.ofNat 8 (kind * 16 + src) :: payload) s
  else s

/-- LAUNCH (R539). -/
def traceLaunch (c : CoreId) (e : Fin 8) (tag : BitVec 32) (s : State) : State :=
  tracePacket 5 4 (bytesLE tag.toNat 4 ++ [BitVec.ofNat 8 (c.val + 4 * e.val)]) s

/-- CHDONE (R539). -/
def traceChdone (tag : BitVec 32) (state : Nat) (flags : BitVec 8) (s : State) : State :=
  tracePacket 6 4 (bytesLE tag.toNat 4 ++ [BitVec.ofNat 8 state, flags]) s

/-! ## Roles (R17) -/

/-- Outbound writes on TFP and EMP: neither SPARE nor FENCED (R17, R412, R427, R533). -/
def outboundOk (s : State) : Bool := s.role.role != .spare && s.role.role != .fenced

/-! ## The pair link -/

def setPair (p : Pair) (s : State) : State := { s with pair := p }

/-- A pair-link control word leaves for the partner tile. -/
def sendPair (w : PairWord) (s : State) : State :=
  if s.role.fused then { s with pair := { s.pair with tx := s.pair.tx ++ [w] } } else s

/-! ## The LOCK reservation (R240) -/

/-- A write to a physical line by any requester other than core `who` clears the reservations on it. -/
def clearLocks (who : Option CoreId) (line : Nat) (s : State) : State :=
  fours.foldl (fun s c =>
    if some c != who && (s.core c).lockRes == some (BitVec.ofNat 46 line) then withCore c (fun k => { k with lockRes := none }) s else s) s

end Sys2Proof.Machine
end

