-- ==== Sys2Proof/Machine/Conds.lean ====
section
/-! DEFINITION. Conditions that one block reads of another: freezes, holds, clocks, calibration, power. -/

namespace Sys2Proof.Machine

/-- Some core is halted, or all are (R529). -/
def anyHalted (s : State) : Bool := s.cores.any (fun k => k.st == .halted)
def allHalted (s : State) : Bool := s.cores.all (fun k => k.st == .halted)

/-- Power state (R484): 0 RUN, 1 TRIM, 2 NAP, 3 DOZE, 4 OFF. -/
def pwrState (s : State) : Nat := s.pwr.state.toNat

/-- The switchable domains are supplied and clocked: not DOZE and not OFF, unless DOZE is emulated (R484, R492). -/
def hubRuns (s : State) : Bool := pwrState s ≤ 2 || (pwrState s == 3 && s.pwr.emul)

/-- VCLK runs and the Vector Store is out of cold reset. -/
def vclkRuns (s : State) : Bool :=
  hubRuns s && !s.rst.stopped.getLsbD 0 && (match s.rst.phase with
    | .up => true
    | .warm => true
    | _ => false)

/-- The switchable region has its supply and clocks, WRCK and TRCLK among them: everywhere but in OFF (R29, R484). -/
def switchedOn (s : State) : Bool := s.rst.phase != .off

/-- VCLK has edges: from the release of cold reset on, while the tile has power (R468, R473). -/
def vclkEdges (s : State) : Bool :=
  hubRuns s && !s.rst.stopped.getLsbD 0 && (match s.rst.phase with
    | .startup _ => true
    | .up => true
    | .warm => true
    | _ => false)

/-- UP = 1 and the hub runs. -/
def upRuns (s : State) : Bool := s.rst.phase == .up && hubRuns s

/-- The engine freeze of R529, as this tile's own bits set it. -/
def engFrozenHere (s : State) : Bool :=
  dbgLevel s == 2 && (s.weado.wfreeze.getLsbD 0 || (s.weado.wfreeze.getLsbD 9 && anyHalted s))

/-- The engine freeze of R529: in a fused pair it applies to both tiles. -/
def engFrozen (s : State) : Bool := engFrozenHere s || (s.role.fused && s.pair.farFreeze)

/-- Tells the partner of a fused pair that this tile's engine freeze has begun or ended since `before`. -/
def tellFreeze (before s : State) : State :=
  if engFrozenHere before == engFrozenHere s then s else sendPair (.freeze (engFrozenHere s)) s

/-- The DMA freeze of R529. -/
def dmaFrozen (s : State) : Bool :=
  dbgLevel s == 2 && (s.weado.wfreeze.getLsbD 1 || (s.weado.wfreeze.getLsbD 10 && anyHalted s))

/-- The scheduler freeze and the heartbeat freeze of R529. -/
def schedFrozen (s : State) : Bool := dbgLevel s == 2 && s.weado.wfreeze.getLsbD 2
def hbFrozen (s : State) : Bool := dbgLevel s == 2 && s.weado.wfreeze.getLsbD 3

/-- A second EMP channel is present (R6, R454). -/
def emp1Present (s : State) : Bool := s.id.empch

/-- A trained value in use carries LIGHT (R476, R477). -/
def anyLight (s : State) : Bool :=
  !s.cal.tagEmp0 || (emp1Present s && !s.cal.tagEmp1) || (s.role.fused && !s.cal.tagPair) || !s.cal.tagDroop

/-- The launch throttle (R475, R477, R478). -/
def throttleOn (s : State) : Bool := anyLight s || s.cal.qband != s.cal.band || s.cal.running || s.cal.keep

/-- A qualification pass runs (R478). -/
def qualRuns (s : State) : Bool := s.cal.running

/-- The pair link holds crossings: it retrains or has failed (R161, R449, R480). -/
def pairHeld (s : State) : Bool := s.cal.trPair || s.pair.failed

/-- Of P0 to P3, how many the chains in flight may reserve after a launch (R477, R485). -/
def pipeLimit (s : State) : Nat := if throttleOn s then 1 else if pwrState s = 1 then 2 else 4

/-- A pass waits and the launch window is empty: the pass starts before any head launches (R478, R483). -/
def passFirst (s : State) : Bool := s.cal.wanted && s.eng.slots.toList.all (fun x => x.isNone)

/-- No launch at all: the hold-up flush, FENCED, a qualification pass (R151 item 7, R427, R478). -/
def launchHeld (s : State) : Bool :=
  s.pwr.flush.isSome || s.role.role == .fenced || qualRuns s || passFirst s || s.rst.phase != .up

end Sys2Proof.Machine
end

