-- ==== Sys2Proof/Machine/Translate.lean ====
section
/-! DEFINITION. Physical routing, the physical attribute map, page-table entries and translation buffers: what cores and
engine share (R26, R27, R317 to R328). -/

namespace Sys2Proof.Machine

/-! ## Routing (R26, R27, R321 to R323) -/

/-- The offset in the Vector Store window of a physical address (R27, R67): 64 MiB, or 128 MiB while the tile is fused. -/
def vsOffset (s : State) (pa : Nat) : Option Nat :=
  let v := s.vs
  if !v.baseEn then none
  else if s.role.fused then
    (if pa / 2 ^ 27 = v.base.toNat / 2 then some (pa % 2 ^ 27) else none)
  else if pa / 2 ^ 26 = v.base.toNat then some (pa % 2 ^ 26)
  else none

/-- The offset in the tile's own set-up window. -/
def setupOffset (s : State) (pa : Nat) : Option Nat :=
  if pa / 2 ^ 24 = s.id.tilebase.toNat then some (pa % 2 ^ 24) else none

def pamapValid (w : W64) : Bool := bitAt 0 w
def pamapKind (w : W64) : AttrKind :=
  match fieldAt 1 2 w with
  | 0 => .cached
  | 1 => .uncached
  | _ => .device
def pamapEmp (w : W64) : Bool := bitAt 3 w
/-- SIZE: values below 12 act as 12, above 52 as 52. -/
def pamapSize (w : W64) : Nat := Nat.min 52 (Nat.max 12 (fieldAt 4 6 w))
def pamapHolds (w : W64) (pa : Nat) : Bool :=
  pamapValid w && pa / 2 ^ pamapSize w == (fieldAt 12 40 w * 2 ^ 12) / 2 ^ pamapSize w

/-- The lowest-numbered valid entry that holds the address decides; an address none holds is device on TFP (R322). -/
def attrOf (s : State) (pa : Nat) : AttrKind × Bool :=
  match (List.range 16).find? (fun n => pamapHolds (Tab.get 0 s.pamap n) pa) with
  | some n => (pamapKind (Tab.get 0 s.pamap n), pamapEmp (Tab.get 0 s.pamap n))
  | none => (.device, false)

def routeOf (s : State) (pa : Nat) : Route :=
  match vsOffset s pa with
  | some o => .vs o
  | none => match setupOffset s pa with
    | some o => .setup o
    | none => let a := attrOf s pa; .ext a.1 a.2

/-- For walks alone, the two windows count as device (R322). -/
def walkDevice (s : State) (pa : Nat) : Bool :=
  match routeOf s pa with
  | .ext k _ => k == .device
  | _ => true

/-- Words that the Vector Store window and word-index operands can name: twice as many in a macaron pair (R27, R28). -/
def wordSpace (s : State) : Nat := if s.role.fused then 16728064 else 8364032

/-- The local index of a word, when this tile holds it: EVEN holds words with w mod 2 = 0, ODD the others (R6, R34). -/
def homeWord (s : State) (w : Nat) : Option Nat :=
  if s.role.fused then
    (if w % 2 = (if s.id.pairpos = 2 then 1 else 0) then some (w / 2) else none)
  else some w

/-! ## Page-table entries (R317 to R319) -/

def pteV (e : W64) : Bool := bitAt 0 e
def pteL (e : W64) : Bool := bitAt 7 e
/-- ADDR << 12. -/
def pteAddr (e : W64) : Nat := fieldAt 12 40 e * 2 ^ 12

/-- The page-size exponent of a leaf at a level. -/
def levelBits (level : Nat) : Nat := 48 - 9 * level
/-- The address of the entry of `lin` in the table at `table`. -/
def entryAddr (table lin level : Nat) : Nat := table + 8 * ((lin / 2 ^ levelBits level) % 512)
/-- Whether an entry read at a level is a leaf. -/
def isLeaf (level : Nat) (e : W64) : Bool := level == 4 || (level ≥ 2 && pteL e)

/-- The translation that a leaf gives. -/
def leafEntry (root : BitVec 40) (tag : BitVec 16) (lin level : Nat) (e : W64) : TlbEntry :=
  { root := root, tag := tag, page := lin / 2 ^ levelBits level, level := level,
    base := BitVec.ofNat 52 (pteAddr e / 2 ^ levelBits level * 2 ^ levelBits level),
    w := bitAt 1 e, x := bitAt 2 e, t := bitAt 3 e, s := bitAt 4 e, a := bitAt 5 e, d := bitAt 6 e, g := bitAt 8 e }

/-- The physical address of `lin` through an entry. -/
def TlbEntry.pa (t : TlbEntry) (lin : Nat) : Nat := t.base.toNat + lin % 2 ^ levelBits t.level

def TlbEntry.holds (t : TlbEntry) (lin : Nat) : Bool := lin / 2 ^ levelBits t.level == t.page

/-- What kind of access a translation is for. -/
inductive Access where
  | read
  | write
  | fetch
  deriving DecidableEq, Repr

/-- The faults of R319. -/
inductive LeafFault where
  | prot
  | atrap
  | dtrap
  deriving DecidableEq, Repr

/-- The checks of R319, in their order, at privilege `priv`: 0 Task, 1 Supervisor, 2 Monitor. `needW` holds for a write,
LOCK or UNLOCK, `needD` for a write, UNLOCK or SADD. -/
def leafCheck (priv : Nat) (needW fetch needD : Bool) (t : TlbEntry) : Option LeafFault :=
  let privOk := if priv ≥ 2 then true else if priv = 1 then t.s else t.t
  if !(privOk && (!needW || t.w) && (!fetch || t.x)) then some .prot
  else if !t.a then some .atrap
  else if needD && !t.d then some .dtrap
  else none

/-- Two entries whose pages meet under one tag (R326). -/
def TlbEntry.samePage (a b : TlbEntry) : Bool :=
  let l := Nat.min a.level b.level
  a.root == b.root && a.tag == b.tag &&
    a.page / 2 ^ (levelBits l - levelBits a.level) == b.page / 2 ^ (levelBits l - levelBits b.level)

/-- Enters a translation: it replaces the page's old entry, or a random one when the buffer is full (R169, R326, R327). -/
def tlbEnter (cap : Nat) (victim : Nat) (t : TlbEntry) (l : List TlbEntry) : List TlbEntry :=
  let l1 := l.filter (fun e => !e.samePage t)
  let l2 := if l1.length ≥ cap then l1.eraseIdx (victim % l1.length) else l1
  l2 ++ [t]

/-! ## Segment descriptors (R311, R313) -/

def segBase (b : W64) : Nat := fieldAt 0 48 b
def segLimit (l : W64) : Nat := fieldAt 0 48 l
def segV (l : W64) : Bool := bitAt 48 l
def segR (l : W64) : Bool := bitAt 49 l
def segW (l : W64) : Bool := bitAt 50 l
def segX (l : W64) : Bool := bitAt 51 l
def segDpl (l : W64) : Nat := fieldAt 52 2 l
/-- V = 1 and a DPL that privilege `p` reaches. -/
def segUsable (p : Nat) (l : W64) : Bool := segV l && segDpl l != 3 && p ≥ segDpl l

end Sys2Proof.Machine
end

