-- ==== Sys2Proof/Machine/Rings.lean ====
section
/-! DEFINITION. The string link's sender, and the ring engine: Watch Table, Summary Map scans, eligibility, polling
(spec/14_rings_doorbells.md, R421 to R423). -/

namespace Sys2Proof.Machine

def wordAt (d : Line) (j : Nat) : W64 := d.extractLsb' (64 * j) 64

/-! ## Sending on the string link (R421, R422, R449, R561) -/

def withTroupe (f : Troupe → Troupe) (s : State) : State := { s with troupe := f s.troupe }

/-- The ODD tile of a fused pair does not use the link (R449). -/
def oddFused (s : State) : Bool := s.role.fused && s.id.pairpos == 2

/-- A message leaves on SL.TX, unless a test instruction has stopped the hub from sending (R561). -/
def sendMsg (m : Msg) (s : State) : State :=
  if s.wrap.hold || oddFused s then s else withTroupe (fun t => { t with tx := t.tx ++ [m] }) s

/-- A message of the hub: SRC and MEPOCH are the tile's own (R422). -/
def hubMsg (s : State) (type : Nat) (dst : BitVec 8) (slot : BitVec 7) (epoch : BitVec 32) (hbseq ackseq : BitVec 16) (m2 m3 m4 : W64) : Msg :=
  { type := BitVec.ofNat 8 type, src := s.troupe.node, dst := dst, slot := slot, epoch := epoch, mepoch := s.troupe.mepoch,
    hbseq := hbseq, ackseq := ackseq, m2 := m2, m3 := m3, m4 := m4, m5 := 0, m6 := 0, m7 := 0 }

/-! ## The Watch Table (R388 to R391) -/

def withRings (f : Rings → Rings) (s : State) : State := { s with rings := f s.rings }

/-- An entry that the running arming pass has not reached. -/
def wEntry0 : WEntry := ⟨.idle, false, true, true⟩

/-- The ring engine serves rings while EN = 1 and the tile is MANAGER (R17, R402). -/
def ringsOn (s : State) : Bool := s.rings.en && s.role.role == .manager

/-- The polling fallback (R396). -/
def polling (s : State) : Bool := !s.id.snoopcap

def Rings.hot (r : Rings) : Nat := Nat.min r.nhot.toNat 32512
/-- Entries in use: 0 to 255, and 256 to 255 + NHOT. -/
def Rings.inUse (r : Rings) : Nat := 256 + r.hot

/-- The line that an entry watches (R376, R388). -/
def Rings.lineOf (r : Rings) (i : Nat) : Nat :=
  if i < 256 then r.smbase.toNat * 256 + i else r.dbbase.toNat * 2 ^ 17 + (i - 256)

def Rings.entry (r : Rings) (i : Nat) : WEntry := Tab.get wEntry0 r.entries i
def setEntryW (i : Nat) (e : WEntry) (s : State) : State :=
  withRings (fun r => { r with entries := Tab.insert r.entries i e }) s

/-- Why the hub cannot access a line (R391, R456): a code of WATCHERR.CODE. An atomic or a read-for-watch cannot go to EMP. -/
def hubRefuses (s : State) (line : Nat) (tfpOnly : Bool) : Option (BitVec 2) :=
  match routeOf s (line * 64) with
  | .ext .device _ => some 3
  | .ext _ emp => if emp && tfpOnly then some 1 else none
  | _ => some 3

def errCodeOf : RspCode → BitVec 2
  | .etgt => 1
  | .epoi => 2
  | _ => 0

/-- An entry goes to ERROR (R391). -/
def watchError (i : Nat) (pa : BitVec 52) (code : BitVec 2) (s : State) : State :=
  let s1 := setEntryW i ⟨.error, false, true, false⟩ s
  let s2 := withRings (fun r => if r.errValid then { r with errMore := true } else { r with errPa := pa, errValid := true, errCode := code }) s1
  logRecord 0x04 unitHub pa (code.zeroExtend 64) true s2

def scanning (s : State) (i : Nat) : Bool := s.rings.scans.any (fun x => x.entry.toNat == i)

/-- Issues the read of one entry, or puts it in ERROR (R389, R391). An entry whose read is outstanding is armed again when that has
returned. -/
def issueArm (i : Nat) (s : State) : State :=
  let e := s.rings.entry i
  if e.st = .arming then s
  else if scanning s i then setEntryW i { e with st := .idle } s
  else
    let line := s.rings.lineOf i
    match hubRefuses s line true with
    | some c => watchError i (BitVec.ofNat 52 (line * 64)) c s
    | none => withRings (fun r => { r with reads := r.reads ++ [⟨i, false⟩] }) (setEntryW i { e with st := .arming, redo := false } s)

/-- The entry that is armed next: of the queue and of the arming pass, the lowest (R389). -/
def Rings.nextArm (r : Rings) : Option Nat :=
  match r.queue, r.pass with
  | [], p => p
  | q :: _, none => some q
  | q :: _, some p => some (Nat.min q p)

def Rings.dropArm (r : Rings) (i : Nat) : Rings :=
  { r with
    queue := r.queue.filter (fun x => x != i)
    pass := if r.pass = some i then (if i + 1 < r.inUse then some (i + 1) else none) else r.pass }

/-- Arms waiting entries while fewer than 64 watch reads are outstanding (R389). -/
def pumpWatch : Nat → State → State
  | 0, s => s
  | n + 1, s =>
    if s.rings.reads.length ≥ 64 then s
    else match s.rings.nextArm with
      | none => s
      | some i => pumpWatch n (issueArm i (withRings (fun r => r.dropArm i) s))

def pumpRings (s : State) : State := pumpWatch (s.rings.inUse + s.rings.queue.length) s

def insertSorted (x : Nat) : List Nat → List Nat
  | [] => [x]
  | y :: ys => if x < y then x :: y :: ys else if x = y then y :: ys else y :: insertSorted x ys

/-- Arms one entry, as on a first arming where `first` holds (R389, R390, R402); an entry whose read is outstanding gets a redo mark. -/
def armEntry (i : Nat) (first : Bool) (s : State) : State :=
  let e := s.rings.entry i
  if polling s then setEntryW i { e with st := (if e.st = .error then .idle else e.st), first := e.first || first, inPass := false } s
  else if e.st = .arming then setEntryW i { e with redo := true, first := e.first || first } s
  else
    pumpRings (withRings (fun r => { r with queue := insertSorted i r.queue })
      (setEntryW i { e with st := .idle, first := e.first || first } s))

/-- Every watch ends: outstanding data no longer counts (R403). -/
def dropWatches (s : State) : State :=
  withRings (fun r => { r with
    entries := [], pass := none, queue := [], pollNext := 0
    reads := r.reads.map (fun x => { x with discard := true }) }) s

/-- The responses that a scan still awaits. -/
def Scan.owed (x : Scan) : List (BitVec 8 × Option (Fin 8)) :=
  match x.step with
  | .mirror _ => []
  | .add => [(x.entry, none)]
  | .reads l => l.map (fun k => (x.entry, some k))

/-- The ring engine stops: EN is cleared or the tile leaves MANAGER (R402, R403). -/
def ringStop (s : State) : State :=
  withRings (fun r => { r with scans := [], elig := [], late := r.late ++ r.scans.flatMap Scan.owed }) (dropWatches s)

/-- An arming pass over every entry in use (R389). An entry whose read is outstanding gets a redo mark, so that the data which comes is
handled and the entry is armed again (R390). In the polling fallback, the next read of each entry counts as first. -/
def armAll (s : State) : State :=
  if polling s then withRings (fun r => { r with entries := [] }) s
  else
    let arming := s.rings.entries.filter (fun e => e.2.st == .arming)
    pumpRings (withRings (fun r => { r with
      entries := arming.map (fun e => (e.1, ⟨.arming, true, true, true⟩)), queue := [], pass := some 0 }) s)

/-! ## Eligibility (R387, R399, R400) -/

/-- Makes rings of one group eligible; a change from none to some makes one arrival on RING_WATCH. -/
def makeEligible (g : Nat) (mask : W64) (s : State) : State :=
  if mask = 0 then s
  else
    let was := s.rings.elig.isEmpty
    let s1 := withRings (fun r => { r with elig := Tab.modify 0 r.elig g (fun m => m ||| mask) }) s
    if was then arrive srcRingWatch s1 else s1

/-- Arrivals on RING_CTRL, one for each new descriptor of ring 0 (R400). More than 256 have no further effect on any counter. -/
def arriveCtrl : Nat → State → State
  | 0, s => s
  | n + 1, s => arriveCtrl n (arrive srcRingCtrl s)

/-- The data of hot entry `256 + j` (R389). -/
def handleHot (j : Nat) (first : Bool) (d : Line) (s : State) : State :=
  let words := List.range 8
  let p (w : Nat) : BitVec 32 := (wordAt d w).truncate 32
  let old (w : Nat) : BitVec 32 := Tab.get 0 s.rings.shadows (8 * j + w)
  let hits := words.filter (fun w => first || p w != old w)
  let mask : W64 := hits.foldl (fun m w => m ||| BitVec.ofNat 64 (2 ^ ((8 * j + w) % 64))) 0
  let s1 := withRings (fun r => { r with shadows := hits.foldl (fun t w => Tab.set 0 t (8 * j + w) (p w)) r.shadows }) s
  let s2 := makeEligible (8 * j / 64) mask s1
  if j = 0 then arriveCtrl (Nat.min 300 (p 0 - old 0).toNat) s2 else s2

def lowestBit (m : W64) : Option Nat := (List.range 64).find? (fun i => m.getLsbD i)

/-- The rings of a group that are cold (R375). -/
def Rings.coldMask (r : Rings) (g : Nat) : W64 :=
  (List.range 64).foldl (fun m b => if 64 * g + b < 8 * r.hot then m else m ||| BitVec.ofNat 64 (2 ^ b)) 0

/-! ## Summary Map scans (R392, R441) -/

def setScans (l : List Scan) (s : State) : State := withRings (fun r => { r with scans := l }) s

/-- A scan fails: its entry goes to ERROR, and what it still awaits is owed to nobody. -/
def scanFail (x : Scan) (pa : BitVec 52) (code : BitVec 2) (s : State) : State :=
  watchError x.entry.toNat pa code
    (withRings (fun r => { r with scans := r.scans.filter (fun y => y.entry != x.entry), late := r.late ++ x.owed }) s)

def replaceScan (x : Scan) (s : State) : State :=
  setScans (s.rings.scans.map (fun y => if y.entry = x.entry then x else y)) s

/-- Step 1 of R392 for the lowest bit of a scan: the ADD is issued, or refused. It clears the reservations on its line (R240). -/
def scanAdd (x : Scan) (s : State) : State :=
  let line := s.rings.lineOf x.entry.toNat
  match hubRefuses s line true with
  | some c => scanFail { x with step := .mirror 0 } (BitVec.ofNat 52 (line * 64)) c s
  | none => replaceScan { x with step := .add } (clearLocks none line s)

/-- The scan turns to its lowest bit: GRPMIRROR first while a deputy is appointed (R441); with no bit left the line is armed again. -/
def scanNext (x : Scan) (s : State) : State :=
  match lowestBit x.bits with
  | none =>
    let s1 := setScans (s.rings.scans.filter (fun y => y.entry != x.entry)) s
    if polling s then s1 else armEntry x.entry.toNat false s1
  | some b =>
    if s.troupe.dvalid then
      let g := 64 * x.entry.toNat + b
      let m := hubMsg s 0x12 s.troupe.dnode 0 s.troupe.mepoch 0 0 (BitVec.ofNat 64 g) 0 0
      replaceScan { x with step := .mirror (s.troupe.now + 8000) } (sendMsg m s)
    else scanAdd x s

/-- Starts the handling of a Summary Map line's data (R392). -/
def scanStart (i : Nat) (d : Line) (s : State) : State :=
  let bits := wordAt d 0
  if bits = 0 then s
  else
    let x : Scan := ⟨BitVec.ofNat 8 i, bits, .mirror 0⟩
    scanNext x (setScans (s.rings.scans ++ [x]) s)

/-- The line of group doorbells that read `k` of a scan covers. -/
def Rings.groupLine (r : Rings) (x : Scan) (k : Nat) : Nat :=
  r.dbbase.toNat * 2 ^ 17 + 8 * (64 * x.entry.toNat + (lowestBit x.bits).getD 0) + k

/-- The ADD has succeeded: the group's doorbell lines are read (R392 step 2). -/
def scanReads (x : Scan) (s : State) : State :=
  let ks : List (Fin 8) := [0, 1, 2, 3, 4, 5, 6, 7]
  match ks.find? (fun k => (hubRefuses s (s.rings.groupLine x k.val) false).isSome) with
  | some k => scanFail { x with step := .mirror 0 } (BitVec.ofNat 52 (s.rings.groupLine x k.val * 64))
      ((hubRefuses s (s.rings.groupLine x k.val) false).getD 3) s
  | none => replaceScan { x with step := .reads ks } s

/-- A group read has returned OKAY; after the last, the group's cold rings are eligible (R392 step 3). -/
def scanRead (x : Scan) (k : Fin 8) (s : State) : State :=
  let left := match x.step with
    | .reads l => l.erase k
    | _ => []
  if left.isEmpty then
    let b := (lowestBit x.bits).getD 0
    let g := 64 * x.entry.toNat + b
    let mask := s.rings.coldMask g
    let s1 := makeEligible g mask s
    let s2 := if g = 0 ∧ mask.getLsbD 0 then arrive srcRingCtrl s1 else s1
    let x1 := { x with bits := x.bits &&& ~~~ BitVec.ofNat 64 (2 ^ b), step := .mirror 0 }
    scanNext x1 (replaceScan x1 s2)
  else replaceScan { x with step := .reads left } s

/-! ## Responses and snoops -/

/-- A watch or polling read returns (R389 to R391, R396). -/
def watchResponse (i : Nat) (code : RspCode) (d : Line) (s : State) : Option State :=
  match s.rings.reads.find? (fun x => x.entry == i) with
  | none => none
  | some x =>
    let s1 := withRings (fun r => { r with reads := r.reads.erase x }) s
    if x.discard then some (pumpRings s1)
    else if code != .okay then some (pumpRings (watchError i (BitVec.ofNat 52 (s.rings.lineOf i * 64)) (errCodeOf code) s1))
    else
      let e := s.rings.entry i
      let s2 := setEntryW i { e with st := (if polling s then e.st else .watching), redo := false, first := false, inPass := e.inPass && e.redo } s1
      let s3 := if i < 256 then scanStart i d s2 else handleHot (i - 256) e.first d s2
      let s4 := if e.redo && !scanning s3 i then armEntry i false s3 else s3
      some (pumpRings s4)

/-- The ADD of a scan returns (R392). -/
def addResponse (i : BitVec 8) (code : RspCode) (s : State) : Option State :=
  if s.rings.late.contains (i, none) then some (withRings (fun r => { r with late := r.late.erase (i, none) }) s)
  else match s.rings.scans.find? (fun x => x.entry == i && x.step == .add) with
    | none => none
    | some x =>
      if code = .okay then some (scanReads x s)
      else some (scanFail { x with step := .mirror 0 } (BitVec.ofNat 52 (s.rings.lineOf i.toNat * 64)) (errCodeOf code) s)

/-- A group read of a scan returns (R392). -/
def groupResponse (i : BitVec 8) (k : Fin 8) (code : RspCode) (s : State) : Option State :=
  if s.rings.late.contains (i, some k) then some (withRings (fun r => { r with late := r.late.erase (i, some k) }) s)
  else match s.rings.scans.find? (fun x => x.entry == i && (match x.step with
      | .reads l => l.contains k
      | _ => false)) with
    | none => none
    | some x =>
      if code = .okay then some (scanRead x k s)
      else
        let rest := match x.step with
          | .reads l => l.erase k
          | _ => []
        some (scanFail { x with step := .reads rest } (BitVec.ofNat 52 (s.rings.groupLine x k.val * 64)) (errCodeOf code) s)

/-- The entry in use that watches a line (R388). -/
def Rings.entryOf (r : Rings) (line : Nat) : Option Nat :=
  if line / 256 = r.smbase.toNat then some (line % 256)
  else if line / 2 ^ 17 = r.dbbase.toNat ∧ line % 2 ^ 17 < r.hot then some (256 + line % 2 ^ 17)
  else none

/-- What a snoop-invalidate does to the Watch Table (R390, R403). -/
def snoopRings (line : Nat) (s : State) : State :=
  if !ringsOn s then s
  else match s.rings.entryOf line with
    | none => s
    | some i =>
      let s1 := withRings (fun r => { r with snoopCnt := r.snoopCnt.bump 1 }) s
      if polling s || scanning s i then s1
      else match (s.rings.entry i).st with
        | .watching => armEntry i false s1
        | .arming => setEntryW i { s.rings.entry i with redo := true } s1
        | _ => s1

/-! ## RINGNEXT, RINGSET, WATCHCFG (R399, R402) -/

/-- The lowest eligible ring other than ring 0 at or above a number. -/
def Rings.eligFrom (r : Rings) (n : Nat) : Option Nat :=
  r.elig.findSome? (fun e =>
    let m0 : W64 := if e.1 = 0 then e.2 &&& ~~~ 1 else e.2
    let m : W64 := if e.1 < n / 64 then 0 else if e.1 = n / 64 then (m0 >>> (n % 64)) <<< (n % 64) else m0
    (lowestBit m).map (fun b => 64 * e.1 + b))

/-- The ring that the next read of RINGNEXT pops. -/
def Rings.next (r : Rings) : Option Nat :=
  if (Tab.get 0 r.elig 0).getLsbD 0 then some 0
  else match r.eligFrom r.ptr with
    | some x => some x
    | none => r.eligFrom 0

/-- What RINGNEXT reads. -/
def Rings.nextWord (r : Rings) : W64 :=
  match r.next with
  | none => 0
  | some n =>
    if n < 8 * r.hot then BitVec.ofNat 64 (n + 2 ^ 20 + (Tab.get 0 r.shadows n).toNat * 2 ^ 32)
    else BitVec.ofNat 64 (n + 2 ^ 20 + 2 ^ 21)

/-- A read of RINGNEXT pops the ring. -/
def popRing (s : State) : State :=
  match s.rings.next with
  | none => s
  | some n => withRings (fun r => { r with
      elig := Tab.modify 0 r.elig (n / 64) (fun m => m &&& ~~~ BitVec.ofNat 64 (2 ^ (n % 64)))
      ptr := if n = 0 then r.ptr else (n + 1) % 2 ^ 20 }) s

/-- A write of RINGSET: no ring becomes eligible outside MANAGER. -/
def ringset (v : W64) (s : State) : State :=
  if s.role.role != .manager then s
  else
    let n := fieldAt 0 20 v
    let s1 := if bitAt 21 v then makeEligible (n / 64) (BitVec.allOnes 64) s else s
    if bitAt 20 v then makeEligible (n / 64) (BitVec.ofNat 64 (2 ^ (n % 64))) s1 else s1

/-- A write of WATCHCFG. -/
def writeWatchcfg (v : W64) (s : State) : State :=
  let old := s.rings
  let s1 := withRings (fun r => { r with
    pollgap := v.extractLsb' 20 16
    nhot := if r.en then r.nhot else v.extractLsb' 4 15
    en := bitAt 0 v }) s
  if old.en && !bitAt 0 v then ringStop s1
  else if ringsOn s1 && (!old.en || bitAt 1 v) then armAll s1
  else s1

/-- A write of WATCHARM. -/
def writeWatcharm (v : W64) (s : State) : State :=
  let i := fieldAt 0 15 v
  if bitAt 15 v && ringsOn s && i < s.rings.inUse then armEntry i true s else s

/-- The tile has become MANAGER: the ring engine starts where EN = 1 already (R17, R402). -/
def ringStart (s : State) : State := if ringsOn s then armAll s else s

/-- The deputy has become MANAGER: every group of its map is eligible, and the map is cleared (R441). -/
def ringTakeover (s : State) : State :=
  let groups := s.troupe.groups.flatMap (fun e => ((List.range 64).filter (fun b => e.2.getLsbD b)).map (fun b => 64 * e.1 + b))
  withTroupe (fun t => { t with groups := [] }) (groups.foldl (fun s g => makeEligible g (BitVec.allOnes 64) s) s)

/-- ARMBUSY (R389). -/
def Rings.armBusy (r : Rings) : Bool :=
  r.pass.isSome || r.entries.any (fun e => e.2.inPass && (e.2.st == .arming || e.2.st == .idle))

/-- WATCHCFG as it reads. -/
def watchcfgWord (s : State) : W64 :=
  BitVec.ofNat 64 (b2n s.rings.en + 4 * b2n (polling s) + 8 * b2n (ringsOn s && s.rings.armBusy) + s.rings.nhot.toNat * 2 ^ 4 +
    s.rings.pollgap.toNat * 2 ^ 20)

/-! ## Polling (R396) -/

/-- The sweep ends. -/
def sweepEnd (s : State) : State :=
  arrive srcRingPoll (withRings (fun r => { r with pollNext := 0, pollCnt := r.pollCnt.bump 1 }) s)

/-- One polling read: the next entry that is neither in ERROR, being scanned nor still read. -/
def pollStep (s : State) : State :=
  let r := s.rings
  let free (i : Nat) : Bool := (r.entry i).st != .error && !scanning s i && !r.reads.any (fun x => x.entry == i && !x.discard)
  match (List.range r.inUse).find? (fun i => i ≥ r.pollNext && free i) with
  | none => sweepEnd s
  | some i =>
    let line := r.lineOf i
    let s1 := match hubRefuses s line false with
      | some c => watchError i (BitVec.ofNat 52 (line * 64)) c s
      | none => withRings (fun r => { r with reads := r.reads ++ [⟨i, false⟩] }) s
    if i + 1 ≥ r.inUse then sweepEnd s1 else withRings (fun r => { r with pollNext := i + 1 }) s1

end Sys2Proof.Machine
end

