-- ==== Sys2Proof/Machine/Fp.lean ====
section
/-! DEFINITION. IEEE 754-2019 arithmetic in the four formats of R81, with the rounding modes of R89, the flags of R90 and
the choices of R91 to R94: operands are decoded to exact numbers, the exact result is formed, and it is rounded once. -/

namespace Sys2Proof.Machine

/-- A chain's sticky flags (R90). -/
abbrev Flags8 := BitVec 8
def flNX : Flags8 := 1
def flUF : Flags8 := 2
def flOF : Flags8 := 4
def flDZ : Flags8 := 8
def flNV : Flags8 := 16
def flSAT : Flags8 := 32

/-- A binary format: exponent bits and fraction bits. -/
structure Fmt where
  eb : Nat
  mb : Nat
  deriving DecidableEq, Repr

def fp64 : Fmt := ⟨11, 52⟩
def fp32 : Fmt := ⟨8, 23⟩
def fp16 : Fmt := ⟨5, 10⟩
def bf16 : Fmt := ⟨8, 7⟩

def Fmt.bits (f : Fmt) : Nat := 1 + f.eb + f.mb
/-- The weight of the least subnormal is 2^qmin. -/
def Fmt.qmin (f : Fmt) : Int := 2 - (2 ^ (f.eb - 1) : Nat) - (f.mb : Int)
def Fmt.infBits (f : Fmt) : Nat := (2 ^ f.eb - 1) * 2 ^ f.mb
/-- The canonical quiet NaN (R92). -/
def Fmt.nan (f : Fmt) : Nat := f.infBits + 2 ^ (f.mb - 1)
def Fmt.signBit (f : Fmt) (neg : Bool) : Nat := b2n neg * 2 ^ (f.eb + f.mb)
def Fmt.neg (f : Fmt) (x : Nat) : Bool := (x >>> (f.eb + f.mb)) % 2 == 1
/-- A value without its sign bit. -/
def Fmt.mag (f : Fmt) (x : Nat) : Nat := x % 2 ^ (f.eb + f.mb)
def Fmt.isNan (f : Fmt) (x : Nat) : Bool := f.mag x > f.infBits
/-- A NaN whose most significant fraction bit is 0 (R91). -/
def Fmt.isSnan (f : Fmt) (x : Nat) : Bool := f.isNan x && (x >>> (f.mb - 1)) % 2 == 0

/-- A decoded operand: the number (−1)^neg × m × 2^e, an infinity, or a NaN. -/
inductive FVal where
  | nan (sig : Bool)
  | inf (neg : Bool)
  | num (neg : Bool) (m : Nat) (e : Int)
  deriving DecidableEq, Repr

def Fmt.decode (f : Fmt) (x : Nat) : FVal :=
  let ex := (x >>> f.mb) % 2 ^ f.eb
  let fr := x % 2 ^ f.mb
  if f.isNan x then .nan (f.isSnan x)
  else if f.mag x = f.infBits then .inf (f.neg x)
  else if ex = 0 then .num (f.neg x) fr f.qmin
  else .num (f.neg x) (2 ^ f.mb + fr) (f.qmin + ((ex - 1 : Nat) : Int))

/-- `m / 2^d` rounded to an integer in the mode `rm` (R89), and whether anything was lost. -/
def shiftRound (rm : Nat) (neg : Bool) (m d : Nat) : Nat × Bool :=
  let q := m >>> d
  let r := m % 2 ^ d
  let half := 2 ^ d / 2
  let up : Bool :=
    if r = 0 then false
    else match rm with
      | 0 => r > half || (r == half && q % 2 == 1)
      | 1 => false
      | 2 => !neg
      | 3 => neg
      | _ => r ≥ half
  (if up then q + 1 else q, r != 0)

/-- The result of an overflow (R93). -/
def Fmt.overflow (f : Fmt) (rm : Nat) (neg : Bool) : Nat :=
  let toInf := match rm with
    | 1 => false
    | 2 => !neg
    | 3 => neg
    | _ => true
  f.signBit neg + (if toInf then f.infBits else f.infBits - 1)

/-- Rounds the exact number (−1)^neg × m × 2^e, with tininess detected after rounding (R91, R93). -/
def Fmt.round (f : Fmt) (rm : Nat) (neg : Bool) (m : Nat) (e : Int) : Nat × Flags8 :=
  if m = 0 then (f.signBit neg, 0)
  else
    let p := f.mb + 1
    let len := Nat.log2 m + 1
    let qFree : Int := e + (len : Int) - (p : Int)
    let q : Int := max qFree f.qmin
    let exact := decide (q ≤ e)
    let (sig, nx) := if exact then (m <<< (e - q).toNat, false) else shiftRound rm neg m (q - e).toNat
    let bits := (q - f.qmin).toNat * 2 ^ f.mb + sig
    if bits ≥ f.infBits then (f.overflow rm neg, flOF ||| flNX)
    else
      -- the rounding to p bits with an unbounded exponent, which decides tininess
      let sigFree := if qFree ≤ e then m <<< (e - qFree).toNat else (shiftRound rm neg m (qFree - e).toNat).1
      let top : Int := qFree + (Nat.log2 sigFree : Int)
      let tiny := decide (top < f.qmin + (f.mb : Int))
      (f.signBit neg + bits, if nx then (if tiny then flNX ||| flUF else flNX) else 0)

/-- The sign of an exact zero sum of operands of opposite sign (R94). -/
def zeroSumNeg (rm : Nat) : Bool := rm == 3

def FVal.negIf (n : Bool) : FVal → FVal
  | .nan s => .nan s
  | .inf g => .inf (g != n)
  | .num g m e => .num (g != n) m e

def FVal.isSnan : FVal → Bool
  | .nan s => s
  | _ => false

def FVal.isNan : FVal → Bool
  | .nan _ => true
  | _ => false

/-- The signed integer that a number is at the weight 2^q, for q not above its exponent. -/
def scaled (neg : Bool) (m : Nat) (e q : Int) : Int :=
  let v : Int := ((m <<< (e - q).toNat : Nat) : Int)
  if neg then -v else v

/-- The exact sum of two decoded values, rounded once (R94, R95). -/
def Fmt.addVal (f : Fmt) (rm : Nat) (x y : FVal) : Nat × Flags8 :=
  match x, y with
  | .nan s, v => (f.nan, if s || v.isSnan then flNV else 0)
  | v, .nan s => (f.nan, if s || v.isSnan then flNV else 0)
  | .inf a, .inf b => if a = b then (f.signBit a + f.infBits, 0) else (f.nan, flNV)
  | .inf a, .num _ _ _ => (f.signBit a + f.infBits, 0)
  | .num _ _ _, .inf b => (f.signBit b + f.infBits, 0)
  | .num a m e, .num b n g =>
    let q := min e g
    let t := scaled a m e q + scaled b n g q
    if t = 0 then
      (f.signBit (if m = 0 ∧ n = 0 ∧ a = b then a else zeroSumNeg rm), 0)
    else f.round rm (t < 0) t.natAbs q

/-- The exact product of two decoded values; NaN cases are the caller's. -/
def mulVal (x y : FVal) : FVal :=
  match x, y with
  | .nan s, v => .nan (s || v.isSnan)
  | v, .nan s => .nan (s || v.isSnan)
  | .inf a, .inf b => .inf (a != b)
  | .inf a, .num b n _ => if n = 0 then .nan true else .inf (a != b)
  | .num a m _, .inf b => if m = 0 then .nan true else .inf (a != b)
  | .num a m e, .num b n g => .num (a != b) (m * n) (e + g)

def Fmt.mulBits (f : Fmt) (rm : Nat) (a b : Nat) : Nat × Flags8 :=
  match mulVal (f.decode a) (f.decode b) with
  | .nan s => (f.nan, if s then flNV else 0)
  | .inf g => (f.signBit g + f.infBits, 0)
  | .num g m e => f.round rm g m e

/-- (−1)^np × (A × B) + (−1)^nc × C with one rounding: the FMA class of R95. 0 × ∞ raises NV whatever C holds. -/
def Fmt.fma (f : Fmt) (rm : Nat) (np nc : Bool) (a b c : Nat) : Nat × Flags8 :=
  let p := (mulVal (f.decode a) (f.decode b)).negIf np
  f.addVal rm p ((f.decode c).negIf nc)

def Fmt.add (f : Fmt) (rm : Nat) (a b : Nat) : Nat × Flags8 := f.addVal rm (f.decode a) (f.decode b)
def Fmt.sub (f : Fmt) (rm : Nat) (a b : Nat) : Nat × Flags8 := f.addVal rm (f.decode a) ((f.decode b).negIf true)

def Fmt.div (f : Fmt) (rm : Nat) (a b : Nat) : Nat × Flags8 :=
  match f.decode a, f.decode b with
  | .nan s, v => (f.nan, if s || v.isSnan then flNV else 0)
  | v, .nan s => (f.nan, if s || v.isSnan then flNV else 0)
  | .inf _, .inf _ => (f.nan, flNV)
  | .inf x, .num y _ _ => (f.signBit (x != y) + f.infBits, 0)
  | .num x _ _, .inf y => (f.signBit (x != y), 0)
  | .num x m e, .num y n g =>
    let neg := x != y
    if n = 0 then (if m = 0 then (f.nan, flNV) else (f.signBit neg + f.infBits, flDZ))
    else if m = 0 then (f.signBit neg, 0)
    else
      let k := f.mb + 4 + Nat.log2 n
      let q := (m <<< k) / n
      let r := (m <<< k) % n
      f.round rm neg (2 * q + b2n (r != 0)) (e - g - (k : Int) - 1)

/-- The integer square root, bit by bit from `b` downwards. -/
def isqrtFrom : Nat → Nat → Nat → Nat
  | 0, _, acc => acc
  | b + 1, m, acc =>
    let c := acc + 2 ^ b
    isqrtFrom b m (if c * c ≤ m then c else acc)

def isqrt (m : Nat) : Nat := isqrtFrom (Nat.log2 m / 2 + 1) m 0

def Fmt.sqrt (f : Fmt) (rm : Nat) (a : Nat) : Nat × Flags8 :=
  match f.decode a with
  | .nan s => (f.nan, if s then flNV else 0)
  | .inf true => (f.nan, flNV)
  | .inf false => (f.infBits, 0)
  | .num neg m e =>
    if m = 0 then (f.signBit neg, 0)
    else if neg then (f.nan, flNV)
    else
      let odd := e % 2 != 0
      let k := f.mb + 4
      let m' := (if odd then 2 * m else m) <<< (2 * k)
      let e' : Int := (if odd then e - 1 else e) - 2 * (k : Int)
      let r := isqrt m'
      f.round rm false (2 * r + b2n (r * r != m')) (e' / 2 - 1)

/-- Ordering keys of a number that is no NaN: `key` takes −0 as +0, `key0` puts −0 below +0. -/
def Fmt.key (f : Fmt) (x : Nat) : Int := if f.neg x then -(f.mag x : Int) else (f.mag x : Int)
def Fmt.key0 (f : Fmt) (x : Nat) : Int := if f.neg x then -(f.mag x : Int) - 1 else (f.mag x : Int)

def Fmt.nvSnan (f : Fmt) (a b : Nat) : Flags8 := if f.isSnan a || f.isSnan b then flNV else 0

/-- MIN and MAX of R95 (`mx` chooses MAX). -/
def Fmt.minmax (f : Fmt) (mx : Bool) (a b : Nat) : Nat × Flags8 :=
  if f.isNan a || f.isNan b then (f.nan, f.nvSnan a b)
  else (if (f.key0 a ≤ f.key0 b) != mx then a else b, 0)

/-- MINNUM and MAXNUM of R95. -/
def Fmt.minmaxnum (f : Fmt) (mx : Bool) (a b : Nat) : Nat × Flags8 :=
  let nv := f.nvSnan a b
  match f.isNan a, f.isNan b with
  | true, true => (f.nan, nv)
  | true, false => (b, nv)
  | false, true => (a, nv)
  | false, false => (if (f.key0 a ≤ f.key0 b) != mx then a else b, 0)

/-- roundToIntegralExact (R95 code 0x10). -/
def Fmt.rint (f : Fmt) (rm : Nat) (a : Nat) : Nat × Flags8 :=
  match f.decode a with
  | .nan s => (f.nan, if s then flNV else 0)
  | .inf _ => (a, 0)
  | .num neg m e =>
    if m = 0 ∨ 0 ≤ e then (a, 0)
    else
      let (q, nx) := shiftRound rm neg m (-e).toNat
      ((f.round rm neg q 0).1, if nx then flNX else 0)

/-- The comparisons of R96 by code 0x18 to 0x1E: the truth value and the flags. -/
def Fmt.compare (f : Fmt) (op : Nat) (a b : Nat) : Bool × Flags8 :=
  let un := f.isNan a || f.isNan b
  let nvS := f.nvSnan a b
  let nvQ : Flags8 := if un then flNV else 0
  match op with
  | 0x18 => (!un && f.key a == f.key b, nvS)
  | 0x19 => (un || f.key a != f.key b, nvS)
  | 0x1A => (!un && f.key a < f.key b, nvQ)
  | 0x1B => (!un && f.key a ≤ f.key b, nvQ)
  | 0x1C => (!un && f.key a < f.key b, nvS)
  | 0x1D => (!un && f.key a ≤ f.key b, nvS)
  | _ => (un, nvS)

/-- A conversion between two formats (R100). -/
def Fmt.convert (src dst : Fmt) (rm : Nat) (a : Nat) : Nat × Flags8 :=
  match src.decode a with
  | .nan s => (dst.nan, if s then flNV else 0)
  | .inf neg => (dst.signBit neg + dst.infBits, 0)
  | .num neg m e => dst.round rm neg m e

/-- A floating-point value rounded to an integral value in [lo, hi] (R100): the integer and the flags. -/
def Fmt.toInteger (f : Fmt) (rm : Nat) (lo hi : Int) (a : Nat) : Int × Flags8 :=
  match f.decode a with
  | .nan _ => (0, flNV)
  | .inf neg => (if neg then lo else hi, flNV)
  | .num neg m e =>
    let (q, nx) := if 0 ≤ e then (m <<< e.toNat, false) else shiftRound rm neg m (-e).toNat
    let v : Int := if neg then -(q : Int) else (q : Int)
    if v < lo then (lo, flNV) else if v > hi then (hi, flNV) else (v, if nx then flNX else 0)

/-- An integer rounded to a format (R100): an integer 0 gives +0. -/
def Fmt.ofInteger (f : Fmt) (rm : Nat) (v : Int) : Nat × Flags8 := f.round rm (v < 0) v.natAbs 0

end Sys2Proof.Machine
end

