-- ==== Sys2Proof/Machine/Elem.lean ====
section
/-! DEFINITION. Element types (R81) and the value of every elementwise operation of P0 to P3 on one element
(R95 to R100). Elements are numbers below 2^z. -/

namespace Sys2Proof.Machine

/-- The class of a type: F, S, U or B (R81). -/
inductive Cls where
  | f | s | u | b
  deriving DecidableEq, Repr

/-- An element type by its code (R81). -/
structure ETy where
  code : Nat
  z : Nat
  k : Nat
  cls : Cls
  fmt : Fmt
  deriving DecidableEq, Repr

/-- The table of R81; `none` for the reserved codes 0xC to 0xE. -/
def etype (c : Nat) : Option ETy :=
  match c with
  | 0x0 => some ⟨0x0, 64, 1, .f, fp64⟩
  | 0x1 => some ⟨0x1, 32, 2, .f, fp32⟩
  | 0x2 => some ⟨0x2, 16, 4, .f, fp16⟩
  | 0x3 => some ⟨0x3, 16, 4, .f, bf16⟩
  | 0x4 => some ⟨0x4, 64, 1, .s, fp64⟩
  | 0x5 => some ⟨0x5, 64, 1, .u, fp64⟩
  | 0x6 => some ⟨0x6, 32, 2, .s, fp32⟩
  | 0x7 => some ⟨0x7, 32, 2, .u, fp32⟩
  | 0x8 => some ⟨0x8, 16, 4, .s, fp16⟩
  | 0x9 => some ⟨0x9, 16, 4, .u, fp16⟩
  | 0xA => some ⟨0xA, 8, 8, .s, fp16⟩
  | 0xB => some ⟨0xB, 8, 8, .u, fp16⟩
  | 0xF => some ⟨0xF, 1, 64, .b, fp16⟩
  | _ => none

/-- Class I: S or U (R81). -/
def ETy.isI (t : ETy) : Bool := t.cls == .s || t.cls == .u
def ETy.isF (t : ETy) : Bool := t.cls == .f
def ETy.isB (t : ETy) : Bool := t.cls == .b

/-- The integer that an element of class I stands for. -/
def ETy.toInt (t : ETy) (x : Nat) : Int :=
  if t.cls == .s ∧ (x >>> (t.z - 1)) % 2 = 1 then (x : Int) - (2 ^ t.z : Nat) else (x : Int)

/-- The low z bits of an integer. -/
def ETy.wrap (t : ETy) (v : Int) : Nat := (v % (2 ^ t.z : Nat)).toNat

def ETy.imin (t : ETy) : Int := if t.cls == .s then -(2 ^ (t.z - 1) : Nat) else 0
def ETy.imax (t : ETy) : Int := if t.cls == .s then (2 ^ (t.z - 1) : Nat) - 1 else (2 ^ t.z : Nat) - 1

/-- An integer stored under SAT: clamped with the SAT flag when SAT = 1, wrapped otherwise (R97). -/
def ETy.store (t : ETy) (sat : Bool) (v : Int) : Nat × Flags8 :=
  if sat then
    if v < t.imin then (t.wrap t.imin, flSAT)
    else if v > t.imax then (t.wrap t.imax, flSAT)
    else (t.wrap v, 0)
  else (t.wrap v, 0)

/-- All ones for true in a destination of type STYPE, 1 in a BIT destination (R96). -/
def boolElem (dty : ETy) (v : Bool) : Nat := if v then (if dty.isB then 1 else 2 ^ dty.z - 1) else 0

/-- The number of 1 bits. -/
def popcount (z x : Nat) : Nat := (List.range z).foldl (fun n i => n + (x >>> i) % 2) 0

/-- CVT (R100). -/
def cvtElem (src dst : ETy) (rm : Nat) (sat : Bool) (a : Nat) : Nat × Flags8 :=
  match src.isF, dst.isF with
  | true, true => src.fmt.convert dst.fmt rm a
  | true, false => let r := src.fmt.toInteger rm dst.imin dst.imax a; (dst.wrap r.1, r.2)
  | false, true => dst.fmt.ofInteger rm (src.toInt a)
  | false, false => dst.store sat (src.toInt a)

/-- The value and the flags of one active element of an elementwise operation (R95 to R100). -/
def elemOp (op : Nat) (sty dty : ETy) (rm : Nat) (sat : Bool) (a b c : Nat) : Nat × Flags8 :=
  let f := sty.fmt
  let ia := sty.toInt a
  let ib := sty.toInt b
  match op with
  | 0x00 => f.add rm a b
  | 0x01 => f.sub rm a b
  | 0x02 => f.mulBits rm a b
  | 0x03 => f.fma rm false false a b c
  | 0x04 => f.fma rm false true a b c
  | 0x05 => f.fma rm true false a b c
  | 0x06 => f.fma rm true true a b c
  | 0x07 => f.div rm a b
  | 0x08 => f.sqrt rm a
  | 0x09 => f.minmax false a b
  | 0x0A => f.minmax true a b
  | 0x0B => f.minmaxnum false a b
  | 0x0C => f.minmaxnum true a b
  | 0x0D => (f.mag a, 0)
  | 0x0E => (f.signBit (!f.neg a) + f.mag a, 0)
  | 0x0F => (f.signBit (f.neg b) + f.mag a, 0)
  | 0x10 => f.rint rm a
  | 0x11 => (a, 0)
  | 0x20 => dty.store sat (ia + ib)
  | 0x21 => dty.store sat (ia - ib)
  | 0x22 => dty.store sat (ia * ib)
  | 0x23 => (dty.wrap ((ia * ib) / (2 ^ dty.z : Nat)), 0)
  | 0x24 => dty.store sat (ia * ib + sty.toInt c)
  | 0x25 => (if ia ≤ ib then a else b, 0)
  | 0x26 => (if ia ≤ ib then b else a, 0)
  | 0x27 => dty.store sat (if ia < 0 then -ia else ia)
  | 0x28 => dty.store sat (-ia)
  | 0x29 => dty.store sat (ia * (2 ^ (b % sty.z) : Nat))
  | 0x2A => (dty.wrap (ia / (2 ^ (b % sty.z) : Nat)), 0)
  | 0x30 => (boolElem dty (ia == ib), 0)
  | 0x31 => (boolElem dty (ia != ib), 0)
  | 0x32 => (boolElem dty (ia < ib), 0)
  | 0x33 => (boolElem dty (ia ≤ ib), 0)
  | 0x38 => (a &&& b, 0)
  | 0x39 => (a ||| b, 0)
  | 0x3A => (a ^^^ b, 0)
  | 0x3B => (a &&& (2 ^ sty.z - 1 - b), 0)
  | 0x3C => (2 ^ sty.z - 1 - a, 0)
  | 0x3D => (popcount sty.z a, 0)
  | 0x40 => cvtElem sty dty rm sat a
  | _ => let r := f.compare op a b; (boolElem dty r.1, r.2)

/-- One stored word of an operation of the bank adders (R56), with the halves `half` enabled (R115), and its flags. -/
def bankAdd (code : Nat) (half : BitVec 2) (rm : Nat) (m x : W64) : W64 × Flags8 :=
  let mn := m.toNat
  let xn := x.toNat
  let halves (op : Nat → Nat → Nat × Flags8) : W64 × Flags8 :=
    let lo := if half.getLsbD 0 then op (mn % 2 ^ 32) (xn % 2 ^ 32) else (mn % 2 ^ 32, 0)
    let hi := if half.getLsbD 1 then op (mn >>> 32) (xn >>> 32) else (mn >>> 32, 0)
    (BitVec.ofNat 64 (hi.1 * 2 ^ 32 + lo.1), lo.2 ||| hi.2)
  match code with
  | 0x0 => (m + x, 0)
  | 0x1 => halves (fun a b => ((a + b) % 2 ^ 32, 0))
  | 0x2 => halves (fun a b => if a + b ≥ 2 ^ 32 then (2 ^ 32 - 1, flSAT) else (a + b, 0))
  | 0x3 => let r := fp64.add rm mn xn; (BitVec.ofNat 64 r.1, r.2)
  | 0x4 => halves (fun a b => fp32.add rm a b)
  | _ => (m ||| x, 0)

end Sys2Proof.Machine
end

