-- ==== Sys2Proof/Machine/VectorStore.lean ====
section
/-! DEFINITION. The Vector Store: bank memory, bank map, error correction, arbitration, bank-side accumulate, secure rows,
wipe, scrub and field repair (spec/02_vector_store.md). -/

namespace Sys2Proof.Machine

/-! ## The bank arrays -/

/-- What a byte that is not listed reads as: zero after the zero-fill (R473), anything after an MBIST run (R563). -/
def Memory.byteDefault (m : Memory) (a : Nat) : Byte :=
  match m.scramble with
  | none => 0
  | some n => Config.freeByte n a

/-- The condition of a word that is not listed. -/
def Memory.errDefault (m : Memory) (k : Nat) : WordErr :=
  match m.scramble with
  | none => .good
  | some n =>
    match (Config.freeByte n (2 ^ 40 + k)).toNat % 4 with
    | 0 => .good
    | 1 => .single
    | 2 => .double
    | _ => .poison

/-- One byte of the bank arrays. -/
def Memory.byte (m : Memory) (a : Nat) : Byte := Tab.get (m.byteDefault a) m.cells a

def Memory.setByte (m : Memory) (a : Nat) (b : Byte) : Memory :=
  { m with cells := Tab.set (m.byteDefault a) m.cells a b }

/-- The key of the word at a row of a physical bank. -/
def wordKey (pbank row : Nat) : Nat := pbank * 8192 + row

/-- The 64 data bits of a word; byte `i` holds bits [8i + 7 : 8i] (R27). -/
def Memory.word (m : Memory) (k : Nat) : W64 :=
  m.byte (8 * k + 7) ++ m.byte (8 * k + 6) ++ m.byte (8 * k + 5) ++ m.byte (8 * k + 4) ++
  m.byte (8 * k + 3) ++ m.byte (8 * k + 2) ++ m.byte (8 * k + 1) ++ m.byte (8 * k)

def Memory.err (m : Memory) (k : Nat) : WordErr := Tab.get (m.errDefault k) m.errs k

def wordByte (w : W64) (i : Nat) : Byte := w.extractLsb' (8 * i) 8

/-- Writes a word with its condition. -/
def Memory.setWord (m : Memory) (k : Nat) (w : W64) (e : WordErr) : Memory :=
  let m1 := (List.range 8).foldl (fun m i => m.setByte (8 * k + i) (wordByte w i)) m
  { m1 with errs := Tab.set (m.errDefault k) m1.errs k e }

/-- Writes zero with correct check bits to one row of all 1,024 physical banks (R63). -/
def Memory.zeroRow (m : Memory) (row : Nat) : Memory :=
  match m.scramble with
  | none =>
    { m with cells := m.cells.filter (fun c => (c.1 / 8) % 8192 != row), errs := m.errs.filter (fun c => c.1 % 8192 != row) }
  | some _ => (List.range 1024).foldl (fun m p => m.setWord (wordKey p row) 0 .good) m

/-- All 8,192 rows of every bank zero: the start-up zero-fill (R63, R473). -/
def Memory.zero : Memory := ⟨none, [], []⟩

/-- The canonical form of the arrays: keys strictly rising, nothing listed that an unlisted key reads as. -/
def Memory.wf (m : Memory) : Bool := Tab.wf m.byteDefault m.cells && Tab.wf m.errDefault m.errs

/-! ## Addresses (R34, R38) -/

/-- Words of one tile. -/
def vsWords : Nat := 8364032
def secureFirst : Nat := 7841280
/-- A local word in the secure rows (R28). -/
def isSecureWord (w : Nat) : Bool := secureFirst ≤ w && w < vsWords
/-- A pair word of the partner tile that lies in its secure rows, which it refuses to a requester that R61 does not permit. -/
def partnerRefuses (w : Nat) (secure : Bool) : Bool := isSecureWord (w / 2) && !secure

def VStore.mapEntry (v : VStore) (n : Nat) : VsMapEntry :=
  match n with
  | 0 => v.map0
  | 1 => v.map1
  | _ => v.map2

/-- The physical bank of a logical bank (R38). -/
def VStore.phys (v : VStore) (lb : Nat) : Nat :=
  if v.map0.valid && v.map0.lbank.toNat == lb then 1021
  else if v.map1.valid && v.map1.lbank.toNat == lb then 1022
  else if v.map2.valid && v.map2.lbank.toNat == lb then 1023
  else lb

/-- The physical bank that holds a local word (R34). -/
def VStore.bankOf (v : VStore) (w : Nat) : Nat := v.phys (w % 1021)
def rowOf (w : Nat) : Nat := w / 1021
def VStore.keyOf (v : VStore) (w : Nat) : Nat := wordKey (v.bankOf w) (rowOf w)

def setVs (v : VStore) (s : State) : State := { s with vs := v }

/-! ## Error correction (R43 to R47) -/

/-- A single-bit correction (R43, R46). Only a correction raises VS_CE: a register write that makes CECOUNT a multiple of CETHRESH,
or CETHRESH a divisor of it, raises nothing (DESIGN CHOICE, notes/assumptions/51.md). -/
def countCe (s : State) : State :=
  let c := satInc s.vs.ceCount
  let s1 := setVs { s.vs with ceCount := c } s
  if c != s.vs.ceCount && s.vs.ceThresh != 0 && c.toNat % s.vs.ceThresh.toNat == 0 && c != 0 then arrive srcVsCe s1 else s1

/-- A double-bit error (R46). -/
def countUe (s : State) : State := arrive srcVsUe (setVs { s.vs with ueCount := satInc s.vs.ueCount } s)

/-- VSECCLOG (R47): a double-bit error overwrites a single-bit record, nothing else overwrites a valid record. -/
def logEcc (dbl : Bool) (rq word pbank : Nat) (s : State) : State :=
  let l := s.vs.eccLog
  if !l.valid || (dbl && !l.kind) then
    setVs { s.vs with eccLog := ⟨BitVec.ofNat 23 word, BitVec.ofNat 10 pbank, dbl, rq == 18, BitVec.ofNat 5 rq, true⟩ } s
  else s

/-- A read of a local word by a requester: the word corrected or poisoned, with counts and log (R43 to R45). -/
def readWord (rq word : Nat) (s : State) : XWord × State :=
  let k := s.vs.keyOf word
  let d := s.vs.mem.word k
  match s.vs.mem.err k with
  | .good => (⟨d, false⟩, s)
  | .single => (⟨d, false⟩, logEcc false rq word (s.vs.bankOf word) (countCe s))
  | .double => (⟨d, true⟩, logEcc true rq word (s.vs.bankOf word) (countUe s))
  | .poison => (⟨d, true⟩, s)

/-- A write of a local word, made in the spare as well while a copy of its bank runs (R40, R54). -/
def writeWord (word : Nat) (d : W64) (poison : Bool) (s : State) : State :=
  let e := if poison then WordErr.poison else WordErr.good
  let v := s.vs
  let m1 := v.mem.setWord (v.keyOf word) d e
  let m2 :=
    if v.repair.busy && v.repair.runLbank.toNat == word % 1021 then
      m1.setWord (wordKey (1021 + v.repair.runSpare.toNat) (rowOf word)) d e
    else m1
  setVs { v with mem := m2 } s

/-- Byte enables widened to bits. -/
def beMask (be : BitVec 8) : W64 :=
  (List.range 8).foldl (fun m i => if be.getLsbD i then m ||| ((0xFF : W64) <<< (8 * i)) else m) 0

/-- The enabled bytes of `d` merged into `m` (R58). -/
def mergeBytes (m d : W64) (be : BitVec 8) : W64 := (m &&& ~~~ beMask be) ||| (d &&& beMask be)

/-! ## Refusal of secure accesses (R61, R62) -/

def denySecure (rq : Nat) (s : State) : State :=
  arrive srcVsSecdeny (setVs { s.vs with deny := true, denyCnt := satInc s.vs.denyCnt, denyReq := BitVec.ofNat 5 rq } s)

/-- Whether R61 refuses an access to a local word. -/
def secureRefused (word : Nat) (secure : Bool) (s : State) : Bool :=
  isSecureWord word && (s.vs.wipePending || !secure)

/-! ## Requests and grants (R50 to R60) -/

/-- What a bank answers to a request. -/
inductive BankAnswer where
  | data (w : XWord)
  | done (flags : BitVec 8)
  /-- refused under R62 (or R56): the request, for a requester that may make it again -/
  | refused (r : BankReq)
  deriving DecidableEq, Repr

def BankAnswer.isRefused : BankAnswer → Bool
  | .refused _ => true
  | _ => false

def bankReq (rq word : Nat) (op : BankOp) (secure : Bool) (dest : ReqDest) : BankReq := ⟨rq, word, op, secure, 0, false, dest⟩

/-- Presents requests to the banks, behind those already waiting (R53). -/
def present (rs : List BankReq) (s : State) : State := setVs { s.vs with reqs := s.vs.reqs ++ rs } s

/-- Some chain is in flight and not suspended. -/
def anyChainRunning (s : State) : Bool :=
  s.eng.slots.any (fun o => match o with
    | some ch => (match ch.status with
      | .suspended _ => false
      | _ => true)
    | none => false)

/-- Requests that deterministic mode holds at their requesters (R165): CORE, DMA, WEADO and REPAIR. -/
def detHeld (s : State) (r : BankReq) : Bool :=
  s.eng.detAct && anyChainRunning s && (r.rq == 15 || r.rq == 14 || r.rq == 17 || r.rq == 19)

/-- Requests that are not presented in this VCLK: those held by R165, and SCRUB and REPAIR while WIPE_PENDING = 1 (R61). -/
def notPresented (s : State) (r : BankReq) : Bool :=
  detHeld s r || (s.vs.wipePending && (r.rq == 18 || r.rq == 19))

/-- The core that a request of the CORE requester belongs to. -/
def ReqDest.coreOf : ReqDest → Option CoreId
  | .coreRead c _ => some c
  | .coreWrite c => some c
  | .lock c _ => some c
  | .unlock c _ => some c
  | .coreEng c => some c
  | _ => none

/-- How far a CORE request stands in the hub's round robin of the four cores (R50). -/
def hubTurn (hub : CoreId) (r : BankReq) : Nat :=
  match r.dest.coreOf with
  | some c => (c.val + 4 - hub.val) % 4
  | none => 0

/-- The winner of a bank's grant among `rs` (R51): `p` is ENGTIME mod 12, `ptr` the bank's class B pointer, `hub` the core whose turn
it is within CORE (R50; DESIGN CHOICE, notes/assumptions/52.md), `qual` a qualification pass that takes every slot of item 4. -/
def winner (rs : List BankReq) (p ptr : Nat) (hub : CoreId) (qual : Bool) : Option BankReq :=
  let pick (f : BankReq → Option Nat) : Option BankReq :=
    (rs.foldl (fun (best : Option (Nat × BankReq)) r =>
      match f r with
      | none => best
      | some d => match best with
        | none => some (d, r)
        | some (bd, _) => if d < bd then some (d, r) else best) none).map (fun x => x.2)
  let dB (r : BankReq) : Nat := (r.rq - 12 + 8 - ptr) % 8 * 4 + hubTurn hub r
  match pick (fun r => if r.rq ≥ 12 ∧ r.ovr then some (dB r) else none) with
  | some r => some r
  | none =>
    if qual then none
    else match pick (fun r => if r.rq < 12 then some ((r.rq + 12 - p) % 12) else none) with
      | some r => some r
      | none => pick (fun r => if r.rq ≥ 12 then some (dB r) else none)

/-- The wait that starts after a scrub step (R48, R49). -/
def VStore.scrubInterval (v : VStore) : Nat := if v.interval.toNat < 16 then 16 else v.interval.toNat

/-- The scrubber has read a word: the next word, a pass more at the end, and the wait, which this VCLK begins, so that steps that win
their banks at once are INTERVAL VCLK apart (R48 and its pass time; DEDUCED, notes/assumptions/82.md). -/
def scrubStepDone (s : State) : State :=
  let v := s.vs
  let next := v.scrubWord + 1
  if next ≥ vsWords then
    setVs { v with scrubWord := 0, passes := v.passes + 1, scrubWait := v.scrubInterval } s
  else setVs { v with scrubWord := next, scrubWait := v.scrubInterval } s

/-- A granted UNLOCK whose reservation another requester's write has taken: it writes nothing (R239, R258). -/
def unlockLost (r : BankReq) (s : State) : Bool :=
  match r.dest with
  | .unlock c w => (s.core c).lockRes != some (BitVec.ofNat 46 (w / 8))
  | _ => false

/-- The effect of a granted request: its answer now, or a write half in the next VCLK. -/
def grantOne (r : BankReq) (s : State) : Option BankAnswer × State :=
  if secureRefused r.word r.secure s then (some (.refused r), denySecure r.rq s)
  else if unlockLost r s then (some (.data ⟨0, false⟩), s)
  else
    let b := s.vs.bankOf r.word
    match r.op with
    | .read =>
      let (x, s1) := readWord r.rq r.word s
      match r.dest with
      | .repair =>
        -- the copy writes what it read into the spare (R40)
        let m := s1.vs.mem.setWord (wordKey (1021 + s1.vs.repair.runSpare.toNat) (rowOf r.word)) x.data
          (if x.poison then .poison else .good)
        (none, setVs { s1.vs with mem := m, repair := { s1.vs.repair with row := s1.vs.repair.row + 1 } } s1)
      | .scrub =>
        let s2 := scrubStepDone s1
        if s.vs.mem.err (s.vs.keyOf r.word) = .single then
          (none, setVs { s2.vs with halves := Tab.insert s2.vs.halves b ⟨r.word, x.data, false, 0, r.rq, .scrub⟩ } s2)
        else (none, s2)
      | _ => (some (.data x), s1)
    | .write d be poison =>
      if be = 255 then (some (match r.dest with
        | .unlock _ _ => .data ⟨1, false⟩
        | _ => .done 0), writeWord r.word d poison s)
      else
        let (x, s1) := readWord r.rq r.word s
        let h : WriteHalf := ⟨r.word, mergeBytes x.data d be, x.poison || poison, 0, r.rq, r.dest⟩
        (none, setVs { s1.vs with halves := Tab.insert s1.vs.halves b h } s1)
    | .acc code d half rm poison =>
      if code.toNat ≥ 6 then (some (.refused r), s)
      else
        let (x, s1) := readWord r.rq r.word s
        let bad := x.poison || poison
        let res := bankAdd code.toNat half rm.toNat x.data d
        let h : WriteHalf := ⟨r.word, if bad then x.data else res.1, bad, if bad then 0 else res.2, r.rq, r.dest⟩
        (none, setVs { s1.vs with halves := Tab.insert s1.vs.halves b h } s1)

/-- Counts one conflict for each requester that lost at some bank in this VCLK (R55). -/
def countConflicts (losers : List BankReq) (s : State) : State :=
  (List.range 20).foldl (fun s n =>
    if losers.any (fun r => r.rq == n) then
      setVs { s.vs with conf := Tab.modify count0 s.vs.conf n (fun c => c.bump 1) } s
    else s) s

def BankReq.isUnlock (r : BankReq) : Bool :=
  match r.dest with
  | .unlock _ _ => true
  | _ => false

/-- The physical banks at which requests wait or write halves are due, those of an UNLOCK last: another requester's write granted
in the same VCLK is ordered before it (R258). -/
def busyBanks (s : State) (rs : List BankReq) : List Nat :=
  let late := (rs.filter BankReq.isUnlock).map (fun r => s.vs.bankOf r.word)
  let all := rs.map (fun r => s.vs.bankOf r.word) ++ s.vs.halves.map (fun h => h.1)
  (all.filter (fun b => !late.contains b) ++ late).eraseDups

/-- The physical line that holds a local word, as the Vector Store window shows it (R27, R34). -/
def vsLine (s : State) (w : Nat) : Nat :=
  let g := if s.role.fused then 2 * w + (if s.id.pairpos = 2 then 1 else 0) else w
  let base := if s.role.fused then s.vs.base.toNat / 2 * 2 ^ 27 else s.vs.base.toNat * 2 ^ 26
  (base + 8 * g) / 64

/-- The core that a write belongs to, if it is a core's. -/
def ReqDest.writer : ReqDest → Option CoreId
  | .coreWrite c => some c
  | .unlock c _ => some c
  | .coreEng c => some c
  | _ => none

/-- A granted write clears the reservations that other requesters' cores hold on its line (R240). -/
def grantClears (r : BankReq) (s : State) : State :=
  match r.op with
  | .read => s
  | _ => if secureRefused r.word r.secure s || unlockLost r s then s else clearLocks r.dest.writer (vsLine s r.word) s

/-- Some word of a physical line lies in a row of this tile's banks. -/
def lineInRow (s : State) (row line : Nat) : Bool :=
  match vsOffset s (line * 64) with
  | none => false
  | some off => (List.range 8).any (fun i => (homeWord s (off / 8 + i)).any (fun w => rowOf w == row))

/-- The wipe's writes of a row clear the reservations on its lines (R240). -/
def wipeClears (row : Nat) (s : State) : State :=
  fours.foldl (fun s c => match (s.core c).lockRes with
    | some l => if lineInRow s row l.toNat then withCore c (fun k => { k with lockRes := none }) s else s
    | none => s) s

/-- One bank's grant: the answers it gives and the requests that lost there. -/
def grantBank (qual : Bool) (pres : List BankReq) (halves : Tab WriteHalf) (p : Nat)
    (acc : (List (ReqDest × Nat × BankAnswer) × List BankReq) × State) (b : Nat) :
    (List (ReqDest × Nat × BankAnswer) × List BankReq) × State :=
  let ((out, won), s) := acc
  let here := pres.filter (fun r => s.vs.bankOf r.word == b)
  match Tab.find halves b with
  | some h =>
    ((out ++ [(h.dest, h.word, .done h.flags)], won),
      writeWord h.word h.data h.poison (clearLocks h.dest.writer (vsLine s h.word) s))
  | none =>
    match winner here p (Tab.get 0 s.vs.bptr b) s.vs.hubNext qual with
    | none => ((out, won), s)
    | some r =>
      let (ans, s1) := grantOne r (grantClears r s)
      let s2 := if r.rq ≥ 12 then setVs { s1.vs with
        bptr := Tab.set 0 s1.vs.bptr b ((r.rq - 12 + 1) % 8)
        hubNext := (r.dest.coreOf.map (fun c => c + 1)).getD s1.vs.hubNext } s1 else s1
      let out' := match ans with
        | some a => out ++ [(r.dest, r.word, a)]
        | none => out
      ((out', won ++ [r]), s2)

/-- Removes the first occurrence of each granted request. -/
def removeWon (rs won : List BankReq) : List BankReq := won.foldl (fun l r => l.erase r) rs

/-- One more VCLK of waiting for a class B request (R52). -/
def ageReq (r : BankReq) : BankReq := if r.rq ≥ 12 then { r with age := r.age + 1 } else r

/-- The repair copier keeps one read waiting while it runs (R40). -/
def presentRepair (s : State) : State :=
  let rp := s.vs.repair
  if rp.busy && rp.row < 8192 && !s.vs.wipePending && !s.vs.reqs.any (fun r => r.rq == 19) then
    present [bankReq 19 (rp.row * 1021 + rp.runLbank.toNat) .read true .repair] s
  else s

/-- The wait between scrub steps counts down (R48). It stands still while EN = 0 and while WIPE_PENDING = 1, and the first wait
after a reset is a whole INTERVAL (DESIGN CHOICE, notes/assumptions/53.md). -/
def scrubCount (s : State) : State :=
  if s.vs.scrubEn && !s.vs.wipePending then setVs { s.vs with scrubWait := s.vs.scrubWait - 1 } s else s

def tickEngtime (s : State) : State := { s with eng := { s.eng with time := s.eng.time + 1 } }

/-- One VCLK at every bank (R51): the answers given, by destination and word, with the state after. -/
def grantCycle (qual : Bool) (s0 : State) : List (ReqDest × Nat × BankAnswer) × State :=
  let s := presentRepair s0
  let pres := s.vs.reqs.filter (fun r => !notPresented s r)
  if s.vs.wipePending then
    -- item 1: the wipe writes one row of every bank; everything else waits, but for a secure word, which R61 permits to nobody now
    let denied := pres.filter (fun r => isSecureWord r.word)
    let halves := s.vs.halves.filter (fun h => !isSecureWord h.2.word)
    let lost := s.vs.halves.filter (fun h => isSecureWord h.2.word)
    let writes := s.vs.wipeBusy && s.vs.wipeRow < 8192
    let mem := if writes then s.vs.mem.zeroRow s.vs.wipeRow else s.vs.mem
    let row := if writes then s.vs.wipeRow + 1 else s.vs.wipeRow
    let s1 := countConflicts (removeWon pres denied) (denied.foldl (fun s r => denySecure r.rq s) (if writes then wipeClears s.vs.wipeRow s else s))
    let s2 := setVs { s1.vs with
      mem := mem, wipeRow := row, halves := halves,
      reqs := (removeWon s1.vs.reqs denied).map (fun r => if notPresented s r then r else ageReq r) } s1
    (lost.map (fun h => (h.2.dest, h.2.word, .done h.2.flags)) ++ denied.map (fun r => (r.dest, r.word, .refused r)), tickEngtime s2)
  else
    let halves := s.vs.halves
    let banks := busyBanks s pres
    let s1 := setVs { s.vs with halves := [] } s
    let ((out, won), s2) := banks.foldl (grantBank qual pres halves (s.eng.time.toNat % 12)) (([], []), s1)
    let losers := removeWon pres won
    let s3 := countConflicts losers s2
    let s4 := setVs { s3.vs with
      reqs := (removeWon s3.vs.reqs won).map (fun r => if losers.contains r then ageReq r else r) } s3
    (out, tickEngtime (scrubCount s4))

/-! ## Scrub, repair and wipe -/

/-- A wipe trigger (R64, R65): WIPE_PENDING is set, and a wipe that runs restarts from row 7,680. -/
def wipeTrigger (s : State) : State :=
  setVs { s.vs with wipePending := true, wipeRow := 7680 } s

/-- A field repair is refused (R41). -/
def repairRefused (lbank : BitVec 10) (spare : BitVec 2) (s : State) : Bool :=
  let v := s.vs
  let named (e : VsMapEntry) : Bool := e.valid && e.lbank == lbank
  v.repair.busy || spare == 3 || (v.mapEntry spare.toNat).valid || lbank.toNat > 1020 ||
  named v.map0 || named v.map1 || named v.map2

/-- VSREPAIR.START (R40, R41). -/
def repairStart (lbank : BitVec 10) (spare : BitVec 2) (s : State) : State :=
  let r := { s.vs.repair with lbank := lbank, spare := spare }
  if repairRefused lbank spare s then setVs { s.vs with repair := { r with err := true } } s
  else setVs { s.vs with repair := { r with busy := true, row := 0, runLbank := lbank, runSpare := spare } } s

/-- The remap changes no arbitration outcome (R42): the spare takes over the class B pointer and the pending write half of the bank
it replaces. -/
def spareTakesOver (v : VStore) : VStore :=
  let old := v.phys v.repair.runLbank.toNat
  let spare := 1021 + v.repair.runSpare.toNat
  { v with
    bptr := Tab.set 0 v.bptr spare (Tab.get 0 v.bptr old)
    halves := match Tab.find v.halves old with
      | some h => Tab.insert (Tab.erase v.halves old) spare h
      | none => v.halves }

/-- The copy has passed row 8,191 (R40 item 4). -/
def repairDone (s : State) : State :=
  let v := spareTakesOver s.vs
  let e : VsMapEntry := ⟨v.repair.runLbank, true, false⟩
  let v1 := match v.repair.runSpare with
    | 0 => { v with map0 := e }
    | 1 => { v with map1 := e }
    | _ => { v with map2 := e }
  arrive srcVsRepair (setVs { v1 with repair := { v.repair with busy := false, done := true, row := 0 } } s)

end Sys2Proof.Machine
end

