-- ==== Sys2Proof/Machine/CoreBase.lean ====
section
/-! DEFINITION. What every part of a core shares: parcel addresses, banks and control words, delivery of events, exception
entry, LOCKUP, caches and late bus errors (spec/07, 09, 10, 12, 13). -/

namespace Sys2Proof.Machine

/-! ## What CORECFG has in force (R270, R274, R280) -/

/-- Whether the data cache serves a kind of region now (R270, R274). -/
def Core.dcOn (k : Core) (kind : AttrKind) : Bool := kind == .cached && k.act.getLsbD 1
def Core.icOn (k : Core) (kind : AttrKind) : Bool := kind == .cached && k.act.getLsbD 0
def Core.detOn (k : Core) : Bool := k.act.getLsbD 4

/-- A store-buffer entry of the given kind of region drains into the data cache, and does not leave the tile (R275, R280). -/
def drainsToCache (k : Core) (e : SbEntry) (kind : AttrKind) : Bool :=
  k.dcOn kind && (!k.detOn || (Tab.find k.dcache (e.word.toNat / 8)).isSome)

/-! ## Parcel addresses (R203) -/

/-- Stepping a parcel address by `n` parcels. -/
def advance (pa : BitVec 48) (n : Int) : BitVec 48 :=
  let index : Int := ((pa.toNat / 16 * 6 + pa.toNat % 16 : Nat) : Int) + n
  BitVec.ofInt 48 (index / 6 * 16 + index % 6)

/-! ## Banks and control words (R198, R199, R278, R285, R286, R294) -/

/-- SEG.n after cold reset: flat and Monitor-only (R311). -/
def seg0 : W64 × W64 := (0, BitVec.ofNat 64 (0xFFFFFFFFFFFF + 0xF * 2 ^ 48 + 2 * 2 ^ 52))

/-- A bank after cold reset (R286, R338). -/
def bank0 (l : Nat) : Bank :=
  ⟨[], 0, [], 0, none, none, BitVec.ofNat 7 (2 + 16 * l), 0, 0, 0, 0, 0, 0, [], 0, 0, 0, 0, none, none, none, none⟩

def Core.bank (k : Core) (l : BitVec 3) : Bank := Tab.get (bank0 l.toNat) k.banks l.toNat
/-- Writes a bank as it is. -/
def Core.rawBank (k : Core) (l : BitVec 3) (b : Bank) : Core := { k with banks := Tab.set (bank0 l.toNat) k.banks l.toNat b }

/-- The groups whose saved words differ between two values of a bank (R286, R294). -/
def changedGroups (a b : Bank) : BitVec 4 :=
  BitVec.ofNat 4 (
    b2n (a.oc != b.oc || a.osp != b.osp) + 2 * b2n (a.rc != b.rc || a.rsp != b.rsp) +
    4 * b2n (a.status != b.status || a.estat != b.estat || a.epc != b.epc || a.etarget != b.etarget || a.eaddr != b.eaddr ||
      a.fpc != b.fpc || a.fstat != b.fstat || a.segs != b.segs) +
    8 * b2n (a.loopcnt != b.loopcnt || a.flags != b.flags || a.cstage != b.cstage))

/-- Writes a bank and marks the groups whose words change dirty (R294). -/
def Core.putBank (k : Core) (l : BitVec 3) (b : Bank) : Core :=
  let a := k.bank l
  k.rawBank l { b with dirty := b.dirty ||| changedGroups a b }

/-- The running bank. -/
def Core.run (k : Core) : Bank := k.bank k.level
def Core.putRun (k : Core) (b : Bank) : Core := k.putBank k.level b

def Bank.seg (b : Bank) (n : Nat) : W64 × W64 := Tab.get seg0 b.segs n

/-- TASKID as it reads (R308). -/
def Core.taskid (k : Core) (tag : BitVec 16) : W64 :=
  let running := (List.range 8).find? (fun i => (Tab.get slot0 k.sched.slots i).st == .running)
  match running with
  | some i => BitVec.ofNat 64 (tag.toNat + i * 2 ^ 16 + (if k.sched.en then 2 ^ 19 else 0))
  | none => BitVec.ofNat 64 tag.toNat

/-- The committed value of a control word (R199, R278), where there is one of that number. -/
def Core.cw (k : Core) (n : Nat) : Option W64 :=
  let b := k.run
  match n with
  | 0x000 => some (b.status.zeroExtend 64)
  | 0x001 => some (b.flags.zeroExtend 64)
  | 0x002 => some (b.loopcnt.zeroExtend 64)
  | 0x003 => some (k.taskid k.tag)
  | 0x010 => some b.estat
  | 0x011 => some (b.epc.zeroExtend 64)
  | 0x012 => some (b.etarget.zeroExtend 64)
  | 0x013 => some b.eaddr
  | 0x018 => some k.fentry
  | 0x019 => some (b.fpc.zeroExtend 64)
  | 0x01A => some b.fstat
  | 0x020 => some k.ptroot
  | n => if 0x040 ≤ n ∧ n ≤ 0x05F then
      let d := b.seg ((n - 0x040) / 2)
      some (if n % 2 = 0 then d.1 else d.2)
    else none

/-- The value in force (R278): the old one while a write is latent. -/
def Core.inForce (k : Core) (n : Nat) : W64 := (Tab.find k.latent n).getD ((k.cw n).getD 0)

/-- PL in force: 0 Task, 1 Supervisor, 2 Monitor (R336, R338). -/
def Core.pl (k : Core) : Nat := fieldAt 0 2 (k.inForce 0)
def Core.hold (k : Core) : Bool := bitAt 2 (k.inForce 0)
/-- The segment descriptor in force. -/
def Core.segNow (k : Core) (n : Nat) : W64 × W64 := (k.inForce (0x040 + 2 * n), k.inForce (0x041 + 2 * n))

/-- A SYNC point (R278): every latent write takes effect. It also leaves the loop buffer (R267) and fetches anew. -/
def Core.sync (k : Core) : Core := { k with latent := [], code := none }

/-- The loop buffer is left (R267). -/
def Core.leaveBuffer (k : Core) : Core := { k with lbact := false }
/-- The loop buffer is left, and the succession of taken branches that engages it is broken (R266, R267). -/
def Core.leaveLoop (k : Core) : Core := { k with lbact := false, lbprev := none }

def maskTo (m v : Nat) : W64 := BitVec.ofNat 64 (v &&& m)

/-- The writable bits of a control word's new value, from its old one (R198, R199, R200, R308, R311, R316, R338, R344, R345, R351,
R352). -/
def cwWritten (n : Nat) (old v : W64) : W64 :=
  match n with
  | 0x000 =>
    let pl := if fieldAt 0 2 v = 3 then fieldAt 0 2 old else fieldAt 0 2 v
    BitVec.ofNat 64 (pl + (fieldAt 2 1 v) * 4 + (fieldAt 4 3 old) * 16)
  | 0x001 => maskTo 0x1F v.toNat
  | 0x002 => maskTo 0xFFFFFFFF v.toNat
  | 0x003 => BitVec.ofNat 64 (fieldAt 0 16 v)
  | 0x010 => maskTo 0x7F01FF7FFF v.toNat
  | 0x011 => maskTo 0xFFFFFFFFFFFF v.toNat
  | 0x012 => maskTo 0xFFFFFFFFFFFF v.toNat
  | 0x018 => maskTo 0x3FFFFFFFFFFFF v.toNat
  | 0x019 => maskTo 0xFFFFFFFFFFFF v.toNat
  | 0x01A => maskTo 0x3FF037F v.toNat
  | 0x020 => maskTo 0xFFFFFFFFFF001 v.toNat
  | n => if 0x040 ≤ n ∧ n ≤ 0x05F then maskTo (if n % 2 = 0 then 0xFFFFFFFFFFFF else 0x3FFFFFFFFFFFFF) v.toNat else v

/-- Control words whose writes stay latent until SYNC (R278). -/
def cwLatent (n : Nat) : Bool :=
  n == 0x000 || n == 0x003 || n == 0x018 || n == 0x020 || (0x040 ≤ n && n ≤ 0x05F)

/-- Commits a control-word value to the running bank or the core. -/
def Core.commitCw (k : Core) (n : Nat) (v : W64) : Core :=
  let b := k.run
  match n with
  | 0x000 => k.putRun { b with status := v.truncate 7 }
  | 0x001 => k.putRun { b with flags := v.truncate 5 }
  | 0x002 => k.putRun { b with loopcnt := v.truncate 32 }
  | 0x003 => { k with tag := v.truncate 16 }
  | 0x010 => k.putRun { b with estat := v }
  | 0x011 => k.putRun { b with epc := v.truncate 48 }
  | 0x012 => k.putRun { b with etarget := v.truncate 48 }
  | 0x013 => k.putRun { b with eaddr := v }
  | 0x018 => { k with fentry := v }
  | 0x019 => k.putRun { b with fpc := v.truncate 48 }
  | 0x01A => k.putRun { b with fstat := v }
  | 0x020 => { k with ptroot := v }
  | n => if 0x040 ≤ n ∧ n ≤ 0x05F then
      let i := (n - 0x040) / 2
      let d := b.seg i
      k.putRun { b with segs := Tab.set seg0 b.segs i (if n % 2 = 0 then (v, d.2) else (d.1, v)) }
    else k

/-- A write of a control word (R278): it commits, and the old value stays in force where the write is latent. -/
def Core.writeCw (k : Core) (n : Nat) (v : W64) : Core :=
  let old := (k.cw n).getD 0
  let k1 := if cwLatent n && (Tab.find k.latent n).isNone then { k with latent := Tab.insert k.latent n old } else k
  k1.commitCw n (cwWritten n old v)

/-! ## Delivery (R361 to R368) -/

def EvSrc.pend (e : EvSrc) : Bool := e.en && e.cnt != 0

/-- TOP of a core's priority stack (R367). -/
def topOf (active : BitVec 8) : Nat :=
  ([7, 6, 5, 4, 3, 2, 1].find? (fun l => active.getLsbD l)).getD 0

/-- Conditions 1 to 3 of R363 for one source. -/
def mayDeliver (s : State) (c : CoreId) (n : Nat) : Bool :=
  let e := Tab.get evSrc0 s.ev n
  let x := s.evc.get c
  let top := topOf x.active
  e.pend && srcTarget n e == c.val && e.level != 0 && e.level.toNat ≥ x.thresh.toNat && e.level.toNat > top &&
  e.level.toNat > (s.core c).level.toNat && (x.nest || top == 0 || e.level == 7)

/-- The source that R363 and R364 select for a core, with conditions 4 and 5 ignored. -/
def selectSource (s : State) (c : CoreId) : Option Nat :=
  let cands := (s.ev.map (fun e => e.1)).filter (fun n => mayDeliver s c n)
  cands.foldl (fun (best : Option Nat) n => match best with
    | none => some n
    | some b => if (Tab.get evSrc0 s.ev n).level.toNat > (Tab.get evSrc0 s.ev b).level.toNat then some n else some b) none

/-- A level joins a core's priority stack (R367). -/
def pushLevel (c : CoreId) (t : Nat) (s : State) : State :=
  let x := s.evc.get c
  { s with evc := s.evc.set c { x with active := x.active ||| BitVec.ofNat 8 (2 ^ t) } }

/-! ## LOCKUP (R293, R307, R435) -/

/-- ALERT, which the hub of a worker or deputy sends to the manager (R423, R435). -/
def sendAlert (c : CoreId) (cause : Nat) (s : State) : State :=
  let m2 := BitVec.ofNat 64 (c.val + cause * 256)
  match s.role.role with
  | .worker => sendMsg (hubMsg s 0x11 s.troupe.mnode s.role.slot s.role.epoch 0 0 m2 0 0) s
  | .deputy => sendMsg (hubMsg s 0x11 s.troupe.mnode 0 s.troupe.mepoch 0 0 m2 0 0) s
  | _ => s

/-- The core enters LOCKUP: cause 1 STKOVF at level 7, 2 a spill or fill fault of bank 7, 3 a switch error. -/
def lockUp (c : CoreId) (cause : Nat) (s : State) : State :=
  let s1 := withCore c (fun k => { k with
    st := .locked, held := none, eng := none
    lockup := ⟨true, k.level, BitVec.ofNat 4 cause, k.pc⟩ }) s
  sendAlert c cause (arrive (srcCoreLockup c) s1)

/-! ## Exception entry (R342 to R346) -/

/-- A synchronous exception: its code, EADDR, and SPLIT. -/
structure Exc where
  code : BitVec 8
  eaddr : W64
  split : Bool
  deriving DecidableEq, Repr

def excIllegal : Exc := ⟨0x01, 0, false⟩
def excPriv : Exc := ⟨0x02, 0, false⟩
def excStkunf : Exc := ⟨0x07, 0, false⟩
def excStkovf : Exc := ⟨0x08, 0, false⟩
def excBreak : Exc := ⟨0x06, 0, false⟩
def excDivz : Exc := ⟨0x05, 0, false⟩
def excAlign (sel off : Nat) : Exc := ⟨0x04, BitVec.ofNat 64 (off % 2 ^ 48 + sel * 2 ^ 48), false⟩

/-- The packet of an entry (R539). -/
def traceEntry (c : CoreId) (code level src : Nat) (epc : BitVec 48) (s : State) : State :=
  tracePacket 3 c.val (BitVec.ofNat 8 code :: BitVec.ofNat 8 level :: bytesLE src 2 ++ bytesLE epc.toNat 6) s

/-- What an entry saves of the flow of control (R219, R224, R345): EPC, ETARGET where it changes, BPEND and RPEND. -/
structure Saved where
  epc : BitVec 48
  etarget : Option (BitVec 48)
  bpend : Bool
  rpend : Bool
  deriving DecidableEq, Repr

/-- Where the flow of control stands between parcels or at a faulting parcel. -/
def Core.saved (k : Core) : Saved :=
  match k.rep with
  | some r => ⟨r.addr, none, false, true⟩
  | none =>
    if k.repResume then ⟨k.pc, none, false, true⟩
    else match k.delay with
      | some d =>
        let tgt := if d.eret then k.run.epc else if d.taken then d.target else advance k.pc 1
        ⟨k.pc, some tgt, true, false⟩
      | none => ⟨k.pc, none, false, false⟩

/-- ESTAT as an entry writes it (R344). -/
def mkEstat (code : Nat) (async bpend rpend split esc ovw : Bool) (src : Nat) (sstatus : BitVec 7) : W64 :=
  BitVec.ofNat 64 (code + b2n async * 2 ^ 8 + b2n bpend * 2 ^ 9 + b2n rpend * 2 ^ 10 + b2n split * 2 ^ 11 + b2n esc * 2 ^ 12 +
    b2n ovw * 2 ^ 13 + 2 ^ 14 + src * 2 ^ 16 + sstatus.toNat * 2 ^ 32)

def estatLive (e : W64) : Bool := bitAt 14 e

def mkStatusWord (pl : Nat) (hold : Bool) (level : Nat) : BitVec 7 := BitVec.ofNat 7 (pl + 4 * b2n hold + 16 * level)

/-- Flow of control begins anew at `pc`. -/
def Core.goTo (k : Core) (pc : BitVec 48) : Core :=
  { k with
    st := .running, ran := true, pc := pc, delay := none, chk := none, rep := none, repResume := false, repHold := false, held := none
    code := none }

/-- The entry sequence of R343 into level `t`. -/
def enterAt (c : CoreId) (t : Nat) (sv : Saved) (eaddr : Option W64) (estat : BitVec 7 → W64) (vector : Nat) (code src : Nat) (s : State) : State :=
  let k0 := s.core c
  let l := k0.level
  let k := (k0.sync).leaveLoop
  let st := (k.bank l).status
  let t3 := BitVec.ofNat 3 t
  let b := k.bank t3
  let pl := if t = 7 then 2 else Nat.max (st.toNat % 4) 1
  let b1 := { b with
    epc := sv.epc
    etarget := sv.etarget.getD b.etarget
    eaddr := eaddr.getD b.eaddr
    estat := estat st
    status := mkStatusWord pl (st.getLsbD 2) t }
  let k1 := (k.putBank t3 b1).goTo (BitVec.ofNat 48 vector)
  let k2 := { k1 with level := t3, lockRes := none }
  let s1 := setCore c k2 s
  let s2 := if t > l.toNat then pushLevel c t s1 else s1
  traceEntry c code t src sv.epc s2

/-- The level that a synchronous exception of this code enters (R342). -/
def Core.excLevel (k : Core) (code : Nat) : Nat :=
  if k.level = 7 ∨ code = 0x08 ∨ code = 0x20 ∨ estatLive (k.bank k.level).estat then 7 else k.level.toNat

/-- A synchronous exception is taken, with what is saved given (R206, R342 to R346); STKOVF at level 7 is LOCKUP. -/
def enterSaved (c : CoreId) (sv : Saved) (e : Exc) (s : State) : State :=
  let k := s.core c
  let l := k.level.toNat
  let code := e.code.toNat
  if code = 0x08 ∧ l = 7 then lockUp c 1 s
  else
    let live := estatLive (k.bank k.level).estat
    let toSeven := code = 0x08 ∨ code = 0x20
    let t := k.excLevel code
    let esc := decide (l < 7) && !decide toSeven && live
    let ovw := decide (l = 7) && live
    enterAt c t sv (some e.eaddr) (fun st => mkEstat code false sv.bpend sv.rpend e.split esc ovw 0 st)
      (k.exvec.toNat * 1024 + 16 * code) code 0 s

/-- A synchronous exception at the parcel that the core executes. -/
def enterExc (c : CoreId) (e : Exc) (s : State) : State := enterSaved c (s.core c).saved e s

/-- The ENTRY exception (R206): EPC is the target, EADDR the transfer parcel. -/
def enterEntry (c : CoreId) (transfer : BitVec 48) (s : State) : State :=
  enterSaved c ⟨(s.core c).pc, none, false, false⟩ ⟨0x03, transfer.zeroExtend 64, false⟩ s

/-- An asynchronous entry by a source (R342, R343, R365). -/
def enterAsync (c : CoreId) (n : Nat) (s : State) : State :=
  let sv := (s.core c).saved
  let t := (Tab.get evSrc0 s.ev n).level.toNat
  enterAt c t sv none (fun st => mkEstat 0x40 true false sv.rpend false false false n st)
    ((s.evc.get c).vec.toNat * 1024 + 16 * t) 0x40 n s

/-! ## Late bus errors (R349, R350) -/

/-- A late bus error: latched in BELATE, an arrival on BUSERR_LATE, and a log record. -/
def lateError (c : CoreId) (pa : BitVec 52) (wb : Bool) (s : State) : State :=
  let s1 := withCore c (fun k => { k with belate :=
    if k.belate.valid then { k.belate with more := true } else { k.belate with pa := pa, valid := true, wb := wb } }) s
  logRecord 0x01 c.val pa (BitVec.ofNat 64 (b2n wb)) false (arrive (srcBuserrLate c) s1)

/-! ## Caches (R269 to R274) -/

def line0 : DLine := ⟨0, false⟩

/-- Lines of a cache in the set of a line (R269). -/
def setOf (line : Nat) : Nat := line % 256

/-- Four ways in use: a line that must leave first, chosen freely (R269 does not fix the ages a free value may take). -/
def victim {α : Type} (t : Tab α) (line pick : Nat) : Option Nat :=
  let here := t.filter (fun e => setOf e.1 == setOf line)
  if here.length < 4 then none else (here[pick % here.length]?).map (fun e => e.1)

/-- A dirty line leaves a data cache for its memory: the write-back is issued, or discarded where the role forbids outbound
writes (R273, R427). -/
def writeBack (c : CoreId) (line : Nat) (d : Line) (s : State) : State :=
  if outboundOk s then withCore c (fun k => { k with wbs := k.wbs ++ [(BitVec.ofNat 46 line, d)] }) s
  else lateError c (BitVec.ofNat 52 (line * 64)) true s

/-- Drops a line from a data cache, written back first when dirty; a reservation on it is cleared (R240, R271). -/
def dropLine (c : CoreId) (line : Nat) (wb : Bool) (s : State) : State :=
  match Tab.find (s.core c).dcache line with
  | none => s
  | some d =>
    let s1 := withCore c (fun k => { k with
      dcache := Tab.erase k.dcache line
      lockRes := if k.lockRes = some (BitVec.ofNat 46 line) then none else k.lockRes }) s
    if wb && d.dirty then writeBack c line d.data s1 else s1

/-- Enters a line into a data cache, with the eviction that a full set needs. -/
def dcacheEnter (c : CoreId) (line : Nat) (d : DLine) (s : State) : State :=
  match Tab.find (s.core c).dcache line with
  | some _ => withCore c (fun k => { k with dcache := Tab.insert k.dcache line d }) s
  | none =>
    let (n, s1) := s.takeNat
    let s2 := match victim (s1.core c).dcache line n with
      | some v => dropLine c v true s1
      | none => s1
    withCore c (fun k => { k with dcache := Tab.insert k.dcache line d }) s2

def icacheEnter (c : CoreId) (line : Nat) (d : Line) (s : State) : State :=
  let (n, s1) := s.takeNat
  withCore c (fun k =>
    let t := match Tab.find k.icache line with
      | some _ => k.icache
      | none => match victim k.icache line n with
        | some v => Tab.erase k.icache v
        | none => k.icache
    { k with icache := Tab.insert t line d }) s1

/-- The value of a line that some data cache holds dirty (R271, R329, R411). -/
def dirtyCopy (s : State) (line : Nat) : Option Line :=
  fours.findSome? (fun c => match Tab.find (s.core c).dcache line with
    | some d => if d.dirty then some d.data else none
    | none => none)

/-- The value of a line that core `c` itself or another core's cache holds, for a fill or a coherent read. -/
def heldCopy (s : State) (line : Nat) (d : Line) : Line := (dirtyCopy s line).getD d

/-- A snoop-invalidate of a line reaches the cores (R240, R271, R284): caches, reservations, and fills on their way. -/
def snoopCores (line : Nat) (s : State) : State :=
  fours.foldl (fun s c =>
    let s1 := dropLine c line true s
    withCore c (fun k => { k with
      icache := Tab.erase k.icache line
      fills := k.fills.map (fun f => if f.line.toNat = line then { f with snooped := true } else f)
      lockRes := if k.lockRes = some (BitVec.ofNat 46 line) then none else k.lockRes }) s1) s

/-- A write of the engine to an external line: the cores' copies of a cacheable line go first, so that later core accesses see it
(R156, R271), and the reservations on it are cleared (R240). -/
def coherentWrite (line : Nat) (s : State) : State :=
  if (attrOf s (line * 64)).1 = .cached then snoopCores line s else clearLocks none line s

/-- A write by core `c` to a cacheable line invalidates it in the other data caches, a dirty copy written back first (R271). -/
def ownLine (c : CoreId) (line : Nat) (s : State) : State :=
  fours.foldl (fun s d => if d = c then s else dropLine d line true s) s

def wordOfLine (d : Line) (j : Nat) : W64 := d.extractLsb' (64 * j) 64
/-- A line with its word `j` replaced. -/
def lineSetWord (d : Line) (j : Nat) (w : W64) : Line :=
  (d &&& ~~~ ((0xFFFFFFFFFFFFFFFF : Line) <<< (64 * j))) ||| ((w.zeroExtend 512) <<< (64 * j))

/-- A store of enabled bytes into a line that core `c` holds (R271, R272, R280). -/
def cacheStore (c : CoreId) (word : Nat) (d : W64) (be : BitVec 8) (s : State) : State :=
  let line := word / 8
  match Tab.find (s.core c).dcache line with
  | none => s
  | some l =>
    let s1 := clearLocks (some c) line (ownLine c line s)
    withCore c (fun k => { k with
      dcache := Tab.insert k.dcache line ⟨lineSetWord l.data (word % 8) (mergeBytes (wordOfLine l.data (word % 8)) d be), true⟩
      icache := Tab.erase k.icache line }) s1

/-- Writes back every dirty line of a data cache and empties it (R274). -/
def flushDcache (c : CoreId) (s : State) : State :=
  (s.core c).dcache.foldl (fun s e => dropLine c e.1 true s) s

/-! ## Parcel boundaries (R217, R223, R226, R279, R524) -/

/-- A boundary at which a halt could be taken (R521, R524). -/
def Core.haltBoundary (k : Core) : Bool :=
  k.delay.isNone && (match k.rep with
    | some r => !r.first || r.mid
    | none => true)

def isPair (p : BitVec 20) : Bool := p.getLsbD 19
def majorOf (p : BitVec 20) : Nat := p.toNat / 2 ^ 10 % 64

/-- LOADU or LOADL, which interrupts find indivisible (R245, R279). -/
def isAreaLoad (p : BitVec 20) : Bool := !isPair p && (majorOf p == 0x26 || majorOf p == 0x27)

/-- What an interrupt may abandon: a parcel held on anything but an uncached read (R263, R279), whichever words a VISSUE or VWAIT
that waits has received (R248, R249). -/
def Held.abandon (h : Held) : Bool :=
  !h.feed && (match h.why with
    | .read _ cached => h.got.isEmpty && cached && !isAreaLoad h.parcel
    | .fetch _ cached => h.got.isEmpty && cached
    | .vs => false
    | .divide => false
    | .walks => false
    | .entry => true
    | .record => true
    | _ => h.got.isEmpty && !isAreaLoad h.parcel)

/-- A boundary at which an asynchronous delivery could be taken, HOLD apart: a repetition that an ERET resumes shows its NI first
(R225, R226), and a stack cache holds what a bank can save (R287). -/
def Core.asyncBoundary (k : Core) : Bool :=
  k.haltBoundary && !k.repHold && k.run.oc.length ≤ 32 && (match k.rep with
    | some r => !r.ni
    | none => true) && k.divide.isNone && (match k.held with
    | some h => h.abandon
    | none => true)

end Sys2Proof.Machine
end

