-- ==== Sys2Proof/Machine/Vor.lean ====
section
/-! DEFINITION. Vector operation records: fields, layouts, lane widths, latencies, schedule, and every check made before
launch on one record or one program (R71 to R88, R104, R119, R120, R131, R136 to R147, R187). -/

namespace Sys2Proof.Machine

/-! ## Fields (R72 to R75). Operands are numbered 0 mask, 1 A, 2 B, 3 C, 4 D. -/

def Vor.op (v : Vor) : Nat := fieldAt 0 8 v.w0
def Vor.dty (v : Vor) : Nat := fieldAt 8 4 v.w0
def Vor.sty (v : Vor) : Nat := fieldAt 12 4 v.w0
def Vor.pipe (v : Vor) : Nat := fieldAt 16 3 v.w0
def Vor.rm (v : Vor) : Nat := fieldAt 19 3 v.w0
def Vor.sat (v : Vor) : Bool := bitAt 22 v.w0
def Vor.src (v : Vor) (n : Nat) : Nat :=
  match n with
  | 1 => fieldAt 24 5 v.w0
  | 2 => fieldAt 29 5 v.w0
  | 3 => fieldAt 34 5 v.w0
  | _ => 0
def Vor.dstm (v : Vor) : Nat := fieldAt 39 2 v.w0
def Vor.maskm (v : Vor) : Nat := fieldAt 41 2 v.w0
def Vor.start (v : Vor) : Nat := fieldAt 48 16 v.w0
def Vor.len (v : Vor) : Nat := fieldAt 0 32 v.w1
def Vor.mbase (v : Vor) : Nat := fieldAt 32 24 v.w1
def Vor.mbit (v : Vor) : Nat := fieldAt 56 6 v.w1
def Vor.opndWord (v : Vor) (n : Nat) : W64 :=
  match n with
  | 1 => v.w2
  | 2 => v.w3
  | 3 => v.w4
  | _ => v.w5
def Vor.stride (v : Vor) (n : Nat) : Int :=
  match n with
  | 1 => ((v.w6.extractLsb' 0 32)).toInt
  | 2 => ((v.w6.extractLsb' 32 32)).toInt
  | 3 => ((v.w7.extractLsb' 0 32)).toInt
  | _ => ((v.w7.extractLsb' 32 32)).toInt

/-- Whether operand `n` is a stream by its source code or destination mode (R76, R80). -/
def Vor.isStream (v : Vor) (n : Nat) : Bool :=
  if n = 4 then v.dstm == 0 || v.dstm == 2 else v.src n == 1
def Vor.isScalar (v : Vor) (n : Nat) : Bool := v.src n == 2
def Vor.isLink (v : Vor) (n : Nat) : Bool := v.src n ≥ 16
def Vor.linkOf (v : Vor) (n : Nat) : Nat := v.src n - 16
/-- FORM of an operand word (R74): linear. -/
def Vor.linear (v : Vor) (n : Nat) : Bool := if n = 0 then false else bitAt 48 (v.opndWord n)
def Vor.linksOut (v : Vor) : Bool := v.dstm == 1 || v.dstm == 2

/-! ## The catalogue -/

/-- Operations whose code is not reserved (R95 to R99, R104, R119). -/
def opDefined (op : Nat) : Bool :=
  op ≤ 0x11 || (0x18 ≤ op && op ≤ 0x1E) || (0x20 ≤ op && op ≤ 0x2A) || (0x30 ≤ op && op ≤ 0x33) ||
  (0x38 ≤ op && op ≤ 0x3D) || op == 0x40 || (0x80 ≤ op && op ≤ 0x84) || (0x88 ≤ op && op ≤ 0x8D) ||
  op == 0xC0 || (0xC2 ≤ op && op ≤ 0xCD) || (0xE0 ≤ op && op ≤ 0xE4)

def opIsPx (op : Nat) : Bool := 0x80 ≤ op && op ≤ 0xBF
def opIsPr (op : Nat) : Bool := 0xC0 ≤ op && op ≤ 0xEF
def opIsElem (op : Nat) : Bool := op ≤ 0x7F
def opIsSadd (op : Nat) : Bool := 0x88 ≤ op && op ≤ 0x8D
def opIsScan (op : Nat) : Bool := op == 0xCC || op == 0xE4
/-- A PR operation that writes a result record (R120). -/
def opIsRecord (op : Nat) : Bool := opIsPr op && !opIsScan op
def opIsExact (op : Nat) : Bool := 0xE0 ≤ op && op ≤ 0xE4
def opIsWide (op : Nat) : Bool := op == 0xE2 || op == 0xE3
def opIsDot (op : Nat) : Bool := op == 0xE1 || op == 0xE3
def opIsCmp (op : Nat) : Bool := (0x18 ≤ op && op ≤ 0x1E) || (0x30 ≤ op && op ≤ 0x33)

/-- Whether the operation uses operand `n` (the Sources columns; R116 for SOR on BIT). -/
def Vor.uses (v : Vor) (n : Nat) : Bool :=
  let op := v.op
  match n with
  | 1 => !(op == 0x8D && v.dty == 0xF)
  | 2 => (op ≤ 0x07) || (0x09 ≤ op && op ≤ 0x0C) || op == 0x0F || opIsCmp op || (0x20 ≤ op && op ≤ 0x26) || op == 0x29 ||
         op == 0x2A || (0x38 ≤ op && op ≤ 0x3B) || op == 0x80 || op == 0x83 || op == 0x84 || opIsSadd op || opIsDot op
  | 3 => (0x03 ≤ op && op ≤ 0x06) || op == 0x24
  | _ => false

/-- GATHER, SCATTER and the SADD family: STYPE is the type of the index B, DTYPE that of A and D (R105). -/
def opIndexed (op : Nat) : Bool := op == 0x83 || op == 0x84 || opIsSadd op

/-- The type code of operand `n`. -/
def Vor.tyCode (v : Vor) (n : Nat) : Nat :=
  if n = 0 then 0xF
  else if n = 4 then v.dty
  else if n = 1 && opIndexed v.op then v.dty
  else v.sty

/-- The type of operand `n`, with FP64 for a reserved code (a record with one never runs, R88). -/
def Vor.ty (v : Vor) (n : Nat) : ETy := (etype (v.tyCode n)).getD ⟨0, 64, 1, .f, fp64⟩

/-! ## Layouts (R83) -/

/-- Where the elements of a stream lie: `k` elements to a word from sub-lane `sub` on when packed; otherwise one element
per word, at sub-lane `sub`. `d` is the word stride, `base` the first word. -/
structure Layout where
  packed : Bool
  k : Nat
  d : Int
  sub : Nat
  base : Int
  deriving DecidableEq, Repr

/-- The layout of operand `n`; `none` where the stride fits no row of R83. -/
def Vor.layout (v : Vor) (n : Nat) : Option Layout :=
  if n = 0 then some ⟨true, 64, 1, v.mbit, v.mbase⟩
  else
    let t := v.ty n
    let w := v.opndWord n
    let lin := bitAt 48 w
    let base : Int := if lin then ((fieldAt 0 48 w / 8 : Nat) : Int) else ((fieldAt 0 24 w : Nat) : Int)
    let sub := if lin then (fieldAt 0 48 w % 8) * 8 / t.z else fieldAt 49 3 w
    let s := v.stride n
    if t.isB then (if s = 1 then some ⟨true, 64, 1, 0, base⟩ else none)
    else if t.k = 1 then some ⟨false, 1, s, 0, base⟩
    else if s = 1 then some ⟨true, t.k, 1, sub, base⟩
    else if s % (t.k : Int) = 0 then some ⟨false, t.k, s / (t.k : Int), sub, base⟩
    else none

def Vor.lay (v : Vor) (n : Nat) : Layout := (v.layout n).getD ⟨false, 1, 0, 0, 0⟩

/-- k_s of R84: elements the stream carries per word. -/
def Layout.ks (l : Layout) : Nat := if l.packed then l.k else 1
/-- The number, in stream order, of the word that holds element `e`. -/
def Layout.wordNo (l : Layout) (e : Nat) : Nat := if l.packed then (l.sub + e) / l.k else e
/-- The sub-lane of element `e`. -/
def Layout.subOf (l : Layout) (e : Nat) : Nat := if l.packed then (l.sub + e) % l.k else l.sub
/-- The word index (or linear word number) of the `i`th word of the stream. -/
def Layout.wordAddr (l : Layout) (i : Nat) : Int := l.base + (i : Int) * l.d
/-- The first and the last element that word `i` can hold. -/
def Layout.firstElem (l : Layout) (i : Nat) : Nat := if l.packed then i * l.k - l.sub else i
def Layout.lastElem (l : Layout) (i : Nat) : Nat := if l.packed then (i + 1) * l.k - l.sub - 1 else i
def Layout.words (l : Layout) (len : Nat) : Nat := if len = 0 then 0 else l.wordNo (len - 1) + 1
/-- The position of element `j` for a signed index (R109): its word and its sub-lane. -/
def Layout.posOf (l : Layout) (j : Int) : Int × Nat :=
  if l.packed then
    let p := (l.sub : Int) + j
    (l.base + p / (l.k : Int), (p % (l.k : Int)).toNat)
  else (l.base + j * l.d, l.sub)

/-! ## Lane width (R84), interval (R131, R145), latency (R145) -/

/-- One operand that counts for the lane width: packed, its k, its starting sub-lane; BIT streams are counted apart. -/
structure WidthItem where
  packed : Bool
  k : Nat
  sub : Nat
  bit : Bool
  deriving DecidableEq, Repr

def widthOf (items : List WidthItem) : Nat × Nat :=
  match items.filter (fun i => !i.bit) with
  | [] => (if items.isEmpty then 1 else 64, 0)
  | i0 :: rest =>
    let all := i0 :: rest
    if all.all (fun i => i.packed) then
      if all.all (fun i => i.k == i0.k && i.sub == i0.sub) then (i0.k, i0.sub)
      else if all.all (fun i => i.sub == 0) then (all.foldl (fun m i => Nat.min m i.k) i0.k, 0)
      else (1, 0)
    else (1, 0)

/-- The lane width g of R84 and the common starting sub-lane that a link carries on. A link counts as packed when its
producer's width is above 1 (DEDUCED, notes/assumptions/14.md). D of a PR result record, which has no elements, does not count
(DESIGN CHOICE, notes/assumptions/56.md). -/
def laneWidth (vors : List Vor) : Nat → Vor → Nat × Nat
  | 0, _ => (1, 0)
  | fuel + 1, v =>
    if opIsPx v.op && v.op != 0x80 then (1, 0)
    else
      let item (n : Nat) : List WidthItem :=
        if n = 4 then
          if v.isStream 4 && !opIsRecord v.op then
            let l := v.lay 4
            [⟨l.packed, l.k, l.sub, (v.ty 4).isB⟩]
          else []
        else if v.isLink n then
          match vors[v.linkOf n]? with
          | none => [⟨false, 1, 0, false⟩]
          | some p =>
            let gp := laneWidth vors fuel p
            [if gp.1 > 1 then ⟨true, (v.ty n).k, gp.2, false⟩ else ⟨false, 1, 0, false⟩]
        else if v.isStream n then
          let l := v.lay n
          [⟨l.packed, l.k, l.sub, (v.ty n).isB⟩]
        else []
      widthOf (item 1 ++ item 2 ++ item 3 ++ item 4)

def Vor.g (vors : List Vor) (v : Vor) : Nat := (laneWidth vors 17 v).1

/-- The rate r of an exact VOR (R131). -/
def exactRate (op : Nat) : Nat := if opIsWide op then 32 else 16

/-- The group interval of R145, or of R131 for an exact VOR. -/
def Vor.ownInterval (vors : List Vor) (v : Vor) : Nat :=
  if opIsExact v.op then 64 * v.g vors / exactRate v.op
  else if v.op == 0x07 || v.op == 0x08 then 4
  else 1

/-- The interval of the first exact VOR that the result of the VOR numbered `i` reaches over links (R131). -/
def exactReached (vors : List Vor) : Nat → Nat → Option Nat
  | 0, _ => none
  | fuel + 1, i =>
    (List.range vors.length).findSome? (fun j =>
      match vors[j]? with
      | none => none
      | some c =>
        if i < j && [1, 2, 3].any (fun n => c.uses n && c.isLink n && c.linkOf n == i) then
          if opIsExact c.op then some (c.ownInterval vors) else exactReached vors fuel j
        else none)

/-- The group interval I of R142. -/
def Vor.interval (vors : List Vor) (i : Nat) (v : Vor) : Nat :=
  let own := v.ownInterval vors
  if opIsExact v.op then own
  else match exactReached vors 17 i with
    | some t => if own > t then own else t
    | none => own

/-- The latency L of R145 (for PR records, the tail T). -/
def latency (fused : Bool) (op : Nat) : Nat :=
  let x := if fused then 6 else 0
  if opIsElem op then
    if op == 0x02 || op == 0x22 || op == 0x23 then 6
    else if (0x03 ≤ op && op ≤ 0x06) || op == 0x24 then 8
    else if op == 0x07 || op == 0x08 then 24
    else if op == 0x40 then 4
    else 5
  else if op == 0x80 then 10
  else if op == 0x83 then 22 + x
  else if opIsPx op then 10 + x
  else if op == 0xCC then 7 + x
  else if opIsExact op then 43 + x
  else 20 + x

/-- Element groups (R142); a fused pipe takes 128 lanes. -/
def Vor.nGroups (vors : List Vor) (lanes : Nat) (v : Vor) : Nat :=
  let w := lanes * v.g vors
  (v.len + w - 1) / w

/-! ## Record checks (R88, R105, R120) -/

def isFClass (c : Nat) : Bool := c ≤ 3
def isIClass (c : Nat) : Bool := 4 ≤ c && c ≤ 0xB
def isSClass (c : Nat) : Bool := c == 4 || c == 6 || c == 8 || c == 0xA

/-- Types other than BIT that are legal for the operation, as source type. -/
def stypeLegal (op c : Nat) : Bool :=
  if op ≤ 0x10 || (0x18 ≤ op && op ≤ 0x1E) then isFClass c
  else if op == 0x27 || op == 0x28 then isSClass c
  else if (0x20 ≤ op && op ≤ 0x2A) || (0x30 ≤ op && op ≤ 0x33) then isIClass c
  else if opIndexed op then isIClass c
  else if op == 0xC0 || op == 0xC4 || op == 0xC5 || opIsExact op then isFClass c
  else if op == 0xC6 || op == 0xCC || (0xC7 ≤ op && op ≤ 0xC9) then isIClass c
  else if op == 0xCD then false
  else c ≤ 0xB

/-- Types other than BIT that are legal for the operation, as result type. -/
def dtypeLegal (op c : Nat) : Bool :=
  if op == 0x88 || op == 0x8D then c == 4 || c == 5
  else if op == 0x89 then c == 6 || c == 7
  else if op == 0x8A then c == 7
  else if op == 0x8B then c == 0
  else if op == 0x8C then c == 1
  else if op == 0x83 || op == 0x84 then c ≤ 0xB
  else if op == 0xCD then c == 5
  else stypeLegal op c

/-- Where the catalogue allows BIT, as source and as result type (R95, R96, R98, R114, R119). -/
def stypeBitOk (op : Nat) : Bool :=
  op == 0x11 || (0x38 ≤ op && op ≤ 0x3C) || (0xC7 ≤ op && op ≤ 0xC9) || op == 0xCD
def dtypeBitOk (op : Nat) : Bool :=
  op == 0x11 || (0x38 ≤ op && op ≤ 0x3C) || (0xC7 ≤ op && op ≤ 0xC9) || opIsCmp op || op == 0x8D

/-- Whether STYPE must equal DTYPE. -/
def typesEqual (op : Nat) : Bool :=
  !(op == 0x40 || opIndexed op || op == 0xCD || opIsExact op)

/-- Where SAT = 1 is allowed (R97, R100, R104, R119). -/
def satLegal (v : Vor) : Bool :=
  let op := v.op
  op == 0x20 || op == 0x21 || op == 0x22 || op == 0x24 || op == 0x27 || op == 0x28 || op == 0x29 || op == 0xC6 || op == 0xCC ||
  (op == 0x40 && isIClass v.sty && isIClass v.dty)

def maskRequired (op : Nat) : Bool := 0x80 ≤ op && op ≤ 0x82

def sourceReserved (c : Nat) : Bool := 3 ≤ c && c ≤ 15

/-- Source forms that the operation does not allow for operand `n` (R104, R105). -/
def formRefused (v : Vor) (n : Nat) : Bool :=
  let op := v.op
  if n = 1 then
    if op == 0x81 then v.isScalar 1
    else if op == 0x82 || op == 0x83 then v.isScalar 1 || v.isLink 1
    else if op == 0x84 || opIsSadd op then v.isLink 1
    else false
  else if n = 2 then opIndexed op && v.isScalar 2
  else false

/-- A link that breaks R79. -/
def linkBad (vors : List Vor) (i : Nat) (v : Vor) (n : Nat) : Bool :=
  v.isLink n &&
    match vors[v.linkOf n]? with
    | none => true
    | some p =>
      !(v.linkOf n < i && p.linksOut && p.dty == v.sty && p.dty != 0xF && p.len == v.len && p.g vors == v.g vors)

/-- DSTM is defined and the operation does not allow it (R104, R120). -/
def dstmRefused (v : Vor) : Bool :=
  (v.dstm == 1 || v.dstm == 2) && ((opIsPx v.op && v.op != 0x80 && v.op != 0x83) || opIsRecord v.op)

def Vor.cause01 (v : Vor) : Bool := !opDefined v.op
def Vor.cause02 (v : Vor) : Bool :=
  v.pipe ≥ 6 || !((opIsElem v.op && v.pipe ≤ 3) || (opIsPr v.op && v.pipe == 4) || (opIsPx v.op && v.pipe == 5))
def Vor.cause03 (v : Vor) : Bool :=
  (etype v.dty).isNone || (etype v.sty).isNone ||
  (v.sty != 0xF && !stypeLegal v.op v.sty) ||
  (v.dty != 0xF && !(dtypeLegal v.op v.dty || (opIsCmp v.op && stypeLegal v.op v.dty)))
def Vor.cause04 (v : Vor) : Bool :=
  if v.op == 0x40 then v.sty == v.dty
  else if opIsCmp v.op then v.dty != 0xF && v.sty != v.dty
  else typesEqual v.op && v.sty != v.dty
def Vor.cause05 (v : Vor) : Bool :=
  v.rm ≥ 5 || v.dstm == 3 || v.maskm == 3 || [1, 2, 3].any (fun n => sourceReserved (v.src n)) ||
  bitAt 23 v.w0 || fieldAt 43 5 v.w0 != 0 || fieldAt 62 2 v.w1 != 0 ||
  (v.maskm == 0 && (v.mbase != 0 || v.mbit != 0)) ||
  [1, 2, 3, 4].any (fun n => v.isStream n && fieldAt 52 12 (v.opndWord n) != 0)
def Vor.cause06 (v : Vor) : Bool :=
  [1, 2, 3].any (fun n => (v.uses n && v.src n == 0) || (!v.uses n && v.src n != 0)) ||
  [1, 2, 3].any (fun n => (v.src n == 0 || v.isLink n) && v.opndWord n != 0) ||
  (v.dstm == 1 && v.w5 != 0) ||
  [1, 2, 3, 4].any (fun n => !v.isStream n && v.stride n != 0) ||
  (maskRequired v.op && v.maskm == 0) ||
  (opIsRecord v.op && (v.stride 4 != 0 || fieldAt 49 3 v.w5 != 0 || (v.linear 4 && fieldAt 0 3 v.w5 != 0)))
def Vor.cause07 (vors : List Vor) (i : Nat) (v : Vor) : Bool :=
  [1, 2, 3].any (fun n => linkBad vors i v n || formRefused v n) || dstmRefused v
/-- Cause 0x08 (R88). A word-index BIT stream with EOFF other than 0 breaks R83, and no row of the table names it: it is given this
cause (DESIGN CHOICE, notes/assumptions/57.md). -/
def Vor.cause08 (v : Vor) : Bool :=
  [1, 2, 3, 4].any (fun n =>
    v.isStream n && !(n == 4 && opIsRecord v.op) &&
      ((v.layout n).isNone ||
       (let eoff := fieldAt 49 3 (v.opndWord n)
        if v.linear n then eoff != 0 else eoff ≥ (if (v.ty n).isB then 1 else (v.ty n).k))))
def Vor.cause09 (v : Vor) : Bool :=
  [1, 2, 3, 4].any (fun n =>
    v.isStream n &&
      (if v.linear n then !(v.ty n).isB && (fieldAt 0 48 (v.opndWord n)) % ((v.ty n).z / 8) != 0
       else fieldAt 24 24 (v.opndWord n) != 0))
def Vor.cause0A (v : Vor) : Bool := v.sat && !satLegal v
/-- Cause 0x0B (R88). The result record of a PR VOR holds whole words, so its D in linear form is no BIT stream even where DTYPE is
BIT (DESIGN CHOICE, notes/assumptions/57.md). -/
def Vor.cause0B (v : Vor) : Bool :=
  (v.sty == 0xF && !stypeBitOk v.op) || (v.dty == 0xF && !dtypeBitOk v.op) ||
  [1, 2, 3].any (fun n => v.uses n && v.isScalar n && v.tyCode n == 0xF) ||
  [1, 2, 3, 4].any (fun n => v.isStream n && v.tyCode n == 0xF && v.linear n && !(n == 4 && opIsRecord v.op))

/-- A link that breaks R143: START, interval, or more than four consumers of one producer. -/
def Vor.cause0C (vors : List Vor) (fused : Bool) (i : Nat) (v : Vor) : Bool :=
  [1, 2, 3].any (fun n =>
    v.uses n && v.isLink n &&
      match vors[v.linkOf n]? with
      | none => false
      | some p =>
        let due := p.start + latency fused p.op + 1
        let inRange := due ≤ v.start && v.start ≤ due + 31
        let fan := ((vors.take (i + 1)).filter (fun c => [1, 2, 3].any (fun m => c.uses m && c.isLink m && c.linkOf m == v.linkOf n))).length
        !inRange || v.interval vors i != p.interval vors (v.linkOf n) || fan > 4)

/-- The pipe interval [s, s + G × I) of a VOR. -/
def Vor.pipeEnd (vors : List Vor) (lanes i : Nat) (v : Vor) : Nat := v.start + v.nGroups vors lanes * v.interval vors i

def oneAcc (op : Nat) : Bool := op == 0xE0 || op == 0xE1 || op == 0xE4

def pipesMeet (vors : List Vor) (lanes i j : Nat) (v u : Vor) : Bool :=
  v.pipe == u.pipe && v.nGroups vors lanes != 0 && u.nGroups vors lanes != 0 &&
  u.start < v.pipeEnd vors lanes i && v.start < u.pipeEnd vors lanes j

/-- A VOR that overlaps a lower-indexed one on its pipe against R144. -/
def Vor.cause0D (vors : List Vor) (lanes i : Nat) (v : Vor) : Bool :=
  let lower := (List.range i).filterMap (fun j => (vors[j]?).map (fun u => (j, u)))
  let meet := lower.filter (fun ju => pipesMeet vors lanes i ju.1 v ju.2)
  meet.any (fun ju => !(oneAcc v.op && oneAcc ju.2.op)) ||
  meet.any (fun a => meet.any (fun b => a.1 < b.1 &&
    Nat.max (Nat.max a.2.start b.2.start) v.start <
      Nat.min (Nat.min (a.2.pipeEnd vors lanes a.1) (b.2.pipeEnd vors lanes b.1)) (v.pipeEnd vors lanes i)))

/-- A load stream of R138: 0 mask, 1 A, 2 B, 3 C. The table operand of GATHER is none. -/
def Vor.isLoad (v : Vor) (n : Nat) : Bool :=
  if n = 0 then v.maskm == 1 || v.maskm == 2 else v.isStream n && !(n == 1 && v.op == 0x83)
/-- A store stream of R138. -/
def Vor.isStore (v : Vor) : Bool := v.isStream 4 && v.op != 0x84 && !opIsSadd v.op

def Vor.cause0E (v : Vor) : Bool := [0, 1, 2, 3].any (fun n => v.isLoad n) && v.start < 12

/-- The lowest cause that applies to a VOR (R88, R147); 0 for none. -/
def vorCause (vors : List Vor) (fused : Bool) (i : Nat) (v : Vor) : Nat :=
  let lanes := if fused then 128 else 64
  if v.cause01 then 0x01 else if v.cause02 then 0x02 else if v.cause03 then 0x03 else if v.cause04 then 0x04
  else if v.cause05 then 0x05 else if v.cause06 then 0x06 else if v.cause07 vors i then 0x07
  else if v.cause08 then 0x08 else if v.cause09 then 0x09 else if v.cause0A then 0x0A else if v.cause0B then 0x0B
  else if v.cause0C vors fused i then 0x0C else if v.cause0D vors lanes i then 0x0D
  else if v.cause0E then 0x0E else 0

/-! ## Header checks (R137, R146, R187) -/

def hdrWord (h : List W64) (n : Nat) : W64 := h.getD n 0
def hNvor (h : List W64) : Nat := fieldAt 16 5 (hdrWord h 0)
def hExact (h : List W64) : Bool := bitAt 24 (hdrWord h 0)
def hFence (h : List W64) : Bool := bitAt 25 (hdrWord h 0)
def hGrpn (h : List W64) : Nat := fieldAt 26 2 (hdrWord h 0)
def hGrpf (h : List W64) : Bool := bitAt 28 (hdrWord h 0)
def hTsrc (h : List W64) : Nat := fieldAt 32 9 (hdrWord h 0)
def hTen (h : List W64) : Bool := bitAt 41 (hdrWord h 0)
def hPipes (h : List W64) : Nat := fieldAt 0 6 (hdrWord h 1)
def hNload (h : List W64) : Nat := fieldAt 8 4 (hdrWord h 1)
def hNstore (h : List W64) : Nat := fieldAt 12 3 (hdrWord h 1)
def hTend (h : List W64) : Nat := fieldAt 0 48 (hdrWord h 2)
def hTag (h : List W64) : BitVec 32 := (hdrWord h 3).extractLsb' 0 32
def hJctl (h : List W64) : W64 := hdrWord h 4
def hJen (h : List W64) : Bool := bitAt 0 (hJctl h)
def hJbase (h : List W64) : BitVec 45 := (hJctl h).extractLsb' 7 45

def pipesNamed (vors : List Vor) : Nat :=
  vors.foldl (fun m v => if v.pipe ≤ 5 then m ||| 2 ^ v.pipe else m) 0
def nLoads (vors : List Vor) : Nat :=
  vors.foldl (fun m v => m + ([0, 1, 2, 3].filter (fun n => v.isLoad n)).length) 0
def nStores (vors : List Vor) : Nat := (vors.filter (fun v => v.isStore)).length

def cause10 (h : List W64) : Bool :=
  fieldAt 0 16 (hdrWord h 0) != 0xC4E2 || hNvor h == 0 || hNvor h > 16 ||
  fieldAt 21 3 (hdrWord h 0) != 0 || fieldAt 29 3 (hdrWord h 0) != 0 || fieldAt 42 22 (hdrWord h 0) != 0 ||
  fieldAt 6 2 (hdrWord h 1) != 0 || fieldAt 15 49 (hdrWord h 1) != 0 || fieldAt 48 16 (hdrWord h 2) != 0 ||
  fieldAt 32 32 (hdrWord h 3) != 0 || hdrWord h 5 != 0 || hdrWord h 6 != 0 || hdrWord h 7 != 0
def cause11 (h : List W64) (vors : List Vor) : Bool := hPipes h != pipesNamed vors
def cause12 (h : List W64) (vors : List Vor) : Bool :=
  hNload h != nLoads vors || hNstore h != nStores vors || hNload h > 8 || hNstore h > 4
def cause13 (h : List W64) (vors : List Vor) : Bool :=
  (hExact h && vors.any (fun v =>
    (opIsPx v.op && v.op != 0x80) || [1, 2, 3, 4].any (fun n => v.isStream n && v.linear n))) ||
  (!hExact h && hTend h != 0)
/-- R187, with `task` for a chain issued at Task level and `badArea` for a JBASE in a window or a device region. -/
def cause15 (h : List W64) (task badArea : Bool) : Bool :=
  (!hJen h && hJctl h != 0) || fieldAt 2 5 (hJctl h) != 0 || fieldAt 52 12 (hJctl h) != 0 ||
  (hJen h && (task || badArea))

end Sys2Proof.Machine
end

