-- ==== Sys2Proof/Machine/Pipes.lean ====
section
/-! DEFINITION. What the pipes compute: operand fetch from captured words, links and scalars, masks, the element groups of
elementwise, PX and PR operations, and the exact accumulators (R85 to R100, R104 to R133, R576). -/

namespace Sys2Proof.Machine

def streamKey (vi n : Nat) : Nat := 8 * vi + n
def capKey (vi n i : Nat) : Nat := streamKey vi n * 2 ^ 40 + i
def elKey (vi e : Nat) : Nat := vi * 2 ^ 40 + e
/-- Key of the results table for the source element that COMPRESS gives rank `r` (R107). -/
def srcKey (vi r : Nat) : Nat := elKey (64 + vi) r
/-- Keys of the rank table: active elements entered, active elements and element groups presented (EXPAND), rank at the start of
group `n`. -/
def rankEntered (vi : Nat) : Nat := vi
def rankPresented (vi : Nat) : Nat := 64 + vi
def groupsPresented (vi : Nat) : Nat := 128 + vi
def rankAtGroup (vi n : Nat) : Nat := (vi + 1) * 2 ^ 40 + n

def xword0 : XWord := ⟨0, false⟩
def elem0 : Elem := ⟨0, false, false⟩
def red0 : RedAcc := ⟨0, none, none, 0, none, 0, 0, []⟩
def ax0 : Ax := ⟨0, false, false, false, false, false, false, false⟩

/-- The source element of rank `r` of a COMPRESS. -/
def srcOfRank (ch : Chain) (vi r : Nat) : Nat := ((Tab.find ch.res (srcKey vi r)).map (fun x => x.val)).getD 0

/-- Sub-lane `j` of a word, `z` bits (R82). -/
def subLane (w : W64) (z j : Nat) : Nat := (w.toNat >>> (j * z)) % 2 ^ z

/-! ## Operands -/

/-- The element of load stream `n` at element number `e`, once its word has been captured. -/
def streamElem (ch : Chain) (vi : Nat) (v : Vor) (n e : Nat) : Option Elem :=
  let l := v.lay n
  match Tab.find ch.caps (capKey vi n (l.wordNo e)) with
  | none => none
  | some x => some ⟨subLane x.data (v.ty n).z (l.subOf e), x.poison, true⟩

/-- Operand `n` of element `e` (R76): stream, scalar, or link; 0 where the operation does not use it. -/
def srcElem (ch : Chain) (vi : Nat) (v : Vor) (n e : Nat) : Option Elem :=
  if !v.uses n then some elem0
  else if v.isScalar n then some ⟨(v.opndWord n).toNat % 2 ^ (v.ty n).z, false, true⟩
  else if v.isLink n then Tab.find ch.res (elKey (v.linkOf n) e)
  else streamElem ch vi v n e

/-- Whether element `e` is active (R86), and whether its mask word is poisoned (R85). -/
def maskElem (ch : Chain) (vi : Nat) (v : Vor) (e : Nat) : Option (Bool × Bool) :=
  if v.maskm = 0 then some (true, false)
  else match streamElem ch vi v 0 e with
    | none => none
    | some m => if m.poison then some (true, true) else some ((m.val == 1) == (v.maskm == 1), false)

/-! ## Exact accumulators (R128 to R130) -/

def Ax.addVal (a : Ax) (x : FVal) (snan : Bool) : Ax :=
  let a := { a with any := true }
  if snan then { a with snan := true, notNegZero := true }
  else match x with
    | .nan true => { a with zeroInf := true, notNegZero := true }
    | .nan false => { a with qnan := true, notNegZero := true }
    | .inf true => { a with ninf := true, notNegZero := true }
    | .inf false => { a with pinf := true, notNegZero := true }
    | .num neg m e =>
      { a with
        sum := a.sum + BitVec.ofInt 4288 (scaled neg m (e + 2152) 0)
        notNegZero := a.notNegZero || !(neg && m == 0) }

/-- AX0 and AX1 added exactly (R129). -/
def Ax.join (a b : Ax) : Ax :=
  ⟨a.sum + b.sum, a.snan || b.snan, a.zeroInf || b.zeroInf, a.qnan || b.qnan, a.pinf || b.pinf, a.ninf || b.ninf,
   a.notNegZero || b.notNegZero, a.any || b.any⟩

/-- The result of an accumulator in a format (R129, R130). -/
def Ax.result (a : Ax) (f : Fmt) (rm : Nat) : Nat × Flags8 :=
  if a.snan || a.zeroInf then (f.nan, flNV)
  else if a.qnan then (f.nan, 0)
  else if a.pinf && a.ninf then (f.nan, flNV)
  else if a.pinf then (f.infBits, 0)
  else if a.ninf then (f.signBit true + f.infBits, 0)
  else
    let t := a.sum.toInt
    if t = 0 then (f.signBit (if a.any && !a.notNegZero then true else if a.any then zeroSumNeg rm else false), 0)
    else f.round rm (t < 0) t.natAbs (-2152)

/-! ## The fixed tree of RSUM (R122) -/

/-- A node of the tree: EMPTY passes the other side on. -/
def treeNode (f : Fmt) (rm : Nat) (a b : Option Nat) : Option Nat × Flags8 :=
  match a, b with
  | none, y => (y, 0)
  | x, none => (x, 0)
  | some x, some y => let r := f.add rm x y; (some r.1, r.2)

/-- Joins equal-sized partial sums, newest first, as the streaming evaluation does. -/
def treeJoin (f : Fmt) (rm : Nat) : Nat → List (Nat × Option Nat) → Flags8 → List (Nat × Option Nat) × Flags8
  | 0, t, fl => (t, fl)
  | fuel + 1, (n, x) :: (m, y) :: rest, fl =>
    if n = m then
      let r := treeNode f rm y x
      treeJoin f rm fuel ((n + m, r.1) :: rest) (fl ||| r.2)
    else ((n, x) :: (m, y) :: rest, fl)
  | _, t, fl => (t, fl)

def treePush (f : Fmt) (rm : Nat) (t : List (Nat × Option Nat)) (leaf : Option Nat) : List (Nat × Option Nat) × Flags8 :=
  treeJoin f rm 64 ((1, leaf) :: t) 0

/-- The root: the remaining partial sums joined from the right, EMPTY written as +0, a lone NaN made canonical. -/
def treeRoot (f : Fmt) (rm : Nat) (t : List (Nat × Option Nat)) : Nat × Flags8 :=
  let r := t.foldl (fun (acc : Option Nat × Flags8) e => let n := treeNode f rm e.2 acc.1; (n.1, acc.2 ||| n.2)) (none, 0)
  match r.1 with
  | none => (0, 0)
  | some x => if f.isNan x then (f.nan, r.2 ||| (if f.isSnan x then flNV else 0)) else (x, r.2)

/-! ## Reductions (R119 to R127, R576) -/

/-- One good active element of a reduction that is neither exact nor a rounded sum: the accumulator after it, and flags. -/
def redFold (op : Nat) (t : ETy) (e x : Nat) (r : RedAcc) : RedAcc × Flags8 :=
  let f := t.fmt
  let first := r.val.isNone
  let old := r.val.getD x
  let put (p : Nat × Flags8) : RedAcc × Flags8 := ({ r with val := some p.1 }, p.2)
  let extreme (mx : Bool) : RedAcc × Flags8 :=
    if t.isF then
      if f.isNan x then
        ({ r with nanIdx := some (r.nanIdx.getD e) }, if f.isSnan x then flNV else 0)
      else if first || (if mx then f.key0 x > f.key0 old else f.key0 x < f.key0 old) then ({ r with val := some x, idx := e }, 0)
      else (r, 0)
    else if first || (if mx then t.toInt x > t.toInt old else t.toInt x < t.toInt old) then ({ r with val := some x, idx := e }, 0)
    else (r, 0)
  match op with
  | 0xC2 => if t.isF then put (f.minmax false old x) else put (if t.toInt x < t.toInt old then x else old, 0)
  | 0xC3 => if t.isF then put (f.minmax true old x) else put (if t.toInt x > t.toInt old then x else old, 0)
  | 0xC4 => put (f.minmaxnum false old x)
  | 0xC5 => put (f.minmaxnum true old x)
  | 0xC6 => ({ r with isum := r.isum + t.toInt x }, 0)
  | 0xC7 => put (old &&& x, 0)
  | 0xC8 => put (if first then x else old ||| x, 0)
  | 0xC9 => put (if first then x else old ^^^ x, 0)
  | 0xCA => extreme false
  | 0xCB => extreme true
  | 0xCC => ({ r with isum := r.isum + t.toInt x }, 0)
  | 0xCD => if x = 1 then ({ r with val := some (r.val.getD e), ones := r.ones + 1 }, 0) else (r, 0)
  | _ => (r, 0)

def allOnes64 : Nat := 2 ^ 64 - 1

/-- The result record of a PR VOR (R120, R121, R124 to R127, R129, R576): word 0 with its poison, word 1, and the flags; `ax` is the
total of an exact VOR. -/
def recordOf (v : Vor) (r : RedAcc) (ax : Ax) : XWord × W64 × Flags8 :=
  let t := v.ty 4
  let st := v.ty 1
  let f := st.fmt
  let op := v.op
  let indexed := op == 0xCA || op == 0xCB
  let (w0, fl) : Nat × Flags8 :=
    match op with
    | 0xC0 => treeRoot f v.rm r.tree
    | 0xC6 => t.store v.sat r.isum
    | 0xC7 => (r.val.getD (2 ^ t.z - 1), 0)
    | 0xC8 => (r.val.getD 0, 0)
    | 0xC9 => (r.val.getD 0, 0)
    | 0xCD => (r.val.getD allOnes64, 0)
    | 0xE0 => ax.result t.fmt v.rm
    | 0xE1 => ax.result t.fmt v.rm
    | 0xE2 => ax.result t.fmt v.rm
    | 0xE3 => ax.result t.fmt v.rm
    | _ =>
      -- the extremes
      if st.isF then (if r.nanIdx.isSome then f.nan else r.val.getD f.nan, 0)
      else (r.val.getD (st.wrap (if op == 0xC2 || op == 0xCA then st.imax else st.imin)), 0)
  let w1 : Nat :=
    if indexed then
      match r.pois with
      | some e => e
      | none =>
        if r.count = 0 then allOnes64
        else match r.nanIdx with
          | some e => e
          | none => r.idx
    else if op == 0xCD then r.ones
    else r.count
  (⟨BitVec.ofNat 64 (w0 % 2 ^ 64), r.pois.isSome⟩, BitVec.ofNat 64 w1, fl)

/-! ## Element groups entering a pipe -/

/-- What an element group works on: the chain and the two exact accumulators. -/
structure Pipe where
  ch : Chain
  a0 : Ax
  a1 : Ax

def Pipe.setRes (p : Pipe) (vi e : Nat) (x : Elem) : Pipe := { p with ch := { p.ch with res := Tab.insert p.ch.res (elKey vi e) x } }
def Pipe.flag (p : Pipe) (f : Flags8) : Pipe := { p with ch := { p.ch with flags := p.ch.flags ||| f } }

/-- A one-accumulator exact VOR uses AX1 when it overlaps a lower-indexed one that uses AX0 (R144). -/
def usesAx1 (vors : List Vor) (lanes : Nat) : Nat → Nat → Bool
  | 0, _ => false
  | fuel + 1, i =>
    match vors[i]? with
    | none => false
    | some v => oneAcc v.op &&
      (List.range i).any (fun j => match vors[j]? with
        | none => false
        | some u => oneAcc u.op && pipesMeet vors lanes i j v u && !usesAx1 vors lanes fuel j)

def Pipe.getAx (p : Pipe) (one : Bool) : Ax := if one then p.a1 else p.a0
def Pipe.setAx (p : Pipe) (one : Bool) (a : Ax) : Pipe := if one then { p with a1 := a } else { p with a0 := a }

/-- The summand of an exact VOR (R128), and whether an operand is a signalling NaN. -/
def exactSummand (v : Vor) (a b : Nat) : FVal × Bool :=
  let f := (v.ty 1).fmt
  if opIsDot v.op then (mulVal (f.decode a) (f.decode b), f.isSnan a || f.isSnan b)
  else (f.decode a, f.isSnan a)

/-- One active element of a PR operation (R119 to R132, R576). -/
def enterPr (lanes vi : Nat) (v : Vor) (e : Nat) (mp : Bool) (a b : Elem) (p : Pipe) : Pipe :=
  let r0 := Tab.get red0 p.ch.red vi
  let one := usesAx1 p.ch.vors lanes 17 vi
  let bad := mp || a.poison || (opIsDot v.op && b.poison)
  let r1 := { r0 with count := r0.count + 1 }
  let putRed (r : RedAcc) (p : Pipe) : Pipe := { p with ch := { p.ch with red := Tab.insert p.ch.red vi r } }
  if bad then
    -- an EMPTY leaf can complete additions of the elements before it, whose flags are raised (R122, R576)
    let t := if v.op == 0xC0 then treePush (v.ty 1).fmt v.rm r1.tree none else (r1.tree, 0)
    let r2 := { r1 with
      pois := some (r1.pois.getD e)
      ones := if v.op == 0xCD && !a.poison && a.val == 1 then r1.ones + 1 else r1.ones
      tree := t.1 }
    let p1 := (putRed r2 p).flag t.2
    if opIsScan v.op then p1.setRes vi e ⟨0, true, true⟩ else p1
  else if v.op == 0xC0 then
    let t := treePush (v.ty 1).fmt v.rm r1.tree (some a.val)
    (putRed { r1 with tree := t.1 } p).flag t.2
  else if opIsExact v.op then
    let s := exactSummand v a.val b.val
    let which := if opIsWide v.op then e % 2 == 1 else one
    let p1 := (putRed r1 p).setAx which ((p.getAx which).addVal s.1 s.2)
    if v.op == 0xE4 then
      let res := (p1.getAx which).result (v.ty 4).fmt v.rm
      if r1.pois.isSome then p1.setRes vi e ⟨0, true, true⟩ else (p1.setRes vi e ⟨res.1, false, true⟩).flag res.2
    else p1
  else
    let f := redFold v.op (v.ty 1) e a.val r1
    let p1 := (putRed f.1 p).flag f.2
    if v.op == 0xCC then
      let x := (v.ty 4).store v.sat f.1.isum
      if f.1.pois.isSome then p1.setRes vi e ⟨0, true, true⟩ else (p1.setRes vi e ⟨x.1, false, true⟩).flag x.2
    else p1

/-- An inactive element of RSUM is an EMPTY leaf of the tree (R122); the additions it completes raise their flags. -/
def emptyLeaf (vi : Nat) (v : Vor) (p : Pipe) : Pipe :=
  let r := Tab.get red0 p.ch.red vi
  let t := treePush (v.ty 1).fmt v.rm r.tree none
  Pipe.flag { p with ch := { p.ch with red := Tab.insert p.ch.red vi { r with tree := t.1 } } } t.2

/-- One element of VOR `vi` enters its pipe; `none` while an operand has not arrived. The link of an inactive element carries A's value
(R87); where CVT and XSCAN give D another size, it is cut or extended with zeros to that size (DESIGN CHOICE,
notes/assumptions/55.md). -/
def enterElem (lanes vi : Nat) (v : Vor) (e : Nat) (p : Pipe) : Option Pipe :=
  match maskElem p.ch vi v e with
  | none => none
  | some (act, mp) =>
    let rk := Tab.get 0 p.ch.rank (rankEntered vi)
    let bumpRank (p : Pipe) : Pipe :=
      if act then { p with ch := { p.ch with rank := Tab.set 0 p.ch.rank (rankEntered vi) (rk + 1) } } else p
    let op := v.op
    if op == 0x84 || opIsSadd op then some p
    else if op == 0x83 then
      -- GATHER: results come with the table reads; inactive and poisoned elements are settled here
      match srcElem p.ch vi v 2 e with
      | none => none
      | some ix =>
        if !act then some (p.setRes vi e ⟨0, false, false⟩)
        else if mp || ix.poison then some (p.setRes vi e ⟨0, true, true⟩)
        else if (Tab.find p.ch.res (elKey vi e)).isSome then some p else none
    else if op == 0x82 then
      -- EXPAND: A is addressed by rank
      if !act then some (bumpRank (p.setRes vi e ⟨0, false, false⟩))
      else match streamElem p.ch vi v 1 rk with
        | none => none
        | some a => some (bumpRank (p.setRes vi e ⟨a.val, mp || a.poison, true⟩))
    else
      match srcElem p.ch vi v 1 e, srcElem p.ch vi v 2 e, srcElem p.ch vi v 3 e with
      | some a, some b, some c =>
        let p1 := bumpRank p
        if op == 0x80 then
          let x := if act then a else b
          some (p1.setRes vi e ⟨x.val, mp || x.poison, true⟩)
        else if op == 0x81 then
          -- COMPRESS: the result is element rank(e) of D
          if act then
            let p2 := p1.setRes vi rk ⟨a.val, mp || a.poison, true⟩
            some { p2 with ch := { p2.ch with res := Tab.insert p2.ch.res (srcKey vi rk) ⟨e, false, true⟩ } }
          else some p1
        else if opIsPr op then
          if act then some (enterPr lanes vi v e mp a b p1)
          else
            let p2 := if op == 0xC0 then emptyLeaf vi v p1 else p1
            if opIsScan op then some (p2.setRes vi e ⟨a.val % 2 ^ (v.ty 4).z, a.poison, false⟩) else some p2
        else if !act then some (p1.setRes vi e ⟨a.val % 2 ^ (v.ty 4).z, a.poison, false⟩)
        else if mp || a.poison || b.poison || c.poison then some (p1.setRes vi e ⟨0, true, true⟩)
        else
          let r := elemOp op (v.ty 1) (v.ty 4) v.rm v.sat a.val b.val c.val
          some ((p1.setRes vi e ⟨r.1, false, true⟩).flag r.2)
      | _, _, _ => none

def enterElems (lanes vi : Nat) (v : Vor) : List Nat → Pipe → Option Pipe
  | [], p => some p
  | e :: es, p => match enterElem lanes vi v e p with
    | none => none
    | some p1 => enterElems lanes vi v es p1

/-- The total of an exact VOR, kept for its result record when its last group has entered (R129): a following VOR may clear the
accumulator before the record is formed. -/
def keepTotal (lanes vi : Nat) (v : Vor) (n : Nat) (p : Pipe) : Pipe :=
  if opIsExact v.op && n + 1 == v.nGroups p.ch.vors lanes then
    let a := if opIsWide v.op then p.a0.join p.a1 else p.getAx (usesAx1 p.ch.vors lanes 17 vi)
    { p with ch := { p.ch with axs := Tab.set ax0 p.ch.axs vi a } }
  else p

/-- Element group `n` of VOR `vi` enters: its rank at the start is kept, an exact VOR clears its accumulator first (R128). -/
def enterGroup (lanes vi : Nat) (v : Vor) (n : Nat) (p : Pipe) : Option Pipe :=
  let w := lanes * v.g p.ch.vors
  let p0 := { p with ch := { p.ch with
    rank := Tab.set 0 p.ch.rank (rankAtGroup vi n) (Tab.get 0 p.ch.rank (rankEntered vi)) } }
  let p1 :=
    if n = 0 && opIsExact v.op then
      if opIsWide v.op then { p0 with a0 := ax0, a1 := ax0 } else p0.setAx (usesAx1 p.ch.vors lanes 17 vi) ax0
    else p0
  match enterElems lanes vi v ((List.range (Nat.min w (v.len - n * w))).map (fun i => n * w + i)) p1 with
  | none => none
  | some p2 => some (keepTotal lanes vi v n { p2 with ch := { p2.ch with groups := Tab.set 0 p2.ch.groups vi (n + 1) } })

/-- Every group of VOR `vi` whose entry time has come and whose operands are there enters (R142). -/
def enterVor (lanes vi : Nat) (v : Vor) : Nat → Pipe → Pipe
  | 0, p => p
  | fuel + 1, p =>
    let n := Tab.get 0 p.ch.groups vi
    if n < v.nGroups p.ch.vors lanes && v.start + n * v.interval p.ch.vors vi ≤ p.ch.time then
      match enterGroup lanes vi v n p with
      | none => p
      | some p1 => enterVor lanes vi v fuel p1
    else p

/-- All VORs, in order, so that a producer's group enters before its consumer's. -/
def enterAll (lanes : Nat) (p : Pipe) : Pipe :=
  (List.range p.ch.vors.length).foldl (fun p vi =>
    match p.ch.vors[vi]? with
    | none => p
    | some v => enterVor lanes vi v (p.ch.time + 1) p) p

end Sys2Proof.Machine
end

