-- ==== Sys2Proof/Machine/Engine.lean ====
section
/-! DEFINITION. The vector engine's chains in flight: presentation of scheduled actions, stream translation, stream buffers
and line writes, faults, the journal, and the end of a chain (spec/05_chaining_contract.md, spec/06_external_streams.md). -/

namespace Sys2Proof.Machine

def State.chain (s : State) (slot : Fin 4) : Option Chain := s.eng.slots.get slot
def setEng (e : Engine) (s : State) : State := { s with eng := e }
def setChain (slot : Fin 4) (ch : Chain) (s : State) : State :=
  setEng { s.eng with slots := s.eng.slots.set slot (some ch) } s
def withChain (slot : Fin 4) (f : Chain → Chain) (s : State) : State :=
  match s.chain slot with
  | none => s
  | some ch => setChain slot (f ch) s

def lanesOf (s : State) : Nat := if s.role.fused then 128 else 64

/-- Which launch slot a bank request's destination belongs to. -/
def ReqDest.slot : ReqDest → Option (Fin 4)
  | .load s _ _ _ => some s
  | .lineWord s _ _ _ _ => some s
  | .store s _ _ => some s
  | .gather s _ _ => some s
  | .sadd s _ _ => some s
  | _ => none

/-- The tile is the ODD tile of a pair (R6, R443). -/
def isOdd (s : State) : Bool := s.role.fused && s.id.pairpos == 2

/-- The word index, as operands name it, of a local word (R445). -/
def fusedWord (s : State) (w : Nat) : Nat := if s.role.fused then 2 * w + (if s.id.pairpos = 2 then 1 else 0) else w

/-- Chain line writes and journal records leave the tile: MANAGER and WORKER. A DEPUTY makes mirror and log writes only (R17),
which are its firmware's (DEDUCED, notes/assumptions/58.md). -/
def chainOut (s : State) : Bool := outboundOk s && s.role.role != .deputy

def ofSlot (slot : Fin 4) (d : ReqDest) : Bool := d.slot == some slot

/-- A write of a chain, by VOR and lowest element. -/
def ReqDest.writeOf : ReqDest → Option (Nat × Nat)
  | .store _ vi e => some (vi, e)
  | .sadd _ vi e => some (vi, e)
  | _ => none

/-! ## Status records and the end of a chain (R154, R155, R180, R181, R189) -/

def stDone : Nat := 1
def stRejected : Nat := 2
def stSuspended : Nat := 3
def stError : Nat := 4

/-- A status record (R155). -/
def mkStatus (state : Nat) (exact : Bool) (vorx : Nat) (cause flags : BitVec 8) (tag : BitVec 32) (endt stalls : Nat) (launchT : W64) : StatusRec :=
  { w0 := BitVec.ofNat 64 (state + b2n exact * 2 ^ 4 + vorx * 2 ^ 8 + cause.toNat * 2 ^ 16 + flags.toNat * 2 ^ 24 + tag.toNat * 2 ^ 32),
    w1 := BitVec.ofNat 64 endt, w2 := BitVec.ofNat 64 stalls, w3 := launchT }

def captured0 : Captured := ⟨false, 0, 0, 0, 0⟩
def entry0 : QEntry := ⟨false, .word 0, captured0, .gone, [], [], [], false, none, none, false, false⟩

def State.entry (s : State) (c : CoreId) (e : Fin 8) : QEntry := Tab.get entry0 (s.entries.get c) e.val
def setEntry (c : CoreId) (e : Fin 8) (q : QEntry) (s : State) : State :=
  { s with entries := s.entries.set c (Tab.set entry0 (s.entries.get c) e.val q) }

/-- Returns a status record to the issuing core; a final record is never replaced (R249). After a core reset the record is
discarded, and a final one releases the entry (R470). -/
def deliverStatus (c : CoreId) (e : Fin 8) (r : StatusRec) (final : Bool) (s : State) : State :=
  let q := s.entry c e
  if q.final then s
  else if q.orphan then (if final then setEntry c e entry0 s else s)
  else setEntry c e { q with record := some r, final := final } s

def maxLen (vors : List Vor) : Nat := vors.foldl (fun m v => Nat.max m v.len) 0

/-- Notes that the write of element `e` of a VOR has failed, been dropped or will never be made. -/
def noteLost (vi e : Nat) (ch : Chain) : Chain :=
  let old := Tab.get 0 ch.lost vi
  { ch with lost := Tab.set 0 ch.lost vi (if old = 0 then e + 1 else Nat.min old (e + 1)) }

/-- The largest c ≤ LEN such that every write of elements below c has been granted or acknowledged on this tile (R188). -/
def committedVor (s : State) (slot : Fin 4) (ch : Chain) (vi : Nat) (v : Vor) : Nat :=
  let low (m : Nat) (d : ReqDest) : Nat :=
    if ofSlot slot d then
      match d.writeOf with
      | some (i, e) => if i = vi then Nat.min m e else m
      | none => m
    else m
  let m0 := Nat.min v.len (Tab.get 0 ch.wpos vi)
  let m1 := s.vs.reqs.foldl (fun m r => low m r.dest) m0
  let m2 := s.vs.halves.foldl (fun m h => low m h.2.dest) m1
  let m3 := ch.withheld.foldl (fun m r => low m r.dest) m2
  let m4 := (ch.lwQueue ++ ch.lwOut).foldl (fun m l => if l.vor = vi then Nat.min m l.e else m) m3
  let m5 := ch.px.foldl (fun m a => if a.vor = vi then Nat.min m a.e else m) m4
  let m6 := if Tab.get 0 ch.lost vi = 0 then m5 else Nat.min m5 (Tab.get 0 ch.lost vi - 1)
  if opIsRecord v.op && m6 < v.len then 0 else m6

def Vor.writes (v : Vor) : Bool := v.isStream 4

/-- The committed count C of this tile's writes (R188). -/
def committedHere (s : State) (slot : Fin 4) (ch : Chain) : Nat :=
  let cs := (List.range ch.vors.length).filterMap (fun vi =>
    match ch.vors[vi]? with
    | none => none
    | some v => if v.writes then some (committedVor s slot ch vi v, v.len) else none)
  let short := cs.filter (fun x => x.1 < x.2)
  match short with
  | [] => maxLen ch.vors
  | x :: rest => rest.foldl (fun m y => Nat.min m y.1) x.1

/-- The committed count C (R188): in a pair the writes of both tiles count. -/
def committed (s : State) (slot : Fin 4) (ch : Chain) : Nat :=
  let c := committedHere s slot ch
  if s.role.fused then Nat.min c ch.peer.commit.toNat else c

def mkJRec (kind : JKind) (cause : BitVec 8) (vorx wmark : Nat) (ch : Chain) : JRec :=
  ⟨kind, ch.flags, cause, vorx, wmark, ch.time, ch.stalls⟩

/-- A record falls due and replaces one that still waits (R189). -/
def Journal.due (j : Journal) (r : JRec) : Journal := if j.jen then { j with waiting := some r } else j

/-- A PROGRESS record falls due when C reaches a multiple of 65,536 above the last record's watermark (R189, R192). -/
def journalProgress (slot : Fin 4) (s : State) : State :=
  match s.chain slot with
  | none => s
  | some ch =>
    let c := committed s slot ch
    let m := c / 65536 * 65536
    let waitingMark := match ch.journal.waiting with
      | some r => r.wmark
      | none => 0
    if ch.journal.jen && m > ch.journal.wmark && m > waitingMark then
      setChain slot { ch with journal := ch.journal.due (mkJRec .progress 0 0 m ch) } s
    else s

/-- Writes of the chain that have been issued and not yet landed. -/
def writesOut (s : State) (slot : Fin 4) (ch : Chain) : Bool :=
  !ch.lwOut.isEmpty || s.vs.halves.any (fun h => ofSlot slot h.2.dest)

/-- Responses of any kind that the chain still awaits. -/
def responsesOut (s : State) (slot : Fin 4) (ch : Chain) : Bool :=
  writesOut s slot ch || s.vs.reqs.any (fun q => ofSlot slot q.dest) || ch.px.any (fun a => a.wait.isSome) || ch.lines.any (fun l => l.words.isNone && l.fault.isNone) ||
  s.eng.walks.any (fun w => w.slot == slot)

def faultRec0 : FaultRec := ⟨false, false, 0, 0, 0, 0, 0, false, 0, 0, 0, 0⟩

/-- Clears VALID of a slot's fault record (R183, R184). -/
def clearFault (slot : Fin 4) (s : State) : State :=
  setEng { s.eng with flt := s.eng.flt.set slot { s.eng.flt.get slot with valid := false } } s

def engBump (s : State) (n : Nat) : State := setEng { s.eng with stall := s.eng.stall.bump n } s

/-- A chain leaves its slot with a final record, its chain-done pulse, and its last journal record due (R154, R181, R189). -/
def finishChain (slot : Fin 4) (state : Nat) (cause : BitVec 8) (vorx : Nat) (s : State) : State :=
  match s.chain slot with
  | none => s
  | some ch =>
    let ok := state == stDone
    let exact := ok && hExact ch.hdr && ch.stalls == 0 && ch.time == hTend ch.hdr
    let cause' : BitVec 8 := if ok then (if hExact ch.hdr && ch.stalls == 0 && ch.time != hTend ch.hdr then 0x20 else 0) else cause
    let r := mkStatus state exact vorx cause' ch.flags (hTag ch.hdr) ch.time ch.stalls ch.launchT
    let wm := if ok then maxLen ch.vors else committed s slot ch / 64 * 64
    let j := ch.journal.due (mkJRec (if ok then .done else .error) (if ok then 0 else cause) vorx wm ch)
    let e := s.eng
    let slots := e.slots.set slot none
    let slots' := ch.group.foldl (fun (q : Quad (Option Chain)) i =>
      match q.get i with
      | some m => if i = slot then q else q.set i (some { m with group := m.group.erase slot })
      | none => q) slots
    let s1 := setEng { e with
      slots := slots'
      tails := if j.jen then e.tails.set slot (e.tails.get slot ++ [j]) else e.tails
      walks := e.walks.filter (fun w => w.slot != slot) } s
    let s2 := clearFault slot s1
    let s3 := setVs { s2.vs with reqs := s2.vs.reqs.filter (fun q => !ofSlot slot q.dest) } s2
    let s4 := setPair { s3.pair with inbox := s3.pair.inbox.filter (fun q => q.slot != slot) } s3
    -- record, pulse and trace packet belong to the issuing core's tile (R448)
    if ch.far then s4
    else
      let src := srcChainDone ch.core ch.entry
      let s5 := setEng { s4.eng with pulses := Tab.set 0 s4.eng.pulses src (s4.eng.time.toNat + 1) } s4
      traceChdone (hTag ch.hdr) state ch.flags (arrive src (deliverStatus ch.core ch.entry r true s5))

/-- An ending chain ends once every outstanding response has returned (R181, R184). -/
def tryEnd (slot : Fin 4) (s : State) : State :=
  match s.chain slot with
  | none => s
  | some ch =>
    match ch.status with
    | .ending cause vorx _ => if responsesOut s slot ch then s else finishChain slot stError cause vorx s
    | _ => s

/-- The chain takes no further action and ends in ERROR once what it has issued has returned (R181, R184, R427); a chain write error and
a poisoned index are logged. -/
def failChain (slot : Fin 4) (cause : BitVec 8) (vorx : Nat) (pa : BitVec 52) (logIt : Bool) (s : State) : State :=
  match s.chain slot with
  | none => s
  | some ch =>
    match ch.status with
    | .ending _ _ _ => s
    | _ =>
      let ch0 := ch.lwQueue.foldl (fun c l => noteLost l.vor l.e c) ch
      let ch1 := (ch.px.filter (fun a => a.wait.isNone && a.kind != .gather)).foldl (fun c a => noteLost a.vor a.e c) ch0
      let ch2 := (ch.withheld.filterMap (fun r => r.dest.writeOf)).foldl (fun c x => noteLost x.1 x.2 c) ch1
      let ch3 := { ch2 with status := .ending cause vorx pa, lwQueue := [], withheld := [], px := ch.px.filter (fun a => a.wait.isSome),
                            lines := ch.lines.filter (fun l => l.words.isNone && l.fault.isNone) }
      let s2 := clearFault slot (setChain slot ch3 s)
      if logIt then logRecord 0x02 unitEngine pa (cause.zeroExtend 64) false s2 else s2

/-! ## What a suspension tells (R180, R189) -/

/-- The SUSPENDED status record and ENG_SUSPEND, in the VCLK after suspension (R180). -/
def tellSuspended (slot : Fin 4) (s : State) : State :=
  match s.chain slot with
  | none => s
  | some ch =>
    match ch.status with
    | .suspended f =>
      if ch.told then s
      else
        let r := mkStatus stSuspended false f.vor f.cause ch.flags (hTag ch.hdr) ch.time ch.stalls ch.launchT
        let s1 := setChain slot { ch with told := true } s
        if ch.far then s1 else arrive srcEngSuspend (deliverStatus ch.core ch.entry r false s1)
    | _ => s

/-- The SUSPEND journal record falls due after the writes already issued have returned (R189). -/
def journalSuspend (slot : Fin 4) (s : State) : State :=
  match s.chain slot with
  | none => s
  | some ch =>
    match ch.status with
    | .suspended f =>
      if ch.told && !ch.jtold && !writesOut s slot ch then
        let wm := committed s slot ch / 64 * 64
        setChain slot { ch with jtold := true, journal := ch.journal.due (mkJRec .suspend f.cause f.vor wm ch) } s
      else s
    | _ => s

/-- A SUSPEND record that RESUME has overtaken falls due once the writes issued before it have returned (R189). -/
def journalLate (slot : Fin 4) (s : State) : State :=
  match s.chain slot with
  | none => s
  | some ch =>
    match ch.jsusp with
    | some r =>
      if ch.jold.isEmpty then setChain slot { ch with jsusp := none, journal := ch.journal.due { r with wmark := committed s slot ch / 64 * 64 } } s
      else s
    | none => s

/-! ## Translation of linear operands (R169 to R171, R315) -/

/-- What a translation gives. -/
inductive XRes where
  | ok (pa : Nat)
  | walk
  | fault (f : HeldFault)
  deriving DecidableEq, Repr

def leafCause : LeafFault → BitVec 8
  | .prot => 0x42
  | .atrap => 0x43
  | .dtrap => 0x44

/-- R315: the captured VEC descriptor permits an element of `n` bytes at linear address `a`. -/
def vecOk (c : Captured) (write : Bool) (a : Int) (n : Nat) : Bool :=
  segUsable c.priv.toNat c.vecLim && (if write then segW c.vecLim else segR c.vecLim) &&
  (segBase c.vecBase : Int) ≤ a && a + (n : Int) - 1 ≤ (segBase c.vecBase : Int) + (segLimit c.vecLim : Int)

/-- The fault that is held for a stream's page (R178). -/
def heldPage (ch : Chain) (key lin : Nat) (write : Bool) : Option HeldFault :=
  (ch.pageFaults.find? (fun p => p.page == lin / 4096 && p.key == key && p.write == write)).map (fun p => p.f)

/-- Translates a linear address for a stream of a chain; an entry that fails R319 is discarded (R326). -/
def xlate (ch : Chain) (key lin : Nat) (write : Bool) (s : State) : XRes × State :=
  if !ch.cap.pg then (.ok lin, s)
  else
    match s.eng.tlb.find? (fun t => t.root == ch.cap.root && t.holds lin) with
    | some t =>
      match leafCheck ch.cap.priv.toNat write false write t with
      | none => (.ok (t.pa lin), s)
      | some _ => (.walk, setEng { s.eng with tlb := s.eng.tlb.erase t } s)
    | none =>
      match heldPage ch key lin write with
      | some f => (.fault f, s)
      | none => (.walk, s)

/-- Holds a translation fault with the stream and page that raised it (R178). -/
def holdPage (slot : Fin 4) (page key : Nat) (write : Bool) (f : HeldFault) (s : State) : State :=
  withChain slot (fun ch => { ch with pageFaults := ch.pageFaults ++ [⟨page, key, write, f⟩] }) s

/-- Starts a walk for a stream's page when none runs and fewer than 8 are in flight (R169, R317). -/
def startWalk (slot : Fin 4) (key lin : Nat) (write : Bool) (s : State) : State :=
  match s.chain slot with
  | none => s
  | some ch =>
    if s.eng.walks.any (fun w => w.slot == slot && w.page == lin / 4096 && w.key == key && w.write == write && !w.stale &&
        !w.inv.contains (BitVec.ofNat 48 lin)) || s.eng.walks.length ≥ 8 then s
    else
      let ea := entryAddr (ch.cap.root.toNat * 4096) lin 1
      if walkDevice s ea then holdPage slot (lin / 4096) key write ⟨0x46, 1, BitVec.ofNat 52 ea⟩ s
      else setEng { s.eng with walks := s.eng.walks ++ [⟨slot, ch.cap, lin / 4096, key, 1, BitVec.ofNat 52 ea, write, false, []⟩] } s

/-- Where a translated line leads for the engine (R171): the Vector Store words, an external line, or a fault. `write`
chooses the cause of a decode error. -/
inductive LineRoute where
  | vs (word : Nat)
  | ext
  | held (cause : BitVec 8)
  | decode
  deriving DecidableEq, Repr

def lineRoute (s : State) (pa : Nat) : LineRoute :=
  match routeOf s pa with
  | .setup _ => .held 0x48
  | .ext .device _ => .held 0x47
  | .ext _ _ => .ext
  | .vs off => if off / 8 < wordSpace s then .vs (off / 8) else .decode

/-! ## Load stream buffers (R172, R173, R178) -/

def findLine (ch : Chain) (vi n line : Nat) : Option LineBuf := ch.lines.find? (fun l => l.vor == vi && l.opnd == n && l.vline == line)

def addLine (slot : Fin 4) (l : LineBuf) (s : State) : State := withChain slot (fun ch => { ch with lines := ch.lines ++ [l] }) s

/-- The linear line that holds the `i`th word of a stream. -/
def streamLine (l : Layout) (i : Nat) : Int := l.wordAddr i / 8

/-- A Captured chain at Monitor level may reach secure words (R61). -/
def chainSecure (ch : Chain) : Bool := ch.cap.priv == 2

/-- Requests one line of a load stream, when its translation is there: answers whether the line is requested or held. The caller has
found an element of the line that R315 permits. -/
def fetchLine (slot : Fin 4) (vi n : Nat) (line : Int) (s : State) : Bool × State :=
  match s.chain slot with
  | none => (false, s)
  | some ch =>
    let ln := line.toNat
    if line < 0 ∨ ln ≥ 2 ^ 42 then (true, addLine slot ⟨vi, n, ln, 0, none, [], some ⟨0x42, 0, 0⟩⟩ s)
    else if (findLine ch vi n ln).isSome then (true, s)
    else
      match xlate ch (streamKey vi n) (ln * 64) false s with
      | (.walk, s1) => (false, startWalk slot (streamKey vi n) (ln * 64) false s1)
      | (.fault f, s1) => (true, addLine slot ⟨vi, n, ln, 0, none, [], some f⟩ s1)
      | (.ok pa, s1) =>
        match lineRoute s1 pa with
        | .ext => (true, addLine slot ⟨vi, n, ln, pa / 64, none, [], none⟩ s1)
        | .held c => (true, addLine slot ⟨vi, n, ln, pa / 64, none, [], some ⟨c, 0, 0⟩⟩ s1)
        | .decode => (true, addLine slot ⟨vi, n, ln, pa / 64, none, [], some ⟨0x4A, 0, 0⟩⟩ s1)
        | .vs w =>
          let port := Tab.get 0 ch.ports (streamKey vi n)
          -- a word that the partner tile holds crosses the pair link: a free value
          (List.range 8).foldl (fun (acc : Bool × State) i =>
            match homeWord acc.2 (w + i) with
            | some lw => (true, present [bankReq port lw .read (chainSecure ch) (.lineWord slot vi n ln i)] acc.2)
            | none =>
              let (d, s2) := acc.2.takeWord
              (true, withChain slot (fun c => { c with lines := c.lines.map (fun l =>
                if l.vor == vi && l.opnd == n && l.vline == ln then { l with part := l.part ++ [(i, ⟨d, false⟩)] } else l) }) s2))
            (true, addLine slot ⟨vi, n, ln, pa / 64, none, [], none⟩ s1)

/-- Lines of a stream requested and not yet consumed. -/
def linesOpen (ch : Chain) (vi n : Nat) : Nat := (ch.lines.filter (fun l => l.vor == vi && l.opnd == n)).length

/-- The home tile of an element in a macaron pair (R446): whether this tile computes it. -/
def elemHome (s : State) (ch : Chain) (v : Vor) (e : Nat) : Bool :=
  if !s.role.fused then true
  else
    let par (w : Int) : Nat := (w % 2).toNat
    let p := if v.isStream 4 && v.stride 4 != 0 then par ((v.lay 4).wordAddr 0)
             else if v.isStream 1 then par ((v.lay 1).wordAddr 0) else 0
    (e / v.g ch.vors + p) % 2 == (if s.id.pairpos = 2 then 1 else 0)

/-- The elements of a word that a stream can hold: `firstElem` to `lastElem`, below LEN. -/
def elemsOfWord (l : Layout) (len i : Nat) : List Nat :=
  let a := l.firstElem i
  let b := Nat.min (l.lastElem i + 1) len
  (List.range (b - a)).map (fun j => a + j)

/-- The linear address of the element that a stream holds at element number `e`. -/
def linAddr (v : Vor) (n e : Nat) : Int :=
  let l := v.lay n
  l.wordAddr (l.wordNo e) * 8 + ((l.subOf e * (v.ty n).z / 8 : Nat) : Int)

/-- This tile computes an element of the word and R315 permits its read: the word's line is to be read (R171, R185, R315). -/
def wordWanted (s : State) (ch : Chain) (v : Vor) (n i : Nat) : Bool :=
  (elemsOfWord (v.lay n) v.len i).any (fun e => elemHome s ch v e && vecOk ch.cap false (linAddr v n e) ((v.ty n).z / 8))

/-- The buffer of one load stream reads ahead, line by line in ascending element order, within its window (R172, R173). -/
def prefetch (slot : Fin 4) (vi n : Nat) (v : Vor) (words : Nat) : Nat → State → State
  | 0, s => s
  | fuel + 1, s =>
    match s.chain slot with
    | none => s
    | some ch =>
      let i := Tab.get 0 ch.pfPos (streamKey vi n)
      let next (s : State) : State := withChain slot (fun c => { c with pfPos := Tab.set 0 c.pfPos (streamKey vi n) (i + 1) }) s
      if i ≥ words then s
      else if !wordWanted s ch v n i then prefetch slot vi n v words fuel (next s)
      else
        let line := streamLine (v.lay n) i
        let have_ := line ≥ 0 && (findLine ch vi n line.toNat).isSome
        if !have_ && linesOpen ch vi n ≥ ch.pfLines then s
        else
          let (ok, s1) := fetchLine slot vi n line s
          if ok then prefetch slot vi n v words fuel (next s1) else s1

/-- The linear load streams of a chain. EXPAND's A is read by rank, on demand only (R108). -/
def linearLoads (ch : Chain) : List (Nat × Nat × Vor) :=
  (List.range ch.vors.length).flatMap (fun vi =>
    match ch.vors[vi]? with
    | none => []
    | some v => ([1, 2, 3].filter (fun n => v.isLoad n && v.linear n)).map (fun n => (vi, n, v)))

def prefetchAll (slot : Fin 4) (s : State) : State :=
  match s.chain slot with
  | none => s
  | some ch =>
    (linearLoads ch).foldl (fun s x =>
      let (vi, n, v) := x
      if v.op == 0x82 && n == 1 then s else prefetch slot vi n v ((v.lay n).words v.len) 8192 s) s

/-! ## The schedule's actions (R142) -/

/-- The number of word groups into a stream that is presented at chain time `t`, if one is: every `step` from `first`. -/
def groupAt (t first step : Nat) : Option Nat :=
  if t ≥ first ∧ step ≠ 0 ∧ (t - first) % step = 0 then some ((t - first) / step) else none

/-- The words that a load stream presents at chain time `t`, as word numbers with the element a fault would name. A of EXPAND is
presented by rank instead (R108). -/
def loadWordsAt (s : State) (ch : Chain) (vi : Nat) (v : Vor) (n t : Nat) : List (Nat × Nat) :=
  let lanes := lanesOf s
  let l := v.lay n
  if v.op == 0x82 && n == 1 then []
  else
    match groupAt t (v.start - 12) (l.ks * v.interval ch.vors vi / v.g ch.vors) with
    | none => []
    | some m =>
      ((List.range lanes).map (fun j => m * lanes + j)).filterMap (fun i =>
        if i < l.words v.len then some (i, l.firstElem i) else none)

/-! ### EXPAND (R108) -/

/-- The stored word, as a load returns it. -/
def peekWord (s : State) (lw : Nat) : XWord :=
  let k := s.vs.keyOf lw
  let e := s.vs.mem.err k
  ⟨s.vs.mem.word k, e == .double || e == .poison⟩

/-- The mask words of EXPAND that the present chain time reads decide at once which elements of A the same chain time presents (R108):
the value a mask word has then is the value that its load captures (R101 and R135 leave old or new open; DESIGN CHOICE,
notes/assumptions/59.md). A word that R61 refuses decides nothing. -/
def expandMask (slot : Fin 4) (vi : Nat) (v : Vor) (i : Nat) (s : State) : State :=
  match s.chain slot with
  | none => s
  | some ch =>
    let addr := (v.lay 0).wordAddr i
    if addr < 0 ∨ addr ≥ (wordSpace s : Int) then s
    else if (Tab.find ch.caps (capKey vi 0 i)).isSome then s
    else match homeWord s addr.toNat with
      | some lw =>
        if secureRefused lw (chainSecure ch) s then s
        else setChain slot { ch with caps := Tab.insert ch.caps (capKey vi 0 i) (peekWord s lw) } s
      | none =>
        let (d, s1) := s.takeWord
        let (p, s2) := s1.takeBool
        withChain slot (fun c => { c with caps := Tab.insert c.caps (capKey vi 0 i) ⟨d, p⟩ }) s2

def expandMasks (slot : Fin 4) (s : State) : State :=
  match s.chain slot with
  | none => s
  | some ch =>
    (List.range ch.vors.length).foldl (fun s vi => match ch.vors[vi]? with
      | some v =>
        if v.op == 0x82 && v.len != 0 then (loadWordsAt s ch vi v 0 ch.time).foldl (fun s w => expandMask slot vi v w.1 s) s else s
      | none => s) s

/-- The element group of EXPAND whose A elements are due and not yet presented. -/
def expandDue (s : State) (ch : Chain) (vi : Nat) (v : Vor) : Option Nat :=
  let m := Tab.get 0 ch.rank (groupsPresented vi)
  if v.op == 0x82 && m < v.nGroups ch.vors (lanesOf s) && v.start - 12 + m * v.interval ch.vors vi ≤ ch.time then some m else none

/-- Some EXPAND still owes the presentation of a due group: a mask word has not been captured. -/
def expandOwes (s : State) (ch : Chain) : Bool :=
  (List.range ch.vors.length).any (fun vi => match ch.vors[vi]? with
    | some v => v.len != 0 && (expandDue s ch vi v).isSome
    | none => false)

/-- The elements of group `m` of EXPAND that are active, once every mask word of the group has been captured. -/
def expandActive (s : State) (ch : Chain) (vi : Nat) (v : Vor) (m : Nat) : Option (List Nat) :=
  let lanes := lanesOf s
  let es := (List.range (Nat.min lanes (v.len - m * lanes))).map (fun i => m * lanes + i)
  let act := es.map (fun e => (e, maskElem ch vi v e))
  if act.all (fun x => x.2.isSome) then some ((act.filter (fun x => x.2.any (fun y => y.1))).map (fun x => x.1)) else none

/-! ### Destination words -/

/-- A write of one destination word: its address, the lowest element and its linear address, byte enables, data, poison. No byte is
enabled where every element of the word is inactive (R87). -/
structure WordWrite where
  addr : Int
  e : Nat
  ea : Int
  be : BitVec 8
  data : W64
  poison : Bool

/-- Byte enables of sub-lane `j` of `z` bits. -/
def laneBe (z j : Nat) : BitVec 8 := BitVec.ofNat 8 ((2 ^ (z / 8) - 1) * 2 ^ (j * (z / 8)))

/-- Puts sub-lane elements into one word. -/
def packWord (z : Nat) (els : List (Nat × Elem)) : W64 :=
  BitVec.ofNat 64 (els.foldl (fun m x => m ||| (x.2.val % 2 ^ z) * 2 ^ (x.1 * z)) 0)

/-- The element of the VOR that a D element comes from: itself, or for COMPRESS the source element of that rank (R107; a fault on D
names it, DEDUCED, notes/assumptions/60.md). -/
def ofDest (ch : Chain) (vi : Nat) (v : Vor) (e : Nat) : Nat := if v.op == 0x81 then srcOfRank ch vi e else e

/-- The write of word `i` of destination stream D from elements `es` (as D element numbers), of which this tile writes those it
computes. A word of a BIT destination is written whole (R87, R96), by the tile that holds it. -/
def wordWrite (s : State) (ch : Chain) (vi : Nat) (v : Vor) (i : Nat) (es : List Nat) : WordWrite :=
  let l := v.lay 4
  let t := v.ty 4
  let els := es.filterMap (fun e => match Tab.find ch.res (elKey vi e) with
    | some x => if t.isB || elemHome s ch v (ofDest ch vi v e) then some (e, l.subOf e, x) else none
    | none => none)
  let acts := els.filter (fun x => x.2.2.active)
  let low := es.headD 0
  let mk (be : BitVec 8) (d : W64) (p : Bool) : WordWrite := ⟨l.wordAddr i, ofDest ch vi v low, linAddr v 4 low, be, d, p⟩
  if t.isB then
    if els.isEmpty then mk 0 0 false
    else mk 255 (packWord 1 (acts.map (fun x => (x.2.1, x.2.2)))) (acts.any (fun x => x.2.2.poison))
  else
    let be := acts.foldl (fun (m : BitVec 8) x => m ||| laneBe t.z x.2.1) 0
    mk be (packWord t.z (acts.map (fun x => (x.2.1, x.2.2)))) (acts.any (fun x => x.2.2.poison))

/-- The word groups of D written at chain time `t` (R142): those whose last element's group leaves the pipe at t − 8. -/
def storeWordsAt (s : State) (ch : Chain) (vi : Nat) (v : Vor) (t : Nat) : List Nat :=
  let lanes := lanesOf s
  let w := lanes * v.g ch.vors
  let iv := v.interval ch.vors vi
  let l := v.lay 4
  let nw := l.words v.len
  let nWg := (nw + lanes - 1) / lanes
  let due (m : Nat) : Nat :=
    let lastWord := Nat.min ((m + 1) * lanes) nw - 1
    let lastE := Nat.min (l.lastElem lastWord) (v.len - 1)
    v.start + lastE / w * iv + latency s.role.fused v.op + 8
  match groupAt t (v.start + latency s.role.fused v.op + 8) iv with
  | none => []
  | some g =>
    -- word groups that hold elements of element group g
    let a := l.wordNo (g * w) / lanes
    let b := l.wordNo (Nat.min ((g + 1) * w) v.len - 1) / lanes
    if g * w ≥ v.len then []
    else
      let ms := ((List.range (b + 1 - a)).map (fun j => a + j)).filter (fun m => m < nWg && due m == t)
      ms.flatMap (fun m => (List.range lanes).filterMap (fun j => if m * lanes + j < nw then some (m * lanes + j) else none))

/-- Chain time at which element group `n` of a GATHER, SCATTER or SADD presents its requests (R142). -/
def pxTime (s : State) (ch : Chain) (vi : Nat) (v : Vor) (n : Nat) : Nat :=
  v.start + (if s.role.fused then 16 else 10) + n * v.interval ch.vors vi

/-- The element group whose PX or BSA requests are presented at chain time `t` (R142). -/
def pxGroupAt (s : State) (ch : Chain) (vi : Nat) (v : Vor) (t : Nat) : List Nat :=
  match groupAt t (pxTime s ch vi v 0) (v.interval ch.vors vi) with
  | none => []
  | some n =>
    let w := lanesOf s
    (List.range (Nat.min w (v.len - n * w))).map (fun i => n * w + i)

/-- What one VOR presents at a chain time: bank requests, captured partner words, line writes, PX accesses, or a fault. -/
structure Acts where
  reqs : List BankReq
  caps : List (Nat × Nat × Nat)
  lines : List LineWrite
  px : List PxAcc
  fault : Option SFault
  poiIdx : Option Nat
  crossIn : Nat
  crossOut : Nat
  wpos : Option Nat
  /-- EXPAND: active elements and groups presented, and the elements of A that this chain time needs -/
  rankP : Option (Nat × Nat)
  exp : List (Nat × Nat × Nat)

def acts0 : Acts := ⟨[], [], [], [], none, none, 0, 0, none, none, []⟩

def mkFault (_ch : Chain) (v : Vor) (vi n e : Nat) (cause : BitVec 8) (write : Bool) (addr : Int) (pa : BitVec 52) (level : BitVec 3) : SFault :=
  ⟨cause, vi, e, write, BitVec.ofInt 48 addr, v.linear n, level, pa⟩

/-- Load stream `n` in word-index form at chain time `t` (R35 to R37, R85). In a pair, a word crosses where some element it serves has
its home on the other tile (R446). -/
def presentLoad (s : State) (slot : Fin 4) (ch : Chain) (vi : Nat) (v : Vor) (n t : Nat) : Acts :=
  let l := v.lay n
  let port := Tab.get 0 ch.ports (streamKey vi n)
  (loadWordsAt s ch vi v n t).foldl (fun (a : Acts) (w : Nat × Nat) =>
    if a.fault.isSome then a
    else
      let addr := l.wordAddr w.1
      if addr < 0 ∨ addr ≥ (wordSpace s : Int) then { a with fault := some (mkFault ch v vi n w.2 0x40 false addr 0 0) }
      else match homeWord s addr.toNat with
        | some lw =>
          { a with
            reqs := a.reqs ++ [bankReq port lw .read (chainSecure ch) (.load slot vi n w.1)]
            crossOut := a.crossOut + b2n (s.role.fused && (elemsOfWord l v.len w.1).any (fun e => !elemHome s ch v e)) }
        | none =>
          { a with
            caps := if (Tab.find ch.caps (capKey vi n w.1)).isSome then a.caps else a.caps ++ [(vi, n, w.1)]
            crossIn := a.crossIn + b2n ((elemsOfWord l v.len w.1).any (fun e => elemHome s ch v e)) }) acts0

/-- A of EXPAND, by rank, for the element group that is due (R108): nothing while a mask word of the group has not been captured. -/
def presentExpand (s : State) (slot : Fin 4) (ch : Chain) (vi : Nat) (v : Vor) : Acts :=
  match expandDue s ch vi v with
  | none => acts0
  | some m => match expandActive s ch vi v m with
    | none => acts0
    | some es =>
      let l := v.lay 1
      let port := Tab.get 0 ch.ports (streamKey vi 1)
      let r0 := Tab.get 0 ch.rank (rankPresented vi)
      let els := (List.range es.length).map (fun j => (r0 + j, es.getD j 0))
      let words := els.foldl (fun (acc : List (Nat × Nat)) x =>
        if acc.any (fun q => q.1 == l.wordNo x.1) then acc else acc ++ [(l.wordNo x.1, x.2)]) []
      let go : Acts :=
        if v.linear 1 then { acts0 with exp := els.map (fun x => (vi, x.1, x.2)) }
        else words.foldl (fun (a : Acts) (w : Nat × Nat) =>
          if a.fault.isSome then a
          else
            let addr := l.wordAddr w.1
            if addr < 0 ∨ addr ≥ (wordSpace s : Int) then { a with fault := some (mkFault ch v vi 1 w.2 0x40 false addr 0 0) }
            else if (Tab.find ch.caps (capKey vi 1 w.1)).isSome && (homeWord s addr.toNat).isNone then a
            else match homeWord s addr.toNat with
              | some lw =>
                { a with
                  reqs := a.reqs ++ [bankReq port lw .read (chainSecure ch) (.load slot vi 1 w.1)]
                  crossOut := a.crossOut + b2n (s.role.fused && !elemHome s ch v w.2) }
              | none => { a with caps := a.caps ++ [(vi, 1, w.1)], crossIn := a.crossIn + b2n (elemHome s ch v w.2) }) acts0
      { go with rankP := some (r0 + es.length, m + 1) }

/-- Puts one destination word into the right form: a bank request, or a piece of a line write. A poisoned word is driven as 0 (R458). -/
def placeWrite (s : State) (slot : Fin 4) (ch : Chain) (vi : Nat) (v : Vor) (port : Nat) (w : WordWrite) (faultE : Nat) (a : Acts) : Acts :=
  if a.fault.isSome then a
  else if v.linear 4 then
    if w.addr < 0 ∨ w.addr ≥ 2 ^ 45 then { a with fault := some (mkFault ch v vi 4 faultE 0x42 true w.ea 0 0) }
    else
      let line := w.addr.toNat / 8
      let j := w.addr.toNat % 8
      let be : BitVec 64 := (w.be.zeroExtend 64) <<< (8 * j)
      let data : Line := if w.poison then 0 else (w.data.zeroExtend 512) <<< (64 * j)
      let po : BitVec 8 := if w.poison then BitVec.ofNat 8 (2 ^ j) else 0
      let piece : LineWrite := ⟨vi, w.e, w.ea.toNat, port, line, 0, be, data, po⟩
      match a.lines.getLast? with
      | some p =>
        if p.vline = line ∧ p.vor = vi ∧ p.be &&& be = 0 then
          { a with lines := a.lines.dropLast ++ [{ p with be := p.be ||| be, data := p.data ||| data, pois := p.pois ||| po }] }
        else { a with lines := a.lines ++ [piece] }
      | none => { a with lines := a.lines ++ [piece] }
  else if w.addr < 0 ∨ w.addr ≥ (wordSpace s : Int) then
    { a with fault := some (mkFault ch v vi 4 faultE 0x40 true w.addr 0 0) }
  else if w.be = 0 then a
  else match homeWord s w.addr.toNat with
    | some lw => { a with reqs := a.reqs ++ [bankReq port lw (.write w.data w.be w.poison) (chainSecure ch) (.store slot vi w.e)] }
    | none => { a with crossOut := a.crossOut + 1 }

/-- The first element of a linear destination word that R315 refuses. -/
def linearStoreBad (ch : Chain) (v : Vor) (es : List Nat) : Option Nat :=
  es.find? (fun e => !vecOk ch.cap true (linAddr v 4 e) ((v.ty 4).z / 8))

/-- Destination words `ws`, each with the D elements it takes now (R37, R83, R87). Every word is address-checked, also one whose
elements are all inactive; in a pair a tile makes the line writes of the elements it computes (R185). -/
def presentWords (s : State) (slot : Fin 4) (ch : Chain) (vi : Nat) (v : Vor) (ws : List (Nat × List Nat)) : Acts :=
  let port := Tab.get 8 ch.ports (streamKey vi 4)
  ws.foldl (fun (a : Acts) (w : Nat × List Nat) =>
    if a.fault.isSome then a
    else if v.linear 4 then
      match w.2.filter (fun e => elemHome s ch v (ofDest ch vi v e)) with
      | [] => a
      | e0 :: es => match linearStoreBad ch v (e0 :: es) with
        | some e => { a with fault := some (mkFault ch v vi 4 (ofDest ch vi v e) 0x42 true (linAddr v 4 e) 0 0) }
        | none => placeWrite s slot ch vi v port (wordWrite s ch vi v w.1 (e0 :: es)) (ofDest ch vi v e0) a
    else placeWrite s slot ch vi v port (wordWrite s ch vi v w.1 w.2) (ofDest ch vi v (w.2.headD 0)) a) acts0

/-- The store stream of a VOR with a vector destination (R142). -/
def presentStore (s : State) (slot : Fin 4) (ch : Chain) (vi : Nat) (v : Vor) (t : Nat) : Acts :=
  let l := v.lay 4
  let ws := storeWordsAt s ch vi v t
  let a := presentWords s slot ch vi v (ws.map (fun i => (i, elemsOfWord l v.len i)))
  match ws.getLast? with
  | some i => { a with wpos := some (Nat.min v.len (l.lastElem i + 1)) }
  | none => a

/-- COMPRESS: the D elements of one element group, by rank (R107). -/
def presentCompress (s : State) (slot : Fin 4) (ch : Chain) (vi : Nat) (v : Vor) (t : Nat) : Acts :=
  match groupAt t (v.start + latency s.role.fused v.op + 8) (v.interval ch.vors vi) with
  | none => acts0
  | some n =>
    let w := lanesOf s
    if n * w ≥ v.len then acts0
    else
      let r0 := Tab.get 0 ch.rank (rankAtGroup vi n)
      let r1 := if (n + 1) * w ≥ v.len then Tab.get 0 ch.rank (rankEntered vi) else Tab.get (Tab.get 0 ch.rank (rankEntered vi)) ch.rank (rankAtGroup vi (n + 1))
      let rs := (List.range (r1 - r0)).map (fun j => r0 + j)
      let l := v.lay 4
      let ws := (rs.map l.wordNo).eraseDups
      let a := presentWords s slot ch vi v (ws.map (fun i => (i, rs.filter (fun r => l.wordNo r == i))))
      { a with wpos := some (Nat.min v.len ((n + 1) * w)) }

/-- The first word of a PR result record (R120). -/
def recordBase (v : Vor) : Int := if v.linear 4 then ((fieldAt 0 48 v.w5 / 8 : Nat) : Int) else ((fieldAt 0 24 v.w5 : Nat) : Int)

/-- The result record of a PR VOR (R120, R142). -/
def presentRecord (s : State) (slot : Fin 4) (ch : Chain) (vi : Nat) (v : Vor) (t : Nat) : Acts × Flags8 :=
  let g := v.nGroups ch.vors (lanesOf s)
  if t = v.start + (g - 1) * v.interval ch.vors vi + latency s.role.fused v.op + 8 then
    let (w0, w1, fl) := recordOf v (Tab.get red0 ch.red vi) (Tab.get ax0 ch.axs vi)
    let port := Tab.get 8 ch.ports (streamKey vi 4)
    let base := recordBase v
    if v.linear 4 && !(vecOk ch.cap true (base * 8) 16) then
      ({ acts0 with fault := some (mkFault ch v vi 4 v.len 0x42 true (base * 8) 0 0) }, fl)
    else
      let a := placeWrite s slot ch vi v port ⟨base, v.len - 1, base * 8, 255, w0.data, w0.poison⟩ v.len acts0
      let b := placeWrite s slot ch vi v port ⟨base + 1, v.len - 1, base * 8 + 8, 255, w1, false⟩ v.len a
      ({ b with wpos := some v.len }, fl)
  else (acts0, 0)

/-- The accesses of one element group of GATHER, SCATTER and the SADD family (R109 to R118). In a pair a tile makes those of the
elements it computes (R185), and takes those for its own words that the partner's elements make from PAIR_LINK_REQUEST (R113). -/
def presentPx (s : State) (slot : Fin 4) (ch : Chain) (vi : Nat) (v : Vor) (t : Nat) : Acts :=
  let es := pxGroupAt s ch vi v t
  let gather := v.op == 0x83
  let sadd := opIsSadd v.op
  let n := if gather then 1 else 4
  let l := v.lay n
  let ty := v.ty n
  let kind := if gather then PxKind.gather else if sadd then .sadd else .scatter
  let dest (e : Nat) : ReqDest := if gather then .gather slot vi e else if sadd then .sadd slot vi e else .store slot vi e
  let code : BitVec 4 := match v.op with
    | 0x88 => 0
    | 0x89 => 1
    | 0x8A => 2
    | 0x8B => 3
    | 0x8C => 4
    | _ => 5
  let out := es.foldl (fun (a : Acts) e =>
    if a.fault.isSome || a.poiIdx.isSome then a
    else match maskElem ch vi v e, srcElem ch vi v 2 e with
      | some (true, mp), some ix =>
        if mp && gather then a
        else if ix.poison then (if gather then a else { a with poiIdx := some e })
        else
          let home := elemHome s ch v e
          let j := (v.ty 2).toInt ix.val
          let pos := l.posOf j
          let x : Elem := if gather then elem0
            else if !v.uses 1 then ⟨2 ^ pos.2, mp, true⟩
            else match srcElem ch vi v 1 e with
              | some y => ⟨y.val, y.poison || mp, true⟩
              | none => elem0
          if v.linear n then
            let addr := pos.1 * 8 + ((pos.2 * ty.z / 8 : Nat) : Int)
            if !home then (if gather then { a with caps := a.caps ++ [(vi, 8, e)] } else a)
            else if addr < 0 ∨ addr ≥ 2 ^ 48 then { a with fault := some (mkFault ch v vi n e 0x42 (!gather) addr 0 0) }
            else { a with px := a.px ++ [⟨vi, e, kind, BitVec.ofInt 48 addr, ty.z, x.val, x.poison, none⟩] }
          else if pos.1 < 0 ∨ pos.1 ≥ (wordSpace s : Int) then { a with fault := some (mkFault ch v vi n e 0x40 (!gather) pos.1 0 0) }
          else match homeWord s pos.1.toNat with
            | none =>
              -- a word of the partner tile (R113): the table element is a free value, a write is the partner's
              if gather then { a with caps := a.caps ++ [(vi, 8, e)], crossIn := a.crossIn + b2n home }
              else { a with crossOut := a.crossOut + b2n home }
            | some lw =>
              if !home then
                -- the partner's element asks for it over the link
                if gather then { a with caps := a.caps ++ [(vi, 8, e)], crossOut := a.crossOut + 1 } else { a with crossIn := a.crossIn + 1 }
              else
                let data := if ty.isB then BitVec.ofNat 64 (2 ^ pos.2) else BitVec.ofNat 64 (x.val * 2 ^ (pos.2 * ty.z))
                let op : BankOp :=
                  if gather then .read
                  else if sadd then .acc code data (if ty.z = 32 then BitVec.ofNat 2 (2 ^ pos.2) else 3) (BitVec.ofNat 3 v.rm) x.poison
                  else .write data (laneBe ty.z pos.2) x.poison
                { a with reqs := a.reqs ++ [bankReq (if sadd then 13 else 12) lw op (chainSecure ch) (dest e)] }
      | _, _ => a) acts0
  match es.getLast? with
  | some e => if gather then out else { out with wpos := some (out.poiIdx.getD (e + 1)) }
  | none => out

/-- The element groups of links that cross the pair link at chain time `t`, into this tile and out of it: those whose producer and
consumer have different home tiles, counted by lane when the consumer's group enters (R446). -/
def crossLinks (s : State) (ch : Chain) (vi : Nat) (v : Vor) (t : Nat) : Nat × Nat :=
  if !s.role.fused then (0, 0)
  else match groupAt t v.start (v.interval ch.vors vi) with
    | none => (0, 0)
    | some m =>
      let lanes := lanesOf s
      let g := v.g ch.vors
      let es := ((List.range lanes).map (fun i => (m * lanes + i) * g)).filter (fun e => e < v.len)
      ([1, 2, 3].filter (fun n => v.uses n && v.isLink n)).foldl (fun acc n => match ch.vors[v.linkOf n]? with
        | none => acc
        | some p =>
          (acc.1 + (es.filter (fun e => elemHome s ch v e && !elemHome s ch p e)).length,
           acc.2 + (es.filter (fun e => !elemHome s ch v e && elemHome s ch p e)).length)) (0, 0)

/-- The partial results of R134 that cross at chain time `t`: one word each way when the result of a reduction, or the group of a scan
or a COMPRESS, leaves its pipe (R446 gives no number; DESIGN CHOICE, notes/assumptions/61.md). -/
def crossPartial (s : State) (ch : Chain) (vi : Nat) (v : Vor) (t : Nat) : Nat :=
  let iv := v.interval ch.vors vi
  let out0 := v.start + latency s.role.fused v.op
  if !s.role.fused then 0
  else if opIsRecord v.op then b2n (t == out0 + (v.nGroups ch.vors (lanesOf s) - 1) * iv)
  else if opIsScan v.op || v.op == 0x81 then
    b2n (match groupAt t out0 iv with
      | some m => m < v.nGroups ch.vors (lanesOf s)
      | none => false)
  else 0

/-- Everything one VOR presents at chain time `t`. -/
def presentVor (s : State) (slot : Fin 4) (ch : Chain) (vi : Nat) (v : Vor) (t : Nat) : List Acts × Flags8 :=
  if v.len = 0 then ([], 0)
  else
    let x := crossLinks s ch vi v t
    let y := crossPartial s ch vi v t
    let links : Acts := { acts0 with crossIn := x.1 + y, crossOut := x.2 + y }
    let streams := ([0, 1, 2, 3].filter (fun n => v.isLoad n && !v.linear n)).map (fun n => presentLoad s slot ch vi v n t)
    let loads := links :: streams ++ (if v.op == 0x82 then [presentExpand s slot ch vi v] else [])
    if opIsRecord v.op then
      let r := presentRecord s slot ch vi v t
      (loads ++ [r.1], r.2)
    else if opIndexed v.op && v.op != 0x83 then (loads ++ [presentPx s slot ch vi v t], 0)
    else
      let px := if v.op == 0x83 then [presentPx s slot ch vi v t] else []
      let st := if v.isStream 4 then (if v.op == 0x81 then [presentCompress s slot ch vi v t] else [presentStore s slot ch vi v t]) else []
      (loads ++ px ++ st, 0)

/-- The lowest VORX, then the lowest FIDX, of faults taking effect together (R179). -/
def lowestFault (fs : List SFault) : Option SFault :=
  fs.foldl (fun b f => match b with
    | none => some f
    | some g => if f.vor < g.vor || (f.vor == g.vor && f.fidx < g.fidx) then some f else some g) none

/-- Captures a partner tile's word, or a GATHER element of it, as a free value (R446). -/
def captureFree (slot : Fin 4) (x : Nat × Nat × Nat) (s : State) : State :=
  let (d, s1) := s.takeWord
  let (p, s2) := s1.takeBool
  withChain slot (fun ch =>
    if x.2.1 = 8 then
      match ch.vors[x.1]? with
      | some v => { ch with res := Tab.insert ch.res (elKey x.1 x.2.2) ⟨d.toNat % 2 ^ (v.ty 4).z, p, true⟩ }
      | none => ch
    else { ch with caps := Tab.insert ch.caps (capKey x.1 x.2.1 x.2.2) ⟨d, p⟩ }) s2

/-- What every VOR presents at the present chain time. -/
def actsNow (s : State) (slot : Fin 4) (ch : Chain) : List (Nat × List Acts × Flags8) :=
  (List.range ch.vors.length).map (fun vi => match ch.vors[vi]? with
    | some v => (vi, presentVor s slot ch vi v ch.time)
    | none => (vi, ([], 0)))

/-- The VOR and the element, if any, where SCATTER or SADD meets a poisoned index at the present chain time (R118). -/
def poisonedIndex (s : State) (slot : Fin 4) (ch : Chain) : Option (Nat × Nat) :=
  (actsNow s slot ch).findSome? (fun x => x.2.1.findSome? (fun a => a.poiIdx.map (fun e => (x.1, e))))

/-! ## Linear accesses at the present chain time -/

/-- A linear load element that the present chain time needs: stream, VOR, word number, the element's position in the stream, and the
element of the VOR that a fault names. -/
structure LinNeed where
  vi : Nat
  n : Nat
  v : Vor
  i : Nat
  pos : Nat
  e : Nat

/-- The linear load words due at the present chain time, one entry for each element that this tile computes. -/
def linearDue (s : State) (ch : Chain) : List LinNeed :=
  (linearLoads ch).flatMap (fun x =>
    let (vi, n, v) := x
    let l := v.lay n
    if v.op == 0x82 && n == 1 then
      (ch.exp.filter (fun y => y.1 == vi && elemHome s ch v y.2.2)).map (fun y => ⟨vi, n, v, l.wordNo y.2.1, y.2.1, y.2.2⟩)
    else
      (loadWordsAt s ch vi v n ch.time).flatMap (fun w =>
        ((elemsOfWord l v.len w.1).filter (fun e => elemHome s ch v e)).map (fun e => ⟨vi, n, v, w.1, e, e⟩)))

/-- The fault that a linear load element brings when its action comes (R178, R315). -/
def linearFault (ch : Chain) (x : LinNeed) : Option SFault :=
  let a := linAddr x.v x.n x.pos
  if !vecOk ch.cap false a ((x.v.ty x.n).z / 8) then some (mkFault ch x.v x.vi x.n x.e 0x42 false a 0 0)
  else
    match findLine ch x.vi x.n (streamLine (x.v.lay x.n) x.i).toNat with
    | some b => b.fault.map (fun f =>
        let pa : BitVec 52 := if f.cause.toNat ≥ 0x47 then BitVec.ofNat 52 (b.pline * 64 + (a % 64).toNat) else f.pa
        mkFault ch x.v x.vi x.n x.e f.cause false a pa f.level)
    | none => none

/-- The linear load fault that takes effect at the present chain time, if any (R178). -/
def linearFaultNow (s : State) (ch : Chain) : Option SFault := lowestFault ((linearDue s ch).filterMap (linearFault ch))

/-- Whether every line that the present chain time needs is in the buffers. -/
def linearReady (s : State) (ch : Chain) : Bool :=
  (linearDue s ch).all (fun x => match findLine ch x.vi x.n (streamLine (x.v.lay x.n) x.i).toNat with
    | some b => b.words.isSome
    | none => false)

/-- Requests the lines of EXPAND's A that the present chain time needs, in order, within the window (R108, R172, R173): the streams
that have stopped at a line stay stopped. -/
def demandLines (slot : Fin 4) (s : State) : State :=
  match s.chain slot with
  | none => s
  | some ch =>
    (((linearDue s ch).filter (fun x => x.v.op == 0x82 && x.n == 1)).foldl (fun (acc : List Nat × State) x =>
      match acc.2.chain slot with
      | none => acc
      | some c =>
        let line := streamLine (x.v.lay x.n) x.i
        let have_ := line ≥ 0 && (findLine c x.vi x.n line.toNat).isSome
        if acc.1.contains x.vi || have_ || !vecOk c.cap false (linAddr x.v x.n x.pos) ((x.v.ty x.n).z / 8) then acc
        else if linesOpen c x.vi x.n ≥ c.pfLines then (x.vi :: acc.1, acc.2)
        else
          let (ok, s1) := fetchLine slot x.vi x.n line acc.2
          if ok then (acc.1, s1) else (x.vi :: acc.1, s1)) ([], s)).2

/-- No later word of the stream needs the line of this one: the words that follow in element order lie elsewhere, or are not read. For
A of EXPAND the next word is that of the next rank (R108). -/
def lineSpent (s : State) (ch : Chain) (x : LinNeed) : Bool :=
  let l := x.v.lay x.n
  if x.v.op == 0x82 && x.n == 1 then
    let r := Tab.get 0 ch.rank (rankPresented x.vi)
    r ≥ x.v.len || streamLine l (l.wordNo r) != streamLine l x.i
  else
    !(List.range 8).any (fun j =>
      let i := x.i + 1 + j
      i < l.words x.v.len && streamLine l i == streamLine l x.i && wordWanted s ch x.v x.n i)

/-- The words of the present chain time move from the line buffers to the pipes; lines no later word needs are consumed. -/
def consumeLines (slot : Fin 4) (s : State) : State :=
  match s.chain slot with
  | none => s
  | some ch =>
    let due := linearDue s ch
    let ch1 := due.foldl (fun (c : Chain) x =>
      let l := x.v.lay x.n
      match findLine c x.vi x.n (streamLine l x.i).toNat with
      | some b => match b.words with
        | some ws => { c with caps := Tab.insert c.caps (capKey x.vi x.n x.i) (ws.getD (l.wordAddr x.i % 8).toNat xword0) }
        | none => c
      | none => c) ch
    -- a word whose elements the partner tile computes crosses the link where this tile needs it, and is a free value (R446)
    let spent (b : LineBuf) : Bool :=
      match (due.filter (fun x => x.vi == b.vor && x.n == b.opnd && (streamLine (x.v.lay x.n) x.i).toNat == b.vline)).getLast? with
      | none => false
      | some x => lineSpent s ch x
    setChain slot { ch1 with lines := ch1.lines.filter (fun b => !spent b) } s

/-- Words of a linear stream, due at the present chain time, whose elements the partner tile computes and this one does not: free values
(R446). -/
def farWords (slot : Fin 4) (s : State) : State :=
  match s.chain slot with
  | none => s
  | some ch =>
    if !s.role.fused then s
    else
      (linearLoads ch).foldl (fun s x =>
        let (vi, n, v) := x
        let l := v.lay n
        let ws := if v.op == 0x82 && n == 1 then ((ch.exp.filter (fun y => y.1 == vi)).map (fun y => (l.wordNo y.2.1, elemHome s ch v y.2.2)))
          else (loadWordsAt s ch vi v n ch.time).map (fun w => (w.1, (elemsOfWord l v.len w.1).any (fun e => elemHome s ch v e)))
        (ws.filter (fun w => !w.2)).foldl (fun s w => match s.chain slot with
          | some c => if (Tab.find c.caps (capKey vi n w.1)).isSome then s else captureFree slot (vi, n, w.1) s
          | none => s) s) s

/-! ## Suspension (R179, R182) -/

/-- The physical address of a local word, as the Vector Store window shows it (R27). -/
def vsWordPa (s : State) (w : Nat) : Nat :=
  (if s.role.fused then s.vs.base.toNat / 2 * 2 ^ 27 else s.vs.base.toNat * 2 ^ 26) + 8 * fusedWord s w

/-- The rank of a source element of COMPRESS. -/
def rankOf (ch : Chain) (vi e : Nat) : Nat :=
  ((List.range (Tab.get 0 ch.rank (rankEntered vi))).find? (fun r => srcOfRank ch vi r == e)).getD 0

/-- The address of the element of operand `n` that a request of element `e` is for (R182): its word index, or its linear address. -/
def elemAddr (ch : Chain) (vi : Nat) (v : Vor) (n e : Nat) : Int :=
  let l := v.lay n
  if opIndexed v.op && (n = 4 || n = 1) then
    let pos := l.posOf (match srcElem ch vi v 2 e with
      | some ix => (v.ty 2).toInt ix.val
      | none => 0)
    if v.linear n then pos.1 * 8 + ((pos.2 * (v.ty n).z / 8 : Nat) : Int) else pos.1
  else if opIsRecord v.op && n = 4 then (if v.linear 4 then recordBase v * 8 else recordBase v)
  else
    let p := if v.op == 0x81 && n = 4 then rankOf ch vi e else e
    if v.linear n then linAddr v n p else l.wordAddr (l.wordNo p)

/-- A request that a chain has not had granted, put back as the action it came from (R183): word-index accesses are presented again
as they are, linear ones are translated afresh. -/
def withholdReq (s : State) (r : BankReq) (ch : Chain) : Chain :=
  let r0 := { r with age := 0, ovr := false }
  let asIs : Chain := { ch with withheld := r0 :: ch.withheld }
  let linear (n vi e : Nat) : Chain :=
    match ch.vors[vi]? with
    | none => asIs
    | some v =>
      if !v.linear n then asIs
      else
        let a := elemAddr ch vi v n e
        let z := (v.ty n).z
        let sub := a.toNat % 8 * 8 / z
        let px (kind : PxKind) (d : W64) (p : Bool) : Chain :=
          { ch with px := ⟨vi, e, kind, BitVec.ofInt 48 a, z, subLane d z sub, p, none⟩ :: ch.px }
        match r.op with
        | .read => px .gather 0 false
        | .acc _ d _ _ p => px .sadd d p
        | .write d be p =>
          if opIndexed v.op then px .scatter d p
          else
            let j := fusedWord s r.word % 8
            let line := if opIsRecord v.op && (recordBase v % 8).toNat != j then (recordBase v + 1) / 8 else a / 64
            { ch with lwQueue := ⟨vi, e, a.toNat, r.rq, line.toNat, 0, (be.zeroExtend 64) <<< (8 * j),
                if p then 0 else (d.zeroExtend 512) <<< (64 * j), if p then BitVec.ofNat 8 (2 ^ j) else 0⟩ :: ch.lwQueue }
  match r.dest with
  | .gather _ vi e => linear 1 vi e
  | .store _ vi e => linear 4 vi e
  | .sadd _ vi e => linear 4 vi e
  | _ => asIs

/-- A bank request that is an action of the chain, not a prefetch. -/
def isAction (slot : Fin 4) (q : BankReq) : Bool :=
  ofSlot slot q.dest && (match q.dest with
    | .lineWord _ _ _ _ _ => false
    | _ => true)

/-- Records a suspending fault; of several at one chain time the lowest VORX, then the lowest FIDX, is kept. The chain's
waiting requests are withheld. -/
def takeFault (slot : Fin 4) (f : SFault) (s : State) : State :=
  match s.chain slot with
  | none => s
  | some ch0 =>
    let keep : Option SFault := match ch0.status with
      | .running => some f
      | .suspended g => if ch0.told then none else if f.vor < g.vor || (f.vor == g.vor && f.fidx < g.fidx) then some f else none
      | _ => none
    match ch0.status with
    | .ending _ _ _ => s
    | _ =>
      let ch := (s.vs.reqs.filter (isAction slot)).foldr (withholdReq s) ch0
      let s0 := setVs { s.vs with reqs := s.vs.reqs.filter (fun q => !isAction slot q) } s
      match keep with
      | none => setChain slot ch s0
      | some g =>
        let fr : FaultRec :=
          ⟨true, g.write, BitVec.ofNat 2 ch.core.val, BitVec.ofNat 5 g.vor, g.cause, BitVec.ofNat 32 g.fidx, g.vaddr, g.form, g.level,
           g.pa, ch.launchT, hTag ch.hdr⟩
        let s1 := setChain slot { ch with status := .suspended g, told := false, jtold := false } s0
        setEng { s1.eng with flt := s1.eng.flt.set slot fr } s1

/-- A fault as the partner tile is told of it (R185). -/
def peerFaultOf (f : SFault) : PeerFault :=
  ⟨f.cause, BitVec.ofNat 5 f.vor, BitVec.ofNat 32 f.fidx, f.write, f.vaddr, f.form, f.level, f.pa⟩

/-- A stream fault takes effect, with the linear load faults of the same chain time (R178, R179); both tiles of a pair record the
lowest (R185). -/
def raiseFault (slot : Fin 4) (f : SFault) (s : State) : State :=
  match s.chain slot with
  | none => s
  | some ch =>
    let g := match ch.status, linearFaultNow s ch with
      | .running, some l => (lowestFault [f, l]).getD f
      | _, _ => f
    takeFault slot g (sendPair (.fault slot (peerFaultOf g)) s)

/-! ## Presentation -/

/-- The element that a request of VOR `vi` of the chain is for. -/
def ReqDest.elemIn (slot : Fin 4) (vi : Nat) : ReqDest → Option Nat
  | .gather s i e => if s = slot ∧ i = vi then some e else none
  | .store s i e => if s = slot ∧ i = vi then some e else none
  | .sadd s i e => if s = slot ∧ i = vi then some e else none
  | _ => none

/-- The bank request that a request of the partner makes here (R113, R115, R445): through PX or BSA where a chain's GATHER, SCATTER or
SADD makes it, through PL otherwise. -/
def pairBankReq (q : PairReq) : BankReq :=
  let op : BankOp := match q.op with
    | 0 => .read
    | 1 => .write q.data q.be q.poison
    | _ => .acc q.acc q.data q.half q.rm q.poison
  let rq := if !q.px then 16 else match q.op with
    | 0 => 12
    | 1 => 12
    | _ => 13
  bankReq rq q.word.toNat op q.monitor (.pair q.tag)

/-- Puts a partner's request at its place in the element order of the local requests of its VOR (R113). -/
def mergeByElem (q : PairReq) : List BankReq → List BankReq
  | [] => [pairBankReq q]
  | r :: rs =>
    match r.dest.elemIn q.slot q.vor.toNat with
    | some e => if q.elem.toNat < e then pairBankReq q :: r :: rs else r :: mergeByElem q rs
    | none => r :: mergeByElem q rs

/-- Whether the chain time at which a partner's PX or BSA request is presented has come. -/
def pairDue (s : State) (ch : Chain) (q : PairReq) : Bool :=
  match ch.vors[q.vor.toNat]? with
  | none => true
  | some v => pxTime s ch q.vor.toNat v (q.elem.toNat / lanesOf s) ≤ ch.time

/-- Applies what VORs present at the present chain time. -/
def applyActs (slot : Fin 4) (acts : List (Nat × Acts)) (s : State) : State :=
  match s.chain slot with
  | none => s
  | some ch =>
    let ch1 := acts.foldl (fun (c : Chain) a =>
      { c with
        lwQueue := c.lwQueue ++ a.2.lines
        px := c.px ++ a.2.px
        crossIn := c.crossIn + a.2.crossIn
        crossOut := c.crossOut + a.2.crossOut
        exp := c.exp ++ a.2.exp
        wpos := (match a.2.wpos with
          | some w => Tab.set 0 c.wpos a.1 w
          | none => c.wpos)
        lost := (match a.2.poiIdx with
          | some e => (noteLost a.1 e c).lost
          | none => c.lost)
        rank := (match a.2.rankP with
          | some r => Tab.set 0 (Tab.set 0 c.rank (rankPresented a.1) r.1) (groupsPresented a.1) r.2
          | none => c.rank) }) ch
    let mine := s.pair.inbox.filter (fun q => q.slot == slot && pairDue s ch q)
    let reqs := mine.foldl (fun rs q => mergeByElem q rs) (acts.flatMap (fun a => a.2.reqs))
    let s1 := present reqs (setChain slot ch1 (setPair { s.pair with inbox := s.pair.inbox.filter (fun q => !mine.contains q) } s))
    (acts.flatMap (fun a => a.2.caps)).foldl (fun s x => captureFree slot x s) s1

/-- The fault that a line write meets as soon as it is due, if its translation is there (R171, R178). -/
def writeFaultNow (s : State) (ch : Chain) (w : LineWrite) : Option SFault :=
  match ch.vors[w.vor]? with
  | none => none
  | some v =>
    let flt (c : BitVec 8) (level : BitVec 3) (pa : BitVec 52) : SFault := mkFault ch v w.vor 4 (if opIsRecord v.op then v.len else w.e) c true (w.ea : Int) pa level
    match (xlate ch (streamKey w.vor 4) (w.vline * 64) true s).1 with
    | .walk => none
    | .fault f => some (flt f.cause f.level f.pa)
    | .ok pa => match lineRoute s pa with
      | .held c => some (flt c 0 (BitVec.ofNat 52 (pa + w.ea % 64)))
      | _ => none

/-- The fault that a PX or BSA access in linear form meets as soon as it is due (R171, R178, R315). -/
def pxFaultNow (s : State) (ch : Chain) (a : PxAcc) : Option SFault :=
  match ch.vors[a.vor]? with
  | none => none
  | some v =>
    let write := a.kind != .gather
    let n := if write then 4 else 1
    let flt (c : BitVec 8) (level : BitVec 3) (pa : BitVec 52) : SFault := mkFault ch v a.vor n a.e c write (a.vaddr.toNat : Int) pa level
    if !vecOk ch.cap write a.vaddr.toNat (a.z / 8) then some (flt 0x42 0 0)
    else match (xlate ch (streamKey a.vor n) a.vaddr.toNat write s).1 with
      | .walk => none
      | .fault f => some (flt f.cause f.level f.pa)
      | .ok pa => match lineRoute s pa with
        | .held c => some (flt c 0 (BitVec.ofNat 52 pa))
        | .decode => if write then none else some (flt 0x4A 0 (BitVec.ofNat 52 pa))
        | _ => none

/-- The faults that take effect with the actions of the present chain time (R179). -/
def faultsNow (s : State) (ch : Chain) (acts : List (Nat × Acts)) : List SFault :=
  acts.filterMap (fun a => a.2.fault) ++ (acts.flatMap (fun a => a.2.lines)).filterMap (writeFaultNow s ch) ++
  (acts.flatMap (fun a => a.2.px)).filterMap (pxFaultNow s ch)

/-- Presents the actions of the present chain time, or raises the fault that takes effect there (R141, R142, R179). From a poisoned
index on, SCATTER and SADD present nothing (R118, R181). -/
def presentChain (slot : Fin 4) (s0 : State) : State :=
  let s := expandMasks slot s0
  match s.chain slot with
  | none => s
  | some ch =>
    let per := actsNow s slot ch
    let acts := per.flatMap (fun x => x.2.1.map (fun a => (x.1, a)))
    match lowestFault (faultsNow s ch acts) with
    | some f => raiseFault slot f (setChain slot { ch with presented := false } s)
    | none =>
      let fl := per.foldl (fun (m : Flags8) x => m ||| x.2.2) 0
      farWords slot (applyActs slot acts (setChain slot { ch with presented := true, flags := ch.flags ||| fl, crossIn := 0, crossOut := 0, exp := [] } s))

/-- A group of EXPAND whose mask words have come only now presents its elements of A (R108, R183). -/
def lateExpand (slot : Fin 4) (s : State) : State :=
  match s.chain slot with
  | none => s
  | some ch =>
    if !(ch.presented && expandOwes s ch) then s
    else
      let acts := (List.range ch.vors.length).filterMap (fun vi => match ch.vors[vi]? with
        | some v => if v.op == 0x82 && v.len != 0 then some (vi, presentExpand s slot ch vi v) else none
        | none => none)
      match lowestFault (acts.filterMap (fun a => a.2.fault)) with
      | some f => raiseFault slot f s
      | none => farWords slot (applyActs slot acts s)

/-! ## Line writes and PX accesses -/

/-- Issues the line writes of the present chain time as far as translation and the window allow (R171, R175). A line that holds
inactive elements only is translated and checked, and not written (R87). -/
def issueWrites (slot : Fin 4) : Nat → State → State
  | 0, s => s
  | fuel + 1, s =>
    match s.chain slot with
    | none => s
    | some ch =>
      match ch.lwQueue with
      | [] => s
      | w :: rest =>
        match writeFaultNow s ch w with
        | some f => raiseFault slot f s
        | none =>
          match xlate ch (streamKey w.vor 4) (w.vline * 64) true s with
          | (.walk, s1) => startWalk slot (streamKey w.vor 4) (w.vline * 64) true s1
          | (.fault _, s1) => s1
          | (.ok pa, s1) =>
            let done (s : State) : State := withChain slot (fun c => { c with lwQueue := rest }) s
            if w.be = 0 then issueWrites slot fuel (done s1)
            else match lineRoute s1 pa with
              | .held _ => s1
              | .decode => failChain slot 0x4C w.vor (BitVec.ofNat 52 pa) true (withChain slot (noteLost w.vor w.e) s1)
              | .ext =>
                if !chainOut s1 || (ch.lwOut.filter (fun o => o.port == w.port)).length ≥ ch.wrLines then s1
                else issueWrites slot fuel (coherentWrite (pa / 64)
                  (withChain slot (fun c => { c with lwOut := c.lwOut ++ [{ w with pline := pa / 64 }] }) (done s1)))
              | .vs w0 =>
                let rs := (List.range 8).filterMap (fun i =>
                  let be := w.be.extractLsb' (8 * i) 8
                  if be = 0 then none
                  else (homeWord s1 (w0 + i)).map (fun lw =>
                    bankReq w.port lw (.write (w.data.extractLsb' (64 * i) 64) be (w.pois.getLsbD i)) (chainSecure ch) (.store slot w.vor w.e)))
                issueWrites slot fuel (present rs (done s1))

/-- The element access of a PX or BSA request in linear form, one line at a time (R171). An accumulate reads its line only when no
earlier write of the chain to it is outstanding, so that the additions follow each other in element order (R117). -/
def issuePx (slot : Fin 4) : Nat → State → State
  | 0, s => s
  | fuel + 1, s =>
    match s.chain slot with
    | none => s
    | some ch =>
      match ch.px with
      | [] => s
      | a :: rest =>
        if a.wait.isSome then s
        else match ch.vors[a.vor]?, pxFaultNow s ch a with
          | none, _ => s
          | _, some f => raiseFault slot f s
          | some v, none =>
            let write := a.kind != .gather
            let key := streamKey a.vor (if write then 4 else 1)
            let lin := a.vaddr.toNat
            match xlate ch key lin write s with
              | (.walk, s1) => startWalk slot key lin write s1
              | (.fault _, s1) => s1
              | (.ok pa, s1) =>
                let j := pa % 64 / 8
                let sub := pa % 8 * 8 / a.z
                let data := BitVec.ofNat 64 (a.val * 2 ^ (sub * a.z))
                match lineRoute s1 pa with
                | .held _ => s1
                | .decode => failChain slot 0x4C a.vor (BitVec.ofNat 52 pa) true (withChain slot (noteLost a.vor a.e) s1)
                | .ext =>
                  if write && !chainOut s1 then s1
                  else if a.kind = .scatter then
                    let lw : LineWrite := ⟨a.vor, a.e, lin, 12, lin / 64, pa / 64, ((laneBe a.z sub).zeroExtend 64) <<< (8 * j),
                      if a.poison then 0 else (data.zeroExtend 512) <<< (64 * j), if a.poison then BitVec.ofNat 8 (2 ^ j) else 0⟩
                    issuePx slot fuel (coherentWrite (pa / 64) (withChain slot (fun c => { c with px := rest, lwOut := c.lwOut ++ [lw] }) s1))
                  else if a.kind = .sadd && ch.lwOut.any (fun o => o.pline == pa / 64) then s1
                  else withChain slot (fun c => { c with px := { a with wait := some (pa / 64) } :: rest }) s1
                | .vs w0 =>
                  let s2 := withChain slot (fun c => { c with px := rest }) s1
                  match homeWord s2 w0 with
                  | none => issuePx slot fuel (if write then s2 else captureFree slot (a.vor, 8, a.e) s2)
                  | some lw =>
                    let op : BankOp := match a.kind with
                      | .gather => .read
                      | .scatter => .write data (laneBe a.z sub) a.poison
                      | .sadd => .acc (BitVec.ofNat 4 (v.op - 0x88)) data (if a.z = 32 then BitVec.ofNat 2 (2 ^ sub) else 3) (BitVec.ofNat 3 v.rm) a.poison
                    let d : ReqDest := match a.kind with
                      | .gather => .gather slot a.vor a.e
                      | .scatter => .store slot a.vor a.e
                      | .sadd => .sadd slot a.vor a.e
                    issuePx slot fuel (present [bankReq (if a.kind = .sadd then 13 else 12) lw op (chainSecure ch) d] s2)

/-- Everything a running chain can set going now: prefetch, demanded lines, line writes, PX accesses. -/
def pump (slot : Fin 4) (s : State) : State :=
  match s.chain slot with
  | none => s
  | some ch =>
    match ch.status with
    | .running => issuePx slot 256 (issueWrites slot 4096 (demandLines slot (prefetchAll slot (lateExpand slot s))))
    | _ => s

/-! ## Chain time (R141) -/

/-- The last chain time at which the schedule has an action (R73, R142). -/
def endTime (s : State) (ch : Chain) : Nat :=
  (List.range ch.vors.length).foldl (fun m vi => match ch.vors[vi]? with
    | none => m
    | some v =>
      let last := v.start + (v.nGroups ch.vors (lanesOf s) - 1) * v.interval ch.vors vi
      let t :=
        if v.len = 0 then v.start
        else if v.op == 0x84 || opIsSadd v.op then last + (if s.role.fused then 16 else 10)
        else if v.isStream 4 then last + latency s.role.fused v.op + 8
        else last + latency s.role.fused v.op
      Nat.max m t) 0

/-- Bank work of the chain that has not been granted. -/
def bankWork (s : State) (slot : Fin 4) : Bool := s.vs.reqs.any (isAction slot)
def halfWork (s : State) (slot : Fin 4) : Bool := s.vs.halves.any (fun h => ofSlot slot h.2.dest)

/-- The chains of a launch group. -/
def groupChains (s : State) (ch : Chain) : List Chain := ch.group.filterMap s.chain

/-- The words that still cross the pair link for a launch group, each way, fit into one VCLK (R164, R447). -/
def crossFits (s : State) (ch : Chain) : Bool :=
  (groupChains s ch).foldl (fun n c => n + c.crossIn) 0 ≤ 192 && (groupChains s ch).foldl (fun n c => n + c.crossOut) 0 ≤ 192

/-- Every action of the present chain time has completed on this tile. -/
def hereDone (s : State) (slot : Fin 4) (ch : Chain) : Bool :=
  !bankWork s slot && ch.lwQueue.isEmpty && ch.px.isEmpty && crossFits s ch && linearReady s ch && !expandOwes s ch

/-- Every action of the present chain time has completed, in a pair on both tiles (R163, R447). -/
def timeDone (s : State) (slot : Fin 4) (ch : Chain) : Bool :=
  hereDone s slot ch && !(s.role.fused && ch.peer.busy)

/-- R154: every write granted or acknowledged, in a pair on both tiles, and the flag byte final. -/
def chainComplete (s : State) (slot : Fin 4) (ch : Chain) : Bool :=
  ch.status == .running && ch.time ≥ endTime s ch && timeDone s slot ch && !halfWork s slot && ch.lwOut.isEmpty &&
  !(s.role.fused && ch.peer.out) && (poisonedIndex s slot ch).isNone

/-- Puts the pipes' results back into the engine. -/
def runPipes (slot : Fin 4) (s : State) : State :=
  match s.chain slot with
  | none => s
  | some ch =>
    let p := enterAll (lanesOf s) ⟨ch, s.eng.ax0, s.eng.ax1⟩
    let s1 := setChain slot p.ch s
    setEng { s1.eng with ax0 := p.a0, ax1 := p.a1 } s1

/-- Enters a new chain time: groups enter the pipes, and its actions are presented. -/
def enterTime (slot : Fin 4) (s : State) : State := pump slot (presentChain slot (runPipes slot s))

/-- One stall of a chain (R141). -/
def stallChain (slot : Fin 4) (s : State) : State :=
  engBump (withChain slot (fun ch => { ch with stalls := ch.stalls + 1 }) s) 1

/-- In one VCLK 192 words of a launch group cross the pair link each way (R447). -/
def crossLink (group : List (Fin 4)) (s : State) : State :=
  (group.foldl (fun (acc : (Nat × Nat) × State) i => match acc.2.chain i with
    | none => acc
    | some ch =>
      ((acc.1.1 - ch.crossIn, acc.1.2 - ch.crossOut),
        setChain i { ch with crossIn := ch.crossIn - acc.1.1, crossOut := ch.crossOut - acc.1.2 } acc.2)) ((192, 192), s)).2

/-- Tells the partner tile how this tile's half of a chain stands, when that has changed (R188, R447). -/
def tellPeer (slot : Fin 4) (s : State) : State :=
  match s.chain slot with
  | none => s
  | some ch =>
    let r : PeerReport := ⟨!hereDone s slot ch, !ch.lwOut.isEmpty || halfWork s slot, ch.flags, BitVec.ofNat 32 (committedHere s slot ch)⟩
    if !s.role.fused || r = ch.sent then s else sendPair (.chain slot r) (setChain slot { ch with sent := r } s)

end Sys2Proof.Machine
end

