-- ==== Sys2Proof/Machine/EngineCmds.lean ====
section
/-! DEFINITION. What the vector engine's commands do: program reads and checks, triggers, launch, chain time, stream and
journal responses, completion, resume and cancel (R88, R141 to R156, R169 to R196). -/

namespace Sys2Proof.Machine

/-! ## Program reads (R148) -/

/-- The physical address of line `i` of a program in physical form. -/
def progPa (pa0 pa1 : BitVec 52) (i : Nat) : Nat :=
  let off := pa0.toNat % 4096 + 64 * i
  if off < 4096 then pa0.toNat + 64 * i else pa1.toNat + (off - 4096)

/-- What the read of one program line gives: its words, or the failure code, with the address a failure logs. -/
inductive ProgLine where
  | words (w : List W64)
  | fail (code : RspCode) (addr : Nat) (isWord : Bool)
  | unanswered
  deriving DecidableEq, Repr

/-- The eight Vector Store words of a program line that PX has brought (R148): refused secure words are ETGT, poisoned words EPOI. -/
def gotProgWords (q : QEntry) (i addr : Nat) (isWord : Bool) (w0 : Nat) : List Nat → List W64 → ProgLine
  | [], acc => .words acc
  | j :: js, acc =>
    let at_ := if isWord then w0 + j else addr + 8 * j
    match q.got.find? (fun x => x.1 == 8 * i + j) with
    | none => .unanswered
    | some (_, none) => .fail .etgt at_ isWord
    | some (_, some x) => if x.poison then .fail .epoi at_ isWord else gotProgWords q i addr isWord w0 js (acc ++ [x.data])

def lineWords (d : Line) : List W64 := (List.range 8).map (fun i => d.extractLsb' (64 * i) 64)

/-- A line as the cores' caches leave it: a dirty copy stands for what the port returned, in a cacheable region (R156, R271). -/
def coherentLine (s : State) (line : Nat) (code : RspCode) (data : Line) : Line :=
  match routeOf s (line * 64) with
  | .ext .cached _ => if code == .okay then heldCopy s line data else data
  | _ => data

/-- Where line `i` of a program lies (R148): Vector Store words, a line on TFP or EMP, or an address that no read is made for. -/
inductive ProgSrc where
  | vs (w0 addr : Nat) (isWord : Bool)
  | ext (line : Nat)
  | none_ (code : RspCode) (addr : Nat) (isWord : Bool)
  deriving DecidableEq, Repr

def progSrc (s : State) (q : QEntry) (i : Nat) : ProgSrc :=
  match q.prog with
  | .word w =>
    let w0 := w.toNat + 8 * i
    if w0 + 8 > wordSpace s then .none_ .edec w0 true else .vs w0 0 true
  | .phys pa0 pa1 =>
    let pa := progPa pa0 pa1 i
    match routeOf s pa with
    | .setup _ => .none_ .etgt pa false
    | .vs off => if off / 8 + 8 > wordSpace s then .none_ .edec pa false else .vs (off / 8) pa false
    | .ext _ _ => .ext (pa / 64)

/-- Reads line `i` of a program, with the responses of TFP and EMP given by `rsp`; a header kept from an earlier read stands. -/
def readProgLine (q : QEntry) (i : Nat) (rsp : List LineRsp) (s : State) : ProgLine :=
  if i = 0 && !q.hdr.isEmpty then .words q.hdr
  else match progSrc s q i with
    | .none_ c addr w => .fail c addr w
    | .vs w0 addr w => gotProgWords q i addr w w0 (List.range 8) []
    | .ext line =>
      match rsp.find? (fun r => r.line.toNat == line) with
      | none => .unanswered
      | some r => match r.code with
        | .okay => .words (lineWords (coherentLine s line r.code r.data))
        | c => .fail c (match q.prog with
          | .phys pa0 pa1 => progPa pa0 pa1 i
          | .word _ => 0) false

/-- A vector operation record of eight words. -/
def vorOf (w : List W64) : Vor := ⟨w.getD 0 0, w.getD 1 0, w.getD 2 0, w.getD 3 0, w.getD 4 0, w.getD 5 0, w.getD 6 0, w.getD 7 0⟩

/-- Reads the lines of the VORs in order, stopping at the first failure. -/
def readVors (q : QEntry) (rsp : List LineRsp) (s : State) : List Nat → List Vor → List Vor ⊕ (Nat × ProgLine)
  | [], acc => .inl acc
  | v :: vs, acc =>
    match readProgLine q (v + 1) rsp s with
    | .words w => readVors q rsp s vs (acc ++ [vorOf w])
    | x => .inr (v, x)

def readFailOf (vorx : Nat) (x : ProgLine) : EntryStage :=
  match x with
  | .fail code addr isWord => .readFailed ⟨vorx, code, BitVec.ofNat 52 addr, isWord⟩
  | _ => .queued

/-- Line `i` of the program waits for PX (R148). -/
def awaitsPx (s : State) (q : QEntry) (i : Nat) : Bool :=
  match progSrc s q i with
  | .vs _ _ _ => true
  | _ => false

/-- Reads a chain program; `none` when a line has no response: of pooled memory among `rsp`, or of the Vector Store from PX. A header
read from pooled memory is kept where the next lines wait for PX. -/
def readProgram (c : CoreId) (e : Fin 8) (rsp : List LineRsp) (s : State) : Option State :=
  let q := s.entry c e
  match readProgLine q 0 rsp s with
  | .unanswered => none
  | .fail code addr isWord => some (setEntry c e { q with stage := readFailOf 0x10 (.fail code addr isWord) } s)
  | .words h =>
    let n := hNvor h
    if n = 0 ∨ n > 16 then some (setEntry c e { q with stage := .read, hdr := h, vors := [] } s)
    else match readVors q rsp s (List.range n) [] with
      | .inl vs => some (setEntry c e { q with stage := .read, hdr := h, vors := vs } s)
      | .inr (v, .unanswered) => if q.hdr.isEmpty && awaitsPx s q (v + 1) && !awaitsPx s q 0 then some (setEntry c e { q with hdr := h } s) else none
      | .inr (v, x) => some (setEntry c e { q with stage := readFailOf v x, hdr := h } s)

/-- The header's own line of a chain has been read: its GRPN and GRPF are known. -/
def headerRead (q : QEntry) : Bool :=
  match q.stage with
  | .queued => false
  | .readFailed f => f.vorx != 0x10
  | _ => true

/-- The queue of a core shows its head: a chain that has been rejected leaves the head for one VCLK (R153). -/
def headShown (c : CoreId) (s : State) : Bool := s.eng.rejectT.get c != some s.eng.time

/-- The group at the head of a core's queue: the leader and as many followers as its header names (R137, R146). -/
def headGroup (c : CoreId) (s : State) : List (Fin 8) :=
  match s.iq.get c with
  | [] => []
  | e :: rest =>
    let q := s.entry c e
    if !headShown c s then []
    else if !headerRead q || hGrpf q.hdr then [e]
    else e :: rest.take (hGrpn q.hdr)

/-- The chain of the head group whose program is to be read next. -/
def nextToRead (c : CoreId) (s : State) : Option (Fin 8) :=
  (headGroup c s).find? (fun e => (s.entry c e).stage == .queued)

/-- The words of a program's header, once they are there. -/
def progHeader (q : QEntry) (s : State) : Option (List W64) :=
  match readProgLine q 0 [] s with
  | .words h => some h
  | _ => none

/-- The line of a program whose Vector Store words PX reads next: the header first, then in order the lines of the VORs that it names, up
to the first failure (R148). -/
def nextProgLine (q : QEntry) (s : State) : Option Nat :=
  let miss (i : Nat) : Bool := readProgLine q i [] s == .unanswered
  if miss 0 then some 0
  else match progHeader q s with
    | none => none
    | some h =>
      let n := hNvor h
      if n = 0 ∨ n > 16 then none
      else
        let ok := (List.range n).takeWhile (fun v => match readProgLine q (v + 1) [] s with
          | .words _ => true
          | .fail _ _ _ => false
          | .unanswered => !awaitsPx s q (v + 1))
        if ok.length < n && miss (ok.length + 1) then some (ok.length + 1) else none

/-- PX presents the words of the next line of the program at the head of a core's queue (R50, R148), as class B requests. -/
def presentProg (c : CoreId) (s : State) : State :=
  match nextToRead c s with
  | none => s
  | some e =>
    let q := s.entry c e
    if s.vs.reqs.any (fun r => match r.dest with
        | .prog c' e' _ => c' == c && e' == e
        | _ => false) then s
    else match nextProgLine q s with
      | none => s
      | some i => match progSrc s q i with
        | .vs w0 _ _ =>
          (List.range 8).foldl (fun s j => match homeWord s (w0 + j) with
            | some lw => present [bankReq 12 lw .read (q.cap.priv == 2) (.prog c e (8 * i + j))] s
            | none =>
              -- a word of the partner tile: a free value
              let (d, s1) := s.takeWord
              setEntry c e { s1.entry c e with got := (s1.entry c e).got ++ [(8 * i + j, some ⟨d, false⟩)] } s1) s
        | _ => s

def presentProgs (s : State) : State := fours.foldl (fun s c => presentProg c s) s

/-- A word of a program comes. -/
def answerProg (c : CoreId) (e : Fin 8) (i : Nat) (a : BankAnswer) (s : State) : State :=
  let q := s.entry c e
  if q.stage != .queued then s
  else match a with
    | .data x => setEntry c e { q with got := q.got ++ [(i, some x)] } s
    | _ => setEntry c e { q with got := q.got ++ [(i, none)] } s

/-! ## Checks (R88, R146 to R148, R187) -/

/-- JBASE lies in a window or a device region (R187). -/
def badJournal (s : State) (h : List W64) : Bool :=
  match routeOf s ((hJbase h).toNat * 128) with
  | .ext k _ => k == .device
  | _ => true

/-- A chain's own check: VORX and cause, or none; `leads` where it stands at the head of its group. A GRPF that does not match the
chain's place is its own header failure 0x14 (R146). -/
def ownCheck (s : State) (leads : Bool) (q : QEntry) : Option (Nat × Nat) :=
  match q.stage with
  | .readFailed f => some (f.vorx, 0x16)
  | _ =>
    let h := q.hdr
    if cause10 h then some (0x10, 0x10)
    else if cause11 h q.vors then some (0x10, 0x11)
    else if cause12 h q.vors then some (0x10, 0x12)
    else if cause13 h q.vors then some (0x10, 0x13)
    else if hGrpf h == leads then some (0x10, 0x14)
    else if cause15 h (q.cap.priv == 0) (hJen h && badJournal s h) then some (0x10, 0x15)
    else (List.range q.vors.length).findSome? (fun i => match q.vors[i]? with
      | none => none
      | some v => let k := vorCause q.vors s.role.fused i v; if k = 0 then none else some (i, k))

/-- Whether a launch group of more than one chain, or a lone follower, is malformed (R146 cause 0x14). -/
def groupMalformed (qs : List QEntry) : Bool :=
  match qs with
  | [] => false
  | q0 :: rest =>
    hGrpf q0.hdr || rest.any (fun q => !hGrpf q.hdr) || rest.any (fun q => hExact q.hdr != hExact q0.hdr) ||
    qs.length > 4 ||
    (qs.foldl (fun (acc : Nat × Bool) q => (acc.1 ||| hPipes q.hdr, acc.2 || acc.1 &&& hPipes q.hdr != 0)) (0, false)).2 ||
    (qs.foldl (fun n q => n + hNload q.hdr) 0) > 8 || (qs.foldl (fun n q => n + hNstore q.hdr) 0) > 4

/-- Returns a REJECTED record, raises the chain-done pulse and takes the chain out of its queue (R88, R155). -/
def rejectChain (c : CoreId) (e : Fin 8) (vorx cause : Nat) (s : State) : State :=
  let q := s.entry c e
  let r := mkStatus stRejected false vorx (BitVec.ofNat 8 cause) 0 (hTag q.hdr) 0 0 0
  let s1 := match q.stage with
    | .readFailed f =>
      let code := match f.code with
        | .edec => 1
        | .etgt => 2
        | .epoi => 3
        | .okay => 0
      logRecord 0x12 unitEngine f.addr (BitVec.ofNat 64 (f.vorx + code * 2 ^ 8 + b2n f.isWord * 2 ^ 10)) false s
    | _ => s
  let s2 := deliverStatus c e r true (setEntry c e { q with stage := .gone } (setEng { s1.eng with rejectT := s1.eng.rejectT.set c (some s1.eng.time) } s1))
  let s3 := { s2 with iq := s2.iq.set c ((s2.iq.get c).erase e) }
  traceChdone (hTag q.hdr) stRejected 0 (arrive (srcChainDone c e) s3)

/-- The head group is complete: every follower that the leader names has arrived and every program has been read. -/
def groupArrived (c : CoreId) (s : State) : Bool :=
  match s.iq.get c with
  | [] => false
  | e :: _ =>
    let q := s.entry c e
    let g := headGroup c s
    let want := match q.stage with
      | .read => if hGrpf q.hdr then 1 else hGrpn q.hdr + 1
      | .readFailed f => if f.vorx == 0x10 || hGrpf q.hdr then 1 else hGrpn q.hdr + 1
      | _ => 0
    want != 0 && headShown c s && g.length == want && g.all (fun e => match (s.entry c e).stage with
      | .read => true
      | .readFailed _ => true
      | _ => false)

/-- Checks the head chain or group: rejected, or ready to launch. A member that fails its own checks reports its own cause, also in a
group that is malformed besides (R146; where EXACT differs or the members together ask for too much, DEDUCED,
notes/assumptions/62.md). -/
def checkHead (c : CoreId) (s : State) : State :=
  let g := headGroup c s
  let qs := g.map (s.entry c)
  let own := g.map (fun e => (e, ownCheck s (g.head? == some e) (s.entry c e)))
  let failed := own.any (fun x => x.2.isSome)
  if failed || groupMalformed qs then
    own.foldl (fun s x => match x.2 with
      | some (vorx, k) => rejectChain c x.1 vorx k s
      | none => rejectChain c x.1 0x10 0x14 s) s
  else g.foldl (fun s e => setEntry c e { s.entry c e with stage := .ready } s) s

/-! ## Triggers and launch (R149 to R153, R372) -/

/-- A member of the head group may consume an arrival now. -/
def canConsume (c : CoreId) (e : Fin 8) (s : State) : Bool :=
  let g := headGroup c s
  let q := s.entry c e
  let src := hTsrc q.hdr
  g.contains e && q.stage == .ready && hTen q.hdr && !q.trig && (Tab.get evSrc0 s.ev src).trgcnt != 0 &&
  (g.takeWhile (fun x => x != e)).all (fun x => let p := s.entry c x; !hTen p.hdr || p.trig || hTsrc p.hdr != src)

/-- ENGTIME of the latest chain-done pulse of a source. -/
def pulseAt (s : State) (src : Nat) : Option W64 :=
  let n := Tab.get 0 s.eng.pulses src
  if n = 0 then none else some (BitVec.ofNat 64 (n - 1))

/-- Consumes an arrival. Where it is the only one counted, it came from the source's latest chain-done pulse (R166). -/
def consumeTrigger (c : CoreId) (e : Fin 8) (s : State) : State :=
  let q := s.entry c e
  let src := hTsrc q.hdr
  let s1 := { s with ev := Tab.modify evSrc0 s.ev src (fun x => { x with trgcnt := x.trgcnt - 1 }) }
  setEntry c e { q with trig := true, trigAt := if (Tab.get evSrc0 s.ev src).trgcnt = 1 then pulseAt s src else none } s1

def flying (s : State) : List Chain := s.eng.slots.toList.filterMap id

def pipeCount (m : Nat) : Nat := ((List.range 4).filter (fun i => (m >>> i) % 2 == 1)).length

def pipesHeld (s : State) : Nat := (flying s).foldl (fun m ch => m ||| hPipes ch.hdr) 0
def loadsHeld (s : State) : Nat := (flying s).foldl (fun n ch => n + hNload ch.hdr) 0
def storesHeld (s : State) : Nat := (flying s).foldl (fun n ch => n + hNstore ch.hdr) 0

/-- In deterministic mode a chain triggered by a chain-done pulse launches 3 VCLK after the completion VCLK, which is 2 VCLK after the
VCLK of the pulse (R154, R166). -/
def detTimeOk (s : State) (q : QEntry) : Bool :=
  !s.eng.detAct || !hTen q.hdr || (match q.trigAt with
    | some p => 2 ≤ (s.eng.time - p).toNat
    | none => true)

/-- Conditions 1 to 5 of R151, and the pipe limit of condition 6, for the head group of a core. -/
def launchable (c : CoreId) (s : State) : Bool :=
  let g := headGroup c s
  let qs := g.map (s.entry c)
  let pipes := qs.foldl (fun m q => m ||| hPipes q.hdr) 0
  !g.isEmpty && qs.all (fun q => q.stage == .ready) &&
  (flying s).length + g.length ≤ 4 &&
  pipesHeld s &&& pipes == 0 &&
  loadsHeld s + qs.foldl (fun n q => n + hNload q.hdr) 0 ≤ 8 &&
  storesHeld s + qs.foldl (fun n q => n + hNstore q.hdr) 0 ≤ 4 &&
  qs.all (fun q => !hTen q.hdr || q.trig) && qs.all (detTimeOk s) &&
  (qs.all (fun q => !hFence q.hdr) || (flying s).all (fun ch => ch.far || ch.core != c)) &&
  pipeCount (pipesHeld s ||| pipes) ≤ pipeLimit s

/-- The number of a core of this tile in the round robin of R152: in a pair, EVEN C0 to C3 and then ODD C0 to C3 (R448). -/
def coreNum (s : State) (c : CoreId) : BitVec 3 := BitVec.ofNat 3 (c.val + (if isOdd s then 4 else 0))

/-- The core of this tile that a number of the round robin names. -/
def coreOfNum (s : State) (n : BitVec 3) : Option CoreId :=
  if s.role.fused && (4 ≤ n.toNat) != isOdd s then none else some (BitVec.toFin (n.truncate 2))

/-- The core whose head launches: round robin from the one after the last (R152, R448). -/
def nextLauncher (s : State) : Option CoreId :=
  ([1, 2, 3, 4, 5, 6, 7, 8].filterMap (fun k => coreOfNum s (s.eng.lastCore + BitVec.ofNat 3 k))).find? (fun c => launchable c s)

/-- A launch has taken place in this VCLK (R152). -/
def launchedNow (s : State) : Bool := s.eng.lastLaunch == some s.eng.time

/-- In deterministic mode a trigger-linked launch, or the consumption of its trigger, falls in this VCLK (R166): the VCLK does not end
before it. -/
def detLaunchDue (s : State) : Bool :=
  s.eng.detAct && !launchHeld s && !engFrozen s && !launchedNow s &&
  ((match nextLauncher s with
    | some c => (headGroup c s).any (fun e => let q := s.entry c e; hTen q.hdr && q.trigAt == some (s.eng.time - 2))
    | none => false) ||
   fours.any (fun c => (headGroup c s).any (fun e =>
     canConsume c e s && (pulseAt s (hTsrc (s.entry c e).hdr) == some (s.eng.time - 2)))))

/-- A head waits only for the launch throttle or TRIM (ENGSTAT.THROTTLE, R477, R485). -/
def throttleHolds (s : State) : Bool :=
  fours.any (fun c =>
    let pipes := ((headGroup c s).map (s.entry c)).foldl (fun m q => m ||| hPipes q.hdr) 0
    !launchable c s && !(headGroup c s).isEmpty && ((headGroup c s).map (s.entry c)).all (fun q => q.stage == .ready) &&
    pipeCount (pipesHeld s ||| pipes) > pipeLimit s)

def lowestFree (used : List Nat) (from_ upto : Nat) : Nat :=
  ((List.range (upto - from_)).map (fun i => from_ + i)).find? (fun i => !used.contains i) |>.getD upto

/-- Gives a chain's streams their ports (R139). -/
def assignPorts (used : List Nat) (vors : List Vor) : Tab Nat :=
  let streams := (List.range vors.length).flatMap (fun vi => match vors[vi]? with
    | none => []
    | some v => ([0, 1, 2, 3].filter (fun n => v.isLoad n)).map (fun n => (streamKey vi n, true)) ++
        (if v.isStore then [(streamKey vi 4, false)] else []))
  streams.foldl (fun (t : Tab Nat) x =>
    let taken := used ++ t.map (fun e => e.2)
    Tab.insert t x.1 (if x.2 then lowestFree taken 0 8 else lowestFree taken 8 12)) []

def clampLines (v : BitVec 11) : Nat := Nat.min 1024 (Nat.max 64 v.toNat)

/-- The journal of a chain that launches. In a pair the EVEN tile writes it (R188). -/
def newJournal (s : State) (h : List W64) : Journal :=
  ⟨hJen h && !isOdd s, hJbase h, hTag h, s.role.slot, s.id.diepos, s.role.epoch, s.eng.time, 0, 0, none, none⟩

def peer0 : PeerReport := ⟨false, false, 0, 0⟩

/-- A chain takes a launch slot and its reservations (R139 to R141, R182). -/
def newChain (s : State) (c : CoreId) (e : Fin 8) (far : Bool) (hdr : List W64) (vors : List Vor) (cap : Captured)
    (group : List (Fin 4)) : Chain :=
  { core := c, entry := e, far := far, hdr := hdr, vors := vors, cap := cap, group := group, launchT := s.eng.time, time := 0, stalls := 0,
    flags := 0, status := .running, told := false, jtold := false, presented := false, lastTick := s.eng.time,
    ports := assignPorts ((flying s).flatMap (fun ch => ch.ports.map (fun p => p.2))) vors,
    pfLines := clampLines s.eng.pfLines, wrLines := clampLines s.eng.wrLines, caps := [], res := [], groups := [], rank := [], red := [],
    axs := [], exp := [], lost := [], wpos := [], pfPos := [], lines := [], lwQueue := [], lwOut := [], px := [], pageFaults := [],
    withheld := [], crossIn := 0, crossOut := 0, peer := peer0, sent := peer0, journal := newJournal s hdr, jsusp := none, jold := [] }

def freeSlots (s : State) : List (Fin 4) := fours.filter (fun i => (s.eng.slots.get i).isNone)

/-- A queued chain as the partner tile is told of it (R448). -/
def peerProgOf (c : CoreId) (q : QEntry) : PeerProg :=
  ⟨c, q.hdr, q.vors.map (fun v => [v.w0, v.w1, v.w2, v.w3, v.w4, v.w5, v.w6, v.w7]), q.cap.pg, q.cap.root, q.cap.priv, q.cap.vecBase, q.cap.vecLim⟩

/-- Launches the head group of a core: every member takes a slot, and chain time 0 begins (R141, R150 to R152). In a pair the partner
tile launches it too (R163, R448). -/
def launchGroup (c : CoreId) (s : State) : State :=
  let g := headGroup c s
  let slots := (freeSlots s).take g.length
  let pairs := g.zip slots
  let s1 := pairs.foldl (fun s p =>
    let q := s.entry c p.1
    let ch := newChain s c p.1 false q.hdr q.vors q.cap slots
    let s1 := setChain p.2 ch s
    let s2 := setEntry c p.1 { s1.entry c p.1 with stage := .gone } s1
    let s3 := { s2 with iq := s2.iq.set c ((s2.iq.get c).erase p.1) }
    traceLaunch c p.1 (hTag ch.hdr) s3) s
  let s2 := setEng { s1.eng with launch := s1.eng.launch.bump g.length, lastCore := coreNum s c, lastLaunch := some s.eng.time } s1
  pairs.foldl (fun s p => enterTime p.2 s) (sendPair (.launch (g.map (fun e => peerProgOf c (s.entry c e)))) s2)

/-- The pair launches a chain or group of the partner's core (R448): it takes slots and reservations here too, and this tile computes
its elements. -/
def launchFar (progs : List PeerProg) (s : State) : State :=
  let slots := (freeSlots s).take progs.length
  if progs.isEmpty || slots.length < progs.length then s
  else
    let pairs := progs.zip slots
    let s1 := pairs.foldl (fun s p =>
      setChain p.2 (newChain s p.1.core 0 true p.1.hdr (p.1.vors.map vorOf) ⟨p.1.pg, p.1.root, p.1.priv, p.1.vecBase, p.1.vecLim⟩ slots) s) s
    let num : BitVec 3 := BitVec.ofNat 3 ((progs.head?.map (fun p => p.core.val)).getD 0 + (if isOdd s then 0 else 4))
    pairs.foldl (fun s p => enterTime p.2 s) (setEng { s1.eng with lastCore := num, lastLaunch := some s.eng.time } s1)

/-! ## Chain time (R141, R179 to R184) -/

/-- Retries every withheld action with fresh translation (R183). -/
def retryChain (slot : Fin 4) (s : State) : State :=
  match s.chain slot with
  | none => s
  | some ch =>
    let ch1 := { ch with status := .running, pageFaults := [], lines := ch.lines.filter (fun l => l.fault.isNone), withheld := [] }
    let s1 := setChain slot ch1 s
    if ch.presented then pump slot (present ch.withheld s1) else enterTime slot s1

/-- What a VCLK's end does to one chain before chain time may advance. -/
def beforeAdvance (frozen : Bool) (slot : Fin 4) (s : State) : State :=
  match s.chain slot with
  | none => s
  | some ch =>
    match ch.status with
    | .suspended _ => journalSuspend slot (tellSuspended slot s)
    | .resuming => if frozen then s else retryChain slot s
    | .running =>
      if frozen then s
      else match linearFaultNow s ch with
        | some f => raiseFault slot f s
        | none => pump slot s
    | .ending _ _ _ => tryEnd slot s

/-- Chain time of a member moves on: its lines are consumed, and the next chain time's actions are presented. -/
def advanceChain (slot : Fin 4) (s : State) : State :=
  enterTime slot (withChain slot (fun ch => { ch with time := ch.time + 1, presented := false }) (consumeLines slot s))

/-- The end of a VCLK for a chain and the members of its launch group (R141): chain time advances when every action of it has
completed, and otherwise the VCLK counts as a stall. A poisoned index of SCATTER or SADD ends its chain there, with the elements before
it done (R118, R181). -/
def tickGroup (slot : Fin 4) (s : State) : State :=
  match s.chain slot with
  | none => s
  | some ch0 =>
    let frozen := engFrozen s || (s.role.fused && pairHeld s) || s.vs.wipePending
    let open_ := ch0.group.filter (fun i => match s.chain i with
      | some ch => !chainComplete s i ch
      | none => false)
    let wasRunning := open_.all (fun i => match s.chain i with
      | some ch => ch.status == .running
      | none => false)
    -- this VCLK's tick is that of every member, also of one that is complete
    let s0 := ch0.group.foldl (fun s i => withChain i (fun ch => { ch with lastTick := s.eng.time }) s) s
    let s1 := open_.foldl (fun s i => tellPeer i s) (open_.foldl (fun s i => beforeAdvance frozen i s) s0)
    let ready := !frozen && wasRunning && open_.all (fun i => match s1.chain i with
      | some ch => ch.status == .running && timeDone s1 i ch
      | none => false)
    let ends (i : Fin 4) : Option Nat := if ready then (s1.chain i).bind (fun ch => (poisonedIndex s1 i ch).map (fun x => x.1)) else none
    let s2 :=
      if ready && open_.all (fun i => (ends i).isNone) then open_.foldl (fun s i => advanceChain i s) s1
      else
        let s3 := if frozen then s1 else crossLink ch0.group s1
        open_.foldl (fun s i => match ends i with
          | some vi => tryEnd i (failChain i 0x4E vi 0 true s)
          | none => stallChain i s) s3
    open_.foldl (fun s i => journalProgress i s) s2

/-! ## Responses (R172 to R178) -/

/-- A line read of a chain returns: to a stream buffer, or to a PX access (R178). -/
def lineResponse (slot : Fin 4) (ch : Chain) (line : Nat) (code : RspCode) (data : Line) (s : State) : Option State :=
  let words : List XWord := (lineWords data).map (fun d => ⟨d, code == .epoi⟩)
  let isMine (b : LineBuf) : Bool := b.pline == line && b.words.isNone && b.fault.isNone && b.part.isEmpty
  match ch.lines.find? isMine with
  | some b =>
    let b' := match code with
      | .edec => { b with fault := some ⟨0x4A, 0, 0⟩ }
      | .etgt => { b with fault := some ⟨0x4B, 0, 0⟩ }
      | _ => { b with words := some words }
    let ch1 := { ch with lines := ch.lines.map (fun l => if l = b then b' else l) }
    let ch2 := match ch.status with
      | .ending _ _ _ => { ch1 with lines := ch1.lines.filter (fun l => l.words.isNone && l.fault.isNone) }
      | _ => ch1
    some (tryEnd slot (pump slot (setChain slot ch2 s)))
  | none =>
    match ch.px.find? (fun a => a.wait == some line) with
    | none => none
    | some a =>
      let rest := ch.px.erase a
      match ch.vors[a.vor]?, ch.status with
      | _, .ending _ _ _ =>
        some (tryEnd slot (setChain slot (if a.kind = .gather then { ch with px := rest } else noteLost a.vor a.e { ch with px := rest }) s))
      | none, _ => none
      | some v, _ =>
        let n := if a.kind = .gather then 1 else 4
        let f (c : BitVec 8) : SFault := mkFault ch v a.vor n a.e c (a.kind != .gather) (a.vaddr.toNat : Int) (BitVec.ofNat 52 (line * 64 + a.vaddr.toNat % 64)) 0
        let again := { ch with px := { a with wait := none } :: rest }
        match code, a.kind with
        | .edec, .gather => some (raiseFault slot (f 0x4A) (setChain slot again s))
        | .etgt, .gather => some (raiseFault slot (f 0x4B) (setChain slot again s))
        | .edec, _ => some (tryEnd slot (failChain slot 0x4C a.vor (BitVec.ofNat 52 (line * 64)) true (setChain slot (noteLost a.vor a.e { ch with px := rest }) s)))
        | .etgt, _ => some (tryEnd slot (failChain slot 0x4D a.vor (BitVec.ofNat 52 (line * 64)) true (setChain slot (noteLost a.vor a.e { ch with px := rest }) s)))
        | _, k =>
          let j := a.vaddr.toNat % 64 / 8
          let sub := a.vaddr.toNat % 8 * 8 / a.z
          let w : W64 := data.extractLsb' (64 * j) 64
          if k = .gather then
            some (pump slot (setChain slot { ch with px := rest, res := Tab.insert ch.res (elKey a.vor a.e) ⟨subLane w a.z sub, code == .epoi, true⟩ } s))
          else
            -- an accumulate outside the Vector Store: the line's word with the sum is written back (DEDUCED, log entry 15)
            let x := BitVec.ofNat 64 (a.val * 2 ^ (sub * a.z))
            let bad := a.poison || code == .epoi
            let r := bankAdd (v.op - 0x88) (if a.z = 32 then BitVec.ofNat 2 (2 ^ sub) else 3) v.rm w x
            let lw : LineWrite := ⟨a.vor, a.e, a.vaddr.toNat, 13, a.vaddr.toNat / 64, line, (255 : BitVec 64) <<< (8 * j),
              if bad then 0 else (r.1.zeroExtend 512) <<< (64 * j), if bad then BitVec.ofNat 8 (2 ^ j) else 0⟩
            some (pump slot (setChain slot { ch with px := rest, lwOut := ch.lwOut ++ [lw], flags := if bad then ch.flags else ch.flags ||| r.2 } (coherentWrite line s)))

/-- A line write's response (R175, R181). -/
def writeResponse (slot : Fin 4) (ch : Chain) (line : Nat) (code : RspCode) (s : State) : Option State :=
  match ch.lwOut.find? (fun w => w.pline == line) with
  | none => none
  | some w =>
    let ch1 := { ch with lwOut := ch.lwOut.erase w, jold := ch.jold.erase w }
    let pa := BitVec.ofNat 52 (line * 64)
    let lost := setChain slot (noteLost w.vor w.e ch1) s
    let s2 := match code with
      | .okay => journalProgress slot (pump slot (setChain slot ch1 s))
      | .edec => failChain slot 0x4C w.vor pa true lost
      | _ => failChain slot 0x4D w.vor pa true lost
    some (tryEnd slot (journalLate slot s2))

/-- A stream TLB walk read returns (R169, R170, R317, R324, R332). -/
def walkResponse (slot : Fin 4) (page : Nat) (code : RspCode) (entry : W64) (s : State) : Option State :=
  match s.eng.walks.find? (fun w => w.slot == slot && w.page == page) with
  | none => none
  | some w =>
    let s1 := setEng { s.eng with walks := s.eng.walks.erase w } s
    let hold (f : HeldFault) (s : State) : State := holdPage slot page w.key w.write f s
    let s2 :=
      if w.stale then s1
      else if code != .okay then hold ⟨0x45, BitVec.ofNat 3 w.level, w.ea⟩ s1
      else if !pteV entry then hold ⟨0x41, 0, 0⟩ s1
      else if isLeaf w.level entry then
        let t := leafEntry w.cap.root 0 (page * 4096) w.level entry
        if w.inv.any (fun a => t.holds a.toNat) then s1
        else match leafCheck w.cap.priv.toNat w.write false w.write t with
        | some f => hold ⟨leafCause f, 0, 0⟩ s1
        | none =>
          let (n, s3) := s1.takeNat
          setEng { s3.eng with tlb := tlbEnter 512 n t s3.eng.tlb } s3
      else
        let ea := entryAddr (pteAddr entry) (page * 4096) (w.level + 1)
        if walkDevice s1 ea then hold ⟨0x46, BitVec.ofNat 3 (w.level + 1), BitVec.ofNat 52 ea⟩ s1
        else setEng { s1.eng with walks := s1.eng.walks ++ [{ w with level := w.level + 1, ea := BitVec.ofNat 52 ea }] } s1
    some (tryEnd slot (pump slot s2))

/-! ## What a bank answers to a chain (R62, R90, R118, R178) -/

/-- A refused request of a chain is SECDENY: the chain suspends, and the action is withheld for RESUME (R177, R179, R183). A chain that
already ends drops it. -/
def refuseAction (slot : Fin 4) (r : BankReq) (vi n e fidx : Nat) (s : State) : State :=
  match s.chain slot with
  | none => s
  | some ch =>
    match ch.vors[vi]?, ch.status with
    | none, _ => s
    | _, .ending _ _ _ => tryEnd slot (setChain slot (match r.dest.writeOf with
      | some x => noteLost x.1 x.2 ch
      | none => ch) s)
    | some v, _ =>
      let a := elemAddr ch vi v n e
      let pa : Nat := if v.linear n then vsWordPa s r.word + (a % 8).toNat else 0
      withChain slot (withholdReq s r) (raiseFault slot (mkFault ch v vi n fidx 0x49 (n == 4) a (BitVec.ofNat 52 pa) 0) s)

/-- The element that a fault on word `i` of a load stream names: for A of EXPAND the active element whose rank it holds (R108). -/
def loadElem (ch : Chain) (vi : Nat) (v : Vor) (n i : Nat) : Nat :=
  if v.op == 0x82 && n == 1 then ((ch.exp.find? (fun y => y.1 == vi && (v.lay 1).wordNo y.2.1 == i)).map (fun y => y.2.2)).getD 0
  else (v.lay n).firstElem i

/-- A captured word of a load stream. A mask word of EXPAND keeps the value that its elements of A were presented by. -/
def answerLoad (slot : Fin 4) (vi n i : Nat) (a : BankAnswer) (s : State) : State :=
  match s.chain slot with
  | none => s
  | some ch =>
    match ch.vors[vi]?, a with
    | some v, .data x =>
      if v.op == 0x82 && n == 0 && (Tab.find ch.caps (capKey vi n i)).isSome then s
      else setChain slot { ch with caps := Tab.insert ch.caps (capKey vi n i) x } s
    | some v, .refused r =>
      let e := loadElem ch vi v n i
      -- the word's address, not that of a rank
      withChain slot (withholdReq s r) (raiseFault slot (mkFault ch v vi n e 0x49 false ((v.lay n).wordAddr i) 0 0) s)
    | _, _ => s

/-- A word of a line that lies in the Vector Store window. -/
def answerLineWord (slot : Fin 4) (vi n line i : Nat) (a : BankAnswer) (s : State) : State :=
  withChain slot (fun ch =>
    { ch with lines := ch.lines.map (fun l =>
        if l.vor == vi && l.opnd == n && l.vline == line && l.words.isNone then
          match a with
          | .data x =>
            let part := l.part ++ [(i, x)]
            if part.length ≥ 8 then
              { l with part := part, words := some ((List.range 8).map (fun j => ((part.find? (fun p => p.1 == j)).map (fun p => p.2)).getD xword0)) }
            else { l with part := part }
          | _ => { l with fault := some ⟨0x49, 0, 0⟩ }
        else l) }) s

/-- The element that a GATHER's table read brings. -/
def answerGather (slot : Fin 4) (vi e : Nat) (a : BankAnswer) (s : State) : State :=
  match s.chain slot with
  | none => s
  | some ch =>
    match ch.vors[vi]?, a with
    | some v, .data x =>
      let j := match srcElem ch vi v 2 e with
        | some ix => (v.ty 2).toInt ix.val
        | none => 0
      let sub := ((v.lay 1).posOf j).2
      setChain slot { ch with res := Tab.insert ch.res (elKey vi e) ⟨subLane x.data (v.ty 1).z sub, x.poison, true⟩ } s
    | some _, .refused r => refuseAction slot r vi 1 e e s
    | _, _ => s

/-- A granted write or accumulate of a chain; a refused one is SECDENY. -/
def answerStore (slot : Fin 4) (vi e : Nat) (a : BankAnswer) (s : State) : State :=
  match s.chain slot with
  | none => s
  | some ch =>
    match a with
    | .done fl => journalProgress slot (tryEnd slot (journalLate slot (setChain slot { ch with flags := ch.flags ||| fl } s)))
    | .refused r =>
      match ch.vors[vi]? with
      | none => s
      | some v => refuseAction slot r vi 4 e (if opIsRecord v.op then v.len else e) s
    | .data _ => s

/-! ## The journal (R189 to R192) -/

/-- The line that a record is written as (R191). -/
def jrecLine (j : Journal) (seq : Nat) (r : JRec) : Line :=
  let kind := match r.kind with
    | .progress => 1
    | .suspend => 2
    | .done => 3
    | .error => 4
  let w0 := seq % 2 ^ 32 + kind * 2 ^ 32 + r.flags.toNat * 2 ^ 40 + r.cause.toNat * 2 ^ 48 + r.vorx * 2 ^ 56
  let w2 := j.tag.toNat + j.slot.toNat * 2 ^ 32 + j.diepos.toNat * 2 ^ 40
  BitVec.ofNat 512 (w0 + r.wmark * 2 ^ 64 + w2 * 2 ^ 128 + j.epoch.toNat * 2 ^ 192 + j.launchT.toNat * 2 ^ 256 +
    r.endt * 2 ^ 320 + r.stalls * 2 ^ 384 + (seq % 2 ^ 32) * 2 ^ 448)

/-- Record SEQ goes to line (SEQ mod 2) of the journal area. -/
def jrecAddr (j : Journal) (seq : Nat) : Nat := j.jbase.toNat * 128 + 64 * (seq % 2)

/-- The due record is issued, once the one before has been acknowledged. -/
def Journal.issue (j : Journal) : Option Journal :=
  match j.waiting, j.outstanding with
  | some r, none => some { j with seq := j.seq + 1, wmark := r.wmark, waiting := none, outstanding := some r }
  | _, _ => none

/-- The response to a journal write: OKAY acknowledges it, anything else ends journalling (R190). -/
def Journal.answer (j : Journal) (code : RspCode) : Journal :=
  if code == .okay then { j with outstanding := none } else { j with outstanding := none, waiting := none, jen := false }

def codeNum : RspCode → Nat
  | .okay => 0
  | .edec => 1
  | .etgt => 2
  | .epoi => 3

/-- The journal of a slot that a journal command is about: that of an ended chain first. -/
def slotJournal (slot : Fin 4) (want : Journal → Bool) (s : State) : Option (Bool × Journal) :=
  match (s.eng.tails.get slot).find? want with
  | some j => some (true, j)
  | none => match s.chain slot with
    | some ch => if want ch.journal then some (false, ch.journal) else none
    | none => none

def putJournal (slot : Fin 4) (tail : Bool) (old new : Journal) (s : State) : State :=
  if tail then
    let l := (s.eng.tails.get slot).map (fun j => if j = old then new else j)
    setEng { s.eng with tails := s.eng.tails.set slot (l.filter (fun j => j.waiting.isSome || j.outstanding.isSome)) } s
  else withChain slot (fun ch => { ch with journal := new }) s

/-! ## Fault registers (R182 to R185) -/

/-- RESUME (R183). A SUSPEND record that still waits for writes to return falls due when they have (R189). -/
def resumeChain (slot : Fin 4) (s : State) : State :=
  if (s.eng.flt.get slot).valid then
    withChain slot (fun ch =>
      let ch1 := { ch with status := .resuming }
      match ch.status with
      | .suspended f => if ch.jtold then ch1 else { ch1 with jtold := true, jsusp := some (mkJRec .suspend f.cause f.vor 0 ch), jold := ch.lwOut }
      | _ => ch1) (clearFault slot (journalSuspend slot (tellSuspended slot s)))
  else s

def cancelChain (slot : Fin 4) (s : State) : State :=
  if (s.eng.flt.get slot).valid then
    let vorx := match (s.chain slot).map (fun ch => ch.status) with
      | some (.suspended f) => f.vor
      | _ => 0
    tryEnd slot (failChain slot 0x4F vorx 0 false (clearFault slot (tellSuspended slot s)))
  else s

/-- A write of ENGFLTn.CTL: CANCEL takes precedence over RESUME (R184). -/
def engfltWrite (slot : Fin 4) (val : W64) (s : State) : State :=
  if bitAt 2 val then cancelChain slot s else if bitAt 1 val then resumeChain slot s else s

/-- The hold-up flush suspends every running chain with cause 0x50 (R494 step 1). -/
def flushChains (s : State) : State :=
  fours.foldl (fun s i => match s.chain i with
    | some ch => (match ch.status with
      | .running => raiseFault i ⟨0x50, 0, 0, false, 0, false, 0, 0⟩ s
      | .resuming => raiseFault i ⟨0x50, 0, 0, false, 0, false, 0, 0⟩ (setChain i { ch with status := .running } s)
      | _ => s)
    | none => s) s

/-- On entry to FENCED every chain in flight ends, once its responses have returned, with cause 0x51 (R427). -/
def fenceChains (s : State) : State :=
  fours.foldl (fun s i => match s.chain i with
    | some ch =>
      let vorx := match ch.status with
        | .suspended f => f.vor
        | _ => 0
      tryEnd i (failChain i 0x51 vorx 0 false s)
    | none => s) s

end Sys2Proof.Machine
end

