-- ==== Sys2Proof/Machine/Flags.lean ====
section
/-! DEFINITION. The condition flags of a core and every computation of them: FLAGS (R198), conditions (R214), the flag rules of
R231, and the results of the arithmetic, logical and compare operations (R252 to R254). -/

namespace Sys2Proof.Machine

/-- FLAGS: T, Z, N, C, V from bit 0 (R198). -/
abbrev Flg := BitVec 5

def flT (f : Flg) : Bool := f.getLsbD 0
def flZ (f : Flg) : Bool := f.getLsbD 1
def flN (f : Flg) : Bool := f.getLsbD 2
def flC (f : Flg) : Bool := f.getLsbD 3
def flV (f : Flg) : Bool := f.getLsbD 4

def mkFlags (t z n c v : Bool) : Flg := BitVec.ofNat 5 (b2n t + 2 * b2n z + 4 * b2n n + 8 * b2n c + 16 * b2n v)

/-- COND (R214). -/
def condHolds (cond : BitVec 3) (f : Flg) : Bool :=
  match cond.toNat with
  | 0 => true
  | 1 => flT f
  | 2 => !flT f
  | 3 => flZ f
  | 4 => !flZ f
  | 5 => flN f != flV f
  | 6 => flN f == flV f
  | _ => flC f

/-- Z and N of a result; the other flags are kept (R231). -/
def flagsZN (f : Flg) (r : W64) : Flg := mkFlags (flT f) (r == 0) (r.getLsbD 63) (flC f) (flV f)
def flagsZNV (f : Flg) (r : W64) (v : Bool) : Flg := mkFlags (flT f) (r == 0) (r.getLsbD 63) (flC f) v
def withT (f : Flg) (t : Bool) : Flg := mkFlags t (flZ f) (flN f) (flC f) (flV f)

/-- b + a + carry, with its flags (R231). -/
def addFlags (f : Flg) (b a : W64) (carry : Bool) : W64 × Flg :=
  let sum := b.toNat + a.toNat + b2n carry
  let r := BitVec.ofNat 64 sum
  (r, mkFlags (flT f) (r == 0) (r.getLsbD 63) (decide (sum ≥ 2 ^ 64)) (b.getLsbD 63 == a.getLsbD 63 && r.getLsbD 63 != b.getLsbD 63))

/-- b − a − borrow, with its flags (R231): C is 1 when no borrow occurs. -/
def subFlags (f : Flg) (b a : W64) (borrow : Bool) : W64 × Flg :=
  let r := b - a - BitVec.ofNat 64 (b2n borrow)
  (r, mkFlags (flT f) (r == 0) (r.getLsbD 63) (decide (b.toNat ≥ a.toNat + b2n borrow)) (b.getLsbD 63 != a.getLsbD 63 && r.getLsbD 63 != b.getLsbD 63))

/-- The count of leading zeros, of trailing zeros, and of 1 bits (R253). -/
def clz64 (a : W64) : Nat := if a = 0 then 64 else 63 - Nat.log2 a.toNat
def ctz64 (a : W64) : Nat := ((List.range 64).find? (fun i => a.getLsbD i)).getD 64
def popc64 (a : W64) : Nat := ((List.range 64).filter (fun i => a.getLsbD i)).length

/-- The 8 bytes reversed (R253). -/
def bswap64 (a : W64) : W64 :=
  (List.range 8).foldl (fun r i => r ||| ((a.extractLsb' (8 * i) 8).zeroExtend 64 <<< (8 * (7 - i)))) 0

/-- The least value, −2^63, and −1. -/
def minWord : W64 := 0x8000000000000000#64
def allOnesWord : W64 := 0xFFFFFFFFFFFFFFFF#64

/-- A result that takes a cell `b` below a cell `a`, by short code (R252, R253); the divisor of a divide is not 0. -/
def alu2 (code : Nat) (f : Flg) (b a : W64) : W64 × Flg :=
  let zn (r : W64) : W64 × Flg := (r, flagsZN f r)
  match code with
  | 0x20 => addFlags f b a false
  | 0x21 => subFlags f b a false
  | 0x22 => addFlags f b a (flC f)
  | 0x23 => subFlags f b a (!flC f)
  | 0x27 => zn (b * a)
  | 0x28 => zn (BitVec.ofNat 64 (b.toNat * a.toNat / 2 ^ 64))
  | 0x29 => zn (BitVec.ofInt 64 (b.toInt * a.toInt / 2 ^ 64))
  | 0x2A => zn (BitVec.ofNat 64 (b.toNat / a.toNat))
  | 0x2B => if b = minWord ∧ a = allOnesWord then (minWord, flagsZNV f minWord true)
            else let r := BitVec.ofInt 64 (Int.tdiv b.toInt a.toInt); (r, flagsZNV f r false)
  | 0x2C => zn (BitVec.ofNat 64 (b.toNat % a.toNat))
  | 0x2D => if b = minWord ∧ a = allOnesWord then (0, flagsZNV f 0 true)
            else let r := BitVec.ofInt 64 (Int.tmod b.toInt a.toInt); (r, flagsZNV f r false)
  | 0x2E => zn (if b.toInt ≤ a.toInt then b else a)
  | 0x2F => zn (if b.toInt ≤ a.toInt then a else b)
  | 0x30 => zn (if b.toNat ≤ a.toNat then b else a)
  | 0x31 => zn (if b.toNat ≤ a.toNat then a else b)
  | 0x38 => zn (b &&& a)
  | 0x39 => zn (b ||| a)
  | 0x3A => zn (b ^^^ a)
  | 0x3B => zn (b &&& ~~~ a)
  | 0x3D => zn (b <<< (a.toNat % 64))
  | 0x3E => zn (b >>> (a.toNat % 64))
  | 0x3F => zn (b.sshiftRight (a.toNat % 64))
  | 0x40 => zn (b.rotateLeft (a.toNat % 64))
  | 0x41 => zn (b.rotateRight (a.toNat % 64))
  | _ => (if flT f then b else a, f)

/-- A result that takes one cell, by short code (R252, R253). -/
def alu1 (code : Nat) (f : Flg) (a : W64) : W64 × Flg :=
  let zn (r : W64) : W64 × Flg := (r, flagsZN f r)
  match code with
  | 0x24 => subFlags f 0 a false
  | 0x25 => addFlags f a 1 false
  | 0x26 => subFlags f a 1 false
  | 0x32 => if a = minWord then (minWord, flagsZNV f minWord true)
            else let r := if a.getLsbD 63 then 0 - a else a; (r, flagsZNV f r false)
  | 0x3C => zn (~~~ a)
  | 0x42 => zn (BitVec.ofNat 64 (popc64 a))
  | 0x43 => zn (BitVec.ofNat 64 (clz64 a))
  | 0x44 => zn (BitVec.ofNat 64 (ctz64 a))
  | 0x45 => zn (bswap64 a)
  | 0x46 => zn ((a.truncate 32).signExtend 64)
  | _ => zn ((a.truncate 32 : BitVec 32).zeroExtend 64)

/-- The relation of a compare, by short code (R254). -/
def compareHolds (code : Nat) (b a : W64) : Bool :=
  match code with
  | 0x50 => b == a
  | 0x51 => b != a
  | 0x52 => decide (b.toInt < a.toInt)
  | 0x53 => decide (b.toInt ≤ a.toInt)
  | 0x54 => decide (b.toInt > a.toInt)
  | 0x55 => decide (b.toInt ≥ a.toInt)
  | 0x56 => decide (b.toNat < a.toNat)
  | 0x57 => decide (b.toNat ≤ a.toNat)
  | 0x58 => decide (b.toNat > a.toNat)
  | _ => decide (b.toNat ≥ a.toNat)

/-- The flags that a compare writes (R231, R254). -/
def compareFlags (code : Nat) (f : Flg) (b a : W64) : Flg := withT (subFlags f b a false).2 (compareHolds code b a)

/-- The flags that TST and TSTK write (R254). -/
def testFlags (f : Flg) (a : W64) : Flg := withT (flagsZN f a) (a != 0)

end Sys2Proof.Machine
end

