-- ==== Sys2Proof/Machine/Crypto.lean ====
section
/-! DEFINITION. SHA-384 and the verification of ECDSA signatures on P-384, which R505, R506 and R511 name (FIPS 180-4 and
FIPS 186-5; PRESUMED, notes/assumptions/9.md). -/

namespace Sys2Proof.Machine

/-! ## SHA-384 -/

/-- The greatest number below `2 ^ n` whose `k`-th power does not exceed `m`, bit by bit. -/
def intRoot (k m : Nat) : Nat → Nat → Nat
  | 0, r => r
  | n + 1, r => let t := r + 2 ^ n; intRoot k m n (if t ^ k ≤ m then t else r)

def isPrime (n : Nat) : Bool := n ≥ 2 && (List.range n).all (fun d => d < 2 || n % d != 0)

/-- The first 80 primes. -/
def shaPrimes : List Nat := (List.range 410).filter isPrime

/-- The round constants: 64 bits of the fractions of the primes' cube roots. -/
def shaK : List W64 := shaPrimes.map (fun p => BitVec.ofNat 64 (intRoot 3 (p * 2 ^ 192) 67 0))

/-- The initial value: 64 bits of the fractions of the square roots of the ninth to the sixteenth prime. -/
def shaInit : List W64 := ((shaPrimes.drop 8).take 8).map (fun p => BitVec.ofNat 64 (intRoot 2 (p * 2 ^ 128) 68 0))

def shaMix (x : W64) (a b c : Nat) (shift : Bool) : W64 :=
  x.rotateRight a ^^^ x.rotateRight b ^^^ (if shift then x >>> c else x.rotateRight c)

/-- The message schedule, newest word first. -/
def shaSchedule : Nat → List W64 → List W64
  | 0, w => w
  | n + 1, w =>
    let g (i : Nat) : W64 := w[i]?.getD 0
    shaSchedule n ((shaMix (g 1) 19 61 6 true + g 6 + shaMix (g 14) 1 8 7 true + g 15) :: w)

def shaRound (h : List W64) (k w : W64) : List W64 :=
  let g (i : Nat) : W64 := h[i]?.getD 0
  let ch := (g 4 &&& g 5) ^^^ (~~~ g 4 &&& g 6)
  let t1 := g 7 + shaMix (g 4) 14 18 41 false + ch + k + w
  let t2 := shaMix (g 0) 28 34 39 false + ((g 0 &&& g 1) ^^^ (g 0 &&& g 2) ^^^ (g 1 &&& g 2))
  [t1 + t2, g 0, g 1, g 2, g 3 + t1, g 4, g 5, g 6]

/-- The big-endian number that a list of bytes spells. -/
def beNat (l : List Byte) : Nat := l.foldl (fun n b => n * 256 + b.toNat) 0

/-- The little-endian number that a list of bytes spells. -/
def leNat (l : List Byte) : Nat := beNat l.reverse

/-- One 128-byte block. -/
def shaBlock (h : List W64) (block : List Byte) : List W64 :=
  let w := ((List.range 16).map (fun i => BitVec.ofNat 64 (beNat ((block.drop (8 * i)).take 8)))).reverse
  let ws := (shaSchedule 64 w).reverse
  let r := (shaK.zip ws).foldl (fun h kw => shaRound h kw.1 kw.2) h
  (h.zip r).map (fun p => p.1 + p.2)

def shaBlocks : Nat → List W64 → List Byte → List W64
  | 0, h, _ => h
  | n + 1, h, m => shaBlocks n (shaBlock h (m.take 128)) (m.drop 128)

/-- A number as `n` bytes, big-endian. -/
def bytesBE (v n : Nat) : List Byte := (List.range n).map (fun i => BitVec.ofNat 8 (v / 2 ^ (8 * (n - 1 - i))))

/-- SHA-384 of a message, as 48 bytes. -/
def sha384 (m : List Byte) : List Byte :=
  let len := m.length
  let zeros := (239 - len % 128) % 128
  let padded := m ++ [(0x80 : Byte)] ++ List.replicate zeros 0 ++ bytesBE (8 * len) 16
  let h := shaBlocks (padded.length / 128) shaInit padded
  (h.take 6).flatMap (fun w => bytesBE w.toNat 8)

/-! ## P-384 -/

def ecP : Nat := 2 ^ 384 - 2 ^ 128 - 2 ^ 96 + 2 ^ 32 - 1
def ecN : Nat := 0xffffffffffffffffffffffffffffffffffffffffffffffffc7634d81f4372ddf581a0db248b0a77aecec196accc52973
def ecB : Nat := 0xb3312fa7e23ee7e4988e056be3f82d19181d9c6efe8141120314088f5013875ac656398d8a2ed19d2a85c8edd3ec2aef
def ecGx : Nat := 0xaa87ca22be8b05378eb1c71ef320ad746e1d3b628ba79b9859f741e082542a385502f25dbf55296c3a545e3872760ab7
def ecGy : Nat := 0x3617de4a96262c6f5d9e98bf9292dc29f8f41dbd289a147ce9da3113b5f0b8c00a60b1ce1d7e819d7a431d7c90ea0e5f

/-- `b ^ e` modulo `m`, over the low `n` bits of `e`, the highest first. -/
def powMod (b e m : Nat) : Nat → Nat → Nat
  | 0, acc => acc
  | n + 1, acc =>
    let sq := acc * acc % m
    powMod b e m n (if (e >>> n) % 2 = 1 then sq * b % m else sq)

/-- The inverse modulo a prime. -/
def invMod (a m : Nat) : Nat := powMod (a % m) (m - 2) m 384 1

/-- A point of the curve; `none` is the point at infinity. -/
abbrev EcPoint := Option (Nat × Nat)

def ecAdd (a b : EcPoint) : EcPoint :=
  match a, b with
  | none, q => q
  | p, none => p
  | some (x1, y1), some (x2, y2) =>
    if x1 = x2 ∧ (y1 + y2) % ecP = 0 then none
    else
      let l := if x1 = x2 then (3 * x1 * x1 + ecP - 3) * invMod (2 * y1) ecP % ecP
        else (y2 + ecP - y1) * invMod (x2 + ecP - x1) ecP % ecP
      let x3 := (l * l + 2 * ecP - x1 - x2) % ecP
      some (x3, (l * (x1 + ecP - x3) + ecP - y1) % ecP)

/-- A multiple of a point, over the low `n` bits of the factor, the highest first. -/
def ecMul (k : Nat) (p : EcPoint) : Nat → EcPoint → EcPoint
  | 0, acc => acc
  | n + 1, acc =>
    let d := ecAdd acc acc
    ecMul k p n (if (k >>> n) % 2 = 1 then ecAdd d p else d)

/-- The public key is a point of the curve. -/
def ecOn (x y : Nat) : Bool := x < ecP && y < ecP && (x * x * x + (ecP - 3) * x + ecB) % ecP == y * y % ecP

/-- The signature (r, s) verifies under the key (x, y) over a message. -/
def ecVerify (x y r s : Nat) (m : List Byte) : Bool :=
  if !ecOn x y || r == 0 || s == 0 || r ≥ ecN || s ≥ ecN then false
  else
    let e := beNat (sha384 m)
    let w := invMod s ecN
    match ecAdd (ecMul (e * w % ecN) (some (ecGx, ecGy)) 384 none) (ecMul (r * w % ecN) (some (x, y)) 384 none) with
    | none => false
    | some (px, _) => px % ecN == r

end Sys2Proof.Machine
end

