-- ==== Sys2Proof/Machine/Dma.lean ====
section
/-! DEFINITION. The DMA engine: channels, list walks, requests, responses, halt, restart and cancel (spec/15_dma.md). -/

namespace Sys2Proof.Machine

def isService (n : Nat) : Bool := 60 ≤ n

def dwalk0 : DWalk := ⟨0, false, 0, 0, 0, 0, 0, false⟩
def dmaErr0 : DmaErr := ⟨0, false, false, false, 0, false⟩
/-- Channel `n` after reset: ESIZE is 0b11 for service channels (R419, R569). -/
def chan0 (n : Nat) : Chan :=
  ⟨.idle, .none, false, false, if isService n then 3 else 0, 0, 0, 0, 0, dmaErr0, dwalk0, dwalk0, 0, 0, [], [], [], [], 0⟩

def State.chan (s : State) (ch : Fin 64) : Chan := Tab.get (chan0 ch.val) s.dma.chans ch.val
def setChan (ch : Fin 64) (k : Chan) (s : State) : State :=
  { s with dma := { s.dma with chans := Tab.set (chan0 ch.val) s.dma.chans ch.val k } }

def allChans : List (Fin 64) := (List.range 64).map (fun i => BitVec.toFin (BitVec.ofNat 6 i))

/-! ## Addresses (R410) -/

/-- Where a channel's access goes, or the code of its refusal. -/
inductive DTarget where
  | vs (off : Nat)
  | ext (cached : Bool)
  | refused (code : BitVec 4)
  deriving DecidableEq, Repr

def dmaTarget (s : State) (ch : Fin 64) (addr len : Nat) : DTarget :=
  let k := s.chan ch
  -- the boot copy reads through the port that BOOTCTL names, whatever the attribute map says (R507)
  if ch.val = 63 && s.boot.step == .copy && k.src.toNat ≤ addr && addr < k.src.toNat + k.len.toNat then .ext false
  else match routeOf s addr with
  | .vs off => if (off + len + 7) / 8 > wordSpace s then .refused 1 else .vs off
  | .setup _ => .refused 5
  | .ext .device _ => if isService ch.val then .ext false else .refused 4
  | .ext k _ => .ext (k == .cached)

/-! ## Ends of a run (R415, R416, R418) -/

def Chan.srcEnded (k : Chan) : Bool := k.sw.last && k.sw.left == 0
def Chan.dstEnded (k : Chan) : Bool := k.dw.last && k.dw.left == 0
def Chan.dataReads (k : Chan) : List DRead := k.reads.filter (fun r => r.kind == .data)

/-- Every byte has been written and every response has returned. -/
def Chan.complete (k : Chan) : Bool :=
  k.srcEnded && k.dstEnded && k.chunks.isEmpty && k.reads.isEmpty && k.writes.isEmpty

/-- What a channel becomes once nothing of it is outstanding. -/
def dmaSettle (ch : Fin 64) (s : State) : State :=
  let k := s.chan ch
  if k.st != .running then s
  else match k.stop with
    | .none =>
      if k.complete then arrive (srcDmaDone ch.val) (setChan ch { k with st := .done, prog := k.wpos, acked := [] } s) else s
    | .halt =>
      if k.reads.isEmpty && k.writes.isEmpty then
        arrive srcDmaHalt (setChan ch { k with st := .halted, stop := .none, chunks := [], acked := [] } s)
      else s
    | .cancel =>
      if k.reads.isEmpty && k.writes.isEmpty then setChan ch { k with st := .cancelled, stop := .none, chunks := [], acked := [] } s
      else s

/-- A failure of a channel (R416): the first is latched, and the channel stops issuing. -/
def dmaFail (ch : Fin 64) (dir list : Bool) (pa : Nat) (code : BitVec 4) (s : State) : State :=
  let k := s.chan ch
  let err : DmaErr := if k.err.valid then { k.err with more := true } else ⟨BitVec.ofNat 52 pa, true, dir, list, code, false⟩
  dmaSettle ch (setChan ch { k with err := err, stop := (if k.stop = .none then .halt else k.stop) } s)

/-- The list entry that holds byte `wpos` of a source longer than its destination, once it is known (R408). -/
def Chan.longEntry (k : Chan) : Option Nat :=
  match k.chunks.find? (fun c => c.pos == k.wpos) with
  | some c => some c.entry
  | none => match k.dataReads.find? (fun r => r.pos == k.wpos) with
    | some r => some r.entry
    | none => if k.sw.left > 0 then some k.sw.entry else none

/-- LENERR is raised when the writer reaches the first byte without a counterpart (R408). -/
def dmaLength (ch : Fin 64) (s : State) : State :=
  let k := s.chan ch
  if k.st != .running || k.stop != .none then s
  else if k.dstEnded then
    match k.longEntry with
    | some e => dmaFail ch false true e 8 s
    | none => s
  else if k.srcEnded && k.dw.left > 0 && k.chunks.isEmpty && k.dataReads.isEmpty then dmaFail ch true true k.dw.entry 8 s
  else s

/-- After any event of a channel: LENERR, completion, halt or cancel. -/
def dmaAfter (ch : Fin 64) (s : State) : State := dmaSettle ch (dmaLength ch s)

/-! ## Start, restart and cancel (R409, R417 to R419) -/

/-- The walks of a run from byte `from_`. -/
def Chan.walks (k : Chan) (service : Bool) (from_ : Nat) : Chan :=
  let side (fixed : Bool) (a : BitVec 52) : DWalk :=
    if service then ⟨0, true, if fixed then a.toNat else a.toNat + from_, k.len.toNat - from_, 0, 0, 0, false⟩
    else ⟨a.toNat, false, 0, 0, 0, 0, from_, false⟩
  { k with st := .running, stop := .none, sw := side k.fixs k.src, dw := side k.fixd k.dst, rpos := from_, wpos := from_,
           chunks := [], acked := [] }

/-- The FMTERR of R409: an address or length that is no multiple of ESIZE with a fixed side. -/
def Chan.fixedBad (k : Chan) : Option (Bool × Nat) :=
  let z := 2 ^ k.esize.toNat
  if !(k.fixs || k.fixd) then none
  else if k.src.toNat % z != 0 then some (false, k.src.toNat)
  else if k.dst.toNat % z != 0 then some (true, k.dst.toNat)
  else if k.len.toNat % z != 0 then some (false, 0)
  else none

/-- A channel runs from the walks that it has been given, unless R409 halts it at once. -/
def dmaRun (ch : Fin 64) (k : Chan) (s : State) : State :=
  match (if isService ch.val then k.fixedBad else none) with
  | some (dir, pa) => dmaFail ch dir false pa 7 s
  | none => dmaAfter ch s

def dmaStartChan (ch : Fin 64) (s : State) : State :=
  let k := { s.chan ch with prog := 0, err := dmaErr0 }
  -- no service channel runs in END (R516)
  if isService ch.val && s.fuses.now = 5 then s
  else match k.st with
  | .running => s
  | .halted => s
  | _ =>
    let s1 := setChan ch (k.walks (isService ch.val) 0) s
    if s.pwr.flush.isSome then dmaFail ch false false 0 9 s1
    else dmaRun ch k s1

/-- RESTART (R417): DMAERR.VALID is cleared, MORE stands, and R409 is checked as at START (DEDUCED, notes/assumptions/84.md). -/
def dmaRestartChan (ch : Fin 64) (s : State) : State :=
  let k := s.chan ch
  if k.st = .halted && s.pwr.flush.isNone then
    dmaRun ch k (setChan ch ({ k with err := { k.err with valid := false } }.walks (isService ch.val) k.prog) s)
  else s

def dmaCancelChan (ch : Fin 64) (s : State) : State :=
  let k := s.chan ch
  match k.st with
  | .running => dmaSettle ch (setChan ch { k with stop := .cancel } s)
  | .halted => setChan ch { k with st := .cancelled } s
  | _ => s

/-- Whether a requester may write a channel's registers (R405). -/
def dmaMayWrite (who : Requester) (ch : Fin 64) : Bool :=
  !isService ch.val || (match who with
    | .core _ => true
    | _ => false)

/-- A write of DMACTL.n (R419). -/
def writeDmactl (who : Requester) (ch : Fin 64) (v : W64) (s : State) : State :=
  if !dmaMayWrite who ch then s
  else
    let k := s.chan ch
    let free := k.st != .running && k.st != .halted
    let s1 := if isService ch.val && free then
        setChan ch { k with fixs := bitAt 3 v, fixd := bitAt 4 v, esize := v.extractLsb' 5 2 } s
      else s
    if bitAt 2 v then dmaCancelChan ch s1
    else
      let s2 := if bitAt 0 v then dmaStartChan ch s1 else s1
      if bitAt 1 v && k.st == .halted then dmaRestartChan ch s2 else s2

/-! ## Requests (R406 to R413) -/

/-- What a channel would issue next. -/
inductive DAct where
  | none
  | entry (dst : Bool)
  | read
  | write (n : Nat)
  deriving DecidableEq, Repr

def totalReads (s : State) : Nat := s.dma.chans.foldl (fun n e => n + e.2.reads.length) 0
def totalWrites (s : State) : Nat := s.dma.chans.foldl (fun n e => n + e.2.writes.length) 0

/-- ESIZE accesses on both sides when either is fixed (R409). -/
def Chan.unit (k : Chan) : Option Nat := if k.fixs || k.fixd then some (2 ^ k.esize.toNat) else none

def Chan.readLen (k : Chan) : Nat := k.unit.getD (Nat.min (64 - k.sw.piece % 64) k.sw.left)
def Chan.writeLen (k : Chan) : Nat := k.unit.getD (Nat.min (64 - k.dw.piece % 64) k.dw.left)

/-- The bytes ready to be written, from `pos` on without a gap. -/
def chunkRun : List DChunk → Nat → Nat
  | [], _ => 0
  | c :: cs, pos => if c.pos = pos then c.bytes.length + chunkRun cs (pos + c.bytes.length) else 0

def DWalk.wantsEntry (w : DWalk) : Bool := w.left == 0 && !w.last && !w.fetching

def Chan.act (k : Chan) (roomR roomW : Bool) : DAct :=
  if k.st != .running || k.stop != .none then .none
  else
    let rr := roomR && k.reads.length < 64
    let ready := chunkRun k.chunks k.wpos
    if k.sw.wantsEntry && rr then .entry false
    else if k.dw.wantsEntry && rr then .entry true
    else if k.sw.left > 0 && rr && k.dataReads.length + k.chunks.length < 64 then .read
    else if k.dw.left > 0 && roomW && k.writes.length < 64 && ready > 0 &&
      (ready ≥ k.writeLen || (k.srcEnded && k.dataReads.isEmpty)) then .write (Nat.min ready k.writeLen)
    else .none

def chanAct (s : State) (ch : Fin 64) : DAct :=
  if dmaFrozen s then .none else (s.chan ch).act (totalReads s < 256) (totalWrites s < 256)

def findChan (s : State) (base n ptr : Nat) : Option (Fin 64) :=
  ((List.range n).map (fun i => BitVec.toFin (BitVec.ofNat 6 (base + (ptr + i) % n)))).find? (fun ch => chanAct s ch != .none)

/-- The channel that the engine grants (R413): service channels first, each class round robin. -/
def dmaNext (s : State) : Option (Fin 64) :=
  match findChan s 60 4 s.dma.svcPtr with
  | some c => some c
  | none => findChan s 0 60 s.dma.listPtr

/-- Local words of a Vector Store access, each with its place in the access; a partner's word is `none`. -/
def dmaWords (s : State) (off len : Nat) : List (Nat × Option Nat) :=
  let w0 := off / 8
  (List.range ((off + len + 7) / 8 - w0)).map (fun i => (i, homeWord s (w0 + i)))

/-- The partner tile refuses one of the words that it holds (R61, R62). -/
def dmaFarRefused (s : State) (ch : Fin 64) (off len : Nat) : Bool :=
  (dmaWords s off len).any (fun w => w.2.isNone && partnerRefuses (off / 8 + w.1) (isService ch.val))

/-- Bytes of Vector Store words. -/
def wordsBytes (ws : List XWord) : List Byte := ws.flatMap (fun w => (List.range 8).map (fun i => wordByte w.data i))
def lineBytes (d : Line) : List Byte := (List.range 64).map (fun i => d.extractLsb' (8 * i) 8)

def bytesWord (bs : List Byte) : W64 := BitVec.ofNat 64 ((bs.take 8).foldr (fun b n => b.toNat + 256 * n) 0)

/-- A list entry has arrived (R406 to R408): the walk of its side goes on. -/
def dmaEntry (ch : Fin 64) (dst : Bool) (addr : Nat) (bs : List Byte) (s : State) : State :=
  let k := s.chan ch
  let w := if dst then k.dw else k.sw
  let e0 := bytesWord bs
  let e1 := bytesWord (bs.drop 8)
  let put (w : DWalk) : State := setChan ch (if dst then { k with dw := w } else { k with sw := w }) s
  let last := bitAt 32 e1
  let link := bitAt 33 e1
  let w1 := { w with fetching := false }
  if fieldAt 52 12 e0 != 0 || fieldAt 34 30 e1 != 0 || (last && link) then dmaFail ch false true addr 7 (put w1)
  else
    let a := fieldAt 0 52 e0
    let len := if link then 0 else fieldAt 0 32 e1
    if len = 0 then
      let w2 := { w1 with next := (if link then a else addr + 16), last := last, left := 0, empties := w.empties + 1 }
      if w2.empties ≥ 65536 then dmaFail ch false true addr 7 (put w2) else put w2
    else if len ≤ w.skip then
      put { w1 with next := addr + 16, last := last, left := 0, empties := 0, skip := w.skip - len }
    else
      put { w1 with next := addr + 16, last := last, piece := a + w.skip, left := len - w.skip, entry := addr, empties := 0, skip := 0 }

def insertChunk (c : DChunk) : List DChunk → List DChunk
  | [] => [c]
  | x :: xs => if c.pos < x.pos then c :: x :: xs else x :: insertChunk c xs

/-- A read has brought its bytes. -/
def dmaReadDone (ch : Fin 64) (r : DRead) (bs : List Byte) (s : State) : State :=
  let k := s.chan ch
  let s1 := setChan ch { k with reads := k.reads.erase r } s
  let k1 := s1.chan ch
  if k.stop != .none then dmaSettle ch s1
  else match r.kind with
    | .list dst => dmaAfter ch (dmaEntry ch dst r.addr bs s1)
    | .data => dmaAfter ch (setChan ch { k1 with chunks := insertChunk ⟨r.pos, bs, r.entry⟩ k1.chunks } s1)

def dmaReadFailed (ch : Fin 64) (r : DRead) (code : BitVec 4) (s : State) : State :=
  let k := s.chan ch
  dmaFail ch false (r.kind != .data) r.addr code (setChan ch { k with reads := k.reads.erase r } s)

/-- A Vector Store read whose words have all answered. -/
def dmaReadSettle (ch : Fin 64) (r : DRead) (s : State) : State :=
  if r.part.length < r.words then s
  else if r.refused then dmaReadFailed ch r 2 s
  else
    let ws := (List.range r.words).map (fun i => ((r.part.find? (fun p => p.1 == i)).map (fun p => p.2)).getD ⟨0, false⟩)
    if ws.any (fun w => w.poison) then dmaReadFailed ch r 3 s
    else dmaReadDone ch r (((wordsBytes ws).drop (r.addr % 8)).take r.len) s

/-- Issues a read of `len` bytes at `addr`. -/
def dmaIssueRead (ch : Fin 64) (kind : DReadKind) (addr len pos entry : Nat) (s : State) : State :=
  let k := s.chan ch
  match dmaTarget s ch addr len with
  | .refused c => dmaFail ch false (kind != .data) addr c s
  | .ext _ => setChan ch { k with reads := k.reads ++ [⟨k.tag, kind, addr, len, pos, entry, 0, [], false⟩], tag := k.tag + 1 } s
  | .vs off =>
    let ws := dmaWords s off len
    let (part, s1) := ws.foldl (fun (acc : List (Nat × XWord) × State) w => match w.2 with
      | some _ => acc
      | none => let (d, s2) := acc.2.takeWord; (acc.1 ++ [(w.1, ⟨d, false⟩)], s2)) ([], s)
    let r : DRead := ⟨k.tag, kind, addr, len, pos, entry, ws.length, part, dmaFarRefused s ch off len⟩
    let s2 := setChan ch { k with reads := k.reads ++ [r], tag := k.tag + 1 } s1
    let rs := ws.filterMap (fun w => w.2.map (fun lw => bankReq 14 lw .read (isService ch.val) (.dmaRead ch k.tag w.1)))
    dmaReadSettle ch r (present rs s2)

/-- The first `n` bytes of the chunks, and what is left of them. -/
def takeChunks : Nat → List DChunk → List Byte × List DChunk
  | _, [] => ([], [])
  | n, c :: cs =>
    if n = 0 then ([], c :: cs)
    else if c.bytes.length ≤ n then
      let (b, r) := takeChunks (n - c.bytes.length) cs
      (c.bytes ++ b, r)
    else (c.bytes.take n, { c with pos := c.pos + n, bytes := c.bytes.drop n } :: cs)

/-- Adds a written range and advances DMAPROG over every range that now meets it (R416). -/
def absorb : Nat → Nat → List (Nat × Nat) → Nat × List (Nat × Nat)
  | 0, p, l => (p, l)
  | n + 1, p, l =>
    match l.find? (fun r => r.1 ≤ p) with
    | none => (p, l)
    | some r => absorb n (Nat.max p r.2) (l.erase r)

def dmaAck (ch : Fin 64) (w : DWrite) (s : State) : State :=
  let k := s.chan ch
  let l := k.acked ++ [(w.pos, w.pos + w.len)]
  let (p, l1) := absorb l.length k.prog l
  dmaAfter ch (setChan ch { k with writes := k.writes.erase w, prog := p, acked := l1 } s)

def dmaWriteFailed (ch : Fin 64) (w : DWrite) (code : BitVec 4) (s : State) : State :=
  let k := s.chan ch
  dmaFail ch true false w.addr code (setChan ch { k with writes := k.writes.erase w } s)

/-- The part of a write that falls in its word `i`: data and byte enables. -/
def dmaWordPart (addr : Nat) (bs : List Byte) (i : Nat) : W64 × BitVec 8 :=
  let lo := addr % 8
  let byte (j : Nat) : Option Byte := let p := 8 * i + j; if p < lo then none else bs[p - lo]?
  (List.range 8).foldl (fun (acc : W64 × BitVec 8) j => match byte j with
    | none => acc
    | some b => (acc.1 ||| ((b.zeroExtend 64) <<< (8 * j)), acc.2 ||| BitVec.ofNat 8 (2 ^ j))) (0, 0)

/-- A write on TFP or EMP becomes visible: no core keeps the line, or a reservation on it (R240, R411). -/
def dmaVisible (ch : Fin 64) (addr : Nat) (s : State) : State :=
  match dmaTarget s ch addr 1 with
  | .ext true => snoopCores (addr / 64) s
  | _ => clearLocks none (addr / 64) s

/-- Issues a write of the next `n` bytes (R411 to R413). -/
def dmaIssueWrite (ch : Fin 64) (n : Nat) (s : State) : State :=
  let k := s.chan ch
  let addr := k.dw.piece
  let (bs, rest) := takeChunks n k.chunks
  let s := if ch.val = 63 && s.boot.step == .copy then { s with boot := { s.boot with msg := s.boot.msg ++ bs } } else s
  let taken := { k with
    chunks := rest, wpos := k.wpos + n, tag := k.tag + 1
    dw := { k.dw with piece := (if k.fixd then addr else addr + n), left := k.dw.left - n } }
  match dmaTarget s ch addr n with
  | .refused c => dmaFail ch true false addr c s
  | .ext _ =>
    if !outboundOk s then dmaFail ch true false addr 6 s
    else
      let s1 := setChan ch { taken with writes := k.writes ++ [⟨k.tag, addr, n, k.wpos, 0, false, bs⟩] } s
      dmaLength ch (dmaVisible ch addr s1)
  | .vs off =>
    let ws := (dmaWords s off n).filterMap (fun w => w.2.map (fun lw => (w.1, lw)))
    let w : DWrite := ⟨k.tag, addr, n, k.wpos, ws.length, dmaFarRefused s ch off n, bs⟩
    let s1 := setChan ch { taken with writes := k.writes ++ [w] } s
    let rs := ws.map (fun x =>
      let p := dmaWordPart addr bs x.1
      bankReq 14 x.2 (.write p.1 p.2 false) (isService ch.val) (.dmaWrite ch k.tag))
    if ws.isEmpty then (if w.refused then dmaWriteFailed ch w 2 s1 else dmaAck ch w s1) else dmaLength ch (present rs s1)

/-- One grant of the engine to a channel. -/
def dmaGrantChan (ch : Fin 64) (s : State) : State :=
  let s0 := if isService ch.val then { s with dma := { s.dma with svcPtr := (ch.val - 60 + 1) % 4 } }
    else { s with dma := { s.dma with listPtr := (ch.val + 1) % 60 } }
  let k := s0.chan ch
  match chanAct s ch with
  | .none => s
  | .entry dst =>
    let w := if dst then k.dw else k.sw
    if w.next % 16 != 0 then dmaFail ch false true w.next 7 s0
    else
      let s1 := setChan ch (if dst then { k with dw := { w with fetching := true } } else { k with sw := { w with fetching := true } }) s0
      dmaIssueRead ch (.list dst) w.next 16 0 w.next s1
  | .read =>
    let n := k.readLen
    let addr := k.sw.piece
    match dmaTarget s0 ch addr n with
    | .refused c => dmaFail ch false false addr c s0
    | _ =>
      let k1 := { k with rpos := k.rpos + n, sw := { k.sw with piece := (if k.fixs then addr else addr + n), left := k.sw.left - n } }
      dmaAfter ch (dmaIssueRead ch .data addr n k.rpos k.sw.entry (setChan ch k1 s0))
  | .write n => dmaAfter ch (dmaIssueWrite ch n s0)

/-- One grant of the engine, if any request waits. -/
def dmaGrant (s : State) : Option State := (dmaNext s).map (fun ch => dmaGrantChan ch s)

/-! ## Responses (R415, R416) -/

def dmaCode : RspCode → BitVec 4
  | .okay => 0
  | .edec => 1
  | .etgt => 2
  | .epoi => 3

/-- A read on TFP or EMP returns; a line that a core holds dirty is returned in its place (R411). -/
def dmaReadResponse (ch : Fin 64) (tag : Nat) (code : RspCode) (data : Line) (s : State) : Option State :=
  match (s.chan ch).reads.find? (fun r => r.tag == tag && r.words == 0) with
  | none => none
  | some r =>
    if code = .okay then
      let d := match dmaTarget s ch r.addr r.len with
        | .ext true => heldCopy s (r.addr / 64) data
        | _ => data
      some (dmaReadDone ch r (((lineBytes d).drop (r.addr % 64)).take r.len) s)
    else some (dmaReadFailed ch r (dmaCode code) s)

def dmaWriteResponse (ch : Fin 64) (tag : Nat) (code : RspCode) (s : State) : Option State :=
  match (s.chan ch).writes.find? (fun w => w.tag == tag && w.words == 0) with
  | none => none
  | some w => if code = .okay then some (dmaAck ch w (dmaVisible ch w.addr s)) else some (dmaWriteFailed ch w (dmaCode code) s)

/-- A bank answers a word of a channel's read. -/
def answerDmaRead (ch : Fin 64) (tag i : Nat) (a : BankAnswer) (s : State) : State :=
  let k := s.chan ch
  match k.reads.find? (fun r => r.tag == tag && r.words != 0) with
  | none => s
  | some r =>
    let r1 := match a with
      | .data x => { r with part := r.part ++ [(i, x)] }
      | _ => { r with part := r.part ++ [(i, ⟨0, false⟩)], refused := true }
    dmaReadSettle ch r1 (setChan ch { k with reads := k.reads.map (fun x => if x = r then r1 else x) } s)

/-- A bank answers a word of a channel's write. -/
def answerDmaWrite (ch : Fin 64) (tag : Nat) (a : BankAnswer) (s : State) : State :=
  let k := s.chan ch
  match k.writes.find? (fun w => w.tag == tag && w.words != 0) with
  | none => s
  | some w =>
    let w1 := { w with words := w.words - 1, refused := w.refused || a.isRefused }
    let s1 := setChan ch { k with writes := k.writes.map (fun x => if x = w then w1 else x) } s
    if w1.words != 0 then s1
    else if w1.refused then dmaWriteFailed ch w1 2 s1
    else dmaAck ch w1 s1

/-! ## What other blocks do to the channels (R412, R420, R494) -/

/-- On entry to FENCED, every channel with an unissued outbound write halts with ROLE (R412). -/
def dmaFence (s : State) : State :=
  allChans.foldl (fun s ch =>
    let k := s.chan ch
    if k.st == .running && k.stop == .none && k.dw.left > 0 then
      match dmaTarget s ch k.dw.piece 1 with
      | .ext _ => dmaFail ch true false k.dw.piece 6 s
      | _ => s
    else s) s

/-- Step 2 of the hold-up flush: every running channel halts with FLUSH (R494). -/
def dmaFlush (s : State) : State :=
  allChans.foldl (fun s ch =>
    let k := s.chan ch
    if k.st == .running && k.stop == .none then dmaFail ch false false 0 9 s else s) s

/-- A warm reset: every channel returns to IDLE with no pulse, and the responses still owed are discarded when they come
(R420, R468, R469). -/
def dmaReset (s : State) : State :=
  let owed := s.dma.chans.flatMap (fun e =>
    let ch : Fin 64 := BitVec.toFin (BitVec.ofNat 6 e.1)
    (e.2.reads.filter (fun r => r.words == 0)).map (fun r => Owed.dmaRead ch r.tag) ++
    (e.2.writes.filter (fun w => w.words == 0)).map (fun w => Owed.dmaWrite ch w.tag))
  let idle (s : State) (ch : Fin 64) : State :=
    setChan ch { s.chan ch with st := .idle, stop := .none, chunks := [], reads := [], writes := [], acked := [] } s
  let s1 := allChans.foldl idle { s with ports := { s.ports with owed := s.ports.owed ++ owed } }
  { s1 with
    vs := { s1.vs with reqs := s1.vs.reqs.filter (fun r => match r.dest with
      | .dmaRead _ _ _ => false
      | .dmaWrite _ _ => false
      | _ => true) } }

def anyDmaRunning (s : State) : Bool := s.dma.chans.any (fun e => e.2.st == .running)

/-! ## Registers (R419) -/

def dmaStNum : DmaSt → Nat
  | .idle => 0
  | .running => 1
  | .done => 2
  | .halted => 3
  | .cancelled => 4

def DmaErr.word (e : DmaErr) : W64 :=
  BitVec.ofNat 64 (e.pa.toNat + b2n e.valid * 2 ^ 52 + b2n e.dir * 2 ^ 53 + b2n e.list * 2 ^ 54 + e.code.toNat * 2 ^ 55 + b2n e.more * 2 ^ 59)

/-- A channel register as it reads, by its offset in the channel's 64 bytes. -/
def readChan (s : State) (ch : Fin 64) (off : Nat) : W64 :=
  let k := s.chan ch
  match off with
  | 0x00 => BitVec.ofNat 64 (b2n k.fixs * 8 + b2n k.fixd * 16 + k.esize.toNat * 32)
  | 0x08 => BitVec.ofNat 64 (dmaStNum k.st + 8 * b2n (dmaFrozen s))
  | 0x10 => k.src.zeroExtend 64
  | 0x18 => k.dst.zeroExtend 64
  | 0x20 => k.len.zeroExtend 64
  | 0x28 => BitVec.ofNat 64 k.prog
  | 0x30 => k.err.word
  | _ => 0

/-- A write of a channel register. -/
def writeChan (who : Requester) (ch : Fin 64) (off : Nat) (v : W64) (s : State) : State :=
  let k := s.chan ch
  let ok := dmaMayWrite who ch && k.st != .running && k.st != .halted
  match off with
  | 0x00 => writeDmactl who ch v s
  | 0x10 => if ok then setChan ch { k with src := v.truncate 52 } s else s
  | 0x18 => if ok then setChan ch { k with dst := v.truncate 52 } s else s
  | 0x20 => if ok && isService ch.val then setChan ch { k with len := v.truncate 32 } s else s
  | _ => s

/-- DMAHSUM. -/
def dmaHsum (s : State) : W64 :=
  allChans.foldl (fun m ch => if (s.chan ch).st == .halted then m ||| BitVec.ofNat 64 (2 ^ ch.val) else m) 0

end Sys2Proof.Machine
end

