-- ==== Sys2Proof/Machine/Troupe.lean ====
section
/-! DEFINITION. Roles, the troupe controller and macaron pairs (R16 to R23, spec/16_troupe_macaron.md). Times are in ns of
SLCLK time. -/

namespace Sys2Proof.Machine

/-! ## Register words that messages carry -/

def IdParam.word (i : IdParam) : W64 :=
  BitVec.ofNat 64 (i.diepos.toNat + i.pairpos.toNat * 2 ^ 4 + b2n i.snoopcap * 2 ^ 6 + b2n i.empch * 2 ^ 7 + i.tracew.toNat * 2 ^ 8 +
    b2n i.paramerr * 2 ^ 10 + i.tilebase.toNat * 2 ^ 24)

def roleNum : Role → Nat
  | .spare => 0
  | .worker => 1
  | .deputy => 2
  | .manager => 3
  | .fenced => 4

/-- TILEROLE as it reads (R18). -/
def TileRole.word (r : TileRole) : W64 :=
  BitVec.ofNat 64 (roleNum r.role + b2n r.fused * 8 + r.slot.toNat * 16 + b2n r.roleErr * 2 ^ 11 + r.freason.toNat * 2 ^ 16 +
    r.epoch.toNat * 2 ^ 32)

def setRole (r : TileRole) (s : State) : State := { s with role := r }

/-! ## What is still outstanding (R434, R471, R494, R547) -/

/-- Some response of TFP or EMP is still awaited. -/
def responsesDue (s : State) : Bool :=
  fours.any (fun i => match s.chain i with
    | some ch => responsesOut s i ch || ch.journal.outstanding.isSome
    | none => false) ||
  !s.eng.walks.isEmpty || s.eng.tails.any (fun l => l.any (fun j => j.outstanding.isSome)) ||
  s.cores.any (fun k => !k.fills.isEmpty || !k.wbs.isEmpty || !k.walks.isEmpty || k.sb.any (fun e => e.began)) ||
  s.dma.chans.any (fun e => !e.2.reads.isEmpty || !e.2.writes.isEmpty) ||
  !s.rings.reads.isEmpty || s.rings.scans.any (fun x => !x.owed.isEmpty) || !s.rings.late.isEmpty ||
  s.troupe.claim == .out || s.weado.sam.out.isSome || !s.ports.owed.isEmpty

/-- Some chain is in flight, or some is queued. -/
def anyChain (s : State) : Bool := s.eng.slots.any (fun o => o.isSome)
def anyQueued (s : State) : Bool := s.iq.any (fun l => !l.isEmpty)

/-- Every issue queue is empty: no entry is taken, as one is until its chain's status record has been collected (R149). -/
def queuesEmpty (s : State) : Bool := s.entries.all (fun t => t.all (fun e => !e.2.taken))

def owe (l : List Owed) (s : State) : State := { s with ports := { s.ports with owed := s.ports.owed ++ l } }

/-! ## Entry to FENCED (R427) -/

/-- Stores in a store buffer bound for TFP or EMP are discarded and reported late (R427). -/
def discardStores (c : CoreId) (s : State) : State :=
  let k := s.core c
  let outward (e : SbEntry) : Bool := !e.began && (match routeOf s (e.word.toNat * 8) with
    | .ext kind _ => !drainsToCache k e kind
    | _ => false)
  let gone := k.sb.filter outward
  gone.foldl (fun s e => lateError c (BitVec.ofNat 52 (e.word.toNat * 8)) false s)
    (withCore c (fun k => { k with sb := k.sb.filter (fun e => !outward e) }) s)

/-- The claim of an arbitration word no longer matters; its response is still owed. -/
def dropClaim (s : State) : State :=
  let s1 := withTroupe (fun t => { t with claim := .no }) s
  if s.troupe.claim = .out then owe [.claim] s1 else s1

/-- The tile enters FENCED (R427). `relay` holds where the partner tile of a pair is to be told (R23). -/
def enterFenced (freason : BitVec 4) (relay : Bool) (s : State) : State :=
  if s.role.role = .fenced then s
  else
    let wasManager := s.role.role == .manager
    let s1 := setRole { s.role with role := .fenced, slot := 0, freason := freason } s
    let s2 := dropClaim (withTroupe (fun t => { t with leaseEnd := none, releasing := false }) s1)
    let s3 := if wasManager then ringStop s2 else s2
    let s4 := fours.foldl (fun s c => discardStores c s) (dmaFence (fenceChains s3))
    let s5 := arrive srcRoleChange s4
    if relay then sendPair (.enteredFenced freason) s5 else s5

/-! ## Requests of a role (R18 to R22) -/

def roleError (s : State) : State := setRole { s.role with roleErr := true } s

/-- While the hold-up flush runs, REQROLE writes and role messages are ignored (R22). -/
def roleHeld (s : State) : Bool := s.pwr.flush.isSome

/-- A role message: one that gives this tile a role or ends it, which are ADMIT, APPOINT, RELEASE and FENCED (R22; DEDUCED,
notes/assumptions/63.md). Heartbeats, probes and firmware messages go on during a flush. -/
def roleMessage (m : Msg) : Bool := m.type == 0x0A || m.type == 0x0C || m.type == 0x0E || m.type == 0x10

def becomeManager (s : State) : State :=
  let s1 := setRole { s.role with role := .manager, slot := 0, epoch := s.troupe.mepoch } s
  let s2 := withTroupe (fun t => { t with
    mnode := t.node, dvalid := false, solo := true, leaseEnd := none, nextRound := t.now + 8000, rounds := [] }) s1
  ringStart (arrive srcRoleChange s2)

/-- REQROLE = 0b001 (R19, R436). -/
def reqManager (s : State) : State :=
  if roleHeld s then s
  else if s.role.role = .spare && !s.role.fused && s.fuses.now != 5 then becomeManager s
  else roleError s

/-- REQROLE = 0b010: a role reset is requested (R19, R23, R471). -/
def reqSpare (s : State) : State :=
  if roleHeld s then s
  else if s.role.role = .fenced && s.fuses.now != 5 then setRole { s.role with resetting := true } (sendPair .roleReset s)
  else roleError s

/-- REQROLE = 0b011 (R19). -/
def reqFenced (s : State) : State :=
  if roleHeld s then s
  else if s.role.role = .fenced || s.fuses.now = 5 then roleError s
  else enterFenced 3 true s

/-- A write of TILEROLE (R18). -/
def writeTilerole (v : W64) (s : State) : State :=
  let s1 := if bitAt 11 v then setRole { s.role with roleErr := false } s else s
  match fieldAt 12 3 v with
  | 0 => s1
  | 1 => reqManager s1
  | 2 => reqSpare s1
  | 3 => reqFenced s1
  | _ => if roleHeld s1 then s1 else roleError s1

/-- What a role reset and a warm reset do to the ring engine (R468). -/
def ringReset (s : State) : State :=
  withTroupe (fun t => { t with groups := [] }) (withRings (fun r => { r with en := false }) (ringStop s))

/-- The role reset takes place (R468, R471). -/
def roleReset (s : State) : State :=
  let s1 := setRole { s.role with role := .spare, slot := 0, epoch := 0, resetting := false } s
  let s2 := withTroupe (fun t => { t with
    mepoch := 0, mnode := 0, dnode := 0, dvalid := false, solo := false, dgen := 0, slots := [], leaseEnd := none, slrx := [],
    rounds := [], busy := .no, lastSlot := 0 }) s1
  arrive srcRoleChange (ringReset s2)

/-! ## The receiver's checks (R424, R430, R431) -/

inductive Fate where
  | accepted
  | bad
  | stale
  deriving DecidableEq, Repr

def slot0T : SlotEnt := ⟨.empty, false, 0, 0, 0, 0⟩
def State.slotOf (s : State) (n : BitVec 7) : SlotEnt := Tab.get slot0T s.troupe.slots n.toNat
def setSlot (n : BitVec 7) (e : SlotEnt) (s : State) : State :=
  withTroupe (fun t => { t with slots := Tab.set slot0T t.slots n.toNat e }) s

/-- The message types that a role accepts, by R423 and R424. -/
def typeAccepted (r : Role) (t : Nat) : Bool :=
  match r with
  | .fenced => false
  | .spare => t == 0x08 || t == 0x0A || t == 0x0C
  | .worker => t == 0x01 || t == 0x08 || t == 0x0E || t == 0x10 || (0x20 ≤ t && t ≤ 0x2F)
  | .deputy => t == 0x01 || t == 0x08 || t == 0x10 || t == 0x12 || (0x20 ≤ t && t ≤ 0x2F)
  | .manager => t == 0x02 || t == 0x03 || t == 0x09 || t == 0x0B || t == 0x0D || t == 0x0F || t == 0x11 || t == 0x13 || (0x20 ≤ t && t ≤ 0x3F)

/-- The message comes from the manager's present deputy. -/
def fromDeputy (s : State) (m : Msg) : Bool := s.troupe.dvalid && m.src == s.troupe.dnode

/-- The manager's checks (R430). -/
def managerFate (s : State) (m : Msg) : Fate :=
  let t := m.type.toNat
  let term := m.mepoch == s.troupe.mepoch
  if t = 0x09 then .accepted
  else if t = 0x0D then
    match s.troupe.busy with
    | .appoint node _ => if term && m.src == node then .accepted else .stale
    | _ => .stale
  else if t = 0x03 ∨ t = 0x13 then (if term && fromDeputy s m then .accepted else .stale)
  else if fromDeputy s m then (if term && m.epoch == s.troupe.mepoch then .accepted else .stale)
  else
    let e := s.slotOf m.slot
    let st := if t = 0x0B then e.st == .admitting else e.st == .live
    if term && m.epoch == e.epoch && st then .accepted else .stale

/-- What becomes of a message on arrival (R424, R430, R431). -/
def msgFate (s : State) (m : Msg) : Fate :=
  let t := m.type.toNat
  if m.dst != s.troupe.node || !typeAccepted s.role.role t then .bad
  else match s.role.role with
    | .spare => .accepted
    | .fenced => .bad
    | .manager => managerFate s m
    | .worker =>
      if t = 0x10 then
        (if m.src == s.troupe.mnode && m.slot == s.role.slot && m.epoch == s.role.epoch then .accepted else .stale)
      else if m.src == s.troupe.mnode && m.mepoch == s.troupe.mepoch && m.slot == s.role.slot && m.epoch == s.role.epoch then .accepted
      else .stale
    | .deputy =>
      if t = 0x10 then
        (if m.src == s.troupe.mnode && m.slot == 0 && m.epoch == s.troupe.mepoch then .accepted else .stale)
      else if m.src == s.troupe.mnode && m.mepoch == s.troupe.mepoch && m.epoch == s.troupe.mepoch then .accepted
      else .stale

def countBad (s : State) : State := withTroupe (fun t => { t with bad := satInc t.bad }) s
def countStale (s : State) : State := withTroupe (fun t => { t with stale := satInc t.stale }) s

/-- The manager answers a stale message with FENCED, at most once per 8 µs for each node (R430). -/
def replyFenced (m : Msg) (s : State) : State :=
  let t := s.troupe
  let due : Bool := match Tab.find t.fencedAt m.src.toNat with
    | some x => decide (x + 8000 ≤ t.now)
    | none => true
  if due then
    sendMsg (hubMsg s 0x10 m.src m.slot m.epoch 0 0 0 0 0) (withTroupe (fun t => { t with fencedAt := Tab.insert t.fencedAt m.src.toNat t.now }) s)
  else s

/-- The hub receives string-link messages: out of reset, supplied and clocked. -/
def hubListens (s : State) : Bool := upRuns s && !s.rst.stopped.getLsbD 8

/-- A message arrives: it is checked, and an accepted one is handled (R22, R424, R430). The ODD tile of a fused pair does not use the
link (R421, R449). -/
def receive (m : Msg) (handle : State → State) (s : State) : State :=
  if !hubListens s || oddFused s then s
  else match msgFate s m with
    | .bad => countBad s
    | .stale => if s.role.role = .manager then replyFenced m (countStale s) else countStale s
    | .accepted => if roleHeld s && roleMessage m then s else handle s

/-- A message that firmware sends, of type 0x20 to 0x3F (R423). -/
def ofFirmware (m : Msg) : Bool := 0x20 ≤ m.type.toNat && m.type.toNat ≤ 0x3F

/-- A message is queued for firmware (R423, R442). One that finds SLRX full is lost; RXOVF counts firmware's messages only (R451). -/
def queueMsg (m : Msg) (s : State) : State :=
  if s.troupe.slrx.length ≥ 64 then withTroupe (fun t => { t with ovf := true, rxovf := if ofFirmware m then satInc t.rxovf else t.rxovf }) s
  else arrive srcSlMsg (withTroupe (fun t => { t with slrx := t.slrx ++ [m] }) s)

/-! ## Heartbeats and leases (R425, R426, R428) -/

def recordRound (n : BitVec 16) (s : State) : State :=
  withTroupe (fun t => { t with rounds := ((n, t.now) :: t.rounds.filter (fun r => r.1 != n)).take 16 }) s

/-- The lease end moves to 64 µs after a recorded round, never earlier (R426, R438). -/
def renewLease (n : BitVec 16) (s : State) : State :=
  match s.troupe.rounds.find? (fun r => r.1 == n) with
  | none => s
  | some r => withTroupe (fun t => { t with leaseEnd := some (Nat.max (t.leaseEnd.getD 0) (r.2 + 64000)) }) s

/-- The slots that a round reaches: ADMITTING and LIVE. -/
def roundSlots (s : State) : List (BitVec 7 × SlotEnt) :=
  (s.troupe.slots.filter (fun e => e.2.st == .admitting || e.2.st == .live)).map (fun e => (BitVec.ofNat 7 e.1, e.2))

/-- A heartbeat round of the manager (R425). -/
def startRound (s : State) : State :=
  let n := s.troupe.hbseq + 1
  let s1 := recordRound n (withTroupe (fun t => { t with hbseq := n, nextRound := t.now + 8000 }) s)
  let s2 := (roundSlots s).foldl (fun s e => sendMsg (hubMsg s 0x01 e.2.node e.1 e.2.epoch n e.2.ackRound 0 0 0) s) s1
  if s.troupe.dvalid then sendMsg (hubMsg s2 0x01 s.troupe.dnode 0 s.troupe.mepoch n s.troupe.depRound 0 0 0) s2 else s2

/-- HBACK of the tile's own slot. -/
def sendHback (round : BitVec 16) (s : State) : State :=
  sendMsg (hubMsg s 0x02 s.troupe.mnode s.role.slot s.role.epoch round 0 0 0 0) s

/-- A HEARTBEAT takes effect on a worker's lease, or on a deputy's timer (R426, R439). -/
def takeHeartbeat (m : Msg) (s : State) : State :=
  match s.role.role with
  | .worker => renewLease m.ackseq (recordRound m.hbseq s)
  | .deputy => withTroupe (fun t => { t with depRound := m.hbseq, lastHb := t.now }) (recordRound m.hbseq s)
  | _ => s

/-- The lease has run out: the expiry wins over the message (R22). -/
def leaseOver (s : State) : Bool :=
  match s.troupe.leaseEnd with
  | some e => e ≤ s.troupe.now
  | none => false

/-- An accepted HEARTBEAT (R426, R449): in a fused pair it is relayed, and HBACK waits for the relay's acknowledgement. -/
def onHeartbeat (m : Msg) (s : State) : State :=
  if s.role.role = .worker && leaseOver s then enterFenced 1 true s
  else
    let s1 := takeHeartbeat m s
    if s.role.role != .worker then s1
    else if s.role.fused then
      if s.pair.failed then s1
      else sendPair (.heartbeat m) { s1 with pair := { s1.pair with relay := s1.pair.relay ++ [m.hbseq] } }
    else sendHback m.hbseq s1

/-- A slot whose worker has been silent for 96 µs becomes DEAD (R428). -/
def slotDies (slot : BitVec 7) (s : State) : State := arrive srcSlLease (setSlot slot { s.slotOf slot with st := .dead } s)

/-- The silence of a LIVE slot has lasted 96 µs; a freeze of the hub's timers holds it off (R428, R529). -/
def slotSilent (slot : BitVec 7) (s : State) : Bool :=
  s.role.role == .manager && (s.slotOf slot).st == .live && !hbFrozen s && (s.slotOf slot).ackAt + 96000 ≤ s.troupe.now

/-- An HBACK that meets its slot's death finds it DEAD (R452). -/
def deadFirst (slot : BitVec 7) (s : State) : State := if hubListens s && slotSilent slot s then slotDies slot s else s

def onHback (m : Msg) (s : State) : State := setSlot m.slot { s.slotOf m.slot with ackAt := s.troupe.now, ackRound := m.hbseq } s

/-- DEPHB: the deputy has heard a round, which extends the manager's lease (R425, R438). -/
def onDephb (m : Msg) (s : State) : State :=
  let s1 := withTroupe (fun t => { t with depRound := m.hbseq }) s
  if s.troupe.claim = .lost then s1 else renewLease m.hbseq s1

/-! ## Admission, appointment and release (R433, R434, R437) -/

/-- A spare takes a slot (R433 step 2). -/
def takeSlot (m : Msg) (s : State) : State :=
  let s1 := setRole { s.role with role := .worker, slot := m.slot, epoch := m.epoch } s
  let s2 := withTroupe (fun t => { t with
    mnode := m.src, mepoch := m.mepoch, rounds := [(m.hbseq, t.now)], leaseEnd := some (t.now + 64000), releasing := false,
    lastSlot := m.slot }) s1
  arrive srcRoleChange s2

/-- ADMIT (R433). A tile in END never leaves SPARE (R504). -/
def onAdmit (m : Msg) (s : State) : State :=
  if s.pair.busy || oddFused s || s.fuses.now = 5 then s
  else
    let s1 := takeSlot m s
    let s2 := sendMsg (hubMsg s1 0x0B m.src m.slot m.epoch m.hbseq 0 0 0 0) s1
    sendPair (.heartbeat m) s2

def setBusy (b : SlBusy) (r : BitVec 3) (s : State) : State := withTroupe (fun t => { t with busy := b, result := r }) s

/-- ADMITACK: the slot is LIVE. Nothing in the message says whether a pair holds it: FUSED is a free value. -/
def onAdmitack (m : Msg) (s : State) : State :=
  let (f, s1) := s.takeBool
  let s2 := setSlot m.slot { s1.slotOf m.slot with st := .live, fused := f, ackAt := s.troupe.now, ackRound := m.hbseq } s1
  match s.troupe.busy with
  | .admission n _ => if n = m.slot then setBusy .no 1 s2 else s2
  | _ => s2

/-- The answer that a command of SLCMD waits for no longer counts (R433, R437): an admission or appointment whose 16 µs are past. -/
def lateFirst (timedOut : State → State) (s : State) : State :=
  let late : Bool := match s.troupe.busy with
    | .admission _ till => till < s.troupe.now
    | .appoint _ till => till < s.troupe.now
    | .no => false
  if hubListens s && late then timedOut s else s

def admitTimedOut (slot : BitVec 7) (s : State) : State :=
  let e := s.slotOf slot
  setBusy .no 3 (if e.st = .admitting then setSlot slot { e with st := .dead } s else s)

def onAppoint (m : Msg) (s : State) : State :=
  if s.role.fused then countBad s
  else if s.fuses.now = 5 then s
  else
    let s1 := setRole { s.role with role := .deputy, slot := 0, epoch := m.mepoch } s
    let s2 := withTroupe (fun t => { t with
      mnode := m.src, mepoch := m.mepoch, dgen := m.m2.truncate 6, lastHb := t.now, depRound := 0, nextRound := t.now + 8000,
      rounds := [], leaseEnd := none, groups := [], claim := .no, lastSlot := 0 }) s1
    arrive srcRoleChange (sendMsg (hubMsg s2 0x0D m.src 0 m.mepoch 0 0 0 0 0) s2)

def onAppointack (_m : Msg) (s : State) : State :=
  match s.troupe.busy with
  | .appoint node till =>
    setBusy .no 1 (withTroupe (fun t => { t with
      dnode := node, dvalid := true, solo := false, depRound := 0, leaseEnd := some (till - 16000 + 64000), claim := .no }) s)
  | _ => s

def onRelease (m : Msg) (s : State) : State :=
  sendPair (.heartbeat m) (withTroupe (fun t => { t with releasing := true }) s)

/-- The drain of R434 has ended. -/
def releaseDrained (s : State) : Bool :=
  !anyChain s && queuesEmpty s && s.dma.chans.all (fun e => e.2.writes.isEmpty)

/-- The worker becomes SPARE, its EPOCH unchanged (R434). -/
def becomeSpare (s : State) : State :=
  let s1 := setRole { s.role with role := .spare, slot := 0 } s
  arrive srcRoleChange (withTroupe (fun t => { t with leaseEnd := none, releasing := false }) s1)

/-- The end of the drain: RELEASED is sent, and the tile becomes SPARE (R434). -/
def releaseDone (s : State) : State :=
  becomeSpare (sendMsg (hubMsg s 0x0F s.troupe.mnode s.role.slot s.role.epoch 0 0 0 0 0) s)

/-! ## What a pair does together (R23) -/

/-- This tile's part of a release or a role reset has ended. Both tiles of a pair always hold the same role (R23): the ODD tile reports
the end of its part, and the pair becomes SPARE when the EVEN tile's part has ended too (DEDUCED, notes/assumptions/64.md). -/
def partDone (whole : State → State) (s : State) : State :=
  if oddFused s then setPair { s.pair with tx := s.pair.tx ++ [.drained], drained := true } s
  else
    let s1 := whole s
    if s.role.fused then setPair { s1.pair with tx := s1.pair.tx ++ [.spare], drained := false } s1 else s1

/-- The end of this tile's part may be taken: the ODD tile has not reported it yet, the EVEN tile has heard of the ODD tile's. -/
def partAllowed (s : State) : Bool := !s.role.fused || (s.pair.drained != oddFused s)

def onReleased (m : Msg) (s : State) : State :=
  arrive srcSlLease (setSlot m.slot { s.slotOf m.slot with st := .empty } s)

def onProbe (m : Msg) (s : State) : State :=
  let slot := if s.role.role = .worker then s.role.slot else 0
  sendMsg (hubMsg s 0x09 m.src slot s.role.epoch 0 0 Config.version s.id.word s.role.word) s

def onGrpmirror (m : Msg) (s : State) : State :=
  let g := fieldAt 0 14 m.m2
  let s1 := withTroupe (fun t => { t with groups := Tab.modify 0 t.groups (g / 64) (fun x => x ||| BitVec.ofNat 64 (2 ^ (g % 64))) }) s
  sendMsg (hubMsg s1 0x13 s.troupe.mnode 0 s.troupe.mepoch 0 0 m.m2 0 0) s1

/-- The scan that waits for GRPACK of a group (R441). -/
def mirrorScan (s : State) (want : Scan → Bool) : Option Scan :=
  s.rings.scans.find? (fun x => (match x.step with
    | .mirror _ => true
    | _ => false) && want x)

def onGrpack (m : Msg) (s : State) : State :=
  match mirrorScan s (fun x => 64 * x.entry.toNat + (lowestBit x.bits).getD 0 == fieldAt 0 14 m.m2) with
  | some x => scanAdd x s
  | none => s

/-! ## SLCMD (R430, R433, R434, R437, R451) -/

def slProbe (node : BitVec 8) (slot : BitVec 7) (s : State) : State :=
  let dep := s.troupe.dvalid && node == s.troupe.dnode
  let m := hubMsg s 0x08 node (if dep then 0 else slot) (if dep then s.troupe.mepoch else (s.slotOf slot).epoch) 0 0 0 0 0
  setBusy .no 1 (sendMsg m s)

def slAdmit (node : BitVec 8) (slot : BitVec 7) (s : State) : State :=
  let e := s.slotOf slot
  if e.st = .empty || e.st = .dead then
    let e1 : SlotEnt := { e with st := .admitting, node := node, epoch := e.epoch + 1, ackRound := 0 }
    let s1 := setSlot slot e1 s
    sendMsg (hubMsg s1 0x0A node slot e1.epoch s.troupe.hbseq 0 0 0 0) (setBusy (.admission slot (s.troupe.now + 16000)) 0 s1)
  else setBusy .no 2 s

def slAppoint (node : BitVec 8) (s : State) : State :=
  let s1 := withTroupe (fun t => { t with dgen := t.dgen + 1 }) s
  sendMsg (hubMsg s1 0x0C node 0 s.troupe.mepoch 0 0 (s1.troupe.dgen.zeroExtend 64) 0 0)
    (setBusy (.appoint node (s.troupe.now + 16000)) 0 s1)

def slRelease (slot : BitVec 7) (s : State) : State :=
  let e := s.slotOf slot
  if e.st = .live then setBusy .no 1 (sendMsg (hubMsg s 0x0E e.node slot e.epoch 0 0 0 0 0) s) else setBusy .no 2 s

def slFence (node : BitVec 8) (slot : BitVec 7) (s : State) : State :=
  if s.troupe.dvalid && node == s.troupe.dnode then
    let s1 := sendMsg (hubMsg s 0x10 node 0 s.troupe.mepoch 0 0 0 0 0) s
    setBusy .no 1 (dropClaim (withTroupe (fun t => { t with dvalid := false, solo := true, leaseEnd := none }) s1))
  else
    let e := s.slotOf slot
    setBusy .no 1 (setSlot slot { e with st := .dead } (sendMsg (hubMsg s 0x10 e.node slot e.epoch 0 0 0 0 0) s))

/-- SLCMD.GO (R451). -/
def slcmd (kind : Nat) (node : BitVec 8) (slot : BitVec 7) (s : State) : State :=
  if s.troupe.busy != .no then s
  else if s.role.role != .manager then setBusy .no 2 s
  else match kind with
    | 1 => slProbe node slot s
    | 2 => slAdmit node slot s
    | 3 => slAppoint node s
    | 4 => slRelease slot s
    | 5 => slFence node slot s
    | _ => setBusy .no 2 s

def writeSlcmd (v : W64) (s : State) : State :=
  if bitAt 19 v then slcmd (fieldAt 16 3 v) (v.truncate 8) (v.extractLsb' 8 7) s else s

/-! ## Arbitration (R438, R439) -/

/-- The arbitration word's line cannot be reached by an atomic (R456). -/
def claimRefused (s : State) : Bool := (hubRefuses s (s.troupe.arb.toNat * 8 + s.troupe.dgen.toNat / 8) true) == some 1

/-- The manager may claim: less than 32 µs of its lease remain. -/
def managerMayClaim (s : State) : Bool :=
  s.role.role == .manager && !s.troupe.solo && s.troupe.claim == .no && (match s.troupe.leaseEnd with
    | some e => e < s.troupe.now + 32000
    | none => false)

def managerClaims (s : State) : State :=
  arrive srcSlLease (withTroupe (fun t => { t with claim := if claimRefused s then .lost else .out }) s)

def managerAnswered (code : RspCode) (old : W64) (s : State) : State :=
  -- a win that meets the lease end wins (R452)
  let ended : Bool := match s.troupe.leaseEnd with
    | some e => e < s.troupe.now
    | none => false
  if code = .okay && !ended && !bitAt 1 old then
    let s1 := sendMsg (hubMsg s 0x10 s.troupe.dnode 0 s.troupe.mepoch 0 0 0 0 0) s
    withTroupe (fun t => { t with claim := .no, solo := true, dvalid := false, leaseEnd := none }) s1
  else withTroupe (fun t => { t with claim := .lost }) s

def deputyMayClaim (s : State) : Bool :=
  s.role.role == .deputy && (match s.troupe.claim with
    | .no => s.troupe.lastHb + 96000 ≤ s.troupe.now
    | .retry t => t ≤ s.troupe.now
    | _ => false)

def deputyClaims (s : State) : State :=
  withTroupe (fun t => { t with claim := if claimRefused s then .retry (t.now + 8000) else .out }) s

/-- The deputy becomes MANAGER (R439, R441). -/
def takeOver (s : State) : State :=
  let s1 := withTroupe (fun t => { t with
    mepoch := t.mepoch + 1, claim := .no
    slots := (List.range 128).map (fun i => (i, (⟨.dead, false, 0, 0, 0, 0⟩ : SlotEnt))) }) s
  ringTakeover (becomeManager s1)

def deputyAnswered (code : RspCode) (old : W64) (s : State) : State :=
  if code != .okay then withTroupe (fun t => { t with claim := .retry (t.now + 8000) }) s
  else if bitAt 0 old then enterFenced 1 true (withTroupe (fun t => { t with claim := .no }) s)
  else takeOver s

/-! ## Firmware messages (R442) -/

/-- Where a SEND goes: node, slot, epoch; or it is refused. -/
def sltxTarget (s : State) : Option (BitVec 8 × BitVec 7 × BitVec 32) :=
  let t := s.troupe
  let ty := t.txType.toNat
  if !(0x20 ≤ ty && ty ≤ 0x3F) then none
  else match s.role.role with
    | .spare => none
    | .worker => some (t.mnode, s.role.slot, s.role.epoch)
    | .deputy => some (t.mnode, 0, t.mepoch)
    | .fenced => if ty < 0x30 then none else some (t.mnode, t.lastSlot, s.role.epoch)
    | .manager =>
      if t.txDep then (if t.dvalid then some (t.dnode, 0, t.mepoch) else none)
      else
        let e := s.slotOf t.txSlot
        if e.st = .live then some (e.node, t.txSlot, e.epoch) else none

def sltxGo (s : State) : State :=
  match sltxTarget s with
  | none => withTroupe (fun t => { t with refused := true }) s
  | some (node, slot, epoch) =>
    let w (i : Nat) : W64 := Tab.get 0 s.troupe.sltxw i
    let m := { hubMsg s s.troupe.txType.toNat node slot epoch 0 0 (w 2) (w 3) (w 4) with m5 := w 5, m6 := w 6, m7 := w 7 }
    sendMsg m (withTroupe (fun t => { t with refused := false }) s)

def writeSltxctl (v : W64) (s : State) : State :=
  let s1 := withTroupe (fun t => { t with txType := v.truncate 8, txSlot := v.extractLsb' 8 7, txDep := bitAt 15 v }) s
  if bitAt 16 v then sltxGo s1 else s1

def writeSlrxctl (v : W64) (s : State) : State :=
  withTroupe (fun t => { t with
    slrx := if bitAt 7 v then t.slrx.drop 1 else t.slrx
    ovf := if bitAt 8 v then false else t.ovf }) s

/-- A message as its eight words (R422). -/
def Msg.word (m : Msg) (i : Nat) : W64 :=
  match i with
  | 0 => BitVec.ofNat 64 (m.type.toNat + m.src.toNat * 2 ^ 8 + m.dst.toNat * 2 ^ 16 + m.slot.toNat * 2 ^ 24 + m.epoch.toNat * 2 ^ 32)
  | 1 => BitVec.ofNat 64 (m.mepoch.toNat + m.hbseq.toNat * 2 ^ 32 + m.ackseq.toNat * 2 ^ 48)
  | 2 => m.m2
  | 3 => m.m3
  | 4 => m.m4
  | 5 => m.m5
  | 6 => m.m6
  | _ => m.m7

/-! ## Macaron pairs (R443 to R450) -/

/-- The idle conditions of R443, VSBASE.EN apart. -/
def pairIdle (s : State) : Bool := !anyChain s && queuesEmpty s && !anyDmaRunning s && !s.vs.repair.busy

/-- The first of a tile's own preconditions that fails (R444). -/
def fuseError (s : State) : Option (BitVec 4) :=
  if s.id.pairpos = 0 then some 1
  else if s.role.role != .spare then some 2
  else if s.vs.wipePending then some 6
  else if !pairIdle s || s.vs.baseEn then some 3
  else none

def fuseRequest (s : State) : State :=
  if s.pair.busy || s.role.fused then s
  else match fuseError s with
    | some e => setPair { s.pair with err := e } s
    | none => setPair { s.pair with busy := true, until_ := s.troupe.now + 100000 } s

def fuseFail (e : BitVec 4) (s : State) : State := setPair { s.pair with busy := false, err := e } s

/-- Training and the exchange have ended (R444 steps 1 to 4, R476). -/
def fuseFinish (p : Partner) (s : State) : State :=
  let s1 := setPair { s.pair with linkup := p.trained } s
  if !p.trained then fuseFail 5 s1
  else if p.pairpos = 0 || p.pairpos = s.id.pairpos then fuseFail 1 s1
  else if !p.spare || s.role.role != .spare then fuseFail 2 s1
  else if p.wipePending || s.vs.wipePending then fuseFail 6 s1
  else if !p.idle || !pairIdle s || s.vs.baseEn then fuseFail 3 s1
  else if p.lifecycle != s.fuses.now then fuseFail 4 s1
  else
    let s2 := setPair { s1.pair with busy := false, failed := false, relay := [], drained := false, farFreeze := false } s1
    -- both tiles report one EPOCH and one FREASON (R23): the EVEN tile's, as with ENGTIME (DESIGN CHOICE, notes/assumptions/83.md)
    let odd := s.id.pairpos = 2
    let s3 := setRole { s2.role with
      fused := true, epoch := if odd then p.epoch else s2.role.epoch, freason := if odd then p.freason else s2.role.freason } s2
    let s4 := { s3 with cal := { s3.cal with tagPair := false } }
    let s5 := if s.id.pairpos = 2 then { s4 with eng := { s4.eng with time := p.engtime } } else s4
    arrive srcPlEvent (if engFrozenHere s5 then sendPair (.freeze true) s5 else s5)

def unfuse (s : State) : State :=
  let s1 := setRole { s.role with fused := false } s
  arrive srcPlEvent { s1 with vs := { s1.vs with baseEn := false } }

/-- UNFUSE (R450). VSBASE.EN, which it clears, and WIPE_PENDING, for which ERR has a code of its own (R444), are no idle conditions of
its (DEDUCED, notes/assumptions/85.md). -/
def unfuseRequest (partnerIdle : Bool) (s : State) : State :=
  if !s.role.fused then s
  else if s.role.role = .spare && pairIdle s && partnerIdle then unfuse (sendPair .unfuse s)
  else setPair { s.pair with err := 3 } s

/-- A write of PAIRCTL, its UNFUSE apart, whose outcome depends on the partner. -/
def writePairctl (v : W64) (partnerIdle : Bool) (s : State) : State :=
  let s1 := if fieldAt 4 4 v = 15 then setPair { s.pair with err := 0 } s else s
  let s2 := if bitAt 0 v then fuseRequest s1 else s1
  if bitAt 1 v then unfuseRequest partnerIdle s2 else s2

/-- A word asked of this tile by its partner (R445). A PX or BSA request of a chain that runs here waits for the chain time at which
this tile presents the same VOR's group, and then takes its place in element order (R113). -/
def pairPresent (q : PairReq) (s : State) : State :=
  if q.word.toNat ≥ vsWords then setPair { s.pair with answers := s.pair.answers ++ [(q.tag, ⟨0, false⟩, true)] } s
  else if !q.px then present [pairBankReq q] s
  else match s.chain q.slot with
    | some ch =>
      if pairDue s ch q then setVs { s.vs with reqs := mergeByElem q s.vs.reqs } s
      else setPair { s.pair with inbox := s.pair.inbox ++ [q] } s
    | none => present [pairBankReq q] s

def answerPair (tag : BitVec 32) (a : BankAnswer) (s : State) : State :=
  let x : XWord × Bool := match a with
    | .data w => (w, false)
    | .done f => (⟨f.zeroExtend 64, false⟩, false)
    | .refused _ => (⟨0, false⟩, true)
  setPair { s.pair with answers := s.pair.answers ++ [(tag, x.1, x.2)] } s

/-! ## Registers (R451) -/

def Troupe.cfgWord (t : Troupe) : W64 :=
  BitVec.ofNat 64 (t.node.toNat + t.mnode.toNat * 2 ^ 8 + t.dnode.toNat * 2 ^ 16 + b2n t.dvalid * 2 ^ 24 + b2n t.solo * 2 ^ 25 +
    t.dgen.toNat * 2 ^ 26 + t.mepoch.toNat * 2 ^ 32)

def writeTroupecfg (v : W64) (s : State) : State :=
  let r := s.role.role
  withTroupe (fun t => { t with
    node := if r = .spare || r = .fenced then v.truncate 8 else t.node
    mepoch := if r = .spare then v.extractLsb' 32 32 else t.mepoch }) s

def slotStNum : SlotState → Nat
  | .empty => 0
  | .admitting => 1
  | .live => 2
  | .dead => 3

def SlotEnt.word (e : SlotEnt) : W64 :=
  BitVec.ofNat 64 (slotStNum e.st + 4 * b2n e.fused + e.node.toNat * 2 ^ 8 + e.epoch.toNat * 2 ^ 32)

def writeSlottab (n : BitVec 7) (v : W64) (s : State) : State :=
  let e := s.slotOf n
  let may := e.st = .empty || e.st = .dead
  setSlot n { e with
    st := if e.st = .dead && fieldAt 0 2 v = 0 then .empty else e.st
    epoch := if may then v.extractLsb' 32 32 else e.epoch } s

def Troupe.slcmdWord (t : Troupe) : W64 := BitVec.ofNat 64 (b2n (t.busy != .no) * 2 ^ 20 + t.result.toNat * 2 ^ 21)

/-- LEASED and LEASELEFT. -/
def leaseLeft (s : State) : Option Nat := s.troupe.leaseEnd.map (fun e => Nat.min 32767 ((e - s.troupe.now) / 1000))

def slstatWord (s : State) : W64 :=
  let t := s.troupe
  BitVec.ofNat 64 (t.stale.toNat + t.bad.toNat * 2 ^ 16 + t.rxovf.toNat * 2 ^ 32 + (leaseLeft s).getD 0 * 2 ^ 48 +
    b2n (leaseLeft s).isSome * 2 ^ 63)

def Troupe.txWord (t : Troupe) : W64 :=
  BitVec.ofNat 64 (t.txType.toNat + t.txSlot.toNat * 2 ^ 8 + b2n t.txDep * 2 ^ 15 + b2n t.refused * 2 ^ 17)
def Troupe.rxWord (t : Troupe) : W64 := BitVec.ofNat 64 (t.slrx.length + b2n t.ovf * 2 ^ 8)

def pairWord (s : State) : W64 :=
  BitVec.ofNat 64 (4 * b2n s.role.fused + 8 * b2n s.pair.busy + s.pair.err.toNat * 16 + b2n s.pair.linkup * 2 ^ 8)

end Sys2Proof.Machine
end

