-- ==== Sys2Proof/Machine/Reset.lean ====
section
/-! DEFINITION. Core starts, the resets of R467 to R475 and R483, clocks, calibration and qualification passes
(spec/17_ports_clocks_reset.md). -/

namespace Sys2Proof.Machine

def setRst (r : ResetClk) (s : State) : State := { s with rst := r }
def setCal (c : Calib) (s : State) : State := { s with cal := c }

/-! ## Core starts (R470, R482, R504, R509, R525, R561) -/

/-- Cores may run: UP = 1, a boot has passed, no test instruction and no END state holds them. -/
def coresFree (s : State) : Bool := s.rst.phase == .up && s.boot.state == 3 && !s.wrap.hold && s.fuses.now != 5

/-- HALT packet: a halt's cause, or 0 for a resume (R539). -/
def traceHalt (c : CoreId) (cause : Nat) (dpc : BitVec 48) (s : State) : State :=
  tracePacket 4 c.val (BitVec.ofNat 8 cause :: bytesLE dpc.toNat 6) s

/-- A core starts at BOOTVEC.c; one that a reset has struck while it was halted halts again before its first parcel (R470, R525). -/
def startCore (c : CoreId) (s : State) : State :=
  let pc := s.rst.bootvec.get c
  let k := { s.core c with st := .running, ran := true, pc := pc }
  if k.dbg.haltAtStart && dbgLevel s == 2 then
    traceHalt c 1 pc (setCore c { k with st := .halted, ran := false, dbg := { k.dbg with haltAtStart := false, cause := 1, dpc := pc, drpend := false } } s)
  else setCore c { k with dbg := { k.dbg with haltAtStart := false } } s

/-- Starts every core whose RUN bit is 1 and which is held in reset. -/
def startCores (s : State) : State :=
  if coresFree s then
    fours.foldl (fun s c => if s.rst.run.getLsbD c.val && (s.core c).st == .off then startCore c s else s) s
  else s

/-! ## Core reset (R468, R470) -/

/-- A waiting Vector Store write whose requester a reset strikes: it is made, or not (R193, R420, R470). -/
def settleWrite (r : BankReq) (s : State) : State :=
  match r.op with
  | .read => s
  | _ =>
    let (b, s1) := s.takeBool
    if b && !secureRefused r.word r.secure s1 then
      let s2 := (grantOne r s1).2
      let bank := s2.vs.bankOf r.word
      match Tab.find s2.vs.halves bank with
      | some h => if h.dest = r.dest then setVs { s2.vs with halves := Tab.erase s2.vs.halves bank } (writeWord h.word h.data h.poison s2) else s2
      | none => s2
    else s1

/-- Withdraws the bank requests of struck requesters. -/
def withdraw (mine : ReqDest → Bool) (s : State) : State :=
  let gone := s.vs.reqs.filter (fun r => mine r.dest)
  gone.foldl (fun s r => settleWrite r s) (setVs { s.vs with reqs := s.vs.reqs.filter (fun r => !mine r.dest) } s)

def destOfCore (c : CoreId) : ReqDest → Bool
  | .coreRead d _ => d == c
  | .coreWrite d => d == c
  | .lock d _ => d == c
  | .unlock d _ => d == c
  | .coreEng d => d == c
  | _ => false

/-- A store-buffer entry for a Vector Store word that has not drained: its bytes are the old or the written ones (R470). -/
def settleStore (c : CoreId) (e : SbEntry) (s : State) : State :=
  match e.route.getD (routeOf s (e.word.toNat * 8)) with
  | .vs off => match homeWord s (off / 8) with
    | some w => settleWrite (bankReq 15 w (.write e.data e.be false) e.secure (.coreWrite c)) s
    | none => s
  | _ => s

/-- Queue entries of a struck core: a collected-to-be final record is discarded with its entry, the others when it comes (R470). -/
def orphanEntries (c : CoreId) (s : State) : State :=
  { s with entries := s.entries.set c ((s.entries.get c).map (fun e =>
      if e.2.record.isSome && e.2.final then (e.1, { e.2 with taken := false, record := none, final := false })
      else (e.1, { e.2 with orphan := e.2.taken, record := none }))) }

/-- What every reset does to one core: its state is as after reset, its stores and dirty lines are discarded, what it awaits is
owed to nobody; Weado's registers keep their values (R468, R470, R525). -/
def clearCore (c : CoreId) (s : State) : State :=
  let k := s.core c
  let owed :=
    k.fills.map (fun f => Owed.fill c f.fetch f.line) ++ k.walks.map (fun w => Owed.walk c w.ea) ++
    k.wbs.map (fun w => Owed.writeback c w.1) ++
    ((k.sb.filter (fun e => e.began)).filter (fun e => match e.route.getD (routeOf s (e.word.toNat * 8)) with
      | .ext .cached _ => !k.act.getLsbD 1 || (Tab.find k.dcache (e.word.toNat / 8)).isNone
      | .ext _ _ => true
      | _ => false)).map (fun _ => Owed.drain c)
  let presented := s.vs.reqs.any (fun r => r.dest == .coreWrite c)
  let s1 := withdraw (destOfCore c) (owe owed s)
  let late := if presented then k.sb.filter (fun e => !e.began) else k.sb
  let s2 := late.foldl (fun s e => settleStore c e s) s1
  let dbg := { k.dbg with haltAtStart := k.st == .halted || k.dbg.haltAtStart, stepping := false, stepDue := false, brkDue := false, dwdue := false }
  let s3 := setCore c { core0 with dbg := dbg } s2
  { s3 with evc := s3.evc.set c evCore0 }

/-- A core reset (R470). -/
def coreResetOne (c : CoreId) (s : State) : State :=
  let s1 := tellFreeze s (orphanEntries c (clearCore c s))
  setRst { s1.rst with run := s1.rst.run &&& ~~~ BitVec.ofNat 4 (2 ^ c.val) } s1

/-- Writes RSTCTL.RUN (R482): a core whose bit falls is held at its reset state. -/
def writeRun (run : BitVec 4) (s : State) : State :=
  let s1 := fours.foldl (fun s c =>
    if s.rst.run.getLsbD c.val && !run.getLsbD c.val then coreResetOne c s else s) s
  startCores (setRst { s1.rst with run := run } s1)

/-! ## Warm reset (R467 to R469, R472, R475, R483) -/

/-- What the engine loses: every chain, queue, fault record and the stream TLB (R193, R468). -/
def abandonChains (s : State) : State :=
  let owed := fours.flatMap (fun i =>
    (match s.chain i with
      | some ch =>
        (ch.lines.filter (fun l => l.words.isNone && l.fault.isNone && l.part.isEmpty && (match routeOf s (l.pline * 64) with
          | .ext _ _ => true
          | _ => false))).map (fun l => Owed.streamLine i l.pline) ++
        ch.px.filterMap (fun a => a.wait.map (fun l => Owed.streamLine i l)) ++
        ch.lwOut.map (fun w => Owed.streamWrite i w.pline) ++
        (if ch.journal.outstanding.isSome then [Owed.journal i] else [])
      | none => []) ++
    ((s.eng.tails.get i).filter (fun j => j.outstanding.isSome)).map (fun _ => Owed.journal i)) ++
    s.eng.walks.map (fun w => Owed.streamWalk w.slot w.page)
  let s1 := withdraw (fun d => d.slot.isSome || (match d with
    | .prog _ _ _ => true
    | _ => false)) (owe owed s)
  let e := s1.eng
  { s1 with
    eng := { e with slots := Quad.same none, flt := Quad.same noFault, ax0 := zeroAx, ax1 := zeroAx, tlb := [], walks := [],
                    tails := Quad.same [] }
    entries := Quad.same []
    iq := Quad.same [] }

/-- A field repair is abandoned, and the scrubber returns to word 0 (R41, R48, R468). -/
def vsWarm (s : State) : State :=
  let v := s.vs
  setVs { v with
    repair := { v.repair with busy := false, row := 0 }
    scrubWord := 0, scrubWait := v.scrubInterval
    reqs := v.reqs.filter (fun r => r.rq != 18 && r.rq != 19)
    wipeBusy := false, wipeRow := 7680 } s

/-- The role after a warm reset (R21). -/
def roleWarm (s : State) : State :=
  match s.role.role with
  | .spare => s
  | .fenced => s
  | _ => setRole { s.role with role := .fenced, slot := 0, freason := 5 } s

/-- The role, the lease and the string link in a warm reset (R21, R427, R468). `relay` holds where it starts on this tile, and a fused
partner is to be told (R472). -/
def warmRole (relay : Bool) (s : State) : State :=
  withTroupe (fun t => { t with leaseEnd := none, releasing := false, slrx := [] })
    (dropClaim (roleWarm (if relay then sendPair .warmReset s else s)))

/-- Rings, DMA, the engine, the Vector Store's walks, the cores and the event controller in a warm reset (R468, R469). -/
def warmStrike (s : State) : State :=
  let s1 := withdraw (fun d => match d with
    | .dmaRead _ _ _ => true
    | .dmaWrite _ _ => true
    | _ => false) (ringReset s)
  tellFreeze s { fours.foldl (fun s c => clearCore c s) (vsWarm (abandonChains (dmaReset s1))) with ev := [] }

/-- Calibration, the boot, a lifecycle transition and the reset registers in a warm reset (R468, R482, R483). -/
def warmMark (cause : BitVec 4) (again : Bool) (s : State) : State :=
  { s with
    cal := { s.cal with wanted := again, running := false, keep := s.cal.keep || s.cal.running, restarts := 0, trPair := s.cal.trPair || s.pair.linkup }
    boot := { s.boot with state := 0, signed := false, cause := 0, svn := 0, keyslot := 0, step := .none }
    fuses := { s.fuses with op := (match s.fuses.op with
      | some (.transition _) => none
      | o => o) }
    rst := { s.rst with
      phase := .warm, cause := cause, run := 0, warmCnt := satInc s.rst.warmCnt, missed := s.rst.missed ||| s.rst.stopped, warmDue := none } }

/-- A warm reset begins (R468). -/
def warmBegin (cause : BitVec 4) (relay : Bool) (s : State) : State :=
  warmMark cause (s.cal.wanted || s.cal.running) (warmStrike (warmRole relay s))

/-- A request for a warm reset (R467, R483): it has no effect unless UP = 1. -/
def warmReset (cause : BitVec 4) (relay : Bool) (s : State) : State :=
  if s.rst.phase = .up then warmBegin cause relay s else s

/-- A warm reset that waits for the end of a hold-up flush (R518, R556). -/
def warmResetAfterFlush (cause : BitVec 4) (s : State) : State :=
  if s.pwr.flush.isSome then setRst { s.rst with warmDue := some cause } s else warmReset cause true s

/-- The wipe that runs before UP is set (R63, R473, R475). -/
def wipeNow (s : State) : State :=
  let m := (List.range 512).foldl (fun m i => m.zeroRow (7680 + i)) s.vs.mem
  setVs { s.vs with mem := m, wipePending := false, wipeBusy := false, wipeRow := 7680 } s

/-! ## Cold and always-on reset (R468, R473) -/

/-- The state that a cold reset clears. The always-on region, Weado, the fuses and what the ports have emitted are kept; the sampled
tie-offs stand until they are sampled again (R468, R473). Of the supervisor, VBUS, VALID, LOW and HIGH are not always-on (R498). -/
def coldClear (cause : BitVec 4) (s : State) : State :=
  let fresh := State.reset
  let watch (w : Wdog) : Wdog := { w with lock := false }
  { fresh with
    id := { s.id with paramerr := false }
    log := s.log
    vs := { vstore0 with wipePending := s.vs.wipePending }
    cores := ⟨{ core0 with dbg := { (s.core 0).dbg with stepping := false, stepDue := false, brkDue := false, dwdue := false } },
      { core0 with dbg := { (s.core 1).dbg with stepping := false, stepDue := false, brkDue := false, dwdue := false } },
      { core0 with dbg := { (s.core 2).dbg with stepping := false, stepDue := false, brkDue := false, dwdue := false } },
      { core0 with dbg := { (s.core 3).dbg with stepping := false, stepDue := false, brkDue := false, dwdue := false } }⟩
    weado := s.weado
    troupe := { troupe0 with now := s.troupe.now, tx := s.troupe.tx }
    pair := { pair0 with tx := s.pair.tx, answers := s.pair.answers }
    rst := { resetClk0 with cause := cause, stopped := s.rst.stopped }
    pwr := { power0 with autooff := s.pwr.autooff, goodlost := s.pwr.goodlost }
    supv := { s.supv with vbus := 0, valid := false, low := false, high := false, nWarn := 0, nOver := 0 }
    fuses := { s.fuses with
      lcErr := false, keyErr := false, keydata := [],
      op := (match s.fuses.op with
        | some (.transition _) => none
        | o => o) }
    auth := { s.auth with run := none, fails := 0, lock := false, denied := false, resp := [] }
    panel := s.panel
    wds := s.wds.map watch
    twd := watch s.twd
    wrap := { s.wrap with hold := false, mbusy := false }
    ports := { s.ports with owed := [] }
    free := s.free
    pending := s.pending }

/-- COLD_N is asserted (R468, R472, R483). -/
def coldAssert (s : State) : State := coldClear 2 (sendPair .coldReset s)

/-- The always-on region as its reset leaves it, with WIPE_PENDING = 1 (R468). -/
def alwaysOnClear (s : State) : State :=
  let s1 := coldClear 1 s
  { s1 with
    id := idParam0
    log := ⟨[], 0, 0⟩
    vs := { s1.vs with wipePending := true }
    cores := Quad.same core0
    weado := weado0
    pwr := power0
    supv := supv0
    auth := { auth0 with chal := s1.auth.chal }
    panel := panel0
    wds := Quad.same wdog0
    twd := wdog0
    fuses := { s1.fuses with op := none }
    troupe := { s1.troupe with now := 0 } }

/-- The wrapper loses its power: a repair entry whose VALID is not yet blown keeps the LBANK fuses that were (R568). -/
def wrapCut (s : State) : State :=
  let (m, s0) := s.takeWord
  let fuses := match s.wrap.rbusy with
    | some (n, lb) => Tab.modify 0 s0.wrap.fuses n.toNat (fun f => f ||| ((lb.zeroExtend 16) &&& (m.truncate 16)))
    | none => s0.wrap.fuses
  { s0 with wrap := { s0.wrap with fuses := fuses, rbusy := none } }

/-- AOPOR_N is asserted or power is lost: a running fuse command leaves its old value (R503, R568). -/
def alwaysOnAssert (s : State) : State :=
  let s1 := alwaysOnClear (wrapCut s)
  { s1 with rst := { s1.rst with phase := .aopor } }

/-- A fresh challenge (R512). -/
def freshChallenge (s : State) : State :=
  let (a, s1) := s.takeWord
  let (b, s2) := s1.takeWord
  let (c, s3) := s2.takeWord
  let (d, s4) := s3.takeWord
  let (e, s5) := s4.takeWord
  let (f, s6) := s5.takeWord
  { s6 with auth := { s6.auth with chal := a ++ b ++ c ++ d ++ e ++ f } }

/-- Step 1 of R473: the tie-offs are sampled (R5, R7). -/
def sampleParams (t : TieOffs) (s : State) : State :=
  let bad := t.pairpos == 3 || t.tracew == 3
  { s with id := ⟨t.tilebase, t.diepos, t.pairpos, t.snoopcap, t.empch, t.tracew, bad⟩ }

/-- COLD_N is released (R473). -/
def coldRelease (t : TieOffs) (s : State) : State :=
  let s1 := freshChallenge (sampleParams t s)
  if s1.id.paramerr then s1 else setRst { s1.rst with phase := .startup 1 } s1

/-- VSMAP entry `n` as the repair fuses give it (R39, R565). Of an entry whose VALID fuse is unblown, LBANK reads 0 (R69; DESIGN
CHOICE, notes/assumptions/54.md). -/
def fuseEntry (s : State) (n : Nat) : VsMapEntry :=
  let f : BitVec 16 := Tab.get 0 s.wrap.fuses n
  if f.getLsbD 10 then ⟨f.truncate 10, true, true⟩ else ⟨0, false, false⟩

/-- Step 2 of R473: fuses are loaded and the Vector Store is zero-filled, which clears WIPE_PENDING. -/
def loadFuses (s : State) : State :=
  { s with
    vs := { s.vs with
      mem := Memory.zero, map0 := fuseEntry s 0, map1 := fuseEntry s 1, map2 := fuseEntry s 2, wipePending := false, wipeBusy := false,
      wipeRow := 7680 }
    fuses := { s.fuses with now := s.fuses.lc } }

/-- A timed start-up step ends (R473); in END the start-up stops after step 2, which the number 4 marks (R504). -/
def stepDone (n : Nat) (s : State) : State :=
  match n with
  | 1 => setRst { s.rst with phase := .startup 2 } s
  | 2 =>
    let s1 := loadFuses s
    setRst { s1.rst with phase := .startup (if s1.fuses.now = 5 then 4 else 3) } s1
  | _ => setCal { s.cal with wanted := true } (setRst { s.rst with phase := .up } s)

/-! ## Clocks (R465, R482, R483) -/

def clockBit : Clock → Nat
  | .vclk => 0
  | .tclk => 1
  | .dclk c => 2 + c.val
  | .fclk => 6
  | .mclk => 7
  | .slclk => 8
  | .plclk => 9
  | .wclk => 10
  | .aoclk => 11
  | .tmclk => 12
  | .spclk => 13

/-- A clock that belongs to the switchable region (R29). WRCK and TRCLK belong to it too; they are not watched (R465), so no clock event
names them, and the commands that run on them say in `switchedOn` that they stop in OFF. -/
def switchable (c : Clock) : Bool := clockBit c ≤ 9

/-- The clocks that the present power state needs and the always-on block watches (R465, R484). -/
def watched (s : State) (c : Clock) : Bool :=
  s.rst.phase != .aopor && (!switchable c || (pwrState s ≤ 1) || (pwrState s ≤ 3 && s.pwr.emul) || (pwrState s == 3 && c == .fclk))

def clockLoss (c : Clock) (s : State) : State :=
  let b : BitVec 16 := BitVec.ofNat 16 (2 ^ clockBit c)
  logRecord 0x05 unitSec 0 (BitVec.ofNat 64 (clockBit c)) true (setRst { s.rst with lost := s.rst.lost ||| b, stopped := s.rst.stopped ||| b } s)

def clockBack (c : Clock) (s : State) : State :=
  let b : BitVec 16 := BitVec.ofNat 16 (2 ^ clockBit c)
  setRst { s.rst with stopped := s.rst.stopped &&& ~~~ b, missed := s.rst.missed &&& ~~~ b } s

def clockOn (s : State) (c : Clock) : Bool := !s.rst.stopped.getLsbD (clockBit c)

/-! ## Calibration (R476 to R481) -/

/-- The lowest temperatures of bands 1 to 5, in steps of 0.25 °C (R479). -/
def bandFloor (b : Nat) : Int :=
  match b with
  | 1 => 100
  | 2 => 180
  | 3 => 260
  | 4 => 340
  | _ => 400

/-- BAND after a sample (R479), with the hysteresis of 2 °C. -/
def nextBand (t : Int) (b : Nat) : Nat :=
  let up := ([5, 4, 3, 2, 1].find? (fun x => bandFloor x ≤ t - 8)).getD 0
  let down := ([0, 1, 2, 3, 4].find? (fun x => bandFloor (x + 1) > t + 8)).getD 5
  if up > b then up else if down < b then down else b

/-- A pass is requested (R478); one that runs goes on. -/
def requestPass (s : State) : State := if s.cal.running then s else setCal { s.cal with wanted := true } s

/-- BAND changes: a running pass restarts, else one is requested (R478). Such a restart is none for margin, so those are no longer in a
row. -/
def takeTemp (temp : BitVec 12) (s : State) : State :=
  let b := nextBand temp.toInt s.cal.band.toNat
  if b = s.cal.band.toNat then s else requestPass (setCal { s.cal with band := BitVec.ofNat 3 b, restarts := 0 } s)

def passStart (s : State) : State := setCal { s.cal with wanted := false, running := true, restarts := 0 } s

/-- A pass ends: every value that the tile holds is FULL (R478). -/
def passEnd (s : State) : State :=
  let c := s.cal
  arrive srcCalQual (setCal { c with
    running := false, restarts := 0, tagEmp0 := true, tagEmp1 := c.tagEmp1 || emp1Present s, tagPair := c.tagPair || s.role.fused,
    tagDroop := true, qband := c.band, qfail := false, keep := false, qcount := satInc c.qcount } s)

/-- The link exists and is trained. -/
def linkThere (s : State) : Link → Bool
  | .emp0 => true
  | .emp1 => emp1Present s
  | .pair => s.pair.linkup

def retraining (c : Calib) : Link → Bool
  | .emp0 => c.trEmp0
  | .emp1 => c.trEmp1
  | .pair => c.trPair

def setRetrain (l : Link) (b : Bool) (c : Calib) : Calib :=
  match l with
  | .emp0 => { c with trEmp0 := b }
  | .emp1 => { c with trEmp1 := b }
  | .pair => { c with trPair := b }

def setTag (l : Link) (b : Bool) (c : Calib) : Calib :=
  match l with
  | .emp0 => { c with tagEmp0 := b }
  | .emp1 => { c with tagEmp1 := b }
  | .pair => { c with tagPair := b }

/-- A retrain of a link begins (R480). -/
def retrainBegin (l : Link) (s : State) : State :=
  arrive srcLinkRetrain (setCal { setRetrain l true s.cal with retrains := satInc s.cal.retrains } s)

/-- The third restart for margin in a row ends the pass as failed (R478, R545, R553). -/
def passFail (s : State) : State :=
  let s1 := setCal { s.cal with running := false, restarts := 0, qfail := true, keep := true } s
  logRecord 0x08 unitSec 0 0 true { s1 with panel := { s1.panel with fcause := s1.panel.fcause ||| 4 } }

/-- A link's phase margin has fallen below the floor (R478, R480). -/
def marginLow (l : Link) (s : State) : State :=
  let s1 := retrainBegin l s
  if !s1.cal.running then s1
  else if s1.cal.restarts ≥ 2 then passFail s1
  else setCal { s1.cal with restarts := s1.cal.restarts + 1 } s1

/-- A retrain ends; its value is LIGHT while the throttle is in force, FULL otherwise (R476, R480). -/
def retrainEnd (l : Link) (s : State) : State :=
  arrive srcLinkRetrain (setCal (setTag l (!throttleOn s) (setRetrain l false s.cal)) s)

/-! ## Registers (R482) -/

def phaseStep (s : State) : Nat :=
  match s.rst.phase with
  | .startup n => if n ≤ 3 then n else 0
  | .up => if s.cal.qcount = 0 && (s.cal.wanted || s.cal.running) then 5 else 0
  | _ => 0

def rststatWord (s : State) : W64 :=
  BitVec.ofNat 64 (s.rst.cause.toNat + b2n (s.rst.phase == .up) * 16 + phaseStep s * 32 + s.rst.warmCnt.toNat * 2 ^ 8)

def calstatWord (s : State) : W64 :=
  let c := s.cal
  BitVec.ofNat 64 (b2n (c.tagEmp0 && (c.tagEmp1 || !emp1Present s) && (c.tagPair || !s.role.fused) && c.tagDroop && c.qband == c.band) +
    2 * b2n (throttleOn s) + 4 * b2n (c.wanted || c.running) + c.band.toNat * 8 + c.qband.toNat * 64 +
    b2n c.tagEmp0 * 2 ^ 9 + b2n c.tagEmp1 * 2 ^ 10 + b2n c.tagPair * 2 ^ 11 + b2n c.tagDroop * 2 ^ 12 + b2n c.qfail * 2 ^ 13 +
    c.qcount.toNat * 2 ^ 16 + c.retrains.toNat * 2 ^ 32)

/-- A write of RSTCTL (R470, R482). -/
def writeRstctl (v : W64) (s : State) : State :=
  let s1 := fours.foldl (fun s c => if bitAt c.val v then coreResetOne c s else s) s
  let s2 := writeRun (v.extractLsb' 4 4) s1
  if bitAt 8 v then warmReset 4 true s2 else s2

def writeCalctl (v : W64) (s : State) : State :=
  let s1 := setCal { s.cal with margin := v.extractLsb' 1 7 } s
  if bitAt 0 v then requestPass s1 else s1

end Sys2Proof.Machine
end

