-- ==== Sys2Proof/Machine/Debug.lean ====
section
/-! DEFINITION. Halts and resumes of cores, the freezes of the watchdogs, and a change of the debug level (R522, R523, R529,
R531, R532). -/

namespace Sys2Proof.Machine

def withDbg (c : CoreId) (f : CoreDbg → CoreDbg) (s : State) : State := withCore c (fun k => { k with dbg := f k.dbg }) s

/-! ## Watchdog freezes (R529, R531) -/

/-- Core `c`'s watchdog is frozen. -/
def cwdFrozen (s : State) (c : CoreId) : Bool :=
  dbgLevel s == 2 && s.weado.wfreeze.getLsbD (4 + c.val) && (s.core c).st == .halted

/-- The tile watchdog is frozen. -/
def twdFrozen (s : State) : Bool := dbgLevel s == 2 && s.weado.wfreeze.getLsbD 8 && allHalted s

/-- PERIOD as it acts (R554). -/
def Wdog.ticks (w : Wdog) : Nat := Nat.max w.period.toNat 1024

/-- What R531 makes of a watchdog at the end of a freeze. -/
def Wdog.thaw (w : Wdog) : Wdog :=
  if w.en && w.remain.toNat < w.ticks / 8 then { w with remain := BitVec.ofNat 24 (w.ticks / 8) } else w

/-- What the end or the beginning of freezes does: R531 applies to every watchdog that was frozen in `before` and is not now, and the
partner of a pair hears of the engine freeze. -/
def thawed (before s : State) : State :=
  let wds := fours.foldl (fun (q : Quad Wdog) c => if cwdFrozen before c && !cwdFrozen s c then q.set c (q.get c).thaw else q) s.wds
  tellFreeze before { s with wds := wds, twd := if twdFrozen before && !twdFrozen s then s.twd.thaw else s.twd }

/-! ## Halt and resume (R521 to R525) -/

/-- The core stops issuing with `cause`: DPC and RPEND take what R223 and R522 give, and the LOCK reservation is cleared. A parcel
still held starts anew at the resume. -/
def haltCore (c : CoreId) (cause : Nat) (s : State) : State :=
  let k := s.core c
  let sv := k.saved
  let k1 := { k with
    st := .halted, lockRes := none, held := none, delay := none, chk := none, rep := none, repResume := false, repHold := false, pc := sv.epc
    code := none
    dbg := { k.dbg with cause := BitVec.ofNat 3 cause, dpc := sv.epc, drpend := sv.rpend, haltreq := false, dwdue := false, stepping := false, stepDue := false, brkDue := false } }
  tellFreeze s (traceHalt c cause sv.epc (setCore c k1.leaveBuffer s))

/-- RESUME of a halted core (R523); one whose fed parcel still runs resumes when that has ended (R532). -/
def resumeCore (c : CoreId) (s : State) : State :=
  let k := s.core c
  if k.st != .halted then s
  else if k.held.isSome then withDbg c (fun d => { d with resumeDue := true }) s
  else
    let k1 := (k.sync.leaveBuffer).goTo k.dbg.dpc
    thawed s (traceHalt c 0 k.dbg.dpc (setCore c { k1 with
      repResume := k.dbg.drpend, repHold := k.dbg.drpend, dbg := { k.dbg with resumeDue := false, stepping := false, stepDue := false } } s))

/-! ## The debug level (R513, R532) -/

/-- Trace stops at a packet boundary: the packet under way is sent to its end, and nothing more (R532). -/
def Trace.stop (t : Trace) : Trace := { t with fifo := t.fifo.take t.mid, lost := 0 }

/-- Sets LEVEL. A fall below HALT ends every freeze and resumes every halted core; a fall to NONE discards what a SAM read in
progress returns. -/
def setLevel (l : BitVec 2) (byRma : Bool) (s : State) : State :=
  let s1 := { s with auth := { s.auth with level := l, byRma := byRma } }
  let s2 := if dbgLevel s == 2 && l != 2 then
      fours.foldl (fun s c => withDbg c (fun d => { d with stepping := false, stepDue := false }) (resumeCore c s)) s1
    else s1
  let s3 := thawed s s2
  if l = 0 && dbgLevel s != 0 then
    let m := s3.weado.sam
    { s3 with weado := { s3.weado with
        tr := s3.weado.tr.stop, sam := if m.busy && m.rd then { m with rd := false, data := 0 } else m } }
  else s3

/-- A debug reset (R468, R513, R532): LEVEL falls to NONE, halted cores resume, and Weado's registers are reset. The core of a fed
parcel that still runs keeps where it is to resume. -/
def debugReset (s : State) : State :=
  let s1 := setLevel 0 false s
  let s2 := if s1.weado.sam.out.isSome then owe [.sam] s1 else s1
  let s3 := { s2 with weado := { weado0 with wdDo := s2.weado.wdDo, acks := s2.weado.acks } }
  fours.foldl (fun s c => withDbg c (fun d =>
    if d.resumeDue then { coreDbg0 with resumeDue := true, dpc := d.dpc, drpend := d.drpend } else coreDbg0) s) s3

end Sys2Proof.Machine
end

