-- ==== Sys2Proof/Machine/Security.lean ====
section
/-! DEFINITION. The security block: lifecycle and key fuses, secure boot, debug authentication and wipe triggers
(spec/19_security_lifecycle.md). -/

namespace Sys2Proof.Machine

def setFuses (f : Fuses) (s : State) : State := { s with fuses := f }
def setBoot (b : Boot) (s : State) : State := { s with boot := b }
def setAuth (a : DbgAuth) (s : State) : State := { s with auth := a }

/-- The 64-bit words of a register group as bytes, the first byte in bits [7:0] (R517). -/
def wordsToBytes (t : Tab W64) (first n : Nat) : List Byte :=
  (List.range n).flatMap (fun i => bytesLE ((Tab.get 0 t (first + i)).toNat) 8)

/-! ## Wipe triggers and boot failure (R510, R515, R518) -/

/-- A boot runs: LOADING or VERIFYING. -/
def booting (s : State) : Bool := s.boot.state == 1 || s.boot.state == 2

def imageAddr (a : BitVec 45) : Nat := a.toNat * 128

/-- A boot fails with `cause` (R510): a wipe trigger, the fault indicator and a log record; the copy of channel 63 ends. -/
def bootFail (cause : Nat) (s : State) : State :=
  let copying := s.boot.step == .copy
  let s1 := setBoot { s.boot with state := 4, cause := BitVec.ofNat 4 cause, step := .none } s
  let s2 := if copying then dmaCancelChan 63 s1 else s1
  let s3 := sendPair .wipe (wipeTrigger s2)
  logRecord 0x07 unitSec (BitVec.ofNat 52 (imageAddr s.boot.cur.2)) (BitVec.ofNat 64 cause) true
    { s3 with panel := { s3.panel with fcause := s3.panel.fcause ||| 1 } }

/-- A wipe trigger ends a boot with cause 0x7. -/
def bootWiped (s : State) : State := if booting s then bootFail 7 s else s

/-- A wipe trigger of this tile, passed to the partner of a fused pair (R515). -/
def wipeTrip (s : State) : State := bootWiped (sendPair .wipe (wipeTrigger s))

/-- A wipe trigger that the partner has passed on. -/
def wipeTripPair (s : State) : State := bootWiped (wipeTrigger s)

/-! ## Fuse commands (R501 to R505) -/

/-- Whether LCCMD, KEYCMD and KEYDATA accept a write (R502). -/
def lcMayWrite (who : Requester) (s : State) : Bool :=
  match s.fuses.now with
  | 0 => true
  | 1 => true
  | 2 => true
  | 5 => false
  | _ => (match who with
    | .core _ => true
    | .weado => dbgLevel s == 2
    | .host => false)

def KeySlot.live (k : KeySlot) : Bool := k.prog && !k.revoked

/-- A transition exists and its condition holds (R501). -/
def transitionOk (who : Requester) (t : Nat) (s : State) : Bool :=
  let f := s.fuses
  let listed := match f.now.toNat, t with
    | 0, 1 => true
    | 1, 2 => true
    | 2, 3 => f.keys.any (fun k => k.live && k.boot)
    | 3, 4 => f.keys.any (fun k => k.live && k.rma) && (match who with
      | .core _ => true
      | .weado => dbgLevel s == 2 && s.auth.byRma
      | .host => false)
    | _, 5 => true
    | _, _ => false
  listed && f.lc.toNat < t

def lcError (s : State) : State := setFuses { s.fuses with lcErr := true } s
def keyError (s : State) : State := setFuses { s.fuses with keyErr := true } s

def fuseBusy (s : State) : Bool := s.fuses.op.isSome

/-- LCCMD TRANSITION (R501, R503 steps 1 and 2). -/
def lcTransition (who : Requester) (t : BitVec 3) (s : State) : State :=
  if fuseBusy s || !transitionOk who t.toNat s then lcError s
  else wipeTrip (setFuses { s.fuses with op := some (.transition t) } s)

/-- LCCMD RAISESVN (R505, R517). -/
def lcRaise (svn : BitVec 6) (s : State) : State :=
  if fuseBusy s || svn.toNat ≤ s.fuses.minsvn.toNat then lcError s
  else setFuses { s.fuses with op := some (.raisesvn svn) } s

/-- A write of LCCMD (R517). -/
def writeLccmd (who : Requester) (v : W64) (s : State) : State :=
  if !lcMayWrite who s then s
  else
    let s1 := if bitAt 13 v then setFuses { s.fuses with lcErr := false } s else s
    if !bitAt 12 v then s1
    else match fieldAt 0 3 v with
      | 1 => lcTransition who (v.extractLsb' 3 3) s1
      | 2 => lcRaise (v.extractLsb' 6 6) s1
      | 3 => wipeTrip s1
      | _ => lcError s1

/-- The digest that KEYDATA holds. -/
def keyDigest (s : State) : BitVec 384 := BitVec.ofNat 384 (beNat (wordsToBytes s.fuses.keydata 0 6))

/-- KEYCMD PROGRAM (R505, R517). -/
def keyProgram (slot : BitVec 2) (use : BitVec 3) (s : State) : State :=
  let f := s.fuses
  if fuseBusy s || f.now != 2 then keyError s
  else if use = 0 && slot = 3 then
    if f.uidProg then keyError s
    else setFuses { f with op := some (.uid (Tab.get 0 f.keydata 0) (Tab.get 0 f.keydata 1)) } s
  else if (f.keys.get slot.toFin).prog then keyError s
  else setFuses { f with op := some (.program slot use (keyDigest s)) } s

def keyRevoke (slot : BitVec 2) (s : State) : State :=
  let n := s.fuses.now
  if fuseBusy s || !(n == 2 || n == 3 || n == 4) then keyError s
  else setFuses { s.fuses with op := some (.revoke slot) } s

/-- A write of KEYCMD (R517). -/
def writeKeycmd (who : Requester) (v : W64) (s : State) : State :=
  if !lcMayWrite who s then s
  else
    let s1 := if bitAt 8 v then setFuses { s.fuses with keyErr := false } s else s
    if !bitAt 7 v then s1
    else match fieldAt 5 2 v with
      | 1 => keyProgram (v.extractLsb' 0 2) (v.extractLsb' 2 3) s1
      | 2 => keyRevoke (v.extractLsb' 0 2) s1
      | _ => keyError s1

/-- A fuse command ends (R503, R505). -/
def fuseDone (op : FuseOp) (s : State) : State :=
  let f := { s.fuses with op := none }
  match op with
  | .transition t => warmResetAfterFlush 7 (freshChallenge (setLevel 0 false (setFuses { f with lc := t } s)))
  | .raisesvn n => setFuses { f with minsvn := n } s
  | .uid a b => setFuses { f with uid0 := a, uid1 := b, uidProg := true } s
  | .program n use d =>
    setFuses { f with keys := f.keys.set n.toFin ⟨true, use.getLsbD 0, use.getLsbD 1, use.getLsbD 2, (f.keys.get n.toFin).revoked, d⟩ } s
  | .revoke n => setFuses { f with keys := f.keys.set n.toFin { f.keys.get n.toFin with revoked := true } } s

/-! ## Secure boot (R506 to R510) -/

/-- The window that a boot copies to is enabled and lies below 2^48 (R507 step 1). -/
def bootWindow (s : State) : Bool := s.vs.baseEn && s.vs.base.toNat < 2 ^ 22

/-- A boot begins (R507 steps 1 and 2). -/
def bootStart (port : Bool) (addr : BitVec 45) (s : State) : State :=
  let s1 := setBoot { s.boot with state := 1, cause := 0, signed := false, step := .header, cur := (port, addr), hdr := [], msg := [] } s
  if !bootWindow s1 then bootFail 6 s1
  else if s1.vs.wipePending then bootFail 7 s1
  else s1

/-- GO starts a boot (R507, R508, R516): UP = 1, IDLE or FAILED, and power state RUN or TRIM. -/
def bootMayStart (s : State) : Bool :=
  s.rst.phase == .up && (s.boot.state == 0 || s.boot.state == 4) && pwrState s ≤ 1 && s.fuses.now != 5

/-- A write of BOOTCTL (R517). -/
def writeBootctl (v : W64) (s : State) : State :=
  if s.fuses.now = 5 then s
  else
    let s1 := setBoot { s.boot with port := bitAt 1 v, addr := v.extractLsb' 7 45 } s
    if bitAt 0 v && bootMayStart s1 then bootStart s1.boot.port s1.boot.addr s1 else s1

/-- The state accepts only signed images; the use that the key needs (R516). -/
def bootNeeds (s : State) : Option (KeySlot → Bool) :=
  match s.fuses.now with
  | 0 => none
  | 1 => none
  | 2 => if s.fuses.keys.any (fun k => k.live && k.boot) then some (fun k => k.boot) else none
  | 4 => some (fun k => k.rma)
  | _ => some (fun k => k.boot)

/-- The slot whose digest a public key has, of those that `use` admits. -/
def keySlotFor (s : State) (use : KeySlot → Bool) (qx qy : List Byte) : Option (Fin 4) :=
  let d := BitVec.ofNat 384 (beNat (sha384 (qx ++ qy)))
  fours.find? (fun i => let k := s.fuses.keys.get i; k.live && use k && k.digest == d)

def slice (l : List Byte) (from_ n : Nat) : List Byte := (l.drop from_).take n

def hdrLen (h : List Byte) : Nat := leNat (slice h 4 4)
def hdrEntry (h : List Byte) : Nat := leNat (slice h 8 8)
def hdrSvn (h : List Byte) : Nat := leNat (slice h 2 1)

/-- The fields of an image header are as R506 lays down; an SVN above 63 is a wrong field (DEDUCED, notes/assumptions/70.md). -/
def hdrOk (h : List Byte) : Bool :=
  leNat (slice h 0 2) == 0xB0D1 && hdrSvn h ≤ 63 && leNat (slice h 3 1) == 0 && (slice h 16 48).all (fun b => b == 0) &&
  hdrLen h % 64 == 0 && 64 ≤ hdrLen h && hdrLen h ≤ 4182016 && hdrEntry h < hdrLen h && hdrEntry h % 16 < 6

def lineToBytes (d : Line) : List Byte := bytesLE d.toNat 64

/-- Physical address of the secure rows in the window (R507 step 6). -/
def secureBase (s : State) : Nat := s.vs.base.toNat * 2 ^ 26 + 0x03BD3000

/-- Starts the copy of the payload on channel 63 (R507 step 4). -/
def bootCopy (s : State) : State :=
  let k := s.chan 63
  let k1 := { k with
    fixs := false, fixd := false, esize := 3
    src := BitVec.ofNat 52 (imageAddr s.boot.cur.2 + 256), dst := BitVec.ofNat 52 (secureBase s), len := BitVec.ofNat 32 (hdrLen s.boot.hdr) }
  dmaStartChan 63 (setChan 63 k1 (setBoot { s.boot with step := .copy, msg := [] } s))

/-- A halt of channel 63 ends the copy with cause 0x1 (R507, R510). -/
def bootWatch (s : State) : State :=
  if s.boot.step == .copy && (s.chan 63).st == .halted then bootFail 1 s else s

/-- The header has arrived (R507 steps 2 and 3). -/
def bootHeader (code : RspCode) (h : List Byte) (s : State) : State :=
  if code != .okay then bootFail 1 s
  else
    let s1 := setBoot { s.boot with hdr := h, svn := BitVec.ofNat 6 (hdrSvn h) } s
    if !hdrOk h then bootFail 2 s1
    else if hdrSvn h < s1.fuses.minsvn.toNat then bootFail 3 s1
    else match bootNeeds s1 with
      | none => bootWatch (bootCopy s1)
      | some use => match keySlotFor s1 use (slice h 64 48) (slice h 112 48) with
        | none => bootFail 4 s1
        | some i => bootWatch (bootCopy (setBoot { s1.boot with keyslot := BitVec.ofFin i } s1))

/-- The signature of the image verifies over header bytes 0 to 159 followed by the payload (R506). -/
def bootSignatureOk (b : Boot) : Bool :=
  ecVerify (beNat (slice b.hdr 64 48)) (beNat (slice b.hdr 112 48)) (beNat (slice b.hdr 160 48)) (beNat (slice b.hdr 208 48))
    (b.hdr.take 160 ++ b.msg)

/-- A boot passes (R507 step 6), and C0 starts. -/
def bootPass (s : State) : State :=
  let b := s.boot
  let entry := BitVec.ofNat 48 (secureBase s + hdrEntry b.hdr)
  let s1 := setBoot { b with state := 3, signed := (bootNeeds s).isSome, step := .none, passed := some b.cur } s
  startCores (setRst { s1.rst with bootvec := s1.rst.bootvec.set 0 entry, run := s1.rst.run ||| 1 } s1)

/-- The check of the signature ends (R507 steps 5 and 6). -/
def bootVerified (s : State) : State :=
  if (bootNeeds s).isSome && !bootSignatureOk s.boot then bootFail 5 (setBoot { s.boot with signed := true } s) else bootPass s

/-- The boot of R508 after a warm reset, in the power states that R516 admits. -/
def bootAgain (s : State) : State :=
  match s.boot.passed with
  | some (port, addr) => if s.fuses.now = 5 || pwrState s ≥ 2 then s else bootStart port addr s
  | none => s

/-! ## Debug authentication (R511 to R513) -/

/-- The level a lifecycle state grants without a signature, and whether a DEBUG key reaches further (R516). -/
def freeLevel (s : State) : Nat := if s.fuses.now = 3 || s.fuses.now = 5 then 0 else 2
def keyReaches (s : State) : Bool := s.fuses.now == 3

/-- A refusal (R512). -/
def authRefuse (s : State) : State :=
  let a := s.auth
  let n := Nat.min 8 (a.fails.toNat + 1)
  setAuth { a with run := none, denied := true, fails := BitVec.ofNat 4 n, lock := a.lock || n == 8 } s

/-- A level is granted (R513). -/
def authGrant (l : BitVec 2) (byRma : Bool) (s : State) : State :=
  let s1 := setLevel l byRma s
  setAuth { s1.auth with run := none, denied := false } s1

/-- The signed message of R511. -/
def authMessage (req : BitVec 2) (s : State) : List Byte :=
  bytesBE s.auth.chal.toNat 48 ++ bytesLE s.fuses.uid0.toNat 8 ++ bytesLE s.fuses.uid1.toNat 8 ++
  [req.zeroExtend 8, s.fuses.now.zeroExtend 8]

/-- Key and signature of a request above the unauthenticated limit. -/
def authCheck (req : BitVec 2) (s : State) : AuthRun :=
  let f (i : Nat) : List Byte := wordsToBytes s.auth.resp (6 * i) 6
  match keySlotFor s (fun k => k.debug) (f 0) (f 1) with
  | some i =>
    if keyReaches s then ⟨req, i, ecVerify (beNat (f 0)) (beNat (f 1)) (beNat (f 2)) (beNat (f 3)) (authMessage req s), false⟩
    else ⟨req, i, false, false⟩
  | none => ⟨req, 0, false, false⟩

/-- DBGAUTH.GO (R511, R512). -/
def authGo (req : BitVec 2) (s : State) : State :=
  if s.auth.run.isSome then s
  else
    let run := authCheck req s
    let s1 := freshChallenge s
    if req = 3 then authRefuse s1
    else if req.toNat ≤ freeLevel s1 then authGrant req false s1
    else if s1.auth.lock then authRefuse s1
    else setAuth { s1.auth with run := some run } s1

/-- A write of DBGAUTH, accepted from Weado only (R511, R517). -/
def writeDbgauth (who : Requester) (v : W64) (s : State) : State :=
  if who != .weado then s
  else
    let s1 := if bitAt 4 v then setAuth { s.auth with denied := false } s else s
    if bitAt 2 v then authGo (v.extractLsb' 0 2) s1 else s1

/-- A verification ends (R511, R512, R518). -/
def authDone (r : AuthRun) (s : State) : State :=
  if r.discard then setAuth { s.auth with run := none } s
  else if r.ok then authGrant r.req (s.fuses.keys.get r.slot).rma s
  else authRefuse s

/-- The level drops to NONE, and a verification that runs is discarded (R518, R550). -/
def tamperLevel (s : State) : State :=
  let s1 := setLevel 0 false s
  setAuth { s1.auth with run := s1.auth.run.map (fun r => { r with discard := true }) } s1

/-! ## Registers (R517) -/

def lcstatWord (s : State) : W64 :=
  BitVec.ofNat 64 (s.fuses.now.toNat + b2n (fuseBusy s) * 8 + s.auth.level.toNat * 16 + s.fuses.minsvn.toNat * 64 +
    s.auth.fails.toNat * 2 ^ 12 + b2n s.auth.lock * 2 ^ 16)

def lccmdWord (s : State) : W64 := BitVec.ofNat 64 (b2n s.fuses.lcErr * 2 ^ 13)

def bootctlWord (s : State) : W64 := BitVec.ofNat 64 (2 * b2n s.boot.port + s.boot.addr.toNat * 2 ^ 7)

def bootstatWord (s : State) : W64 :=
  let b := s.boot
  BitVec.ofNat 64 (b.state.toNat + 8 * b2n b.signed + b.cause.toNat * 16 + b.svn.toNat * 2 ^ 8 + b.keyslot.toNat * 2 ^ 14)

def dbgauthWord (s : State) : W64 := BitVec.ofNat 64 (8 * b2n s.auth.run.isSome + 16 * b2n s.auth.denied)

def chalWord (s : State) (i : Nat) : W64 := BitVec.ofNat 64 (leNat (slice (bytesBE s.auth.chal.toNat 48) (8 * i) 8))

def KeySlot.word (k : KeySlot) : W64 :=
  BitVec.ofNat 64 (b2n k.prog + 2 * b2n k.boot + 4 * b2n k.debug + 8 * b2n k.rma + 16 * b2n k.revoked)

/-- KEYCMD.BUSY reads 1 while a KEYCMD runs (R505). -/
def keycmdWord (s : State) : W64 :=
  let busy := match s.fuses.op with
    | some (.program _ _ _) => true
    | some (.uid _ _) => true
    | some (.revoke _) => true
    | _ => false
  BitVec.ofNat 64 (b2n s.fuses.keyErr * 2 ^ 8 + b2n busy * 2 ^ 9)

def writeKeydata (who : Requester) (i : Nat) (v : W64) (s : State) : State :=
  if lcMayWrite who s then setFuses { s.fuses with keydata := Tab.set 0 s.fuses.keydata i v } s else s

def writeDbgresp (who : Requester) (i : Nat) (v : W64) (s : State) : State :=
  if who = .weado then setAuth { s.auth with resp := Tab.set 0 s.auth.resp i v } s else s

end Sys2Proof.Machine
end

