-- ==== Sys2Proof/Machine/Power.lean ====
section
/-! DEFINITION. Power states, the supply handshake, the input-bus supervisor and the hold-up flush (spec/18_power_states.md). -/

namespace Sys2Proof.Machine

def setPwr (p : Power) (s : State) : State := { s with pwr := p }

/-- AOCLK cycles in a microsecond (R26, 50 MHz). -/
def aoPerUs : Nat := 50

/-! ## Entry conditions (R486) -/

/-- A core allows NAP: waiting with nothing deliverable, held with RUN = 0, in LOCKUP, or halted (R486, R525). -/
def napCore (s : State) (c : CoreId) : Bool :=
  match (s.core c).st with
  | .off => true
  | .locked => true
  | .halted => true
  | .waiting => (selectSource s c).isNone
  | .idle => (selectSource s c).isNone
  | .switching => false
  | .running => false

def napReady (s : State) : Bool :=
  fours.all (napCore s) && !anyChain s && !anyQueued s && !anyDmaRunning s && !s.cal.running

/-- The pending request may be served now. -/
def entryReady (s : State) : Bool :=
  let p := s.pwr
  match p.state.toNat, p.req.toNat with
  | 0, 1 => pipeCount (pipesHeld s % 16) ≤ 2
  | 0, 2 => napReady s
  | 1, 2 => napReady s
  | 0, 3 => napReady s && !s.rings.en
  | 0, 4 => napReady s && !s.rings.en
  | 1, 0 => true
  | _, _ => false

/-! ## Transitions (R484, R486 to R492) -/

/-- The code of PWR.REQ for a state (R488, R492). -/
def reqCode (target : Nat) (s : State) : BitVec 3 :=
  if dbgLevel s != 0 && (target = 2 || target = 3) then BitVec.ofNat 3 (target + 3) else BitVec.ofNat 3 target

/-- PWR.REQ changes, and a toggle of PWR.ACK is awaited. -/
def driveReq (target : BitVec 3) (up : Bool) (s : State) : State :=
  setPwr { s.pwr with out := reqCode target.toNat s, reqAt := s.log.aotime, told := false, step := .ack target up } s

/-- The write-back and invalidation of the caches on entry to DOZE (R484). -/
def dozeCaches (s : State) : State :=
  let s1 := fours.foldl (fun s c =>
    withCore c (fun k => { k with dcache := [], icache := [], tlb := [], wcache := [], code := none }) (flushDcache c s)) s
  setEng { s1.eng with tlb := [] } s1

/-- The entry into OFF: what R484 keeps is what a cold reset keeps. -/
def enterOff (s : State) : State :=
  let s1 := coldClear s.rst.cause (wrapCut s)
  { s1 with
    rst := { s1.rst with phase := .off }
    pwr := { s1.pwr with state := 4, req := 4, out := 4 } }

/-- On exit from DOZE, every EMP channel present retrains and is tagged LIGHT, and a qualification pass is due (R491). -/
def dozeRetrain (s : State) : State :=
  let s1 := retrainBegin .emp0 (setCal (setTag .emp0 false s.cal) s)
  let s2 := if emp1Present s1 then retrainBegin .emp1 (setCal (setTag .emp1 false s1.cal) s1) else s1
  setCal { s2.cal with wanted := true } s2

/-- Arrivals that DOZE held are counted once the hub runs again (R487). -/
def deliverHeld (s : State) : State :=
  s.pwr.heldArr.foldl (fun s n => arrive n s) (setPwr { s.pwr with heldArr := [] } s)

/-- A state is in force: the transition has ended. -/
def stateInForce (target : BitVec 3) (s : State) : State :=
  if target = 4 then enterOff s
  else
    let p := s.pwr
    let s1 := setPwr { p with
      state := target, emul := p.out == 5 || p.out == 6, step := .idle, wake := p.wake && (target == 2 || target == 3)
      before := if target = 2 then p.state else p.before
      asked := p.asked && p.req != target } s
    let s2 := if p.state = 3 && target != 3 then dozeRetrain (deliverHeld s1) else s1
    -- the boot of R508 that a warm reset left waiting for RUN or TRIM (R516)
    if target.toNat ≤ 1 && p.state.toNat ≥ 2 && s2.boot.state = 0 && s2.rst.phase = .up then bootAgain s2 else s2

/-- The tile leaves NAP for the state held before it, or DOZE for RUN (R487, R488). -/
def wakeUp (s : State) : State := driveReq (if s.pwr.state = 2 then s.pwr.before else 0) true s

/-- A wake-up of this tile, told to the partner of a fused pair (R487). The model's control word for it carries code 7. -/
def wakeBoth (s : State) : State := wakeUp (sendPair (.power 7) s)

/-- A transition to a lower state begins with the tile's part; one to a higher state with PWR.REQ. -/
def startTransition (s : State) : State :=
  let t := s.pwr.req
  let s1 := setPwr { s.pwr with asked := false, wake := false } s
  if t.toNat < s.pwr.state.toNat then driveReq t true s1
  else
    let s2 := if t = 3 then dozeCaches s1 else s1
    setPwr { s2.pwr with step := .part t false } s2

/-- Something that ends NAP or DOZE has occurred (R487, R525). -/
def wakeDue (s : State) : Bool :=
  let p := s.pwr
  p.step == .idle &&
  ((p.state == 2 && (p.wake || fours.any (fun c => (selectSource s c).isSome || ((s.core c).dbg.haltreq && dbgLevel s == 2)))) ||
   (p.state == 3 && (p.wake || (p.emul && fours.any (fun c => (s.core c).dbg.haltreq && dbgLevel s == 2)) ||
     p.heldArr.any endsDoze)))

/-! ## The hold-up flush (R494 to R496) -/

/-- The tile holds a role that the flush gives up. -/
def holdsRole (s : State) : Bool := s.role.role == .manager || s.role.role == .deputy || s.role.role == .worker

/-- The flush runs: PWR_FLUSH arrives, launch stops, chains suspend and channels halt (R494 steps 1 and 2). -/
def flushBegin (presence : Bool) (s : State) : State :=
  let budget := Nat.max 1 s.supv.budget.toNat
  let stage : FlushStage := if holdsRole s then .working else .draining false
  let s1 := setPwr { s.pwr with flush := some ⟨s.log.aotime, budget, presence, stage⟩, flushDue := none } s
  dmaFlush (flushChains (arrive srcPwrFlush s1))

/-- FLUSH trips or the sled is pulled (R493, R494, R496, R549). -/
def flushTrip (presence : Bool) (s : State) : State :=
  if s.pwr.flush.isSome || s.pwr.flushDue.isSome then s
  else if s.pwr.step != .idle then setPwr { s.pwr with flushDue := some presence } s
  else if s.pwr.state = 2 || s.pwr.state = 3 then wakeUp (setPwr { s.pwr with flushDue := some presence } s)
  else flushBegin presence s

/-- After a transition, a flush that has tripped starts, leaving NAP or DOZE first (R496). -/
def flushAfter (s : State) : State :=
  match s.pwr.flushDue with
  | none => s
  | some presence => if s.pwr.state = 2 || s.pwr.state = 3 then wakeUp s else flushBegin presence s

/-- Step 4 of the flush (R494). -/
def flushStep4 (done : Bool) (f : Flush) (s : State) : State :=
  let s1 := setPwr { s.pwr with flush := some { f with stage := .draining done } } s
  if holdsRole s then enterFenced 4 true s1 else s1

/-- Step 5 of the flush: the log record, then OFF or a warm reset that has waited (R494, R518, R553, R556). -/
def flushEnd (done : Bool) (f : Flush) (s : State) : State :=
  let detail : Nat := if f.presence then 2 else b2n done
  let s1 := logRecord 0x0C unitSec 0 (BitVec.ofNat 64 detail) false (setPwr { s.pwr with flush := none } s)
  -- a tile held in cold reset stays there (R7)
  if s1.pwr.autooff && s1.pwr.state != 4 && s1.rst.phase != .cold then setPwr { s1.pwr with step := .part 4 false } s1
  else match s1.rst.warmDue with
    | some c => warmReset c true (setRst { s1.rst with warmDue := none } s1)
    | none => s1

/-! ## Requests (R486, R498) -/

/-- A write of PWRCTL.REQ; with `relay`, a fused partner is told (R486, R487). -/
def pwrRequest (r : BitVec 3) (relay : Bool) (s : State) : State :=
  let p := s.pwr
  let s0 := setPwr { p with wake := true } s
  if r.toNat > 4 || (r.toNat ≥ 3 && holdsRole s) || p.flush.isSome || p.flushDue.isSome then
    setPwr { s0.pwr with err := true } s0
  else
    let s1 := setPwr { s0.pwr with req := r, asked := !(p.step == .idle && (p.state == r)) } s0
    if relay then sendPair (.power r) s1 else s1

/-- FLUSHDONE ends step 3 (R494). -/
def flushDone (s : State) : State :=
  match s.pwr.flush with
  | some f => if f.stage = .working then flushStep4 true f s else s
  | none => s

/-- A write of PWRCTL (R498). -/
def writePwrctl (v : W64) (s : State) : State :=
  let p := s.pwr
  let s1 := setPwr { p with err := p.err && !bitAt 3 v, autooff := bitAt 5 v, acktmo := v.extractLsb' 16 16 } s
  let s2 := if bitAt 4 v then flushDone s1 else s1
  pwrRequest (v.extractLsb' 0 3) true s2

def pwrctlWord (s : State) : W64 :=
  let p := s.pwr
  BitVec.ofNat 64 (p.req.toNat + 8 * b2n p.err + 32 * b2n p.autooff + p.acktmo.toNat * 2 ^ 16)

def pwrstatWord (s : State) : W64 :=
  let p := s.pwr
  BitVec.ofNat 64 (p.state.toNat + 8 * b2n p.emul + 16 * b2n (p.asked || p.step != .idle) + 32 * b2n p.ackerr + 64 * b2n p.goodlost +
    128 * b2n p.flush.isSome)

/-- PWRSTAT's W1C fields (R498). -/
def writePwrstat (v : W64) (s : State) : State :=
  setPwr { s.pwr with ackerr := s.pwr.ackerr && !bitAt 5 v, goodlost := s.pwr.goodlost && !bitAt 6 v } s

/-! ## The supervisor (R493, R498, R499) -/

/-- A threshold as it acts: none when disabled. -/
def threshold (t : BitVec 12) : Option Nat := if t = 0 then none else some (Nat.min 3000 (Nat.max 240 t.toNat))

def Supv.need (u : Supv) : Nat := Nat.max 1 u.filt.toNat

/-- One comparison through the FILT filter: whether it is tripped, and the run of samples against its present state. -/
def filterStep (meets tripped : Bool) (n need : Nat) : Bool × Nat :=
  if meets == tripped then (tripped, 0) else if n + 1 ≥ need then (!tripped, 0) else (tripped, n + 1)

/-- A sample of the sled bus (R493). -/
def vbusSample (v : BitVec 12) (s : State) : State :=
  let u := { s.supv with vbus := v, valid := true, minv := if v.toNat < s.supv.minv.toNat then v else s.supv.minv }
  if !u.en then { s with supv := u }
  else
    let below (t : BitVec 12) : Bool := match threshold t with
      | some x => v.toNat < x
      | none => false
    let above : Bool := match threshold u.overv with
      | some x => v.toNat > x
      | none => false
    let (low, nw) := filterStep (below u.warn) u.low u.nWarn u.need
    let (under, nf) := filterStep (below u.flush) u.under u.nFlush u.need
    let (high, no) := filterStep above u.high u.nOver u.need
    let s1 := { s with supv := { u with low := low, under := under, high := high, nWarn := nw, nFlush := nf, nOver := no } }
    let s2 := if low && !u.low then arrive srcSupvWarn s1 else s1
    let s3 := if high && !u.high then logRecord 0x0B unitSec 0 (v.zeroExtend 64) true (arrive srcSupvWarn s2) else s2
    if under && !u.under then flushTrip false s3 else s3

def supvcfgWord (s : State) : W64 :=
  let u := s.supv
  BitVec.ofNat 64 (u.warn.toNat + u.flush.toNat * 2 ^ 12 + u.overv.toNat * 2 ^ 24 + u.filt.toNat * 2 ^ 36 + b2n u.en * 2 ^ 40)

def writeSupvcfg (v : W64) (s : State) : State :=
  { s with supv := { s.supv with
      warn := v.extractLsb' 0 12, flush := v.extractLsb' 12 12, overv := v.extractLsb' 24 12, filt := v.extractLsb' 36 4, en := bitAt 40 v } }

def supvstatWord (s : State) : W64 :=
  let u := s.supv
  BitVec.ofNat 64 (u.vbus.toNat + b2n u.valid * 2 ^ 12 + b2n u.low * 2 ^ 13 + b2n u.high * 2 ^ 14 + u.minv.toNat * 2 ^ 16)

def writeSupvstat (v : W64) (s : State) : State := { s with supv := { s.supv with minv := v.extractLsb' 16 12 } }

def writeFlushcfg (v : W64) (s : State) : State := { s with supv := { s.supv with budget := v.truncate 16 } }

/-- The telemetry word on TM.OUT (R497). -/
def tmWord (s : State) : BitVec 32 :=
  BitVec.ofNat 32 (s.pwr.state.toNat + 8 * b2n s.pwr.emul + 16 * b2n s.pwr.flush.isSome + 32 * b2n (throttleOn s) +
    s.cal.band.toNat * 64 + pipesHeld s % 16 * 2 ^ 16)

end Sys2Proof.Machine
end

