-- ==== Sys2Proof/Machine/Panel.lean ====
section
/-! DEFINITION. The service panel, evacuation, presence, tamper and the watchdogs (spec/21_service_reliability.md). -/

namespace Sys2Proof.Machine

def setPanel (p : Panel) (s : State) : State := { s with panel := p }

/-! ## Evacuation (R546 to R548) -/

/-- A press, or a write of PNLCTL.EVAC (R546). -/
def press (s : State) : State :=
  let p := s.panel
  let s1 := setPanel (if p.evac = 0 then { p with presses := satInc p.presses, evac := 1, since := s.log.aotime, told := false }
    else { p with presses := satInc p.presses }) s
  arrive srcPanelAttn s1

/-- PNLCTL.CANCEL (R547). -/
def cancelEvac (s : State) : State := setPanel { s.panel with evac := 0 } s

/-- The first four conditions of R547. -/
def evacQuiet (s : State) : Bool :=
  (s.role.role == .spare || s.role.role == .fenced) && !anyChain s && !anyQueued s && !anyDmaRunning s && !responsesDue s &&
  s.pwr.flush.isNone

/-- OFF has been requested and is not yet in force. -/
def offAsked (s : State) : Bool :=
  (s.pwr.req == 4 && s.pwr.asked) || (match s.pwr.step with
    | .part 4 _ => true
    | .ack 4 _ => true
    | _ => false)

/-- What the panel does in MIGRATING once the tile is quiet (R547): it requests OFF, or reaches SAFE. -/
def evacStep (s : State) : Option State :=
  if s.panel.evac != 1 || !evacQuiet s then none
  else if !s.panel.evacoff || s.pwr.state = 4 then some (setPanel { s.panel with evac := 2 } s)
  else if offAsked s then none
  else some (pwrRequest 4 true s)

/-- AOCLK cycles in a second. -/
def aoPerSecond : Nat := 50000000

def evacTimeoutDue (s : State) : Bool :=
  s.panel.evac == 1 && s.panel.evactmo != 0 && !s.panel.told &&
  s.log.aotime.toNat - s.panel.since.toNat ≥ s.panel.evactmo.toNat * aoPerSecond

def evacTimeout (s : State) : State :=
  logRecord 0x11 unitSec 0 (BitVec.ofNat 64 (roleNum s.role.role)) true
    (setPanel { s.panel with fcause := s.panel.fcause ||| 8, told := true } s)

/-! ## Presence and tamper (R549, R550) -/

/-- PNL.PRES has fallen (R549). -/
def presenceLost (s : State) : State :=
  let s1 := arrive srcPanelPresence (setPanel { s.panel with pres := false } s)
  if s.panel.evac = 2 then s1
  else
    let s2 := setPanel { s1.panel with surprise := true, evac := 0 } s1
    flushTrip true (logRecord 0x10 unitSec 0 (BitVec.ofNat 64 (roleNum s.role.role)) false s2)

def presenceGained (s : State) : State := arrive srcPanelPresence (setPanel { s.panel with pres := true, evac := 0 } s)

/-- PNL.TAMPER has risen (R550). -/
def tamperTrip (s : State) : State :=
  let s1 := tamperLevel (wipeTrip s)
  let s2 := arrive srcPanelTamper (setPanel { s1.panel with tamper := true, tampered := true } s1)
  logRecord 0x0F unitSec 0 (s.fuses.now.zeroExtend 64) true s2

/-! ## Indicators (R545) -/

/-- How a lamp is driven: 0 off, 1 steady, 2 blinking. -/
def lampAttention (s : State) : Nat := if s.panel.evac = 1 then 2 else if s.panel.evac = 2 then 1 else 0
def lampFault (s : State) : Nat := b2n (s.panel.fwfault || s.panel.fcause != 0 || s.id.paramerr)
def lampLocate (s : State) : Nat := if s.panel.locate = 1 then 1 else if s.panel.locate = 2 then 2 else 0

/-! ## Watchdogs (R551) -/

def coreWdCounts (s : State) (c : CoreId) : Bool :=
  (s.wds.get c).en && s.rst.run.getLsbD c.val && pwrState s ≤ 1 && !cwdFrozen s c

def tileWdCounts (s : State) : Bool := s.twd.en && pwrState s ≤ 3 && !twdFrozen s

def Wdog.reload (w : Wdog) : Wdog := { w with remain := BitVec.ofNat 24 w.ticks, warned := false }
def Wdog.count (w : Wdog) : Wdog := if w.remain = 0 then w else { w with remain := w.remain - 1 }

/-- A tick of WDCLK (R551). -/
def wdTick (s : State) : State :=
  { s with
    wds := fours.foldl (fun (q : Quad Wdog) c => if coreWdCounts s c then q.set c (q.get c).count else q) s.wds
    twd := if tileWdCounts s then s.twd.count else s.twd }

/-- The warning falls due: REMAIN has reached PERIOD div 4. -/
def Wdog.warns (w : Wdog) : Bool := !w.warned && w.remain.toNat ≤ w.ticks / 4

def coreWdWarn (c : CoreId) (s : State) : State :=
  arrive (srcWdtWarn c) { s with wds := s.wds.set c { s.wds.get c with warned := true } }

def tileWdWarn (s : State) : State := arrive srcTwdtWarn { s with twd := { s.twd with warned := true } }

/-- A core watchdog expires (R551). -/
def coreWdExpire (c : CoreId) (s : State) : State :=
  let w := s.wds.get c
  let s1 := { s with wds := s.wds.set c { w.reload with expired := true } }
  let s2 := coreResetOne c (logRecord 0x0D unitSec 0 (BitVec.ofNat 64 c.val) true s1)
  if w.restart then writeRun (s2.rst.run ||| BitVec.ofNat 4 (2 ^ c.val)) s2 else s2

/-- The tile watchdog expires (R551, R556). -/
def tileWdExpire (s : State) : State :=
  let s1 := { s with twd := { s.twd.reload with expired := true }, panel := { s.panel with fcause := s.panel.fcause ||| 2 } }
  warmResetAfterFlush 5 (logRecord 0x0E unitSec 0 0 true s1)

/-! ## Registers (R554) -/

def Wdog.word (w : Wdog) (tile : Bool) : W64 :=
  BitVec.ofNat 64 (b2n w.en + 2 * b2n w.lock + 8 * b2n (w.restart && !tile) + 16 * b2n w.expired + w.period.toNat * 2 ^ 8 + w.remain.toNat * 2 ^ 32)

/-- A write of WDCTL.c or TWDCTL (R554). -/
def Wdog.write (w : Wdog) (v : W64) (tile : Bool) : Wdog :=
  let w1 := if w.lock then w else { w with en := bitAt 0 v, period := v.extractLsb' 8 24 }
  let w2 := { w1 with lock := w.lock || bitAt 1 v, restart := if tile then false else bitAt 3 v, expired := w.expired && !bitAt 4 v }
  if bitAt 2 v then w2.reload else w2

def pnlcfgWord (s : State) : W64 := BitVec.ofNat 64 (b2n s.panel.evacoff + s.panel.evactmo.toNat * 2 ^ 8)
def writePnlcfg (v : W64) (s : State) : State := setPanel { s.panel with evacoff := bitAt 0 v, evactmo := v.extractLsb' 8 16 } s

def pnlstatWord (s : State) : W64 :=
  let p := s.panel
  BitVec.ofNat 64 (b2n p.attn + 2 * b2n p.pres + 4 * b2n p.tamper + p.evac.toNat * 8 + 32 * b2n p.surprise + 64 * b2n p.tampered +
    p.fcause.toNat * 2 ^ 8 + p.presses.toNat * 2 ^ 16)

def writePnlstat (v : W64) (s : State) : State :=
  let p := s.panel
  setPanel { p with
    surprise := p.surprise && !bitAt 5 v, tampered := p.tampered && !bitAt 6 v, fcause := p.fcause &&& ~~~ v.extractLsb' 8 4 } s

def pnlctlWord (s : State) : W64 := BitVec.ofNat 64 (s.panel.locate.toNat * 4 + 16 * b2n s.panel.fwfault)

/-- A write of PNLCTL (R554): EVAC, then CANCEL. -/
def writePnlctl (v : W64) (s : State) : State :=
  let s1 := setPanel { s.panel with locate := v.extractLsb' 2 2, fwfault := bitAt 4 v } s
  let s2 := if bitAt 0 v then press s1 else s1
  if bitAt 1 v then cancelEvac s2 else s2

/-- A word of the error log (R552). -/
def logWord (s : State) (i j : Nat) : W64 :=
  let r := Tab.get logRec0 s.log.slots i
  match j with
  | 0 => r.l0
  | 1 => r.l1
  | 2 => r.l2
  | _ => r.l3

end Sys2Proof.Machine
end

