-- ==== Sys2Proof/Machine/Wrapper.lean ====
section
/-! DEFINITION. The production test wrapper: instructions, boundary register, bank MBIST and repair fuses
(spec/22_test_wrapper.md). -/

namespace Sys2Proof.Machine

def setWrap (w : Wrapper) (s : State) : State := { s with wrap := w }

/-- Cells of the boundary register (R562). -/
def wbrCells : Nat := 33272

/-- The test instructions (R560). -/
def isTestCode (n : Nat) : Bool := n == 1 || n == 2 || n == 3 || n == 5 || n == 8 || n == 9

/-- R560: an update of a test instruction may take effect. -/
def testAllowed (s : State) : Bool :=
  (s.fuses.now == 0 || s.fuses.now == 1 || s.fuses.now == 4) && s.role.role == .spare

/-- The first test instruction: WIPE_PENDING is set and every core is held as RUN = 0 holds it (R561). -/
def testHold (s : State) : State :=
  if s.wrap.hold then s
  else
    let s1 := fours.foldl (fun s c => orphanEntries c (clearCore c s)) (bootWiped (wipeTrigger s))
    setWrap { s1.wrap with hold := true } s1

/-- What a capture of the WIR returns (R560). -/
def wirCapture (s : State) : BitVec 4 := BitVec.ofNat 4 (s.fuses.now.toNat + 8 * b2n s.wrap.refused)

/-- A scan of the WIR: the capture that goes before the shift (R557, R560), then the update (R559, R560). -/
def wirUpdate (code : Nat) (s0 : State) : State :=
  let s := setWrap { s0.wrap with wirCap := wirCapture s0 } s0
  if isTestCode code then
    if testAllowed s then
      let s1 := testHold s
      setWrap { s1.wrap with wir := BitVec.ofNat 4 code, refused := false } s1
    else setWrap { s.wrap with wir := 0, refused := true } s
  else setWrap { s.wrap with wir := BitVec.ofNat 4 code, refused := false } s

/-- An update of the boundary register with the cells shifted in, where the instruction in the WIR selects it (R559). -/
def wbrUpdate (cells : List (Nat × Bool)) (s : State) : State :=
  if s.wrap.wir = 1 || s.wrap.wir = 2 || s.wrap.wir = 4 then
    setWrap { s.wrap with
      wbr := cells.foldl (fun t c => if c.1 < wbrCells then Tab.set false t c.1 c.2 else t) s.wrap.wbr } s
  else s

def capture (v : W64) (s : State) : State := setWrap { s.wrap with cap := v } s

/-! ## MBIST (R563, R564) -/

def mbistBanks : Nat := 1024

def mbistWord (s : State) : W64 :=
  let w := s.wrap
  let bankFail := match w.lastRun with
    | some r => Config.mbistFails r w.banksel.toNat
    | none => false
  BitVec.ofNat 64 (w.algo.toNat + 8 * b2n w.mbusy + 16 * b2n w.done + 32 * b2n w.fail + w.banksel.toNat * 64 + b2n bankFail * 2 ^ 16 +
    w.nfail.toNat * 2 ^ 17)

/-- An update of WMBIST: the RW fields, and START (R564, R568). The test leaves the bank contents unpredictable (R563). -/
def mbistUpdate (v : W64) (s : State) : State :=
  let w := { s.wrap with algo := v.extractLsb' 0 2, banksel := v.extractLsb' 6 10 }
  if bitAt 2 v && !w.mbusy && w.algo != 3 && w.rbusy.isNone then
    let s1 := setWrap { w with mbusy := true, done := false, fail := false, nfail := 0, runs := w.runs + 1 } s
    setVs { s1.vs with mem := ⟨some (w.runs + 1), [], []⟩ } s1
  else setWrap w s

/-- The test ends (R563, R564). -/
def mbistEnd (s : State) : State :=
  let w := s.wrap
  let n := ((List.range mbistBanks).filter (fun b => Config.mbistFails w.runs b)).length
  setWrap { w with mbusy := false, done := true, fail := n != 0, nfail := BitVec.ofNat 11 n, lastRun := some w.runs } s

/-- WRSTN = 0 (R558, R568). -/
def wrstn (s : State) : State :=
  setWrap { s.wrap with wir := 0, refused := false, mbusy := false, done := if s.wrap.mbusy then false else s.wrap.done } s

/-! ## Repair fuses (R565 to R567) -/

def fuseValid (f : BitVec 16) : Bool := f.getLsbD 10
def State.fuseOf (s : State) (n : Nat) : BitVec 16 := Tab.get 0 s.wrap.fuses n

def wrepairWord (s : State) : W64 :=
  let w := s.wrap
  BitVec.ofNat 64 (w.lbank.toNat + w.spare.toNat * 2 ^ 10 + b2n w.rbusy.isSome * 2 ^ 13 + b2n w.rerr * 2 ^ 14)

/-- PROGRAM is refused (R567). -/
def fuseRefused (lbank : BitVec 10) (spare : BitVec 2) (s : State) : Bool :=
  s.wrap.rbusy.isSome || spare == 3 || s.fuseOf spare.toNat != 0 || lbank.toNat > 1020 ||
  [0, 1, 2].any (fun n => fuseValid (s.fuseOf n) && (s.fuseOf n).truncate 10 == lbank) ||
  (match s.wrap.lastRun with
    | some r => Config.mbistFails r (1021 + spare.toNat)
    | none => false)

/-- An update of WREPAIR (R566, R567). -/
def wrepairUpdate (v : W64) (s : State) : State :=
  let lb : BitVec 10 := v.extractLsb' 0 10
  let sp : BitVec 2 := v.extractLsb' 10 2
  let w := { s.wrap with lbank := lb, spare := sp }
  if !bitAt 12 v then setWrap w s
  else if fuseRefused lb sp s then setWrap { w with rerr := true } s
  else setWrap { w with rerr := false, rbusy := some (sp, lb) } s

/-- LBANK and VALID of the entry are blown (R567). -/
def fuseBlown (n : BitVec 2) (lb : BitVec 10) (s : State) : State :=
  setWrap { s.wrap with
    rbusy := none, fuses := Tab.modify 0 s.wrap.fuses n.toNat (fun f => f ||| lb.zeroExtend 16 ||| BitVec.ofNat 16 (2 ^ 10)) } s

/-- The 48 bits of WFUSERD (R559). -/
def fuserdWord (s : State) : W64 :=
  BitVec.ofNat 64 ((s.fuseOf 0).toNat + (s.fuseOf 1).toNat * 2 ^ 16 + (s.fuseOf 2).toNat * 2 ^ 32)

end Sys2Proof.Machine
end

