-- ==== Sys2Proof/Machine/RegMap.lean ====
section
/-! DEFINITION. The set-up window: what every register of R569 reads as, what a read that is not a peek changes, and what a write
does (spec/23_register_map.md and the register rules it names). -/

namespace Sys2Proof.Machine

/-! ## Counters of 48 bits -/

def Count48.word (c : Count48) : W64 := BitVec.ofNat 64 (c.count.toNat + b2n c.sat * 2 ^ 63)
/-- A write sets the count, and a 1 clears SAT. -/
def Count48.write (c : Count48) (v : W64) : Count48 := ⟨v.truncate 48, c.sat && !bitAt 63 v⟩

/-! ## Identity and terminal (R2, R8, R536) -/

def vtoutWord (s : State) : W64 :=
  let t := s.weado.vt
  BitVec.ofNat 64 (t.outData.toNat + b2n t.outFull * 2 ^ 32 + b2n t.outOvr * 2 ^ 33)

def vtinWord (s : State) : W64 := BitVec.ofNat 64 (s.weado.vt.inData.toNat + b2n s.weado.vt.inFull * 2 ^ 32)

def setVt (t : Vterm) (s : State) : State := setWeado { s.weado with vt := t } s

/-- A write of VTOUT (R536): one that finds FULL = 1 is dropped, and OVR is set. -/
def writeVtout (v : W64) (s : State) : State :=
  let t := s.weado.vt
  if t.outFull then setVt { t with outOvr := true } s
  else setVt { t with outData := v.truncate 32, outFull := true, outOvr := t.outOvr && !bitAt 33 v } s

/-- A read of VTIN that is not a peek clears it (R536). -/
def consumeVtin (s : State) : State := setVt { s.weado.vt with inData := 0, inFull := false } s

/-! ## Vector Store registers (R46 to R49, R66 to R70) -/

def vsbaseWord (s : State) : W64 :=
  let b := if s.role.fused then s.vs.base &&& ~~~ 1 else s.vs.base
  BitVec.ofNat 64 (b2n s.vs.baseEn + b.toNat * 2 ^ 26)

def VsMapEntry.num (e : VsMapEntry) : Nat := e.lbank.toNat + b2n e.valid * 2 ^ 10 + b2n e.src * 2 ^ 11
def vsmapWord (s : State) : W64 := BitVec.ofNat 64 (s.vs.map0.num + s.vs.map1.num * 2 ^ 16 + s.vs.map2.num * 2 ^ 32)

/-- VSREPAIR (R70). ROW reads 0 while BUSY = 0 (DESIGN CHOICE, notes/assumptions/54.md), and 0 again once the last row is copied. -/
def vsrepairWord (s : State) : W64 :=
  let r := s.vs.repair
  BitVec.ofNat 64 (r.lbank.toNat + r.spare.toNat * 2 ^ 10 + b2n r.busy * 2 ^ 13 + b2n r.err * 2 ^ 14 + b2n r.done * 2 ^ 15 +
    (if r.busy then r.row % 8192 else 0) * 2 ^ 32)

def writeVsrepair (v : W64) (s : State) : State :=
  let r := s.vs.repair
  let lb : BitVec 10 := v.extractLsb' 0 10
  let sp : BitVec 2 := v.extractLsb' 10 2
  let s1 := setVs { s.vs with repair := { r with
    lbank := lb, spare := sp, err := r.err && !bitAt 14 v, done := r.done && !bitAt 15 v } } s
  if bitAt 12 v then repairStart lb sp s1 else s1

def vseccWord (s : State) : W64 := BitVec.ofNat 64 (s.vs.ceCount.toNat + s.vs.ueCount.toNat * 2 ^ 24 + s.vs.ceThresh.toNat * 2 ^ 40)

def vsecclogWord (s : State) : W64 :=
  let e := s.vs.eccLog
  BitVec.ofNat 64 (e.word.toNat + e.pbank.toNat * 2 ^ 23 + b2n e.kind * 2 ^ 33 + b2n e.byScrub * 2 ^ 34 + e.req.toNat * 2 ^ 35 + b2n e.valid * 2 ^ 40)

def vsscrubWord (s : State) : W64 := BitVec.ofNat 64 (s.vs.interval.toNat + b2n s.vs.scrubEn * 2 ^ 32 + s.vs.passes.toNat * 2 ^ 48)

def secrowWord (s : State) : W64 :=
  let v := s.vs
  BitVec.ofNat 64 (0x1E00 + b2n v.wipePending * 2 ^ 13 + b2n v.wipeBusy * 2 ^ 14 + b2n v.deny * 2 ^ 15 + v.denyCnt.toNat * 2 ^ 16 +
    v.denyReq.toNat * 2 ^ 32)

def readVs (s : State) (off : Nat) : W64 :=
  match off with
  | 0x00 => vsbaseWord s
  | 0x08 => vsmapWord s
  | 0x10 => vsrepairWord s
  | 0x18 => vseccWord s
  | 0x20 => vsecclogWord s
  | 0x28 => vsscrubWord s
  | 0x30 => secrowWord s
  | _ => 0

def writeVs (off : Nat) (v : W64) (s : State) : State :=
  let x := s.vs
  match off with
  | 0x00 => setVs { x with baseEn := bitAt 0 v, base := v.extractLsb' 26 26 } s
  | 0x10 => writeVsrepair v s
  | 0x18 => setVs { x with ceCount := v.extractLsb' 0 24, ueCount := v.extractLsb' 24 16, ceThresh := v.extractLsb' 40 16 } s
  | 0x20 => setVs { x with eccLog := { x.eccLog with valid := x.eccLog.valid && !bitAt 40 v } } s
  | 0x28 => setVs { x with interval := v.truncate 32, scrubEn := bitAt 32 v } s
  | 0x30 => setVs { x with deny := x.deny && !bitAt 15 v, denyCnt := v.extractLsb' 16 16 } s
  | _ => s

/-! ## Engine registers (R168, R176, R182) -/

def engstatWord (s : State) : W64 :=
  let n := (fours.filter (fun i => (s.eng.slots.get i).isSome)).length
  let q (c : CoreId) : Nat := ((s.entries.get c).filter (fun e => e.2.taken)).length
  BitVec.ofNat 64 (n + q 0 * 2 ^ 4 + q 1 * 2 ^ 8 + q 2 * 2 ^ 12 + q 3 * 2 ^ 16 + b2n s.eng.detAct * 2 ^ 20 + b2n (throttleHolds s) * 2 ^ 21)

def FaultRec.ctl (f : FaultRec) : W64 :=
  BitVec.ofNat 64 (b2n f.valid + 8 * b2n f.write + f.core.toNat * 16 + f.vorx.toNat * 2 ^ 8 + f.cause.toNat * 2 ^ 16 + f.fidx.toNat * 2 ^ 32)

def FaultRec.addr (f : FaultRec) : W64 := BitVec.ofNat 64 (f.vaddr.toNat + b2n f.form * 2 ^ 48 + f.level.toNat * 2 ^ 49)

def readEng (s : State) (off : Nat) : W64 :=
  if 0x100 ≤ off ∧ off < 0x200 then
    let f := s.eng.flt.get (BitVec.toFin (BitVec.ofNat 2 ((off - 0x100) / 0x40)))
    match off % 0x40 with
    | 0x00 => f.ctl
    | 0x08 => f.addr
    | 0x10 => f.pa.zeroExtend 64
    | 0x18 => f.launchT
    | 0x20 => f.tag.zeroExtend 64
    | _ => 0
  else match off with
    | 0x00 => BitVec.ofNat 64 (b2n s.eng.det)
    | 0x08 => engstatWord s
    | 0x10 => s.eng.stall.word
    | 0x18 => s.eng.launch.word
    | 0x20 => s.eng.time
    | 0x28 => BitVec.ofNat 64 (s.eng.pfLines.toNat + s.eng.wrLines.toNat * 2 ^ 12)
    | _ => 0

/-- A write of ENGFLTn.CTL, passed to the partner of a fused pair (R185). -/
def writeEngflt (slot : Fin 4) (v : W64) (s : State) : State :=
  let s1 := if s.role.fused && (s.eng.flt.get slot).valid then
      (if bitAt 2 v then sendPair (.cancel slot) s else if bitAt 1 v then sendPair (.resume slot) s else s)
    else s
  engfltWrite slot v s1

def writeEng (off : Nat) (v : W64) (s : State) : State :=
  if 0x100 ≤ off ∧ off < 0x200 then
    if off % 0x40 = 0 then writeEngflt (BitVec.toFin (BitVec.ofNat 2 ((off - 0x100) / 0x40))) v s else s
  else match off with
    | 0x00 => setEng { s.eng with det := bitAt 0 v } s
    | 0x10 => setEng { s.eng with stall := s.eng.stall.write v } s
    | 0x18 => setEng { s.eng with launch := s.eng.launch.write v } s
    | 0x28 => setEng { s.eng with pfLines := v.extractLsb' 0 11, wrLines := v.extractLsb' 12 11 } s
    | _ => s

/-! ## Event controller (R373) -/

def fixedTarget (n : Nat) : Bool := 0x070 ≤ n && n ≤ 0x07B

def EvSrc.word (n : Nat) (e : EvSrc) : W64 :=
  BitVec.ofNat 64 (e.level.toNat + srcTarget n e * 8 + b2n e.en * 32 + b2n e.trgen * 64 + e.cnt.toNat * 2 ^ 8 + b2n e.ovf * 2 ^ 16 +
    b2n e.pend * 2 ^ 17 + b2n e.trgovf * 2 ^ 18 + e.trgcnt.toNat * 2 ^ 24)

/-- The fields that a write of EVSRCn sets, SET apart. -/
def EvSrc.write (n : Nat) (e : EvSrc) (v : W64) : EvSrc :=
  { level := v.extractLsb' 0 3
    target := if fixedTarget n then 0 else v.extractLsb' 3 2
    en := bitAt 5 v
    trgen := bitAt 6 v
    cnt := if bitAt 19 v then v.extractLsb' 8 8 else e.cnt
    ovf := e.ovf && !bitAt 16 v
    trgovf := e.trgovf && !bitAt 18 v
    trgcnt := if bitAt 20 v then v.extractLsb' 24 8 else e.trgcnt }

/-- A write of EVSRCn: the fields, then the arrival of SET (R357, R373, R374). -/
def writeEvsrc (n : Nat) (v : W64) (s : State) : State :=
  let s1 := { s with ev := Tab.modify evSrc0 s.ev n (fun e => e.write n v) }
  if bitAt 7 v then arrive n s1 else s1

def evnextWord (s : State) (c : CoreId) : W64 :=
  match selectSource s c with
  | some n => BitVec.ofNat 64 (n + (Tab.get evSrc0 s.ev n).level.toNat * 2 ^ 9 + 2 ^ 12)
  | none => 0

def evpsumWord (s : State) (m : Nat) : W64 :=
  s.ev.foldl (fun w e => if e.2.pend && e.1 / 64 == m then w ||| BitVec.ofNat 64 (2 ^ (e.1 % 64)) else w) 0

def coreOf (n : Nat) : CoreId := BitVec.toFin (BitVec.ofNat 2 n)

def readEv (s : State) (off : Nat) : W64 :=
  if off < 0x1000 then EvSrc.word (off / 8) (Tab.get evSrc0 s.ev (off / 8))
  else if off < 0x1080 then
    let c := coreOf ((off - 0x1000) / 0x20)
    let x := s.evc.get c
    match off % 0x20 with
    | 0x00 => BitVec.ofNat 64 (x.thresh.toNat + 8 * b2n x.nest)
    | 0x08 => BitVec.ofNat 64 (x.active.toNat + topOf x.active * 2 ^ 8)
    | 0x10 => BitVec.ofNat 64 (x.vec.toNat * 2 ^ 10)
    | _ => evnextWord s c
  else if 0x2000 ≤ off ∧ off < 0x2040 then evpsumWord s ((off - 0x2000) / 8)
  else 0

def writeEv (off : Nat) (v : W64) (s : State) : State :=
  if off < 0x1000 then writeEvsrc (off / 8) v s
  else if off < 0x1080 then
    let c := coreOf ((off - 0x1000) / 0x20)
    let x := s.evc.get c
    match off % 0x20 with
    | 0x00 => { s with evc := s.evc.set c { x with thresh := v.extractLsb' 0 3, nest := bitAt 3 v } }
    | 0x10 => { s with evc := s.evc.set c { x with vec := v.extractLsb' 10 38 } }
    | _ => s
  else s

/-! ## Rings (R402) -/

def watcherrWord (s : State) : W64 :=
  let r := s.rings
  BitVec.ofNat 64 (r.errPa.toNat + b2n r.errValid * 2 ^ 52 + r.errCode.toNat * 2 ^ 53 + b2n r.errMore * 2 ^ 55)

def readRings (s : State) (off : Nat) : W64 :=
  match off with
  | 0x00 => watchcfgWord s
  | 0x08 => BitVec.ofNat 64 (s.rings.rcabase.toNat * 2 ^ 27)
  | 0x10 => BitVec.ofNat 64 (s.rings.dbbase.toNat * 2 ^ 23)
  | 0x18 => BitVec.ofNat 64 (s.rings.smbase.toNat * 2 ^ 14)
  | 0x20 => s.rings.nextWord
  | 0x38 => watcherrWord s
  | 0x40 => s.rings.snoopCnt.word
  | 0x48 => s.rings.pollCnt.word
  | _ => 0

def writeRings (off : Nat) (v : W64) (s : State) : State :=
  let r := s.rings
  match off with
  | 0x00 => writeWatchcfg v s
  | 0x08 => if r.en then s else withRings (fun r => { r with rcabase := v.extractLsb' 27 25 }) s
  | 0x10 => if r.en then s else withRings (fun r => { r with dbbase := v.extractLsb' 23 29 }) s
  | 0x18 => if r.en then s else withRings (fun r => { r with smbase := v.extractLsb' 14 38 }) s
  | 0x28 => ringset v s
  | 0x30 => writeWatcharm v s
  | 0x38 => withRings (fun r => { r with errValid := r.errValid && !bitAt 52 v, errMore := r.errMore && !bitAt 55 v }) s
  | 0x40 => withRings (fun r => { r with snoopCnt := r.snoopCnt.write v }) s
  | 0x48 => withRings (fun r => { r with pollCnt := r.pollCnt.write v }) s
  | _ => s

/-! ## Cores (R212, R283, R309, R346, R350) -/

def corestatWord (k : Core) : W64 :=
  BitVec.ofNat 64 (b2n (k.act.getLsbD 4) + 2 * b2n k.lbact + k.sb.length * 4 + 128 * b2n k.divide.isSome)

def clockupWord (k : Core) : W64 :=
  BitVec.ofNat 64 (b2n k.lockup.locked + k.lockup.level.toNat * 2 + k.lockup.cause.toNat * 16 + k.lockup.pc.toNat * 2 ^ 8)

def tskctlWord (k : Core) : W64 := BitVec.ofNat 64 (b2n k.sched.en + k.sched.slot.toNat * 2 + 16 * b2n (k.st == .idle) + 32 * b2n (k.st == .switching))

def belateWord (k : Core) : W64 :=
  BitVec.ofNat 64 (k.belate.pa.toNat + b2n k.belate.valid * 2 ^ 52 + b2n k.belate.wb * 2 ^ 53 + b2n k.belate.more * 2 ^ 54)

def stkbankWord (b : Bank) : W64 :=
  BitVec.ofNat 64 (Nat.min 32 b.oc.length + b.rc.length * 2 ^ 6 + b.dirty.toNat * 2 ^ 12 + b.osp.toNat * 2 ^ 16 + b.rsp.toNat * 2 ^ 40)

def slotStBits : SlotSt → Nat
  | .empty => 0
  | .ready => 1
  | .waiting => 2
  | .running => 3

def TSlot.cfg (t : TSlot) : W64 :=
  BitVec.ofNat 64 (slotStBits t.st + t.pri.toNat * 4 + b2n t.ten * 32 + t.tsrc.toNat * 64 + b2n t.tovf * 2 ^ 15 + t.tcnt.toNat * 2 ^ 16 +
    t.tag.toNat * 2 ^ 48)

/-- A WAITING slot with arrivals becomes READY (R303). -/
def TSlot.settle (t : TSlot) : TSlot := if t.st = .waiting && t.tcnt != 0 then { t with st := .ready, tcnt := t.tcnt - 1 } else t

/-- A write of TSCFG.s (R309). -/
def TSlot.writeCfg (t : TSlot) (v : W64) : TSlot :=
  let st := if t.st = .running then t.st else match fieldAt 0 2 v with
    | 0 => .empty
    | 1 => .ready
    | 2 => .waiting
    | _ => t.st
  TSlot.settle { t with
    st := st, pri := v.extractLsb' 2 3, ten := bitAt 5 v, tsrc := v.extractLsb' 6 9, tovf := t.tovf && !bitAt 15 v, tag := v.extractLsb' 48 16 }

def Sched.at (d : Sched) (i : Nat) : TSlot := Tab.get slot0 d.slots i
def Sched.put (d : Sched) (i : Nat) (t : TSlot) : Sched := { d with slots := Tab.set slot0 d.slots i t }

/-- A write of TSKCTL (R309). Clearing EN leaves the context running outside any slot: its slot becomes EMPTY. -/
def Sched.writeCtl (d : Sched) (v : W64) : Sched :=
  let en := bitAt 0 v
  let slot := if d.en then d.slot else v.extractLsb' 1 3
  if d.en && !en then
    { d with en := false, arm := false, slots := (d.slots.map (fun e => if e.2.st = .running then (e.1, { e.2 with st := .empty }) else e)).filter (fun e => e.2 != slot0) }
  else { d with en := en, arm := d.arm || (en && !d.en), slot := slot }

def readCore (s : State) (c : CoreId) (off : Nat) : W64 :=
  let k := s.core c
  if 0x200 ≤ off ∧ off < 0x240 then stkbankWord (k.bank (BitVec.ofNat 3 ((off - 0x200) / 8)))
  else if 0x300 ≤ off ∧ off < 0x400 then
    let t := k.sched.at ((off - 0x300) / 0x20)
    match off % 0x20 with
    | 0x00 => t.cfg
    | 0x08 => BitVec.ofNat 64 (t.pc.toNat + b2n t.rpend * 2 ^ 48)
    | 0x10 => BitVec.ofNat 64 (t.areau.toNat * 2 ^ 9)
    | _ => BitVec.ofNat 64 (t.areal.toNat * 2 ^ 9)
  else match off with
    | 0x000 => k.cfg.zeroExtend 64
    | 0x008 => corestatWord k
    | 0x100 => k.pairser.word
    | 0x108 => k.detvoid.word
    -- CSTALL counts DCLK, which the model does not: once the core has run, its value is free (notes/assumptions/8.md)
    | 0x110 => if k.ran then maskTo (2 ^ 48 - 1 + 2 ^ 63) (Config.freeWord s.free).toNat else k.stall.word
    | 0x180 => clockupWord k
    | 0x188 => tskctlWord k
    | 0x190 => BitVec.ofNat 64 (k.exvec.toNat * 2 ^ 10)
    | 0x198 => belateWord k
    | _ => 0

def writeCore (c : CoreId) (off : Nat) (v : W64) (s : State) : State :=
  let k := s.core c
  if 0x300 ≤ off ∧ off < 0x400 then
    let i := (off - 0x300) / 0x20
    let t := k.sched.at i
    let t1 := match off % 0x20 with
      | 0x00 => t.writeCfg v
      | 0x08 => { t with pc := v.truncate 48, rpend := bitAt 48 v, chk := none }
      | 0x10 => { t with areau := v.extractLsb' 9 43 }
      | _ => { t with areal := v.extractLsb' 9 43 }
    setCore c { k with sched := k.sched.put i t1 } s
  else match off with
    | 0x000 => setCore c { k with cfg := v.truncate 5 } s
    | 0x100 => setCore c { k with pairser := k.pairser.write v } s
    | 0x108 => setCore c { k with detvoid := k.detvoid.write v } s
    | 0x110 => setCore c { k with stall := k.stall.write v, ran := k.st == .running || k.st == .waiting || k.st == .idle || k.st == .switching } s
    | 0x188 => setCore c { k with sched := k.sched.writeCtl v } s
    | 0x190 => setCore c { k with exvec := v.extractLsb' 10 38 } s
    | 0x198 => setCore c { k with belate := { k.belate with
        valid := k.belate.valid && !bitAt 52 v, more := k.belate.more && !bitAt 54 v } } s
    | _ => s

/-! ## Security block (R321, R517) -/

def readSec (s : State) (off : Nat) : W64 :=
  if 0x40 ≤ off ∧ off < 0x70 then chalWord s ((off - 0x40) / 8)
  else if 0x200 ≤ off ∧ off < 0x220 then (s.fuses.keys.get (coreOf ((off - 0x200) / 8))).word
  else if 0x1000 ≤ off ∧ off < 0x1080 then Tab.get 0 s.pamap ((off - 0x1000) / 8)
  else match off with
    | 0x00 => lcstatWord s
    | 0x08 => lccmdWord s
    | 0x10 => bootctlWord s
    | 0x18 => bootstatWord s
    | 0x20 => dbgauthWord s
    | 0x28 => s.fuses.uid0
    | 0x30 => s.fuses.uid1
    | 0x270 => keycmdWord s
    | _ => 0

/-- The writable bits of PAMAPn (R321). -/
def pamapMask : Nat := 0x000FFFFFFFFFF3FF

def writeSec (who : Requester) (off : Nat) (v : W64) (s : State) : State :=
  if 0x80 ≤ off ∧ off < 0x140 then writeDbgresp who ((off - 0x80) / 8) v s
  else if 0x240 ≤ off ∧ off < 0x270 then writeKeydata who ((off - 0x240) / 8) v s
  else if 0x1000 ≤ off ∧ off < 0x1080 then { s with pamap := Tab.set 0 s.pamap ((off - 0x1000) / 8) (maskTo pamapMask v.toNat) }
  else match off with
    | 0x08 => writeLccmd who v s
    | 0x10 => writeBootctl v s
    | 0x20 => writeDbgauth who v s
    | 0x270 => writeKeycmd who v s
    | _ => s

/-! ## Reset, clock and power (R482, R498) -/

def readRst (s : State) (off : Nat) : W64 :=
  match off with
  | 0x00 => BitVec.ofNat 64 (s.rst.run.toNat * 16)
  | 0x08 => rststatWord s
  | 0x10 => (s.rst.bootvec.get 0).zeroExtend 64
  | 0x18 => (s.rst.bootvec.get 1).zeroExtend 64
  | 0x20 => (s.rst.bootvec.get 2).zeroExtend 64
  | 0x28 => (s.rst.bootvec.get 3).zeroExtend 64
  | 0x30 => s.rst.lost.zeroExtend 64
  | 0x38 => calstatWord s
  | 0x40 => BitVec.ofNat 64 (s.cal.margin.toNat * 2)
  | 0x48 => pwrctlWord s
  | 0x50 => pwrstatWord s
  | _ => 0

def writeBootvec (c : CoreId) (v : W64) (s : State) : State := setRst { s.rst with bootvec := s.rst.bootvec.set c (v.truncate 48) } s

def writeRst (off : Nat) (v : W64) (s : State) : State :=
  match off with
  | 0x00 => writeRstctl v s
  | 0x10 => writeBootvec 0 v s
  | 0x18 => writeBootvec 1 v s
  | 0x20 => writeBootvec 2 v s
  | 0x28 => writeBootvec 3 v s
  | 0x30 => setRst { s.rst with lost := s.rst.lost &&& ~~~ v.truncate 16 } s
  | 0x40 => writeCalctl v s
  | 0x48 => writePwrctl v s
  | 0x50 => writePwrstat v s
  | _ => s

/-! ## Role, troupe and links (R18, R451) -/

def readTroupe (s : State) (off : Nat) : W64 :=
  if 0x400 ≤ off ∧ off < 0x800 then (s.slotOf (BitVec.ofNat 7 ((off - 0x400) / 8))).word
  else match off with
    | 0x00 => s.role.word
    | 0x08 => s.troupe.cfgWord
    | 0x10 => BitVec.ofNat 64 (s.troupe.arb.toNat * 2 ^ 9)
    | 0x18 => s.troupe.slcmdWord
    | 0x20 => slstatWord s
    | _ => 0

def writeSlstat (v : W64) (s : State) : State :=
  withTroupe (fun t => { t with stale := v.extractLsb' 0 16, bad := v.extractLsb' 16 16, rxovf := v.extractLsb' 32 16 }) s

def writeTroupe (off : Nat) (v : W64) (s : State) : State :=
  if 0x400 ≤ off ∧ off < 0x800 then writeSlottab (BitVec.ofNat 7 ((off - 0x400) / 8)) v s
  else match off with
    | 0x00 => writeTilerole v s
    | 0x08 => writeTroupecfg v s
    | 0x10 => withTroupe (fun t => { t with arb := v.extractLsb' 9 43 }) s
    | 0x18 => writeSlcmd v s
    | 0x20 => writeSlstat v s
    | _ => s

def readLink (s : State) (off : Nat) : W64 :=
  if 0x10 ≤ off ∧ off < 0x40 then Tab.get 0 s.troupe.sltxw (off / 8)
  else if 0x80 ≤ off ∧ off < 0xC0 then
    match s.troupe.slrx with
    | [] => 0
    | m :: _ => Msg.word m ((off - 0x80) / 8)
  else match off with
    | 0x40 => s.troupe.txWord
    | 0xC0 => s.troupe.rxWord
    | 0x100 => pairWord s
    | _ => 0

/-- `idle` is the partner's part of the outcome of UNFUSE (R450). -/
def writeLink (off : Nat) (v : W64) (idle : Bool) (s : State) : State :=
  if 0x10 ≤ off ∧ off < 0x40 then withTroupe (fun t => { t with sltxw := Tab.set 0 t.sltxw (off / 8) v }) s
  else match off with
    | 0x40 => writeSltxctl v s
    | 0xC0 => writeSlrxctl v s
    | 0x100 => writePairctl v idle s
    | _ => s

/-! ## Panel, telemetry and log (R498, R552, R554) -/

def readPanel (s : State) (off : Nat) : W64 :=
  if 0x40 ≤ off ∧ off < 0x60 then (s.wds.get (coreOf ((off - 0x40) / 8))).word false
  else match off with
    | 0x00 => pnlcfgWord s
    | 0x08 => pnlstatWord s
    | 0x10 => pnlctlWord s
    | 0x60 => s.twd.word true
    | _ => 0

def writeCoreWd (c : CoreId) (v : W64) (s : State) : State := { s with wds := s.wds.set c ((s.wds.get c).write v false) }
def writeTileWd (v : W64) (s : State) : State := { s with twd := s.twd.write v true }

def writePanel (off : Nat) (v : W64) (s : State) : State :=
  if 0x40 ≤ off ∧ off < 0x60 then writeCoreWd (coreOf ((off - 0x40) / 8)) v s
  else match off with
    | 0x00 => writePnlcfg v s
    | 0x08 => writePnlstat v s
    | 0x10 => writePnlctl v s
    | 0x60 => writeTileWd v s
    | _ => s

def readLog (s : State) (off : Nat) : W64 :=
  if 0x100 ≤ off ∧ off < 0x900 then logWord s ((off - 0x100) / 0x20) ((off % 0x20) / 8)
  else match off with
    | 0x00 => s.log.wcount.zeroExtend 64
    | 0x08 => s.log.aotime
    | _ => 0

/-! ## The window (R569 to R574) -/

/-- What a register reads as; a reserved offset reads 0 (R571, R572). -/
def readReg (s : State) (off : Nat) : W64 :=
  let o := off % 0x10000
  match off / 0x10000 with
  | 0x0 => (match o with
    | 0x000 => Config.version
    | 0x008 => s.id.word
    | 0x100 => vtoutWord s
    | 0x108 => vtinWord s
    | _ => 0)
  | 0x1 => readTroupe s o
  | 0x2 => readRst s o
  | 0x3 => readVs s o
  | 0x4 => readEng s o
  | 0x5 => readEv s o
  | 0x6 => if o < 0x1000 then readChan s (BitVec.toFin (BitVec.ofNat 6 (o / 0x40))) (o % 0x40) else if o = 0x1000 then dmaHsum s else 0
  | 0x7 => readRings s o
  | 0x8 => readCore s (coreOf (o / 0x4000)) (o % 0x4000)
  | 0x9 => readSec s o
  | 0xA => readPanel s o
  | 0xB => (match o with
    | 0x00 => supvcfgWord s
    | 0x08 => supvstatWord s
    | 0x10 => s.supv.budget.zeroExtend 64
    | _ => 0)
  | 0xC => readLog s o
  | 0xD => readLink s o
  | 0xE => if o < 0xA0 then (Tab.get count0 s.vs.conf (o / 8)).word else 0
  | _ => 0

/-- What a read that is not a peek changes: RINGNEXT pops, VTIN empties, and a free value is used up. -/
def consumeReg (off : Nat) (s : State) : State :=
  if off = 0x70020 then popRing s
  else if off = 0x108 then consumeVtin s
  else if off / 0x10000 = 0x8 ∧ off % 0x4000 = 0x110 then { s with free := s.free + 1 }
  else s

/-- A write of one register by a requester (R571 to R573). -/
def writeReg (who : Requester) (off : Nat) (v : W64) (s : State) : State :=
  let o := off % 0x10000
  match off / 0x10000 with
  | 0x0 => if o = 0x100 then writeVtout v s else s
  | 0x1 => writeTroupe o v s
  | 0x2 => writeRst o v s
  | 0x3 => writeVs o v s
  | 0x4 => writeEng o v s
  | 0x5 => writeEv o v s
  | 0x6 => if o < 0x1000 then writeChan who (BitVec.toFin (BitVec.ofNat 6 (o / 0x40))) (o % 0x40) v s else s
  | 0x7 => writeRings o v s
  | 0x8 => writeCore (coreOf (o / 0x4000)) (o % 0x4000) v s
  | 0x9 => writeSec who o v s
  | 0xA => writePanel o v s
  | 0xB => (match o with
    | 0x00 => writeSupvcfg v s
    | 0x08 => writeSupvstat v s
    | 0x10 => writeFlushcfg v s
    | _ => s)
  | 0xD => let (b, s1) := if o = 0x100 && bitAt 1 v then s.takeBool else (false, s); writeLink o v b s1
  | 0xE => if o < 0xA0 then setVs { s.vs with conf := Tab.modify count0 s.vs.conf (o / 8) (fun c => c.write v) } s else s
  | _ => s

/-- The host's port is answered with ETGT (R469, R474, R489, R573). -/
def hostRefused (s : State) (off : Nat) : Bool :=
  s.rst.phase != .up || (pwrState s == 3 && !s.pwr.emul && off != 0x20048 && off != 0x20050)

/-- A requester may be served now. -/
def windowRefused (who : Requester) (off : Nat) (s : State) : Bool :=
  match who with
  | .host => hostRefused s off
  | _ => false

/-- Records how the window answered. -/
def answerWindow (who : Requester) (code : RspCode) (data : W64) (s : State) : State :=
  match who with
  | .host => { s with ports := { s.ports with last := code, irsp := s.ports.irsp ++ [(code, data)] } }
  | _ => { s with ports := { s.ports with last := code } }

/-- A write access of one aligned word (R570, R572): its response, and the state after. -/
def windowWrite (who : Requester) (off : Nat) (be : BitVec 8) (v : W64) (s : State) : RspCode × State :=
  if off % 8 != 0 || be != 0xFF || windowRefused who off s then (.etgt, s)
  else if off ≥ 0xF0000 then (.edec, s)
  else (.okay, writeReg who off v s)

/-- A read access of one aligned word (R534, R570, R572). -/
def windowRead (who : Requester) (off : Nat) (peek : Bool) (s : State) : RspCode × W64 × State :=
  if off % 8 != 0 || windowRefused who off s then (.etgt, 0, s)
  else if off ≥ 0xF0000 then (.edec, 0, s)
  else (.okay, readReg s off, if peek then s else consumeReg off s)

/-- A whole write command: the access and its answer. -/
def setupWrite (who : Requester) (off : Nat) (be : BitVec 8) (v : W64) (s : State) : State :=
  let (code, s1) := windowWrite who off be v s
  answerWindow who code 0 s1

/-- A whole read command. -/
def setupRead (who : Requester) (off : Nat) (s : State) : State :=
  let (code, d, s1) := windowRead who off false s
  answerWindow who code d s1

end Sys2Proof.Machine
end

