-- ==== Sys2Proof/Machine/Operands.lean ====
section
/-! DEFINITION. What a parcel's operands are and how it reaches them: cells of the stacks (R197, R287 to R292), logical
addresses (R232, R311 to R319), loads, stores and fetches (R263, R270 to R277, R337, R348), data watches (R540). -/

namespace Sys2Proof.Machine

/-! ## Outcomes of a part of a parcel -/

/-- What executing a part of a parcel gives: a result, a synchronous exception, or a wait. -/
inductive Out (α : Type) where
  | ok (a : α) (s : State)
  | exc (e : Exc) (s : State)
  | hold (why : HoldFor) (s : State)

/-- Goes on with the next part. -/
def Out.next {α β : Type} (o : Out α) (f : α → State → Out β) : Out β :=
  match o with
  | .ok a s => f a s
  | .exc e s => .exc e s
  | .hold w s => .hold w s

/-- A data access that a parcel makes (R540): `size` is the whole access's, `pa` the address of the access or of its half. -/
structure DAcc where
  write : Bool
  size : Nat
  pa : Nat
  data : W64
  deriving DecidableEq, Repr

/-- The effect of a parcel so far, committed as a whole when it ends (R210, R340): the running bank, the stores, the data
accesses, and the cell of a divide dispatched. -/
structure Fr where
  b : Bank
  sts : List SbEntry
  acc : List DAcc
  div : Option Nat
  deriving DecidableEq, Repr

def Core.frame (k : Core) : Fr := ⟨k.run, [], [], none⟩

/-- Which core executes, at what parcel address, and whether Weado feeds the parcel (R526). -/
structure Cx where
  c : CoreId
  pc : BitVec 48
  feed : Bool
  deriving DecidableEq, Repr

/-! ## Cells (R287 to R292, R262) -/

/-- Cells on a stack at its level, spilled ones included. -/
def Bank.depth (b : Bank) : Nat := b.oc.length + b.osp.toNat
def Bank.rdepth (b : Bank) : Nat := b.rc.length + b.rsp.toNat

/-- The fault that an earlier spill or fill has left is raised now, and the spill engine may go on (R289). -/
def raiseSpill (c : CoreId) (ret : Bool) (e : SpillErr) (s : State) : Out Unit :=
  .exc ⟨e.code, e.eaddr, e.split⟩ (withCore c (fun k => k.rawBank k.level
    (let b := k.run; if ret then { b with rerr := none } else { b with oerr := none })) s)

/-- A parcel takes a spilled cell: it is held until the cell has been filled. -/
def awaitCell (c : CoreId) (ret : Bool) (b : Bank) (s : State) : Out Unit :=
  match (if ret then b.rerr else b.oerr) with
  | some e => raiseSpill c ret e s
  | none => .hold (.cell ret) s

/-- The cell of a divide in flight, where it is on this stack (R262). -/
def Core.pendingCell (k : Core) : Option Nat :=
  match k.divide with
  | some d => if d.level = k.level then some d.cell else none
  | none => none

/-- The parcel takes the top `n` operand cells and the top `r` return cells: STKUNF, a wait for fills, a wait for a divide. -/
def needCells (c : CoreId) (n r : Nat) (fr : Fr) (s : State) : Out Unit :=
  if fr.b.depth < n ∨ fr.b.rdepth < r then .exc excStkunf s
  else if fr.b.oc.length < n then awaitCell c false fr.b s
  else if fr.b.rc.length < r then awaitCell c true fr.b s
  else match (s.core c).pendingCell with
    | some i => if i + n ≥ fr.b.depth ∧ i < fr.b.depth ∧ n > 0 then .hold .divide s else .ok () s
    | none => .ok () s

/-- The byte size S of the SPILL segment in force (R287). -/
def Core.spillSize (k : Core) : Nat := segLimit (k.segNow 3).2 + 1

/-- A push needs `n` spills (R288 to R290): a fault left by the spill engine, STKOVF, or a wait for room. -/
def needSpills (c : CoreId) (ret : Bool) (n : Nat) (s : State) : Out Unit :=
  let k := s.core c
  let b := k.run
  let count := (if ret then b.rsp else b.osp).toNat + n
  match (if ret then b.rerr else b.oerr) with
  | some e => raiseSpill c ret e s
  | none =>
    if 8 * (b.osp.toNat + b.rsp.toNat + n) > k.spillSize ∨ count > 2 ^ 24 - 1 then .exc excStkovf s
    else .hold (.room ret) s

/-- The stack caches have room for what half a parcel has pushed: at most 32 cells each, where it has pushed (R288). -/
def needRoom (c : CoreId) (before after : Bank) (s : State) : Out Unit :=
  if after.oc.length > 32 ∧ after.oc.length > before.oc.length then needSpills c false (after.oc.length - 32) s
  else if after.rc.length > 32 ∧ after.rc.length > before.rc.length then needSpills c true (after.rc.length - 32) s
  else .ok () s

/-! ## Segments and translation (R311 to R319, R326 to R328) -/

def excSeg (sel off : Nat) : Exc := ⟨0x10, BitVec.ofNat 64 (off % 2 ^ 48 + sel * 2 ^ 48), false⟩
def excProt (lin : Nat) (split : Bool) : Exc := ⟨0x12, BitVec.ofNat 64 (lin % 2 ^ 48), split⟩
def excBus (pa : Nat) (split : Bool) : Exc := ⟨0x17, BitVec.ofNat 64 (pa % 2 ^ 52), split⟩

/-- The checks of R313 on a descriptor, in privilege `pl`; the linear address. -/
def descLinear (d : W64 × W64) (pl : Nat) (kind : Access) (addr : W64) (n : Nat) : Option Nat :=
  let off := fieldAt 0 48 addr
  let kindOk : Bool := match kind with
    | .read => segR d.2
    | .write => segW d.2
    | .fetch => segX d.2
  if fieldAt 48 16 addr = 0 ∧ segUsable pl d.2 ∧ kindOk ∧ off + n ≤ segLimit d.2 + 1 ∧ segBase d.1 + off + n ≤ 2 ^ 48 then
    some (segBase d.1 + off)
  else none

/-- The same on the segment in force that a selector names. -/
def segLinear (k : Core) (pl : Nat) (kind : Access) (sel : Nat) (addr : W64) (n : Nat) : Option Nat :=
  descLinear (k.segNow sel) pl kind addr n

def needRead : XNeed := ⟨false, false, false⟩
def needFetch : XNeed := ⟨false, true, false⟩
def needWrite : XNeed := ⟨true, false, true⟩
/-- LOCK needs W and not D (R319). -/
def needLock : XNeed := ⟨true, false, false⟩

/-- The exception of a fault that a walk has found (R324, R325). -/
def gotExc (g : GotFault) (lin : Nat) (split : Bool) : Exc :=
  ⟨g.code, if g.code = 0x15 ∨ g.code = 0x16 then BitVec.ofNat 64 (g.ea.toNat + g.level.toNat * 2 ^ 52) else BitVec.ofNat 64 (lin % 2 ^ 48), split⟩

/-- What the parcel under way has received of its memory, and found of its walks. -/
def Core.got (k : Core) : List Got := match k.held with
  | some h => h.got
  | none => []
def Core.gotFaults (k : Core) : List GotFault := match k.held with
  | some h => h.faults
  | none => []
def noteGot (c : CoreId) (g : List Got) (s : State) : State :=
  withCore c (fun k => { k with held := k.held.map (fun h => { h with got := h.got ++ g }) }) s

/-- Where a walk begins (R328): the level to read, and its table. -/
def walkStart (k : Core) (root : BitVec 40) (lin : Nat) : Nat × Nat :=
  k.wcache.foldl (fun (best : Nat × Nat) e =>
    if e.root = root ∧ e.idx = lin / 2 ^ levelBits e.level ∧ e.level + 1 > best.1 then (e.level + 1, e.table.toNat) else best)
    (1, root.toNat * 4096)

/-- A walk of this core for the same access is in flight, and no invalidation has overtaken it. -/
def walkFor (k : Core) (root : BitVec 40) (tag : BitVec 16) (pl lin : Nat) (need : XNeed) : Option CWalk :=
  k.walks.find? (fun w => w.root == root && w.tag == tag && w.priv.toNat == pl && w.lin.toNat / 4096 == lin / 4096 && w.need == need &&
    !w.stale && w.inv.isEmpty)

/-- The parcel waits for a walk: one in flight, or a new one (R317). -/
def awaitWalk (c : CoreId) (root : BitVec 40) (tag : BitVec 16) (pl lin : Nat) (need : XNeed) (split : Bool) (s : State) : Out Nat :=
  let k := s.core c
  match walkFor k root tag pl lin need with
  | some w => .hold (.walk w.ea) s
  | none =>
    let (level, table) := walkStart k root lin
    let ea := entryAddr table lin level
    if walkDevice s ea then
      .exc (gotExc ⟨lin / 4096, BitVec.ofNat 2 pl, need, 0x16, BitVec.ofNat 3 level, BitVec.ofNat 52 ea⟩ lin split) (voidDet c s)
    else
      let w : CWalk := ⟨root, tag, BitVec.ofNat 2 pl, BitVec.ofNat 48 lin, need, level, BitVec.ofNat 52 ea, false, [], false⟩
      .hold (.walk w.ea) (voidDet c (setCore c { k with walks := k.walks ++ [w] } s))

/-- The TLB entry that an access hits (R327). -/
def Core.tlbHit (k : Core) (root : BitVec 40) (tag : BitVec 16) (lin : Nat) : Option TlbEntry :=
  k.tlb.find? (fun t => t.root == root && (t.tag == tag || t.g) && t.holds lin)

/-- The physical address of a linear one for the core, at privilege `pl` (R316 to R320, R326). -/
def coreXlate (c : CoreId) (pl lin : Nat) (need : XNeed) (split : Bool) (s : State) : Out Nat :=
  let k := s.core c
  let pt := k.inForce 0x020
  if !bitAt 0 pt then .ok lin s
  else
    let root := BitVec.ofNat 40 (fieldAt 12 40 pt)
    let tag := BitVec.ofNat 16 (fieldAt 0 16 (k.inForce 0x003))
    match k.gotFaults.find? (fun g => g.page == lin / 4096 && g.priv.toNat == pl && g.need == need) with
    | some g => .exc (gotExc g lin split) s
    | none => match k.tlbHit root tag lin with
      | some t => (match leafCheck pl need.w need.x need.d t with
        | none => .ok (t.pa lin) s
        | some _ => awaitWalk c root tag pl lin need split (setCore c { k with tlb := k.tlb.erase t } s))
      | none => awaitWalk c root tag pl lin need split s

/-- The checks of a data access on its physical address (R323, R337): `locked` for LOCK and UNLOCK. -/
def dataProt (s : State) (pl pa : Nat) (locked : Bool) : Bool :=
  match routeOf s pa with
  | .setup _ => pl < 2 || locked
  | .ext .device _ => locked
  | _ => false

/-- Translates a piece of an access and makes the checks on its physical address. -/
def dataXlate (c : CoreId) (pl lin : Nat) (need : XNeed) (locked split : Bool) (s : State) : Out Nat :=
  (coreXlate c pl lin need split s).next (fun pa s1 =>
    if dataProt s1 pl pa locked then .exc (excProt lin split) s1 else .ok pa s1)

/-! ## Reads (R263, R270, R276, R280) -/

/-- The youngest store-buffer byte for a byte address. -/
def sbByte (sb : List SbEntry) (a : Nat) : Option Byte :=
  (sb.reverse.find? (fun e => e.word.toNat == a / 8 && e.be.getLsbD (a % 8))).map (fun e => wordByte e.data (a % 8))

/-- A number from bytes, the lowest first. -/
def leBytes (bs : List Byte) : Nat := bs.foldr (fun b n => b.toNat + 256 * n) 0

/-- A read request on TFP or EMP for a line, unless one is out. -/
def requestLine (c : CoreId) (line : Nat) (fetch keep : Bool) (s : State) : State :=
  let k := s.core c
  if k.fills.any (fun f => f.line.toNat == line && f.fetch == fetch) then s
  else voidDet c (setCore c { k with fills := k.fills ++ [⟨BitVec.ofNat 46 line, fetch, keep, false⟩] } s)

/-- The aligned word that holds `pa`, read for a core; `full` when the access is that whole word (R570), `lock` for LOCK, whose
reservation stands from the grant of its read (R238). -/
def readWordPa (c : CoreId) (pl pa : Nat) (full split lock : Bool) (s : State) : Out W64 :=
  let k := s.core c
  let w := pa / 8
  match k.got.find? (fun g => g.word == w) with
  | some g => if g.bad then .exc (excBus pa split) s else .ok g.data s
  | none => match routeOf s (w * 8) with
    | .setup off =>
      if full then
        let (code, d, s1) := windowRead (.core c) off false (voidDet c s)
        if code = .okay then .ok d (noteGot c [⟨w, d, false⟩] s1) else .exc (excBus pa split) s1
      else .exc (excBus pa split) s
    | .vs off =>
      if off / 8 ≥ wordSpace s then .exc (excBus pa split) s
      else (match homeWord s (off / 8) with
        | none =>
          -- a word of the partner tile: what its bank returns is free (notes/assumptions/5.md)
          if partnerRefuses (off / 8) (pl == 2) then .exc (excBus pa split) (voidDet c s)
          else
            let (d, s1) := (voidDet c s).takeWord
            .ok d (noteGot c [⟨w, d, false⟩] s1)
        | some lw =>
          let dest := if lock then ReqDest.lock c w else .coreRead c w
          if s.vs.reqs.any (fun r => r.dest == dest) then .hold .vs s
          else .hold .vs (present [bankReq 15 lw .read (pl == 2) dest] (voidDet c s)))
    | .ext kind _ =>
      let hit := if k.dcOn kind then Tab.find k.dcache (w / 8) else none
      (match hit with
      | some l => .ok (wordOfLine l.data (w % 8)) s
      | none =>
        let keep := k.dcOn kind && !k.detOn
        .hold (.read (BitVec.ofNat 49 w) keep) (requestLine c (w / 8) false keep s))

/-- `n` bytes at `pa` within one aligned word: from the store buffer, or from memory (R276). -/
def readBytes (c : CoreId) (pl pa n : Nat) (full split lock : Bool) (s : State) : Out W64 :=
  let sb := (s.core c).sb
  let bs := (List.range n).map (fun i => sbByte sb (pa + i))
  if bs.all (fun b => b.isSome) then .ok (BitVec.ofNat 64 (leBytes (bs.filterMap id))) s
  else if bs.any (fun b => b.isSome) then .hold .drain s
  else (readWordPa c pl pa full split lock s).next (fun w s1 =>
    .ok (BitVec.ofNat 64 (w.toNat / 2 ^ (8 * (pa % 8)) % 2 ^ (8 * n))) s1)

/-- The pieces of a load of `n` bytes, lower half first, each as its physical address and length, after every check that comes
before the reads (R313, R319, R348). -/
def loadPieces (c : CoreId) (sel : Nat) (addr : W64) (n : Nat) (need : XNeed) (locked : Bool) (s : State) : Out (List (Nat × Nat)) :=
  let k := s.core c
  let pl := k.pl
  match segLinear k pl .read sel addr n with
  | none => .exc (excSeg sel (fieldAt 0 48 addr)) s
  | some lin =>
    if lin % 8 + n ≤ 8 then (dataXlate c pl lin need locked false s).next (fun pa s1 => .ok [(pa, n)] s1)
    else
      let n0 := 8 - lin % 8
      (dataXlate c pl lin need locked false s).next (fun pa0 s1 =>
        (dataXlate c pl (lin + n0) need locked true s1).next (fun pa1 s2 => .ok [(pa0, n0), (pa1, n - n0)] s2))

/-- A load finds some of its bytes in the store buffer, and some elsewhere (R276). -/
def partlyBuffered (sb : List SbEntry) (ps : List (Nat × Nat)) : Bool :=
  let bs := ps.flatMap (fun p => (List.range p.2).map (fun i => (sbByte sb (p.1 + i)).isSome))
  bs.any id && !bs.all id

/-- Reads the pieces of a load of `n` bytes, with the accesses it makes. -/
def readPieces (c : CoreId) (n : Nat) (ps : List (Nat × Nat)) (s : State) : Out (W64 × List DAcc) :=
  let pl := (s.core c).pl
  if partlyBuffered (s.core c).sb ps then .hold .drain s
  else match ps with
  | [(pa, m)] => (readBytes c pl pa m (m == 8) false false s).next (fun v s1 => .ok (v, [⟨false, n, pa, v⟩]) s1)
  | [(pa0, n0), (pa1, n1)] =>
    (readBytes c pl pa0 n0 false false false s).next (fun v0 s1 =>
      (readBytes c pl pa1 n1 false true false s1).next (fun v1 s2 =>
        .ok (BitVec.ofNat 64 (v0.toNat + v1.toNat * 2 ^ (8 * n0)), [⟨false, n, pa0, v0⟩, ⟨false, n, pa1, v1⟩]) s2))
  | _ => .ok (0, []) s

/-- A load of `n` bytes, zero-extended, with the accesses it makes (R232, R313, R348). -/
def loadBytes (c : CoreId) (sel : Nat) (addr : W64) (n : Nat) (need : XNeed) (locked : Bool) (s : State) :
    Out (W64 × List DAcc) :=
  (loadPieces c sel addr n need locked s).next (fun ps s1 => readPieces c n ps s1)

/-! ## Stores (R275, R277) -/

/-- The store-buffer entry of `n` bytes at `pa`. -/
def sbEntry (pa n : Nat) (v : W64) (pl : Nat) : SbEntry :=
  ⟨BitVec.ofNat 49 (pa / 8), BitVec.ofNat 8 ((2 ^ n - 1) * 2 ^ (pa % 8)), v <<< (8 * (pa % 8)), false, pl == 2, false, none⟩

/-- A store of the low `n` bytes of `v`: both halves are translated and checked before an entry is made (R277, R348). -/
def storeBytes (c : CoreId) (sel : Nat) (addr : W64) (n : Nat) (v : W64) (s : State) : Out (List SbEntry × List DAcc) :=
  let k := s.core c
  let pl := k.pl
  let x := BitVec.ofNat 64 (v.toNat % 2 ^ (8 * n))
  match segLinear k pl .write sel addr n with
  | none => .exc (excSeg sel (fieldAt 0 48 addr)) s
  | some lin =>
    if lin % 8 + n ≤ 8 then
      (dataXlate c pl lin needWrite false false s).next (fun pa s1 => .ok ([sbEntry pa n x pl], [⟨true, n, pa, x⟩]) s1)
    else
      let n0 := 8 - lin % 8
      let lo := BitVec.ofNat 64 (x.toNat % 2 ^ (8 * n0))
      let hi := BitVec.ofNat 64 (x.toNat / 2 ^ (8 * n0))
      (dataXlate c pl lin needWrite false false s).next (fun pa0 s1 =>
        (dataXlate c pl (lin + n0) needWrite false true s1).next (fun pa1 s2 =>
          .ok ([sbEntry pa0 n0 lo pl, sbEntry pa1 (n - n0) hi pl], [⟨true, n, pa0, lo⟩, ⟨true, n, pa1, hi⟩]) s2))

/-- An entry joins the store buffer: merged into the youngest where that has the same word and has not begun to drain (R275). A merged
entry reaches a secure word only where each of its stores does (DESIGN CHOICE, notes/assumptions/65.md). -/
def sbPush : List SbEntry → SbEntry → List SbEntry
  | [], e => [e]
  | [y], e =>
    if y.word = e.word ∧ !y.began then
      [{ y with be := y.be ||| e.be, data := mergeBytes y.data e.data e.be, secure := y.secure && e.secure }]
    else [y, e]
  | y :: t, e => y :: sbPush t e

def sbAdd (sb : List SbEntry) (es : List SbEntry) : List SbEntry := es.foldl sbPush sb

/-- The oldest entry begins to drain (R275), and its route is decided: a Vector Store word is presented to its bank. Where the role is
FENCED, a write to TFP or EMP is discarded and reported late (R427); in SPARE the same becomes of it (DESIGN CHOICE,
notes/assumptions/66.md). -/
def startDrain (c : CoreId) : Nat → State → State
  | 0, s => s
  | fuel + 1, s =>
    let k := s.core c
    match k.sb with
    | [] => s
    | e :: t =>
      if e.began then s
      else
        let route := routeOf s (e.word.toNat * 8)
        let s1 := setCore c { k with sb := { e with began := true, route := some route } :: t } s
        match route with
        | .vs off => (match homeWord s (off / 8) with
          | some lw =>
            if off / 8 < wordSpace s then present [bankReq 15 lw (.write e.data e.be false) e.secure (.coreWrite c)] (voidDet c s1)
            else voidDet c s1
          | none => voidDet c s1)
        | .setup _ => voidDet c s1
        | .ext kind _ =>
          if drainsToCache k e kind then s1
          else if outboundOk s then (if k.dcOn kind then s1 else voidDet c s1)
          else startDrain c fuel (lateError c (BitVec.ofNat 52 (e.word.toNat * 8)) false (setCore c { k with sb := t } s))

/-- The stores of a parcel enter the buffer. -/
def makeStores (c : CoreId) (es : List SbEntry) (s : State) : State :=
  if es.isEmpty then s
  else
    let s1 := withCore c (fun k => { k with sb := sbAdd k.sb es }) s
    startDrain c (s1.core c).sb.length s1

/-! ## Data watches (R521, R540, R541) -/

/-- The access's aligned word matches DWADDR under DWMASK, and its kind is enabled. -/
def dataWatched (s : State) (a : DAcc) : Bool :=
  let m := s.weado.dwmask
  bitAt (if a.write then 1 else 0) m && fieldAt 3 49 ((BitVec.ofNat 64 a.pa ^^^ s.weado.dwaddr) &&& m) == 0

/-- The physical address names a secure word of the Vector Store. -/
def secureAddr (s : State) (pa : Nat) : Bool :=
  match vsOffset s pa with
  | some off => (match homeWord s (off / 8) with
    | some w => isSecureWord w
    | none => false)
  | none => false

/-- The log2 of an access size; a size that is no power of two has a free value there. -/
def sizeLog (n : Nat) (s : State) : Nat × State :=
  if n = 1 ∨ n = 2 ∨ n = 4 ∨ n = 8 then (Nat.log2 n, s)
  else let (x, s1) := s.takeNat; (x % 8, s1)

/-- A match emits its packet and makes a halt due where DWHALT asks for it. -/
def watchAccess (c : CoreId) (a : DAcc) (s : State) : State :=
  if dataWatched s a then
    let hidden := s.fuses.now == 3 && secureAddr s a.pa
    let (lg, s0) := sizeLog a.size s
    let head := BitVec.ofNat 8 (b2n a.write + 2 * b2n hidden + 4 * lg)
    let s1 := tracePacket 7 c.val (head :: bytesLE (a.pa % 2 ^ 52) 7 ++ bytesLE (if hidden then 0 else a.data.toNat) 8) s0
    if s1.weado.tr.dwhalt && dbgLevel s1 == 2 then withDbg c (fun d => { d with dwdue := true }) s1 else s1
  else s

/-! ## Commit (R210, R262, R340) -/

/-- The effect of a parcel that raises nothing is made as a whole; it waits while the store buffer has no room for its stores. -/
def commit (c : CoreId) (fr : Fr) (s : State) : Out Unit :=
  let k := s.core c
  if (sbAdd k.sb fr.sts).length > 16 then .hold .sbRoom s
  else
    let k1 := { k.putRun fr.b with divide := (match fr.div with
      | some i => some ⟨k.level, i⟩
      | none => k.divide) }
    .ok () (fr.acc.foldl (fun s a => watchAccess c a s) (makeStores c fr.sts (setCore c k1 s)))

/-! ## Fetch (R259, R270, R274, R279, R323) -/

/-- The part of a code line that lies in the line of `pa` has been fetched, or is waited for. -/
def fetchPart (c : CoreId) (pl pa : Nat) (s : State) : Out Unit :=
  let k := s.core c
  match routeOf s pa with
  | .setup _ => .ok () s
  | .vs _ => (readWordPa c pl pa true false false s).next (fun _ s1 => .ok () s1)
  | .ext kind _ =>
    if k.icOn kind && (Tab.find k.icache (pa / 64)).isSome then .ok () s
    else match k.got.find? (fun g => g.word == pa / 8) with
      | some g => if g.bad then .exc (excBus pa false) s else .ok () s
      | none =>
        let keep := k.icOn kind && !k.detOn
        .hold (.fetch (BitVec.ofNat 46 (pa / 64)) keep) (requestLine c (pa / 64) true keep s)

/-- A fault at a page of a code line names the code line's address (R325). -/
def lineFault (first : Nat) (e : Exc) : Exc :=
  if 0x11 ≤ e.code.toNat ∧ e.code.toNat ≤ 0x14 then { e with eaddr := BitVec.ofNat 64 (first % 2 ^ 48) } else e

/-- The physical address of a byte of the code line at `first`; a device or the set-up window raises PROT (R323). -/
def fetchXlate (c : CoreId) (pl lin first : Nat) (s : State) : Out Nat :=
  (match coreXlate c pl lin needFetch false s with
    | .exc e s1 => Out.exc (lineFault first e) s1
    | o => o).next (fun pa s1 =>
    match routeOf s1 pa with
    | .setup _ => .exc (excProt first false) s1
    | .ext .device _ => .exc (excProt first false) s1
    | _ => .ok pa s1)

/-- The instruction cache holds the line of an address. -/
def inIcache (s : State) (c : CoreId) (pa : Nat) : Bool :=
  match routeOf s pa with
  | .ext kind _ => (s.core c).icOn kind && (Tab.find (s.core c).icache (pa / 64)).isSome
  | _ => false

/-- The code line of the parcel at `pc` is at hand: from the loop buffer, the instruction cache, or memory. What was read past the
cache is then no data of the parcel, which waits for that anew (R263). -/
def fetchCode (c : CoreId) (pc : BitVec 48) (s : State) : Out Unit :=
  let k := s.core c
  let pl := k.pl
  let off := pc.toNat / 16 * 16
  match segLinear k pl .fetch 0 (BitVec.ofNat 64 off) 16 with
  | none => .exc (excSeg 0 off) s
  | some lin =>
    (fetchXlate c pl lin lin s).next (fun pa0 s1 =>
      (if (lin + 15) / 4096 = lin / 4096 then .ok (pa0 + 15) s1 else fetchXlate c pl (lin + 15) lin s1).next (fun pa1 s2 =>
        let k2 := s2.core c
        if k2.lbact || k2.code == some (BitVec.ofNat 48 off) then .ok () s2
        else
          (fetchPart c pl pa0 s2).next (fun _ s3 =>
            (if pa1 / 8 = pa0 / 8 then .ok () s3 else fetchPart c pl (pa1 / 8 * 8) s3).next (fun _ s4 =>
              let data (g : Got) : Bool := g.word / 8 != pa0 / 64 && g.word / 8 != pa1 / 64
              .ok () (if inIcache s4 c pa0 && inIcache s4 c pa1 then s4 else
                withCore c (fun k => { k with
                  code := some (BitVec.ofNat 48 off), held := k.held.map (fun h => { h with got := h.got.filter data }) }) s4)))))

end Sys2Proof.Machine
end

