-- ==== Sys2Proof/Machine/Short.lean ====
section
/-! DEFINITION. The short operations (R209, R250 to R255): their table, their pairing classes and dependences, and what each
half of a pair does. The solo operations of class X are in Machine/Long.lean. -/

namespace Sys2Proof.Machine

/-- The pairing classes (R209). -/
inductive PairClass where
  | n | a | m | k | x
  deriving DecidableEq, Repr

/-- A row of the short table: class, cells taken from and left on each stack, flags read and written (bit 0 T, 1 Z, 2 N, 3 C, 4 V). -/
structure ShortInfo where
  cls : PairClass
  takes : Nat
  leaves : Nat
  takesR : Nat
  leavesR : Nat
  reads : Flg
  writes : Flg
  deriving DecidableEq, Repr

/-- The short table (R251 to R256); codes not listed are reserved (R250). -/
def shortInfo (code : Nat) : Option ShortInfo :=
  match code with
  | 0x00 => some ⟨.n, 0, 0, 0, 0, 0, 0⟩
  | 0x01 => some ⟨.a, 1, 2, 0, 0, 0, 0⟩
  | 0x02 => some ⟨.a, 1, 0, 0, 0, 0, 0⟩
  | 0x03 => some ⟨.a, 2, 2, 0, 0, 0, 0⟩
  | 0x04 => some ⟨.a, 2, 3, 0, 0, 0, 0⟩
  | 0x05 => some ⟨.a, 3, 3, 0, 0, 0, 0⟩
  | 0x06 => some ⟨.a, 2, 1, 0, 0, 0, 0⟩
  | 0x07 => some ⟨.a, 2, 3, 0, 0, 0, 0⟩
  | 0x08 => some ⟨.a, 1, 1, 0, 0, 0, 0⟩
  | 0x09 => some ⟨.a, 2, 4, 0, 0, 0, 0⟩
  | 0x0A => some ⟨.a, 2, 0, 0, 0, 0, 0⟩
  | 0x0B => some ⟨.a, 0, 1, 0, 0, 0, 0⟩
  | 0x0C => some ⟨.a, 0, 1, 0, 0, 0, 0⟩
  | 0x0D => some ⟨.a, 0, 1, 0, 0, 0, 0⟩
  | 0x0E => some ⟨.a, 1, 0, 0, 1, 0, 0⟩
  | 0x0F => some ⟨.a, 0, 1, 1, 0, 0, 0⟩
  | 0x10 => some ⟨.a, 0, 1, 1, 1, 0, 0⟩
  | 0x11 => some ⟨.a, 0, 0, 1, 0, 0, 0⟩
  | 0x12 => some ⟨.a, 0, 1, 0, 0, 0, 0⟩
  | 0x20 => some ⟨.a, 2, 1, 0, 0, 0, 0x1E⟩
  | 0x21 => some ⟨.a, 2, 1, 0, 0, 0, 0x1E⟩
  | 0x22 => some ⟨.a, 2, 1, 0, 0, 0x08, 0x1E⟩
  | 0x23 => some ⟨.a, 2, 1, 0, 0, 0x08, 0x1E⟩
  | 0x24 => some ⟨.a, 1, 1, 0, 0, 0, 0x1E⟩
  | 0x25 => some ⟨.a, 1, 1, 0, 0, 0, 0x1E⟩
  | 0x26 => some ⟨.a, 1, 1, 0, 0, 0, 0x1E⟩
  | 0x27 => some ⟨.a, 2, 1, 0, 0, 0, 0x06⟩
  | 0x28 => some ⟨.a, 2, 1, 0, 0, 0, 0x06⟩
  | 0x29 => some ⟨.a, 2, 1, 0, 0, 0, 0x06⟩
  | 0x2A => some ⟨.a, 2, 1, 0, 0, 0, 0x06⟩
  | 0x2B => some ⟨.a, 2, 1, 0, 0, 0, 0x16⟩
  | 0x2C => some ⟨.a, 2, 1, 0, 0, 0, 0x06⟩
  | 0x2D => some ⟨.a, 2, 1, 0, 0, 0, 0x16⟩
  | 0x2E => some ⟨.a, 2, 1, 0, 0, 0, 0x06⟩
  | 0x2F => some ⟨.a, 2, 1, 0, 0, 0, 0x06⟩
  | 0x30 => some ⟨.a, 2, 1, 0, 0, 0, 0x06⟩
  | 0x31 => some ⟨.a, 2, 1, 0, 0, 0, 0x06⟩
  | 0x32 => some ⟨.a, 1, 1, 0, 0, 0, 0x16⟩
  | 0x38 => some ⟨.a, 2, 1, 0, 0, 0, 0x06⟩
  | 0x39 => some ⟨.a, 2, 1, 0, 0, 0, 0x06⟩
  | 0x3A => some ⟨.a, 2, 1, 0, 0, 0, 0x06⟩
  | 0x3B => some ⟨.a, 2, 1, 0, 0, 0, 0x06⟩
  | 0x3C => some ⟨.a, 1, 1, 0, 0, 0, 0x06⟩
  | 0x3D => some ⟨.a, 2, 1, 0, 0, 0, 0x06⟩
  | 0x3E => some ⟨.a, 2, 1, 0, 0, 0, 0x06⟩
  | 0x3F => some ⟨.a, 2, 1, 0, 0, 0, 0x06⟩
  | 0x40 => some ⟨.a, 2, 1, 0, 0, 0, 0x06⟩
  | 0x41 => some ⟨.a, 2, 1, 0, 0, 0, 0x06⟩
  | 0x42 => some ⟨.a, 1, 1, 0, 0, 0, 0x06⟩
  | 0x43 => some ⟨.a, 1, 1, 0, 0, 0, 0x06⟩
  | 0x44 => some ⟨.a, 1, 1, 0, 0, 0, 0x06⟩
  | 0x45 => some ⟨.a, 1, 1, 0, 0, 0, 0x06⟩
  | 0x46 => some ⟨.a, 1, 1, 0, 0, 0, 0x06⟩
  | 0x47 => some ⟨.a, 1, 1, 0, 0, 0, 0x06⟩
  | 0x50 => some ⟨.a, 2, 0, 0, 0, 0, 0x1F⟩
  | 0x51 => some ⟨.a, 2, 0, 0, 0, 0, 0x1F⟩
  | 0x52 => some ⟨.a, 2, 0, 0, 0, 0, 0x1F⟩
  | 0x53 => some ⟨.a, 2, 0, 0, 0, 0, 0x1F⟩
  | 0x54 => some ⟨.a, 2, 0, 0, 0, 0, 0x1F⟩
  | 0x55 => some ⟨.a, 2, 0, 0, 0, 0, 0x1F⟩
  | 0x56 => some ⟨.a, 2, 0, 0, 0, 0, 0x1F⟩
  | 0x57 => some ⟨.a, 2, 0, 0, 0, 0, 0x1F⟩
  | 0x58 => some ⟨.a, 2, 0, 0, 0, 0, 0x1F⟩
  | 0x59 => some ⟨.a, 2, 0, 0, 0, 0, 0x1F⟩
  | 0x5A => some ⟨.a, 1, 0, 0, 0, 0, 0x07⟩
  | 0x5B => some ⟨.a, 1, 1, 0, 0, 0, 0x07⟩
  | 0x5C => some ⟨.k, 0, 1, 0, 0, 0x01, 0⟩
  | 0x5D => some ⟨.k, 0, 0, 0, 0, 0, 0x01⟩
  | 0x5E => some ⟨.k, 0, 0, 0, 0, 0, 0x01⟩
  | 0x5F => some ⟨.k, 0, 0, 0, 0, 0x01, 0x01⟩
  | 0x60 => some ⟨.a, 2, 1, 0, 0, 0x01, 0⟩
  | 0x70 => some ⟨.m, 1, 1, 0, 0, 0, 0⟩
  | 0x71 => some ⟨.m, 2, 0, 0, 0, 0, 0⟩
  | 0x72 => some ⟨.m, 1, 1, 0, 0, 0, 0⟩
  | 0x73 => some ⟨.m, 1, 1, 0, 0, 0, 0⟩
  | 0x74 => some ⟨.m, 1, 1, 0, 0, 0, 0⟩
  | 0x75 => some ⟨.m, 1, 1, 0, 0, 0, 0⟩
  | 0x76 => some ⟨.m, 1, 1, 0, 0, 0, 0⟩
  | 0x77 => some ⟨.m, 1, 1, 0, 0, 0, 0⟩
  | 0x78 => some ⟨.m, 2, 0, 0, 0, 0, 0⟩
  | 0x79 => some ⟨.m, 2, 0, 0, 0, 0, 0⟩
  | 0x7A => some ⟨.m, 2, 0, 0, 0, 0, 0⟩
  | 0x7B => some ⟨.m, 1, 2, 0, 0, 0, 0⟩
  | 0x7C => some ⟨.m, 2, 1, 0, 0, 0, 0⟩
  | 0x80 => some ⟨.x, 1, 0, 0, 0, 0, 0⟩
  | 0x81 => some ⟨.x, 1, 0, 0, 1, 0, 0⟩
  | 0x82 => some ⟨.x, 0, 0, 1, 0, 0, 0⟩
  | 0x83 => some ⟨.x, 0, 0, 0, 0, 0, 0⟩
  | 0x84 => some ⟨.x, 0, 0, 0, 0, 0, 0⟩
  | 0x85 => some ⟨.x, 0, 0, 0, 0, 0, 0⟩
  | _ => none

/-- A pair that R209 does not forbid. -/
def pairLegal (a b : ShortInfo) : Bool :=
  !(a.cls == .x && b.cls != .n) && !(b.cls == .x && a.cls != .n) && !(a.cls == .m && b.cls == .m) && !(a.cls == .k && b.cls == .k)

/-- SB depends on SA (R211). -/
def pairDepends (a b : ShortInfo) : Bool :=
  (a.leaves ≥ 1 && b.takes ≥ 1) || (a.leavesR ≥ 1 && b.takesR ≥ 1) || (a.writes &&& b.reads != 0)

def Fr.setO (fr : Fr) (oc : List W64) : Fr := { fr with b := { fr.b with oc := oc } }
def Fr.setOF (fr : Fr) (oc : List W64) (f : Flg) : Fr := { fr with b := { fr.b with oc := oc, flags := f } }
def Fr.setOR (fr : Fr) (oc rc : List W64) : Fr := { fr with b := { fr.b with oc := oc, rc := rc } }

/-- The stack operations (R251), by code; the cells they take are cached. -/
def stackOp (code : Nat) (fr : Fr) : Fr :=
  match code, fr.b.oc, fr.b.rc with
  | 0x01, a :: t, _ => fr.setO (a :: a :: t)
  | 0x02, _ :: t, _ => fr.setO t
  | 0x03, a :: b :: t, _ => fr.setO (b :: a :: t)
  | 0x04, a :: b :: t, _ => fr.setO (b :: a :: b :: t)
  | 0x05, a :: b :: c :: t, _ => fr.setO (c :: a :: b :: t)
  | 0x06, a :: _ :: t, _ => fr.setO (a :: t)
  | 0x07, a :: b :: t, _ => fr.setO (a :: b :: a :: t)
  | 0x09, a :: b :: t, _ => fr.setO (a :: b :: a :: b :: t)
  | 0x0A, _ :: _ :: t, _ => fr.setO t
  | 0x0B, t, _ => fr.setO (0 :: t)
  | 0x0C, t, _ => fr.setO (1 :: t)
  | 0x0D, t, _ => fr.setO (allOnesWord :: t)
  | 0x0E, a :: t, r => fr.setOR t (a :: r)
  | 0x0F, t, a :: r => fr.setOR (a :: t) r
  | 0x10, t, a :: r => fr.setOR (a :: t) (a :: r)
  | 0x11, t, _ :: r => fr.setOR t r
  | 0x12, t, _ => fr.setO (BitVec.ofNat 64 fr.b.depth :: t)
  | _, _, _ => fr

/-- Arithmetic, logical, compare, test and truth operations (R252 to R254), by code. -/
def aluOp (code : Nat) (fr : Fr) : Fr :=
  let f := fr.b.flags
  let one := code == 0x24 || code == 0x25 || code == 0x26 || code == 0x32 || code == 0x3C || (0x42 ≤ code && code ≤ 0x47)
  match fr.b.oc with
  | [] => (match code with
    | 0x5C => fr.setO [BitVec.ofNat 64 (b2n (flT f))]
    | 0x5D => fr.setOF [] (withT f true)
    | 0x5E => fr.setOF [] (withT f false)
    | _ => fr.setOF [] (withT f (!flT f)))
  | a :: t => (match code with
    | 0x5A => fr.setOF t (testFlags f a)
    | 0x5B => fr.setOF (a :: t) (testFlags f a)
    | 0x5C => fr.setO (BitVec.ofNat 64 (b2n (flT f)) :: a :: t)
    | 0x5D => fr.setOF (a :: t) (withT f true)
    | 0x5E => fr.setOF (a :: t) (withT f false)
    | 0x5F => fr.setOF (a :: t) (withT f (!flT f))
    | _ =>
      if one then let r := alu1 code f a; fr.setOF (r.1 :: t) r.2
      else match t with
        | [] => fr
        | b :: u =>
          if 0x50 ≤ code ∧ code ≤ 0x59 then fr.setOF u (compareFlags code f b a)
          else let r := alu2 code f b a; fr.setOF (r.1 :: u) r.2)

/-- Sign or zero extension of a loaded value of `n` bytes (R232). -/
def extend (n : Nat) (signed : Bool) (v : W64) : W64 :=
  if signed && v.getLsbD (8 * n - 1) then v ||| BitVec.ofNat 64 (2 ^ 64 - 2 ^ (8 * n)) else v

/-- ( addr -- v ), or ( addr -- addr+8 v ) with `post` (R233, R255). -/
def loadOp (c : CoreId) (sel n : Nat) (signed post : Bool) (fr : Fr) (s : State) : Out Fr :=
  match fr.b.oc with
  | [] => .ok fr s
  | addr :: t =>
    (loadBytes c sel addr n needRead false s).next (fun r s1 =>
      .ok { fr.setO (extend n signed r.1 :: (if post then (addr + 8) :: t else t)) with acc := fr.acc ++ r.2 } s1)

/-- ( v addr -- ), or ( v addr -- addr+8 ) with `post` (R233, R255). -/
def storeOp (c : CoreId) (sel n : Nat) (post : Bool) (fr : Fr) (s : State) : Out Fr :=
  match fr.b.oc with
  | addr :: v :: t =>
    (storeBytes c sel addr n v s).next (fun r s1 =>
      .ok { fr.setO (if post then (addr + 8) :: t else t) with sts := fr.sts ++ r.1, acc := fr.acc ++ r.2 } s1)
  | _ => .ok fr s

/-- The memory operations (R255): segment DATA, selector 1. -/
def memOp (c : CoreId) (code : Nat) (fr : Fr) (s : State) : Out Fr :=
  match code with
  | 0x70 => loadOp c 1 8 false false fr s
  | 0x71 => storeOp c 1 8 false fr s
  | 0x72 => loadOp c 1 4 false false fr s
  | 0x73 => loadOp c 1 4 true false fr s
  | 0x74 => loadOp c 1 2 false false fr s
  | 0x75 => loadOp c 1 2 true false fr s
  | 0x76 => loadOp c 1 1 false false fr s
  | 0x77 => loadOp c 1 1 true false fr s
  | 0x78 => storeOp c 1 4 false fr s
  | 0x79 => storeOp c 1 2 false fr s
  | 0x7A => storeOp c 1 1 false fr s
  | 0x7B => loadOp c 1 8 false true fr s
  | _ => storeOp c 1 8 true fr s

/-- PICK (R251): m = n mod 32, counted after n is popped. -/
def pickOp (c : CoreId) (fr : Fr) (s : State) : Out Fr :=
  match fr.b.oc with
  | [] => .ok fr s
  | n :: t =>
    let m := n.toNat % 32
    if fr.b.depth < m + 2 then .exc excStkunf s
    else match t[m]? with
      | some x =>
        if (s.core c).pendingCell = some (fr.b.depth - m - 2) then .hold .divide s else .ok (fr.setO (x :: t)) s
      | none => (awaitCell c false fr.b s).next (fun _ s1 => .ok fr s1)

/-- The divides (R252, R262): DIVZ, a wait for the divide unit, or the dispatch. -/
def divideOp (c : CoreId) (code : Nat) (fr : Fr) (s : State) : Out Fr :=
  match fr.b.oc with
  | a :: _ =>
    if a = 0 then .exc excDivz s
    else if (s.core c).divide.isSome then .hold .divide s
    else let f1 := aluOp code fr; .ok { f1 with div := some (f1.b.depth - 1) } s
  | [] => .ok fr s

def isDivide (code : Nat) : Bool := 0x2A ≤ code && code ≤ 0x2D

/-- A second half that takes the result of the first half's divide, as every second divide does, is held until the divide unit has
written it (R211, R262); the first half is dispatched meanwhile. -/
def awaitDivide (c : CoreId) (takes : Nat) (fr : Fr) (s : State) : Out Fr :=
  match fr.div with
  | none => .ok fr s
  | some i =>
    if i + takes < fr.b.depth ∨ takes = 0 then .ok fr s
    else
      let k := s.core c
      if (k.held.map (fun h => h.divided)).getD false then .ok { fr with div := none } s
      else .hold .divide (setCore c { k with
        divide := some ⟨k.level, i⟩, held := k.held.map (fun h => { h with divided := true }) } s)

/-- What a short operation of class N, A, M or K does to the frame; the cells it takes are at hand. -/
def shortBody (c : CoreId) (code : Nat) (fr : Fr) (s : State) : Out Fr :=
  if code = 0 then .ok fr s
  else if code = 0x08 then pickOp c fr s
  else if code < 0x20 then .ok (stackOp code fr) s
  else if isDivide code then divideOp c code fr s
  else if code < 0x70 then .ok (aluOp code fr) s
  else memOp c code fr s

/-- One half of a pair (R210, R341). -/
def shortHalf (c : CoreId) (code : Nat) (fr0 : Fr) (s : State) : Out Fr :=
  match shortInfo code with
  | none => .ok fr0 s
  | some i =>
    (needCells c i.takes i.takesR fr0 s).next (fun _ s1 =>
      (awaitDivide c i.takes fr0 s1).next (fun fr s2 =>
        (shortBody c code fr s2).next (fun fr1 s3 =>
          (needRoom c fr0.b fr1.b s3).next (fun _ s4 => .ok fr1 s4))))

/-- A frame whose bank marks dirty the groups that each half has changed, though the second may undo the first (R294). -/
def Fr.soiled (fr : Fr) (b0 b1 : Bank) : Fr :=
  { fr with b := { fr.b with dirty := fr.b.dirty ||| changedGroups b0 b1 ||| changedGroups b1 fr.b } }

/-- A pair whose halves are not solo (R210 to R213): both halves on one frame, then the commit. -/
def runPair (c : CoreId) (sa sb : Nat) (s : State) : Out Unit :=
  (shortHalf c sa (s.core c).frame s).next (fun fr1 s1 =>
    (shortHalf c sb fr1 s1).next (fun fr2 s2 =>
      (commit c (fr2.soiled (s.core c).run fr1.b) s2).next (fun _ s3 =>
        let dep := match shortInfo sa, shortInfo sb with
          | some a, some b => pairDepends a b
          | _, _ => false
        .ok () (if dep && !(s3.core c).detOn then withCore c (fun k => { k with pairser := k.pairser.bump 1 }) s3 else s3))))

end Sys2Proof.Machine
end

