-- ==== Sys2Proof/Machine/Long.lean ====
section
/-! DEFINITION. The long operations and the solo short operations, apart from the saves, loads and block operations
(R199, R216, R220 to R223, R233 to R240, R247 to R249, R256, R331, R353, R354, R362, R368). -/

namespace Sys2Proof.Machine

/-- How the flow of control goes on after a parcel that raises nothing. -/
inductive Flow where
  | done
  /-- an element has been done and the parcel executes again (R243) -/
  | more
  /-- a control transfer whose delay parcel follows (R217) -/
  | transfer (taken : Bool) (target : BitVec 48) (check : Bool)
  /-- ERET, whose delay parcel follows (R236) -/
  | eret
  /-- the parcel itself has set where execution goes on -/
  | moved
  /-- WAIT stops issue after this parcel (R369) -/
  | wait
  /-- BRK halts the core after this parcel (R256) -/
  | brk
  deriving DecidableEq, Repr

/-- A parcel that works on the frame alone: it takes cells, changes the frame, and commits. -/
def onFrame (c : CoreId) (n r : Nat) (f : Fr → State → Out Fr) (s : State) : Out Flow :=
  let fr := (s.core c).frame
  (needCells c n r fr s).next (fun _ s1 =>
    (f fr s1).next (fun fr1 s2 =>
      (needRoom c fr.b fr1.b s2).next (fun _ s3 =>
        (commit c fr1 s3).next (fun _ s4 => .ok .done s4))))

/-- A change of the frame without exceptions. -/
def pureFr (f : Fr → Fr) (fr : Fr) (s : State) : Out Fr := .ok (f fr) s

/-- The core is at `level` or above, or PRIV is raised. -/
def needPriv (c : CoreId) (level : Nat) (s : State) : Out Unit := if (s.core c).pl ≥ level then .ok () s else .exc excPriv s

def sext10 (f : BitVec 10) : W64 := f.signExtend 64

/-! ## Literals and control words (R199, R216) -/

def runLit (c : CoreId) (field : BitVec 10) (s : State) : Out Flow :=
  onFrame c 0 0 (pureFr (fun fr => fr.setO (sext10 field :: fr.b.oc))) s

def runLitx (c : CoreId) (field : BitVec 10) (s : State) : Out Flow :=
  onFrame c 1 0 (pureFr (fun fr => match fr.b.oc with
    | x :: t => fr.setO (((x <<< 10) ||| field.zeroExtend 64) :: t)
    | [] => fr)) s

def runAddi (c : CoreId) (field : BitVec 10) (s : State) : Out Flow :=
  onFrame c 1 0 (pureFr (fun fr => match fr.b.oc with
    | a :: t => let r := addFlags fr.b.flags a (sext10 field) false; fr.setOF (r.1 :: t) r.2
    | [] => fr)) s

/-- The lowest levels that may read and write a control word (R199); none for a reserved number. -/
def cwLevels (n : Nat) : Option (Nat × Nat) :=
  match n with
  | 0x000 => some (1, 2)
  | 0x001 => some (0, 0)
  | 0x002 => some (0, 0)
  | 0x003 => some (0, 2)
  | 0x010 => some (1, 1)
  | 0x011 => some (1, 1)
  | 0x012 => some (1, 1)
  | 0x013 => some (1, 1)
  | 0x018 => some (1, 2)
  | 0x019 => some (1, 1)
  | 0x01A => some (1, 1)
  | 0x020 => some (2, 2)
  | n => if 0x040 ≤ n ∧ n ≤ 0x05F then some (1, 2) else none

def runCwr (c : CoreId) (field : BitVec 10) (s : State) : Out Flow :=
  match cwLevels field.toNat with
  | none => .exc excIllegal s
  | some l =>
    (needPriv c l.1 s).next (fun _ s1 =>
      onFrame c 0 0 (pureFr (fun fr => fr.setO (((s1.core c).cw field.toNat).getD 0 :: fr.b.oc))) s1)

def runCww (c : CoreId) (field : BitVec 10) (s : State) : Out Flow :=
  match cwLevels field.toNat with
  | none => .exc excIllegal s
  | some l =>
    (needPriv c l.2 s).next (fun _ s1 =>
      let v := ((s1.core c).run.oc.head?).getD 0
      (onFrame c 1 0 (pureFr (fun fr => fr.setO fr.b.oc.tail)) s1).next (fun _ s2 =>
        .ok .done (withCore c (fun k => k.writeCw field.toNat v) s2)))

/-! ## Loads and stores (R233, R234) -/

/-- TYPE of LD (R234): bytes and sign extension; none for the reserved code. -/
def ldType (t : Nat) : Option (Nat × Bool) :=
  match t with
  | 0 => some (1, false)
  | 1 => some (1, true)
  | 2 => some (2, false)
  | 3 => some (2, true)
  | 4 => some (4, false)
  | 5 => some (4, true)
  | 6 => some (8, false)
  | _ => none

def segOf (field : BitVec 10) : Nat := field.toNat / 64

def runLd (c : CoreId) (field : BitVec 10) (s : State) : Out Flow :=
  match ldType (field.toNat / 8 % 8) with
  | none => .exc excIllegal s
  | some t => onFrame c 1 0 (loadOp c (segOf field) t.1 t.2 false) s

def runSt (c : CoreId) (field : BitVec 10) (s : State) : Out Flow :=
  onFrame c 2 0 (storeOp c (segOf field) (2 ^ (field.toNat / 16 % 4)) false) s

/-- The address of LDC and STC: base + 8 × OFF. Bits [63:48] of the base cell must be 0 (R232). -/
def offset8 (field : BitVec 10) (fr : Fr) (s : State) : Out Fr :=
  match fr.b.oc with
  | a :: t =>
    let addr := a + BitVec.ofNat 64 (8 * (field.toNat % 64))
    if fieldAt 48 16 a = 0 then .ok (fr.setO (addr :: t)) s else .exc (excSeg (segOf field) (fieldAt 0 48 addr)) s
  | [] => .ok fr s

def runLdc (c : CoreId) (field : BitVec 10) (s : State) : Out Flow :=
  onFrame c 1 0 (fun fr s => (offset8 field fr s).next (fun fr s => loadOp c (segOf field) 8 false false fr s)) s

def runStc (c : CoreId) (field : BitVec 10) (s : State) : Out Flow :=
  onFrame c 2 0 (fun fr s => (offset8 field fr s).next (fun fr s => storeOp c (segOf field) 8 false fr s)) s

/-! ## LOCK and UNLOCK (R238 to R240) -/

/-- An address cell that is no multiple of `m` raises ALIGN (R339 rank 8). -/
def needAlign (sel m : Nat) (addr : W64) (s : State) : Out Unit :=
  if addr.toNat % m = 0 then .ok () s else .exc (excAlign sel (fieldAt 0 48 addr)) s

/-- The same for an access that must not split (R348): a segment BASE that makes the linear address no multiple of `b` raises ALIGN
too (DEDUCED, notes/assumptions/67.md). -/
def needWhole (c : CoreId) (sel m b : Nat) (addr : W64) (s : State) : Out Unit :=
  (needAlign sel m addr s).next (fun _ s1 =>
    if segBase ((s1.core c).segNow sel).1 % b = 0 then .ok () s1 else .exc (excAlign sel (fieldAt 0 48 addr)) s1)

def topCell (k : Core) : W64 := (k.run.oc.head?).getD 0

/-- The physical address of an aligned word for LOCK or UNLOCK, after the checks of R313, R319 and R323. -/
def lockXlate (c : CoreId) (sel : Nat) (kind : Access) (need : XNeed) (addr : W64) (s : State) : Out Nat :=
  match segLinear (s.core c) (s.core c).pl kind sel addr 8 with
  | none => .exc (excSeg sel (fieldAt 0 48 addr)) s
  | some lin => dataXlate c (s.core c).pl lin need true false s

/-- The word of the Vector Store at an address that a bank of this tile holds. -/
def ownBankWord (s : State) (pa : Nat) : Option Nat :=
  match routeOf s pa with
  | .vs off => if off / 8 < wordSpace s then homeWord s (off / 8) else none
  | _ => none

/-- LOCK (R238). In the Vector Store the reservation stands from the grant of the read, so that no write between it and the rest of
the parcel is missed; elsewhere the read and the reservation fall together. -/
def runLock (c : CoreId) (field : BitVec 10) (s : State) : Out Flow :=
  let sel := segOf field
  (needCells c 1 0 (s.core c).frame s).next (fun _ s1 =>
    let addr := topCell (s1.core c)
    (needWhole c sel 8 8 addr s1).next (fun _ s2 =>
      (lockXlate c sel .read needLock addr s2).next (fun pa s3 =>
        let granted := (ownBankWord s3 pa).isSome && (s3.core c).got.any (fun g => g.word == pa / 8)
        (onFrame c 1 0 (fun fr s =>
          (readBytes c (s.core c).pl pa 8 true false true s).next (fun v s' =>
            .ok { fr.setO (v :: fr.b.oc.tail) with acc := [⟨false, 8, pa, v⟩] } s')) s3).next (fun _ s4 =>
          .ok .done (if granted then s4 else withCore c (fun k => { k with lockRes := some (BitVec.ofNat 46 (pa / 64)) }) s4)))))

/-- Another core has presented a write to this external line, which may come before an UNLOCK's (R258). -/
def rivalStore (s : State) (c : CoreId) (line : Nat) : Bool :=
  fours.any (fun d => d != c && ((s.core d).sb.head?).any (fun e => e.began && e.word.toNat / 8 == line && (match e.route with
    | some (.ext kind _) => !(s.core d).dcOn kind || (s.core d).detOn
    | _ => false)))

/-- The write of an UNLOCK whose reservation holds, apart from that of a word in this tile's banks: in the data cache at once, or
through the store buffer. Either clears the other cores' reservations on the line now (R239, R240). -/
def unlockWrite (c : CoreId) (pa : Nat) (v : W64) (s : State) : State :=
  let k := s.core c
  match routeOf s pa with
  | .vs off =>
    if off / 8 ≥ wordSpace s ∨ partnerRefuses (off / 8) (k.pl == 2) then lateError c (BitVec.ofNat 52 pa) false s
    else clearLocks (some c) (pa / 64) s
  | .ext kind _ =>
    if k.dcOn kind && (Tab.find k.dcache (pa / 64)).isSome then cacheStore c (pa / 8) v 255 s
    else makeStores c [sbEntry pa 8 v k.pl] (clearLocks (some c) (pa / 64) s)
  | .setup _ => s

/-- The end of an UNLOCK: T tells whether it writes, and the reservation is cleared in either case (R239). -/
def unlockEnd (c : CoreId) (pa : Nat) (v : W64) (t : Bool) (after : State → State) (s : State) : Out Flow :=
  (onFrame c 2 0 (pureFr (fun fr =>
    { fr.setOF (fr.b.oc.drop 2) (withT fr.b.flags t) with acc := if t then [⟨true, 8, pa, v⟩] else [] })) s).next (fun _ s1 =>
      .ok .done (withCore c (fun k => { k with lockRes := none }) (after s1)))

/-- UNLOCK (R239). A word in this tile's banks is written by a request of its own, whose grant decides on the reservation; a refusal
there is a late error, with T = 1 (R258). -/
def runUnlock (c : CoreId) (field : BitVec 10) (s : State) : Out Flow :=
  let sel := segOf field
  (needCells c 2 0 (s.core c).frame s).next (fun _ s1 =>
    let addr := topCell (s1.core c)
    let v := (((s1.core c).run.oc.tail).head?).getD 0
    (needWhole c sel 8 8 addr s1).next (fun _ s2 =>
      (lockXlate c sel .write needWrite addr s2).next (fun pa s3 =>
        let k := s3.core c
        let holds := decide (k.lockRes = some (BitVec.ofNat 46 (pa / 64))) && !rivalStore s3 c (pa / 64)
        match k.got.find? (fun g => g.word == pa / 8), ownBankWord s3 pa with
        | some g, some _ =>
          if g.bad then unlockEnd c pa v true (lateError c (BitVec.ofNat 52 pa) false) s3 else unlockEnd c pa v (g.data != 0) id s3
        | _, some w =>
          if s3.vs.reqs.any (fun r => r.dest == .unlock c (pa / 8)) then .hold .vs s3
          else if !holds then unlockEnd c pa v false id s3
          else if !k.sb.isEmpty then .hold .drain s3
          else .hold .vs (present [bankReq 15 w (.write v 255 false) (k.pl == 2) (.unlock c (pa / 8))] (voidDet c s3))
        | _, none =>
          if !holds then unlockEnd c pa v false id s3
          else if !k.sb.isEmpty then .hold .drain s3
          else unlockEnd c pa v true (unlockWrite c pa v) s3)))

/-! ## Chain issue and status (R247 to R249, R299) -/

/-- Every earlier store meets R156: its response has come. -/
def needDrained (c : CoreId) (why : HoldFor) (s : State) : Out Unit := if (s.core c).sb.isEmpty then .ok () s else .hold why s

def freeEntry (s : State) (c : CoreId) : Option (Fin 8) :=
  ([0, 1, 2, 3, 4, 5, 6, 7] : List (Fin 8)).find? (fun e => !(s.entry c e).taken)

/-- What the engine captures from the core (R169, R247). -/
def captureCore (k : Core) : Captured :=
  let pt := k.inForce 0x020
  let d := k.segNow 4
  ⟨bitAt 0 pt, BitVec.ofNat 40 (fieldAt 12 40 pt), BitVec.ofNat 2 k.pl, d.1, d.2⟩

/-- The program's address, with the faults of R247: a word index, or the physical addresses of the one or two pages it touches. -/
def progAddr (c : CoreId) (form : Bool) (sel : Nat) (addr : W64) (s : State) : Out ProgAddr :=
  if !form then
    (needAlign sel 8 addr s).next (fun _ s1 => .ok (.word addr) s1)
  else
    (needWhole c sel 64 64 addr s).next (fun _ s1 =>
      let k := s1.core c
      match segLinear k k.pl .read sel addr 1088 with
      | none => .exc (excSeg sel (fieldAt 0 48 addr)) s1
      | some lin =>
        (coreXlate c k.pl lin needRead false s1).next (fun pa0 s2 =>
          let next := (lin / 4096 + 1) * 4096
          if lin + 1087 < next then .ok (.phys (BitVec.ofNat 52 pa0) (BitVec.ofNat 52 (pa0 / 4096 * 4096 + 4096))) s2
          else (coreXlate c k.pl next needRead false s2).next (fun pa1 s3 =>
            .ok (.phys (BitVec.ofNat 52 pa0) (BitVec.ofNat 52 pa1)) s3)))

def runVissue (c : CoreId) (field : BitVec 10) (s : State) : Out Flow :=
  let form := field.getLsbD 9
  let wait := field.getLsbD 8
  (needCells c 1 0 (s.core c).frame s).next (fun _ s1 =>
    (progAddr c form (field.toNat % 16) (topCell (s1.core c)) s1).next (fun prog s2 =>
      (needDrained c .fence s2).next (fun _ s3 =>
        match freeEntry s3 c with
        | none =>
          if wait then .hold .entry s3
          else onFrame c 1 0 (pureFr (fun fr => fr.setOF (allOnesWord :: fr.b.oc.tail) (withT fr.b.flags false))) s3
        | some e =>
          let cap := captureCore (s3.core c)
          (onFrame c 1 0 (pureFr (fun fr =>
            let fr1 := fr.setOF (BitVec.ofNat 64 e.val :: fr.b.oc.tail) (withT fr.b.flags true)
            { fr1 with b := { fr1.b with cstage := fr1.b.cstage ||| BitVec.ofNat 8 (2 ^ e.val) } })) s3).next (fun f s4 =>
            let s5 := setEntry c e { entry0 with taken := true, prog := prog, cap := cap, stage := .queued } s4
            .ok f { s5 with iq := s5.iq.set c (s5.iq.get c ++ [e]) }))))

/-- VWAIT pushes four words for its ticket, W0 on top, and sets T. -/
def vwaitPush (c : CoreId) (ws : List W64) (t : Bool) (e : Option (Fin 8)) (s : State) : Out Flow :=
  onFrame c 1 0 (pureFr (fun fr =>
    let fr1 := fr.setOF (ws ++ fr.b.oc.tail) (withT fr.b.flags t)
    match e with
    | some i => { fr1 with b := { fr1.b with cstage := fr1.b.cstage &&& ~~~ BitVec.ofNat 8 (2 ^ i.val) } }
    | none => fr1)) s

def runVwait (c : CoreId) (field : BitVec 10) (s : State) : Out Flow :=
  let wait := field.getLsbD 8
  (needCells c 1 0 (s.core c).frame s).next (fun _ s1 =>
    let t := (topCell (s1.core c)).toNat
    let none4 := vwaitPush c [0, 0, 0, 0] false none s1
    if t > 7 then none4
    else
      let e : Fin 8 := BitVec.toFin (BitVec.ofNat 3 t)
      let q := s1.entry c e
      if !(s1.core c).run.cstage.getLsbD t then none4
      else match q.record with
        | some r =>
          (vwaitPush c [r.w0, r.w1, r.w2, r.w3] true (if q.final then some e else none) s1).next (fun f s2 =>
            .ok f (setEntry c e (if q.final then { q with taken := false, record := none, final := false } else { q with record := none }) s2))
        | none => if wait && q.taken then .hold .record s1 else none4)

/-! ## Invalidation (R331, R332) -/

/-- INVPG: every entry whose page holds `lin`, in the core TLBs and the stream TLB; walks that would enter it lose their result. -/
def discardPage (lin : BitVec 48) (s : State) : State :=
  { s with
    cores := s.cores.map (fun k => { k with
      tlb := k.tlb.filter (fun t => !t.holds lin.toNat), walks := k.walks.map (fun w => { w with inv := lin :: w.inv }) })
    eng := { s.eng with
      tlb := s.eng.tlb.filter (fun t => !t.holds lin.toNat), walks := s.eng.walks.map (fun w => { w with inv := lin :: w.inv }) } }

def discardAll (s : State) : State :=
  { s with
    cores := s.cores.map (fun k => { k with tlb := [], walks := k.walks.map (fun w => { w with stale := true }) })
    eng := { s.eng with tlb := [], walks := s.eng.walks.map (fun w => { w with stale := true }) } }

/-- INVWALK: the walk caches. A core's walk in flight goes to its end with the entry it has used, and leaves none there (R335). -/
def discardWalks (s : State) : State :=
  { s with cores := s.cores.map (fun k => { k with wcache := [], walks := k.walks.map (fun w => { w with late := true }) }) }

/-- A walk that INVWALK has overtaken is in flight. -/
def walksLate (s : State) : Bool := s.cores.any (fun k => k.walks.any (fun w => w.late))

/-- The parcel that executes again has waited for `w`. -/
def hasWaited (w : HoldFor) (c : CoreId) (s : State) : Bool :=
  match (s.core c).held with
  | some h => h.why == w
  | none => false

def runInvpg (c : CoreId) (s : State) : Out Flow :=
  (needPriv c 2 s).next (fun _ s1 =>
    (needCells c 1 0 (s1.core c).frame s1).next (fun _ s2 =>
      (needDrained c .drain s2).next (fun _ s3 =>
        let lin : BitVec 48 := (topCell (s3.core c)).truncate 48
        (onFrame c 1 0 (pureFr (fun fr => fr.setO fr.b.oc.tail)) s3).next (fun f s4 => .ok f (discardPage lin s4)))))

def runInvall (c : CoreId) (s : State) : Out Flow :=
  (needPriv c 2 s).next (fun _ s1 => (needDrained c .drain s1).next (fun _ s2 => .ok .done (discardAll s2)))

/-- INVWALK completes when no walk that was in flight at its start can still enter a translation (R332). -/
def runInvwalk (c : CoreId) (s : State) : Out Flow :=
  (needPriv c 2 s).next (fun _ s1 => (needDrained c .drain s1).next (fun _ s2 =>
    let s3 := if hasWaited .walks c s2 then s2 else discardWalks s2
    if walksLate s3 then .hold .walks s3 else .ok .done s3))

/-! ## Events (R306, R362, R368, R369) -/

def runAck (c : CoreId) (s : State) : Out Flow :=
  (needPriv c 1 s).next (fun _ s1 =>
    (needCells c 1 0 (s1.core c).frame s1).next (fun _ s2 =>
      let n := (topCell (s2.core c)).toNat % 512
      (onFrame c 1 0 (pureFr (fun fr => fr.setO fr.b.oc.tail)) s2).next (fun f s3 =>
        .ok f { s3 with ev := Tab.modify evSrc0 s3.ev n (fun e => { e with cnt := if e.cnt = 0 then 0 else e.cnt - 1 }) })))

def excPriofault (level : Nat) : Exc := ⟨0x20, BitVec.ofNat 64 level, false⟩

def runEos (c : CoreId) (field : BitVec 10) (s : State) : Out Flow :=
  (needPriv c 1 s).next (fun _ s1 =>
    let level := field.toNat % 8
    let x := s1.evc.get c
    if x.active != 0 && topOf x.active == level then
      .ok .done { s1 with evc := s1.evc.set c { x with active := x.active &&& ~~~ BitVec.ofNat 8 (2 ^ level) } }
    else .exc (excPriofault level) s1)

/-- The RUNNING slot of a core. -/
def Sched.runningSlot (d : Sched) : Option Nat := (List.range 8).find? (fun i => (d.at i).st == .running)

/-- EN has been set: at a level-0 boundary of a context that runs, slot SLOT becomes RUNNING with it (R309). -/
def settleArm (c : CoreId) (s : State) : State :=
  let k := s.core c
  if k.sched.arm && k.sched.en && k.level == 0 && (k.st == .running || k.st == .waiting) then
    let i := k.sched.slot.toNat
    setCore c { k with sched := { k.sched.put i { k.sched.at i with st := .running } with arm := false } } s
  else s

/-- WAIT (R306, R369): under the scheduler it consumes an arrival or gives up its slot; otherwise it stops issue. -/
def runWait (c : CoreId) (s : State) : Out Flow :=
  (needPriv c 1 s).next (fun _ s1 =>
    let k := s1.core c
    if k.level = 0 && k.sched.en then
      match k.sched.runningSlot with
      | some i =>
        let t := k.sched.at i
        if t.tcnt != 0 then .ok .done (setCore c { k with sched := k.sched.put i { t with tcnt := t.tcnt - 1 } } s1)
        else if k.divide.isSome then .hold .divide s1
        else .ok .wait s1
      | none => .ok .wait s1
    else .ok .wait s1)

/-! ## Transfers (R217, R235 to R237, R353, R354) -/

/-- BRANCH packet of a taken transfer (R539); a taken transfer other than the loop's own leaves the loop buffer (R266, R267). -/
def traceBranch (c : CoreId) (target : BitVec 48) (s : State) : State := tracePacket 2 c.val (bytesLE target.toNat 6) s

def pastLoop (c : CoreId) (s : State) : State := withCore c Core.leaveLoop s

/-- Code lines from the target's to the delay parcel's (R266). -/
def loopLines (target pc : BitVec 48) : Nat := (advance pc 1).toNat / 16 - target.toNat / 16 + 1

/-- What a relative BR does to the loop buffer (R266, R267). -/
def loopBr (c : CoreId) (pc target : BitVec 48) (taken : Bool) (s : State) : State :=
  withCore c (fun k =>
    if !taken then (if k.lbprev = some pc then k.leaveLoop else k)
    else if target.toNat ≤ pc.toNat && k.act.getLsbD 3 && !k.detOn then
      if k.lbprev = some pc then { k with lbact := k.lbact || loopLines target pc ≤ 8 }
      else { k.leaveLoop with lbprev := some pc }
    else k.leaveLoop) s

def dispTarget (pc : BitVec 48) (field : BitVec 10) : BitVec 48 := advance pc field.toInt

def runBr (cx : Cx) (field : BitVec 10) (s : State) : Out Flow :=
  let target := dispTarget cx.pc field
  .ok (.transfer true target true) (traceBranch cx.c target (loopBr cx.c cx.pc target true s))

/-- The return address of CALL and CALLX joins the return stack. -/
def pushRet (cx : Cx) (fr : Fr) : Fr := fr.setOR fr.b.oc ((advance cx.pc 2).zeroExtend 64 :: fr.b.rc)

def runCall (cx : Cx) (field : BitVec 10) (s : State) : Out Flow :=
  let target := dispTarget cx.pc field
  (onFrame cx.c 0 0 (pureFr (pushRet cx)) s).next (fun _ s1 =>
    .ok (.transfer true target true) (traceBranch cx.c target (pastLoop cx.c s1)))

def runBrx (cx : Cx) (s : State) : Out Flow :=
  (needCells cx.c 1 0 (s.core cx.c).frame s).next (fun _ s1 =>
    let target : BitVec 48 := (topCell (s1.core cx.c)).truncate 48
    (onFrame cx.c 1 0 (pureFr (fun fr => fr.setO fr.b.oc.tail)) s1).next (fun _ s2 =>
      .ok (.transfer true target true) (traceBranch cx.c target (pastLoop cx.c s2))))

def runCallx (cx : Cx) (s : State) : Out Flow :=
  (needCells cx.c 1 0 (s.core cx.c).frame s).next (fun _ s1 =>
    let target : BitVec 48 := (topCell (s1.core cx.c)).truncate 48
    (onFrame cx.c 1 0 (pureFr (fun fr => pushRet cx (fr.setO fr.b.oc.tail))) s1).next (fun _ s2 =>
      .ok (.transfer true target true) (traceBranch cx.c target (pastLoop cx.c s2))))

def runRet (cx : Cx) (s : State) : Out Flow :=
  (needCells cx.c 0 1 (s.core cx.c).frame s).next (fun _ s1 =>
    let target : BitVec 48 := (((s1.core cx.c).run.rc.head?).getD 0).truncate 48
    (onFrame cx.c 0 1 (pureFr (fun fr => fr.setOR fr.b.oc fr.b.rc.tail)) s1).next (fun _ s2 =>
      .ok (.transfer true target false) (traceBranch cx.c target (pastLoop cx.c s2))))

/-- FSTAT as SVC writes it (R352). -/
def mkFstat (sstatus : BitVec 7) (nest : Bool) (callno : BitVec 10) : W64 :=
  BitVec.ofNat 64 (sstatus.toNat + 2 ^ 8 + b2n nest * 2 ^ 9 + callno.toNat * 2 ^ 16)

/-- SVC (R353). -/
def runSvc (cx : Cx) (field : BitVec 10) (s : State) : Out Flow :=
  let k := ((s.core cx.c).sync).leaveLoop
  let b := k.run
  let epl := if fieldAt 48 2 k.fentry = 2 then 2 else 1
  let target : BitVec 48 := k.fentry.truncate 48
  let b1 := { b with
    fpc := advance cx.pc 1
    fstat := mkFstat b.status (bitAt 8 b.fstat) field
    status := mkStatusWord (Nat.max (b.status.toNat % 4) epl) (b.status.getLsbD 2) k.level.toNat }
  let k1 := { (k.putRun b1).goTo target with lockRes := none, chk := some cx.pc }
  .ok .moved (traceBranch cx.c target (setCore cx.c k1 s))

/-- PL and HOLD that a return restores from a saved STATUS, at privilege `pl` with HOLD `cur` in force (R347). -/
def restorePl (pl : Nat) (saved : Nat) : Nat := Nat.min (saved % 4) pl
def restoreHold (pl : Nat) (cur : Bool) (saved : Bool) : Bool := if pl = 2 then saved else saved && cur

/-- FRTN (R354). -/
def runFrtn (cx : Cx) (s : State) : Out Flow :=
  (needPriv cx.c 1 s).next (fun _ s1 =>
    let k0 := s1.core cx.c
    let pl := k0.pl
    let k := (k0.sync).leaveLoop
    let b := k.run
    let b1 := { b with
      status := mkStatusWord (restorePl pl (fieldAt 0 7 b.fstat)) (restoreHold pl k0.hold (bitAt 2 b.fstat)) k.level.toNat
      fstat := b.fstat &&& ~~~ (0x100 : W64) }
    let k1 := { (k.putRun b1).goTo b.fpc with lockRes := none }
    .ok .moved (traceBranch cx.c b.fpc (setCore cx.c k1 s1)))

/-- What ERET does once its delay parcel has run (R347). -/
def doEret (c : CoreId) (s : State) : State :=
  let k0 := s.core c
  let pl := k0.pl
  let lc := k0.level
  let bc := k0.bank lc
  let e := bc.estat
  let lk : BitVec 3 := if fieldAt 36 3 e ≤ lc.toNat then BitVec.ofNat 3 (fieldAt 36 3 e) else lc
  let hold := restoreHold pl k0.hold (bitAt 34 e)
  let k1 := (k0.sync).leaveLoop
  let k2 := k1.putBank lc { bc with estat := e &&& ~~~ (0x4000 : W64) }
  let bk := k2.bank lk
  let k3 := k2.putBank lk { bk with status := mkStatusWord (restorePl pl (fieldAt 32 2 e)) hold lk.toNat }
  let k4 := { k3.goTo bc.epc with level := lk, lockRes := none }
  let k5 := if bitAt 10 e then { k4 with repResume := true, repHold := true }
    else if bitAt 9 e then { k4 with delay := some ⟨bc.epc, true, bc.etarget, false, false⟩ }
    else k4
  traceBranch c bc.epc (setCore c k5 s)

/-! ## REP, SYNC, FENCE, BRK (R220 to R222, R256) -/

/-- REP whose condition holds (R220, R221). -/
def runRep (cx : Cx) (field : BitVec 10) (s : State) : Out Flow :=
  let count := field.toNat % 512
  let ni := field.getLsbD 9
  let start (n : Nat) (s : State) : Out Flow :=
    .ok .moved (withCore cx.c (fun k =>
      let k1 := k.putRun { k.run with loopcnt := BitVec.ofNat 32 n }
      if n = 0 then { k1 with pc := advance cx.pc 2 }
      else { k1 with pc := advance cx.pc 1, rep := some ⟨cx.pc, ni, true, false⟩ }) s)
  if count != 0 then start count s
  else
    (needCells cx.c 1 0 (s.core cx.c).frame s).next (fun _ s1 =>
      let n := Nat.min (topCell (s1.core cx.c)).toNat (2 ^ 32 - 1)
      (onFrame cx.c 1 0 (pureFr (fun fr => fr.setO fr.b.oc.tail)) s1).next (fun _ s2 => start n s2))

/-- SYNC, a SYNC point (R267, R278, R280). -/
def runSync (c : CoreId) (s : State) : Out Flow :=
  let s1 := withCore c (fun k => k.sync.leaveBuffer) s
  .ok .done (if (s1.core c).detOn && !(s1.core c).act.getLsbD 1 then flushDcache c s1 else s1)

def runFence (c : CoreId) (s : State) : Out Flow := (needDrained c .fence s).next (fun _ s1 => .ok .done s1)

/-- BRK (R256): a halt where the level permits it, otherwise BREAK. -/
def runBrk (c : CoreId) (s : State) : Out Flow :=
  if dbgLevel s = 2 then (if (s.core c).divide.isSome then .hold .divide s else .ok .brk s) else .exc excBreak s

end Sys2Proof.Machine
end

