-- ==== Sys2Proof/Machine/Block.lean ====
section
/-! DEFINITION. The block operations MOVB, STM and LDM (R241 to R243, R246, R301), and the saves and loads of contexts
(R243 to R245, R294 to R300). -/

namespace Sys2Proof.Machine

/-- A parcel that takes the operand cells for which `takes` holds, counted from the deepest, waits for a divide whose result is among
them (R262). -/
def needDivide (c : CoreId) (takes : Nat → Bool) (s : State) : Out Unit :=
  if ((s.core c).pendingCell).any takes then .hold .divide s else .ok () s

/-! ## MOVB (R241, R242) -/

/-- The value of a byte of memory as core `c` would load it; a free one where only a port could tell it. -/
def peekByte (c : CoreId) (pa : Nat) (s : State) : Byte × State :=
  let k := s.core c
  let free : Byte × State := let (x, s1) := s.takeWord; (wordByte x 0, s1)
  match sbByte k.sb pa with
  | some b => (b, s)
  | none => match routeOf s pa with
    | .vs _ => (match ownBankWord s pa with
      | some w => (wordByte (s.vs.mem.word (s.vs.keyOf w)) (pa % 8), s)
      | none => free)
    | .setup _ => free
    | .ext kind _ =>
      let own := if k.dcOn kind then (Tab.find k.dcache (pa / 64)).map (fun l => l.data) else none
      match (if own.isSome then own else if kind = .cached then dirtyCopy s (pa / 64) else none) with
      | some d => (wordByte (wordOfLine d (pa / 8 % 8)) (pa % 8), s)
      | none => free

/-- The original values of overwritten source bytes, of the MOVB that continues with these cells. -/
def movbOrig (k : Core) (src dst : W64) : List (Nat × Byte) :=
  match k.movb with
  | some m => if m.src = src ∧ m.dst = dst then m.orig else []
  | none => []

/-- The `n` bytes read from `slin` on: one that this MOVB has written before holds its original value or the written one, which a free
value decides (R242). -/
def mixBytes (orig : List (Nat × Byte)) (slin n : Nat) (v : W64) (s : State) : W64 × State :=
  (List.range n).foldl (fun (a : W64 × State) j =>
    match orig.find? (fun e => e.1 == slin + j) with
    | none => a
    | some e =>
      let (b, s1) := a.2.takeBool
      (if b then mergeBytes a.1 (e.2.zeroExtend 64 <<< (8 * j)) (BitVec.ofNat 8 (2 ^ j)) else a.1, s1)) (v, s)

/-- The bytes that an element of `n` bytes overwrites at `dlin`, reached through the accesses `acc`, where they lie in the rest of the
source, from `lo` to below `hi`. -/
def recordBytes (c : CoreId) (dlin n lo hi : Nat) (acc : List DAcc) (s : State) : List (Nat × Byte) × State :=
  let n0 := if acc.length = 1 then n else 8 - dlin % 8
  (List.range n).foldl (fun (a : List (Nat × Byte) × State) j =>
    if lo ≤ dlin + j ∧ dlin + j < hi then
      let pa := if j < n0 then ((acc[0]?).map (fun x => x.pa)).getD 0 + j else ((acc[1]?).map (fun x => x.pa)).getD 0 + (j - n0)
      let (b, s1) := peekByte c pa a.2
      (a.1 ++ [(dlin + j, b)], s1)
    else a) ([], s)

/-- One element of MOVB, or its end. -/
def runMovb (c : CoreId) (field : BitVec 10) (s : State) : Out Flow :=
  let sseg := segOf field
  let dseg := field.toNat / 4 % 16
  (needCells c 3 0 (s.core c).frame s).next (fun _ s1 =>
    let k := s1.core c
    match k.run.oc with
    | n :: dst :: src :: t =>
      if n = 0 then
        (onFrame c 3 0 (pureFr (fun fr => fr.setO t)) s1).next (fun f s2 => .ok f (withCore c (fun k => { k with movb := none }) s2))
      else
        let len := Nat.min n.toNat (8 - dst.toNat % 8)
        (loadPieces c sseg src len needRead false s1).next (fun ps s2 =>
          (storeBytes c dseg dst len 0 s2).next (fun _ s3 =>
            (readPieces c len ps s3).next (fun r s4 =>
              let dlin := segBase (k.segNow dseg).1 + fieldAt 0 48 dst
              let slin := segBase (k.segNow sseg).1 + fieldAt 0 48 src
              let orig := movbOrig k src dst
              let (v, s5) := mixBytes orig slin len r.1 s4
              (storeBytes c dseg dst len v s5).next (fun w s6a =>
                let (new, s6) := recordBytes c dlin len (slin + len) (slin + n.toNat) w.2 s6a
                let orig' := orig.filter (fun e => slin + len ≤ e.1) ++ new
                let left := n - BitVec.ofNat 64 len
                let src' := src + BitVec.ofNat 64 len
                let dst' := dst + BitVec.ofNat 64 len
                let fr := (s6.core c).frame
                let fr1 := { fr.setO (if left = 0 then t else left :: dst' :: src' :: t) with sts := w.1, acc := r.2 ++ w.2 }
                (commit c fr1 s6).next (fun _ s7 =>
                  .ok (if left = 0 then .done else .more)
                    (withCore c (fun k => { k with movb := if left = 0 then none else some ⟨src', dst', orig'⟩ }) s7))))))
    | _ => .ok .done s1)

/-! ## STM and LDM (R246, R301) -/

def lowestSet (m : W64) : Option Nat := (List.range 32).find? (fun i => m.getLsbD i)
def highestSet (m : W64) : Option Nat := ((List.range 32).reverse).find? (fun i => m.getLsbD i)

/-- A cell of the operand cache replaced. -/
def setCell (oc : List W64) (i : Nat) (v : W64) : List W64 := oc.take i ++ v :: oc.drop (i + 1)

/-- One element of STM or LDM, or its end. -/
def runStmLdm (c : CoreId) (load : Bool) (field : BitVec 10) (s : State) : Out Flow :=
  let sel := segOf field
  (needCells c 2 0 (s.core c).frame s).next (fun _ s1 =>
      let fr := (s1.core c).frame
      match fr.b.oc with
      | addr :: mask :: t =>
        (match lowestSet mask, highestSet mask with
        | some i, some j =>
          if fr.b.depth < j + 3 then .exc excStkunf s1
          else
            (needWhole c sel 8 8 addr s1).next (fun _ s2 =>
              ((if t.length ≤ i then awaitCell c false fr.b s2 else .ok () s2).next (fun _ s' =>
                needDivide c (fun d => d + i + 3 == fr.b.depth) s')).next (fun _ s3 =>
                let mask' := mask &&& ~~~ BitVec.ofNat 64 (2 ^ i)
                let addr' := addr + 8
                let left := (lowestSet mask').isSome
                let cells (u : List W64) : List W64 := if left then addr' :: mask' :: u else u
                let fin (fr1 : Fr) (s : State) : Out Flow := (commit c fr1 s).next (fun _ s' => .ok (if left then .more else .done) s')
                if load then
                  (loadBytes c sel addr 8 needRead false s3).next (fun r s4 =>
                    fin { fr.setO (cells (setCell t i r.1)) with acc := r.2 } s4)
                else
                  (storeBytes c sel addr 8 ((t[i]?).getD 0) s3).next (fun r s4 =>
                    fin { fr.setO (cells t) with sts := r.1, acc := r.2 } s4)))
        | _, _ => (needWhole c sel 8 8 addr s1).next (fun _ s2 => (commit c (fr.setO t) s2).next (fun _ s3 => .ok .done s3)))
      | _ => .ok .done s1)

/-! ## Save areas (R294 to R300) -/

/-- The header of a save area (R296). -/
def saveHeader (upper : Bool) (ocnt rcnt : Nat) : W64 :=
  BitVec.ofNat 64 (if upper then ocnt + rcnt * 2 ^ 6 + 2 ^ 60 else 2 * 2 ^ 60)

/-- The upper half's words with the groups each belongs to, for operand cells `oc` (R296, R297). -/
def upperWords (b : Bank) (oc : List W64) : List (W64 × BitVec 4) :=
  [(saveHeader true oc.length b.rc.length, 3), (b.osp.zeroExtend 64, 1), (b.rsp.zeroExtend 64, 2)] ++
    oc.reverse.map (fun w => (w, 1)) ++ b.rc.reverse.map (fun w => (w, 2))

/-- The lower half's words. -/
def lowerWords (b : Bank) : List (W64 × BitVec 4) :=
  [(saveHeader false 0 0, 12), (b.status.zeroExtend 64, 4), (b.estat, 4), (b.epc.zeroExtend 64, 4), (b.etarget.zeroExtend 64, 4), (b.eaddr, 4),
   (b.fpc.zeroExtend 64, 4), (b.fstat, 4)] ++
    (List.range 16).flatMap (fun n => [((b.seg n).1, 4), ((b.seg n).2, 4)]) ++
    [(b.loopcnt.zeroExtend 64, 8), (b.flags.zeroExtend 64, 8), (b.cstage.zeroExtend 64, 8)]

/-- A word is skipped when its groups are clean and the save starts at the home area of its half (R297). -/
def saveSkips (b : Bank) (upper : Bool) (start : W64) (groups : BitVec 4) : Bool :=
  b.dirty &&& groups == 0 && (if upper then b.homeu else b.homel) == some start

/-- A save or load of a half has completed at home area `start` (R298). -/
def settleHalf (upper : Bool) (start : W64) (b : Bank) : Bank :=
  if upper then { b with dirty := b.dirty &&& 12, homeu := some start, saveu := none }
  else { b with dirty := b.dirty &&& 3, homel := some start, savel := none }

/-- The cell after the word at `cell`: the next word, or through the link word the next area (R295). -/
def nextCell (c : CoreId) (sel : Nat) (cell : W64) (s : State) : Out (W64 × List DAcc) :=
  if cell.toNat / 8 % 64 < 62 then .ok (cell + 8, []) s
  else
    let at_ := cell + 8
    (loadBytes c sel at_ 8 needRead false s).next (fun r s1 =>
      if r.1 = 0 ∨ r.1.toNat % 512 != 0 then .exc (excAlign sel (fieldAt 0 48 at_)) s1 else .ok r s1)

/-- The area cell advances: it is no word of the save, whose clean groups stay clean (R297). -/
def keepDirty (c : CoreId) (dirty : BitVec 4) (s : State) : State :=
  withCore c (fun k => k.rawBank k.level { k.run with dirty := dirty }) s

/-- One word of SAVEU or SAVEL (R243, R244, R295 to R298). -/
def runSave (c : CoreId) (upper : Bool) (field : BitVec 10) (s : State) : Out Flow :=
  let sel := segOf field
  (needPriv c 1 s).next (fun _ s0 =>
    (needCells c 1 0 (s0.core c).frame s0).next (fun _ s1 =>
      (needDivide c (fun _ => upper) s1).next (fun _ s2 =>
        let fr := (s2.core c).frame
        let b := fr.b
        match b.oc with
        | [] => .ok .done s2
        | cell :: below =>
          (needWhole c sel 8 8 cell s2).next (fun _ s3 =>
            let fresh : SaveProg := ⟨cell, cell - BitVec.ofNat 64 (cell.toNat % 512), cell.toNat % 512 / 8⟩
            let prog := match (if upper then b.saveu else b.savel) with
              | some p => if p.cell = cell then p else fresh
              | none => fresh
            let words := if upper then upperWords b below else lowerWords b
            if upper && below.length > 31 then .hold (.room false) s3
            else match words[prog.pos]? with
              | none =>
                (commit c (fr.setO below) s3).next (fun _ s4 =>
                  .ok .done (withCore c (fun k => k.rawBank k.level (settleHalf upper prog.start k.run)) s4))
              | some w =>
                (if saveSkips b upper prog.start w.2 then .ok ([], []) s3 else storeBytes c sel cell 8 w.1 s3).next (fun st s4 =>
                  if prog.pos + 1 = words.length then
                    (commit c { fr.setO below with sts := st.1, acc := st.2 } s4).next (fun _ s5 =>
                      .ok .done (withCore c (fun k => k.rawBank k.level (settleHalf upper prog.start k.run)) s5))
                  else
                    (nextCell c sel cell s4).next (fun nx s5 =>
                      let p : SaveProg := ⟨nx.1, prog.start, prog.pos + 1⟩
                      let fr1 := { fr.setO (nx.1 :: below) with sts := st.1, acc := st.2 ++ nx.2 }
                      let fr2 := { fr1 with b := if upper then { fr1.b with saveu := some p } else { fr1.b with savel := some p } }
                      (commit c fr2 s5).next (fun _ s6 => .ok .more (keepDirty c b.dirty s6))))))))

/-- `n` words of an area's sequence from `cell` on (R295). -/
def readArea (c : CoreId) (sel : Nat) : Nat → W64 → State → Out (List W64 × List DAcc)
  | 0, _, s => .ok ([], []) s
  | n + 1, cell, s =>
    (loadBytes c sel cell 8 needRead false s).next (fun r s1 =>
      if n = 0 then .ok ([r.1], r.2) s1
      else (nextCell c sel cell s1).next (fun nx s2 =>
        (readArea c sel n nx.1 s2).next (fun rest s3 => .ok (r.1 :: rest.1, r.2 ++ nx.2 ++ rest.2) s3)))

/-- OCNT and RCNT of a header that a load accepts, with at most `top` operand cells (R300). -/
def headerCounts (upper : Bool) (top : Nat) (h : W64) : Option (Nat × Nat) :=
  let o := fieldAt 0 6 h
  let r := fieldAt 6 6 h
  if fieldAt 60 4 h = (if upper then 1 else 2) ∧ o ≤ top ∧ r ≤ 32 then some (o, r) else none

/-- A bank with the upper half of an area loaded (R296, R300). -/
def loadUpper (b : Bank) (o : Nat) (ws : List W64) : Bank :=
  { b with
    osp := (((ws[1]?).getD 0).truncate 24)
    rsp := (((ws[2]?).getD 0).truncate 24)
    oc := ((ws.drop 3).take o).reverse
    rc := (ws.drop (3 + o)).reverse
    oerr := none, rerr := none }

/-- LOADU (R245, R300). -/
def runLoadu (c : CoreId) (field : BitVec 10) (s : State) : Out Flow :=
  let sel := segOf field
  (needPriv c 1 s).next (fun _ s0 =>
    (needCells c 1 0 (s0.core c).frame s0).next (fun _ s1 =>
      (needDivide c (fun _ => true) s1).next (fun _ s2 =>
        let area := topCell (s2.core c)
        (needWhole c sel 512 8 area s2).next (fun _ s3 =>
          (readArea c sel 1 area s3).next (fun h s4 =>
            match headerCounts true 31 ((h.1.head?).getD 0) with
            | none => .exc excIllegal s4
            | some (o, r) =>
              (readArea c sel (3 + o + r) area s4).next (fun ws s5 =>
                let fr := (s5.core c).frame
                (commit c { fr with b := loadUpper fr.b o ws.1, acc := ws.2 } s5).next (fun _ s6 =>
                  .ok .done (withCore c (fun k => k.rawBank k.level (settleHalf true area k.run)) s6)))))))) 

/-- The control words of the lower half, in the order of the area, from word 1 on (R296). -/
def lowerCws : List Nat :=
  [0x000, 0x010, 0x011, 0x012, 0x013, 0x019, 0x01A] ++ (List.range 32).map (fun i => 0x040 + i) ++ [0x002, 0x001]

/-- Writes the G2 and G3 words of an area to the running bank (R300). -/
def loadLower (k : Core) (ws : List W64) : Core :=
  let k1 := (lowerCws.zip (ws.drop 1)).foldl (fun k e => k.writeCw e.1 e.2) k
  k1.putRun { k1.run with cstage := (((ws[42]?).getD 0).truncate 8) }

/-- LOADL (R245, R300). -/
def runLoadl (c : CoreId) (field : BitVec 10) (s : State) : Out Flow :=
  let sel := segOf field
  (needPriv c 1 s).next (fun _ s0 =>
    (needCells c 1 0 (s0.core c).frame s0).next (fun _ s1 =>
      let area := topCell (s1.core c)
      (needWhole c sel 512 8 area s1).next (fun _ s2 =>
        (readArea c sel 1 area s2).next (fun h s3 =>
          match headerCounts false 32 ((h.1.head?).getD 0) with
          | none => .exc excIllegal s3
          | some _ =>
            (readArea c sel 43 area s3).next (fun ws s4 =>
              if fieldAt 0 2 ((ws.1[1]?).getD 0) > (s4.core c).pl then .exc excPriv s4
              else
                let fr := (s4.core c).frame
                (commit c { fr.setO fr.b.oc.tail with acc := ws.2 } s4).next (fun _ s5 =>
                  .ok .done (withCore c (fun k =>
                    let k1 := loadLower k ws.1
                    k1.rawBank k1.level (settleHalf false area k1.run)) s5)))))))

end Sys2Proof.Machine
end

