-- ==== Sys2Proof/Machine/CoreRun.lean ====
section
/-! DEFINITION. One parcel on a core: its encoding and the encodings that raise ILLEGAL (R204, R207 to R209, R218, R222, R234,
R236), the order of its exceptions (R339, R341), its condition (R215), and where execution goes on (R217 to R227). -/

namespace Sys2Proof.Machine

/-! ## Encodings (R207) -/

def longParcel (cond : BitVec 3) (major : Nat) (field : BitVec 10) : BitVec 20 :=
  BitVec.ofNat 20 (cond.toNat * 2 ^ 16 + major * 2 ^ 10 + field.toNat)
def pairParcel (cond : BitVec 3) (sa : Nat) (sb : BitVec 8) : BitVec 20 :=
  BitVec.ofNat 20 (2 ^ 19 + cond.toNat * 2 ^ 16 + sa * 2 ^ 8 + sb.toNat)

def condOf (p : BitVec 20) : BitVec 3 := p.extractLsb' 16 3
def fieldOf (p : BitVec 20) : BitVec 10 := p.extractLsb' 0 10
def saOf (p : BitVec 20) : Nat := p.toNat / 2 ^ 8 % 256
def sbOf (p : BitVec 20) : Nat := p.toNat % 256

/-- The canonical no-operation parcel (R208). -/
def nopParcel : BitVec 20 := 0x80000#20

/-- A control transfer, or a pair that contains one (R235). -/
def isTransfer (p : BitVec 20) : Bool :=
  if isPair p then (0x80 ≤ saOf p && saOf p ≤ 0x82) || (0x80 ≤ sbOf p && sbOf p ≤ 0x82)
  else majorOf p == 0x08 || majorOf p == 0x09 || majorOf p == 0x0C || majorOf p == 0x30 || majorOf p == 0x31

def isRep (p : BitVec 20) : Bool := !isPair p && majorOf p == 0x3C

/-- A pair with a solo operation (R209). -/
def hasSolo (p : BitVec 20) : Bool := isPair p && ((0x80 ≤ saOf p && saOf p ≤ 0x85) || (0x80 ≤ sbOf p && sbOf p ≤ 0x85))

/-- A control transfer that a delay parcel follows (R217). -/
def hasDelay (p : BitVec 20) : Bool := isTransfer p && !(!isPair p && (majorOf p == 0x0C || majorOf p == 0x31))
def isEret (p : BitVec 20) : Bool := !isPair p && majorOf p == 0x30

/-- The MAJOR codes of R233. -/
def majorListed (m : Nat) : Bool :=
  [0x01, 0x02, 0x03, 0x04, 0x05, 0x08, 0x09, 0x0C, 0x10, 0x11, 0x12, 0x13, 0x18, 0x19, 0x1C, 0x20, 0x21, 0x24, 0x25, 0x26, 0x27, 0x28, 0x29,
    0x2C, 0x2D, 0x2E, 0x30, 0x31, 0x34, 0x35, 0x38, 0x3C].contains m

/-- The bits of FIELD that R234 wants 0, and TYPE 0b111. -/
def fieldLegal (m : Nat) (f : BitVec 10) : Bool :=
  let zero (mask : Nat) : Bool := f.toNat &&& mask == 0
  match m with
  | 0x10 => zero 7 && f.toNat / 8 % 8 != 7
  | 0x11 => zero 15
  | 0x18 => zero 63
  | 0x19 => zero 63
  | 0x24 => zero 63
  | 0x25 => zero 63
  | 0x26 => zero 63
  | 0x27 => zero 63
  | 0x28 => zero 63
  | 0x29 => zero 63
  | 0x1C => zero 3
  | 0x20 => zero 0xF0
  | 0x21 => zero 0x2FF
  | 0x35 => zero 0x3F8
  | 0x2C => zero 0x3FF
  | 0x2D => zero 0x3FF
  | 0x2E => zero 0x3FF
  | 0x30 => zero 0x3FF
  | 0x31 => zero 0x3FF
  | 0x34 => zero 0x3FF
  | 0x38 => zero 0x3FF
  | _ => true

/-- ILLEGAL under R208 and R209: a reserved MAJOR or short code, or a forbidden pair. -/
def codeIllegal (p : BitVec 20) : Bool :=
  if isPair p then (match shortInfo (saOf p), shortInfo (sbOf p) with
    | some a, some b => !pairLegal a b
    | _, _ => true)
  else !majorListed (majorOf p)

/-- ILLEGAL by the parcel after this one, whatever the condition (R218, R222). -/
def nextIllegal (p nxt : BitVec 20) : Bool :=
  if hasDelay p then isTransfer nxt || isRep nxt
  else if isRep p then isTransfer nxt || isRep nxt || hasSolo nxt
  else false

/-- A delay parcel or a repeated parcel that R218 or R222 excludes, reached without the look ahead: ILLEGAL at the parcel itself
(notes/assumptions/21.md). -/
def placeIllegal (k : Core) (p : BitVec 20) : Bool :=
  (match k.delay with
    | some d => if d.eret then p != nopParcel else isTransfer p || isRep p
    | none => false) ||
  (k.rep.isSome && (isTransfer p || isRep p || hasSolo p))

/-- ILLEGAL whatever the condition (R215). -/
def parcelIllegal (p nxt : BitVec 20) : Bool :=
  codeIllegal p || (!isPair p && !fieldLegal (majorOf p) (fieldOf p)) || nextIllegal p nxt

/-! ## What a parcel does (R229) -/

/-- A long operation whose condition holds. -/
def runLong (cx : Cx) (m : Nat) (f : BitVec 10) (s : State) : Out Flow :=
  match m with
  | 0x01 => runLit cx.c f s
  | 0x02 => runLitx cx.c f s
  | 0x03 => runAddi cx.c f s
  | 0x04 => runCwr cx.c f s
  | 0x05 => runCww cx.c f s
  | 0x08 => runBr cx f s
  | 0x09 => runCall cx f s
  | 0x0C => runSvc cx f s
  | 0x10 => runLd cx.c f s
  | 0x11 => runSt cx.c f s
  | 0x12 => runLdc cx.c f s
  | 0x13 => runStc cx.c f s
  | 0x18 => runLock cx.c f s
  | 0x19 => runUnlock cx.c f s
  | 0x1C => runMovb cx.c f s
  | 0x20 => runVissue cx.c f s
  | 0x21 => runVwait cx.c f s
  | 0x24 => runSave cx.c true f s
  | 0x25 => runSave cx.c false f s
  | 0x26 => runLoadu cx.c f s
  | 0x27 => runLoadl cx.c f s
  | 0x28 => runStmLdm cx.c false f s
  | 0x29 => runStmLdm cx.c true f s
  | 0x2C => runInvpg cx.c s
  | 0x2D => runInvall cx.c s
  | 0x2E => runInvwalk cx.c s
  | 0x30 => (needPriv cx.c 1 s).next (fun _ s1 => .ok .eret s1)
  | 0x31 => runFrtn cx s
  | 0x34 => runAck cx.c s
  | 0x35 => runEos cx.c f s
  | 0x38 => runWait cx.c s
  | 0x3C => runRep cx f s
  | _ => .exc excIllegal s

/-- A solo operation (R256). -/
def runSolo (cx : Cx) (code : Nat) (s : State) : Out Flow :=
  match code with
  | 0x80 => runBrx cx s
  | 0x81 => runCallx cx s
  | 0x82 => runRet cx s
  | 0x83 => runSync cx.c s
  | 0x84 => runFence cx.c s
  | _ => runBrk cx.c s

/-- A parcel whose condition holds. -/
def runHolds (cx : Cx) (p : BitVec 20) (s : State) : Out Flow :=
  if isPair p then
    (if hasSolo p then runSolo cx (if saOf p = 0 then sbOf p else saOf p) s
    else (runPair cx.c (saOf p) (sbOf p) s).next (fun _ s1 => .ok .done s1))
  else runLong cx (majorOf p) (fieldOf p) s

/-- A parcel whose condition does not hold (R215): a transfer with a delay parcel is not taken. -/
def runFails (cx : Cx) (p : BitVec 20) (s : State) : Out Flow :=
  if hasDelay p then
    .ok (.transfer false 0 false) (if !isPair p && majorOf p == 0x08 then loopBr cx.c cx.pc (dispTarget cx.pc (fieldOf p)) false s else s)
  else .ok .done s

/-- The parcel under its condition (R215): an ERET that holds wants the canonical no-operation parcel after it (R236). -/
def runCond (cx : Cx) (p nxt : BitVec 20) (s : State) : Out Flow :=
  if condHolds (condOf p) (s.core cx.c).run.flags then
    (if isEret p && nxt != nopParcel then .exc excIllegal s else runHolds cx p s)
  else runFails cx p s

/-- ERET with RPEND = 1 has led here (R225): the parcel is read for NI alone, and the iterations resume. -/
def resumeRep (c : CoreId) (p : BitVec 20) (s : State) : State :=
  withCore c (fun k =>
    if k.run.loopcnt = 0 then { k with repResume := false, repHold := false, pc := advance k.pc 2 }
    else { k with repResume := false, repHold := false, rep := some ⟨k.pc, p.getLsbD 9, false, false⟩, pc := advance k.pc 1 }) s

/-- The entry mark of a checked target (R206): its slot is above 5, or its ENTRY bit is 0. -/
def entryFails (pc : BitVec 48) (hdr : BitVec 8) : Bool := pc.toNat % 16 > 5 || !hdr.getLsbD (pc.toNat % 16)

def excEntry (transfer : BitVec 48) : Exc := ⟨0x03, transfer.zeroExtend 64, false⟩

/-- Ranks 1 and 2 (R339): the entry mark and the fetch. -/
def reachParcel (cx : Cx) (hdr : BitVec 8) (s : State) : Out Unit :=
  match (s.core cx.c).chk with
  | none => fetchCode cx.c cx.pc s
  | some src =>
    if cx.pc.toNat % 16 > 5 then .exc (excEntry src) s
    else (fetchCode cx.c cx.pc s).next (fun _ s1 =>
      if entryFails cx.pc hdr then .exc (excEntry src) s1
      else .ok () (withCore cx.c (fun k => { k with chk := none }) s1))

/-- ILLEGAL under R204. -/
def lineIllegal (pc : BitVec 48) (hdr : BitVec 8) : Bool := pc.toNat % 16 > 5 || hdr.toNat / 64 != 0

/-- A parcel at the core's own pc, in the order of the ranks of R339. -/
def execParcel (cx : Cx) (hdr : BitVec 8) (p nxt : BitVec 20) (s : State) : Out Flow :=
  (reachParcel cx hdr s).next (fun _ s1 =>
    if (s1.core cx.c).repResume then .ok .moved (resumeRep cx.c p s1)
    else if lineIllegal cx.pc hdr || parcelIllegal p nxt || placeIllegal (s1.core cx.c) p then .exc excIllegal s1
    else runCond cx p nxt s1)

/-- A parcel that Weado feeds (R526). -/
def execFed (cx : Cx) (p : BitVec 20) (s : State) : Out Flow :=
  if parcelIllegal p nopParcel then .exc excIllegal s else runCond cx p nopParcel s

/-! ## Where execution goes on -/

/-- After a parcel that is done: the next iteration, the pending target, whose code line is fetched anew (R274), or the next parcel
(R203, R217, R221). -/
def followOn (c : CoreId) (s : State) : State :=
  let k := s.core c
  match k.rep with
  | some r =>
    let b := k.run
    let n := if b.loopcnt = 0 then 0 else b.loopcnt - 1
    let k1 := k.putRun { b with loopcnt := n }
    setCore c (if n = 0 then { k1 with rep := none, pc := advance k.pc 1 } else { k1 with rep := some { r with first := false, mid := false } }) s
  | none => match k.delay with
    | some d =>
      if d.eret then doEret c (setCore c { k with delay := none } s)
      else if d.taken then setCore c { k with delay := none, pc := d.target, chk := if d.check then some d.src else none, code := none } s
      else setCore c { k with delay := none, pc := advance k.pc 1 } s
    | none => setCore c { k with pc := advance k.pc 1 } s

/-- A WAIT gives up the running slot (R306), with the entry check that the parcel at TSPC still owes (R206). -/
def giveUpSlot (c : CoreId) (s : State) : State :=
  let k := s.core c
  if k.level = 0 && k.sched.en then
    match k.sched.runningSlot with
    | some i =>
      let sv := k.saved
      setCore c { k with st := .switching, sched := { k.sched.put i { k.sched.at i with
        st := .waiting, pc := sv.epc, rpend := sv.rpend, chk := k.chk } with out := BitVec.ofNat 3 i } } s
    | none => setCore c { k with st := .waiting } s
  else setCore c { k with st := .waiting } s

/-- What a parcel's flow does to the core. -/
def doFlow (c : CoreId) (f : Flow) (s : State) : State :=
  match f with
  | .done => followOn c s
  | .more => withCore c (fun k => { k with rep := k.rep.map (fun r => { r with mid := true }) }) s
  | .transfer taken target check =>
    withCore c (fun k => { k with pc := advance k.pc 1, delay := some ⟨k.pc, taken, target, check, false⟩ }) s
  | .eret => withCore c (fun k => { k with pc := advance k.pc 1, delay := some ⟨k.pc, true, 0, false, true⟩ }) s
  | .moved => s
  | .wait => giveUpSlot c (followOn c s)
  | .brk =>
    let s1 := followOn c s
    if (s1.core c).chk.isSome then withDbg c (fun d => { d with brkDue := true }) s1 else haltCore c 2 s1

/-- The end of a step, at a boundary at which a halt can be taken (R524). -/
def stepEnd (c : CoreId) (s : State) : State :=
  let k := s.core c
  if k.dbg.stepping && k.haltBoundary && k.held.isNone && k.divide.isNone then
    withDbg c (fun d => { d with stepping := false, stepDue := true }) s
  else s

/-- In deterministic mode a wait in VISSUE or VWAIT, or for a write response, voids exactness (R281). -/
def holdVoids (s : State) (k : Core) (w : HoldFor) : Bool :=
  -- a write response of TFP or EMP: of an uncached entry, or of a cacheable one that misses
  let port (e : SbEntry) : Bool := match e.route.getD (routeOf s (e.word.toNat * 8)) with
    | .ext kind _ => !k.dcOn kind || (Tab.find k.dcache (e.word.toNat / 8)).isNone
    | _ => false
  match w with
  | .entry => true
  | .record => true
  | .fence => k.sb.any port
  | .sbRoom => (k.sb.head?).any port
  | _ => false

/-- The parcel is held for `w`. -/
def holdParcel (c : CoreId) (w : HoldFor) (s : State) : State :=
  let k := s.core c
  let s1 := withCore c (fun k => { k with held := k.held.map (fun h => { h with why := w }) }) s
  if (k.held.map (fun h => h.why)) = some w then s1 else if holdVoids s k w then voidDet c s1 else s1

def dropHeld (c : CoreId) (s : State) : State := withCore c (fun k => { k with held := none }) s

/-! ## What the spill engine is due to do (R287 to R291, R296) -/

/-- The SPILL descriptor and the privilege that serve a bank: those in force for the running one (R287, R312). -/
def spillSeg (k : Core) (level : BitVec 3) : (W64 × W64) × Nat :=
  if level = k.level then (k.segNow 3, k.pl) else ((k.bank level).seg 3, (k.bank level).status.toNat % 4)

/-- A save or load of a context, by its parcel. -/
def isAreaOp (p : BitVec 20) : Bool := !isPair p && 0x24 ≤ majorOf p && majorOf p ≤ 0x27

/-- A save or load runs on the running bank, whose engine pauses (R296): one held in an element, or a save between two elements. -/
def savePaused (k : Core) : Bool :=
  let b := k.run
  let at_ (p : Option SaveProg) : Bool := match p, b.oc with
    | some q, cell :: _ => q.cell == cell
    | _, _ => false
  match k.held with
  | some h => isAreaOp h.parcel && (match h.why with
    | .room _ => false
    | .cell _ => false
    | .fetch _ _ => false
    | .divide => false
    | _ => true)
  | none => at_ b.saveu || at_ b.savel

/-- One more spilled cell keeps the limits of R290. -/
def spillFits (k : Core) (level : BitVec 3) (ret : Bool) : Bool :=
  let b := k.bank level
  decide (8 * (b.osp.toNat + b.rsp.toNat + 1) ≤ segLimit (spillSeg k level).1.2 + 1) &&
    decide ((if ret then b.rsp else b.osp).toNat + 1 ≤ 2 ^ 24 - 1)

/-- Bank 7 holds more cells than its next handler may find, while level 7 is not active (R291). -/
def sevenWanted (s : State) (c : CoreId) (ret : Bool) : Bool :=
  let b := (s.core c).bank 7
  !(s.evc.get c).active.getLsbD 7 && (if ret then b.rc else b.oc).length > 16

/-- The spill engine is due to spill from a stack (R288, R291). -/
def spillWanted (s : State) (c : CoreId) (level : BitVec 3) (ret : Bool) : Bool :=
  let k := s.core c
  let b := k.bank level
  ((level == k.level && (if ret then b.rc else b.oc).length ≥ 28) || (level == 7 && sevenWanted s c ret)) &&
    (if ret then b.rerr else b.oerr).isNone && !(level == k.level && savePaused k)

/-- An entry to level `t` waits until bank 7 has been spilled (R291). -/
def sevenWaits (s : State) (c : CoreId) (t : Nat) : Bool :=
  t == 7 && [false, true].any (fun ret => sevenWanted s c ret && spillWanted s c 7 ret && spillFits (s.core c) 7 ret)

/-- A synchronous exception waits: what its parcel would raise stays for the next time it executes. -/
def holdExc (c : CoreId) (w : HoldFor) (before s : State) : State :=
  let b := (before.core c).run
  holdParcel c w (withCore c (fun k => k.rawBank k.level { k.run with oerr := b.oerr, rerr := b.rerr }) s)

/-- A synchronous exception is taken, once a divide in flight has written its result (R262, R343) and bank 7 has room for an entry to
level 7 (R291); `before` is the state in which the parcel began. -/
def takeExc (c : CoreId) (e : Exc) (before s : State) : State :=
  if (s.core c).divide.isSome then holdExc c .divide before s
  else if sevenWaits s c ((s.core c).excLevel e.code.toNat) then holdExc c .seven before s
  else stepEnd c (enterExc c e (dropHeld c s))

/-- The end of a fed parcel (R526, R527, R532). -/
def fedEnd (c : CoreId) (s : State) : State :=
  let s1 := withDbg c (fun d => { d with dwdue := false }) (dropHeld c s)
  if (s1.core c).dbg.resumeDue then resumeCore c s1 else s1

def fedExc (c : CoreId) (e : Exc) (s : State) : State :=
  fedEnd c (withDbg c (fun d => { d with fexc := e.code, dfaddr := e.eaddr }) s)

/-- Executes a fed parcel: a resumable one runs element by element to its end. -/
def runFed (c : CoreId) (h : Held) : Nat → State → State
  | 0, s => s
  | fuel + 1, s =>
    match execFed ⟨c, (s.core c).pc, true⟩ h.parcel s with
    | .ok .more s1 => runFed c h fuel (withCore c (fun k => { k with held := some { h with got := [], faults := [] } }) s1)
    | .ok _ s1 => fedEnd c s1
    | .exc e s1 => fedExc c e s1
    | .hold w s1 => holdParcel c w s1

/-- The most elements a fed parcel can still have: MOVB's bytes bound them. -/
def fedFuel (k : Core) : Nat := (topCell k).toNat + 256

/-- The parcel in `held` executes, or waits on. -/
def runHeld (c : CoreId) (s : State) : State :=
  let k := s.core c
  match k.held with
  | none => s
  | some h =>
    if h.feed then runFed c h (fedFuel k) s
    else match execParcel ⟨c, k.pc, false⟩ h.hdr h.parcel h.nxt s with
      | .ok f s1 => stepEnd c (doFlow c f (dropHeld c s1))
      | .exc e s1 => takeExc c e s s1
      | .hold w s1 => holdParcel c w s1

/-- A held parcel executes again when what it waits for may have come. -/
def retryWhen (p : HoldFor → Bool) (c : CoreId) (s : State) : State :=
  match (s.core c).held with
  | some h => if p h.why then runHeld c s else s
  | none => s

/-- A parcel enters execution on a core. -/
def startParcel (c : CoreId) (hdr : BitVec 8) (p nxt : BitVec 20) (s : State) : State :=
  runHeld c (withCore c (fun k => { k with st := .running, ran := true, held := some ⟨hdr, p, nxt, false, .drain, [], [], false⟩ }) (settleArm c s))

/-! ## Parcel commands -/

/-- The clock of core `c` and its supply run. -/
def dclkRuns (s : State) (c : CoreId) : Bool := hubRuns s && !s.rst.stopped.getLsbD (2 + c.val) && s.rst.phase == .up

/-- A halt is due at this boundary (R521, R524). -/
def haltDue (s : State) (c : CoreId) : Bool :=
  let k := s.core c
  dbgLevel s == 2 && (k.dbg.haltreq || k.dbg.stepDue || k.dbg.dwdue || k.dbg.brkDue) && k.haltBoundary && k.divide.isNone

/-- A core in WAIT goes on at once where only HOLD keeps a source from it (R369). -/
def waitOver (s : State) (c : CoreId) : Bool := (s.core c).st == .waiting && (s.core c).hold && (selectSource s c).isSome

/-- The core executes its next parcel now. -/
def issues (s : State) (c : CoreId) : Bool :=
  dclkRuns s c && ((s.core c).st == .running || waitOver s c) && (s.core c).held.isNone && !haltDue s c

/-- A parcel command: the core executes this parcel at its pc. -/
def parcelCmd (p : PCtx) (w nxt : BitVec 20) (s : State) : Host.Outcome State Fault Refusal :=
  if issues s p.core then .next (startParcel p.core p.hdr w nxt s)
  else .refused (.notNow "the core does not issue a parcel now")

def longCmd (p : PCtx) (major : Nat) (field : BitVec 10) (nxt : BitVec 20) (s : State) : Host.Outcome State Fault Refusal :=
  parcelCmd p (longParcel p.cond major field) nxt s
def pairCmd (p : PCtx) (sa : Nat) (sb : BitVec 8) (nxt : BitVec 20) (s : State) : Host.Outcome State Fault Refusal :=
  parcelCmd p (pairParcel p.cond sa sb) nxt s

/-! ## The feed (R526, R527) -/

/-- The tile refuses to run this parcel from the feed. -/
def feedRefused (s : State) (c : CoreId) (p : BitVec 20) : Bool :=
  let k := s.core c
  let solo := isPair p && hasSolo p
  let code := if saOf p = 0 then sbOf p else saOf p
  k.st != .halted || k.held.isSome || codeIllegal p || isTransfer p || isRep p || (!isPair p && majorOf p == 0x38) || (solo && code == 0x85)

/-- A write of DFEED.c. -/
def feedParcel (c : CoreId) (p : BitVec 20) (s : State) : State :=
  if feedRefused s c p then withDbg c (fun d => { d with feederr := true }) s
  else runHeld c (withCore c (fun k => { k with held := some ⟨0, p, nopParcel, true, .drain, [], [], false⟩ }) s)

end Sys2Proof.Machine
end

