-- ==== Sys2Proof/Machine/CoreEvents.lean ====
section
/-! DEFINITION. What reaches a core from outside its parcels: bank answers, fills, walks, drains, write-backs, the divide unit,
interrupts, halts, CORECFG, the spill engine and the task scheduler (R262, R263, R273, R275, R282, R287 to R291, R302 to R307, R317,
R326 to R328, R363 to R365, R521, R522). -/

namespace Sys2Proof.Machine

/-! ## The Vector Store answers (R270, R62, R44) -/

/-- A word that a core reads: refused and poisoned ones are errors (R460). -/
def answerCoreRead (c : CoreId) (w : Nat) (a : BankAnswer) (s : State) : State :=
  match a with
  | .data x => noteGot c [⟨w, x.data, x.poison⟩] s
  | .done _ => s
  | .refused _ => noteGot c [⟨w, 0, true⟩] s

/-- LOCK's word: the reservation on its line stands from the grant (R238). -/
def answerLock (c : CoreId) (w : Nat) (a : BankAnswer) (s : State) : State :=
  let s1 := answerCoreRead c w a s
  match a with
  | .data x => if x.poison then s1 else withCore c (fun k => { k with lockRes := some (BitVec.ofNat 46 (w / 8)) }) s1
  | _ => s1

/-- A store-buffer entry's write: a refusal is remembered until its response. -/
def answerCoreWrite (c : CoreId) (a : BankAnswer) (s : State) : State :=
  match a with
  | .refused _ => withCore c (fun k => { k with sb := match k.sb with
      | e :: t => { e with bad := true } :: t
      | [] => [] }) s
  | _ => s

/-- A request that the parcel of core `c` waits for. -/
def isCoreRead (c : CoreId) (d : ReqDest) : Bool := match d with
  | .coreRead e _ => e == c
  | .lock e _ => e == c
  | .unlock e _ => e == c
  | _ => false

/-! ## Fills and uncached reads (R263, R269 to R274, R280, R284) -/

def lineGot (line : Nat) (d : Line) (bad : Bool) : List Got := (List.range 8).map (fun i => ⟨line * 8 + i, wordOfLine d i, bad⟩)

/-- The held parcel waits for this line. -/
def waitsLine (k : Core) (fetch : Bool) (line : BitVec 46) : Bool :=
  match k.held with
  | some h => (match h.why with
    | .read w _ => !fetch && w.toNat / 8 == line.toNat
    | .fetch l _ => fetch && l == line
    | _ => false)
  | none => false

/-- What the parcel that waits for this line receives past the caches: the words of a line that was to be cached or that holds code,
and the one word of an uncached access (R263, R270, R274). -/
def fillWords (k : Core) (f : FillReq) (d : Line) (bad : Bool) : List Got :=
  let line := f.line.toNat
  match k.held with
  | some h => (match h.why with
    | .read w _ => if f.cache then lineGot line d bad else [⟨w.toNat, wordOfLine d (w.toNat % 8), bad⟩]
    | _ => lineGot line d bad)
  | none => []

/-- The response to a line read of TFP or EMP. The line enters its cache where it is to and nothing has invalidated it on the way;
a line that some data cache holds dirty comes from there (R271). The caches of a core in LOCKUP stay as they are (R293). -/
def extFill (c : CoreId) (f : FillReq) (code : RspCode) (data : Line) (s : State) : State :=
  let k := s.core c
  let line := f.line.toNat
  let copy := if (attrOf s (line * 64)).1 = .cached then dirtyCopy s line else none
  let good := copy.isSome || code == .okay
  let d := copy.getD data
  let on := if f.fetch then k.icOn .cached else k.dcOn .cached
  let keep := good && f.cache && !f.snooped && on && !k.detOn && k.st != .locked
  let waits := waitsLine k f.fetch f.line
  let s1 := setCore c { k with fills := k.fills.erase f } s
  let s2 :=
    if !keep then s1
    else if f.fetch then icacheEnter c line d s1
    else if (Tab.find k.dcache line).isSome then s1
    else dcacheEnter c line ⟨d, false⟩ s1
  if waits then runHeld c (if keep then s2 else noteGot c (fillWords k f d (!good)) s2) else s2

/-- LINE_FILL_RESPONSE: none where nothing awaits it. -/
def fillResponse (c : CoreId) (fetch : Bool) (line : BitVec 46) (code : RspCode) (data : Line) (s : State) : Option State :=
  let k := s.core c
  match k.fills.find? (fun f => f.line == line && f.fetch == fetch) with
  | some f => some (extFill c f code data s)
  | none =>
    if (k.held.map (fun h => h.why)) == some .vs && !s.vs.reqs.any (fun r => isCoreRead c r.dest) &&
        k.got.any (fun g => g.word / 8 == line.toNat) then some (runHeld c s)
    else none

/-! ## Walks (R317, R324, R326 to R328, R332) -/

/-- What one entry read makes of a walk. -/
inductive WStep where
  | fault (g : GotFault)
  | leaf (t : TlbEntry)
  | deeper (table : Nat)
  deriving DecidableEq, Repr

def leafCode : LeafFault → BitVec 8
  | .prot => 0x12
  | .atrap => 0x13
  | .dtrap => 0x14

/-- One step of the walk of R317, with the checks of R319 at a leaf. -/
def walkStep (w : CWalk) (good : Bool) (e : W64) : WStep :=
  let lin := w.lin.toNat
  let fault (code : BitVec 8) : WStep := .fault ⟨lin / 4096, w.priv, w.need, code, BitVec.ofNat 3 w.level, w.ea⟩
  if !good then fault 0x15
  else if !pteV e then fault 0x11
  else if isLeaf w.level e then
    let t := leafEntry w.root w.tag lin w.level e
    match leafCheck w.priv.toNat w.need.w w.need.x w.need.d t with
    | some f => fault (leafCode f)
    | none => .leaf t
  else .deeper (pteAddr e)

/-- A non-leaf entry enters the walk cache (R328). -/
def wcacheEnter (c : CoreId) (w : CWalk) (table : Nat) (s : State) : State :=
  let e : WalkEntry := ⟨w.root, w.level, w.lin.toNat / 2 ^ levelBits w.level, BitVec.ofNat 52 table⟩
  let (n, s1) := s.takeNat
  withCore c (fun k =>
    let l := k.wcache.filter (fun x => !(x.root == e.root && x.level == e.level && x.idx == e.idx))
    { k with wcache := (if l.length ≥ 32 then l.eraseIdx (n % l.length) else l) ++ [e] }) s1

/-- A translation enters the core's TLB (R326, R327). -/
def coreTlbEnter (c : CoreId) (t : TlbEntry) (s : State) : State :=
  let (n, s1) := s.takeNat
  withCore c (fun k => { k with tlb := tlbEnter 128 n t k.tlb }) s1

/-- The walk at its next level (R317): the walk itself, or WALKDEV. -/
def walkDeeper (s : State) (w : CWalk) (table : Nat) : CWalk ⊕ GotFault :=
  let ea := entryAddr table w.lin.toNat (w.level + 1)
  if walkDevice s ea then .inr ⟨w.lin.toNat / 4096, w.priv, w.need, 0x16, BitVec.ofNat 3 (w.level + 1), BitVec.ofNat 52 ea⟩
  else .inl { w with level := w.level + 1, ea := BitVec.ofNat 52 ea }

/-- The fault of a walk is kept for the parcel that waits for it. -/
def noteFault (c : CoreId) (ea : BitVec 52) (g : GotFault) (s : State) : State :=
  withCore c (fun k => { k with held := k.held.map (fun h => if h.why = .walk ea then { h with faults := h.faults ++ [g] } else h) }) s

/-- An entry's current value: what a core holds dirty, or what the port returned (R329). -/
def coherentEntry (s : State) (ea : BitVec 52) (code : RspCode) (e : W64) : Bool × W64 :=
  match dirtyCopy s (ea.toNat / 64) with
  | some d => (true, wordOfLine d (ea.toNat / 8 % 8))
  | none => (code == .okay, e)

/-- An invalidation has named the page of this leaf while the walk was in flight (R332). -/
def CWalk.overtaken (w : CWalk) (t : TlbEntry) : Bool := w.inv.any (fun a => t.holds a.toNat)

/-- PAGE_WALK_RESPONSE: none where no walk of the core reads that entry. The buffers of a core in LOCKUP stay as they are (R293). -/
def coreWalkResponse (c : CoreId) (ea : BitVec 52) (code : RspCode) (entry : W64) (s : State) : Option State :=
  let k := s.core c
  match k.walks.find? (fun w => w.ea == ea) with
  | none => none
  | some w =>
    let s1 := setCore c { k with walks := k.walks.erase w } s
    let (good, e) := coherentEntry s ea code entry
    let s2 :=
      if w.stale || k.st == .locked then s1
      else match walkStep w good e with
        | .fault g => noteFault c ea g s1
        | .leaf t => if w.overtaken t then s1 else coreTlbEnter c t s1
        | .deeper table =>
          let s3 := if w.late then s1 else wcacheEnter c w table s1
          (match walkDeeper s3 w table with
          | .inl w1 => withCore c (fun k => { k with walks := k.walks ++ [w1] }) s3
          | .inr g => noteFault c ea g s3)
    some (retryWhen (fun h => h == .walk ea) c s2)

/-- An INVWALK goes on once no walk that it waits for is in flight (R332). -/
def wakeWalks (s : State) : State :=
  if walksLate s then s else fours.foldl (fun s c => retryWhen (fun w => w == .walks) c s) s

/-! ## Store-buffer drains and write-backs (R271 to R275, R280, R349) -/

/-- A write that goes to memory past this core's data cache: the other cores give up the line first (R271). The instruction cache of a
core in LOCKUP stays as it is (R293). -/
def pastCaches (c : CoreId) (line : Nat) (s : State) : State :=
  let s1 := if (attrOf s (line * 64)).1 = .cached then
      fours.foldl (fun s d => if d = c then s else dropLine d line true s) s
    else s
  withCore c (fun k => { k with icache := if k.st == .locked then k.icache else Tab.erase k.icache line }) (clearLocks (some c) line s1)

/-- What the drain of an entry for TFP or EMP does. -/
def drainExt (c : CoreId) (e : SbEntry) (kind : AttrKind) (code : RspCode) (data : Line) (s : State) : State :=
  let k := s.core c
  let line := e.word.toNat / 8
  let pa := BitVec.ofNat 52 (e.word.toNat * 8)
  let uncached (s : State) : State :=
    let s1 := pastCaches c line s
    if code = .okay then s1 else lateError c pa false s1
  if !k.dcOn kind then uncached s
  else if (Tab.find k.dcache line).isSome then cacheStore c e.word.toNat e.data e.be s
  else if k.detOn then uncached (voidDet c s)
  else match dirtyCopy s line with
    | some d => cacheStore c e.word.toNat e.data e.be (dcacheEnter c line ⟨d, false⟩ s)
    | none =>
      if code = .okay then cacheStore c e.word.toNat e.data e.be (dcacheEnter c line ⟨data, false⟩ s)
      else lateError c pa false s

/-- STORE_DRAIN_RESPONSE for the oldest entry: none where it has not begun, or its bank has not granted it. It goes where its drain
began to go (R323). -/
def drainResponse (c : CoreId) (code : RspCode) (data : Line) (s : State) : Option State :=
  let k := s.core c
  match k.sb with
  | [] => none
  | e :: t =>
    let pa := BitVec.ofNat 52 (e.word.toNat * 8)
    let s1 := setCore c { k with sb := t } s
    let after (s2 : State) : State :=
      let s3 := startDrain c (s2.core c).sb.length s2
      retryWhen (fun h => h == .drain || h == .fence || h == .sbRoom) c s3
    if !e.began then none
    else match e.route.getD (routeOf s (e.word.toNat * 8)) with
      | .vs off =>
        let far := (homeWord s (off / 8)).isNone && partnerRefuses (off / 8) e.secure
        if s.vs.reqs.any (fun r => r.dest == .coreWrite c) || s.vs.halves.any (fun h => h.2.dest == .coreWrite c) then none
        else some (after (if e.bad || far || off / 8 ≥ wordSpace s then lateError c pa false s1 else s1))
      | .setup off =>
        let (rc, s2) := windowWrite (.core c) off e.be e.data s1
        some (after (if rc = .okay then s2 else lateError c pa false s2))
      | .ext kind _ => if k.st == .locked && drainsToCache k e kind then none else some (after (drainExt c e kind code data s1))

/-- A write-back has failed: the line is dropped from the cache, where it was kept clean (R273). One that a later store has dirtied
anew is a write-back of its own. -/
def dropClean (c : CoreId) (line : Nat) (s : State) : State :=
  match Tab.find (s.core c).dcache line with
  | some d => if d.dirty then s else dropLine c line false s
  | none => s

/-- WRITEBACK_RESPONSE (R273). -/
def writebackDone (c : CoreId) (line : BitVec 46) (code : RspCode) (s : State) : Option State :=
  let k := s.core c
  match k.wbs.find? (fun w => w.1 == line) with
  | none => none
  | some w =>
    let s1 := setCore c { k with wbs := k.wbs.erase w } s
    some (if code = .okay then s1 else dropClean c line.toNat (lateError c (BitVec.ofNat 52 (line.toNat * 64)) true s1))

/-- DIVIDE_RESULT (R262). -/
def divideDone (c : CoreId) (s : State) : Option State :=
  if (s.core c).divide.isSome then
    some (stepEnd c (retryWhen (fun h => h == .divide) c (withCore c (fun k => { k with divide := none }) s)))
  else none

/-! ## Interrupts and halts (R206, R228, R279, R355, R363 to R365, R521 to R524) -/

/-- A checked target awaits its entry check, and fails it (R228). -/
def chkFails (k : Core) (hdr : BitVec 8) : Option (BitVec 48) :=
  match k.chk with
  | some src => if entryFails k.pc hdr then some src else none
  | none => none

/-- A core that issues, or that WAIT has stopped. -/
def interruptible (k : Core) : Bool := k.st == .running || k.st == .waiting

/-- The boundary permits an asynchronous delivery (R363 item 5), and no masked step forbids it (R524). -/
def asyncAllowed (s : State) (c : CoreId) : Bool :=
  let k := s.core c
  dclkRuns s c && k.asyncBoundary && !k.hold && !(k.dbg.stepping && k.dbg.stepmask) && !haltDue s c

/-- INTERRUPT_ENTRY: none where nothing is deliverable at this boundary, or bank 7 must be spilled first (R291). -/
def interruptNow (c : CoreId) (hdr : BitVec 8) (s0 : State) : Option State :=
  let s := settleArm c s0
  let k := s.core c
  if interruptible k && asyncAllowed s c then
    match selectSource s c with
    | none => none
    | some n => match chkFails k hdr with
      | some src => if sevenWaits s c (k.excLevel 0x03) then none else some (stepEnd c (enterExc c (excEntry src) (dropHeld c s)))
      | none => if sevenWaits s c (Tab.get evSrc0 s.ev n).level.toNat then none else some (stepEnd c (enterAsync c n s))
  else none

/-- The cause of the halt that is due (R521). -/
def haltCause (d : CoreDbg) : Nat := if d.haltreq then 1 else if d.brkDue then 2 else if d.stepDue then 3 else 4

/-- CORE_HALT: none where no halt is due at this boundary. -/
def haltNow (c : CoreId) (hdr : BitVec 8) (s : State) : Option State :=
  let k := s.core c
  let free := match k.held with
    | some h => h.abandon
    | none => true
  if dclkRuns s c && interruptible k && haltDue s c && free then
    match chkFails k hdr with
    | some src => if sevenWaits s c (k.excLevel 0x03) then none else some (enterExc c (excEntry src) (dropHeld c s))
    | none => some (haltCore c (haltCause k.dbg) s)
  else none

/-! ## CORECFG (R267, R274, R278, R280, R282) -/

/-- Dirty lines are written back and kept clean (R280); one that the role forbids to write back is dropped (R273, R427). -/
def cleanDcache (c : CoreId) (s : State) : State :=
  (s.core c).dcache.foldl (fun s e =>
    if e.2.dirty && !outboundOk s then dropLine c e.1 true s
    else if e.2.dirty then writeBack c e.1 e.2.data (withCore c (fun k => { k with dcache := Tab.insert k.dcache e.1 { e.2 with dirty := false } }) s)
    else s) s

/-- CORECFG_TAKE_EFFECT: none before the drain, or without a change. A change of LBEN, ICEN or DET leaves the loop buffer (R267). -/
def corecfgEffect (c : CoreId) (s : State) : Option State :=
  let k := s.core c
  if dclkRuns s c && k.cfg != k.act && interruptible k && k.held.isNone && k.divide.isNone && k.sb.isEmpty then
    let old := k.act
    let leaves := (old ^^^ k.cfg) &&& 0x19 != 0
    let k1 := { (if leaves then (k.sync).leaveBuffer else k.sync) with act := k.cfg }
    let k2 := if old.getLsbD 0 && !k.cfg.getLsbD 0 then { k1 with icache := [] } else k1
    let s1 := setCore c k2 s
    let s2 := if old.getLsbD 4 && !k.cfg.getLsbD 4 then cleanDcache c s1 else s1
    some (if old.getLsbD 1 && !k.cfg.getLsbD 1 then flushDcache c s2 else s2)
  else none

/-! ## Accesses that a command makes as a whole: spills, fills and switches (R288, R305) -/

/-- What an access or a translation gives; `missing` where the command carries no response for a line it needs, `wait` where a bank
is to answer after the first `n` accesses, `r` being what is presented to it. -/
inductive Phys (α : Type) where
  | ok (a : α) (s : State)
  | err (e : SpillErr) (pa : Nat) (s : State)
  | wait (n : Nat) (r : BankReq) (word : Nat) (wr : Option (W64 × BitVec 8))
  | missing

def Phys.next {α β : Type} (p : Phys α) (f : α → State → Phys β) : Phys β :=
  match p with
  | .ok a s => f a s
  | .err e pa s => .err e pa s
  | .wait n r w wr => .wait n r w wr
  | .missing => .missing

def rspOf (rsp : List LineRsp) (line : Nat) : Option LineRsp := rsp.find? (fun r => r.line.toNat == line)

def busErr (pa : Nat) : SpillErr := ⟨0x17, BitVec.ofNat 64 pa, false⟩

/-- An access of a word in this tile's banks by the operation under way: its answer, where a bank has given it, or the request, which
goes to the bank as any other of the CORE requester (R50, R51, R288, R305). -/
def bankWord (c : CoreId) (secure : Bool) (w lw : Nat) (wr : Option (W64 × BitVec 8)) (s : State) : Phys W64 :=
  match (s.core c).eng with
  | none => .missing
  | some r =>
    let op := match wr with
      | none => BankOp.read
      | some (d, be) => .write d be false
    let ask : Phys W64 := .wait r.next (bankReq 15 lw op secure (.coreEng c)) w wr
    match r.got[r.next]? with
    | none => ask
    | some g =>
      if g.word != w || g.wr != wr then ask
      else
        let s1 := withCore c (fun k => { k with eng := some { r with next := r.next + 1 } }) s
        if g.bad then .err (busErr (w * 8)) (w * 8) s1 else .ok g.data s1

/-- The aligned word `w` read through the data cache (R288, R305), for the access at `pa`. -/
def readPhys (c : CoreId) (secure : Bool) (rsp : List LineRsp) (w pa : Nat) (s : State) : Phys W64 :=
  let k := s.core c
  let bad (s : State) : Phys W64 := .err (busErr pa) pa s
  match routeOf s (w * 8) with
  | .vs off =>
    if off / 8 ≥ wordSpace s then bad s
    else match homeWord s (off / 8) with
      | none => if partnerRefuses (off / 8) secure then bad s else let (d, s1) := s.takeWord; .ok d s1
      | some lw => (match bankWord c secure w lw none s with
        | .err _ _ s1 => bad s1
        | o => o)
  | .setup off =>
    let (code, d, s1) := windowRead (.core c) off false (voidDet c s)
    if code = .okay then .ok d s1 else bad s1
  | .ext kind _ =>
    let line := w / 8
    match (if k.dcOn kind then Tab.find k.dcache line else none) with
    | some l => .ok (wordOfLine l.data (w % 8)) s
    | none => match rspOf rsp line with
      | none => .missing
      | some r =>
        let copy := if kind = .cached then dirtyCopy s line else none
        let d := copy.getD r.data
        if copy.isSome || r.code == .okay then
          .ok (wordOfLine d (w % 8)) (if k.dcOn kind && !k.detOn then dcacheEnter c line ⟨d, false⟩ s else voidDet c s)
        else bad s

/-- Enabled bytes of the aligned word `w` written through the data cache, for the access at `pa`. -/
def writePhys (c : CoreId) (secure : Bool) (rsp : List LineRsp) (w pa : Nat) (d : W64) (be : BitVec 8) (s : State) : Phys Unit :=
  let k := s.core c
  let bad (s : State) : Phys Unit := .err (busErr pa) pa s
  match routeOf s (w * 8) with
  | .vs off =>
    if off / 8 ≥ wordSpace s then bad s
    else match homeWord s (off / 8) with
      | none => if partnerRefuses (off / 8) secure then bad s else .ok () s
      | some lw => (match bankWord c secure w lw (some (d, be)) s with
        | .err _ _ s1 => bad s1
        | o => o.next (fun _ s1 => .ok () s1))
  | .setup off =>
    let (code, s1) := windowWrite (.core c) off be d (voidDet c s)
    if code = .okay then .ok () s1 else bad s1
  | .ext kind _ =>
    let line := w / 8
    if k.dcOn kind && (Tab.find k.dcache line).isSome then .ok () (cacheStore c w d be s)
    else match rspOf rsp line with
      | none => .missing
      | some r =>
        let copy := if kind = .cached then dirtyCopy s line else none
        if k.dcOn kind && !k.detOn then
          (if copy.isSome || r.code == .okay then .ok () (cacheStore c w d be (dcacheEnter c line ⟨copy.getD r.data, false⟩ s)) else bad s)
        else if !outboundOk s then bad s
        else if r.code = .okay then .ok () (pastCaches c line (voidDet c s))
        else bad s

def faultErr (g : GotFault) (lin : Nat) : SpillErr := let e := gotExc g lin false; ⟨e.code, e.eaddr, false⟩

/-- The rest of a walk, made at once. -/
def walkNow (c : CoreId) (rsp : List LineRsp) : Nat → CWalk → State → Phys Nat
  | 0, _, _ => .missing
  | fuel + 1, w, s =>
    let lin := w.lin.toNat
    let read : Option (Bool × W64) := match dirtyCopy s (w.ea.toNat / 64) with
      | some d => some (true, wordOfLine d (w.ea.toNat / 8 % 8))
      | none => (rspOf rsp (w.ea.toNat / 64)).map (fun r => (r.code == .okay, wordOfLine r.data (w.ea.toNat / 8 % 8)))
    match read with
    | none => .missing
    | some (good, e) =>
      match walkStep w good e with
      | .fault g => .err (faultErr g lin) w.ea.toNat s
      | .leaf t => .ok (t.pa lin) (coreTlbEnter c t s)
      | .deeper table =>
        let s1 := wcacheEnter c w table s
        match walkDeeper s1 w table with
        | .inl w1 => walkNow c rsp fuel w1 s1
        | .inr g => .err (faultErr g lin) g.ea.toNat s1

/-- Translates a linear address for the spill engine, at once (R312, R316 to R320). -/
def xlateNow (c : CoreId) (rsp : List LineRsp) (pl lin : Nat) (need : XNeed) (s : State) : Phys Nat :=
  let k := s.core c
  let pt := k.inForce 0x020
  if !bitAt 0 pt then .ok lin s
  else
    let root := BitVec.ofNat 40 (fieldAt 12 40 pt)
    let tag := BitVec.ofNat 16 (fieldAt 0 16 (k.inForce 0x003))
    let walk (s0 : State) : Phys Nat :=
      let s := voidDet c s0
      let (level, table) := walkStart (s.core c) root lin
      let ea := entryAddr table lin level
      if walkDevice s ea then .err (faultErr ⟨lin / 4096, BitVec.ofNat 2 pl, need, 0x16, BitVec.ofNat 3 level, BitVec.ofNat 52 ea⟩ lin) ea s
      else walkNow c rsp 5 ⟨root, tag, BitVec.ofNat 2 pl, BitVec.ofNat 48 lin, need, level, BitVec.ofNat 52 ea, false, [], false⟩ s
    match k.tlbHit root tag lin with
    | some t => if (leafCheck pl need.w need.x need.d t).isNone then .ok (t.pa lin) s else walk (setCore c { k with tlb := k.tlb.erase t } s)
    | none => walk s

/-- Translation of one half of a spilled cell, with the rights of R337. -/
def spillXlate (c : CoreId) (rsp : List LineRsp) (pl lin : Nat) (need : XNeed) (s : State) : Phys Nat :=
  (xlateNow c rsp pl lin need s).next (fun pa s1 =>
    if dataProt s1 pl pa false then .err ⟨0x12, BitVec.ofNat 64 lin, false⟩ pa s1 else .ok pa s1)

/-- The fault of an upper half is marked (R314, R348). -/
def Phys.upper {α : Type} (p : Phys α) : Phys α :=
  match p with
  | .err e pa s => .err { e with split := true } pa s
  | o => o

/-- The offset of a spilled cell in the SPILL segment (R287). -/
def spillOffset (size : Nat) (ret : Bool) (i : Nat) : Nat := if ret then size - 8 * (i + 1) else 8 * i

/-- A cell stored to the SPILL segment. -/
def storeCell (c : CoreId) (rsp : List LineRsp) (d : W64 × W64) (pl off : Nat) (v : W64) (s : State) : Phys Unit :=
  match descLinear d pl .write (BitVec.ofNat 64 off) 8 with
  | none => .err ⟨0x10, BitVec.ofNat 64 (off % 2 ^ 48 + 3 * 2 ^ 48), false⟩ 0 s
  | some lin =>
    if lin % 8 = 0 then
      (spillXlate c rsp pl lin needWrite s).next (fun pa s1 => writePhys c (pl == 2) rsp (pa / 8) pa v 255 s1)
    else
      let n0 := 8 - lin % 8
      (spillXlate c rsp pl lin needWrite s).next (fun pa0 s1 =>
        (spillXlate c rsp pl (lin + n0) needWrite s1).upper.next (fun pa1 s2 =>
          let lo := sbEntry pa0 n0 v pl
          let hi := sbEntry pa1 (8 - n0) (v >>> (8 * n0)) pl
          (writePhys c (pl == 2) rsp (pa0 / 8) pa0 lo.data lo.be s2).next (fun _ s3 =>
            (writePhys c (pl == 2) rsp (pa1 / 8) pa1 hi.data hi.be s3).upper)))

/-- A cell loaded from the SPILL segment. -/
def loadCell (c : CoreId) (rsp : List LineRsp) (d : W64 × W64) (pl off : Nat) (s : State) : Phys W64 :=
  match descLinear d pl .read (BitVec.ofNat 64 off) 8 with
  | none => .err ⟨0x10, BitVec.ofNat 64 (off % 2 ^ 48 + 3 * 2 ^ 48), false⟩ 0 s
  | some lin =>
    if lin % 8 = 0 then
      (spillXlate c rsp pl lin needRead s).next (fun pa s1 => readPhys c (pl == 2) rsp (pa / 8) pa s1)
    else
      let n0 := 8 - lin % 8
      (spillXlate c rsp pl lin needRead s).next (fun pa0 s1 =>
        (spillXlate c rsp pl (lin + n0) needRead s1).upper.next (fun pa1 s2 =>
          (readPhys c (pl == 2) rsp (pa0 / 8) pa0 s2).next (fun w0 s3 =>
            (readPhys c (pl == 2) rsp (pa1 / 8) pa1 s3).upper.next (fun w1 s4 =>
              .ok (BitVec.ofNat 64 (w0.toNat / 2 ^ (8 * (pa0 % 8)) % 2 ^ (8 * n0) + w1.toNat % 2 ^ (8 * (8 - n0)) * 2 ^ (8 * n0))) s4))))

/-- The core's caches and banks work: it is neither held in reset nor in LOCKUP. -/
def spillServes (s : State) (c : CoreId) : Bool := dclkRuns s c && (s.core c).st != .off && (s.core c).st != .locked

/-- A failed spill or fill stops the engine for that stack; of bank 7 it is LOCKUP (R289, R293). -/
def spillFails (c : CoreId) (level : BitVec 3) (ret : Bool) (e : SpillErr) (s : State) : State :=
  if level = 7 then lockUp c 2 s
  else withCore c (fun k => k.rawBank level
    (let b := k.bank level; if ret then { b with rerr := some e } else { b with oerr := some e })) s

/-! ## Operations that wait for a bank (R50, R288, R305) -/

def engSet (c : CoreId) (r : Option EngRun) (s : State) : State := withCore c (fun k => { k with eng := r }) s

/-- A bank is asked for the next access of an operation, which waits for it with the first `n` accesses it has made (R281). -/
def engAsk (c : CoreId) (r : EngRun) (n : Nat) (q : BankReq) (w : Nat) (wr : Option (W64 × BitVec 8)) (s : State) : State :=
  present [q] (voidDet c (engSet c (some { r with got := r.got.take n, next := 0, wait := some (w, wr) }) s))

/-- A spill from a stack, with what the banks have answered: none where the engine does not spill from that stack now. -/
def spillGo (c : CoreId) (level : BitVec 3) (ret : Bool) (r : EngRun) (s0 : State) : Option State :=
  let s := engSet c (some r) s0
  let k := s.core c
  let b := k.bank level
  let cells := if ret then b.rc else b.oc
  let count := (if ret then b.rsp else b.osp).toNat
  let (d, pl) := spillSeg k level
  let again (s : State) : State := retryWhen (fun h => h == .room ret || h == .seven) c s
  if !spillServes s c || !spillWanted s c level ret || !spillFits k level ret then none
  else match storeCell c r.rsp d pl (spillOffset (segLimit d.2 + 1) ret count) ((cells.getLast?).getD 0) s with
    | .missing => none
    | .wait n q w wr => some (engAsk c r n q w wr s0)
    | .err e _ s1 => some (again (spillFails c level ret e (engSet c none s1)))
    | .ok _ s1 =>
      let b1 := if ret then { b with rc := cells.dropLast, rsp := b.rsp + 1 } else { b with oc := cells.dropLast, osp := b.osp + 1 }
      some (again (withCore c (fun k => k.putBank level b1) (engSet c none s1)))

/-- STACK_SPILL: none where the engine does not begin to spill from that stack now. -/
def spillOne (c : CoreId) (level : BitVec 3) (ret : Bool) (rsp : List LineRsp) (s : State) : Option State :=
  if (s.core c).eng.isSome then none else spillGo c level ret ⟨.spill level ret, rsp, [], 0, none⟩ s

/-- Cells that a held parcel has taken while it waits for one below them: those of both halves of a pair, or the address and the mask
of STM and LDM. They are in its hands, and no cells of the stack cache. -/
def handCells (h : Held) : Nat :=
  if isPair h.parcel then
    ((shortInfo (saOf h.parcel)).map (fun i => i.takes)).getD 0 + ((shortInfo (sbOf h.parcel)).map (fun i => i.takes)).getD 0
  else 2

/-- The spill engine is due to fill a stack of the running bank (R288): 4 cells or fewer are cached, or the held parcel takes a spilled
cell and the cache has room for it (R287; DEDUCED, notes/assumptions/68.md). -/
def fillWanted (k : Core) (ret : Bool) : Bool :=
  let n := (if ret then k.run.rc else k.run.oc).length
  n ≤ 4 || (match k.held with
    | some h => h.why == .cell ret && n < 32 + handCells h
    | none => false)

/-- A fill of a stack of the running bank, with what the banks have answered. -/
def fillGo (c : CoreId) (ret : Bool) (r : EngRun) (s0 : State) : Option State :=
  let s := engSet c (some r) s0
  let k := s.core c
  let b := k.run
  let cells := if ret then b.rc else b.oc
  let count := (if ret then b.rsp else b.osp).toNat
  let (d, pl) := spillSeg k k.level
  let again (s : State) : State := retryWhen (fun h => h == .cell ret) c s
  if !spillServes s c || !fillWanted k ret || count = 0 || (if ret then b.rerr else b.oerr).isSome || savePaused k then none
  else match loadCell c r.rsp d pl (spillOffset (segLimit d.2 + 1) ret (count - 1)) s with
    | .missing => none
    | .wait n q w wr => some (engAsk c r n q w wr s0)
    | .err e _ s1 => some (again (spillFails c k.level ret e (engSet c none s1)))
    | .ok v s1 =>
      let b1 := if ret then { b with rc := cells ++ [v], rsp := b.rsp - 1 } else { b with oc := cells ++ [v], osp := b.osp - 1 }
      some (again (withCore c (fun k => k.putRun b1) (engSet c none s1)))

/-- STACK_FILL for the running bank: none where the engine does not begin to fill that stack now (R288). -/
def fillOne (c : CoreId) (ret : Bool) (rsp : List LineRsp) (s : State) : Option State :=
  if (s.core c).eng.isSome then none else fillGo c ret ⟨.fill ret, rsp, [], 0, none⟩ s

/-! ## The task scheduler (R302 to R307) -/

/-- The READY slot that R304 prefers. -/
def Sched.bestReady (d : Sched) : Option Nat :=
  (List.range 8).foldl (fun (best : Option Nat) i =>
    if (d.at i).st = .ready then (match best with
      | none => some i
      | some b => if (d.at i).pri.toNat > (d.at b).pri.toNat then some i else some b)
    else best) none

/-- The word after the one at `cell` of a physical area: by its link word at the end (R295). -/
def nextPhys (c : CoreId) (rsp : List LineRsp) (cell : Nat) (s : State) : Phys Nat :=
  if cell / 8 % 64 < 62 then .ok (cell + 8) s
  else (readPhys c true rsp (cell / 8 + 1) (cell + 8) s).next (fun l s1 =>
    if l = 0 ∨ l.toNat % 512 != 0 ∨ l.toNat ≥ 2 ^ 52 then .err ⟨0x04, BitVec.ofNat 64 (cell + 8), false⟩ (cell + 8) s1 else .ok l.toNat s1)

/-- Writes a half's words to its area (R296, R297). -/
def saveWords (c : CoreId) (rsp : List LineRsp) (skip : BitVec 4 → Bool) : List (W64 × BitVec 4) → Nat → State → Phys Unit
  | [], _, s => .ok () s
  | w :: t, cell, s =>
    (if skip w.2 then .ok () s else writePhys c true rsp (cell / 8) cell w.1 255 s).next (fun _ s1 =>
      if t.isEmpty then .ok () s1 else (nextPhys c rsp cell s1).next (fun next s2 => saveWords c rsp skip t next s2))

/-- Saves bank 0 for a slot (R305 item 2, R298). -/
def saveSlot (c : CoreId) (rsp : List LineRsp) (t : TSlot) (s : State) : Phys Unit :=
  let b := (s.core c).bank 0
  let lo := t.areal.toNat * 512
  let up := t.areau.toNat * 512
  let half (upper : Bool) (ws : List (W64 × BitVec 4)) (a : Nat) (s : State) : Phys Unit :=
    (saveWords c rsp (saveSkips b upper (BitVec.ofNat 64 a)) ws a s).next (fun _ s1 =>
      .ok () (withCore c (fun k => k.rawBank 0 (settleHalf upper (BitVec.ofNat 64 a) (k.bank 0))) s1))
  (half false (lowerWords b) lo s).next (fun _ s1 => half true (upperWords b b.oc) up s1)

/-- Reads `n` words of an area from `cell` on. -/
def loadWords (c : CoreId) (rsp : List LineRsp) : Nat → Nat → State → Phys (List W64)
  | 0, _, s => .ok [] s
  | n + 1, cell, s =>
    (readPhys c true rsp (cell / 8) cell s).next (fun w s1 =>
      if n = 0 then .ok [w] s1
      else (nextPhys c rsp cell s1).next (fun next s2 => (loadWords c rsp n next s2).next (fun ws s3 => .ok (w :: ws) s3)))

/-- Loads bank 0 for a slot (R305 item 4, R300). -/
def loadSlot (c : CoreId) (rsp : List LineRsp) (t : TSlot) (s : State) : Phys Unit :=
  let lo := t.areal.toNat * 512
  let up := t.areau.toNat * 512
  let bad (pa : Nat) (s : State) : Phys Unit := .err ⟨0x01, 0, false⟩ pa s
  (loadWords c rsp 1 lo s).next (fun h s1 =>
    match headerCounts false 32 ((h.head?).getD 0) with
    | none => bad lo s1
    | some _ =>
      (loadWords c rsp 43 lo s1).next (fun lws s2 =>
        (loadWords c rsp 1 up s2).next (fun g s3 =>
          match headerCounts true 32 ((g.head?).getD 0) with
          | none => bad up s3
          | some (o, r) =>
            (loadWords c rsp (3 + o + r) up s3).next (fun uws s4 =>
              .ok () (withCore c (fun k =>
                let k1 := (loadLower { k with level := 0 } lws).sync
                k1.rawBank 0 (settleHalf true (BitVec.ofNat 64 up) (settleHalf false (BitVec.ofNat 64 lo) (loadUpper (k1.bank 0) o uws)))) s4)))))

/-- A switch error is LOCKUP, with its address in the log (R307, R553). -/
def switchError (c : CoreId) (slot pa : Nat) (s : State) : State :=
  logRecord 0x06 c.val (BitVec.ofNat 52 pa) (BitVec.ofNat 64 slot) true (lockUp c 3 s)

/-- The incoming slot becomes RUNNING and resumes at TSPC (R305 items 5 and 6), where the check of a target may still be due (R206).
With EN cleared meanwhile its context runs outside any slot (R309). -/
def enterSlot (c : CoreId) (i : Nat) (s : State) : State :=
  withCore c (fun k =>
    let t := k.sched.at i
    let d := k.sched.put i { t with st := if k.sched.en then .running else .empty }
    { ((k.leaveLoop).goTo t.pc) with
      repResume := t.rpend, chk := t.chk, tag := t.tag, lockRes := none, level := 0
      sched := { d with slot := BitVec.ofNat 3 i, arm := false } }) s

/-- The switch itself, with what the banks have answered: the outgoing slot's context saved, where there is one, and the incoming
slot's loaded, where there is one. -/
def switchGo (c : CoreId) (out inn : Option Nat) (r : EngRun) (s0 : State) : Option State :=
  let s := engSet c (some r) s0
  let load (s : State) : Option State :=
    match inn with
    | none => some (withCore c (fun k => { (k.rawBank 0 (bank0 0)) with st := .idle, lockRes := none, eng := none }) s)
    | some i => match loadSlot c r.rsp ((s.core c).sched.at i) s with
      | .missing => none
      | .wait n q w wr => some (engAsk c r n q w wr s0)
      | .err _ pa s1 => some (switchError c i pa s1)
      | .ok _ s1 => some (enterSlot c i (engSet c none s1))
  match out with
  | none => load s
  | some o => match saveSlot c r.rsp ((s.core c).sched.at o) s with
    | .missing => none
    | .wait n q w wr => some (engAsk c r n q w wr s0)
    | .err _ pa s1 => some (switchError c o pa s1)
    | .ok _ s1 => load s1

/-- A switch begins: the core executes nothing until it has ended (R305). -/
def switchStart (c : CoreId) (out inn : Option Nat) (rsp : List LineRsp) (s : State) : Option State :=
  switchGo c out inn ⟨.switch out inn, rsp, [], 0, none⟩ (withCore c (fun k => { k.sync with st := .switching }) s)

/-- The switch in progress goes on with further lines of TFP and EMP. -/
def switchMore (c : CoreId) (rsp : List LineRsp) (s : State) : Option State :=
  match (s.core c).eng with
  | some r => (match r.kind, r.wait with
    | .switch out inn, none => switchGo c out inn { r with rsp := rsp ++ r.rsp } s
    | _, _ => none)
  | none => none

/-- A switch displaces the running slot `o` at this boundary, for slot `i` (R304, R305). -/
def switchFrom (c : CoreId) (hdr : BitVec 8) (o i : Nat) (rsp : List LineRsp) (s : State) : Option State :=
  let k := s.core c
  match chkFails k hdr with
  | some src => if sevenWaits s c (k.excLevel 0x03) then none else some (stepEnd c (enterExc c (excEntry src) (dropHeld c s)))
  | none =>
    let t := { k.sched.at o with st := .ready, pc := k.saved.epc, rpend := k.saved.rpend, chk := none }
    switchStart c (some o) (some i) rsp
      (setCore c { k with sched := { k.sched.put o t with slot := BitVec.ofNat 3 o, out := BitVec.ofNat 3 o }, held := none } s)

/-- TASK_SWITCH: none where R304 and R306 call for no switch. -/
def taskSwitchNow (c : CoreId) (hdr : BitVec 8) (rsp : List LineRsp) (s0 : State) : Option State :=
  let s := settleArm c s0
  let k := s.core c
  let d := k.sched
  if !dclkRuns s c then none
  else if k.eng.isSome then switchMore c rsp s
  else if !(d.en && !schedFrozen s && k.sb.isEmpty && (s.evc.get c).active == 0) then none
  else match k.st with
    | .idle => (match d.bestReady with
      | some i => switchStart c none (some i) rsp s
      | none => none)
    | .switching => switchStart c (some d.out.toNat) d.bestReady rsp s
    | _ =>
      if interruptible k && asyncAllowed s c && k.level == 0 && k.run.oc.length ≤ 32 && k.run.rc.length ≤ 32 then
        match d.runningSlot, d.bestReady with
        | some o, some i => if (d.at i).pri.toNat > (d.at o).pri.toNat then switchFrom c hdr o i rsp s else none
        | _, _ => none
      else none

/-- A bank's answer to an operation of the spill engine or the scheduler, which goes on with it. A spill or a fill that is no longer
wanted, or that lacks a line of TFP or EMP, ends without effect. -/
def answerEng (c : CoreId) (a : BankAnswer) (s : State) : State :=
  match (s.core c).eng with
  | none => s
  | some r => match r.wait with
    | none => s
    | some (w, wr) =>
      let g : EngAcc := match a with
        | .data x => ⟨w, wr, x.data, x.poison⟩
        | .done _ => ⟨w, wr, 0, false⟩
        | .refused _ => ⟨w, wr, 0, true⟩
      let r1 := { r with got := r.got ++ [g], next := 0, wait := none }
      match r1.kind with
      | .spill level ret => (spillGo c level ret r1 s).getD (engSet c none s)
      | .fill ret => (fillGo c ret r1 s).getD (engSet c none s)
      | .switch out inn => (switchGo c out inn r1 s).getD (engSet c (some r1) s)

end Sys2Proof.Machine
end

