-- ==== Sys2Proof/Machine/Weado.lean ====
section
/-! DEFINITION. Weado: its registers, the system access master, the virtual terminal and the trace port
(spec/20_weado_debug.md). The instruction feed is in Machine/CoreRun.lean. -/

namespace Sys2Proof.Machine

/-! ## Rights (R516, R520) -/

/-- Weado reaches only the always-on region: the identity block, LCSTAT, the error log and authentication (R516). -/
def onlyAlwaysOn (s : State) : Bool := s.pwr.state == 4 || (s.pwr.state == 3 && !s.pwr.emul)

/-- The level as the power state narrows it (R516): in DOZE and OFF, Weado reaches only the always-on region. -/
def effLevel (s : State) : Nat := if onlyAlwaysOn s then 0 else dbgLevel s

def deny (s : State) : State := setWeado { s.weado with denied := true } s

/-- A command is answered: WD.DO, and one pulse of WD.ACK (R519). -/
def answerWd (v : W64) (s : State) : State := setWeado { s.weado with wdDo := v, acks := s.weado.acks + 1 } s

/-! ## The system access master (R533 to R535) -/

def setSam (m : Sam) (s : State) : State := setWeado { s.weado with sam := m } s

/-- The access ends at once with a result and data. -/
def samEnd (result : Nat) (s : State) : State :=
  setSam { s.weado.sam with busy := false, out := none, rd := false, result := BitVec.ofNat 3 result } s

/-- Set-up registers that Weado may read at level NONE: the identity block, LCSTAT, BOOTSTAT, DBGCHAL and the error log (R7, R520), as
the power state narrows them (R516). -/
def samFreeRead (s : State) (off : Nat) : Bool :=
  off < 0x10000 || off == 0x90000 || (off == 0x90018 && !onlyAlwaysOn s) || (0x90040 ≤ off && off < 0x90070) || (0xC0000 ≤ off && off < 0xD0000)

/-- Set-up registers that Weado may write at level NONE (R502, R520), as the power state narrows them (R516). -/
def samFreeWrite (s : State) (off : Nat) : Bool :=
  off == 0x90020 || (0x90080 ≤ off && off < 0x90140) ||
  ((off == 0x90008 || off == 0x90270 || (0x90240 ≤ off && off < 0x90270)) && lcMayWrite .weado s && !onlyAlwaysOn s)

/-- The set-up offset that the access names, if it names one. -/
def samSetup (s : State) : Option Nat :=
  if s.weado.sam.space = 0 then (match routeOf s s.weado.sam.addr.toNat with
    | .setup o => some o
    | _ => none)
  else none

/-- The lowest level that the access needs (R520). -/
def samLevel (s : State) : Nat :=
  let m := s.weado.sam
  if m.write then (match samSetup s with
    | some o => if samFreeWrite s o then 0 else 2
    | none => 2)
  else if m.consume then 2
  else match samSetup s with
    | some o => if samFreeRead s o then 0 else 1
    | none => 1

/-- Weado may reach secure words in this lifecycle state (R516). -/
def samSecure (s : State) : Bool := s.fuses.now != 3 && s.fuses.now != 5

/-- An access of the set-up window (R533, R534, R570). -/
def samSetupAccess (off : Nat) (s : State) : State :=
  let m := s.weado.sam
  if m.write then
    let (code, s1) := windowWrite .weado off m.be m.data s
    samEnd (codeNum code) s1
  else
    let (code, d, s1) := windowRead .weado off (!m.consume) s
    samEnd (codeNum code) (if code = .okay then setSam { s1.weado.sam with data := d } s1 else s1)

/-- An access of a Vector Store word; a word of the partner tile returns a free value. -/
def samVsAccess (w : Nat) (s : State) : State :=
  let m := s.weado.sam
  let op : BankOp := if m.write then .write m.data m.be false else .read
  if w ≥ wordSpace s then samEnd 1 s
  else match homeWord s w with
    | some lw => present [bankReq 17 lw op (samSecure s) .sam] (setSam { m with busy := true, rd := !m.write } s)
    | none =>
      if partnerRefuses w (samSecure s) then samEnd 4 s
      else if m.write then samEnd 0 s
      else
        let (x, s1) := s.takeWord
        samEnd 0 (setSam { s1.weado.sam with data := x } s1)

/-- An access on TFP or EMP (R17, R533, R534). -/
def samExtAccess (kind : AttrKind) (emp : Bool) (s : State) : State :=
  let m := s.weado.sam
  let pa := m.addr.toNat
  if m.write then
    if !outboundOk s then samEnd 4 s
    else if m.posted && emp then samEnd 2 s
    else
      let s1 := if kind = .cached then snoopCores (pa / 64) s else clearLocks none (pa / 64) s
      if m.posted then samEnd 0 { s1 with ports := { s1.ports with pwrites := s1.ports.pwrites ++ [(m.addr, m.be, m.data)] } }
      else setSam { s1.weado.sam with busy := true, rd := false, out := some m.addr } s1
  else if kind = .device && !m.consume then samEnd 5 s
  else setSam { m with busy := true, rd := true, out := some m.addr } s

/-- SAMCTL.GO (R533). -/
def samGo (s : State) : State :=
  let m := s.weado.sam
  if effLevel s < samLevel s then samEnd 4 (deny s)
  else if m.space = 1 then samVsAccess (m.addr.toNat % 2 ^ 23) s
  else if m.space != 0 || m.addr.toNat % 8 != 0 then samEnd 4 s
  else match routeOf s m.addr.toNat with
    | .setup off => samSetupAccess off s
    | .vs off => samVsAccess (off / 8) s
    | .ext kind emp => samExtAccess kind emp s

/-- A write of SAMCTL (R535, R541). -/
def writeSamctl (v : W64) (s : State) : State :=
  let m := s.weado.sam
  if m.busy && bitAt 0 v then deny s
  else
    let s1 := setSam { m with
      write := bitAt 1 v, consume := bitAt 2 v, posted := bitAt 3 v, space := v.extractLsb' 4 2, be := v.extractLsb' 6 8 } s
    if bitAt 0 v then samGo s1 else s1

/-- The response of TFP or EMP (R535). -/
def samResponse (code : RspCode) (data : W64) (s : State) : State :=
  let m := s.weado.sam
  let pa := (m.out.getD m.addr).toNat
  let d := match routeOf s pa with
    | .ext .cached _ => (match dirtyCopy s (pa / 64) with
      | some l => wordAt l (pa / 8 % 8)
      | none => data)
    | _ => data
  let s1 := if m.rd && (code = .okay || code = .epoi) then setSam { m with data := d } s else s
  samEnd (codeNum code) s1

/-- A bank answers (R535, R62). -/
def answerSam (a : BankAnswer) (s : State) : State :=
  let m := s.weado.sam
  if !m.busy || m.out.isSome then s
  else match a with
    | .data x => samEnd (if x.poison then 3 else 0) (if m.rd then setSam { m with data := x.data } s else s)
    | .done _ => samEnd 0 s
    | .refused _ => samEnd 4 s

/-! ## Virtual terminal (R536, R537) -/

/-- The terminal is refused in END, and where Weado reaches only the always-on region (R516, R520). -/
def vtRefused (s : State) : Bool := s.fuses.now == 5 || onlyAlwaysOn s

def vtRead (s : State) : State :=
  if vtRefused s then answerWd 0 (deny s)
  else
    let t := s.weado.vt
    let s1 := answerWd (BitVec.ofNat 64 (t.outData.toNat + b2n t.outFull * 2 ^ 32)) (setVt { t with outFull := false } s)
    if t.outFull then arrive srcWeadoVt s1 else s1

def vtWrite (d : BitVec 32) (s : State) : State :=
  if vtRefused s then answerWd 0 (deny s)
  else
    let t := s.weado.vt
    if t.inFull then answerWd 0 s
    else arrive srcWeadoVt (answerWd 1 (setVt { t with inData := d, inFull := true } s))

/-! ## Trace port (R538, R539) -/

def traceBytes (s : State) : Nat := if s.id.tracew = 0 then 1 else if s.id.tracew = 1 then 2 else 4

/-- Payload bytes of a packet, by its header byte (R539). -/
def packetLen (h : Byte) : Nat :=
  match h.toNat / 16 with
  | 1 => 8
  | 2 => 6
  | 3 => 10
  | 4 => 7
  | 5 => 5
  | 6 => 6
  | 7 => 16
  | 8 => 2
  | _ => 0

def midAfter (mid : Nat) (bs : List Byte) : Nat := bs.foldl (fun m b => if m = 0 then packetLen b else m - 1) mid

/-- Once room returns after a drop, OVF and SYNC enter the FIFO. -/
def traceOvf (s : State) : State :=
  let t := s.weado.tr
  if t.lost != 0 && t.fifo.length + 12 ≤ 4096 then
    setWeado { s.weado with tr := { t with
      fifo := t.fifo ++ (BitVec.ofNat 8 0x85 :: bytesLE (Nat.min t.lost 0xFFFF) 2) ++ syncPacket s, lost := 0, since := 0 } } s
  else s

/-- One TRCLK of the port. -/
def traceTransfer (s : State) : State :=
  let t := s.weado.tr
  let n := traceBytes s
  if t.fifo.isEmpty && !(t.en && dbgLevel s != 0) then setWeado { s.weado with tr := { t with port := [], mid := 0 } } s
  else
    let sent := t.fifo.take n
    let idle := List.replicate (n - sent.length) (0 : Byte)
    traceOvf (setWeado { s.weado with tr := { t with port := sent ++ idle, fifo := t.fifo.drop n, mid := midAfter t.mid sent } } s)

/-- A write of TRCTL (R520, R538, R541). -/
def writeTrctl (v : W64) (s : State) : State :=
  let lvl := effLevel s
  if lvl = 0 || (bitAt 11 v && lvl < 2) then deny s
  else
    let t := s.weado.tr
    let en := bitAt 0 v
    let t1 := { t with en := en, kinds := v.extractLsb' 1 6, cores := v.extractLsb' 7 4, dwhalt := bitAt 11 v }
    if en && !t.en then
      let t2 := { t1 with drops := 0, lost := 0, since := 0, fifo := t1.fifo ++ syncPacket s }
      setWeado { s.weado with tr := t2 } s
    else if !en && t.en then setWeado { s.weado with tr := t1.stop } s
    else setWeado { s.weado with tr := t1 } s

/-! ## Run control (R521, R523, R524, R528) -/

/-- STEP of a halted core: it leaves the halt for one step. -/
def stepCore (c : CoreId) (s : State) : State :=
  let k := s.core c
  if k.st != .halted || k.held.isSome then s
  else setCore c { k.goTo k.dbg.dpc with repResume := k.dbg.drpend, repHold := k.dbg.drpend, dbg := { k.dbg with stepping := true } } s

/-- A write of DCTL.c at HALT level. -/
def writeDctl (c : CoreId) (v : W64) (s : State) : State :=
  let s1 := withDbg c (fun d => { d with stepmask := bitAt 3 v, haltreq := d.haltreq || bitAt 0 v }) s
  let s2 := if (s1.core c).st = .halted then withDbg c (fun d => { d with haltreq := false }) s1 else s1
  if bitAt 1 v then resumeCore c s2 else if bitAt 2 v then stepCore c s2 else s2

def writeDpc (c : CoreId) (v : W64) (s : State) : State :=
  if (s.core c).st = .halted then withDbg c (fun d => { d with dpc := v.truncate 48, drpend := bitAt 48 v }) s else deny s

/-- A write of DX0 or DY0 replaces the top cell of the halted core's running bank (R528). -/
def writeDtop (c : CoreId) (ret : Bool) (v : W64) (s : State) : State :=
  let k := s.core c
  let b := k.run
  if k.st != .halted then deny s
  else match (if ret then b.rc else b.oc) with
    | [] => deny s
    | _ :: t => setCore c (k.putRun (if ret then { b with rc := v :: t } else { b with oc := v :: t })) s

/-- The top cell is spilled, so that an access to it waits (R528). -/
def dtopSpilled (s : State) (c : CoreId) (ret : Bool) : Bool :=
  let k := s.core c
  let b := k.run
  k.st == .halted && (if ret then b.rc.isEmpty && b.rsp != 0 else b.oc.isEmpty && b.osp != 0)

def readDtop (k : Core) (ret : Bool) : W64 :=
  if k.st = .halted then ((if ret then k.run.rc else k.run.oc).head?).getD 0 else 0

/-- A write of WFREEZE (R529, R531). -/
def writeWfreeze (v : W64) (s : State) : State := thawed s (setWeado { s.weado with wfreeze := v.truncate 11 } s)

/-- The fields of DSTAT that a write clears (R541). -/
def writeDstat (c : CoreId) (v : W64) (s : State) : State :=
  withDbg c (fun d => { d with feederr := d.feederr && !bitAt 6 v, fexc := if v.extractLsb' 8 8 = 0xFF then 0 else d.fexc }) s

/-! ## Weado's registers (R541) -/

def samctlWord (m : Sam) : W64 :=
  BitVec.ofNat 64 (2 * b2n m.write + 4 * b2n m.consume + 8 * b2n m.posted + m.space.toNat * 16 + m.be.toNat * 64 + b2n m.busy * 2 ^ 14 +
    m.result.toNat * 2 ^ 15)

def trctlWord (t : Trace) : W64 :=
  BitVec.ofNat 64 (b2n t.en + t.kinds.toNat * 2 + t.cores.toNat * 2 ^ 7 + b2n t.dwhalt * 2 ^ 11 + t.drops.toNat * 2 ^ 16)

def wstatWord (s : State) : W64 :=
  BitVec.ofNat 64 (b2n s.weado.denied + 2 * b2n (dbgLevel s != 0) + s.auth.level.toNat * 4)

def dstatWord (k : Core) : W64 :=
  BitVec.ofNat 64 (b2n (k.st == .halted) + k.dbg.cause.toNat * 2 + 16 * b2n k.lockup.locked + 32 * b2n (k.st == .halted && k.held.isSome) +
    64 * b2n k.dbg.feederr + k.dbg.fexc.toNat * 2 ^ 8)

def readWeado (s : State) (off : Nat) : W64 :=
  if 0x100 ≤ off ∧ off < 0x200 then
    let k := s.core (coreOf ((off - 0x100) / 0x40))
    match off % 0x40 with
    | 0x00 => BitVec.ofNat 64 (b2n k.dbg.haltreq + 8 * b2n k.dbg.stepmask)
    | 0x08 => dstatWord k
    | 0x10 => BitVec.ofNat 64 (k.dbg.dpc.toNat + b2n k.dbg.drpend * 2 ^ 48)
    | 0x20 => readDtop k false
    | 0x28 => readDtop k true
    | 0x30 => k.dbg.dfaddr
    | _ => 0
  else match off with
    | 0x000 => s.weado.wfreeze.zeroExtend 64
    | 0x008 => samctlWord s.weado.sam
    | 0x010 => s.weado.sam.addr.zeroExtend 64
    | 0x018 => s.weado.sam.data
    | 0x020 => trctlWord s.weado.tr
    | 0x028 => s.weado.dwaddr
    | 0x030 => s.weado.dwmask
    | 0x038 => wstatWord s
    | _ => 0

/-- The writable bits of DWADDR and DWMASK (R541). -/
def dwaddrMask : Nat := 0x000FFFFFFFFFFFF8
def dwmaskMask : Nat := 0x000FFFFFFFFFFFFB

/-- Registers that only HALT may write (R520). -/
def needsHalt (off : Nat) : Bool :=
  off == 0x000 || (0x100 ≤ off && off < 0x200 && (off % 0x40 == 0x00 || off % 0x40 == 0x10 || off % 0x40 == 0x18 || off % 0x40 == 0x20 || off % 0x40 == 0x28))

/-- A register write of Weado; `feed` executes a parcel on a halted core (R526). -/
def writeWeado (feed : CoreId → BitVec 20 → State → State) (off : Nat) (v : W64) (s : State) : State :=
  if needsHalt off && effLevel s < 2 then deny s
  else if 0x100 ≤ off ∧ off < 0x200 then
    let c := coreOf ((off - 0x100) / 0x40)
    match off % 0x40 with
    | 0x00 => writeDctl c v s
    | 0x08 => writeDstat c v s
    | 0x10 => writeDpc c v s
    | 0x18 => feed c (v.truncate 20) s
    | 0x20 => writeDtop c false v s
    | 0x28 => writeDtop c true v s
    | _ => s
  else match off with
    | 0x000 => writeWfreeze v s
    | 0x008 => writeSamctl v s
    | 0x010 => setSam { s.weado.sam with addr := v.truncate 52 } s
    | 0x018 => setSam { s.weado.sam with data := v } s
    | 0x020 => writeTrctl v s
    | 0x028 => if effLevel s = 0 then deny s else setWeado { s.weado with dwaddr := maskTo dwaddrMask v.toNat } s
    | 0x030 => if effLevel s = 0 then deny s else setWeado { s.weado with dwmask := maskTo dwmaskMask v.toNat } s
    | 0x038 => setWeado { s.weado with denied := s.weado.denied && !bitAt 0 v } s
    | _ => s

end Sys2Proof.Machine
end

