-- ==== Sys2Proof/Machine/Access.lean ====
section
/-! DEFINITION. How a command is answered: an event that cannot occur now is refused by name, a response that nobody waits for any
more is discarded, and an access of the set-up window goes by its requester (R469, R520, R573). -/

namespace Sys2Proof.Machine

/-- An effect that some states do not allow. -/
def orRefuse (why : String) (o : Option State) : Host.Outcome State Fault Refusal :=
  match o with
  | some s => .next s
  | none => .refused (.notNow why)

/-- An effect that occurs only under a condition. -/
def onlyIf (ok : Bool) (why : String) (s : State) : Host.Outcome State Fault Refusal :=
  if ok then .next s else .refused (.notNow why)

/-- A response to a request whose requester a reset has struck is discarded (R469, R470); any other goes to its requester. -/
def owedFirst (o : Owed) (f : State → Host.Outcome State Fault Refusal) (s : State) : Host.Outcome State Fault Refusal :=
  if s.ports.owed.contains o then .next { s with ports := { s.ports with owed := s.ports.owed.erase o } } else f s

/-- A status record may have been delivered: parcels that wait for one execute again (R249). -/
def wakeRecords (s : State) : State := fours.foldl (fun s c => retryWhen (fun w => w == .record) c s) s

/-- Core `c` makes accesses of the set-up window: it has left reset, its clock runs, and it is at Monitor level, below which an access of
the window takes PROT and reaches no register (R18, R337, R573). -/
def coreLives (s : State) (c : CoreId) : Bool := dclkRuns s c && (s.core c).st != .off && 2 ≤ (s.core c).pl

/-- An access of the set-up window by a requester: `level` is the debug level that Weado needs for it (R520), and `act` gives the
response code, the data and the state after. -/
def windowCmd (who : Requester) (level : Nat) (read : Bool) (act : State → RspCode × W64 × State) (s : State) :
    Host.Outcome State Fault Refusal :=
  match who with
  | .core c =>
    if coreLives s c then
      let (code, d, s1) := act s
      .next (answerWindow who code d s1)
    else .refused (.notNow "the core makes no access now")
  | .weado =>
    if s.weado.sam.busy then .next (deny s)
    else if effLevel s < level then .next (samEnd 4 (deny s))
    else
      let (code, d, s1) := act s
      let s2 := answerWindow who code d s1
      .next (samEnd (codeNum code) (if read && code == .okay then setSam { s2.weado.sam with data := d } s2 else s2))
  | .host =>
    let (code, d, s1) := act s
    .next (answerWindow who code d s1)

/-- The level at which Weado may write a register (R520). -/
def writeLevel (s : State) (off : Nat) : Nat := if samFreeWrite s off then 0 else 2

/-- A write of one register. -/
def writeCmd (who : Requester) (off : Nat) (be : BitVec 8) (v : W64) (s : State) : Host.Outcome State Fault Refusal :=
  windowCmd who (writeLevel s off) false (fun s => let (code, s1) := windowWrite who off be v s; (code, 0, s1)) s

/-- A full write of one register with a value of its fields. -/
def regCmd (who : Requester) (off v : Nat) (s : State) : Host.Outcome State Fault Refusal :=
  writeCmd who off 0xFF (BitVec.ofNat 64 v) s

/-- A read of one register that is not a peek. -/
def readCmd (who : Requester) (off : Nat) (s : State) : Host.Outcome State Fault Refusal :=
  windowCmd who 2 true (fun s => windowRead who off false s) s

end Sys2Proof.Machine
end

