-- ==== Sys2Proof/Machine/ExecCore.lean ====
section
/-! DEFINITION. The commands of core events and of the event controller (spec/09_core_pipeline.md to spec/13_event_controller.md,
spec/20_weado_debug.md for CORE_HALT). -/

namespace Sys2Proof.Machine

/-- A response that reaches a core: one that a reset has made worthless is discarded, any other crosses into the core's clock. -/
def coreResponse (o : Owed) (c : CoreId) (why : String) (f : State → Option State) (s : State) : Host.Outcome State Fault Refusal :=
  owedFirst o (fun s => if dclkRuns s c then orRefuse why (f s) else .refused (.notNow "the core's clock does not run")) s

/-- DIVIDE_RESULT (R262). -/
def execDivideResult (c : CoreId) (s : State) : Host.Outcome State Fault Refusal :=
  if dclkRuns s c then orRefuse "no divide is in flight" (divideDone c s) else .refused (.notNow "the core's clock does not run")

/-- INTERRUPT_ENTRY (R363 to R365): `hdr` is the header byte of the code line at the pc, for a target whose entry mark is unchecked. -/
def execInterruptEntry (c : CoreId) (hdr : BitVec 8) (s : State) : Host.Outcome State Fault Refusal :=
  orRefuse "no source is deliverable at this boundary" (interruptNow c hdr s)

/-- LINE_FILL_RESPONSE (R263). -/
def execLineFillResponse (c : CoreId) (fetch : Bool) (line : BitVec 46) (code : RspCode) (data : Line) (s : State) :
    Host.Outcome State Fault Refusal :=
  coreResponse (.fill c fetch line) c "nothing awaits that line" (fillResponse c fetch line code data) s

/-- PAGE_WALK_RESPONSE (R317): an INVWALK may have waited for it (R332). -/
def execPageWalkResponse (c : CoreId) (ea : BitVec 52) (code : RspCode) (entry : W64) (s : State) : Host.Outcome State Fault Refusal :=
  match coreResponse (.walk c ea) c "no walk reads that entry" (coreWalkResponse c ea code entry) s with
  | .next t => .next (wakeWalks t)
  | o => o

/-- STORE_DRAIN_RESPONSE (R275, R349): `data` is the line that a store to a cacheable line fetches where the cache does not hold it. -/
def execStoreDrainResponse (c : CoreId) (code : RspCode) (data : Line) (s : State) : Host.Outcome State Fault Refusal :=
  coreResponse (.drain c) c "no store-buffer entry awaits a response" (drainResponse c code data) s

/-- WRITEBACK_RESPONSE (R273, R349). -/
def execWritebackResponse (c : CoreId) (line : BitVec 46) (code : RspCode) (s : State) : Host.Outcome State Fault Refusal :=
  coreResponse (.writeback c line) c "no write-back of that line is outstanding" (writebackDone c line code) s

/-- STACK_SPILL (R288 to R293). -/
def execStackSpill (c : CoreId) (level : Fin 8) (ret : Bool) (rsp : List LineRsp) (s : State) : Host.Outcome State Fault Refusal :=
  orRefuse "the spill engine does not spill from that stack now" (spillOne c (BitVec.ofNat 3 level.val) ret rsp s)

/-- STACK_FILL (R288). -/
def execStackFill (c : CoreId) (ret : Bool) (rsp : List LineRsp) (s : State) : Host.Outcome State Fault Refusal :=
  orRefuse "the spill engine does not fill that stack now" (fillOne c ret rsp s)

/-- CORECFG_TAKE_EFFECT (R282). -/
def execCorecfgTakeEffect (c : CoreId) (s : State) : Host.Outcome State Fault Refusal :=
  orRefuse "no CORECFG change can take effect" (corecfgEffect c s)

/-- TASK_SWITCH (R304 to R307). -/
def execTaskSwitch (c : CoreId) (hdr : BitVec 8) (rsp : List LineRsp) (s : State) : Host.Outcome State Fault Refusal :=
  orRefuse "the scheduler makes no switch now" (taskSwitchNow c hdr rsp s)

/-- CORE_HALT (R521, R522). -/
def execCoreHalt (c : CoreId) (hdr : BitVec 8) (s : State) : Host.Outcome State Fault Refusal :=
  orRefuse "no halt is due at this boundary" (haltNow c hdr s)

/-- The sources of R358 that a hardware pulse can reach; every other source arrives only through SET. -/
def pulseSource (n : Nat) : Bool :=
  n < 0x62 || (0x68 ≤ n && n ≤ 0x6C) || (0x70 ≤ n && n ≤ 0x7E) || (0x80 ≤ n && n ≤ 0x82) || (0x90 ≤ n && n ≤ 0x93) ||
  (0xA0 ≤ n && n ≤ 0xA2) || (0xB0 ≤ n && n ≤ 0xB3) || n == 0xC0

/-- EVENT_ARRIVAL (R357, R360, R370, R371). -/
def execEventArrival (src : BitVec 9) (s : State) : Host.Outcome State Fault Refusal :=
  onlyIf (pulseSource src.toNat) "the source arrives only through SET" (arrive src.toNat s)

/-- EVSRC_SET (R357, R373): a write of EVSRCn with SET. -/
def execEvsrcSet (who : Requester) (src : BitVec 9) (val : W64) (s : State) : Host.Outcome State Fault Refusal :=
  writeCmd who (0x50000 + 8 * src.toNat) 0xFF val s

end Sys2Proof.Machine
end

