-- ==== Sys2Proof/Machine/ExecDebug.lean ====
section
/-! DEFINITION. The commands of Weado's port, its registers, the virtual terminal and trace (spec/20_weado_debug.md). -/

namespace Sys2Proof.Machine

/-- Weado answers commands: the always-on region is out of reset. -/
def weadoCmd (s s1 : State) : Host.Outcome State Fault Refusal := onlyIf (s.rst.phase != .aopor) "AOPOR_N is asserted" s1

/-- WD_SELECT (R519). -/
def execWdSelect (di : W64) (s : State) : Host.Outcome State Fault Refusal :=
  weadoCmd s (answerWd 0 (setWeado { s.weado with sel := di.truncate 12 } s))

/-- The register that an access waits for: the top cell of a halted core while it is spilled (R528). -/
def weadoWaits (s : State) (off : Nat) : Bool :=
  if 0x100 ≤ off ∧ off < 0x200 then
    let c := coreOf ((off - 0x100) / 0x40)
    (off % 0x40 == 0x20 && dtopSpilled s c false) || (off % 0x40 == 0x28 && dtopSpilled s c true)
  else false

/-- WD_READ (R519, R520, R528). -/
def execWdRead (s : State) : Host.Outcome State Fault Refusal :=
  if weadoWaits s s.weado.sel.toNat then .refused (.notNow "the cell is spilled, and its fill is awaited")
  else weadoCmd s (answerWd (readWeado s s.weado.sel.toNat) s)

/-- A WRITE command that meets register `off`, which is then the selected one (R519, R520). -/
def weadoWrite (off : Nat) (v : W64) (s : State) : Host.Outcome State Fault Refusal :=
  if weadoWaits s off && effLevel s == 2 then .refused (.notNow "the cell is spilled, and its fill is awaited")
  else weadoCmd s (answerWd 0 (writeWeado feedParcel off v (setWeado { s.weado with sel := BitVec.ofNat 12 off } s)))

/-- WD_WRITE (R519). -/
def execWdWrite (di : W64) (s : State) : Host.Outcome State Fault Refusal := weadoWrite s.weado.sel.toNat di s

/-- VTREAD (R519, R536, R537). -/
def execVtread (s : State) : Host.Outcome State Fault Refusal := weadoCmd s (vtRead s)

/-- VTWRITE (R519, R537). -/
def execVtwrite (data : BitVec 32) (s : State) : Host.Outcome State Fault Refusal := weadoCmd s (vtWrite data s)

/-- WD_RESERVED_COMMAND (R519). -/
def execWdReservedCommand (cmd : BitVec 8) (s : State) : Host.Outcome State Fault Refusal :=
  if 1 ≤ cmd.toNat && cmd.toNat ≤ 5 then .refused (.notNow "the code is not reserved") else weadoCmd s (answerWd 0 (deny s))

/-- VTOUT_WRITE (R536). -/
def execVtoutWrite (who : Requester) (val : W64) (s : State) : Host.Outcome State Fault Refusal := writeCmd who 0x100 0xFF val s

/-- VTIN_READ (R536). -/
def execVtinRead (who : Requester) (s : State) : Host.Outcome State Fault Refusal := readCmd who 0x108 s

/-- The offset of a register of core `c` (R541). -/
def coreDbgOff (c : CoreId) (r : Nat) : Nat := 0x100 + 0x40 * c.val + r

/-- HALTREQ (R521): a write of DCTL.c with HALTREQ. -/
def execHaltreq (c : CoreId) (stepMask : Bool) (s : State) : Host.Outcome State Fault Refusal :=
  weadoWrite (coreDbgOff c 0x00) (BitVec.ofNat 64 (1 + 8 * b2n stepMask)) s

/-- DEBUG_RESUME (R523): a write of DCTL.c with RESUME. -/
def execDebugResume (c : CoreId) (stepMask : Bool) (s : State) : Host.Outcome State Fault Refusal :=
  weadoWrite (coreDbgOff c 0x00) (BitVec.ofNat 64 (2 + 8 * b2n stepMask)) s

/-- DEBUG_STEP (R524): a write of DCTL.c with STEP. -/
def execDebugStep (c : CoreId) (stepMask : Bool) (s : State) : Host.Outcome State Fault Refusal :=
  weadoWrite (coreDbgOff c 0x00) (BitVec.ofNat 64 (4 + 8 * b2n stepMask)) s

/-- DFEED (R526, R527). -/
def execDfeed (c : CoreId) (parcel : BitVec 20) (s : State) : Host.Outcome State Fault Refusal :=
  weadoWrite (coreDbgOff c 0x18) (parcel.zeroExtend 64) s

/-- DPC_WRITE (R523, R528). -/
def execDpcWrite (c : CoreId) (val : W64) (s : State) : Host.Outcome State Fault Refusal := weadoWrite (coreDbgOff c 0x10) val s

/-- DX0_WRITE (R528). -/
def execDx0Write (c : CoreId) (val : W64) (s : State) : Host.Outcome State Fault Refusal := weadoWrite (coreDbgOff c 0x20) val s

/-- DY0_WRITE (R528). -/
def execDy0Write (c : CoreId) (val : W64) (s : State) : Host.Outcome State Fault Refusal := weadoWrite (coreDbgOff c 0x28) val s

/-- WFREEZE_WRITE (R529 to R531). -/
def execWfreezeWrite (val : W64) (s : State) : Host.Outcome State Fault Refusal := weadoWrite 0x000 val s

/-- SAM_GO (R533): a write of SAMCTL. -/
def execSamGo (val : W64) (s : State) : Host.Outcome State Fault Refusal := weadoWrite 0x008 val s

/-- SAM_RESPONSE (R460, R535). -/
def execSamResponse (code : RspCode) (data : W64) (s : State) : Host.Outcome State Fault Refusal :=
  owedFirst .sam (fun s => onlyIf (s.weado.sam.busy && s.weado.sam.out.isSome) "no access awaits a response" (samResponse code data s)) s

/-- TRACE_PORT_TRANSFER (R538, R539): TRCLK stops in OFF (R29). -/
def execTracePortTransfer (s : State) : Host.Outcome State Fault Refusal :=
  if switchedOn s then weadoCmd s (traceTransfer s) else .refused (.notNow "TRCLK does not run")

end Sys2Proof.Machine
end

