-- ==== Sys2Proof/Machine/ExecEngine.lean ====
section
/-! DEFINITION. The commands of the Vector Store and of the vector engine (spec/02_vector_store.md, spec/05_chaining_contract.md,
spec/06_external_streams.md). -/

namespace Sys2Proof.Machine

/-! ## Vector Store -/

/-- VS_REPAIR_START (R40, R41): a write of VSREPAIR with START. -/
def execVsRepairStart (who : Requester) (lbank : BitVec 10) (spare : BitVec 2) (s : State) : Host.Outcome State Fault Refusal :=
  regCmd who 0x30010 (lbank.toNat + spare.toNat * 2 ^ 10 + 2 ^ 12) s

/-- VS_REPAIR_DONE (R40). -/
def execVsRepairDone (s : State) : Host.Outcome State Fault Refusal :=
  onlyIf (vclkRuns s && s.vs.repair.busy && 8192 ≤ s.vs.repair.row) "no copy has passed its last row" (repairDone s)

/-- The scrubber presents the read of its next word (R48). -/
def scrubPresents (s : State) : State := present [bankReq 18 s.vs.scrubWord .read true .scrub] s

/-- SCRUB_STEP (R48). -/
def execScrubStep (s : State) : Host.Outcome State Fault Refusal :=
  onlyIf (vclkRuns s && s.vs.scrubEn && !s.vs.wipePending && s.vs.scrubWait == 0 && !s.vs.reqs.any (fun r => r.rq == 18) &&
      !s.vs.halves.any (fun h => h.2.dest == .scrub)) "no scrub step is due" (scrubPresents s)

/-- A bank's answer reaches its requester. -/
def deliverAnswer (x : ReqDest × Nat × BankAnswer) (s : State) : State :=
  let (dest, _, a) := x
  match dest with
  | .load slot vor opnd i => answerLoad slot vor opnd i a s
  | .lineWord slot vor opnd line i => answerLineWord slot vor opnd line i a s
  | .store slot vor e => answerStore slot vor e a s
  | .gather slot vor e => answerGather slot vor e a s
  | .sadd slot vor e => answerStore slot vor e a s
  | .prog c e i => answerProg c e i a s
  | .coreRead c w => answerCoreRead c w a s
  | .coreWrite c => answerCoreWrite c a s
  | .lock c w => answerLock c w a s
  | .unlock c w => answerCoreRead c w a s
  | .coreEng c => answerEng c a s
  | .dmaRead ch tag i => answerDmaRead ch tag i a s
  | .dmaWrite ch tag => answerDmaWrite ch tag a s
  | .sam => answerSam a s
  | .pair tag => answerPair tag a s
  | .scrub => s
  | .repair => s

/-- One VCLK: every bank grants, and the answers reach their requesters (R44, R50 to R58). -/
def vclk (s : State) : State :=
  let (answers, s1) := grantCycle (qualRuns s) (presentProgs s)
  wakeRecords (bootWatch (answers.foldl (fun s x => deliverAnswer x s) s1))

/-- BANK_GRANT_CYCLE (R51): one VCLK, which during start-up only ENGTIME counts (R168, R473). In deterministic mode a VCLK in which a
trigger-linked launch falls does not end before that launch (R166). -/
def execBankGrantCycle (s : State) : Host.Outcome State Fault Refusal :=
  onlyIf (vclkEdges s && !(vclkRuns s && detLaunchDue s)) "VCLK does not run, or a launch falls in this VCLK"
    (if vclkRuns s then vclk s else tickEngtime s)

/-- A request whose override is due: class B, and 512 VCLK old (R52). -/
def overrideDue (rq word : Nat) (r : BankReq) : Bool := r.rq == rq && r.word == word && 12 ≤ rq && 512 ≤ r.age && !r.ovr

def setOverride (rq word : Nat) (s : State) : State :=
  setVs { s.vs with reqs := s.vs.reqs.map (fun r => if overrideDue rq word r then { r with ovr := true } else r) } s

/-- STARVATION_OVERRIDE (R52). -/
def execStarvationOverride (rq word : Nat) (s : State) : Host.Outcome State Fault Refusal :=
  onlyIf (s.vs.reqs.any (overrideDue rq word)) "no such request has waited 512 VCLK" (setOverride rq word s)

/-- WIPE_START (R63, R64). -/
def execWipeStart (s : State) : Host.Outcome State Fault Refusal :=
  onlyIf (vclkRuns s && s.vs.wipePending && !s.vs.wipeBusy && !s.wrap.hold) "no wipe can start"
    (setVs { s.vs with wipeBusy := true, wipeRow := 7680 } s)

/-- The end of a wipe (R63). -/
def wipeEnds (s : State) : State :=
  let s1 := setVs { s.vs with wipePending := false, wipeBusy := false, wipeRow := 7680 } s
  if s.rst.phase == .up then arrive srcVsWipedone s1 else s1

/-- WIPE_DONE (R63). -/
def execWipeDone (s : State) : Host.Outcome State Fault Refusal :=
  onlyIf (s.vs.wipePending && s.vs.wipeBusy && 8192 ≤ s.vs.wipeRow) "no wipe has passed its last row" (wipeEnds s)

/-! ## Chains -/

/-- CHAIN_PROGRAM_READ (R148). -/
def execChainProgramRead (c : CoreId) (rsp : List LineRsp) (s : State) : Host.Outcome State Fault Refusal :=
  match nextToRead c s with
  | none => .refused (.notNow "no chain at the head of the queue is unread")
  | some e =>
    if !vclkRuns s then .refused (.notNow "the engine reads no program now")
    else orRefuse "a line of the program has not come" (readProgram c e rsp s)

/-- CHAIN_CHECK (R88, R146, R147). -/
def execChainCheck (c : CoreId) (s : State) : Host.Outcome State Fault Refusal :=
  onlyIf (vclkRuns s && groupArrived c s) "no chain or group at the head is complete" (wakeRecords (checkHead c s))

/-- TRIGGER_CONSUME (R372). -/
def execTriggerConsume (c : CoreId) (entry : Fin 8) (s : State) : Host.Outcome State Fault Refusal :=
  onlyIf (upRuns s && vclkRuns s && canConsume c entry s) "no arrival can be consumed" (consumeTrigger c entry s)

/-- CHAIN_LAUNCH (R151, R152). -/
def execChainLaunch (s : State) : Host.Outcome State Fault Refusal :=
  if !vclkRuns s || launchHeld s || engFrozen s || launchedNow s then .refused (.notNow "launch is held")
  else orRefuse "no head can launch" ((nextLauncher s).map (fun c => launchGroup c s))

/-- CHAIN_TIME_TICK (R141). -/
def execChainTimeTick (slot : Fin 4) (s : State) : Host.Outcome State Fault Refusal :=
  match s.chain slot with
  | none => .refused (.notNow "no chain is in the launch slot")
  | some ch =>
    onlyIf (vclkRuns s && ch.lastTick != s.eng.time) "the chain has had its tick of this VCLK" (wakeRecords (tickGroup slot s))

/-- STREAM_LINE_RESPONSE (R178). -/
def execStreamLineResponse (slot : Fin 4) (line : BitVec 46) (code : RspCode) (data : Line) (s : State) : Host.Outcome State Fault Refusal :=
  owedFirst (.streamLine slot line.toNat) (fun s =>
    orRefuse "no chain in the slot awaits that line" ((s.chain slot).bind (fun ch =>
      (lineResponse slot ch line.toNat code (coherentLine s line.toNat code data) s).map wakeRecords))) s

/-- The value of the table entry that a stream walk reads, as the cores' caches leave it (R329). -/
def streamEntry (slot : Fin 4) (page : Nat) (code : RspCode) (entry : W64) (s : State) : W64 :=
  match s.eng.walks.find? (fun w => w.slot == slot && w.page == page) with
  | some w => if code == .okay then (coherentEntry s w.ea code entry).2 else entry
  | none => entry

/-- STREAM_WALK_RESPONSE (R169, R178). -/
def execStreamWalkResponse (slot : Fin 4) (page : BitVec 36) (code : RspCode) (entry : W64) (s : State) : Host.Outcome State Fault Refusal :=
  owedFirst (.streamWalk slot page.toNat) (fun s =>
    orRefuse "no walk of the slot reads for that page"
      ((walkResponse slot page.toNat code (streamEntry slot page.toNat code entry s) s).map wakeRecords)) s

/-- STREAM_WRITE_RESPONSE (R175, R181). -/
def execStreamWriteResponse (slot : Fin 4) (line : BitVec 46) (code : RspCode) (s : State) : Host.Outcome State Fault Refusal :=
  owedFirst (.streamWrite slot line.toNat) (fun s =>
    orRefuse "no chain in the slot awaits that write" ((s.chain slot).bind (fun ch =>
      (writeResponse slot ch line.toNat code s).map wakeRecords))) s

/-- CHAIN_COMPLETE (R154). -/
def execChainComplete (slot : Fin 4) (s : State) : Host.Outcome State Fault Refusal :=
  match s.chain slot with
  | none => .refused (.notNow "no chain is in the launch slot")
  | some ch =>
    onlyIf (vclkRuns s && ch.status == .running && chainComplete s slot ch) "the chain is not complete"
      (wakeRecords (finishChain slot stDone 0 0 s))

/-- CHAIN_RESUME (R183): a write of ENGFLTn.CTL with RESUME. -/
def execChainResume (who : Requester) (slot : Fin 4) (s : State) : Host.Outcome State Fault Refusal :=
  regCmd who (0x40100 + 0x40 * slot.val) 2 s

/-- CHAIN_CANCEL (R184): a write of ENGFLTn.CTL with CANCEL, and RESUME too where `resume` holds. -/
def execChainCancel (who : Requester) (slot : Fin 4) (resume : Bool) (s : State) : Host.Outcome State Fault Refusal :=
  regCmd who (0x40100 + 0x40 * slot.val) (4 + 2 * b2n resume) s

/-- A due journal record leaves as one line write (R189), coherent with the cores' caches. -/
def journalIssue (slot : Fin 4) (s : State) : Option State :=
  (slotJournal slot (fun j => j.waiting.isSome && j.outstanding.isNone) s).bind (fun x =>
    (Journal.issue x.2).map (fun j => putJournal slot x.1 x.2 j (coherentWrite (jrecAddr j j.seq / 64) s)))

/-- JOURNAL_RECORD_ISSUE (R17, R189). -/
def execJournalRecordIssue (slot : Fin 4) (s : State) : Host.Outcome State Fault Refusal :=
  if !(vclkRuns s && chainOut s) then .refused (.notNow "outbound writes do not leave now")
  else orRefuse "no record can be issued" (journalIssue slot s)

/-- A failed journal write: journalling ends, ENG_JERR arrives, and the address is logged (R190). -/
def journalError (j : Journal) (code : RspCode) (s : State) : State :=
  logRecord 0x03 unitEngine (BitVec.ofNat 52 (jrecAddr j j.seq)) (BitVec.ofNat 64 (codeNum code)) false (arrive srcEngJerr s)

/-- The response to a journal write (R190). -/
def journalAnswer (slot : Fin 4) (code : RspCode) (s : State) : Option State :=
  (slotJournal slot (fun j => j.outstanding.isSome) s).map (fun x =>
    let s1 := putJournal slot x.1 x.2 (x.2.answer code) s
    if code == .okay then s1 else journalError x.2 code s1)

/-- JOURNAL_WRITE_RESPONSE (R190). -/
def execJournalWriteResponse (slot : Fin 4) (code : RspCode) (s : State) : Host.Outcome State Fault Refusal :=
  owedFirst (.journal slot) (fun s => orRefuse "no journal write of the slot is outstanding" (journalAnswer slot code s)) s

/-- ENGDET_TAKE_EFFECT (R167). -/
def execEngdetTakeEffect (s : State) : Host.Outcome State Fault Refusal :=
  onlyIf (vclkRuns s && s.eng.det != s.eng.detAct && (flying s).isEmpty) "no change of DET can take effect"
    (setEng { s.eng with detAct := s.eng.det } s)

end Sys2Proof.Machine
end

