-- ==== Sys2Proof/Machine/ExecLong.lean ====
section
/-! DEFINITION. The commands of long parcels, one for each MAJOR code (R207, R233): the parcel with that code and the given field executes
at the core's pc. What a long operation does is in Machine/CoreRun.lean, Machine/Long.lean and Machine/Block.lean. -/

namespace Sys2Proof.Machine

/-- VISSUE (R247). -/
def execVissue (p : PCtx) (field : BitVec 10) (s : State) : Host.Outcome State Fault Refusal :=
  longCmd p 0x20 field nopParcel s

/-- VWAIT (R249). -/
def execVwait (p : PCtx) (field : BitVec 10) (s : State) : Host.Outcome State Fault Refusal :=
  longCmd p 0x21 field nopParcel s

/-- LIT (R216). -/
def execLit (p : PCtx) (field : BitVec 10) (s : State) : Host.Outcome State Fault Refusal :=
  longCmd p 0x01 field nopParcel s

/-- LITX (R216). -/
def execLitx (p : PCtx) (field : BitVec 10) (s : State) : Host.Outcome State Fault Refusal :=
  longCmd p 0x02 field nopParcel s

/-- ADDI (R233). -/
def execAddi (p : PCtx) (field : BitVec 10) (s : State) : Host.Outcome State Fault Refusal :=
  longCmd p 0x03 field nopParcel s

/-- CWR (R199). -/
def execCwr (p : PCtx) (field : BitVec 10) (s : State) : Host.Outcome State Fault Refusal :=
  longCmd p 0x04 field nopParcel s

/-- CWW (R199). -/
def execCww (p : PCtx) (field : BitVec 10) (s : State) : Host.Outcome State Fault Refusal :=
  longCmd p 0x05 field nopParcel s

/-- BR (R235). -/
def execBr (p : PCtx) (field : BitVec 10) (nxt : BitVec 20) (s : State) : Host.Outcome State Fault Refusal :=
  longCmd p 0x08 field nxt s

/-- CALL (R235). -/
def execCall (p : PCtx) (field : BitVec 10) (nxt : BitVec 20) (s : State) : Host.Outcome State Fault Refusal :=
  longCmd p 0x09 field nxt s

/-- SVC (R353). -/
def execSvc (p : PCtx) (field : BitVec 10) (s : State) : Host.Outcome State Fault Refusal :=
  longCmd p 0x0C field nopParcel s

/-- LD (R233). -/
def execLd (p : PCtx) (field : BitVec 10) (s : State) : Host.Outcome State Fault Refusal :=
  longCmd p 0x10 field nopParcel s

/-- ST (R233). -/
def execSt (p : PCtx) (field : BitVec 10) (s : State) : Host.Outcome State Fault Refusal :=
  longCmd p 0x11 field nopParcel s

/-- LDC (R234). -/
def execLdc (p : PCtx) (field : BitVec 10) (s : State) : Host.Outcome State Fault Refusal :=
  longCmd p 0x12 field nopParcel s

/-- STC (R234). -/
def execStc (p : PCtx) (field : BitVec 10) (s : State) : Host.Outcome State Fault Refusal :=
  longCmd p 0x13 field nopParcel s

/-- LOCK (R238). -/
def execLock (p : PCtx) (field : BitVec 10) (s : State) : Host.Outcome State Fault Refusal :=
  longCmd p 0x18 field nopParcel s

/-- UNLOCK (R239). -/
def execUnlock (p : PCtx) (field : BitVec 10) (s : State) : Host.Outcome State Fault Refusal :=
  longCmd p 0x19 field nopParcel s

/-- MOVB (R241). -/
def execMovb (p : PCtx) (field : BitVec 10) (s : State) : Host.Outcome State Fault Refusal :=
  longCmd p 0x1C field nopParcel s

/-- SAVEU (R244). -/
def execSaveu (p : PCtx) (field : BitVec 10) (s : State) : Host.Outcome State Fault Refusal :=
  longCmd p 0x24 field nopParcel s

/-- SAVEL (R244). -/
def execSavel (p : PCtx) (field : BitVec 10) (s : State) : Host.Outcome State Fault Refusal :=
  longCmd p 0x25 field nopParcel s

/-- LOADU (R300). -/
def execLoadu (p : PCtx) (field : BitVec 10) (s : State) : Host.Outcome State Fault Refusal :=
  longCmd p 0x26 field nopParcel s

/-- LOADL (R300). -/
def execLoadl (p : PCtx) (field : BitVec 10) (s : State) : Host.Outcome State Fault Refusal :=
  longCmd p 0x27 field nopParcel s

/-- STM (R246). -/
def execStm (p : PCtx) (field : BitVec 10) (s : State) : Host.Outcome State Fault Refusal :=
  longCmd p 0x28 field nopParcel s

/-- LDM (R246). -/
def execLdm (p : PCtx) (field : BitVec 10) (s : State) : Host.Outcome State Fault Refusal :=
  longCmd p 0x29 field nopParcel s

/-- INVPG (R331). -/
def execInvpg (p : PCtx) (field : BitVec 10) (s : State) : Host.Outcome State Fault Refusal :=
  longCmd p 0x2C field nopParcel s

/-- INVALL (R331). -/
def execInvall (p : PCtx) (field : BitVec 10) (s : State) : Host.Outcome State Fault Refusal :=
  longCmd p 0x2D field nopParcel s

/-- INVWALK (R331). -/
def execInvwalk (p : PCtx) (field : BitVec 10) (s : State) : Host.Outcome State Fault Refusal :=
  longCmd p 0x2E field nopParcel s

/-- ERET (R347). -/
def execEret (p : PCtx) (field : BitVec 10) (nxt : BitVec 20) (s : State) : Host.Outcome State Fault Refusal :=
  longCmd p 0x30 field nxt s

/-- FRTN (R354). -/
def execFrtn (p : PCtx) (field : BitVec 10) (s : State) : Host.Outcome State Fault Refusal :=
  longCmd p 0x31 field nopParcel s

/-- ACK (R362). -/
def execAck (p : PCtx) (field : BitVec 10) (s : State) : Host.Outcome State Fault Refusal :=
  longCmd p 0x34 field nopParcel s

/-- EOS (R368). -/
def execEos (p : PCtx) (field : BitVec 10) (s : State) : Host.Outcome State Fault Refusal :=
  longCmd p 0x35 field nopParcel s

/-- WAIT (R369). -/
def execWait (p : PCtx) (field : BitVec 10) (s : State) : Host.Outcome State Fault Refusal :=
  longCmd p 0x38 field nopParcel s

/-- REP (R221). -/
def execRep (p : PCtx) (field : BitVec 10) (nxt : BitVec 20) (s : State) : Host.Outcome State Fault Refusal :=
  longCmd p 0x3C field nxt s

/-- A parcel that R208 or R209 reserves raises ILLEGAL, whatever its condition (R215); of the fields of `p` the parcel's own bits take the
place of `cond`. -/
def execReservedParcel (p : PCtx) (parcel : BitVec 20) (s : State) : Host.Outcome State Fault Refusal :=
  parcelCmd p parcel nopParcel s

end Sys2Proof.Machine
end

