-- ==== Sys2Proof/Machine/ExecPower.lean ====
section
/-! DEFINITION. The commands of power states and the hold-up flush, of the service panel, and of the watchdogs
(spec/18_power_states.md, spec/21_service_reliability.md). -/

namespace Sys2Proof.Machine

/-- The always-on region is out of reset. -/
def alwaysOn (s : State) : Bool := s.rst.phase != .aopor

/-! ## Power states (R484 to R492) -/

/-- PWRCTL_REQ (R486, R498): a write of PWRCTL. -/
def execPwrctlReq (who : Requester) (val : W64) (s : State) : Host.Outcome State Fault Refusal := writeCmd who 0x20048 0xFF val s

/-- POWER_TRANSITION_START (R486). -/
def execPowerTransitionStart (s : State) : Host.Outcome State Fault Refusal :=
  onlyIf (s.rst.phase == .up && s.pwr.asked && s.pwr.step == .idle && s.pwr.flush.isNone && s.pwr.flushDue.isNone && entryReady s)
    "no power request can be served now" (startTransition s)

/-- The tile's part of an entry to DOZE includes the write-back of dirty lines, whose responses it awaits (R484, R486). -/
def partEnds (target : BitVec 3) (up : Bool) (s : State) : Bool := up || target != 3 || s.cores.all (fun k => k.wbs.isEmpty)

/-- POWER_TILE_PART_DONE (R486, R488): PWR.REQ changes on the way down, and the new state is in force on the way up. -/
def execPowerTilePartDone (s : State) : Host.Outcome State Fault Refusal :=
  match s.pwr.step with
  | .part target up => onlyIf (partEnds target up s) "dirty lines are still being written back"
      (if up then flushAfter (stateInForce target s) else driveReq target false s)
  | _ => .refused (.notNow "no tile part of a transition runs")

/-- PWR_ACK_TOGGLE (R488). -/
def execPwrAckToggle (s : State) : Host.Outcome State Fault Refusal :=
  match s.pwr.step with
  | .ack target up => .next (if up then setPwr { s.pwr with step := .part target true } s else flushAfter (stateInForce target s))
  | _ => .refused (.notNow "no toggle of PWR.ACK is awaited")

/-- The handshake has run past ACKTMO (R488, R498). -/
def ackOverdue (s : State) : Bool :=
  (match s.pwr.step with
    | .ack _ _ => true
    | _ => false) &&
  !s.pwr.told && Nat.max 1 s.pwr.acktmo.toNat * aoPerUs ≤ s.log.aotime.toNat - s.pwr.reqAt.toNat

def ackTimesOut (s : State) : State :=
  logRecord 0x09 unitSec 0 (s.pwr.out.zeroExtend 64) true (setPwr { s.pwr with ackerr := true, told := true } s)

/-- PWR_ACK_TIMEOUT (R488). -/
def execPwrAckTimeout (s : State) : Host.Outcome State Fault Refusal := onlyIf (ackOverdue s) "no toggle of PWR.ACK is overdue" (ackTimesOut s)

/-- PWR.GOOD has fallen (R490): logged, and the tile enters OFF at once; under a cold reset there is nothing left to enter. -/
def goodLost (s : State) : State :=
  let s1 := logRecord 0x0A unitSec 0 (s.pwr.out.zeroExtend 64) true (setPwr { s.pwr with goodlost := true } s)
  if s.rst.phase == .cold then s1 else enterOff s1

/-- PWR_GOOD_LOST (R490). -/
def execPwrGoodLost (s : State) : Host.Outcome State Fault Refusal :=
  onlyIf (alwaysOn s && s.pwr.out != 3 && s.pwr.out != 4) "PWR.GOOD may fall in this state" (goodLost s)

/-- NAP_WAKE (R487). -/
def execNapWake (s : State) : Host.Outcome State Fault Refusal :=
  onlyIf (s.pwr.state == 2 && wakeDue s) "nothing ends NAP" (wakeBoth s)

/-- DOZE_WAKE (R487). -/
def execDozeWake (s : State) : Host.Outcome State Fault Refusal :=
  onlyIf (s.pwr.state == 3 && wakeDue s) "nothing ends DOZE" (wakeBoth s)

/-- VBUS_SAMPLE (R493). -/
def execVbusSample (v : BitVec 12) (s : State) : Host.Outcome State Fault Refusal :=
  onlyIf (alwaysOn s && clockOn s .tmclk) "no sample is taken" (vbusSample v s)

/-- The flush whose budget has run out in step 3 (R494). -/
def budgetOver (s : State) : Option Flush :=
  s.pwr.flush.bind (fun f => if f.stage == .working && f.budget * aoPerUs ≤ s.log.aotime.toNat - f.start.toNat then some f else none)

/-- FLUSH_BUDGET_EXPIRY (R494 step 4). -/
def execFlushBudgetExpiry (s : State) : Host.Outcome State Fault Refusal :=
  orRefuse "no flush has used up its budget" ((budgetOver s).map (fun f => flushStep4 false f s))

/-- PWRCTL with FLUSHDONE, its RW fields as they stand (R498). -/
def flushdoneValue (s : State) : Nat := s.pwr.req.toNat + 16 + 32 * b2n s.pwr.autooff + s.pwr.acktmo.toNat * 2 ^ 16

/-- FLUSHDONE (R494): a write of PWRCTL with FLUSHDONE. -/
def execFlushdone (who : Requester) (s : State) : Host.Outcome State Fault Refusal := regCmd who 0x20048 (flushdoneValue s) s

/-- FLUSH_DRAIN_DONE (R494 step 5). -/
def execFlushDrainDone (s : State) : Host.Outcome State Fault Refusal :=
  match s.pwr.flush with
  | some f => (match f.stage with
    | .draining done => onlyIf (!responsesDue s) "responses are outstanding" (flushEnd done f s)
    | .working => .refused (.notNow "firmware still works within the budget"))
  | none => .refused (.notNow "no flush runs")

/-! ## Service panel (R543 to R550) -/

/-- PANEL_PRESS (R546): an accepted change of PNL.ATTN from 0 to 1. -/
def execPanelPress (s : State) : Host.Outcome State Fault Refusal :=
  onlyIf (alwaysOn s && !s.panel.attn) "the attention button is pressed already" (press (setPanel { s.panel with attn := true } s))

/-- ATTN_RELEASE (R543). -/
def execAttnRelease (s : State) : Host.Outcome State Fault Refusal :=
  onlyIf (alwaysOn s && s.panel.attn) "the attention button is not pressed" (setPanel { s.panel with attn := false } s)

/-- PNLCTL_EVAC (R546, R554): a write of PNLCTL with EVAC. -/
def execPnlctlEvac (who : Requester) (val : W64) (s : State) : Host.Outcome State Fault Refusal := writeCmd who 0xA0010 0xFF val s

/-- PNLCTL_CANCEL (R547, R554): a write of PNLCTL with CANCEL. -/
def execPnlctlCancel (who : Requester) (val : W64) (s : State) : Host.Outcome State Fault Refusal := writeCmd who 0xA0010 0xFF val s

/-- EVAC_SAFE (R547). -/
def execEvacSafe (s : State) : Host.Outcome State Fault Refusal := orRefuse "the evacuation cannot go on now" (evacStep s)

/-- EVAC_TIMEOUT (R548). -/
def execEvacTimeout (s : State) : Host.Outcome State Fault Refusal := onlyIf (evacTimeoutDue s) "no evacuation is overdue" (evacTimeout s)

/-- PRESENCE_LOSS (R549). -/
def execPresenceLoss (s : State) : Host.Outcome State Fault Refusal :=
  onlyIf (alwaysOn s && s.panel.pres) "the sled is not seated" (presenceLost s)

/-- PRESENCE_GAIN (R549). -/
def execPresenceGain (s : State) : Host.Outcome State Fault Refusal :=
  onlyIf (alwaysOn s && !s.panel.pres) "the sled is seated" (presenceGained s)

/-- TAMPER_TRIP (R550). -/
def execTamperTrip (s : State) : Host.Outcome State Fault Refusal :=
  onlyIf (alwaysOn s && !s.panel.tamper) "the chassis is open already" (tamperTrip s)

/-- TAMPER_CLOSE (R543, R550). -/
def execTamperClose (s : State) : Host.Outcome State Fault Refusal :=
  onlyIf (alwaysOn s && s.panel.tamper) "the chassis is not open" (setPanel { s.panel with tamper := false } s)

/-! ## Watchdogs (R551) -/

/-- WATCHDOG_WARNING (R551). -/
def execWatchdogWarning (wd : Watchdog) (s : State) : Host.Outcome State Fault Refusal :=
  match wd with
  | .core c => onlyIf ((s.wds.get c).en && (s.wds.get c).warns) "the watchdog is not at its warning point" (coreWdWarn c s)
  | .tile => onlyIf (s.twd.en && s.twd.warns) "the watchdog is not at its warning point" (tileWdWarn s)

/-- CORE_WATCHDOG_EXPIRY (R551). -/
def execCoreWatchdogExpiry (c : CoreId) (s : State) : Host.Outcome State Fault Refusal :=
  onlyIf ((s.wds.get c).en && (s.wds.get c).remain == 0) "the watchdog has time left" (coreWdExpire c s)

/-- TILE_WATCHDOG_EXPIRY (R551). -/
def execTileWatchdogExpiry (s : State) : Host.Outcome State Fault Refusal :=
  onlyIf (s.twd.en && s.twd.remain == 0) "the watchdog has time left" (tileWdExpire s)

/-- The register of a watchdog (R554). -/
def watchdogOff (wd : Watchdog) : Nat :=
  match wd with
  | .core c => 0xA0040 + 8 * c.val
  | .tile => 0xA0060

/-- WATCHDOG_KICK (R551, R554): a write of WDCTL.c or TWDCTL with KICK. -/
def execWatchdogKick (who : Requester) (wd : Watchdog) (val : W64) (s : State) : Host.Outcome State Fault Refusal :=
  writeCmd who (watchdogOff wd) 0xFF val s

end Sys2Proof.Machine
end

