-- ==== Sys2Proof/Machine/ExecReset.lean ====
section
/-! DEFINITION. The commands of resets, clocks, calibration and the set-up window (spec/17_ports_clocks_reset.md,
spec/23_register_map.md). -/

namespace Sys2Proof.Machine

/-- COLD_RESET_RELEASE (R473): step 1 begins, or the tile stays in cold reset on PARAMERR (R7). -/
def execColdResetRelease (t : TieOffs) (s : State) : Host.Outcome State Fault Refusal :=
  onlyIf (s.rst.phase == .cold && !s.id.paramerr) "COLD_N is not asserted" (coldRelease t s)

/-- The accepted panel levels take the first sample (R543). -/
def firstPanelSample (pnl : PanelPins) (s : State) : State :=
  setPanel { s.panel with attn := pnl.attn, pres := pnl.pres, tamper := pnl.tamper } s

/-- AOPOR_RELEASE (R468): the always-on region is as after its reset, WIPE_PENDING is set, and a cold start follows. -/
def execAoporRelease (t : TieOffs) (pnl : PanelPins) (s : State) : Host.Outcome State Fault Refusal :=
  onlyIf (s.rst.phase == .aopor || (s.rst.phase == .cold && !s.id.paramerr)) "no always-on reset is asserted"
    (coldRelease t (firstPanelSample pnl (alwaysOnClear s)))

/-- STARTUP_STEP_DONE (R473). -/
def execStartupStepDone (s : State) : Host.Outcome State Fault Refusal :=
  match s.rst.phase with
  | .startup n => onlyIf (n ≤ 3) "the start-up of a decommissioned tile has ended (R504)" (stepDone n s)
  | _ => .refused (.notNow "no start-up runs")

/-- What a warm reset's source does (R467, R482, R516). -/
def execWarmReset (src : WarmSource) (s : State) : Host.Outcome State Fault Refusal :=
  match src with
  | .pin => onlyIf (s.rst.phase != .aopor) "AOPOR_N is asserted" (warmReset 3 true s)
  | .rstctl who => regCmd who 0x20000 (0x100 + s.rst.run.toNat * 16) s
  | .weado => onlyIf (s.rst.phase != .aopor) "AOPOR_N is asserted" (if effLevel s < 2 then deny s else warmReset 6 true s)

/-- The end of a warm reset (R475, R503, R508): the lifecycle state of the fuses is in force, a pending wipe runs, and the last boot
that passed is repeated. -/
def warmRelease (s : State) : State :=
  let s1 := { s with fuses := { s.fuses with now := s.fuses.lc }, rst := { s.rst with phase := .up } }
  bootAgain (if s1.vs.wipePending && clockOn s1 .vclk then wipeNow s1 else s1)

/-- WARM_RESET_RELEASE (R475). -/
def execWarmResetRelease (s : State) : Host.Outcome State Fault Refusal :=
  onlyIf (s.rst.phase == .warm) "no warm reset is asserted" (warmRelease s)

/-- CORE_RESET (R470): a write of RSTCTL with CORERST `mask` and RUN `run`. -/
def execCoreReset (who : Requester) (mask run : BitVec 4) (s : State) : Host.Outcome State Fault Refusal :=
  regCmd who 0x20000 (mask.toNat + run.toNat * 16) s

/-- DEBUG_RESET (R467, R468). -/
def execDebugReset (_src : DebugResetSource) (s : State) : Host.Outcome State Fault Refusal :=
  onlyIf (s.rst.phase != .aopor) "AOPOR_N is asserted" (debugReset s)

/-- CLOCK_LOST (R465). -/
def execClockLost (clk : Clock) (s : State) : Host.Outcome State Fault Refusal :=
  onlyIf (watched s clk && clockOn s clk) "the clock is not watched, or has stopped already" (clockLoss clk s)

/-- CLOCK_RETURN (R465, R483). -/
def execClockReturn (clk : Clock) (s : State) : Host.Outcome State Fault Refusal :=
  onlyIf (!clockOn s clk) "the clock has not stopped" (clockBack clk s)

/-- QUAL_PASS_START (R478). -/
def execQualPassStart (s : State) : Host.Outcome State Fault Refusal :=
  onlyIf (s.cal.wanted && !s.cal.running && upRuns s && vclkRuns s && (flying s).isEmpty) "no pass can start" (passStart s)

/-- QUAL_PASS_END (R478). -/
def execQualPassEnd (s : State) : Host.Outcome State Fault Refusal :=
  onlyIf (s.cal.running && vclkRuns s) "no pass runs" (passEnd s)

/-- CALCTL_REQUAL (R478, R482). -/
def execCalctlRequal (who : Requester) (margin : BitVec 7) (s : State) : Host.Outcome State Fault Refusal :=
  regCmd who 0x20040 (1 + margin.toNat * 2) s

/-- TEMP_SAMPLE (R479). -/
def execTempSample (temp : BitVec 12) (s : State) : Host.Outcome State Fault Refusal :=
  onlyIf (s.rst.phase != .aopor && s.rst.phase != .cold && s.rst.phase != .off && clockOn s .tmclk) "no sample is taken" (takeTemp temp s)

/-- LINK_MARGIN_LOW (R480). -/
def execLinkMarginLow (l : Link) (margin : BitVec 7) (s : State) : Host.Outcome State Fault Refusal :=
  onlyIf ((s.rst.phase == .up || s.rst.phase == .warm) && hubRuns s && linkThere s l && !retraining s.cal l && margin.toNat < s.cal.margin.toNat)
    "the link does not track a margin below the floor" (marginLow l s)

/-- LINK_RETRAIN_END (R480). -/
def execLinkRetrainEnd (l : Link) (s : State) : Host.Outcome State Fault Refusal :=
  onlyIf (retraining s.cal l) "the link does not retrain" (retrainEnd l s)

/-- DROOP_GUARD (R481): VCLK periods are lengthened while the supply is below the threshold, which changes no chain time (R162). -/
def execDroopGuard (below : Bool) (s : State) : Host.Outcome State Fault Refusal :=
  .next (setCal { s.cal with droop := below } s)

/-- SETUP_REGISTER_WRITE (R570 to R574). -/
def execSetupRegisterWrite (who : Requester) (off : BitVec 24) (be : BitVec 8) (val : W64) (s : State) : Host.Outcome State Fault Refusal :=
  writeCmd who off.toNat be val s

/-- A snoop-invalidate: the cores' copies, reservations and fills, the Watch Table, and the answer on SNPACK (R271, R240, R390, R459). -/
def snoopTile (line : BitVec 46) (tag : BitVec 10) (s : State) : State :=
  let s1 := snoopRings line.toNat (snoopCores line.toNat s)
  { s1 with ports := { s1.ports with snpack := s1.ports.snpack ++ [tag] } }

/-- SNOOP_INVALIDATE (R459, R489). -/
def execSnoopInvalidate (line : BitVec 46) (tag : BitVec 10) (s : State) : Host.Outcome State Fault Refusal :=
  onlyIf (s.rst.phase != .aopor && s.rst.phase != .off) "the tile does not serve snoops" (snoopTile line tag s)

/-- COLD_RESET_ASSERT (R467, R468, R483). -/
def execColdResetAssert (s : State) : Host.Outcome State Fault Refusal :=
  onlyIf (s.rst.phase != .aopor) "AOPOR_N is asserted" (coldAssert s)

/-- ALWAYS_ON_RESET_ASSERT (R467, R468). -/
def execAlwaysOnResetAssert (s : State) : Host.Outcome State Fault Refusal := .next (alwaysOnAssert s)

end Sys2Proof.Machine
end

