-- ==== Sys2Proof/Machine/ExecRings.lean ====
section
/-! DEFINITION. The commands of the ring engine and of the DMA channels (spec/14_rings_doorbells.md, spec/15_dma.md). -/

namespace Sys2Proof.Machine

/-- The hub's TCLK runs. -/
def tclkRuns (s : State) : Bool := upRuns s && clockOn s .tclk

/-! ## Rings (R388 to R403) -/

/-- WATCHCFG_EN (R402): a write of WATCHCFG that changes EN. -/
def execWatchcfgEn (who : Requester) (val : W64) (s : State) : Host.Outcome State Fault Refusal := writeCmd who 0x70000 0xFF val s

/-- ARMALL (R389, R402): a write of WATCHCFG with ARMALL. -/
def execArmall (who : Requester) (val : W64) (s : State) : Host.Outcome State Fault Refusal := writeCmd who 0x70000 0xFF val s

/-- WATCHARM_GO (R402). -/
def execWatcharmGo (who : Requester) (entry : BitVec 15) (s : State) : Host.Outcome State Fault Refusal :=
  regCmd who 0x70030 (entry.toNat + 2 ^ 15) s

/-- WATCH_READ_RESPONSE (R389 to R391, R396). -/
def execWatchReadResponse (entry : BitVec 15) (code : RspCode) (data : Line) (s : State) : Host.Outcome State Fault Refusal :=
  orRefuse "no read of that entry is outstanding" (watchResponse entry.toNat code data s)

/-- SUMMARY_ADD_RESPONSE (R392). -/
def execSummaryAddResponse (entry : BitVec 8) (code : RspCode) (s : State) : Host.Outcome State Fault Refusal :=
  orRefuse "no ADD of that entry is outstanding" (addResponse entry code s)

/-- GROUP_READ_RESPONSE (R392). -/
def execGroupReadResponse (entry : BitVec 8) (k : Fin 8) (code : RspCode) (_data : Line) (s : State) : Host.Outcome State Fault Refusal :=
  orRefuse "no group read of that entry is outstanding" (groupResponse entry k code s)

/-- POLL_READ (R396). -/
def execPollRead (s : State) : Host.Outcome State Fault Refusal :=
  onlyIf (tclkRuns s && ringsOn s && polling s) "the polling fallback does not run" (pollStep s)

/-- RINGNEXT_READ (R399). -/
def execRingnextRead (who : Requester) (s : State) : Host.Outcome State Fault Refusal := readCmd who 0x70020 s

/-- RINGSET_SET (R402). -/
def execRingsetSet (who : Requester) (ring : BitVec 20) (s : State) : Host.Outcome State Fault Refusal :=
  regCmd who 0x70028 (ring.toNat + 2 ^ 20) s

/-- RINGSET_GROUP (R402). -/
def execRingsetGroup (who : Requester) (ring : BitVec 20) (s : State) : Host.Outcome State Fault Refusal :=
  regCmd who 0x70028 (ring.toNat + 2 ^ 21) s

/-! ## DMA (R404 to R420) -/

/-- The offset of DMACTL.n. -/
def dmactlOff (ch : Fin 64) : Nat := 0x60000 + 0x40 * ch.val

/-- DMA_START (R419): a write of DMACTL.n with START. -/
def execDmaStart (who : Requester) (ch : Fin 64) (val : W64) (s : State) : Host.Outcome State Fault Refusal :=
  writeCmd who (dmactlOff ch) 0xFF val s

/-- DMA_RESTART (R417): a write of DMACTL.n with RESTART. -/
def execDmaRestart (who : Requester) (ch : Fin 64) (val : W64) (s : State) : Host.Outcome State Fault Refusal :=
  writeCmd who (dmactlOff ch) 0xFF val s

/-- DMA_CANCEL (R418): a write of DMACTL.n with CANCEL. -/
def execDmaCancel (who : Requester) (ch : Fin 64) (val : W64) (s : State) : Host.Outcome State Fault Refusal :=
  writeCmd who (dmactlOff ch) 0xFF val s

/-- DMA_REQUEST_GRANT (R413). -/
def execDmaRequestGrant (s : State) : Host.Outcome State Fault Refusal :=
  if !tclkRuns s || dmaFrozen s then .refused (.notNow "the DMA engine does not issue")
  else orRefuse "no channel has a request" ((dmaGrant s).map bootWatch)

/-- DMA_READ_RESPONSE (R411, R416). -/
def execDmaReadResponse (ch : Fin 64) (tag : Nat) (code : RspCode) (data : Line) (s : State) : Host.Outcome State Fault Refusal :=
  owedFirst (.dmaRead ch tag) (fun s =>
    orRefuse "no read of the channel has that tag" ((dmaReadResponse ch tag code data s).map bootWatch)) s

/-- DMA_WRITE_RESPONSE (R415, R416). -/
def execDmaWriteResponse (ch : Fin 64) (tag : Nat) (code : RspCode) (s : State) : Host.Outcome State Fault Refusal :=
  owedFirst (.dmaWrite ch tag) (fun s =>
    orRefuse "no write of the channel has that tag" ((dmaWriteResponse ch tag code s).map bootWatch)) s

end Sys2Proof.Machine
end

