-- ==== Sys2Proof/Machine/ExecSecurity.lean ====
section
/-! DEFINITION. The commands of lifecycle, secure boot and debug authentication (spec/19_security_lifecycle.md). -/

namespace Sys2Proof.Machine

/-- LCCMD_TRANSITION (R501, R503, R517). -/
def execLccmdTransition (who : Requester) (target : BitVec 3) (s : State) : Host.Outcome State Fault Refusal :=
  regCmd who 0x90008 (1 + target.toNat * 8 + 2 ^ 12) s

/-- LCCMD_RAISESVN (R505, R517). -/
def execLccmdRaisesvn (who : Requester) (svn : BitVec 6) (s : State) : Host.Outcome State Fault Refusal :=
  regCmd who 0x90008 (2 + svn.toNat * 64 + 2 ^ 12) s

/-- LCCMD_WIPE (R515, R517). -/
def execLccmdWipe (who : Requester) (s : State) : Host.Outcome State Fault Refusal := regCmd who 0x90008 (3 + 2 ^ 12) s

/-- KEYCMD_PROGRAM (R505, R517). -/
def execKeycmdProgram (who : Requester) (slot : BitVec 2) (use : BitVec 3) (s : State) : Host.Outcome State Fault Refusal :=
  regCmd who 0x90270 (slot.toNat + use.toNat * 4 + 32 + 128) s

/-- KEYCMD_REVOKE (R505, R517). -/
def execKeycmdRevoke (who : Requester) (slot : BitVec 2) (s : State) : Host.Outcome State Fault Refusal :=
  regCmd who 0x90270 (slot.toNat + 64 + 128) s

/-- FUSE_COMMAND_DONE (R503, R505). -/
def execFuseCommandDone (s : State) : Host.Outcome State Fault Refusal :=
  orRefuse "no fuse command runs" (s.fuses.op.map (fun op => fuseDone op s))

/-- BOOTCTL_GO (R507, R517). -/
def execBootctlGo (who : Requester) (port : Bool) (addr : BitVec 45) (s : State) : Host.Outcome State Fault Refusal :=
  regCmd who 0x90010 (1 + 2 * b2n port + addr.toNat * 2 ^ 7) s

/-- BOOT_HEADER_RESPONSE (R507 steps 2 to 4): the four lines of the header, or a failed read. Channel 63 is free by then. -/
def execBootHeaderResponse (code : RspCode) (l0 l1 l2 l3 : Line) (s : State) : Host.Outcome State Fault Refusal :=
  onlyIf (s.boot.step == .header && upRuns s && (s.chan 63).st != .running) "no boot reads its header"
    (bootHeader code (lineToBytes l0 ++ lineToBytes l1 ++ lineToBytes l2 ++ lineToBytes l3) s)

/-- BOOT_COPY_DONE (R507 steps 4 and 5). -/
def execBootCopyDone (s : State) : Host.Outcome State Fault Refusal :=
  onlyIf (s.boot.step == .copy && (s.chan 63).st == .done) "channel 63 has not ended a copy"
    (setBoot { s.boot with state := 2, step := .verify } s)

/-- BOOT_VERIFY_DONE (R507 steps 5 and 6). -/
def execBootVerifyDone (s : State) : Host.Outcome State Fault Refusal :=
  onlyIf (s.boot.step == .verify) "no signature is checked" (bootVerified s)

/-- DBGAUTH_GO (R511, R517). -/
def execDbgauthGo (who : Requester) (req : BitVec 2) (s : State) : Host.Outcome State Fault Refusal :=
  regCmd who 0x90020 (req.toNat + 4) s

/-- DEBUG_VERIFY_DONE (R511, R512, R518). -/
def execDebugVerifyDone (s : State) : Host.Outcome State Fault Refusal :=
  orRefuse "no verification runs" (s.auth.run.map (fun r => authDone r s))

end Sys2Proof.Machine
end

