-- ==== Sys2Proof/Machine/ExecShort.lean ====
section
/-! DEFINITION. The commands of paired parcels, one for each short operation in the first half (R207, R250 to R256): the parcel with that
code in SA and the given code in SB executes at the core's pc. What a pair does is in Machine/CoreRun.lean and Machine/Short.lean. -/

namespace Sys2Proof.Machine

/-- NOP (R251). -/
def execNop (p : PCtx) (sb : BitVec 8) (nxt : BitVec 20) (s : State) : Host.Outcome State Fault Refusal :=
  pairCmd p 0x00 sb nxt s

/-- DUP (R251). -/
def execDup (p : PCtx) (sb : BitVec 8) (s : State) : Host.Outcome State Fault Refusal :=
  pairCmd p 0x01 sb nopParcel s

/-- DROP (R251). -/
def execDrop (p : PCtx) (sb : BitVec 8) (s : State) : Host.Outcome State Fault Refusal :=
  pairCmd p 0x02 sb nopParcel s

/-- SWAP (R251). -/
def execSwap (p : PCtx) (sb : BitVec 8) (s : State) : Host.Outcome State Fault Refusal :=
  pairCmd p 0x03 sb nopParcel s

/-- OVER (R251). -/
def execOver (p : PCtx) (sb : BitVec 8) (s : State) : Host.Outcome State Fault Refusal :=
  pairCmd p 0x04 sb nopParcel s

/-- ROT (R251). -/
def execRot (p : PCtx) (sb : BitVec 8) (s : State) : Host.Outcome State Fault Refusal :=
  pairCmd p 0x05 sb nopParcel s

/-- NIP (R251). -/
def execNip (p : PCtx) (sb : BitVec 8) (s : State) : Host.Outcome State Fault Refusal :=
  pairCmd p 0x06 sb nopParcel s

/-- TUCK (R251). -/
def execTuck (p : PCtx) (sb : BitVec 8) (s : State) : Host.Outcome State Fault Refusal :=
  pairCmd p 0x07 sb nopParcel s

/-- PICK (R251). -/
def execPick (p : PCtx) (sb : BitVec 8) (s : State) : Host.Outcome State Fault Refusal :=
  pairCmd p 0x08 sb nopParcel s

/-- TWO_DUP (R251). -/
def execTwoDup (p : PCtx) (sb : BitVec 8) (s : State) : Host.Outcome State Fault Refusal :=
  pairCmd p 0x09 sb nopParcel s

/-- TWO_DROP (R251). -/
def execTwoDrop (p : PCtx) (sb : BitVec 8) (s : State) : Host.Outcome State Fault Refusal :=
  pairCmd p 0x0A sb nopParcel s

/-- PUSH0 (R251). -/
def execPush0 (p : PCtx) (sb : BitVec 8) (s : State) : Host.Outcome State Fault Refusal :=
  pairCmd p 0x0B sb nopParcel s

/-- PUSH1 (R251). -/
def execPush1 (p : PCtx) (sb : BitVec 8) (s : State) : Host.Outcome State Fault Refusal :=
  pairCmd p 0x0C sb nopParcel s

/-- PUSHM1 (R251). -/
def execPushm1 (p : PCtx) (sb : BitVec 8) (s : State) : Host.Outcome State Fault Refusal :=
  pairCmd p 0x0D sb nopParcel s

/-- TOR (R251). -/
def execTor (p : PCtx) (sb : BitVec 8) (s : State) : Host.Outcome State Fault Refusal :=
  pairCmd p 0x0E sb nopParcel s

/-- FROMR (R251). -/
def execFromr (p : PCtx) (sb : BitVec 8) (s : State) : Host.Outcome State Fault Refusal :=
  pairCmd p 0x0F sb nopParcel s

/-- RFETCH (R251). -/
def execRfetch (p : PCtx) (sb : BitVec 8) (s : State) : Host.Outcome State Fault Refusal :=
  pairCmd p 0x10 sb nopParcel s

/-- RDROP (R251). -/
def execRdrop (p : PCtx) (sb : BitVec 8) (s : State) : Host.Outcome State Fault Refusal :=
  pairCmd p 0x11 sb nopParcel s

/-- DEPTH (R251). -/
def execDepth (p : PCtx) (sb : BitVec 8) (s : State) : Host.Outcome State Fault Refusal :=
  pairCmd p 0x12 sb nopParcel s

/-- ADD (R252). -/
def execAdd (p : PCtx) (sb : BitVec 8) (s : State) : Host.Outcome State Fault Refusal :=
  pairCmd p 0x20 sb nopParcel s

/-- SUB (R252). -/
def execSub (p : PCtx) (sb : BitVec 8) (s : State) : Host.Outcome State Fault Refusal :=
  pairCmd p 0x21 sb nopParcel s

/-- ADC (R252). -/
def execAdc (p : PCtx) (sb : BitVec 8) (s : State) : Host.Outcome State Fault Refusal :=
  pairCmd p 0x22 sb nopParcel s

/-- SBC (R252). -/
def execSbc (p : PCtx) (sb : BitVec 8) (s : State) : Host.Outcome State Fault Refusal :=
  pairCmd p 0x23 sb nopParcel s

/-- NEG (R252). -/
def execNeg (p : PCtx) (sb : BitVec 8) (s : State) : Host.Outcome State Fault Refusal :=
  pairCmd p 0x24 sb nopParcel s

/-- INC (R252). -/
def execInc (p : PCtx) (sb : BitVec 8) (s : State) : Host.Outcome State Fault Refusal :=
  pairCmd p 0x25 sb nopParcel s

/-- DEC (R252). -/
def execDec (p : PCtx) (sb : BitVec 8) (s : State) : Host.Outcome State Fault Refusal :=
  pairCmd p 0x26 sb nopParcel s

/-- MUL (R252). -/
def execMul (p : PCtx) (sb : BitVec 8) (s : State) : Host.Outcome State Fault Refusal :=
  pairCmd p 0x27 sb nopParcel s

/-- MULHU (R252). -/
def execMulhu (p : PCtx) (sb : BitVec 8) (s : State) : Host.Outcome State Fault Refusal :=
  pairCmd p 0x28 sb nopParcel s

/-- MULHS (R252). -/
def execMulhs (p : PCtx) (sb : BitVec 8) (s : State) : Host.Outcome State Fault Refusal :=
  pairCmd p 0x29 sb nopParcel s

/-- DIVU (R252). -/
def execDivu (p : PCtx) (sb : BitVec 8) (s : State) : Host.Outcome State Fault Refusal :=
  pairCmd p 0x2A sb nopParcel s

/-- DIVS (R252). -/
def execDivs (p : PCtx) (sb : BitVec 8) (s : State) : Host.Outcome State Fault Refusal :=
  pairCmd p 0x2B sb nopParcel s

/-- MODU (R252). -/
def execModu (p : PCtx) (sb : BitVec 8) (s : State) : Host.Outcome State Fault Refusal :=
  pairCmd p 0x2C sb nopParcel s

/-- MODS (R252). -/
def execMods (p : PCtx) (sb : BitVec 8) (s : State) : Host.Outcome State Fault Refusal :=
  pairCmd p 0x2D sb nopParcel s

/-- MIN (R252). -/
def execMin (p : PCtx) (sb : BitVec 8) (s : State) : Host.Outcome State Fault Refusal :=
  pairCmd p 0x2E sb nopParcel s

/-- MAX (R252). -/
def execMax (p : PCtx) (sb : BitVec 8) (s : State) : Host.Outcome State Fault Refusal :=
  pairCmd p 0x2F sb nopParcel s

/-- MINU (R252). -/
def execMinu (p : PCtx) (sb : BitVec 8) (s : State) : Host.Outcome State Fault Refusal :=
  pairCmd p 0x30 sb nopParcel s

/-- MAXU (R252). -/
def execMaxu (p : PCtx) (sb : BitVec 8) (s : State) : Host.Outcome State Fault Refusal :=
  pairCmd p 0x31 sb nopParcel s

/-- ABS (R252). -/
def execAbs (p : PCtx) (sb : BitVec 8) (s : State) : Host.Outcome State Fault Refusal :=
  pairCmd p 0x32 sb nopParcel s

/-- AND (R253). -/
def execAnd (p : PCtx) (sb : BitVec 8) (s : State) : Host.Outcome State Fault Refusal :=
  pairCmd p 0x38 sb nopParcel s

/-- OR (R253). -/
def execOr (p : PCtx) (sb : BitVec 8) (s : State) : Host.Outcome State Fault Refusal :=
  pairCmd p 0x39 sb nopParcel s

/-- XOR (R253). -/
def execXor (p : PCtx) (sb : BitVec 8) (s : State) : Host.Outcome State Fault Refusal :=
  pairCmd p 0x3A sb nopParcel s

/-- ANDN (R253). -/
def execAndn (p : PCtx) (sb : BitVec 8) (s : State) : Host.Outcome State Fault Refusal :=
  pairCmd p 0x3B sb nopParcel s

/-- INVERT (R253). -/
def execInvert (p : PCtx) (sb : BitVec 8) (s : State) : Host.Outcome State Fault Refusal :=
  pairCmd p 0x3C sb nopParcel s

/-- SHL (R253). -/
def execShl (p : PCtx) (sb : BitVec 8) (s : State) : Host.Outcome State Fault Refusal :=
  pairCmd p 0x3D sb nopParcel s

/-- SHR (R253). -/
def execShr (p : PCtx) (sb : BitVec 8) (s : State) : Host.Outcome State Fault Refusal :=
  pairCmd p 0x3E sb nopParcel s

/-- SAR (R253). -/
def execSar (p : PCtx) (sb : BitVec 8) (s : State) : Host.Outcome State Fault Refusal :=
  pairCmd p 0x3F sb nopParcel s

/-- ROL (R253). -/
def execRol (p : PCtx) (sb : BitVec 8) (s : State) : Host.Outcome State Fault Refusal :=
  pairCmd p 0x40 sb nopParcel s

/-- ROR (R253). -/
def execRor (p : PCtx) (sb : BitVec 8) (s : State) : Host.Outcome State Fault Refusal :=
  pairCmd p 0x41 sb nopParcel s

/-- POPC (R253). -/
def execPopc (p : PCtx) (sb : BitVec 8) (s : State) : Host.Outcome State Fault Refusal :=
  pairCmd p 0x42 sb nopParcel s

/-- CLZ (R253). -/
def execClz (p : PCtx) (sb : BitVec 8) (s : State) : Host.Outcome State Fault Refusal :=
  pairCmd p 0x43 sb nopParcel s

/-- CTZ (R253). -/
def execCtz (p : PCtx) (sb : BitVec 8) (s : State) : Host.Outcome State Fault Refusal :=
  pairCmd p 0x44 sb nopParcel s

/-- BSWAP (R253). -/
def execBswap (p : PCtx) (sb : BitVec 8) (s : State) : Host.Outcome State Fault Refusal :=
  pairCmd p 0x45 sb nopParcel s

/-- SEXT32 (R253). -/
def execSext32 (p : PCtx) (sb : BitVec 8) (s : State) : Host.Outcome State Fault Refusal :=
  pairCmd p 0x46 sb nopParcel s

/-- ZEXT32 (R253). -/
def execZext32 (p : PCtx) (sb : BitVec 8) (s : State) : Host.Outcome State Fault Refusal :=
  pairCmd p 0x47 sb nopParcel s

/-- CEQ (R254). -/
def execCeq (p : PCtx) (sb : BitVec 8) (s : State) : Host.Outcome State Fault Refusal :=
  pairCmd p 0x50 sb nopParcel s

/-- CNE (R254). -/
def execCne (p : PCtx) (sb : BitVec 8) (s : State) : Host.Outcome State Fault Refusal :=
  pairCmd p 0x51 sb nopParcel s

/-- CLT (R254). -/
def execClt (p : PCtx) (sb : BitVec 8) (s : State) : Host.Outcome State Fault Refusal :=
  pairCmd p 0x52 sb nopParcel s

/-- CLE (R254). -/
def execCle (p : PCtx) (sb : BitVec 8) (s : State) : Host.Outcome State Fault Refusal :=
  pairCmd p 0x53 sb nopParcel s

/-- CGT (R254). -/
def execCgt (p : PCtx) (sb : BitVec 8) (s : State) : Host.Outcome State Fault Refusal :=
  pairCmd p 0x54 sb nopParcel s

/-- CGE (R254). -/
def execCge (p : PCtx) (sb : BitVec 8) (s : State) : Host.Outcome State Fault Refusal :=
  pairCmd p 0x55 sb nopParcel s

/-- CLTU (R254). -/
def execCltu (p : PCtx) (sb : BitVec 8) (s : State) : Host.Outcome State Fault Refusal :=
  pairCmd p 0x56 sb nopParcel s

/-- CLEU (R254). -/
def execCleu (p : PCtx) (sb : BitVec 8) (s : State) : Host.Outcome State Fault Refusal :=
  pairCmd p 0x57 sb nopParcel s

/-- CGTU (R254). -/
def execCgtu (p : PCtx) (sb : BitVec 8) (s : State) : Host.Outcome State Fault Refusal :=
  pairCmd p 0x58 sb nopParcel s

/-- CGEU (R254). -/
def execCgeu (p : PCtx) (sb : BitVec 8) (s : State) : Host.Outcome State Fault Refusal :=
  pairCmd p 0x59 sb nopParcel s

/-- TST (R254). -/
def execTst (p : PCtx) (sb : BitVec 8) (s : State) : Host.Outcome State Fault Refusal :=
  pairCmd p 0x5A sb nopParcel s

/-- TSTK (R254). -/
def execTstk (p : PCtx) (sb : BitVec 8) (s : State) : Host.Outcome State Fault Refusal :=
  pairCmd p 0x5B sb nopParcel s

/-- PUSHT (R254). -/
def execPusht (p : PCtx) (sb : BitVec 8) (s : State) : Host.Outcome State Fault Refusal :=
  pairCmd p 0x5C sb nopParcel s

/-- SETT (R254). -/
def execSett (p : PCtx) (sb : BitVec 8) (s : State) : Host.Outcome State Fault Refusal :=
  pairCmd p 0x5D sb nopParcel s

/-- CLRT (R254). -/
def execClrt (p : PCtx) (sb : BitVec 8) (s : State) : Host.Outcome State Fault Refusal :=
  pairCmd p 0x5E sb nopParcel s

/-- NOTT (R254). -/
def execNott (p : PCtx) (sb : BitVec 8) (s : State) : Host.Outcome State Fault Refusal :=
  pairCmd p 0x5F sb nopParcel s

/-- SEL (R254). -/
def execSel (p : PCtx) (sb : BitVec 8) (s : State) : Host.Outcome State Fault Refusal :=
  pairCmd p 0x60 sb nopParcel s

/-- LD64 (R255). -/
def execLd64 (p : PCtx) (sb : BitVec 8) (s : State) : Host.Outcome State Fault Refusal :=
  pairCmd p 0x70 sb nopParcel s

/-- ST64 (R255). -/
def execSt64 (p : PCtx) (sb : BitVec 8) (s : State) : Host.Outcome State Fault Refusal :=
  pairCmd p 0x71 sb nopParcel s

/-- LD32U (R255). -/
def execLd32u (p : PCtx) (sb : BitVec 8) (s : State) : Host.Outcome State Fault Refusal :=
  pairCmd p 0x72 sb nopParcel s

/-- LD32S (R255). -/
def execLd32s (p : PCtx) (sb : BitVec 8) (s : State) : Host.Outcome State Fault Refusal :=
  pairCmd p 0x73 sb nopParcel s

/-- LD16U (R255). -/
def execLd16u (p : PCtx) (sb : BitVec 8) (s : State) : Host.Outcome State Fault Refusal :=
  pairCmd p 0x74 sb nopParcel s

/-- LD16S (R255). -/
def execLd16s (p : PCtx) (sb : BitVec 8) (s : State) : Host.Outcome State Fault Refusal :=
  pairCmd p 0x75 sb nopParcel s

/-- LD8U (R255). -/
def execLd8u (p : PCtx) (sb : BitVec 8) (s : State) : Host.Outcome State Fault Refusal :=
  pairCmd p 0x76 sb nopParcel s

/-- LD8S (R255). -/
def execLd8s (p : PCtx) (sb : BitVec 8) (s : State) : Host.Outcome State Fault Refusal :=
  pairCmd p 0x77 sb nopParcel s

/-- ST32 (R255). -/
def execSt32 (p : PCtx) (sb : BitVec 8) (s : State) : Host.Outcome State Fault Refusal :=
  pairCmd p 0x78 sb nopParcel s

/-- ST16 (R255). -/
def execSt16 (p : PCtx) (sb : BitVec 8) (s : State) : Host.Outcome State Fault Refusal :=
  pairCmd p 0x79 sb nopParcel s

/-- ST8 (R255). -/
def execSt8 (p : PCtx) (sb : BitVec 8) (s : State) : Host.Outcome State Fault Refusal :=
  pairCmd p 0x7A sb nopParcel s

/-- LD64P (R255). -/
def execLd64p (p : PCtx) (sb : BitVec 8) (s : State) : Host.Outcome State Fault Refusal :=
  pairCmd p 0x7B sb nopParcel s

/-- ST64P (R255). -/
def execSt64p (p : PCtx) (sb : BitVec 8) (s : State) : Host.Outcome State Fault Refusal :=
  pairCmd p 0x7C sb nopParcel s

/-- BRX (R235). -/
def execBrx (p : PCtx) (sb : BitVec 8) (nxt : BitVec 20) (s : State) : Host.Outcome State Fault Refusal :=
  pairCmd p 0x80 sb nxt s

/-- CALLX (R235). -/
def execCallx (p : PCtx) (sb : BitVec 8) (nxt : BitVec 20) (s : State) : Host.Outcome State Fault Refusal :=
  pairCmd p 0x81 sb nxt s

/-- RET (R235). -/
def execRet (p : PCtx) (sb : BitVec 8) (nxt : BitVec 20) (s : State) : Host.Outcome State Fault Refusal :=
  pairCmd p 0x82 sb nxt s

/-- SYNC (R278). -/
def execSync (p : PCtx) (sb : BitVec 8) (s : State) : Host.Outcome State Fault Refusal :=
  pairCmd p 0x83 sb nopParcel s

/-- FENCE (R256). -/
def execFence (p : PCtx) (sb : BitVec 8) (s : State) : Host.Outcome State Fault Refusal :=
  pairCmd p 0x84 sb nopParcel s

/-- BRK (R256). -/
def execBrk (p : PCtx) (sb : BitVec 8) (s : State) : Host.Outcome State Fault Refusal :=
  pairCmd p 0x85 sb nopParcel s

end Sys2Proof.Machine
end

