-- ==== Sys2Proof/Machine/ExecTroupe.lean ====
section
/-! DEFINITION. The commands of roles, leases, the string link and macaron pairs (spec/01_tile_and_troupe.md,
spec/16_troupe_macaron.md). -/

namespace Sys2Proof.Machine

/-! ## Role requests (R18 to R23, R436) -/

/-- REQROLE_MANAGER (R436): a write of TILEROLE with REQROLE = 0b001. -/
def execReqroleManager (who : Requester) (s : State) : Host.Outcome State Fault Refusal := regCmd who 0x10000 0x1000 s

/-- REQROLE_SPARE (R19). -/
def execReqroleSpare (who : Requester) (s : State) : Host.Outcome State Fault Refusal := regCmd who 0x10000 0x2000 s

/-- REQROLE_FENCED (R19). -/
def execReqroleFenced (who : Requester) (s : State) : Host.Outcome State Fault Refusal := regCmd who 0x10000 0x3000 s

/-- ROLE_RESET_DONE (R471). -/
def execRoleResetDone (s : State) : Host.Outcome State Fault Refusal :=
  onlyIf (s.role.resetting && s.role.role == .fenced && upRuns s && !anyChain s && !responsesDue s && partAllowed s)
    "no role reset can complete" (partDone roleReset s)

/-! ## Timers of the hub -/

/-- The hub's timers run: it is out of reset and SLCLK has its edges. -/
def hubTimes (s : State) : Bool := hubListens s

/-- LEASE_EXPIRY (R426). -/
def execLeaseExpiry (s : State) : Host.Outcome State Fault Refusal :=
  onlyIf (hubTimes s && (s.role.role == .worker || s.role.role == .deputy) && leaseOver s) "no lease end has passed" (enterFenced 1 true s)

/-- HEARTBEAT_ROUND (R425, R529). -/
def execHeartbeatRound (s : State) : Host.Outcome State Fault Refusal :=
  onlyIf (hubTimes s && s.role.role == .manager && !hbFrozen s && s.troupe.nextRound ≤ s.troupe.now) "no round is due" (startRound s)

/-- DEPHB: the latest round received, echoed to the manager (R437). -/
def sendDephb (s : State) : State :=
  sendMsg (hubMsg s 0x03 s.troupe.mnode 0 s.troupe.mepoch s.troupe.depRound 0 0 0 0)
    (withTroupe (fun t => { t with nextRound := t.now + 8000 }) s)

/-- DEPHB_TIMER (R437). -/
def execDephbTimer (s : State) : Host.Outcome State Fault Refusal :=
  onlyIf (hubTimes s && s.role.role == .deputy && s.troupe.nextRound ≤ s.troupe.now) "no DEPHB is due" (sendDephb s)

/-- SLOT_DEAD (R428, R529). -/
def execSlotDead (slot : BitVec 7) (s : State) : Host.Outcome State Fault Refusal :=
  onlyIf (hubTimes s && slotSilent slot s) "the slot is not silent for 96 µs" (slotDies slot s)

/-- ADMIT_TIMEOUT (R433 step 4). -/
def execAdmitTimeout (s : State) : Host.Outcome State Fault Refusal :=
  match s.troupe.busy with
  | .admission slot till => onlyIf (hubTimes s && till ≤ s.troupe.now) "the admission has time left" (admitTimedOut slot s)
  | _ => .refused (.notNow "no admission is pending")

/-- APPOINT_TIMEOUT (R437). -/
def execAppointTimeout (s : State) : Host.Outcome State Fault Refusal :=
  match s.troupe.busy with
  | .appoint _ till => onlyIf (hubTimes s && till ≤ s.troupe.now) "the appointment has time left" (setBusy .no 3 s)
  | _ => .refused (.notNow "no appointment is pending")

/-- RELEASE_DRAIN_DONE (R434). -/
def execReleaseDrainDone (s : State) : Host.Outcome State Fault Refusal :=
  onlyIf (hubTimes s && s.troupe.releasing && s.role.role == .worker && releaseDrained s && partAllowed s) "no drain has ended"
    (partDone releaseDone s)

/-- GRPMIRROR_TIMEOUT (R441). -/
def execGrpmirrorTimeout (s : State) : Host.Outcome State Fault Refusal :=
  if hubTimes s then
    orRefuse "no GRPACK is overdue" ((mirrorScan s (fun x => match x.step with
      | .mirror till => till ≤ s.troupe.now
      | _ => false)).map (fun x => scanAdd x s))
  else .refused (.notNow "the hub does not run")

/-- What the end of the 16 µs does (R433 step 4, R437). -/
def timeoutNow (s : State) : State :=
  match s.troupe.busy with
  | .admission slot _ => admitTimedOut slot s
  | _ => setBusy .no 3 s

/-! ## Messages (R22, R422 to R424, R430, R431) -/

/-- A message of one type arrives. -/
def messageCmd (type : BitVec 8) (m : Msg) (handle : State → State) (s : State) : Host.Outcome State Fault Refusal :=
  onlyIf (m.type == type) "the message is of another type" (receive m handle s)

/-- HEARTBEAT (R426, R449). -/
def execHeartbeat (m : Msg) (s : State) : Host.Outcome State Fault Refusal := messageCmd 0x01 m (onHeartbeat m) s
/-- HBACK (R428). -/
def execHback (m : Msg) (s : State) : Host.Outcome State Fault Refusal := messageCmd 0x02 m (onHback m) (deadFirst m.slot s)
/-- DEPHB (R438). -/
def execDephb (m : Msg) (s : State) : Host.Outcome State Fault Refusal := messageCmd 0x03 m (onDephb m) s
/-- PROBE (R423). -/
def execProbe (m : Msg) (s : State) : Host.Outcome State Fault Refusal := messageCmd 0x08 m (onProbe m) s
/-- PROBEREP (R430). -/
def execProberep (m : Msg) (s : State) : Host.Outcome State Fault Refusal := messageCmd 0x09 m (queueMsg m) s
/-- ADMIT (R433). -/
def execAdmit (m : Msg) (s : State) : Host.Outcome State Fault Refusal := messageCmd 0x0A m (onAdmit m) s
/-- ADMITACK (R433). -/
def execAdmitack (m : Msg) (s : State) : Host.Outcome State Fault Refusal := messageCmd 0x0B m (onAdmitack m) (lateFirst timeoutNow s)
/-- APPOINT (R437). -/
def execAppoint (m : Msg) (s : State) : Host.Outcome State Fault Refusal := messageCmd 0x0C m (onAppoint m) s
/-- APPOINTACK (R437). -/
def execAppointack (m : Msg) (s : State) : Host.Outcome State Fault Refusal := messageCmd 0x0D m (onAppointack m) (lateFirst timeoutNow s)
/-- RELEASE (R434). -/
def execRelease (m : Msg) (s : State) : Host.Outcome State Fault Refusal := messageCmd 0x0E m (onRelease m) s
/-- RELEASED (R434). -/
def execReleased (m : Msg) (s : State) : Host.Outcome State Fault Refusal := messageCmd 0x0F m (onReleased m) s
/-- FENCED (R431). -/
def execFenced (m : Msg) (s : State) : Host.Outcome State Fault Refusal := messageCmd 0x10 m (enterFenced 2 true) s
/-- ALERT (R435). -/
def execAlert (m : Msg) (s : State) : Host.Outcome State Fault Refusal := messageCmd 0x11 m (queueMsg m) s
/-- GRPMIRROR (R441). -/
def execGrpmirror (m : Msg) (s : State) : Host.Outcome State Fault Refusal := messageCmd 0x12 m (onGrpmirror m) s
/-- GRPACK (R441). -/
def execGrpack (m : Msg) (s : State) : Host.Outcome State Fault Refusal := messageCmd 0x13 m (onGrpack m) s

/-- FIRMWARE_MESSAGE (R442): cue traffic, types 0x20 to 0x2F, and notices, 0x30 to 0x3F. -/
def execFirmwareMessage (m : Msg) (s : State) : Host.Outcome State Fault Refusal :=
  onlyIf (0x20 ≤ m.type.toNat && m.type.toNat ≤ 0x3F) "the message is of another type" (receive m (queueMsg m) s)

/-- The types of R423. -/
def typeListed (t : Nat) : Bool := (1 ≤ t && t ≤ 3) || (8 ≤ t && t ≤ 0x13) || (0x20 ≤ t && t ≤ 0x3F)

/-- RESERVED_MESSAGE (R424): dropped and counted. -/
def execReservedMessage (m : Msg) (s : State) : Host.Outcome State Fault Refusal :=
  onlyIf (!typeListed m.type.toNat || m.dst != s.troupe.node) "the message is addressed to this node and its type is listed"
    (receive m (fun s => s) s)

/-! ## SLCMD, SLTXCTL and SLRXCTL (R442, R451) -/

/-- SLCMD with GO. -/
def slcmdValue (kind : Nat) (node : BitVec 8) (slot : BitVec 7) : Nat := node.toNat + slot.toNat * 2 ^ 8 + kind * 2 ^ 16 + 2 ^ 19

/-- SLCMD_PROBE. -/
def execSlcmdProbe (who : Requester) (node : BitVec 8) (slot : BitVec 7) (s : State) : Host.Outcome State Fault Refusal :=
  regCmd who 0x10018 (slcmdValue 1 node slot) s
/-- SLCMD_ADMIT (R433). -/
def execSlcmdAdmit (who : Requester) (node : BitVec 8) (slot : BitVec 7) (s : State) : Host.Outcome State Fault Refusal :=
  regCmd who 0x10018 (slcmdValue 2 node slot) s
/-- SLCMD_APPOINT (R437). -/
def execSlcmdAppoint (who : Requester) (node : BitVec 8) (slot : BitVec 7) (s : State) : Host.Outcome State Fault Refusal :=
  regCmd who 0x10018 (slcmdValue 3 node slot) s
/-- SLCMD_RELEASE (R434). -/
def execSlcmdRelease (who : Requester) (node : BitVec 8) (slot : BitVec 7) (s : State) : Host.Outcome State Fault Refusal :=
  regCmd who 0x10018 (slcmdValue 4 node slot) s
/-- SLCMD_FENCE (R437). -/
def execSlcmdFence (who : Requester) (node : BitVec 8) (slot : BitVec 7) (s : State) : Host.Outcome State Fault Refusal :=
  regCmd who 0x10018 (slcmdValue 5 node slot) s

/-- SLTX_SEND (R442). -/
def execSltxSend (who : Requester) (type : BitVec 8) (slot : BitVec 7) (toDep : Bool) (s : State) : Host.Outcome State Fault Refusal :=
  regCmd who 0xD0040 (type.toNat + slot.toNat * 2 ^ 8 + b2n toDep * 2 ^ 15 + 2 ^ 16) s

/-- SLRX_POP (R451). -/
def execSlrxPop (who : Requester) (clearOvf : Bool) (s : State) : Host.Outcome State Fault Refusal :=
  regCmd who 0xD00C0 (128 + 256 * b2n clearOvf) s

/-! ## Arbitration (R438, R439) -/

/-- MANAGER_CLAIM (R438). -/
def execManagerClaim (s : State) : Host.Outcome State Fault Refusal :=
  onlyIf (hubTimes s && managerMayClaim s) "the manager does not claim now" (managerClaims s)

/-- MANAGER_CLAIM_RESPONSE (R438). -/
def execManagerClaimResponse (code : RspCode) (old : W64) (s : State) : Host.Outcome State Fault Refusal :=
  owedFirst .claim (fun s =>
    onlyIf (s.role.role == .manager && s.troupe.claim == .out) "no claim of a manager is outstanding" (managerAnswered code old s)) s

/-- MANAGER_LEASE_EXPIRY (R438). -/
def execManagerLeaseExpiry (s : State) : Host.Outcome State Fault Refusal :=
  onlyIf (hubTimes s && s.role.role == .manager && !s.troupe.solo && leaseOver s) "no lease of a manager has run out" (enterFenced 1 true s)

/-- DEPUTY_CLAIM (R439). -/
def execDeputyClaim (s : State) : Host.Outcome State Fault Refusal :=
  onlyIf (hubTimes s && deputyMayClaim s) "the deputy does not claim now" (deputyClaims s)

/-- DEPUTY_CLAIM_RESPONSE (R439). -/
def execDeputyClaimResponse (code : RspCode) (old : W64) (s : State) : Host.Outcome State Fault Refusal :=
  owedFirst .claim (fun s =>
    onlyIf (s.role.role == .deputy && s.troupe.claim == .out) "no claim of a deputy is outstanding" (deputyAnswered code old s)) s

/-! ## Macaron pairs (R443 to R450, R472) -/

/-- PAIRCTL_FUSE (R444). -/
def execPairctlFuse (who : Requester) (s : State) : Host.Outcome State Fault Refusal := regCmd who 0xD0100 1 s

/-- FUSE_COMPLETE (R444). -/
def execFuseComplete (p : Partner) (s : State) : Host.Outcome State Fault Refusal :=
  onlyIf (s.pair.busy && upRuns s) "no fusing is under way" (fuseFinish p s)

/-- FUSE_TIMEOUT (R444). -/
def execFuseTimeout (s : State) : Host.Outcome State Fault Refusal :=
  onlyIf (s.pair.busy && upRuns s && s.pair.until_ ≤ s.troupe.now) "no wait for the partner has run out" (fuseFail 1 s)

/-- PAIRCTL_UNFUSE (R450); `partnerIdle` is the partner's part of the conditions. -/
def execPairctlUnfuse (who : Requester) (partnerIdle : Bool) (s : State) : Host.Outcome State Fault Refusal :=
  windowCmd who 2 false (fun s => if windowRefused who 0xD0100 s then (.etgt, 0, s) else (.okay, 0, writePairctl 2 partnerIdle s)) s

/-- The pair link carries words: the tile is fused and the link is trained and has not failed. -/
def pairCarries (s : State) : Bool := s.role.fused && s.pair.linkup && !s.pair.failed && hubRuns s

/-- PAIR_LINK_REQUEST (R113, R445). -/
def execPairLinkRequest (q : PairReq) (s : State) : Host.Outcome State Fault Refusal :=
  onlyIf (pairCarries s && !s.cal.trPair && vclkRuns s) "the pair link carries no request" (pairPresent q s)

/-- PAIR_LINK_FAILURE (R449): fused chains freeze, and no relay is acknowledged any more. -/
def execPairLinkFailure (s : State) : Host.Outcome State Fault Refusal :=
  onlyIf (s.pair.linkup && !s.pair.failed) "the pair link is not up" (setPair { s.pair with failed := true, relay := [] } s)

/-- A relayed message of the string link (R23, R449): a HEARTBEAT renews this tile's lease too and is acknowledged, an ADMIT gives it the
slot, a RELEASE starts its drain. -/
def relayedMsg (m : Msg) (s : State) : State :=
  match m.type.toNat with
  | 0x01 =>
    if s.role.role != .worker then s
    else if leaseOver s then enterFenced 1 true s
    else sendPair (.heartbeatAck m.hbseq) (takeHeartbeat m s)
  | 0x0A => if s.role.role = .spare && !roleHeld s && s.fuses.now != 5 then takeSlot m s else s
  | 0x0E => if s.role.role = .worker && !roleHeld s then withTroupe (fun t => { t with releasing := true }) s else s
  | _ => s

/-- The partner's acknowledgement of a relayed HEARTBEAT (R449). -/
def relayAcked (round : BitVec 16) (s : State) : State :=
  if s.pair.relay.contains round && s.role.role = .worker then
    sendHback round (setPair { s.pair with relay := s.pair.relay.erase round } s)
  else s

/-- The partner's cold reset (R472): both tiles are unfused, and a slot that was held is lost. -/
def partnerCold (s : State) : State :=
  let s1 := if holdsRole s then enterFenced 6 false s else s
  { s1 with role := { s1.role with fused := false }, pair := { s1.pair with linkup := false, relay := [], failed := false } }

/-- The partner's warm reset (R472), for which no rule gives this tile a RSTSTAT.CAUSE: one of the causes of a warm reset. -/
def partnerWarm (s : State) : State :=
  let (n, s1) := s.takeNat
  warmReset (BitVec.ofNat 4 (3 + n % 5)) false s1

/-- A power request of the partner, or its wake-up (R487). -/
def partnerPower (req : BitVec 3) (s : State) : State :=
  if req = 7 then
    (if s.pwr.step = .idle && (s.pwr.state = 2 || s.pwr.state = 3) then wakeUp s else s)
  else pwrRequest req false s

/-- The partner reports how its half of a chain in flight stands (R134, R188, R447): chain time, the flags and the committed count
depend on both tiles. -/
def partnerReports (slot : Fin 4) (r : PeerReport) (s : State) : State :=
  tryEnd slot (journalProgress slot (withChain slot (fun ch => { ch with peer := r, flags := ch.flags ||| r.flags }) s))

/-- A stream fault of the partner tile, as this tile records it (R185). -/
def partnerFault (f : PeerFault) : SFault :=
  ⟨f.cause, f.vor.toNat, f.fidx.toNat, f.write, f.vaddr, f.form, f.level, f.pa⟩

/-- The EVEN tile's word that the pair becomes SPARE (R23): a role reset, or the end of a release. -/
def partnerSpare (s : State) : State :=
  let s1 := setPair { s.pair with drained := false } s
  match s.role.role with
  | .fenced => roleReset s1
  | .worker => becomeSpare s1
  | _ => s1

/-- What a control word of the partner does. -/
def pairWordEffect (w : PairWord) (s : State) : State :=
  match w with
  | .enteredFenced freason => enterFenced freason false s
  | .heartbeat m => relayedMsg m s
  | .heartbeatAck round => relayAcked round s
  | .warmReset => partnerWarm s
  | .coldReset => partnerCold s
  | .wipe => wipeTripPair s
  | .power req => partnerPower req s
  | .resume slot => engfltWrite slot 2 s
  | .cancel slot => engfltWrite slot 4 s
  | .chain slot r => partnerReports slot r s
  | .fault slot f => takeFault slot (partnerFault f) s
  | .launch progs => launchFar progs s
  | .drained => setPair { s.pair with drained := true } s
  | .spare => partnerSpare s
  | .roleReset => if s.role.role = .fenced && !roleHeld s then setRole { s.role with resetting := true } s else s
  | .unfuse => unfuse s
  | .freeze on => setPair { s.pair with farFreeze := on } s

/-- PAIR_LINK_CONTROL_WORD (R23, R185, R449, R450, R472, R487, R515). -/
def execPairLinkControlWord (w : PairWord) (s : State) : Host.Outcome State Fault Refusal :=
  onlyIf (s.role.fused && !s.pair.failed) "the pair link carries no control word" (pairWordEffect w s)

end Sys2Proof.Machine
end

