-- ==== Sys2Proof/Machine/ExecWrapper.lean ====
section
/-! DEFINITION. The commands of the production test wrapper (spec/22_test_wrapper.md). -/

namespace Sys2Proof.Machine

/-- A command of the wrapper, which runs in WRCK and has no supply in OFF (R29). -/
def wrapCmd (s t : State) : Host.Outcome State Fault Refusal := onlyIf (switchedOn s) "the wrapper has no supply in OFF" t

/-- WRSTN_ASSERT (R558, R568). -/
def execWrstnAssert (s : State) : Host.Outcome State Fault Refusal := wrapCmd s (wrstn s)

/-- WS_BYPASS (R559). -/
def execWsBypass (s : State) : Host.Outcome State Fault Refusal := wrapCmd s (wirUpdate 0x0 s)

/-- WS_EXTEST (R559 to R562): the instruction, then an update of the boundary register. -/
def execWsExtest (cells : List (Nat × Bool)) (s : State) : Host.Outcome State Fault Refusal := wrapCmd s (wbrUpdate cells (wirUpdate 0x1 s))

/-- WS_INTEST (R559 to R562). -/
def execWsIntest (cells : List (Nat × Bool)) (s : State) : Host.Outcome State Fault Refusal := wrapCmd s (wbrUpdate cells (wirUpdate 0x2 s))

/-- WS_SAFE (R559 to R561). -/
def execWsSafe (s : State) : Host.Outcome State Fault Refusal := wrapCmd s (wirUpdate 0x3 s)

/-- WS_PRELOAD (R559, R562). -/
def execWsPreload (cells : List (Nat × Bool)) (s : State) : Host.Outcome State Fault Refusal := wrapCmd s (wbrUpdate cells (wirUpdate 0x4 s))

/-- WS_CLAMP (R559 to R561). -/
def execWsClamp (s : State) : Host.Outcome State Fault Refusal := wrapCmd s (wirUpdate 0x5 s)

/-- WIDCODE (R559). -/
def execWidcode (s : State) : Host.Outcome State Fault Refusal := wrapCmd s (capture Config.version (wirUpdate 0x6 s))

/-- A test instruction that selects a 64-bit register: its capture, then its update where the instruction was taken (R559, R560). -/
def selectRegister (code : Nat) (word : State → W64) (update : State → State) (s : State) : State :=
  let s1 := wirUpdate code s
  if s1.wrap.wir.toNat = code then update (capture (word s1) s1) else s1

/-- WMBIST (R560, R564): the instruction, a capture, and an update without START. -/
def execWmbist (val : W64) (s : State) : Host.Outcome State Fault Refusal := wrapCmd s (selectRegister 0x8 mbistWord (mbistUpdate (val &&& ~~~ 4)) s)

/-- WREPAIR (R560, R566): the instruction, a capture, and an update without PROGRAM. -/
def execWrepair (val : W64) (s : State) : Host.Outcome State Fault Refusal := wrapCmd s (selectRegister 0x9 wrepairWord (wrepairUpdate (val &&& ~~~ 0x1000)) s)

/-- WFUSERD (R559). -/
def execWfuserd (s : State) : Host.Outcome State Fault Refusal := wrapCmd s (capture (fuserdWord s) (wirUpdate 0xA s))

/-- MBIST_START (R563, R564): an update of WMBIST with START. -/
def execMbistStart (val : W64) (s : State) : Host.Outcome State Fault Refusal :=
  onlyIf (switchedOn s && s.wrap.wir == 8) "WMBIST is not in the WIR" (mbistUpdate (val ||| 4) s)

/-- MBIST_DONE (R563). -/
def execMbistDone (s : State) : Host.Outcome State Fault Refusal :=
  onlyIf (s.wrap.mbusy && clockOn s .vclk) "no memory test runs" (mbistEnd s)

/-- REPAIR_FUSE_PROGRAM (R567): an update of WREPAIR with PROGRAM. -/
def execRepairFuseProgram (val : W64) (s : State) : Host.Outcome State Fault Refusal :=
  onlyIf (switchedOn s && s.wrap.wir == 9) "WREPAIR is not in the WIR" (wrepairUpdate (val ||| 0x1000) s)

/-- REPAIR_FUSE_DONE (R567). -/
def execRepairFuseDone (s : State) : Host.Outcome State Fault Refusal :=
  orRefuse "no fuse is being blown" ((if switchedOn s then s.wrap.rbusy else none).map (fun x => fuseBlown x.1 x.2 s))

end Sys2Proof.Machine
end

