-- ==== Sys2Proof/Machine/Dispatch.lean ====
section
/-! DEFINITION. One arm per command (spec/opcode_table.json), each one call of its meaning. -/

namespace Sys2Proof.Machine

def exec (i : Instr) (s : State) : Host.Outcome State Fault Refusal :=
  match i with
  | .coldResetRelease t => Sys2Proof.Machine.execColdResetRelease t s
  | .aoporRelease t pnl => Sys2Proof.Machine.execAoporRelease t pnl s
  | .startupStepDone => Sys2Proof.Machine.execStartupStepDone s
  | .warmReset src => Sys2Proof.Machine.execWarmReset src s
  | .warmResetRelease => Sys2Proof.Machine.execWarmResetRelease s
  | .coreReset who mask run => Sys2Proof.Machine.execCoreReset who mask run s
  | .debugReset src => Sys2Proof.Machine.execDebugReset src s
  | .clockLost clk => Sys2Proof.Machine.execClockLost clk s
  | .qualPassStart => Sys2Proof.Machine.execQualPassStart s
  | .qualPassEnd => Sys2Proof.Machine.execQualPassEnd s
  | .calctlRequal who margin => Sys2Proof.Machine.execCalctlRequal who margin s
  | .tempSample temp => Sys2Proof.Machine.execTempSample temp s
  | .linkMarginLow l margin => Sys2Proof.Machine.execLinkMarginLow l margin s
  | .linkRetrainEnd l => Sys2Proof.Machine.execLinkRetrainEnd l s
  | .droopGuard below => Sys2Proof.Machine.execDroopGuard below s
  | .setupRegisterWrite who off be val => Sys2Proof.Machine.execSetupRegisterWrite who off be val s
  | .snoopInvalidate line tag => Sys2Proof.Machine.execSnoopInvalidate line tag s
  | .reqroleManager who => Sys2Proof.Machine.execReqroleManager who s
  | .reqroleSpare who => Sys2Proof.Machine.execReqroleSpare who s
  | .reqroleFenced who => Sys2Proof.Machine.execReqroleFenced who s
  | .roleResetDone => Sys2Proof.Machine.execRoleResetDone s
  | .leaseExpiry => Sys2Proof.Machine.execLeaseExpiry s
  | .heartbeatRound => Sys2Proof.Machine.execHeartbeatRound s
  | .heartbeat m => Sys2Proof.Machine.execHeartbeat m s
  | .hback m => Sys2Proof.Machine.execHback m s
  | .dephbTimer => Sys2Proof.Machine.execDephbTimer s
  | .dephb m => Sys2Proof.Machine.execDephb m s
  | .slotDead slot => Sys2Proof.Machine.execSlotDead slot s
  | .slcmdProbe who node slot => Sys2Proof.Machine.execSlcmdProbe who node slot s
  | .probe m => Sys2Proof.Machine.execProbe m s
  | .proberep m => Sys2Proof.Machine.execProberep m s
  | .slcmdAdmit who node slot => Sys2Proof.Machine.execSlcmdAdmit who node slot s
  | .admitMsg m => Sys2Proof.Machine.execAdmit m s
  | .admitack m => Sys2Proof.Machine.execAdmitack m s
  | .admitTimeout => Sys2Proof.Machine.execAdmitTimeout s
  | .slcmdAppoint who node slot => Sys2Proof.Machine.execSlcmdAppoint who node slot s
  | .appoint m => Sys2Proof.Machine.execAppoint m s
  | .appointack m => Sys2Proof.Machine.execAppointack m s
  | .appointTimeout => Sys2Proof.Machine.execAppointTimeout s
  | .slcmdRelease who node slot => Sys2Proof.Machine.execSlcmdRelease who node slot s
  | .release m => Sys2Proof.Machine.execRelease m s
  | .releaseDrainDone => Sys2Proof.Machine.execReleaseDrainDone s
  | .released m => Sys2Proof.Machine.execReleased m s
  | .slcmdFence who node slot => Sys2Proof.Machine.execSlcmdFence who node slot s
  | .fenced m => Sys2Proof.Machine.execFenced m s
  | .alert m => Sys2Proof.Machine.execAlert m s
  | .grpmirror m => Sys2Proof.Machine.execGrpmirror m s
  | .grpack m => Sys2Proof.Machine.execGrpack m s
  | .grpmirrorTimeout => Sys2Proof.Machine.execGrpmirrorTimeout s
  | .firmwareMessage m => Sys2Proof.Machine.execFirmwareMessage m s
  | .sltxSend who type slot toDep => Sys2Proof.Machine.execSltxSend who type slot toDep s
  | .slrxPop who clearOvf => Sys2Proof.Machine.execSlrxPop who clearOvf s
  | .managerClaim => Sys2Proof.Machine.execManagerClaim s
  | .managerClaimResponse code old => Sys2Proof.Machine.execManagerClaimResponse code old s
  | .managerLeaseExpiry => Sys2Proof.Machine.execManagerLeaseExpiry s
  | .deputyClaim => Sys2Proof.Machine.execDeputyClaim s
  | .deputyClaimResponse code old => Sys2Proof.Machine.execDeputyClaimResponse code old s
  | .pairctlFuse who => Sys2Proof.Machine.execPairctlFuse who s
  | .fuseComplete p => Sys2Proof.Machine.execFuseComplete p s
  | .fuseTimeout => Sys2Proof.Machine.execFuseTimeout s
  | .pairctlUnfuse who partnerIdle => Sys2Proof.Machine.execPairctlUnfuse who partnerIdle s
  | .pairLinkRequest q => Sys2Proof.Machine.execPairLinkRequest q s
  | .pairLinkFailure => Sys2Proof.Machine.execPairLinkFailure s
  | .vsRepairStart who lbank spare => Sys2Proof.Machine.execVsRepairStart who lbank spare s
  | .vsRepairDone => Sys2Proof.Machine.execVsRepairDone s
  | .scrubStep => Sys2Proof.Machine.execScrubStep s
  | .bankGrantCycle => Sys2Proof.Machine.execBankGrantCycle s
  | .starvationOverride rq word => Sys2Proof.Machine.execStarvationOverride rq word s
  | .wipeStart => Sys2Proof.Machine.execWipeStart s
  | .wipeDone => Sys2Proof.Machine.execWipeDone s
  | .chainProgramRead c rsp => Sys2Proof.Machine.execChainProgramRead c rsp s
  | .chainCheck c => Sys2Proof.Machine.execChainCheck c s
  | .triggerConsume c entry => Sys2Proof.Machine.execTriggerConsume c entry s
  | .chainLaunch => Sys2Proof.Machine.execChainLaunch s
  | .chainTimeTick slot => Sys2Proof.Machine.execChainTimeTick slot s
  | .streamLineResponse slot line code data => Sys2Proof.Machine.execStreamLineResponse slot line code data s
  | .streamWalkResponse slot page code entry => Sys2Proof.Machine.execStreamWalkResponse slot page code entry s
  | .streamWriteResponse slot line code => Sys2Proof.Machine.execStreamWriteResponse slot line code s
  | .chainComplete slot => Sys2Proof.Machine.execChainComplete slot s
  | .chainResume who slot => Sys2Proof.Machine.execChainResume who slot s
  | .chainCancel who slot resume => Sys2Proof.Machine.execChainCancel who slot resume s
  | .journalRecordIssue slot => Sys2Proof.Machine.execJournalRecordIssue slot s
  | .journalWriteResponse slot code => Sys2Proof.Machine.execJournalWriteResponse slot code s
  | .engdetTakeEffect => Sys2Proof.Machine.execEngdetTakeEffect s
  | .vissue p field => Sys2Proof.Machine.execVissue p field s
  | .vwait p field => Sys2Proof.Machine.execVwait p field s
  | .lit p field => Sys2Proof.Machine.execLit p field s
  | .litx p field => Sys2Proof.Machine.execLitx p field s
  | .addi p field => Sys2Proof.Machine.execAddi p field s
  | .cwr p field => Sys2Proof.Machine.execCwr p field s
  | .cww p field => Sys2Proof.Machine.execCww p field s
  | .br p field nxt => Sys2Proof.Machine.execBr p field nxt s
  | .call p field nxt => Sys2Proof.Machine.execCall p field nxt s
  | .svc p field => Sys2Proof.Machine.execSvc p field s
  | .ld p field => Sys2Proof.Machine.execLd p field s
  | .st p field => Sys2Proof.Machine.execSt p field s
  | .ldc p field => Sys2Proof.Machine.execLdc p field s
  | .stc p field => Sys2Proof.Machine.execStc p field s
  | .lock p field => Sys2Proof.Machine.execLock p field s
  | .unlock p field => Sys2Proof.Machine.execUnlock p field s
  | .movb p field => Sys2Proof.Machine.execMovb p field s
  | .saveu p field => Sys2Proof.Machine.execSaveu p field s
  | .savel p field => Sys2Proof.Machine.execSavel p field s
  | .loadu p field => Sys2Proof.Machine.execLoadu p field s
  | .loadl p field => Sys2Proof.Machine.execLoadl p field s
  | .stm p field => Sys2Proof.Machine.execStm p field s
  | .ldm p field => Sys2Proof.Machine.execLdm p field s
  | .invpg p field => Sys2Proof.Machine.execInvpg p field s
  | .invall p field => Sys2Proof.Machine.execInvall p field s
  | .invwalk p field => Sys2Proof.Machine.execInvwalk p field s
  | .eret p field nxt => Sys2Proof.Machine.execEret p field nxt s
  | .frtn p field => Sys2Proof.Machine.execFrtn p field s
  | .ack p field => Sys2Proof.Machine.execAck p field s
  | .eos p field => Sys2Proof.Machine.execEos p field s
  | .wait p field => Sys2Proof.Machine.execWait p field s
  | .rep p field nxt => Sys2Proof.Machine.execRep p field nxt s
  | .nop p sb nxt => Sys2Proof.Machine.execNop p sb nxt s
  | .dup p sb => Sys2Proof.Machine.execDup p sb s
  | .drop p sb => Sys2Proof.Machine.execDrop p sb s
  | .swap p sb => Sys2Proof.Machine.execSwap p sb s
  | .over p sb => Sys2Proof.Machine.execOver p sb s
  | .rot p sb => Sys2Proof.Machine.execRot p sb s
  | .nip p sb => Sys2Proof.Machine.execNip p sb s
  | .tuck p sb => Sys2Proof.Machine.execTuck p sb s
  | .pick p sb => Sys2Proof.Machine.execPick p sb s
  | .twoDup p sb => Sys2Proof.Machine.execTwoDup p sb s
  | .twoDrop p sb => Sys2Proof.Machine.execTwoDrop p sb s
  | .push0 p sb => Sys2Proof.Machine.execPush0 p sb s
  | .push1 p sb => Sys2Proof.Machine.execPush1 p sb s
  | .pushm1 p sb => Sys2Proof.Machine.execPushm1 p sb s
  | .tor p sb => Sys2Proof.Machine.execTor p sb s
  | .fromr p sb => Sys2Proof.Machine.execFromr p sb s
  | .rfetch p sb => Sys2Proof.Machine.execRfetch p sb s
  | .rdrop p sb => Sys2Proof.Machine.execRdrop p sb s
  | .depth p sb => Sys2Proof.Machine.execDepth p sb s
  | .add p sb => Sys2Proof.Machine.execAdd p sb s
  | .sub p sb => Sys2Proof.Machine.execSub p sb s
  | .adc p sb => Sys2Proof.Machine.execAdc p sb s
  | .sbc p sb => Sys2Proof.Machine.execSbc p sb s
  | .neg p sb => Sys2Proof.Machine.execNeg p sb s
  | .inc p sb => Sys2Proof.Machine.execInc p sb s
  | .dec p sb => Sys2Proof.Machine.execDec p sb s
  | .mul p sb => Sys2Proof.Machine.execMul p sb s
  | .mulhu p sb => Sys2Proof.Machine.execMulhu p sb s
  | .mulhs p sb => Sys2Proof.Machine.execMulhs p sb s
  | .divu p sb => Sys2Proof.Machine.execDivu p sb s
  | .divs p sb => Sys2Proof.Machine.execDivs p sb s
  | .modu p sb => Sys2Proof.Machine.execModu p sb s
  | .mods p sb => Sys2Proof.Machine.execMods p sb s
  | .divideResult c => Sys2Proof.Machine.execDivideResult c s
  | .min p sb => Sys2Proof.Machine.execMin p sb s
  | .max p sb => Sys2Proof.Machine.execMax p sb s
  | .minu p sb => Sys2Proof.Machine.execMinu p sb s
  | .maxu p sb => Sys2Proof.Machine.execMaxu p sb s
  | .abs p sb => Sys2Proof.Machine.execAbs p sb s
  | .and p sb => Sys2Proof.Machine.execAnd p sb s
  | .or p sb => Sys2Proof.Machine.execOr p sb s
  | .xor p sb => Sys2Proof.Machine.execXor p sb s
  | .andn p sb => Sys2Proof.Machine.execAndn p sb s
  | .invert p sb => Sys2Proof.Machine.execInvert p sb s
  | .shl p sb => Sys2Proof.Machine.execShl p sb s
  | .shr p sb => Sys2Proof.Machine.execShr p sb s
  | .sar p sb => Sys2Proof.Machine.execSar p sb s
  | .rol p sb => Sys2Proof.Machine.execRol p sb s
  | .ror p sb => Sys2Proof.Machine.execRor p sb s
  | .popc p sb => Sys2Proof.Machine.execPopc p sb s
  | .clz p sb => Sys2Proof.Machine.execClz p sb s
  | .ctz p sb => Sys2Proof.Machine.execCtz p sb s
  | .bswap p sb => Sys2Proof.Machine.execBswap p sb s
  | .sext32 p sb => Sys2Proof.Machine.execSext32 p sb s
  | .zext32 p sb => Sys2Proof.Machine.execZext32 p sb s
  | .ceq p sb => Sys2Proof.Machine.execCeq p sb s
  | .cne p sb => Sys2Proof.Machine.execCne p sb s
  | .clt p sb => Sys2Proof.Machine.execClt p sb s
  | .cle p sb => Sys2Proof.Machine.execCle p sb s
  | .cgt p sb => Sys2Proof.Machine.execCgt p sb s
  | .cge p sb => Sys2Proof.Machine.execCge p sb s
  | .cltu p sb => Sys2Proof.Machine.execCltu p sb s
  | .cleu p sb => Sys2Proof.Machine.execCleu p sb s
  | .cgtu p sb => Sys2Proof.Machine.execCgtu p sb s
  | .cgeu p sb => Sys2Proof.Machine.execCgeu p sb s
  | .tst p sb => Sys2Proof.Machine.execTst p sb s
  | .tstk p sb => Sys2Proof.Machine.execTstk p sb s
  | .pusht p sb => Sys2Proof.Machine.execPusht p sb s
  | .sett p sb => Sys2Proof.Machine.execSett p sb s
  | .clrt p sb => Sys2Proof.Machine.execClrt p sb s
  | .nott p sb => Sys2Proof.Machine.execNott p sb s
  | .sel p sb => Sys2Proof.Machine.execSel p sb s
  | .ld64 p sb => Sys2Proof.Machine.execLd64 p sb s
  | .st64 p sb => Sys2Proof.Machine.execSt64 p sb s
  | .ld32u p sb => Sys2Proof.Machine.execLd32u p sb s
  | .ld32s p sb => Sys2Proof.Machine.execLd32s p sb s
  | .ld16u p sb => Sys2Proof.Machine.execLd16u p sb s
  | .ld16s p sb => Sys2Proof.Machine.execLd16s p sb s
  | .ld8u p sb => Sys2Proof.Machine.execLd8u p sb s
  | .ld8s p sb => Sys2Proof.Machine.execLd8s p sb s
  | .st32 p sb => Sys2Proof.Machine.execSt32 p sb s
  | .st16 p sb => Sys2Proof.Machine.execSt16 p sb s
  | .st8 p sb => Sys2Proof.Machine.execSt8 p sb s
  | .ld64p p sb => Sys2Proof.Machine.execLd64p p sb s
  | .st64p p sb => Sys2Proof.Machine.execSt64p p sb s
  | .brx p sb nxt => Sys2Proof.Machine.execBrx p sb nxt s
  | .callx p sb nxt => Sys2Proof.Machine.execCallx p sb nxt s
  | .ret p sb nxt => Sys2Proof.Machine.execRet p sb nxt s
  | .sync p sb => Sys2Proof.Machine.execSync p sb s
  | .fence p sb => Sys2Proof.Machine.execFence p sb s
  | .brk p sb => Sys2Proof.Machine.execBrk p sb s
  | .interruptEntry c hdr => Sys2Proof.Machine.execInterruptEntry c hdr s
  | .lineFillResponse c fetch line code data => Sys2Proof.Machine.execLineFillResponse c fetch line code data s
  | .pageWalkResponse c ea code entry => Sys2Proof.Machine.execPageWalkResponse c ea code entry s
  | .storeDrainResponse c code data => Sys2Proof.Machine.execStoreDrainResponse c code data s
  | .writebackResponse c line code => Sys2Proof.Machine.execWritebackResponse c line code s
  | .stackSpill c level ret rsp => Sys2Proof.Machine.execStackSpill c level ret rsp s
  | .stackFill c ret rsp => Sys2Proof.Machine.execStackFill c ret rsp s
  | .corecfgTakeEffect c => Sys2Proof.Machine.execCorecfgTakeEffect c s
  | .taskSwitch c hdr rsp => Sys2Proof.Machine.execTaskSwitch c hdr rsp s
  | .eventArrival src => Sys2Proof.Machine.execEventArrival src s
  | .evsrcSet who src val => Sys2Proof.Machine.execEvsrcSet who src val s
  | .watchcfgEn who val => Sys2Proof.Machine.execWatchcfgEn who val s
  | .armall who val => Sys2Proof.Machine.execArmall who val s
  | .watcharmGo who entry => Sys2Proof.Machine.execWatcharmGo who entry s
  | .watchReadResponse entry code data => Sys2Proof.Machine.execWatchReadResponse entry code data s
  | .summaryAddResponse entry code => Sys2Proof.Machine.execSummaryAddResponse entry code s
  | .groupReadResponse entry k code data => Sys2Proof.Machine.execGroupReadResponse entry k code data s
  | .pollRead => Sys2Proof.Machine.execPollRead s
  | .ringnextRead who => Sys2Proof.Machine.execRingnextRead who s
  | .ringsetSet who ring => Sys2Proof.Machine.execRingsetSet who ring s
  | .ringsetGroup who ring => Sys2Proof.Machine.execRingsetGroup who ring s
  | .dmaStart who ch val => Sys2Proof.Machine.execDmaStart who ch val s
  | .dmaRestart who ch val => Sys2Proof.Machine.execDmaRestart who ch val s
  | .dmaCancel who ch val => Sys2Proof.Machine.execDmaCancel who ch val s
  | .dmaRequestGrant => Sys2Proof.Machine.execDmaRequestGrant s
  | .dmaReadResponse ch tag code data => Sys2Proof.Machine.execDmaReadResponse ch tag code data s
  | .dmaWriteResponse ch tag code => Sys2Proof.Machine.execDmaWriteResponse ch tag code s
  | .pwrctlReq who val => Sys2Proof.Machine.execPwrctlReq who val s
  | .powerTransitionStart => Sys2Proof.Machine.execPowerTransitionStart s
  | .pwrAckToggle => Sys2Proof.Machine.execPwrAckToggle s
  | .pwrAckTimeout => Sys2Proof.Machine.execPwrAckTimeout s
  | .pwrGoodLost => Sys2Proof.Machine.execPwrGoodLost s
  | .napWake => Sys2Proof.Machine.execNapWake s
  | .dozeWake => Sys2Proof.Machine.execDozeWake s
  | .vbusSample v => Sys2Proof.Machine.execVbusSample v s
  | .flushBudgetExpiry => Sys2Proof.Machine.execFlushBudgetExpiry s
  | .flushdone who => Sys2Proof.Machine.execFlushdone who s
  | .flushDrainDone => Sys2Proof.Machine.execFlushDrainDone s
  | .lccmdTransition who target => Sys2Proof.Machine.execLccmdTransition who target s
  | .lccmdRaisesvn who svn => Sys2Proof.Machine.execLccmdRaisesvn who svn s
  | .lccmdWipe who => Sys2Proof.Machine.execLccmdWipe who s
  | .keycmdProgram who slot use => Sys2Proof.Machine.execKeycmdProgram who slot use s
  | .keycmdRevoke who slot => Sys2Proof.Machine.execKeycmdRevoke who slot s
  | .fuseCommandDone => Sys2Proof.Machine.execFuseCommandDone s
  | .bootctlGo who port addr => Sys2Proof.Machine.execBootctlGo who port addr s
  | .bootHeaderResponse code l0 l1 l2 l3 => Sys2Proof.Machine.execBootHeaderResponse code l0 l1 l2 l3 s
  | .bootCopyDone => Sys2Proof.Machine.execBootCopyDone s
  | .bootVerifyDone => Sys2Proof.Machine.execBootVerifyDone s
  | .dbgauthGo who req => Sys2Proof.Machine.execDbgauthGo who req s
  | .debugVerifyDone => Sys2Proof.Machine.execDebugVerifyDone s
  | .wdSelect di => Sys2Proof.Machine.execWdSelect di s
  | .wdRead => Sys2Proof.Machine.execWdRead s
  | .wdWrite di => Sys2Proof.Machine.execWdWrite di s
  | .vtread => Sys2Proof.Machine.execVtread s
  | .vtwrite data => Sys2Proof.Machine.execVtwrite data s
  | .vtoutWrite who val => Sys2Proof.Machine.execVtoutWrite who val s
  | .vtinRead who => Sys2Proof.Machine.execVtinRead who s
  | .haltreq c stepMask => Sys2Proof.Machine.execHaltreq c stepMask s
  | .coreHalt c hdr => Sys2Proof.Machine.execCoreHalt c hdr s
  | .debugResume c stepMask => Sys2Proof.Machine.execDebugResume c stepMask s
  | .debugStep c stepMask => Sys2Proof.Machine.execDebugStep c stepMask s
  | .dfeed c parcel => Sys2Proof.Machine.execDfeed c parcel s
  | .dpcWrite c val => Sys2Proof.Machine.execDpcWrite c val s
  | .dx0Write c val => Sys2Proof.Machine.execDx0Write c val s
  | .dy0Write c val => Sys2Proof.Machine.execDy0Write c val s
  | .wfreezeWrite val => Sys2Proof.Machine.execWfreezeWrite val s
  | .samGo val => Sys2Proof.Machine.execSamGo val s
  | .samResponse code data => Sys2Proof.Machine.execSamResponse code data s
  | .panelPress => Sys2Proof.Machine.execPanelPress s
  | .pnlctlEvac who val => Sys2Proof.Machine.execPnlctlEvac who val s
  | .pnlctlCancel who val => Sys2Proof.Machine.execPnlctlCancel who val s
  | .evacSafe => Sys2Proof.Machine.execEvacSafe s
  | .evacTimeout => Sys2Proof.Machine.execEvacTimeout s
  | .presenceLoss => Sys2Proof.Machine.execPresenceLoss s
  | .presenceGain => Sys2Proof.Machine.execPresenceGain s
  | .tamperTrip => Sys2Proof.Machine.execTamperTrip s
  | .watchdogWarning wd => Sys2Proof.Machine.execWatchdogWarning wd s
  | .coreWatchdogExpiry c => Sys2Proof.Machine.execCoreWatchdogExpiry c s
  | .tileWatchdogExpiry => Sys2Proof.Machine.execTileWatchdogExpiry s
  | .watchdogKick who wd val => Sys2Proof.Machine.execWatchdogKick who wd val s
  | .wrstnAssert => Sys2Proof.Machine.execWrstnAssert s
  | .wsBypass => Sys2Proof.Machine.execWsBypass s
  | .wsExtest cells => Sys2Proof.Machine.execWsExtest cells s
  | .wsIntest cells => Sys2Proof.Machine.execWsIntest cells s
  | .wsSafe => Sys2Proof.Machine.execWsSafe s
  | .wsPreload cells => Sys2Proof.Machine.execWsPreload cells s
  | .wsClamp => Sys2Proof.Machine.execWsClamp s
  | .widcode => Sys2Proof.Machine.execWidcode s
  | .wmbist val => Sys2Proof.Machine.execWmbist val s
  | .wrepair val => Sys2Proof.Machine.execWrepair val s
  | .wfuserd => Sys2Proof.Machine.execWfuserd s
  | .mbistStart val => Sys2Proof.Machine.execMbistStart val s
  | .mbistDone => Sys2Proof.Machine.execMbistDone s
  | .repairFuseProgram val => Sys2Proof.Machine.execRepairFuseProgram val s
  | .repairFuseDone => Sys2Proof.Machine.execRepairFuseDone s
  | .pairLinkControlWord w => Sys2Proof.Machine.execPairLinkControlWord w s
  | .clockReturn clk => Sys2Proof.Machine.execClockReturn clk s
  | .powerTilePartDone => Sys2Proof.Machine.execPowerTilePartDone s
  | .attnRelease => Sys2Proof.Machine.execAttnRelease s
  | .tamperClose => Sys2Proof.Machine.execTamperClose s
  | .reservedParcel p parcel => Sys2Proof.Machine.execReservedParcel p parcel s
  | .wdReservedCommand cmd => Sys2Proof.Machine.execWdReservedCommand cmd s
  | .tracePortTransfer => Sys2Proof.Machine.execTracePortTransfer s
  | .coldResetAssert => Sys2Proof.Machine.execColdResetAssert s
  | .alwaysOnResetAssert => Sys2Proof.Machine.execAlwaysOnResetAssert s
  | .reservedMessage m => Sys2Proof.Machine.execReservedMessage m s

end Sys2Proof.Machine
end

