-- ==== Sys2Proof/Machine/Tick.lean ====
section
/-! DEFINITION. The passing of time: what one AOCLK, 20 ns, does when no command waits (notes/assumptions/6.md). Every other effect of
time is a command of its own. -/

namespace Sys2Proof.Machine

/-- Nanoseconds in one AOCLK at 50 MHz (R29). -/
def aoNs : Nat := 20

/-- AOTIME counts AOCLK from the release of AOPOR_N (R554). -/
def tickAotime (s : State) : State :=
  if s.rst.phase != .aopor && clockOn s .aoclk then { s with log := { s.log with aotime := s.log.aotime + 1 } } else s

/-- SLCLK time goes on while the hub runs; the slot timers of a manager stand still under the heartbeat freeze (R428, R529). -/
def tickHub (s : State) : State :=
  if hubTimes s then
    withTroupe (fun t => { t with
      now := t.now + aoNs
      slots := if hbFrozen s && s.role.role == .manager then
          t.slots.map (fun e => (e.1, { e.2 with ackAt := e.2.ackAt + aoNs })) else t.slots }) s
  else s

/-- WDCLK has an edge each microsecond (R551). -/
def tickWatchdogs (s : State) : State :=
  if s.rst.phase != .aopor && s.log.aotime.toNat % aoPerUs == 0 then wdTick s else s

/-- One AOCLK. -/
def idleTick (s : State) : State := tickWatchdogs (tickHub (tickAotime s))

end Sys2Proof.Machine
end

