-- ==== Sys2Proof/WellFormed.lean ====
section
/-! DEFINITION. The commands that are instances of their rows: a message has its row's TYPE (R423), a register write sets the bit that its
row is about, a reserved parcel is reserved (R208, R209), and a hardware pulse reaches a source that has one (R358). What a core's parcel
asks of its bits beyond that is the parcel's own meaning: ILLEGAL is an exception (R215). -/

namespace Sys2Proof

/-- No line stands in a list of responses twice. -/
def linesDistinct (rsp : List LineRsp) : Bool := decide ((rsp.map (·.line)).Nodup)

/-- Cells of the boundary register, each named once (R562). -/
def cellsOk (cells : List (Nat × Bool)) : Bool :=
  cells.all (fun c => c.1 < Machine.wbrCells) && decide ((cells.map (·.1)).Nodup)

/-- A well-formed command. -/
def Instr.wf (i : Instr) : Bool :=
  match i with
  | .heartbeat m => m.type == 0x01
  | .hback m => m.type == 0x02
  | .dephb m => m.type == 0x03
  | .probe m => m.type == 0x08
  | .proberep m => m.type == 0x09
  | .admitMsg m => m.type == 0x0A
  | .admitack m => m.type == 0x0B
  | .appoint m => m.type == 0x0C
  | .appointack m => m.type == 0x0D
  | .release m => m.type == 0x0E
  | .released m => m.type == 0x0F
  | .fenced m => m.type == 0x10
  | .alert m => m.type == 0x11
  | .grpmirror m => m.type == 0x12
  | .grpack m => m.type == 0x13
  | .firmwareMessage m => 0x20 ≤ m.type.toNat && m.type.toNat ≤ 0x3F
  | .reservedParcel _ parcel => Machine.parcelIllegal parcel Machine.nopParcel
  | .eventArrival src => Machine.pulseSource src.toNat
  | .evsrcSet _ _ val => bitAt 7 val
  | .armall _ val => bitAt 1 val
  | .dmaStart _ _ val => bitAt 0 val
  | .dmaRestart _ _ val => bitAt 1 val
  | .dmaCancel _ _ val => bitAt 2 val
  | .pnlctlEvac _ val => bitAt 0 val
  | .pnlctlCancel _ val => bitAt 1 val
  | .watchdogKick _ _ val => bitAt 2 val
  | .samGo val => bitAt 0 val
  | .mbistStart val => bitAt 2 val
  | .repairFuseProgram val => bitAt 12 val
  | .wmbist val => !bitAt 2 val
  | .wrepair val => !bitAt 12 val
  | .wdReservedCommand cmd => !(1 ≤ cmd.toNat && cmd.toNat ≤ 5)
  | .chainProgramRead _ rsp => linesDistinct rsp
  | .stackSpill _ _ _ rsp => linesDistinct rsp
  | .stackFill _ _ rsp => linesDistinct rsp
  | .taskSwitch _ _ rsp => linesDistinct rsp
  | .wsExtest cells => cellsOk cells
  | .wsIntest cells => cellsOk cells
  | .wsPreload cells => cellsOk cells
  | _ => true

end Sys2Proof
end

