-- ==== Sys2Proof/Safety.lean ====
section
/-! DEFINITION. What claims about the tile are stated in: when a parcel stands ready on its core, what its ends do, when a requester
reaches a register, and the invariants that every step keeps. -/

namespace Sys2Proof.Claims

open Sys2Proof Sys2Proof.Machine

/-! ## Parcels -/

/-- The core of `p` has taken the parcel `w` in, `nxt` being the parcel after it. -/
def presented (p : PCtx) (w nxt : BitVec 20) (s : State) : State :=
  withCore p.core (fun k => { k with st := .running, ran := true, held := some ⟨p.hdr, w, nxt, false, .drain, [], [], false⟩ }) (settleArm p.core s)

/-- The parcel `w` stands ready: the core issues, the parcel's place and line are ones a parcel may stand in (R204, R206, R218, R222),
and its code line is at hand (R259, R316), which leads to `s1`. The store buffer holds no more than its 16 entries (R275). -/
structure Ready (p : PCtx) (w nxt : BitVec 20) (s s1 : State) : Prop where
  issues : issues s p.core = true
  reached : reachParcel ⟨p.core, (s.core p.core).pc, false⟩ p.hdr (presented p w nxt s) = .ok () s1
  fresh : (s1.core p.core).repResume = false
  line : lineIllegal (s.core p.core).pc p.hdr = false
  place : placeIllegal (s1.core p.core) w = false
  buffer : (s1.core p.core).sb.length ≤ 16

/-- The parcel ends without an exception: execution goes on after it (R203, R217, R221), and a debug step is over (R524). -/
def ends (c : CoreId) (s : State) : State := stepEnd c (followOn c (dropHeld c s))

/-- The parcel ends as an exception: it leaves no effect of its own (R340), and the entry of R343 follows. -/
def raises (c : CoreId) (e : Exc) (s : State) : State := stepEnd c (enterExc c e (dropHeld c s))

/-- Nothing holds the entry of an exception off: no divide is in flight (R262, R343), and bank 7 needs no spill for the handler (R291). -/
def entryFree (c : CoreId) (s : State) : Prop := (s.core c).divide = none ∧ ∀ t, sevenWaits s c t = false

/-- The running bank of a core becomes `b`, the groups it changes marked dirty (R294). -/
def putBank (c : CoreId) (b : Bank) (s : State) : State := setCore c ((s.core c).putRun b) s

/-- The running bank of a core. -/
def bank (c : CoreId) (s : State) : Bank := (s.core c).run

/-- What a parcel that raises nothing leaves (R210, R340): its bank, its stores in the store buffer, and its accesses watched. -/
def committed (c : CoreId) (b : Bank) (sts : List SbEntry) (acc : List DAcc) (s : State) : State :=
  acc.foldl (fun s a => watchAccess c a s) (makeStores c sts (putBank c b s))

/-- A bank with the groups marked dirty in which it differs from `b0` (R294). -/
def marked (b0 b : Bank) : Bank := { b with dirty := b.dirty ||| changedGroups b0 b }

/-- What a pair leaves of the bank `b0` that its first half makes `b1` and its second `b2`: each half has marked the groups it changed (R294). -/
def pairBank (b0 b1 b2 : Bank) : Bank := { b2 with dirty := b2.dirty ||| changedGroups b0 b1 ||| changedGroups b1 b2 }

/-- Room for a stack that grows (R288). -/
def hasRoom (before after : Bank) : Bool :=
  (after.oc.length ≤ 32 || after.oc.length ≤ before.oc.length) && (after.rc.length ≤ 32 || after.rc.length ≤ before.rc.length)

/-- One of the top `n` cells of a bank is the result of the divide in flight, which `pend` numbers from the stack's bottom (R262). -/
def takesPending (pend : Option Nat) (n : Nat) (b : Bank) : Bool :=
  match pend with
  | some i => b.depth ≤ i + n && i < b.depth && 0 < n
  | none => false

/-- What a short operation of class N, A or K other than PICK and the divides makes of a bank (R251 to R254). -/
def halfResult (code : Nat) (b : Bank) : Bank :=
  (if code = 0 then (⟨b, [], [], none⟩ : Fr) else if code < 0x20 then stackOp code ⟨b, [], [], none⟩ else aluOp code ⟨b, [], [], none⟩).b

/-- What half a pair does to a bank (R251 to R254), where it is no memory operation, no divide, no PICK and no solo operation, its cells
are cached, none of them awaits the divide in flight, and there is room for its result. -/
def plainHalf (code : Nat) (pend : Option Nat) (b : Bank) : Option Bank :=
  match shortInfo code with
  | none => none
  | some i =>
    if i.cls == .m || i.cls == .x || code == 0x08 || isDivide code || b.oc.length < i.takes || b.rc.length < i.takesR ||
        takesPending pend i.takes b then none
    else
      if hasRoom b (halfResult code b) then some (halfResult code b) else none

/-- A dependent pair counts in CPAIRSER outside deterministic mode (R211, R212). -/
def countPair (c : CoreId) (sa sb : Nat) (s : State) : State :=
  let dep := match shortInfo sa, shortInfo sb with
    | some a, some b => pairDepends a b
    | _, _ => false
  if dep && !(s.core c).detOn then withCore c (fun k => { k with pairser := k.pairser.bump 1 }) s else s

/-- The rows whose first half is no memory operation, no divide, no PICK and no solo operation, with their codes: the stack operations
(R251). -/
def stackRows : List ((PCtx → BitVec 8 → Instr) × Nat) :=
  [(.dup, 0x01), (.drop, 0x02), (.swap, 0x03), (.over, 0x04), (.rot, 0x05), (.nip, 0x06), (.tuck, 0x07), (.twoDup, 0x09), (.twoDrop, 0x0A),
   (.push0, 0x0B), (.push1, 0x0C), (.pushm1, 0x0D), (.tor, 0x0E), (.fromr, 0x0F), (.rfetch, 0x10), (.rdrop, 0x11), (.depth, 0x12)]

/-- The arithmetic rows that do not divide (R252). -/
def arithRows : List ((PCtx → BitVec 8 → Instr) × Nat) :=
  [(.add, 0x20), (.sub, 0x21), (.adc, 0x22), (.sbc, 0x23), (.neg, 0x24), (.inc, 0x25), (.dec, 0x26), (.mul, 0x27), (.mulhu, 0x28), (.mulhs, 0x29),
   (.min, 0x2E), (.max, 0x2F), (.minu, 0x30), (.maxu, 0x31), (.abs, 0x32)]

/-- The logical, shift and bit rows (R253). -/
def logicRows : List ((PCtx → BitVec 8 → Instr) × Nat) :=
  [(.and, 0x38), (.or, 0x39), (.xor, 0x3A), (.andn, 0x3B), (.invert, 0x3C), (.shl, 0x3D), (.shr, 0x3E), (.sar, 0x3F), (.rol, 0x40), (.ror, 0x41),
   (.popc, 0x42), (.clz, 0x43), (.ctz, 0x44), (.bswap, 0x45), (.sext32, 0x46), (.zext32, 0x47)]

/-- The compare, test and truth rows (R254). -/
def testRows : List ((PCtx → BitVec 8 → Instr) × Nat) :=
  [(.ceq, 0x50), (.cne, 0x51), (.clt, 0x52), (.cle, 0x53), (.cgt, 0x54), (.cge, 0x55), (.cltu, 0x56), (.cleu, 0x57), (.cgtu, 0x58), (.cgeu, 0x59),
   (.tst, 0x5A), (.tstk, 0x5B), (.pusht, 0x5C), (.sett, 0x5D), (.clrt, 0x5E), (.nott, 0x5F), (.sel, 0x60)]

def plainRows : List ((PCtx → BitVec 8 → Instr) × Nat) := stackRows ++ arithRows ++ logicRows ++ testRows

/-- The divides (R252). -/
def divideRows : List ((PCtx → BitVec 8 → Instr) × Nat) := [(.divu, 0x2A), (.divs, 0x2B), (.modu, 0x2C), (.mods, 0x2D)]

/-- The loads among the short operations (R255): code, bytes, sign extension, and whether the address is left advanced. -/
def loadRows : List ((PCtx → BitVec 8 → Instr) × Nat × Nat × Bool × Bool) :=
  [(.ld64, 0x70, 8, false, false), (.ld32u, 0x72, 4, false, false), (.ld32s, 0x73, 4, true, false), (.ld16u, 0x74, 2, false, false),
   (.ld16s, 0x75, 2, true, false), (.ld8u, 0x76, 1, false, false), (.ld8s, 0x77, 1, true, false), (.ld64p, 0x7B, 8, false, true)]

/-- The stores among the short operations (R255): code, bytes, and whether the address is left advanced. -/
def storeRows : List ((PCtx → BitVec 8 → Instr) × Nat × Nat × Bool) :=
  [(.st64, 0x71, 8, false), (.st32, 0x78, 4, false), (.st16, 0x79, 2, false), (.st8, 0x7A, 1, false), (.st64p, 0x7C, 8, true)]

/-- Every row whose first half is no NOP and no solo operation. -/
def halfRows : List ((PCtx → BitVec 8 → Instr) × Nat) :=
  plainRows ++ [(.pick, 0x08)] ++ divideRows ++ loadRows.map (fun r => (r.1, r.2.1)) ++ storeRows.map (fun r => (r.1, r.2.1))

/-- The long operations that are no control transfer with a delay parcel and no REP (R233). -/
def longRows : List ((PCtx → BitVec 10 → Instr) × Nat) :=
  [(.lit, 0x01), (.litx, 0x02), (.addi, 0x03), (.cwr, 0x04), (.cww, 0x05), (.svc, 0x0C), (.ld, 0x10), (.st, 0x11), (.ldc, 0x12), (.stc, 0x13),
   (.lock, 0x18), (.unlock, 0x19), (.movb, 0x1C), (.vissue, 0x20), (.vwait, 0x21), (.saveu, 0x24), (.savel, 0x25), (.loadu, 0x26), (.loadl, 0x27),
   (.stm, 0x28), (.ldm, 0x29), (.invpg, 0x2C), (.invall, 0x2D), (.invwalk, 0x2E), (.frtn, 0x31), (.ack, 0x34), (.eos, 0x35), (.wait, 0x38)]

/-- The control words of R199 with their committed values and the lowest levels that read and write them. -/
def controlWords (k : Core) : List (Nat × W64 × Nat × Nat) :=
  let b := k.run
  [(0x000, b.status.zeroExtend 64, 1, 2), (0x001, b.flags.zeroExtend 64, 0, 0), (0x002, b.loopcnt.zeroExtend 64, 0, 0), (0x003, k.taskid k.tag, 0, 2),
   (0x010, b.estat, 1, 1), (0x011, b.epc.zeroExtend 64, 1, 1), (0x012, b.etarget.zeroExtend 64, 1, 1), (0x013, b.eaddr, 1, 1), (0x018, k.fentry, 1, 2),
   (0x019, b.fpc.zeroExtend 64, 1, 1), (0x01A, b.fstat, 1, 1), (0x020, k.ptroot, 2, 2)] ++
  (List.range 16).flatMap (fun n => [(0x040 + 2 * n, (b.seg n).1, 1, 2), (0x041 + 2 * n, (b.seg n).2, 1, 2)])

/-- A control transfer has executed: its delay parcel follows (R217). -/
def beforeDelay (c : CoreId) (taken : Bool) (target : BitVec 48) (check : Bool) (s : State) : State :=
  stepEnd c (withCore c (fun k => { k with
    pc := advance k.pc 1, delay := some ⟨k.pc, taken, target, check, false⟩, held := none }) s)

/-- The tie-offs hold no reserved encoding (R7). -/
def tieOffsLegal (t : TieOffs) : Bool := t.pairpos != 3 && t.tracew != 3

/-! ## The set-up window -/

/-- A requester's access of a register is served (R520, R573): `level` is the debug level that Weado needs for it. -/
def mayAccess (who : Requester) (level off : Nat) (s : State) : Bool :=
  !windowRefused who off s &&
  match who with
  | .core c => coreLives s c
  | .weado => !s.weado.sam.busy && level ≤ effLevel s
  | .host => true

/-- The state once the requester of a write has its answer. -/
def written (who : Requester) (s : State) : State :=
  match who with
  | .weado => samEnd 0 (answerWindow who .okay 0 s)
  | _ => answerWindow who .okay 0 s

/-- The state once the requester of a read has its data. -/
def readBy (who : Requester) (d : W64) (s : State) : State :=
  match who with
  | .weado => samEnd 0 (setSam { (answerWindow who .okay d s).weado.sam with data := d } (answerWindow who .okay d s))
  | _ => answerWindow who .okay d s

/-! ## Roles and messages -/

/-- What an entry to FENCED leaves (R427): the role, its slot and FREASON, no lease, a ring engine that a manager no longer runs, nothing of
the launches, the queues, the bank arrays, the fuses and the log changed; and, where `relay` holds, the partner of a fused pair is told (R23). -/
def fencedAs (freason : BitVec 4) (relay : Bool) (s u : State) : Prop :=
  u.role = { s.role with role := .fenced, slot := 0, freason := freason } ∧ u.troupe.leaseEnd = none ∧ u.troupe.releasing = false ∧
  u.troupe.mepoch = s.troupe.mepoch ∧ u.troupe.node = s.troupe.node ∧ u.troupe.slots = s.troupe.slots ∧ u.iq = s.iq ∧
  u.fuses = s.fuses ∧ u.vs.mem = s.vs.mem ∧ u.pending = s.pending ∧
  u.pair.tx = (if relay && s.role.fused then s.pair.tx ++ [.enteredFenced freason] else s.pair.tx)

/-- The message rows of one type each (R423). -/
def messageRows : List ((Msg → Instr) × Nat) :=
  [(.heartbeat, 0x01), (.hback, 0x02), (.dephb, 0x03), (.probe, 0x08), (.proberep, 0x09), (.admitMsg, 0x0A), (.admitack, 0x0B), (.appoint, 0x0C),
   (.appointack, 0x0D), (.release, 0x0E), (.released, 0x0F), (.fenced, 0x10), (.alert, 0x11), (.grpmirror, 0x12), (.grpack, 0x13)] ++
  (List.range 32).map (fun i => (.firmwareMessage, 0x20 + i))

/-- The message types that each role accepts (R423, R424). -/
def acceptedTypes (r : Role) : List Nat :=
  match r with
  | .spare => [0x08, 0x0A, 0x0C]
  | .worker => [0x01, 0x08, 0x0E, 0x10] ++ (List.range 16).map (fun i => 0x20 + i)
  | .deputy => [0x01, 0x08, 0x10, 0x12] ++ (List.range 16).map (fun i => 0x20 + i)
  | .manager => [0x02, 0x03, 0x09, 0x0B, 0x0D, 0x0F, 0x11, 0x13] ++ (List.range 32).map (fun i => 0x20 + i)
  | .fenced => []

/-- A message that the hub hears, on a tile that uses the string link (R421), whose checks it passes, and which is no role message that the
hold-up flush keeps off (R22, R424, R430). -/
def heard (m : Msg) (s : State) : Prop :=
  hubListens s = true ∧ oddFused s = false ∧ msgFate s m = .accepted ∧ (s.pwr.flush = none ∨ roleMessage m = false)

/-- The state in which a message of a type is checked: a timer of the hub that has run out by then comes first (R433, R437, R452). -/
def met (type : Nat) (m : Msg) (s : State) : State :=
  if type = 0x02 then deadFirst m.slot s else if type = 0x0B ∨ type = 0x0D then lateFirst timeoutNow s else s

/-- The answer that a command of SLCMD waits for has time left (R433, R437). -/
def timely (s : State) : Prop :=
  ∀ till, ((∃ n, s.troupe.busy = .admission n till) ∨ ∃ n, s.troupe.busy = .appoint n till) → s.troupe.now ≤ till

/-! ## What the fuses keep -/

/-- A fuse command that runs will only blow fuses, and the lifecycle state is a listed one (R500, R501, R505): a transition leads further, RAISESVN
raises, PROGRAM has an empty slot before it, and the UID fuses are written once. -/
structure FusesSound (s : State) : Prop where
  listed : s.fuses.lc.toNat ≤ 5
  forward : ∀ t, s.fuses.op = some (.transition t) → s.fuses.lc < t ∧ t.toNat ≤ 5
  rises : ∀ n, s.fuses.op = some (.raisesvn n) → s.fuses.minsvn < n
  empty : ∀ n use d, s.fuses.op = some (.program n use d) → (s.fuses.keys.get n.toFin).prog = false
  once : ∀ a b, s.fuses.op = some (.uid a b) → s.fuses.uidProg = false

/-- A key slot keeps what it holds: programmed it stays so, with its digest and uses, and a revocation stays (R505). -/
def keyKept (before after : KeySlot) : Prop :=
  (before.revoked = true → after.revoked = true) ∧
  (before.prog = true → after.prog = true ∧ after.digest = before.digest ∧ after.boot = before.boot ∧ after.debug = before.debug ∧
    after.rma = before.rma)

/-- No fuse of `before` has been restored in `after` (R501, R505, R565, R567). -/
def onlyBlown (before after : State) : Prop :=
  before.fuses.lc ≤ after.fuses.lc ∧ before.fuses.minsvn ≤ after.fuses.minsvn ∧
  (∀ n : Fin 4, keyKept (before.fuses.keys.get n) (after.fuses.keys.get n)) ∧
  (before.fuses.uidProg = true → after.fuses.uidProg = true ∧ after.fuses.uid0 = before.fuses.uid0 ∧ after.fuses.uid1 = before.fuses.uid1) ∧
  ∀ (n i : Nat), (before.fuseOf n).getLsbD i = true → (after.fuseOf n).getLsbD i = true

end Sys2Proof.Claims
end

