-- ==== Sys2Proof/Certificates/Slice0/Obligations.lean ====
section
/-! DEFINITION. What is claimed of the block: one statement for each group of the rules, in the order of the command table. -/

open Sys2Proof Sys2Proof.Machine Sys2Proof.Claims

/-! ## Paired parcels -/

/-- R210 to R215, R250 to R254: a pair whose halves take and leave cells and flags alone executes both halves in order and execution goes on
after it, for every second half of that kind; nothing but the running bank, CPAIRSER and the place of execution changes.
R294: each half marks the groups it changed, though the second may undo the first. -/
def Obligations.PlainPairsComplete : Prop :=
  (∀ row ∈ plainRows, ∀ (p : PCtx) (sb : BitVec 8) (s s1 : State) (b1 b2 : Bank),
    Ready p (pairParcel p.cond row.2 sb) nopParcel s s1 → codeIllegal (pairParcel p.cond row.2 sb) = false →
    condHolds p.cond (bank p.core s1).flags = true →
    plainHalf row.2 (s1.core p.core).pendingCell (bank p.core s1) = some b1 →
    plainHalf sb.toNat (s1.core p.core).pendingCell b1 = some b2 →
    exec (row.1 p sb) s = .next (ends p.core (countPair p.core row.2 sb.toNat (putBank p.core (pairBank (bank p.core s1) b1 b2) s1)))) ∧
  ∀ (p : PCtx) (sb : BitVec 8) (nxt : BitVec 20) (s s1 : State) (b2 : Bank),
    Ready p (pairParcel p.cond 0x00 sb) nxt s s1 → condHolds p.cond (bank p.core s1).flags = true →
    plainHalf sb.toNat (s1.core p.core).pendingCell (bank p.core s1) = some b2 →
    exec (.nop p sb nxt) s = .next (ends p.core (putBank p.core b2 s1))

/-- R251: what each stack operation but PICK makes of the stacks; the rest of the bank is unchanged.
R251, R292: PICK reads the cell that n mod 32 counts once n is popped; too few cells raise STKUNF. -/
def Obligations.StackOperationResults : Prop :=
  (∀ (b : Bank) (a x y : W64) (t r : List W64),
     halfResult 0x00 b = b ∧
     (b.oc = a :: t →
       halfResult 0x01 b = { b with oc := a :: a :: t } ∧ halfResult 0x02 b = { b with oc := t } ∧
       halfResult 0x0E b = { b with oc := t, rc := a :: b.rc }) ∧
     (b.oc = a :: x :: t →
       halfResult 0x03 b = { b with oc := x :: a :: t } ∧ halfResult 0x04 b = { b with oc := x :: a :: x :: t } ∧
       halfResult 0x06 b = { b with oc := a :: t } ∧ halfResult 0x07 b = { b with oc := a :: x :: a :: t } ∧
       halfResult 0x09 b = { b with oc := a :: x :: a :: x :: t } ∧ halfResult 0x0A b = { b with oc := t }) ∧
     (b.oc = a :: x :: y :: t → halfResult 0x05 b = { b with oc := y :: a :: x :: t }) ∧
     halfResult 0x0B b = { b with oc := 0 :: b.oc } ∧ halfResult 0x0C b = { b with oc := 1 :: b.oc } ∧
     halfResult 0x0D b = { b with oc := BitVec.ofInt 64 (-1) :: b.oc } ∧
     (b.rc = a :: r →
       halfResult 0x0F b = { b with oc := a :: b.oc, rc := r } ∧ halfResult 0x10 b = { b with oc := a :: b.oc } ∧
       halfResult 0x11 b = { b with rc := r }) ∧
     halfResult 0x12 b = { b with oc := BitVec.ofNat 64 (b.oc.length + b.osp.toNat) :: b.oc }) ∧
  (∀ (p : PCtx) (s s1 : State) (n : W64) (t : List W64), Ready p (pairParcel p.cond 0x08 0) nopParcel s s1 →
     condHolds p.cond (bank p.core s1).flags = true → (bank p.core s1).oc = n :: t → (s1.core p.core).divide = none →
     (∀ x, t[n.toNat % 32]? = some x →
       exec (.pick p 0) s = .next (ends p.core (putBank p.core { bank p.core s1 with oc := x :: t } s1))) ∧
     (t.length + (bank p.core s1).osp.toNat < n.toNat % 32 + 1 → entryFree p.core s1 → exec (.pick p 0) s = .next (raises p.core excStkunf s1)))

/-- R231, R252: the result and the flags of each arithmetic operation that does not divide, on `x` below `a`: C is the carry or the absence
of a borrow on unsigned values, V the overflow of signed ones; T is kept.
R231, R253: the result of each logical, shift and bit operation, and Z and N from it; every other flag is kept. -/
def Obligations.ArithmeticAndLogicResults : Prop :=
  (∀ (b : Bank) (a x : W64) (t : List W64),
     let f := b.flags
     let sum (r : W64) (u : Nat) (i : Int) (t : List W64) : Bank :=
       { b with oc := r :: t, flags := mkFlags (flT f) (r == 0) (decide (r.toInt < 0)) (decide (2 ^ 64 ≤ u)) (decide (r.toInt ≠ i)) }
     let diff (r : W64) (u w : Nat) (i : Int) (t : List W64) : Bank :=
       { b with oc := r :: t, flags := mkFlags (flT f) (r == 0) (decide (r.toInt < 0)) (decide (w ≤ u)) (decide (r.toInt ≠ i)) }
     let keep (r : W64) (v : Bool) (t : List W64) : Bank :=
       { b with oc := r :: t, flags := mkFlags (flT f) (r == 0) (decide (r.toInt < 0)) (flC f) v }
     let c := b2n (flC f)
     let n := 1 - b2n (flC f)
     (b.oc = a :: x :: t →
       halfResult 0x20 b = sum (x + a) (x.toNat + a.toNat) (x.toInt + a.toInt) t ∧
       halfResult 0x21 b = diff (x - a) x.toNat a.toNat (x.toInt - a.toInt) t ∧
       halfResult 0x22 b = sum (x + a + BitVec.ofNat 64 c) (x.toNat + a.toNat + c) (x.toInt + a.toInt + c) t ∧
       halfResult 0x23 b = diff (x - a - BitVec.ofNat 64 n) x.toNat (a.toNat + n) (x.toInt - a.toInt - n) t ∧
       halfResult 0x27 b = keep (x * a) (flV f) t ∧
       halfResult 0x28 b = keep (BitVec.ofNat 64 (x.toNat * a.toNat / 2 ^ 64)) (flV f) t ∧
       halfResult 0x29 b = keep (BitVec.ofInt 64 (x.toInt * a.toInt / 2 ^ 64)) (flV f) t ∧
       halfResult 0x2E b = keep (if x.toInt ≤ a.toInt then x else a) (flV f) t ∧
       halfResult 0x2F b = keep (if x.toInt ≤ a.toInt then a else x) (flV f) t ∧
       halfResult 0x30 b = keep (if x.toNat ≤ a.toNat then x else a) (flV f) t ∧
       halfResult 0x31 b = keep (if x.toNat ≤ a.toNat then a else x) (flV f) t) ∧
     (b.oc = a :: t →
       halfResult 0x24 b = diff (0 - a) 0 a.toNat (0 - a.toInt) t ∧
       halfResult 0x25 b = sum (a + 1) (a.toNat + 1) (a.toInt + 1) t ∧
       halfResult 0x26 b = diff (a - 1) a.toNat 1 (a.toInt - 1) t ∧
       halfResult 0x32 b = keep (BitVec.ofInt 64 |a.toInt|) (decide (a.toInt = -(2 ^ 63))) t)) ∧
  (∀ (b : Bank) (a x : W64) (t : List W64),
     let put (r : W64) (t : List W64) : Bank :=
       { b with oc := r :: t, flags := mkFlags (flT b.flags) (r == 0) (decide (r.toInt < 0)) (flC b.flags) (flV b.flags) }
     let n := a.toNat % 64
     (b.oc = a :: x :: t →
       halfResult 0x38 b = put (x &&& a) t ∧ halfResult 0x39 b = put (x ||| a) t ∧ halfResult 0x3A b = put (x ^^^ a) t ∧
       halfResult 0x3B b = put (x &&& ~~~ a) t ∧ halfResult 0x3D b = put (BitVec.ofNat 64 (x.toNat * 2 ^ n)) t ∧
       halfResult 0x3E b = put (BitVec.ofNat 64 (x.toNat / 2 ^ n)) t ∧ halfResult 0x3F b = put (BitVec.ofInt 64 (x.toInt / 2 ^ n)) t ∧
       halfResult 0x40 b = put (BitVec.ofNat 64 (x.toNat * 2 ^ n + x.toNat / 2 ^ (64 - n))) t ∧
       halfResult 0x41 b = put (BitVec.ofNat 64 (x.toNat / 2 ^ n + x.toNat * 2 ^ (64 - n))) t) ∧
     (b.oc = a :: t →
       halfResult 0x3C b = put (~~~ a) t ∧ halfResult 0x46 b = put ((a.truncate 32).signExtend 64) t ∧
       halfResult 0x47 b = put (BitVec.ofNat 64 (a.toNat % 2 ^ 32)) t ∧
       (∃ r, halfResult 0x42 b = put r t ∧ r.toNat = ((List.range 64).map (fun i => b2n (a.getLsbD i))).sum) ∧
       (∃ r, halfResult 0x43 b = put r t ∧ r.toNat ≤ 64 ∧ (∀ i, 64 - r.toNat ≤ i → a.getLsbD i = false) ∧
         (r.toNat < 64 → a.getLsbD (63 - r.toNat) = true)) ∧
       (∃ r, halfResult 0x44 b = put r t ∧ r.toNat ≤ 64 ∧ (∀ i, i < r.toNat → a.getLsbD i = false) ∧
         (r.toNat < 64 → a.getLsbD r.toNat = true)) ∧
       ∃ r, halfResult 0x45 b = put r t ∧ ∀ i, i < 64 → r.getLsbD i = a.getLsbD (8 * (7 - i / 8) + i % 8)))

/-- R231, R254: a compare writes Z, N, C and V as a subtraction does and T as its relation's truth, and pops both cells; the tests and the
truth operations. -/
def Obligations.CompareResults : Prop :=
  ∀ (b : Bank) (a x : W64) (t : List W64),
    let f := b.flags
    let cmp (h : Bool) : Bank :=
      { b with oc := t, flags := mkFlags h (x == a) (decide ((x - a).toInt < 0)) (decide (a.toNat ≤ x.toNat)) (decide ((x - a).toInt ≠ x.toInt - a.toInt)) }
    let test : Flg := mkFlags (a != 0) (a == 0) (decide (a.toInt < 0)) (flC f) (flV f)
    (b.oc = a :: x :: t →
      halfResult 0x50 b = cmp (x == a) ∧ halfResult 0x51 b = cmp (x != a) ∧
      halfResult 0x52 b = cmp (decide (x.toInt < a.toInt)) ∧ halfResult 0x53 b = cmp (decide (x.toInt ≤ a.toInt)) ∧
      halfResult 0x54 b = cmp (decide (x.toInt > a.toInt)) ∧ halfResult 0x55 b = cmp (decide (x.toInt ≥ a.toInt)) ∧
      halfResult 0x56 b = cmp (decide (x.toNat < a.toNat)) ∧ halfResult 0x57 b = cmp (decide (x.toNat ≤ a.toNat)) ∧
      halfResult 0x58 b = cmp (decide (x.toNat > a.toNat)) ∧ halfResult 0x59 b = cmp (decide (x.toNat ≥ a.toNat)) ∧
      halfResult 0x60 b = { b with oc := (if flT f then x else a) :: t }) ∧
    (b.oc = a :: t → halfResult 0x5A b = { b with oc := t, flags := test } ∧ halfResult 0x5B b = { b with flags := test }) ∧
    halfResult 0x5C b = { b with oc := (if flT f then 1 else 0) :: b.oc } ∧
    halfResult 0x5D b = { b with flags := mkFlags true (flZ f) (flN f) (flC f) (flV f) } ∧
    halfResult 0x5E b = { b with flags := mkFlags false (flZ f) (flN f) (flC f) (flV f) } ∧
    halfResult 0x5F b = { b with flags := mkFlags (!flT f) (flZ f) (flN f) (flC f) (flV f) }

/-- R214, R231: the eight conditions over FLAGS, and LT, GE and CS read after a compare agree with the signed and unsigned relations. -/
def Obligations.ConditionsAfterCompare : Prop :=
  (∀ t z n c v : Bool,
    condHolds 0 (mkFlags t z n c v) = true ∧ condHolds 1 (mkFlags t z n c v) = t ∧ condHolds 2 (mkFlags t z n c v) = !t ∧
    condHolds 3 (mkFlags t z n c v) = z ∧ condHolds 4 (mkFlags t z n c v) = !z ∧ condHolds 5 (mkFlags t z n c v) = (n != v) ∧
    condHolds 6 (mkFlags t z n c v) = (n == v) ∧ condHolds 7 (mkFlags t z n c v) = c) ∧
  ∀ (code : Nat) (b : Bank) (a x : W64) (t : List W64), 0x50 ≤ code → code ≤ 0x59 → b.oc = a :: x :: t →
    let f := (halfResult code b).flags
    condHolds 5 f = decide (x.toInt < a.toInt) ∧ condHolds 6 f = decide (a.toInt ≤ x.toInt) ∧ condHolds 7 f = decide (a.toNat ≤ x.toNat) ∧
    condHolds 3 f = decide (x = a)

/-! ## Literals, control words, addition of an immediate value -/

/-- R216, R233: LIT pushes its sign-extended field, LITX shifts ten bits in, ADDI adds its sign-extended field with the flags of an addition;
LIT and LITX write no flag. -/
def Obligations.LiteralsAndAddi : Prop :=
  ∀ (p : PCtx) (f : BitVec 10) (s s1 : State), condHolds p.cond (bank p.core s1).flags = true →
    (Ready p (longParcel p.cond 0x01 f) nopParcel s s1 → (bank p.core s1).oc.length < 32 →
      exec (.lit p f) s =
        .next (ends p.core (putBank p.core { bank p.core s1 with oc := BitVec.ofInt 64 f.toInt :: (bank p.core s1).oc } s1))) ∧
    ∀ (x : W64) (t : List W64), (bank p.core s1).oc = x :: t → takesPending (s1.core p.core).pendingCell 1 (bank p.core s1) = false →
      (Ready p (longParcel p.cond 0x02 f) nopParcel s s1 →
        exec (.litx p f) s =
          .next (ends p.core (putBank p.core { bank p.core s1 with oc := BitVec.ofNat 64 (x.toNat * 2 ^ 10 + f.toNat) :: t } s1))) ∧
      (Ready p (longParcel p.cond 0x03 f) nopParcel s s1 →
        let i : W64 := BitVec.ofInt 64 f.toInt
        exec (.addi p f) s =
          .next (ends p.core (putBank p.core { bank p.core s1 with
            oc := (x + i) :: t
            flags := mkFlags (flT (bank p.core s1).flags) (x + i == 0) (decide ((x + i).toInt < 0)) (decide (2 ^ 64 ≤ x.toNat + i.toNat))
              (decide ((x + i).toInt ≠ x.toInt + f.toInt)) } s1)))

/-- R199: CWR pushes the committed value of the control word its field names, from the level that may read it; below it PRIV is raised, and a
reserved number raises ILLEGAL.
R199, R278: CWW pops its cell and commits it to the control word its field names, from the level that may write it; below it PRIV is
raised, and a reserved number raises ILLEGAL. -/
def Obligations.ControlWordReadsAndWrites : Prop :=
  (∀ (p : PCtx) (f : BitVec 10) (s s1 : State), Ready p (longParcel p.cond 0x04 f) nopParcel s s1 →
     condHolds p.cond (bank p.core s1).flags = true →
     (∀ e ∈ controlWords (s1.core p.core), f.toNat = e.1 →
       (e.2.2.1 ≤ (s1.core p.core).pl → (bank p.core s1).oc.length < 32 →
         exec (.cwr p f) s = .next (ends p.core (putBank p.core { bank p.core s1 with oc := e.2.1 :: (bank p.core s1).oc } s1))) ∧
       ((s1.core p.core).pl < e.2.2.1 → entryFree p.core s1 → exec (.cwr p f) s = .next (raises p.core excPriv s1))) ∧
     ((∀ e ∈ controlWords (s1.core p.core), f.toNat ≠ e.1) → entryFree p.core s1 → exec (.cwr p f) s = .next (raises p.core excIllegal s1))) ∧
  (∀ (p : PCtx) (f : BitVec 10) (s s1 : State), Ready p (longParcel p.cond 0x05 f) nopParcel s s1 →
     condHolds p.cond (bank p.core s1).flags = true →
     (∀ e ∈ controlWords (s1.core p.core), f.toNat = e.1 →
       (e.2.2.2 ≤ (s1.core p.core).pl → ∀ v t, (bank p.core s1).oc = v :: t → takesPending (s1.core p.core).pendingCell 1 (bank p.core s1) = false →
         exec (.cww p f) s =
           .next (ends p.core (withCore p.core (fun k => k.writeCw e.1 v) (putBank p.core { bank p.core s1 with oc := t } s1)))) ∧
       ((s1.core p.core).pl < e.2.2.2 → entryFree p.core s1 → exec (.cww p f) s = .next (raises p.core excPriv s1))) ∧
     ((∀ e ∈ controlWords (s1.core p.core), f.toNat ≠ e.1) → entryFree p.core s1 → exec (.cww p f) s = .next (raises p.core excIllegal s1)))

/-- R278: a write of STATUS, TASKID, FENTRY, PTROOT or a SEG word commits while the value in force stays the old one until a SYNC point makes
the committed one the value in force; any other control word's new value is in force at once. -/
def Obligations.LatentControlWords : Prop :=
  ∀ (k : Core) (v : W64), ∀ e ∈ controlWords k,
    let n := e.1
    let k1 := k.writeCw n v
    (n = 0x000 ∨ n = 0x003 ∨ n = 0x018 ∨ 0x020 ≤ n → k1.inForce n = k.inForce n) ∧
    (¬ (n = 0x000 ∨ n = 0x003 ∨ n = 0x018 ∨ 0x020 ≤ n) → Tab.find k.latent n = none → k1.inForce n = cwWritten n e.2.1 v) ∧
    (n ≠ 0x003 → k1.cw n = some (cwWritten n e.2.1 v) ∧ k1.sync.inForce n = cwWritten n e.2.1 v) ∧
    (n = 0x003 → k1.tag = v.truncate 16 ∧ ∀ m, m ≠ 3 → k1.cw m = k.cw m)

/-! ## Memory -/

/-- R210, R211, R341: every pair that is no solo operation executes its halves in order on one frame, whose effects are made together; what
the first half raises comes before what the second does, and then neither has an effect. -/
def Obligations.PairsExecuteBothHalves : Prop :=
  ∀ row ∈ halfRows, ∀ (p : PCtx) (sb : BitVec 8) (s s1 : State),
    Ready p (pairParcel p.cond row.2 sb) nopParcel s s1 → codeIllegal (pairParcel p.cond row.2 sb) = false →
    condHolds p.cond (bank p.core s1).flags = true →
    (∀ (fr1 fr2 : Fr) (s2 s3 s4 : State), shortHalf p.core row.2 (s1.core p.core).frame s1 = .ok fr1 s2 →
      shortHalf p.core sb.toNat fr1 s2 = .ok fr2 s3 → commit p.core (fr2.soiled (bank p.core s1) fr1.b) s3 = .ok () s4 →
      exec (row.1 p sb) s = .next (ends p.core (countPair p.core row.2 sb.toNat s4))) ∧
    (∀ (e : Exc) (s2 : State), shortHalf p.core row.2 (s1.core p.core).frame s1 = .exc e s2 → entryFree p.core s2 →
      exec (row.1 p sb) s = .next (raises p.core e s2)) ∧
    ∀ (fr1 : Fr) (e : Exc) (s2 s3 : State), shortHalf p.core row.2 (s1.core p.core).frame s1 = .ok fr1 s2 →
      shortHalf p.core sb.toNat fr1 s2 = .exc e s3 → entryFree p.core s3 → exec (row.1 p sb) s = .next (raises p.core e s3)

/-- R232, R233, R234, R255: a load takes its address and leaves the value read, extended; LD64P leaves the address advanced by 8 below it,
LDC reads at base + 8 × OFF, and raises SEG where bits [63:48] of the base cell are not 0.
R232: a value read has no bit above its width, and extension gives its signed or its unsigned value in 64 bits. -/
def Obligations.LoadsPushTheirValue : Prop :=
  (∀ (p : PCtx) (s s1 s2 : State) (addr v : W64) (t : List W64) (acc : List DAcc),
     condHolds p.cond (bank p.core s1).flags = true → (bank p.core s1).oc = addr :: t →
     takesPending (s1.core p.core).pendingCell 1 (bank p.core s1) = false → (s2.core p.core).sb.length ≤ 16 →
     (∀ row ∈ loadRows, Ready p (pairParcel p.cond row.2.1 0) nopParcel s s1 → (row.2.2.2.2 = true → t.length ≤ 30) →
       loadBytes p.core 1 addr row.2.2.1 needRead false s1 = .ok (v, acc) s2 →
       exec (row.1 p 0) s = .next (ends p.core (committed p.core (marked (bank p.core s1) { bank p.core s1 with
         oc := extend row.2.2.1 row.2.2.2.1 v :: (if row.2.2.2.2 then (addr + 8) :: t else t) }) [] acc s2))) ∧
     (∀ (f : BitVec 10) (n : Nat) (sg : Bool), Ready p (longParcel p.cond 0x10 f) nopParcel s s1 → f.toNat % 8 = 0 →
       (f.toNat / 8 % 8, n, sg) ∈ [(0, 1, false), (1, 1, true), (2, 2, false), (3, 2, true), (4, 4, false), (5, 4, true), (6, 8, false)] →
       loadBytes p.core (f.toNat / 64) addr n needRead false s1 = .ok (v, acc) s2 →
       exec (.ld p f) s = .next (ends p.core (committed p.core { bank p.core s1 with oc := extend n sg v :: t } [] acc s2))) ∧
     (∀ f : BitVec 10, Ready p (longParcel p.cond 0x12 f) nopParcel s s1 → addr.toNat < 2 ^ 48 →
       loadBytes p.core (f.toNat / 64) (addr + BitVec.ofNat 64 (8 * (f.toNat % 64))) 8 needRead false s1 = .ok (v, acc) s2 →
       exec (.ldc p f) s = .next (ends p.core (committed p.core { bank p.core s1 with oc := v :: t } [] acc s2))) ∧
     ∀ f : BitVec 10, Ready p (longParcel p.cond 0x12 f) nopParcel s s1 → 2 ^ 48 ≤ addr.toNat → entryFree p.core s1 →
       exec (.ldc p f) s = .next (raises p.core (excSeg (f.toNat / 64) ((addr.toNat + 8 * (f.toNat % 64)) % 2 ^ 48)) s1)) ∧
  ((∀ (c : CoreId) (sel : Nat) (addr : W64) (n : Nat) (need : XNeed) (locked : Bool) (s s' : State) (v : W64) (acc : List DAcc),
     1 ≤ n → n ≤ 8 → loadBytes c sel addr n need locked s = .ok (v, acc) s' → v.toNat < 2 ^ (8 * n)) ∧
   ∀ n ∈ [1, 2, 4, 8], ∀ v : W64, v.toNat < 2 ^ (8 * n) →
     extend n false v = v ∧ (extend n true v).toInt = if v.toNat < 2 ^ (8 * n - 1) then (v.toNat : Int) else v.toNat - 2 ^ (8 * n))

/-- R232, R233, R255, R275: a store takes its address and its value, and its entries join the store buffer; ST64P leaves the address advanced
by 8, STC stores at base + 8 × OFF.
R232, R276: the bytes of a store that lies in one aligned word, as later loads find them in the store buffer: the low bytes of the value,
the lowest at the address, and no byte outside them. -/
def Obligations.StoresEnterTheStoreBuffer : Prop :=
  (∀ (p : PCtx) (s s1 s2 : State) (addr v : W64) (t : List W64) (es : List SbEntry) (acc : List DAcc),
     condHolds p.cond (bank p.core s1).flags = true → (bank p.core s1).oc = addr :: v :: t →
     takesPending (s1.core p.core).pendingCell 2 (bank p.core s1) = false → (sbAdd (s2.core p.core).sb es).length ≤ 16 →
     (∀ row ∈ storeRows, Ready p (pairParcel p.cond row.2.1 0) nopParcel s s1 → storeBytes p.core 1 addr row.2.2.1 v s1 = .ok (es, acc) s2 →
       exec (row.1 p 0) s =
         .next (ends p.core (committed p.core (marked (bank p.core s1) { bank p.core s1 with oc := if row.2.2.2 then (addr + 8) :: t else t }) es acc s2))) ∧
     (∀ f : BitVec 10, Ready p (longParcel p.cond 0x11 f) nopParcel s s1 → f.toNat % 16 = 0 →
       storeBytes p.core (f.toNat / 64) addr (2 ^ (f.toNat / 16 % 4)) v s1 = .ok (es, acc) s2 →
       exec (.st p f) s = .next (ends p.core (committed p.core { bank p.core s1 with oc := t } es acc s2))) ∧
     ∀ f : BitVec 10, Ready p (longParcel p.cond 0x13 f) nopParcel s s1 → addr.toNat < 2 ^ 48 →
       storeBytes p.core (f.toNat / 64) (addr + BitVec.ofNat 64 (8 * (f.toNat % 64))) 8 v s1 = .ok (es, acc) s2 →
       exec (.stc p f) s = .next (ends p.core (committed p.core { bank p.core s1 with oc := t } es acc s2))) ∧
  (∀ (c : CoreId) (sel : Nat) (addr v : W64) (n lin pa : Nat) (s s2 : State), 1 ≤ n → n ≤ 8 →
     segLinear (s.core c) (s.core c).pl .write sel addr n = some lin → lin % 8 + n ≤ 8 → pa % 8 + n ≤ 8 → pa < 2 ^ 52 →
     dataXlate c (s.core c).pl lin needWrite false false s = .ok pa s2 →
     ∃ es acc, storeBytes c sel addr n v s = .ok (es, acc) s2 ∧
       (∀ j, j < n → sbByte es (pa + j) = some (v.extractLsb' (8 * j) 8)) ∧ ∀ a, a < pa ∨ pa + n ≤ a → sbByte es a = none)

/-- R238 to R240: LOCK reads its aligned word and reserves its line; UNLOCK writes only while the reservation holds, says so in T, and ends the
reservation; a misaligned address or segment BASE (notes/assumptions/67.md) raises ALIGN. A word that this tile's banks hold is read and written
at a grant: LOCK's reservation then stands from the grant on, and UNLOCK waits for the answer of its write (R258). -/
def Obligations.LockAndUnlock : Prop :=
  ∀ (p : PCtx) (f : BitVec 10) (s s1 : State) (addr : W64) (pa : Nat), condHolds p.cond (bank p.core s1).flags = true → f.toNat % 64 = 0 →
    let base := segBase ((s1.core p.core).segNow (f.toNat / 64)).1
    (∀ (v : W64) (t : List W64) (s2 : State), Ready p (longParcel p.cond 0x18 f) nopParcel s s1 → (bank p.core s1).oc = addr :: t →
      takesPending (s1.core p.core).pendingCell 1 (bank p.core s1) = false →
      (addr.toNat % 8 = 0 → base % 8 = 0 → lockXlate p.core (f.toNat / 64) .read needLock addr s1 = .ok pa s1 →
        readBytes p.core (s1.core p.core).pl pa 8 true false true s1 = .ok v s2 → (s2.core p.core).sb.length ≤ 16 →
        let t2 := committed p.core { bank p.core s1 with oc := v :: t } [] [⟨false, 8, pa, v⟩] s2
        let granted := (ownBankWord s1 pa).isSome && (s1.core p.core).got.any (fun g => g.word == pa / 8)
        exec (.lock p f) s = .next (ends p.core
          (if granted then t2 else withCore p.core (fun k => { k with lockRes := some (BitVec.ofNat 46 (pa / 64)) }) t2))) ∧
      (addr.toNat % 8 ≠ 0 ∨ base % 8 ≠ 0 → entryFree p.core s1 → exec (.lock p f) s = .next (raises p.core (excAlign (f.toNat / 64) (addr.toNat % 2 ^ 48)) s1))) ∧
    ∀ (v : W64) (t : List W64), Ready p (longParcel p.cond 0x19 f) nopParcel s s1 → (bank p.core s1).oc = addr :: v :: t →
      takesPending (s1.core p.core).pendingCell 2 (bank p.core s1) = false →
      (addr.toNat % 8 = 0 → base % 8 = 0 → lockXlate p.core (f.toNat / 64) .write needWrite addr s1 = .ok pa s1 →
        let holds : Prop := (s1.core p.core).lockRes = some (BitVec.ofNat 46 (pa / 64)) ∧ rivalStore s1 p.core (pa / 64) = false
        let own := (ownBankWord s1 pa).isSome
        (own = true → (s1.core p.core).got.find? (fun g => g.word == pa / 8) = none ∧ s1.vs.reqs.any (fun r => r.dest == .unlock p.core (pa / 8)) = false) →
        (¬ holds →
          exec (.unlock p f) s = .next (ends p.core (withCore p.core (fun k => { k with lockRes := none })
            (putBank p.core { bank p.core s1 with oc := t, flags := withT (bank p.core s1).flags false } s1)))) ∧
        (holds → (s1.core p.core).sb = [] → own = false →
          exec (.unlock p f) s = .next (ends p.core (withCore p.core (fun k => { k with lockRes := none }) (unlockWrite p.core pa v
            (committed p.core { bank p.core s1 with oc := t, flags := withT (bank p.core s1).flags true } [] [⟨true, 8, pa, v⟩] s1))))) ∧
        ∀ w, holds → (s1.core p.core).sb = [] → ownBankWord s1 pa = some w →
          exec (.unlock p f) s = .next (holdParcel p.core .vs (present [bankReq 15 w (.write v 255 false) ((s1.core p.core).pl == 2)
            (.unlock p.core (pa / 8))] (voidDet p.core s1)))) ∧
      (addr.toNat % 8 ≠ 0 ∨ base % 8 ≠ 0 → entryFree p.core s1 → exec (.unlock p f) s = .next (raises p.core (excAlign (f.toNat / 64) (addr.toNat % 2 ^ 48)) s1))

/-- R252, R262: a divide by a divisor other than 0 leaves its result's cell pending while the divide unit works, a divisor of 0 raises DIVZ;
DIVIDE_RESULT ends the wait.
R262: the divide unit's result ends the wait of the parcel that is held for it. -/
def Obligations.Divides : Prop :=
  (∀ (p : PCtx) (s s1 : State) (a x : W64) (t : List W64), condHolds p.cond (bank p.core s1).flags = true →
     (bank p.core s1).oc = a :: x :: t → (s1.core p.core).divide = none →
     let f := (bank p.core s1).flags
     let sv := decide (x.toInt = -(2 ^ 63) ∧ a.toInt = -1)
     let divided (r : W64) (v : Bool) : State :=
       setCore p.core { (s1.core p.core).putRun { bank p.core s1 with
           oc := r :: t, flags := mkFlags (flT f) (r == 0) (decide (r.toInt < 0)) (flC f) v } with
         divide := some ⟨(s1.core p.core).level, t.length + (bank p.core s1).osp.toNat⟩ } s1
     (Ready p (pairParcel p.cond 0x2A 0) nopParcel s s1 → a ≠ 0 →
       exec (.divu p 0) s = .next (ends p.core (divided (BitVec.ofNat 64 (x.toNat / a.toNat)) (flV f)))) ∧
     (Ready p (pairParcel p.cond 0x2B 0) nopParcel s s1 → a ≠ 0 →
       exec (.divs p 0) s = .next (ends p.core (divided (BitVec.ofInt 64 (Int.tdiv x.toInt a.toInt)) sv))) ∧
     (Ready p (pairParcel p.cond 0x2C 0) nopParcel s s1 → a ≠ 0 →
       exec (.modu p 0) s = .next (ends p.core (divided (BitVec.ofNat 64 (x.toNat % a.toNat)) (flV f)))) ∧
     (Ready p (pairParcel p.cond 0x2D 0) nopParcel s s1 → a ≠ 0 →
       exec (.mods p 0) s = .next (ends p.core (divided (BitVec.ofInt 64 (Int.tmod x.toInt a.toInt)) sv))) ∧
     (∀ row ∈ divideRows, Ready p (pairParcel p.cond row.2 0) nopParcel s s1 → a = 0 → entryFree p.core s1 → exec (row.1 p 0) s = .next (raises p.core excDivz s1))) ∧
  (∀ (c : CoreId) (s : State), dclkRuns s c = true → (s.core c).divide ≠ none →
     exec (.divideResult c) s =
       .next (stepEnd c (retryWhen (fun w => w == .divide) c (withCore c (fun k => { k with divide := none }) s))))

/-! ## Flow of control -/

/-- R217, R235, R236: each transfer whose condition holds awaits its delay parcel with its target, checked for all but RET; CALL and CALLX push
the address after the delay parcel; ERET awaits its delay parcel too, which is the canonical no-operation parcel, and raises ILLEGAL at any other. -/
def Obligations.TransfersAwaitTheirDelayParcel : Prop :=
  ∀ (p : PCtx) (f : BitVec 10) (nxt : BitVec 20) (s s1 : State), isTransfer nxt = false → isRep nxt = false →
    condHolds p.cond (bank p.core s1).flags = true →
    let c := p.core
    let pc := (s.core c).pc
    let near := advance pc f.toInt
    let ret : W64 := (advance pc 2).zeroExtend 64
    (Ready p (longParcel p.cond 0x08 f) nxt s s1 →
      exec (.br p f nxt) s = .next (beforeDelay c true near true (traceBranch c near (loopBr c pc near true s1)))) ∧
    (Ready p (longParcel p.cond 0x09 f) nxt s s1 → (bank c s1).rc.length < 32 →
      exec (.call p f nxt) s = .next (beforeDelay c true near true (traceBranch c near (pastLoop c
        (putBank c { bank c s1 with rc := ret :: (bank c s1).rc } s1))))) ∧
    (∀ x t, (bank c s1).oc = x :: t → takesPending (s1.core c).pendingCell 1 (bank c s1) = false →
      (Ready p (pairParcel p.cond 0x80 0) nxt s s1 →
        exec (.brx p 0 nxt) s = .next (beforeDelay c true (x.truncate 48) true (traceBranch c (x.truncate 48) (pastLoop c
          (putBank c { bank c s1 with oc := t } s1))))) ∧
      (Ready p (pairParcel p.cond 0x81 0) nxt s s1 → (bank c s1).rc.length < 32 →
        exec (.callx p 0 nxt) s = .next (beforeDelay c true (x.truncate 48) true (traceBranch c (x.truncate 48) (pastLoop c
          (putBank c { bank c s1 with oc := t, rc := ret :: (bank c s1).rc } s1)))))) ∧
    (∀ x t, (bank c s1).rc = x :: t → Ready p (pairParcel p.cond 0x82 0) nxt s s1 →
      exec (.ret p 0 nxt) s = .next (beforeDelay c true (x.truncate 48) false (traceBranch c (x.truncate 48) (pastLoop c
        (putBank c { bank c s1 with rc := t } s1))))) ∧
    (Ready p (longParcel p.cond 0x30 0) nopParcel s s1 → 1 ≤ (s1.core c).pl →
      exec (.eret p 0 nopParcel) s = .next (stepEnd c (withCore c (fun k => { k with
        pc := advance k.pc 1, delay := some ⟨k.pc, true, 0, false, true⟩, held := none }) s1))) ∧
    (Ready p (longParcel p.cond 0x30 0) nxt s s1 → nxt ≠ nopParcel → entryFree c s1 → exec (.eret p 0 nxt) s = .next (raises c excIllegal s1))

/-- R351 to R354: SVC and FRTN change FPC or return to it, FSTAT and STATUS as their rules say, clear the reservation and apply every latent
write; execution goes on at once at FENTRY, whose entry mark is checked, or at FPC.
R347: what ERET restores once its delay parcel has run: the level K and its STATUS, never above the level and the HOLD in force, LIVE of the
bank it leaves cleared, and execution at EPC, as a repetition or with a pending target where ESTAT says so. -/
def Obligations.FastCallsAndReturns : Prop :=
  (∀ (p : PCtx) (f : BitVec 10) (s s1 : State), condHolds p.cond (bank p.core s1).flags = true →
     let c := p.core
     let k := ((s1.core c).sync).leaveLoop
     let b := k.run
     (Ready p (longParcel p.cond 0x0C f) nopParcel s s1 →
       let target : BitVec 48 := k.fentry.truncate 48
       let epl := if fieldAt 48 2 k.fentry = 2 then 2 else 1
       exec (.svc p f) s = .next (stepEnd c (dropHeld c (traceBranch c target (setCore c
         { (k.putRun { b with
             fpc := advance (s.core c).pc 1
             fstat := BitVec.ofNat 64 (b.status.toNat + 2 ^ 8 + (if bitAt 8 b.fstat then 2 ^ 9 else 0) + f.toNat * 2 ^ 16)
             status := mkStatusWord (Nat.max (b.status.toNat % 4) epl) (b.status.getLsbD 2) k.level.toNat }).goTo target with
           lockRes := none, chk := some (s.core c).pc } s1))))) ∧
     (Ready p (longParcel p.cond 0x31 0) nopParcel s s1 → 1 ≤ (s1.core c).pl →
       let pl := (s1.core c).pl
       let saved := bitAt 2 b.fstat
       exec (.frtn p 0) s = .next (stepEnd c (dropHeld c (traceBranch c b.fpc (setCore c
         { (k.putRun { b with
             status := mkStatusWord (Nat.min (b.fstat.toNat % 4) pl) (if pl = 2 then saved else saved && (s1.core c).hold) k.level.toNat
             fstat := b.fstat &&& ~~~ (0x100 : W64) }).goTo b.fpc with lockRes := none } s1)))))) ∧
  (∀ (c : CoreId) (s : State),
     let k0 := s.core c
     let b := k0.bank k0.level
     let e := b.estat
     let t := doEret c s
     let k := t.core c
     let lev := if fieldAt 36 3 e ≤ k0.level.toNat then fieldAt 36 3 e else k0.level.toNat
     k.level.toNat = lev ∧
     (k.bank k.level).status = mkStatusWord (Nat.min (fieldAt 32 2 e) k0.pl) (if k0.pl = 2 then bitAt 34 e else bitAt 34 e && k0.hold) lev ∧
     (k.bank k0.level).estat = e &&& ~~~ (0x4000 : W64) ∧ k.latent = [] ∧ k.lockRes = none ∧ k.pc = b.epc ∧ k.st = .running ∧
     k.repResume = bitAt 10 e ∧ k.delay = (if bitAt 9 e && !bitAt 10 e then some ⟨b.epc, true, b.etarget, false, false⟩ else none) ∧
     k.chk = none ∧ t.evc = s.evc)

/-- R203, R217, R221, R228: where execution goes on after a parcel that is done: the next iteration of a repetition or past it, the pending
target with its entry check, the parcel after the delay parcel of a transfer not taken, or the next parcel. -/
def Obligations.ExecutionGoesOn : Prop :=
  ∀ (c : CoreId) (s : State),
    let k := s.core c
    (∀ pa n, advance pa n = BitVec.ofInt 48 ((((pa.toNat / 16 * 6 + pa.toNat % 16 : Nat) : Int) + n) / 6 * 16 +
      (((pa.toNat / 16 * 6 + pa.toNat % 16 : Nat) : Int) + n) % 6)) ∧
    (k.rep = none → k.delay = none → followOn c s = setCore c { k with pc := advance k.pc 1 } s) ∧
    (∀ d, k.rep = none → k.delay = some d → d.eret = false →
      followOn c s = setCore c (if d.taken then { k with delay := none, pc := d.target, chk := if d.check then some d.src else none, code := none }
        else { k with delay := none, pc := advance k.pc 1 }) s) ∧
    (∀ d, k.rep = none → k.delay = some d → d.eret = true → followOn c s = doEret c (setCore c { k with delay := none } s)) ∧
    ∀ r, k.rep = some r →
      let n := k.run.loopcnt.toNat - 1
      let k1 := k.putRun { k.run with loopcnt := BitVec.ofNat 32 n }
      followOn c s = setCore c (if n = 0 then { k1 with rep := none, pc := advance k.pc 1 } else { k1 with rep := some { r with first := false, mid := false } }) s

/-- R362, R368, R369: ACK takes one arrival off the counter of the source it pops, EOS ends the service of the level on top of the priority stack
and raises PRIOFAULT for any other, WAIT stops issue or gives up the running task slot unless an arrival is waiting for it. -/
def Obligations.EventOperations : Prop :=
  ∀ (p : PCtx) (f : BitVec 10) (s s1 : State), condHolds p.cond (bank p.core s1).flags = true → 1 ≤ (s1.core p.core).pl →
    (s1.core p.core).divide = none →
    let c := p.core
    let x := s1.evc.get c
    let k := s1.core c
    (∀ v t, Ready p (longParcel p.cond 0x34 0) nopParcel s s1 → (bank c s1).oc = v :: t →
      exec (.ack p 0) s = .next (ends c { putBank c { bank c s1 with oc := t } s1 with
        ev := Tab.modify evSrc0 s1.ev (v.toNat % 512) (fun e => { e with cnt := BitVec.ofNat 8 (e.cnt.toNat - 1) }) })) ∧
    (Ready p (longParcel p.cond 0x35 f) nopParcel s s1 → f.toNat < 8 →
      (x.active ≠ 0 → topOf x.active = f.toNat →
        exec (.eos p f) s = .next (ends c { s1 with evc := s1.evc.set c { x with active := x.active &&& ~~~ BitVec.ofNat 8 (2 ^ f.toNat) } })) ∧
      (x.active = 0 ∨ topOf x.active ≠ f.toNat → entryFree c s1 → exec (.eos p f) s = .next (raises c (excPriofault f.toNat) s1))) ∧
    (Ready p (longParcel p.cond 0x38 0) nopParcel s s1 →
      (k.level ≠ 0 ∨ k.sched.en = false ∨ k.sched.runningSlot = none →
        exec (.wait p 0) s = .next (stepEnd c (giveUpSlot c (followOn c (dropHeld c s1))))) ∧
      ∀ i, k.level = 0 → k.sched.en = true → k.sched.runningSlot = some i →
        ((k.sched.at i).tcnt ≠ 0 →
          exec (.wait p 0) s = .next (ends c (setCore c { k with sched := k.sched.put i { k.sched.at i with tcnt := (k.sched.at i).tcnt - 1 } } s1))) ∧
        ((k.sched.at i).tcnt = 0 → exec (.wait p 0) s = .next (stepEnd c (giveUpSlot c (followOn c (dropHeld c s1)))))) ∧
    ∀ s2 : State,
      ((s2.core c).level ≠ 0 ∨ (s2.core c).sched.en = false → giveUpSlot c s2 = withCore c (fun k => { k with st := .waiting }) s2) ∧
      ∀ i, (s2.core c).level = 0 → (s2.core c).sched.en = true → (s2.core c).sched.runningSlot = some i →
        giveUpSlot c s2 = withCore c (fun k => { k with
          st := .switching
          sched := { k.sched.put i { k.sched.at i with st := .waiting, pc := k.saved.epc, rpend := k.saved.rpend, chk := k.chk } with
            out := BitVec.ofNat 3 i } }) s2

/-- R220, R221, R256: REP sets LOOPCNT and begins its iterations, or passes the repeated parcel for a count of 0; SYNC makes every latent write
take effect; FENCE ends once the store buffer is empty and is held till then; BRK halts where the level permits it and raises BREAK elsewhere. -/
def Obligations.RepSyncFenceBrk : Prop :=
  ∀ (p : PCtx) (f : BitVec 10) (nxt : BitVec 20) (s s1 : State), condHolds p.cond (bank p.core s1).flags = true →
    (s1.core p.core).divide = none →
    let c := p.core
    let pc := (s.core c).pc
    let iterate (n : Nat) (s : State) : State := withCore c (fun k =>
      let k1 := k.putRun { k.run with loopcnt := BitVec.ofNat 32 n }
      if n = 0 then { k1 with pc := advance pc 2 } else { k1 with pc := advance pc 1, rep := some ⟨pc, f.getLsbD 9, true, false⟩ }) s
    (isTransfer nxt = false → isRep nxt = false → hasSolo nxt = false → Ready p (longParcel p.cond 0x3C f) nxt s s1 →
      (f.toNat % 512 ≠ 0 → exec (.rep p f nxt) s = .next (stepEnd c (dropHeld c (iterate (f.toNat % 512) s1)))) ∧
      ∀ x t, f.toNat % 512 = 0 → (bank c s1).oc = x :: t →
        exec (.rep p f nxt) s =
          .next (stepEnd c (dropHeld c (iterate (Nat.min x.toNat (2 ^ 32 - 1)) (putBank c { bank c s1 with oc := t } s1))))) ∧
    (Ready p (pairParcel p.cond 0x83 0) nopParcel s s1 →
      let s2 := withCore c (fun k => { k with latent := [], code := none, lbact := false }) s1
      exec (.sync p 0) s = .next (ends c (if (s1.core c).detOn && !(s1.core c).act.getLsbD 1 then flushDcache c s2 else s2))) ∧
    (Ready p (pairParcel p.cond 0x84 0) nopParcel s s1 →
      ((s1.core c).sb = [] → exec (.fence p 0) s = .next (ends c s1)) ∧
      ((s1.core c).sb ≠ [] → exec (.fence p 0) s = .next (holdParcel c .fence s1))) ∧
    (Ready p (pairParcel p.cond 0x85 0) nopParcel s s1 →
      (dbgLevel s1 ≠ 2 → entryFree c s1 → exec (.brk p 0) s = .next (raises c excBreak s1)) ∧
      (dbgLevel s1 = 2 →
        let s2 := followOn c (dropHeld c s1)
        exec (.brk p 0) s = .next (stepEnd c
          (if (s2.core c).chk.isSome then withDbg c (fun d => { d with brkDue := true }) s2 else haltCore c 2 s2))))

/-- R331, R332: at Monitor level, once the store buffer is empty, which each waits for, INVPG discards from every core TLB and the stream TLB the
entries of the page it names, INVALL every entry, and INVWALK every walk-cache entry; walks in flight are marked with what they lose, and nothing
else changes. INVWALK waits for the walks in flight, which leave no walk-cache entry. -/
def Obligations.Invalidations : Prop :=
  ∀ (p : PCtx) (s s1 : State), condHolds p.cond (bank p.core s1).flags = true → 2 ≤ (s1.core p.core).pl →
    (∀ x t, Ready p (longParcel p.cond 0x2C 0) nopParcel s s1 → (bank p.core s1).oc = x :: t →
      takesPending (s1.core p.core).pendingCell 1 (bank p.core s1) = false →
      ((s1.core p.core).sb = [] →
        exec (.invpg p 0) s = .next (ends p.core (discardPage (x.truncate 48) (putBank p.core { bank p.core s1 with oc := t } s1)))) ∧
      ((s1.core p.core).sb ≠ [] → exec (.invpg p 0) s = .next (holdParcel p.core .drain s1))) ∧
    (Ready p (longParcel p.cond 0x2D 0) nopParcel s s1 →
      ((s1.core p.core).sb = [] → exec (.invall p 0) s = .next (ends p.core (discardAll s1))) ∧
      ((s1.core p.core).sb ≠ [] → exec (.invall p 0) s = .next (holdParcel p.core .drain s1))) ∧
    (Ready p (longParcel p.cond 0x2E 0) nopParcel s s1 →
      ((s1.core p.core).sb = [] → exec (.invwalk p 0) s = .next (if walksLate (discardWalks s1) then holdParcel p.core .walks (discardWalks s1)
        else ends p.core (discardWalks s1))) ∧
      ((s1.core p.core).sb ≠ [] → exec (.invwalk p 0) s = .next (holdParcel p.core .drain s1))) ∧
    ∀ (c : CoreId) (lin : BitVec 48),
      (let k := s.core c
       let kp := (discardPage lin s).core c
       let ka := (discardAll s).core c
       let kw := (discardWalks s).core c
       (∀ e, e ∈ kp.tlb ↔ e ∈ k.tlb ∧ lin.toNat / 2 ^ levelBits e.level ≠ e.page) ∧ ka.tlb = [] ∧ kw.tlb = k.tlb ∧
       kp.wcache = k.wcache ∧ ka.wcache = k.wcache ∧ kw.wcache = [] ∧
       (∀ w ∈ kp.walks, lin ∈ w.inv) ∧ (∀ w ∈ ka.walks, w.stale = true) ∧ (∀ w ∈ kw.walks, w.late = true) ∧
       { kp with tlb := k.tlb, walks := k.walks } = k ∧ { ka with tlb := k.tlb, walks := k.walks } = k ∧ { kw with wcache := k.wcache, walks := k.walks } = k) ∧
      (∀ e, e ∈ (discardPage lin s).eng.tlb ↔ e ∈ s.eng.tlb ∧ lin.toNat / 2 ^ levelBits e.level ≠ e.page) ∧ (discardAll s).eng.tlb = [] ∧
      (∀ w ∈ (discardPage lin s).eng.walks, lin ∈ w.inv) ∧ (∀ w ∈ (discardAll s).eng.walks, w.stale = true) ∧
      { discardPage lin s with cores := s.cores, eng := s.eng } = s ∧ { discardAll s with cores := s.cores, eng := s.eng } = s ∧
      { discardWalks s with cores := s.cores } = s

/-- R247, R248: with no earlier store outstanding, VISSUE takes the lowest free status entry, captures the translation state, queues the chain
and leaves its ticket with T set; with no entry free it leaves all ones with T clear, or waits.
R249, R299: VWAIT leaves the four words of its ticket's waiting record with T set, and frees the entry with a chain's last record; for a
ticket that is not this context's, with no record and no wait asked for, or of an entry without a chain, it leaves four zero words with T clear;
otherwise it waits. -/
def Obligations.ChainIssueAndStatus : Prop :=
  (∀ (p : PCtx) (f : BitVec 10) (s s1 : State) (x : W64) (t : List W64) (prog : ProgAddr), condHolds p.cond (bank p.core s1).flags = true →
     Ready p (longParcel p.cond 0x20 f) nopParcel s s1 → f.toNat / 16 % 16 = 0 → (bank p.core s1).oc = x :: t →
     takesPending (s1.core p.core).pendingCell 1 (bank p.core s1) = false →
     progAddr p.core (f.getLsbD 9) (f.toNat % 16) x s1 = .ok prog s1 → (s1.core p.core).sb = [] →
     let c := p.core
     let b := bank c s1
     (∀ e : Fin 8, (s1.entry c e).taken = false → (∀ d : Fin 8, d < e → (s1.entry c d).taken = true) →
       let s2 := setEntry c e { entry0 with taken := true, prog := prog, cap := captureCore (s1.core c), stage := .queued }
         (putBank c { b with oc := BitVec.ofNat 64 e.val :: t, flags := withT b.flags true, cstage := b.cstage ||| BitVec.ofNat 8 (2 ^ e.val) } s1)
       exec (.vissue p f) s = .next (ends c { s2 with iq := s1.iq.set c (s1.iq.get c ++ [e]) })) ∧
     ((∀ d : Fin 8, (s1.entry c d).taken = true) →
       (f.getLsbD 8 = false → exec (.vissue p f) s =
         .next (ends c (putBank c { b with oc := BitVec.ofInt 64 (-1) :: t, flags := withT b.flags false } s1))) ∧
       (f.getLsbD 8 = true → exec (.vissue p f) s = .next (holdParcel c .entry s1)))) ∧
  (∀ (p : PCtx) (f : BitVec 10) (s s1 : State) (x : W64) (t : List W64), condHolds p.cond (bank p.core s1).flags = true →
     Ready p (longParcel p.cond 0x21 f) nopParcel s s1 → f.toNat = 0 ∨ f.toNat = 256 → (bank p.core s1).oc = x :: t → t.length ≤ 28 →
     takesPending (s1.core p.core).pendingCell 1 (bank p.core s1) = false →
     let c := p.core
     let b := bank c s1
     let nothing := ends c (putBank c { b with oc := 0 :: 0 :: 0 :: 0 :: t, flags := withT b.flags false } s1)
     (7 < x.toNat ∨ b.cstage.getLsbD x.toNat = false → exec (.vwait p f) s = .next nothing) ∧
     ∀ e : Fin 8, x.toNat = e.val → b.cstage.getLsbD e.val = true →
       let q := s1.entry c e
       (q.record = none → f.toNat = 0 → exec (.vwait p f) s = .next nothing) ∧
       (q.record = none → f.toNat = 256 → q.taken = false → exec (.vwait p f) s = .next nothing) ∧
       (q.record = none → f.toNat = 256 → q.taken = true → exec (.vwait p f) s = .next (holdParcel c .record s1)) ∧
       ∀ r, q.record = some r →
         let oc := r.w0 :: r.w1 :: r.w2 :: r.w3 :: t
         (q.final = false → exec (.vwait p f) s = .next (ends c (setEntry c e { q with record := none }
           (putBank c { b with oc := oc, flags := withT b.flags true } s1)))) ∧
         (q.final = true → exec (.vwait p f) s = .next (ends c (setEntry c e { q with taken := false, record := none, final := false }
           (putBank c { b with oc := oc, flags := withT b.flags true, cstage := b.cstage &&& ~~~ BitVec.ofNat 8 (2 ^ e.val) } s1)))))

/-- R241 to R243: with n = 0 MOVB pops its three cells; otherwise an element moves the bytes up to the end of the destination's aligned word,
both ends translated and checked before the read, and the cells advance, until none is left. A source byte that this MOVB has written before is
taken with its original value or with the written one. -/
def Obligations.MovbElements : Prop :=
  ∀ (p : PCtx) (f : BitVec 10) (s s1 : State) (n dst src : W64) (t : List W64), condHolds p.cond (bank p.core s1).flags = true →
    Ready p (longParcel p.cond 0x1C f) nopParcel s s1 → f.toNat % 4 = 0 → (bank p.core s1).oc = n :: dst :: src :: t →
    takesPending (s1.core p.core).pendingCell 3 (bank p.core s1) = false →
    let c := p.core
    (n = 0 → exec (.movb p f) s =
      .next (ends c (withCore c (fun k => { k with movb := none }) (putBank c { bank c s1 with oc := t } s1)))) ∧
    ∀ (ps : List (Nat × Nat)) (s2 s3 s4 : State) (v : W64) (acc : List DAcc) (u : List SbEntry × List DAcc),
      let ss := f.toNat / 64
      let ds := f.toNat / 4 % 16
      let len := Nat.min n.toNat (8 - dst.toNat % 8)
      let dlin := segBase ((s1.core c).segNow ds).1 + dst.toNat % 2 ^ 48
      let slin := segBase ((s1.core c).segNow ss).1 + src.toNat % 2 ^ 48
      let orig := movbOrig (s1.core c) src dst
      let m := mixBytes orig slin len v s4
      n ≠ 0 → loadPieces c ss src len needRead false s1 = .ok ps s2 → storeBytes c ds dst len 0 s2 = .ok u s3 →
      readPieces c len ps s3 = .ok (v, acc) s4 → ∀ es acc' s5, storeBytes c ds dst len m.1 m.2 = .ok (es, acc') s5 →
      let new := recordBytes c dlin len (slin + len) (slin + n.toNat) acc' s5
      let s6 := new.2
      (sbAdd (s6.core c).sb es).length ≤ 16 →
      let left := n - BitVec.ofNat 64 len
      let src' := src + BitVec.ofNat 64 len
      let dst' := dst + BitVec.ofNat 64 len
      (left = 0 → exec (.movb p f) s = .next (ends c (withCore c (fun k => { k with movb := none })
        (committed c { bank c s6 with oc := t } es (acc ++ acc') s6)))) ∧
      (left ≠ 0 → exec (.movb p f) s = .next (stepEnd c (doFlow c .more (dropHeld c
        (withCore c (fun k => { k with movb := some ⟨src', dst', orig.filter (fun e => slin + len ≤ e.1) ++ new.1⟩ })
          (committed c { bank c s6 with oc := left :: dst' :: src' :: t } es (acc ++ acc') s6)))))) ∧
      ∀ j, j < len → m.1.extractLsb' (8 * j) 8 = v.extractLsb' (8 * j) 8 ∨ ∃ e ∈ orig, e.1 = slin + j ∧ m.1.extractLsb' (8 * j) 8 = e.2

/-- R246: STM stores and LDM loads the cells that the mask names, the lowest bit first, at rising addresses, one cell an element: the mask's bit
is cleared and the address advanced, until no bit is left; a mask without bits pops the two cells; too few cells raise STKUNF, a misaligned address
or segment BASE (notes/assumptions/67.md) ALIGN. -/
def Obligations.CellBlocks : Prop :=
  ∀ (p : PCtx) (f : BitVec 10) (s s1 : State) (addr mask : W64) (t : List W64), condHolds p.cond (bank p.core s1).flags = true →
    f.toNat % 64 = 0 → (bank p.core s1).oc = addr :: mask :: t → (s1.core p.core).divide = none →
    let c := p.core
    let low (i : Nat) : Prop := i < 32 ∧ mask.getLsbD i = true ∧ ∀ j, j < i → mask.getLsbD j = false
    let high (j : Nat) : Prop := j < 32 ∧ mask.getLsbD j = true ∧ ∀ i, j < i → i < 32 → mask.getLsbD i = false
    let row (load : Bool) : Instr := if load then .ldm p f else .stm p f
    let base := segBase ((s1.core c).segNow (f.toNat / 64)).1
    let crooked : Prop := addr.toNat % 8 ≠ 0 ∨ base % 8 ≠ 0
    ∀ load : Bool, Ready p (longParcel p.cond (if load then 0x29 else 0x28) f) nopParcel s s1 →
      ((∀ i, i < 32 → mask.getLsbD i = false) →
        (¬ crooked → exec (row load) s = .next (ends c (putBank c { bank c s1 with oc := t } s1))) ∧
        (crooked → entryFree c s1 → exec (row load) s = .next (raises c (excAlign (f.toNat / 64) (addr.toNat % 2 ^ 48)) s1))) ∧
      ∀ i j, low i → high j →
        (t.length + (bank c s1).osp.toNat ≤ j → entryFree c s1 → exec (row load) s = .next (raises c excStkunf s1)) ∧
        (j < t.length + (bank c s1).osp.toNat → crooked → entryFree c s1 →
          exec (row load) s = .next (raises c (excAlign (f.toNat / 64) (addr.toNat % 2 ^ 48)) s1)) ∧
        (j < t.length + (bank c s1).osp.toNat → ¬ crooked → i < t.length →
          let mask' := mask &&& ~~~ BitVec.ofNat 64 (2 ^ i)
          let done (oc : List W64) (es : List SbEntry) (acc : List DAcc) (s2 : State) : State :=
            if i = j then ends c (committed c { bank c s1 with oc := oc } es acc s2)
            else stepEnd c (doFlow c .more (dropHeld c (committed c { bank c s1 with oc := (addr + 8) :: mask' :: oc } es acc s2)))
          (∀ v acc s2, load = true → loadBytes c (f.toNat / 64) addr 8 needRead false s1 = .ok (v, acc) s2 → (s2.core c).sb.length ≤ 16 →
            exec (.ldm p f) s = .next (done (t.set i v) [] acc s2)) ∧
          ∀ es acc s2, load = false → storeBytes c (f.toNat / 64) addr 8 ((t[i]?).getD 0) s1 = .ok (es, acc) s2 →
            (sbAdd (s2.core c).sb es).length ≤ 16 → exec (.stm p f) s = .next (done t es acc s2))

/-- R243 to R245, R294 to R298: a save writes one word an element, from the progress its operand cell holds, skips what its home area holds
already, and settles its half with the last word; its cell's advance marks no group (R297). A misaligned address or segment BASE raises
ALIGN.
R245, R296, R300: LOADU takes the cells of both stacks and their spill counts from an upper half, LOADL the control words from a lower half,
each settling its half at its area; a header that does not fit raises ILLEGAL, a lower half of a higher privilege PRIV, a misaligned area
or segment BASE ALIGN. -/
def Obligations.SavesAndLoadsOfContexts : Prop :=
  (∀ (p : PCtx) (f : BitVec 10) (upper : Bool) (s s1 : State) (cell : W64) (below : List W64), condHolds p.cond (bank p.core s1).flags = true →
     f.toNat % 64 = 0 → 1 ≤ (s1.core p.core).pl → (bank p.core s1).oc = cell :: below → (s1.core p.core).divide = none →
     Ready p (longParcel p.cond (if upper then 0x24 else 0x25) f) nopParcel s s1 →
     let c := p.core
     let b := bank c s1
     let row : Instr := if upper then .saveu p f else .savel p f
     let words := if upper then upperWords b below else lowerWords b
     let fresh : SaveProg := ⟨cell, cell - BitVec.ofNat 64 (cell.toNat % 512), cell.toNat % 512 / 8⟩
     let prog := ((if upper then b.saveu else b.savel).filter (fun q => q.cell = cell)).getD fresh
     let base := segBase ((s1.core c).segNow (f.toNat / 64)).1
     (cell.toNat % 8 ≠ 0 ∨ base % 8 ≠ 0 → entryFree c s1 → exec row s = .next (raises c (excAlign (f.toNat / 64) (cell.toNat % 2 ^ 48)) s1)) ∧
     (cell.toNat % 8 = 0 → base % 8 = 0 → (upper = true → below.length ≤ 31) → ∀ w, words[prog.pos]? = some w →
       ∀ (es : List SbEntry) (acc : List DAcc) (s2 : State),
         (if saveSkips b upper prog.start w.2 then es = [] ∧ acc = [] ∧ s2 = s1 else storeBytes c (f.toNat / 64) cell 8 w.1 s1 = .ok (es, acc) s2) →
         (prog.pos + 1 = words.length → (sbAdd (s2.core c).sb es).length ≤ 16 →
           exec row s = .next (ends c (withCore c (fun k => k.rawBank k.level (settleHalf upper prog.start k.run))
             (committed c { b with oc := below } es acc s2)))) ∧
         ∀ (nx : W64) (acc' : List DAcc) (s3 : State), prog.pos + 1 ≠ words.length → nextCell c (f.toNat / 64) cell s2 = .ok (nx, acc') s3 →
           (sbAdd (s3.core c).sb es).length ≤ 16 →
           let q : SaveProg := ⟨nx, prog.start, prog.pos + 1⟩
           exec row s = .next (stepEnd c (doFlow c .more (dropHeld c (keepDirty c b.dirty (committed c
             (if upper then { b with oc := nx :: below, saveu := some q } else { b with oc := nx :: below, savel := some q }) es (acc ++ acc') s3))))))) ∧
  (∀ (p : PCtx) (f : BitVec 10) (s s1 : State) (area : W64) (t : List W64), condHolds p.cond (bank p.core s1).flags = true →
     f.toNat % 64 = 0 → 1 ≤ (s1.core p.core).pl → (bank p.core s1).oc = area :: t → (s1.core p.core).divide = none →
     let c := p.core
     let sel := f.toNat / 64
     let base := segBase ((s1.core c).segNow sel).1
     (Ready p (longParcel p.cond 0x26 f) nopParcel s s1 →
       (area.toNat % 512 ≠ 0 ∨ base % 8 ≠ 0 → entryFree c s1 → exec (.loadu p f) s = .next (raises c (excAlign sel (area.toNat % 2 ^ 48)) s1)) ∧
       ∀ h acc s2, area.toNat % 512 = 0 → base % 8 = 0 → readArea c sel 1 area s1 = .ok ([h], acc) s2 →
         let o := fieldAt 0 6 h
         let r := fieldAt 6 6 h
         let fits : Prop := fieldAt 60 4 h = 1 ∧ o ≤ 31 ∧ r ≤ 32
         (¬ fits → entryFree c s2 → exec (.loadu p f) s = .next (raises c excIllegal s2)) ∧
         ∀ ws acc' s3, fits → readArea c sel (3 + o + r) area s2 = .ok (ws, acc') s3 → (s3.core c).sb.length ≤ 16 →
           exec (.loadu p f) s = .next (ends c (withCore c (fun k => k.rawBank k.level (settleHalf true area k.run))
             (committed c { bank c s3 with
               osp := ((ws[1]?).getD 0).truncate 24, rsp := ((ws[2]?).getD 0).truncate 24
               oc := ((ws.drop 3).take o).reverse, rc := (ws.drop (3 + o)).reverse, oerr := none, rerr := none } [] acc' s3)))) ∧
     (Ready p (longParcel p.cond 0x27 f) nopParcel s s1 →
       (area.toNat % 512 ≠ 0 ∨ base % 8 ≠ 0 → entryFree c s1 → exec (.loadl p f) s = .next (raises c (excAlign sel (area.toNat % 2 ^ 48)) s1)) ∧
       ∀ h acc s2, area.toNat % 512 = 0 → base % 8 = 0 → readArea c sel 1 area s1 = .ok ([h], acc) s2 →
         let fits : Prop := fieldAt 60 4 h = 2 ∧ fieldAt 0 6 h ≤ 32 ∧ fieldAt 6 6 h ≤ 32
         (¬ fits → entryFree c s2 → exec (.loadl p f) s = .next (raises c excIllegal s2)) ∧
         ∀ ws acc' s3, fits → readArea c sel 43 area s2 = .ok (ws, acc') s3 → (s3.core c).sb.length ≤ 16 →
           ((s3.core c).pl < fieldAt 0 2 ((ws[1]?).getD 0) → entryFree c s3 → exec (.loadl p f) s = .next (raises c excPriv s3)) ∧
           (fieldAt 0 2 ((ws[1]?).getD 0) ≤ (s3.core c).pl →
             exec (.loadl p f) s = .next (ends c (withCore c (fun k =>
                 (loadLower k ws).rawBank (loadLower k ws).level (settleHalf false area (loadLower k ws).run))
               (committed c { bank c s3 with oc := (bank c s3).oc.tail } [] acc' s3))))))

/-! ## Exceptions -/

/-- R207 to R209, R215, R234: a reserved parcel raises ILLEGAL at its address whatever its condition, with nothing executed; the
entry waits for a divide in flight (R343) and, where it goes to level 7, for the cells of bank 7 to be spilled (R291). -/
def Obligations.ReservedParcelsRaiseIllegal : Prop :=
  ∀ (p : PCtx) (w : BitVec 20) (s s1 : State), Ready p w nopParcel s s1 →
    let s0 := presented p w nopParcel s
    let raised (t : State) : Prop := t =
      if (s1.core p.core).divide.isSome then holdExc p.core .divide s0 s1
      else if sevenWaits s1 p.core ((s1.core p.core).excLevel 0x01) then holdExc p.core .seven s0 s1
      else raises p.core excIllegal s1
    (w.getLsbD 19 = false →
      let m := w.toNat / 2 ^ 10 % 64
      (majorListed m = false ∨ fieldLegal m (w.extractLsb' 0 10) = false) →
      ∃ t, exec (.reservedParcel p w) s = .next t ∧ raised t) ∧
    (w.getLsbD 19 = true →
      let a := shortInfo (w.toNat / 2 ^ 8 % 256)
      let b := shortInfo (w.toNat % 256)
      (a = none ∨ b = none ∨ ∃ i j, a = some i ∧ b = some j ∧
        ((i.cls = .x ∧ j.cls ≠ .n) ∨ (j.cls = .x ∧ i.cls ≠ .n) ∨ (i.cls = .m ∧ j.cls = .m) ∨ (i.cls = .k ∧ j.cls = .k))) →
      ∃ t, exec (.reservedParcel p w) s = .next t ∧ raised t)

/-- R229, R336: below the level that its row of R233 names, each privileged long operation whose condition holds raises PRIV and does nothing. -/
def Obligations.PrivilegedOperationsRaisePriv : Prop :=
  ∀ (p : PCtx) (s s1 : State), condHolds p.cond (bank p.core s1).flags = true → entryFree p.core s1 →
    (∀ f : BitVec 10, f.toNat % 64 = 0 → (s1.core p.core).pl < 1 →
      (Ready p (longParcel p.cond 0x24 f) nopParcel s s1 → exec (.saveu p f) s = .next (raises p.core excPriv s1)) ∧
      (Ready p (longParcel p.cond 0x25 f) nopParcel s s1 → exec (.savel p f) s = .next (raises p.core excPriv s1)) ∧
      (Ready p (longParcel p.cond 0x26 f) nopParcel s s1 → exec (.loadu p f) s = .next (raises p.core excPriv s1)) ∧
      (Ready p (longParcel p.cond 0x27 f) nopParcel s s1 → exec (.loadl p f) s = .next (raises p.core excPriv s1))) ∧
    ((s1.core p.core).pl < 1 →
      (Ready p (longParcel p.cond 0x30 0) nopParcel s s1 → exec (.eret p 0 nopParcel) s = .next (raises p.core excPriv s1)) ∧
      (Ready p (longParcel p.cond 0x31 0) nopParcel s s1 → exec (.frtn p 0) s = .next (raises p.core excPriv s1)) ∧
      (Ready p (longParcel p.cond 0x34 0) nopParcel s s1 → exec (.ack p 0) s = .next (raises p.core excPriv s1)) ∧
      (∀ f : BitVec 10, f.toNat < 8 → Ready p (longParcel p.cond 0x35 f) nopParcel s s1 → exec (.eos p f) s = .next (raises p.core excPriv s1)) ∧
      (Ready p (longParcel p.cond 0x38 0) nopParcel s s1 → exec (.wait p 0) s = .next (raises p.core excPriv s1))) ∧
    ((s1.core p.core).pl < 2 →
      (Ready p (longParcel p.cond 0x2C 0) nopParcel s s1 → exec (.invpg p 0) s = .next (raises p.core excPriv s1)) ∧
      (Ready p (longParcel p.cond 0x2D 0) nopParcel s s1 → exec (.invall p 0) s = .next (raises p.core excPriv s1)) ∧
      (Ready p (longParcel p.cond 0x2E 0) nopParcel s s1 → exec (.invwalk p 0) s = .next (raises p.core excPriv s1)))

/-- R219, R342 to R346: what a synchronous exception other than a stack overflow at level 7 saves, and where it goes: the level and its marks, the
parcel's address and the pending target, EADDR, ESTAT, the raised privilege and the vector; the stacks of every bank stay, latent writes take
effect and the reservation ends. -/
def Obligations.SynchronousEntry : Prop :=
  ∀ (c : CoreId) (e : Exc) (s : State),
    let k0 := s.core c
    let l := k0.level.toNat
    let live := bitAt 14 (k0.bank k0.level).estat
    let seven := decide (e.code.toNat = 0x08 ∨ e.code.toNat = 0x20)
    let lev := if l = 7 ∨ seven = true ∨ live = true then 7 else l
    let t := enterExc c e s
    let k := t.core c
    let st := (k0.bank k0.level).status
    let sv := k0.saved
    ¬ (e.code.toNat = 0x08 ∧ l = 7) →
    k.level.toNat = lev ∧ k.st = .running ∧ k.pc = BitVec.ofNat 48 (k0.exvec.toNat * 1024 + 16 * e.code.toNat) ∧ k.latent = [] ∧
    k.lockRes = none ∧ k.chk = none ∧ k.delay = none ∧ k.rep = none ∧
    (k.bank k.level).epc = sv.epc ∧ (k.bank k.level).etarget = sv.etarget.getD (k0.bank k.level).etarget ∧
    (k.bank k.level).eaddr = e.eaddr ∧
    (k.bank k.level).estat = mkEstat e.code.toNat false sv.bpend sv.rpend e.split (decide (l < 7) && !seven && live) (decide (l = 7) && live) 0 st ∧
    (k.bank k.level).status = mkStatusWord (if lev = 7 then 2 else Nat.max (st.toNat % 4) 1) (st.getLsbD 2) lev ∧
    (∀ m, (k.bank m).oc = (k0.bank m).oc ∧ (k.bank m).rc = (k0.bank m).rc ∧ (k.bank m).osp = (k0.bank m).osp ∧ (k.bank m).rsp = (k0.bank m).rsp) ∧
    (∀ m, m ≠ k.level → k.bank m = k0.bank m) ∧
    t.evc = (if l < lev then s.evc.set c { s.evc.get c with active := (s.evc.get c).active ||| BitVec.ofNat 8 (2 ^ lev) } else s.evc)

/-- R215, R217, R218: a parcel whose condition does not hold changes nothing and execution goes on after it; a transfer is then not taken, but its
delay parcel still follows. -/
def Obligations.FailedConditionsDoNothing : Prop :=
  ∀ (p : PCtx) (s s1 : State), condHolds p.cond (bank p.core s1).flags = false →
    (∀ row ∈ halfRows, ∀ sb : BitVec 8, Ready p (pairParcel p.cond row.2 sb) nopParcel s s1 →
      codeIllegal (pairParcel p.cond row.2 sb) = false → exec (row.1 p sb) s = .next (ends p.core s1)) ∧
    (∀ row ∈ longRows, ∀ f : BitVec 10, fieldLegal row.2 f = true → Ready p (longParcel p.cond row.2 f) nopParcel s s1 →
      exec (row.1 p f) s = .next (ends p.core s1)) ∧
    (∀ row ∈ [((Instr.sync, 0x83) : (PCtx → BitVec 8 → Instr) × Nat), (.fence, 0x84), (.brk, 0x85)],
      Ready p (pairParcel p.cond row.2 0) nopParcel s s1 → exec (row.1 p 0) s = .next (ends p.core s1)) ∧
    (∀ (f : BitVec 10) (nxt : BitVec 20), isTransfer nxt = false → isRep nxt = false →
      (hasSolo nxt = false → Ready p (longParcel p.cond 0x3C f) nxt s s1 → exec (.rep p f nxt) s = .next (ends p.core s1)) ∧
      (Ready p (longParcel p.cond 0x08 f) nxt s s1 → exec (.br p f nxt) s = .next (beforeDelay p.core false 0 false
        (loopBr p.core (s.core p.core).pc (advance (s.core p.core).pc f.toInt) false s1))) ∧
      (Ready p (longParcel p.cond 0x09 f) nxt s s1 → exec (.call p f nxt) s = .next (beforeDelay p.core false 0 false s1)) ∧
      (Ready p (pairParcel p.cond 0x80 0) nxt s s1 → exec (.brx p 0 nxt) s = .next (beforeDelay p.core false 0 false s1)) ∧
      (Ready p (pairParcel p.cond 0x81 0) nxt s s1 → exec (.callx p 0 nxt) s = .next (beforeDelay p.core false 0 false s1)) ∧
      (Ready p (pairParcel p.cond 0x82 0) nxt s s1 → exec (.ret p 0 nxt) s = .next (beforeDelay p.core false 0 false s1)) ∧
      (Ready p (longParcel p.cond 0x30 0) nxt s s1 → exec (.eret p 0 nxt) s = .next (beforeDelay p.core false 0 false s1)))

/-! ## The block as a whole -/

/-- A step takes the command at the front of the queue and runs it on the state with the queue's rest; on an empty queue one AOCLK passes
(the model's choice, notes/assumptions/6.md): AOTIME counts where AOCLK runs outside the always-on reset (R554), and nothing but the watchdogs and
the troupe's times follows. -/
def Obligations.StepRunsTheFrontCommand : Prop :=
  (∀ (c : Instr) (rest : List Instr) (s : State), s.pending = c :: rest → step s = exec c { s with pending := rest }) ∧
  (∀ (c : Instr) (s : State), step (s.withCommand c) = exec c s) ∧
  ∀ s : State, s.pending = [] →
    ∃ t : State, step s = .next t ∧
      t.log.aotime = (if s.rst.phase ≠ .aopor ∧ clockOn s .aoclk = true then s.log.aotime + 1 else s.log.aotime) ∧
      { t.log with aotime := s.log.aotime } = s.log ∧ { t with log := s.log, troupe := s.troupe, wds := s.wds, twd := s.twd } = s

/-- R18, R286, R338, R346, R373, R468, R482, R498, R517, R554: the values that reset leaves, the spec's Reset columns, in the state in which
COLD_N is still asserted.
The state after reset has sound fuses and a Vector Store in its canonical form (notes/assumptions/1.md: the fuses of a tile as made are blank). -/
def Obligations.ResetLeavesTheResetValues : Prop :=
  (let s := State.reset
   s.rst.phase = .cold ∧ s.rst.cause = 2 ∧ s.rst.warmCnt = 0 ∧ s.rst.run = 0 ∧ s.rst.lost = 0 ∧
   s.role.role = .spare ∧ s.role.fused = false ∧ s.role.slot = 0 ∧ s.role.freason = 0 ∧ s.role.epoch = 0 ∧
   s.log.wcount = 0 ∧ s.log.aotime = 0 ∧ s.ev = [] ∧
   (∀ c : CoreId, (s.evc.get c).thresh = 0 ∧ (s.evc.get c).active = 0 ∧ (s.evc.get c).nest = true) ∧
   (∀ c : CoreId, let k := s.core c
     k.st = .off ∧ k.sb = [] ∧ k.tlb = [] ∧ k.wcache = [] ∧ k.icache = [] ∧ k.dcache = [] ∧ k.lockRes = none ∧ k.latent = [] ∧
     ∀ l : BitVec 3, (k.bank l).oc = [] ∧ (k.bank l).rc = [] ∧ (k.bank l).status.toNat = 2 + 16 * l.toNat ∧ (k.bank l).dirty = 0) ∧
   (∀ i : Fin 4, s.chain i = none) ∧ (∀ c : CoreId, s.iq.get c = []) ∧ s.eng.time = 0 ∧
   s.dma.chans = [] ∧ s.rings.en = false ∧ s.rings.entries = [] ∧ s.vs.mem = Memory.zero ∧
   s.pwr.state = 0 ∧ s.pwr.acktmo = 0x3E8 ∧ s.pwr.autooff = true ∧ s.boot.state = 0 ∧ s.auth.level = 0 ∧ s.panel.evac = 0 ∧
   s.troupe.slots = [] ∧ s.troupe.slrx = [] ∧ s.pair.linkup = false ∧ s.wrap.wir = 0 ∧ s.pending = []) ∧
  (FusesSound State.reset ∧ Memory.wf State.reset.vs.mem = true ∧ State.reset.fuses.lc = 0 ∧ State.reset.fuses.minsvn = 0 ∧
   (∀ n : Fin 4, (State.reset.fuses.keys.get n).prog = false ∧ (State.reset.fuses.keys.get n).revoked = false) ∧
   ∀ n, State.reset.fuseOf n = 0)

/-! ## Start-up, resets and clocks -/

/-- R7, R39, R473, R477, R504, R512, R543: the release of COLD_N samples the tie-offs and makes a fresh challenge, whose value is free, and
start-up begins unless a reserved encoding keeps the tile in cold reset; after the always-on reset WIPE_PENDING is set, the log is empty and the
panel inputs have their first samples; each timed step then leads to the next, the second with the fuses in force and a Vector Store of zeros,
and the third sets UP and requests a pass. -/
def Obligations.StartUpSequence : Prop :=
  (∀ (t : TieOffs) (s : State), s.rst.phase = .cold → s.id.paramerr = false →
    ∃ (ch : BitVec 384) (n : Nat), exec (.coldResetRelease t) s = .next { s with
      id := ⟨t.tilebase, t.diepos, t.pairpos, t.snoopcap, t.empch, t.tracew, !tieOffsLegal t⟩
      rst := { s.rst with phase := if tieOffsLegal t then .startup 1 else .cold }
      auth := { s.auth with chal := ch }, free := n }) ∧
  (∀ (t : TieOffs) (pnl : PanelPins) (s : State), s.rst.phase = .aopor ∨ (s.rst.phase = .cold ∧ s.id.paramerr = false) → ∃ u : State, exec (.aoporRelease t pnl) s = .next u ∧
    u.rst.phase = (if tieOffsLegal t then .startup 1 else .cold) ∧ u.rst.cause = 1 ∧ u.vs.wipePending = true ∧ u.log = ⟨[], 0, 0⟩ ∧
    u.panel = { panel0 with attn := pnl.attn, pres := pnl.pres, tamper := pnl.tamper } ∧ u.wds = Quad.same wdog0 ∧ u.twd = wdog0 ∧
    u.role = role0 ∧ u.fuses.lc = s.fuses.lc ∧ u.fuses.minsvn = s.fuses.minsvn ∧ u.fuses.keys = s.fuses.keys ∧ u.wrap.fuses = s.wrap.fuses ∧
    u.pending = s.pending ∧ u.auth.level = 0 ∧ (∀ c : CoreId, u.core c = core0)) ∧
  (∀ s : State, s.rst.phase = .startup 1 → exec .startupStepDone s = .next { s with rst := { s.rst with phase := .startup 2 } }) ∧
  (∀ s : State, s.rst.phase = .startup 2 →
    let entry (n : Nat) : VsMapEntry := let f := s.fuseOf n; if fuseValid f then ⟨f.truncate 10, true, true⟩ else ⟨0, false, false⟩
    exec .startupStepDone s = .next { s with
      vs := { s.vs with
        mem := Memory.zero, map0 := entry 0, map1 := entry 1, map2 := entry 2, wipePending := false, wipeBusy := false, wipeRow := 7680 }
      fuses := { s.fuses with now := s.fuses.lc }
      rst := { s.rst with phase := .startup (if s.fuses.lc = 5 then 4 else 3) } }) ∧
  ∀ s : State, s.rst.phase = .startup 3 →
    exec .startupStepDone s = .next { s with rst := { s.rst with phase := .up }, cal := { s.cal with wanted := true } }

/-- R21, R467 to R472, R475, R482, R518: what each reset strikes and what it keeps. -/
def Obligations.ResetsStrikeWhatR468Names : Prop :=
  (∀ s : State, s.rst.phase ≠ .aopor → ∃ u : State, exec .coldResetAssert s = .next u ∧
    u.rst.phase = .cold ∧ u.rst.cause = 2 ∧ u.log = s.log ∧ u.fuses.lc = s.fuses.lc ∧ u.vs.wipePending = s.vs.wipePending ∧ u.weado = s.weado ∧
    u.panel = s.panel ∧
    u.supv = { s.supv with vbus := 0, valid := false, low := false, high := false, nWarn := 0, nOver := 0 } ∧ u.role = role0 ∧ u.ev = [] ∧ (∀ c : CoreId, (u.core c).st = .off) ∧ (∀ i, u.chain i = none) ∧
    u.dma.chans = [] ∧ u.rings = rings0 ∧ u.auth.level = s.auth.level ∧ u.auth.run = none ∧ u.auth.fails = 0 ∧ u.auth.lock = false) ∧
  (∀ s : State, ∃ u : State, exec .alwaysOnResetAssert s = .next u ∧
    u.rst.phase = .aopor ∧ u.rst.cause = 1 ∧ u.log = ⟨[], 0, 0⟩ ∧ u.vs.wipePending = true ∧ u.weado = weado0 ∧ u.fuses.op = none ∧
    u.fuses.lc = s.fuses.lc ∧ u.wrap.rbusy = none ∧ (s.wrap.rbusy = none → u.wrap.fuses = s.wrap.fuses) ∧ (∀ c : CoreId, u.core c = core0)) ∧
  (∀ s : State, s.rst.phase = .up → ∃ u : State, exec (.warmReset .pin) s = .next u ∧
    u.rst.phase = .warm ∧ u.rst.cause = 3 ∧ u.rst.run = 0 ∧ u.rst.warmCnt = satInc s.rst.warmCnt ∧
    (s.role.role = .spare ∨ s.role.role = .fenced → u.role = s.role) ∧
    (s.role.role = .worker ∨ s.role.role = .deputy ∨ s.role.role = .manager →
      u.role = { s.role with role := .fenced, slot := 0, freason := 5 }) ∧
    (∀ c : CoreId, (u.core c).st = .off ∧ (u.core c).sb = [] ∧ (u.core c).tlb = [] ∧ u.evc.get c = evCore0 ∧ u.iq.get c = []) ∧
    (∀ i, u.chain i = none) ∧ u.ev = [] ∧ u.troupe.leaseEnd = none ∧ u.troupe.slrx = [] ∧ u.rings.en = false ∧ u.vs.scrubWord = 0 ∧
    u.vs.repair.busy = false ∧ u.boot.state = 0 ∧ u.pamap = s.pamap ∧ u.eng.time = s.eng.time ∧ u.fuses.lc = s.fuses.lc ∧ u.log = s.log) ∧
  (∀ (who : Requester) (s : State), mayAccess who 2 0x20000 s = true → exec (.warmReset (.rstctl who)) s =
    .next (written who (warmReset 4 true (startCores s)))) ∧
  (∀ s : State, s.rst.phase ≠ .aopor → exec (.warmReset .weado) s = .next (if effLevel s < 2 then deny s else warmReset 6 true s)) ∧
  (∀ s : State, s.rst.phase = .warm →
    let s1 : State := { s with fuses := { s.fuses with now := s.fuses.lc }, rst := { s.rst with phase := .up } }
    (s.vs.wipePending = false ∨ clockOn s .vclk = false → s.boot.passed = none → exec .warmResetRelease s = .next s1) ∧
    ∃ u : State, exec .warmResetRelease s = .next u ∧ u.rst.phase = .up ∧ u.fuses.now = s.fuses.lc ∧
      (s.vs.wipePending = true → clockOn s .vclk = true → s.boot.passed = none → u.vs.wipePending = false ∧
        ∀ p row : Nat, p < 1024 → row < 8192 →
          if 7680 ≤ row then u.vs.mem.word (wordKey p row) = 0 ∧ u.vs.mem.err (wordKey p row) = .good
          else u.vs.mem.word (wordKey p row) = s.vs.mem.word (wordKey p row) ∧ u.vs.mem.err (wordKey p row) = s.vs.mem.err (wordKey p row))) ∧
  (∀ (who : Requester) (mask run : BitVec 4) (s : State), mayAccess who 2 0x20000 s = true →
    exec (.coreReset who mask run) s = .next (written who
      (writeRun run (fours.foldl (fun s c => if mask.getLsbD c.val then coreResetOne c s else s) s)))) ∧
  (∀ (c : CoreId) (s : State), let t := coreResetOne c s
    (t.core c).st = .off ∧ (t.core c).sb = [] ∧ (t.core c).tlb = [] ∧ (t.core c).icache = [] ∧ (t.core c).dcache = [] ∧
    (t.core c).banks = [] ∧ (t.core c).cfg = 0xF ∧ t.evc.get c = evCore0 ∧ t.rst.run.getLsbD c.val = false ∧
    ∀ d : CoreId, d ≠ c →
      { t.core d with sched := (s.core d).sched, detvoid := (s.core d).detvoid } = s.core d ∧ t.evc.get d = s.evc.get d) ∧
  ∀ (src : DebugResetSource) (s : State), s.rst.phase ≠ .aopor → ∃ u : State, exec (.debugReset src) s = .next u ∧
    u.auth.level = 0 ∧ u.weado.wfreeze = 0x1F0 ∧ u.weado.sel = 0 ∧ u.weado.sam = sam0 ∧ u.weado.tr = trace0 ∧
    (∀ c : CoreId, (u.core c).st = .halted → (u.core c).held.isSome = true ∨ s.auth.level ≠ 2) ∧
    ∀ c : CoreId, s.auth.level = 2 → (s.core c).st = .halted → (s.core c).held = none →
      (u.core c).st = .running ∧ (u.core c).pc = (s.core c).dbg.dpc ∧ (u.core c).repResume = (s.core c).dbg.drpend

/-- R465, R476 to R483: a lost clock is logged with MCHK and latched, and its return ends what it had missed; a qualification pass starts when no
chain is in flight and tags every value FULL at its end; a new temperature band asks for one; a link whose margin falls retrains, and the third
restart in a row fails the pass; the droop guard changes nothing that the tile computes (R162). -/
def Obligations.ClocksAndCalibration : Prop :=
  (∀ (k : Clock) (s : State), watched s k = true → clockOn s k = true →
    let b : BitVec 16 := BitVec.ofNat 16 (2 ^ clockBit k)
    exec (.clockLost k) s = .next (logRecord 0x05 unitSec 0 (BitVec.ofNat 64 (clockBit k)) true
      { s with rst := { s.rst with lost := s.rst.lost ||| b, stopped := s.rst.stopped ||| b } })) ∧
  (∀ (k : Clock) (s : State), clockOn s k = false →
    let b : BitVec 16 := BitVec.ofNat 16 (2 ^ clockBit k)
    exec (.clockReturn k) s = .next { s with rst := { s.rst with stopped := s.rst.stopped &&& ~~~ b, missed := s.rst.missed &&& ~~~ b } }) ∧
  (∀ s : State, s.cal.wanted = true → s.cal.running = false → upRuns s = true → vclkRuns s = true → (∀ i, s.chain i = none) →
    exec .qualPassStart s = .next { s with cal := { s.cal with wanted := false, running := true, restarts := 0 } }) ∧
  (∀ s : State, s.cal.running = true → vclkRuns s = true →
    exec .qualPassEnd s = .next (arrive srcCalQual { s with cal := { s.cal with
      running := false, restarts := 0, tagEmp0 := true, tagEmp1 := s.cal.tagEmp1 || emp1Present s, tagPair := s.cal.tagPair || s.role.fused,
      tagDroop := true, qband := s.cal.band, qfail := false, keep := false, qcount := satInc s.cal.qcount } })) ∧
  (∀ (who : Requester) (margin : BitVec 7) (s : State), mayAccess who 2 0x20040 s = true →
    exec (.calctlRequal who margin) s = .next (written who { s with cal := { s.cal with
      margin := margin, wanted := s.cal.wanted || !s.cal.running } })) ∧
  (∀ (temp : BitVec 12) (s : State), s.rst.phase ≠ .aopor → s.rst.phase ≠ .cold → s.rst.phase ≠ .off → clockOn s .tmclk = true → s.cal.band.toNat ≤ 5 →
    let old := s.cal.band.toNat
    let t := temp.toInt
    ∃ b : Nat, b ≤ 5 ∧
      ((old < b ∧ bandFloor b ≤ t - 8 ∧ (b = 5 ∨ t - 8 < bandFloor (b + 1))) ∨
        ((old = 5 ∨ t - 8 < bandFloor (old + 1)) ∧ b < old ∧ t + 8 < bandFloor (b + 1) ∧ (b = 0 ∨ bandFloor b ≤ t + 8)) ∨
        ((old = 5 ∨ t - 8 < bandFloor (old + 1)) ∧ (old = 0 ∨ bandFloor old ≤ t + 8) ∧ b = old)) ∧
      exec (.tempSample temp) s = .next (if b = s.cal.band.toNat then s else { s with cal := { s.cal with
        band := BitVec.ofNat 3 b, restarts := 0, wanted := s.cal.wanted || !s.cal.running } })) ∧
  (∀ (l : Link) (margin : BitVec 7) (s : State), s.rst.phase = .up ∨ s.rst.phase = .warm → hubRuns s = true → linkThere s l = true → retraining s.cal l = false →
    margin.toNat < s.cal.margin.toNat →
    let s1 := arrive srcLinkRetrain { s with cal := { setRetrain l true s.cal with retrains := satInc s.cal.retrains } }
    exec (.linkMarginLow l margin) s = .next (
      if s.cal.running = false then s1
      else if s.cal.restarts < 2 then { s1 with cal := { s1.cal with restarts := s1.cal.restarts + 1 } }
      else logRecord 0x08 unitSec 0 0 true { s1 with
        cal := { s1.cal with running := false, restarts := 0, qfail := true, keep := true }, panel := { s1.panel with fcause := s1.panel.fcause ||| 4 } })) ∧
  (∀ (l : Link) (s : State), retraining s.cal l = true →
    exec (.linkRetrainEnd l) s = .next (arrive srcLinkRetrain { s with cal := setTag l (!throttleOn s) (setRetrain l false s.cal) })) ∧
  ∀ (below : Bool) (s : State), exec (.droopGuard below) s = .next { s with cal := { s.cal with droop := below } }

/-! ## The set-up window and events -/

/-- R2: VERSION reads as the product's number and the IP version whatever the state, and a write to it changes nothing but the requester's answer. -/
def Obligations.VersionRegister : Prop :=
  (∀ s : State, readReg s 0 = 0x5C0A_1021_0300_0302) ∧
  (∀ (who : Requester) (v : W64) (s : State), mayAccess who (writeLevel s 0) 0 s = true →
    exec (.setupRegisterWrite who 0 0xFF v) s = .next (written who s)) ∧
  ∀ (who : Requester) (v : W64) (s : State), writeReg who 0 v s = s

/-- R570 to R574: a whole aligned write by a requester that the window serves writes its register, a reserved offset (here those of three of
the blocks) changes nothing, a write of another size or of an offset above the registers is answered with an error and changes nothing; a busy or
under-privileged Weado is denied; and the commands named for one register complete as that register's write. -/
def Obligations.SetupWindowAccesses : Prop :=
  (∀ (who : Requester) (off : BitVec 24) (v : W64) (s : State), mayAccess who (writeLevel s off.toNat) off.toNat s = true →
    off.toNat % 8 = 0 → off.toNat < 0xF0000 →
    exec (.setupRegisterWrite who off 0xFF v) s = .next (written who (writeReg who off.toNat v s))) ∧
  (∀ (c : CoreId) (off : BitVec 24) (be : BitVec 8) (v : W64) (s : State), coreLives s c = true →
    (off.toNat % 8 ≠ 0 ∨ be ≠ 0xFF →
      exec (.setupRegisterWrite (.core c) off be v) s = .next { s with ports := { s.ports with last := .etgt } }) ∧
    (off.toNat % 8 = 0 → be = 0xFF → 0xF0000 ≤ off.toNat →
      exec (.setupRegisterWrite (.core c) off be v) s = .next { s with ports := { s.ports with last := .edec } })) ∧
  (∀ (off : BitVec 24) (be : BitVec 8) (v : W64) (s : State), s.rst.phase ≠ .up →
    exec (.setupRegisterWrite .host off be v) s =
      .next { s with ports := { s.ports with last := .etgt, irsp := s.ports.irsp ++ [(.etgt, 0)] } }) ∧
  (∀ (off : BitVec 24) (be : BitVec 8) (v : W64) (s : State), s.weado.sam.busy = true →
    exec (.setupRegisterWrite .weado off be v) s = .next (deny s)) ∧
  (∀ (off : BitVec 24) (be : BitVec 8) (v : W64) (s : State), s.weado.sam.busy = false → effLevel s < writeLevel s off.toNat →
    exec (.setupRegisterWrite .weado off be v) s = .next (samEnd 4 (deny s))) ∧
  (∀ (who : Requester) (off : Nat) (v : W64) (s : State), off / 0x10000 = 0xC ∨ (off / 0x10000 = 0 ∧ off ≠ 0x100) ∨ (0x61000 ≤ off ∧ off < 0x70000) →
    writeReg who off v s = s) ∧
  ∀ (who : Requester) (s : State),
    let write (c : Instr) (off : BitVec 24) (v : W64) : Prop := exec c s = exec (.setupRegisterWrite who off 0xFF v) s ∧
      (mayAccess who (writeLevel s off.toNat) off.toNat s = true → exec c s = .next (written who (writeReg who off.toNat v s)))
    (∀ n : BitVec 9, ∀ v, write (.evsrcSet who n v) (BitVec.ofNat 24 (0x50000 + 8 * n.toNat)) v) ∧
    (∀ v, write (.watchcfgEn who v) 0x70000 v) ∧ (∀ v, write (.armall who v) 0x70000 v) ∧
    (∀ ch : Fin 64, ∀ v, write (.dmaStart who ch v) (BitVec.ofNat 24 (0x60000 + 0x40 * ch.val)) v ∧
      write (.dmaRestart who ch v) (BitVec.ofNat 24 (0x60000 + 0x40 * ch.val)) v ∧
      write (.dmaCancel who ch v) (BitVec.ofNat 24 (0x60000 + 0x40 * ch.val)) v) ∧
    (∀ v, write (.pwrctlReq who v) 0x20048 v) ∧ (∀ v, write (.pnlctlEvac who v) 0xA0010 v) ∧ (∀ v, write (.pnlctlCancel who v) 0xA0010 v) ∧
    (∀ c : CoreId, ∀ v, write (.watchdogKick who (.core c) v) (BitVec.ofNat 24 (0xA0040 + 8 * c.val)) v) ∧
    (∀ v, write (.watchdogKick who .tile v) 0xA0060 v) ∧ (∀ v, write (.vtoutWrite who v) 0x100 v)

/-- R357 to R360, R370, R371, R373, R459: an arrival counts at its source and at every task slot that waits on it, one that EVSRCn.SET makes as one
that hardware makes; a snoop-invalidate takes a line from every cache, ends the reservations on it, and is answered. -/
def Obligations.ArrivalsAndSnoops : Prop :=
  (∀ (n : BitVec 9) (s : State), pulseSource n.toNat = true → exec (.eventArrival n) s = .next (arrive n.toNat s)) ∧
  (∀ (n : Nat) (s : State), s.pwr.state.toNat ≤ 2 →
    let e := Tab.get evSrc0 s.ev n
    let e' := Tab.get evSrc0 (arrive n s).ev n
    (e.en = true → e.cnt.toNat < 255 → e'.cnt = e.cnt + 1 ∧ e'.ovf = e.ovf) ∧ (e.en = true → e.cnt.toNat = 255 → e'.cnt = e.cnt ∧ e'.ovf = true) ∧
    (e.en = false → e'.cnt = e.cnt ∧ e'.ovf = e.ovf) ∧
    (e.trgen = true → e.trgcnt.toNat < 255 → e'.trgcnt = e.trgcnt + 1 ∧ e'.trgovf = e.trgovf) ∧
    (e.trgen = true → e.trgcnt.toNat = 255 → e'.trgcnt = e.trgcnt ∧ e'.trgovf = true) ∧
    (e.trgen = false → e'.trgcnt = e.trgcnt ∧ e'.trgovf = e.trgovf) ∧ e'.level = e.level ∧ e'.en = e.en ∧ e'.trgen = e.trgen ∧
    (∀ m, m ≠ n → Tab.get evSrc0 (arrive n s).ev m = Tab.get evSrc0 s.ev m) ∧
    ∀ (c : CoreId) (i : Nat), i < 8 →
      let t := (s.core c).sched.at i
      ((arrive n s).core c).sched.at i = if t.ten = true ∧ t.tsrc.toNat = n then t.arrive else t) ∧
  (∀ (who : Requester) (n : BitVec 9) (v : W64) (s : State), mayAccess who 2 (0x50000 + 8 * n.toNat) s = true → v.getLsbD 7 = true →
    exec (.evsrcSet who n v) s = .next (written who (arrive n.toNat
      { s with ev := Tab.modify evSrc0 s.ev n.toNat (fun e => e.write n.toNat v) }))) ∧
  ∀ (line : BitVec 46) (tag : BitVec 10) (s : State), s.rst.phase = .up → ∃ t : State, exec (.snoopInvalidate line tag) s = .next t ∧
    t.ports.snpack = s.ports.snpack ++ [tag] ∧
    ∀ c : CoreId, Tab.find (t.core c).icache line.toNat = none ∧ Tab.find (t.core c).dcache line.toNat = none ∧
      (t.core c).lockRes ≠ some line

/-! ## Roles and the troupe -/

/-- R18 to R22, R471: the role requests of TILEROLE. MANAGER is taken from SPARE by a tile that is not fused, FENCED is left by a role reset, FENCED
is entered from every other role; every other request sets ROLEERR and changes nothing else, in END every one; while the hold-up flush runs a
request does nothing. The role reset completes when no chain is in flight and no response is outstanding, and leaves the tile a SPARE without
troupe state, its issue queues as they were; in a pair the ODD tile reports the end of its part and the EVEN tile ends the reset for both (R23).
A lease that has run out takes a worker, a deputy or a manager that is not alone to FENCED. -/
def Obligations.RoleRequests : Prop :=
  (∀ (who : Requester) (s : State), mayAccess who 2 0x10000 s = true →
    (s.pwr.flush.isSome = true → exec (.reqroleManager who) s = .next (written who s) ∧ exec (.reqroleSpare who) s = .next (written who s) ∧
      exec (.reqroleFenced who) s = .next (written who s)) ∧
    (s.pwr.flush = none →
      let refused : State := { s with role := { s.role with roleErr := true } }
      (if s.role.role = .spare ∧ s.role.fused = false ∧ s.fuses.now ≠ 5 then
        ∃ u : State, exec (.reqroleManager who) s = .next (written who u) ∧
          u.role = { s.role with role := .manager, slot := 0, epoch := s.troupe.mepoch } ∧ u.troupe.mnode = s.troupe.node ∧ u.troupe.solo = true ∧
          u.troupe.dvalid = false ∧ u.troupe.leaseEnd = none ∧ u.troupe.nextRound = s.troupe.now + 8000 ∧ u.troupe.slots = s.troupe.slots
        else exec (.reqroleManager who) s = .next (written who refused)) ∧
      (if s.role.role = .fenced ∧ s.fuses.now ≠ 5 then
        exec (.reqroleSpare who) s = .next (written who { s with
          role := { s.role with resetting := true },
          pair := { s.pair with tx := if s.role.fused then s.pair.tx ++ [.roleReset] else s.pair.tx } })
        else exec (.reqroleSpare who) s = .next (written who refused)) ∧
      if s.role.role ≠ .fenced ∧ s.fuses.now ≠ 5 then
        ∃ u : State, exec (.reqroleFenced who) s = .next (written who u) ∧ fencedAs 3 true s u
      else exec (.reqroleFenced who) s = .next (written who refused))) ∧
  (∀ s : State, s.role.resetting = true → s.role.role = .fenced → upRuns s = true → anyChain s = false → responsesDue s = false →
    (oddFused s = true → s.pair.drained = false →
      exec .roleResetDone s = .next { s with pair := { s.pair with tx := s.pair.tx ++ [.drained], drained := true } }) ∧
    (oddFused s = false → (s.role.fused = true → s.pair.drained = true) →
    ∃ u : State, exec .roleResetDone s = .next u ∧
      u.pair = (if s.role.fused then { s.pair with tx := s.pair.tx ++ [.spare], drained := false } else s.pair) ∧ u.role = { s.role with role := .spare, slot := 0, epoch := 0, resetting := false } ∧
      u.troupe.mepoch = 0 ∧ u.troupe.mnode = 0 ∧ u.troupe.dnode = 0 ∧ u.troupe.dvalid = false ∧ u.troupe.solo = false ∧ u.troupe.dgen = 0 ∧
      u.troupe.slots = [] ∧ u.troupe.leaseEnd = none ∧ u.troupe.slrx = [] ∧ u.troupe.node = s.troupe.node ∧ u.troupe.arb = s.troupe.arb ∧
      u.rings.en = false ∧ u.iq = s.iq ∧ u.entries = s.entries ∧ u.dma = s.dma ∧ u.vs = s.vs ∧ u.log = s.log)) ∧
  ∀ (s : State) (e : Nat), hubListens s = true → s.troupe.leaseEnd = some e → e ≤ s.troupe.now →
    (s.role.role = .worker ∨ s.role.role = .deputy → ∃ u : State, exec .leaseExpiry s = .next u ∧ fencedAs 1 true s u) ∧
    (s.role.role = .manager → s.troupe.solo = false → ∃ u : State, exec .managerLeaseExpiry s = .next u ∧ fencedAs 1 true s u)

/-- R22, R422 to R424, R430, R431: what becomes of a message, whatever its type. A hub that is not up takes none; one for another node, or of a
type that the role does not accept, is dropped and counted in SLSTAT.BAD; one that fails the checks of its term is counted in SLSTAT.STALE, and a
manager answers it with FENCED once in 8 µs for a node; while the hold-up flush runs an accepted role message does nothing (which those are:
notes/assumptions/63.md). A timer that has run out by then comes first, and the ODD tile of a pair takes none (notes/assumptions/71.md). -/
def Obligations.MessagesAreCheckedFirst : Prop :=
  (∀ r ∈ messageRows, ∀ (m : Msg) (s0 : State), m.type.toNat = r.2 →
    (hubListens s0 = false → exec (r.1 m) s0 = .next s0) ∧
    let s := met r.2 m s0
    (oddFused s = true → exec (r.1 m) s0 = .next s) ∧
    (hubListens s0 = true → oddFused s = false → m.dst ≠ s.troupe.node ∨ r.2 ∉ acceptedTypes s.role.role →
      exec (r.1 m) s0 = .next { s with troupe := { s.troupe with bad := satInc s.troupe.bad } }) ∧
    (hubListens s0 = true → oddFused s = false → msgFate s m = .stale → s.role.role ≠ .manager →
      exec (r.1 m) s0 = .next { s with troupe := { s.troupe with stale := satInc s.troupe.stale } }) ∧
    (hubListens s0 = true → oddFused s = false → msgFate s m = .stale → s.role.role = .manager →
      let s1 : State := { s with troupe := { s.troupe with stale := satInc s.troupe.stale } }
      let quiet : Bool := match Tab.find s.troupe.fencedAt m.src.toNat with
        | some x => decide (s.troupe.now < x + 8000)
        | none => false
      exec (r.1 m) s0 = .next (if quiet then s1 else
        sendMsg (hubMsg s1 0x10 m.src m.slot m.epoch 0 0 0 0 0)
          { s1 with troupe := { s1.troupe with fencedAt := Tab.insert s.troupe.fencedAt m.src.toNat s.troupe.now } })) ∧
    (hubListens s0 = true → oddFused s = false → msgFate s m = .accepted → s.pwr.flush.isSome = true → roleMessage m = true →
      exec (r.1 m) s0 = .next s)) ∧
  (∀ (m : Msg) (s : State), hubListens s = true → oddFused s = false → m.dst ≠ s.troupe.node ∨ typeListed m.type.toNat = false →
    exec (.reservedMessage m) s = .next { s with troupe := { s.troupe with bad := satInc s.troupe.bad } }) ∧
  (∀ (m : Msg) (s : State), m.dst = s.troupe.node → m.type.toNat ∈ acceptedTypes s.role.role →
    (s.role.role = .spare → msgFate s m = .accepted) ∧
    (s.role.role = .worker → m.type ≠ 0x10 → (msgFate s m = .accepted ↔
      m.src = s.troupe.mnode ∧ m.mepoch = s.troupe.mepoch ∧ m.slot = s.role.slot ∧ m.epoch = s.role.epoch)) ∧
    (s.role.role = .worker → m.type = 0x10 → (msgFate s m = .accepted ↔ m.src = s.troupe.mnode ∧ m.slot = s.role.slot ∧ m.epoch = s.role.epoch)) ∧
    (s.role.role = .manager → m.type = 0x09 → msgFate s m = .accepted) ∧
    (s.role.role = .manager → m.type = 0x02 ∨ m.type = 0x0F ∨ m.type = 0x11 → s.troupe.dvalid = false ∨ m.src ≠ s.troupe.dnode →
      (msgFate s m = .accepted ↔ m.mepoch = s.troupe.mepoch ∧ m.epoch = (s.slotOf m.slot).epoch ∧ (s.slotOf m.slot).st = .live)) ∧
    (s.role.role = .manager → m.type = 0x0B → s.troupe.dvalid = false ∨ m.src ≠ s.troupe.dnode →
      (msgFate s m = .accepted ↔ m.mepoch = s.troupe.mepoch ∧ m.epoch = (s.slotOf m.slot).epoch ∧ (s.slotOf m.slot).st = .admitting)) ∧
    (msgFate s m = .accepted ∨ msgFate s m = .stale)) ∧
  ∀ (m : Msg) (s : State), s.wrap.hold = false → s.role.fused = false ∨ s.id.pairpos ≠ 2 →
    sendMsg m s = { s with troupe := { s.troupe with tx := s.troupe.tx ++ [m] } }

/-- R423, R426, R428, R431, R433 to R435, R437 to R439, R441, R442, R452, R504: what each message does on the tile that accepts it. -/
def Obligations.AcceptedMessages : Prop :=
  ∀ (m : Msg) (s : State), heard m s →
    let own (type : Nat) : Prop := m.type.toNat = type
    (own 0x01 → s.role.role = .worker → leaseOver s = true → ∃ u : State, exec (.heartbeat m) s = .next u ∧ fencedAs 1 true s u) ∧
    (own 0x01 → s.role.role = .worker → leaseOver s = false → s.role.fused = false →
      let rounds := ((m.hbseq, s.troupe.now) :: s.troupe.rounds.filter (fun r => r.1 != m.hbseq)).take 16
      let lease := match rounds.find? (fun r => r.1 == m.ackseq) with
        | none => s.troupe.leaseEnd
        | some r => some (Nat.max (s.troupe.leaseEnd.getD 0) (r.2 + 64000))
      let s1 : State := { s with troupe := { s.troupe with rounds := rounds, leaseEnd := lease } }
      exec (.heartbeat m) s = .next (sendMsg (hubMsg s1 0x02 s.troupe.mnode s.role.slot s.role.epoch m.hbseq 0 0 0 0) s1)) ∧
    (own 0x01 → s.role.role = .deputy → exec (.heartbeat m) s = .next { s with troupe := { s.troupe with
      rounds := ((m.hbseq, s.troupe.now) :: s.troupe.rounds.filter (fun r => r.1 != m.hbseq)).take 16
      depRound := m.hbseq, lastHb := s.troupe.now } }) ∧
    (own 0x02 → slotSilent m.slot s = true → ∃ u : State, exec (.hback m) s = .next u ∧ (u.slotOf m.slot).st = .dead) ∧
    (own 0x02 → slotSilent m.slot s = false → exec (.hback m) s = .next (setSlot m.slot { s.slotOf m.slot with ackAt := s.troupe.now, ackRound := m.hbseq } s)) ∧
    (own 0x03 → exec (.dephb m) s = .next { s with troupe := { s.troupe with
      depRound := m.hbseq
      leaseEnd := if s.troupe.claim = .lost then s.troupe.leaseEnd else match s.troupe.rounds.find? (fun r => r.1 == m.hbseq) with
        | none => s.troupe.leaseEnd
        | some r => some (Nat.max (s.troupe.leaseEnd.getD 0) (r.2 + 64000)) } }) ∧
    (own 0x08 → exec (.probe m) s = .next (sendMsg (hubMsg s 0x09 m.src (if s.role.role = .worker then s.role.slot else 0) s.role.epoch 0 0
      Config.version s.id.word s.role.word) s)) ∧
    (own 0x0A → s.pair.busy = false → s.role.fused = false → s.fuses.now ≠ 5 →
      let s1 : State := arrive srcRoleChange { s with
        role := { s.role with role := .worker, slot := m.slot, epoch := m.epoch }
        troupe := { s.troupe with
          mnode := m.src, mepoch := m.mepoch, rounds := [(m.hbseq, s.troupe.now)], leaseEnd := some (s.troupe.now + 64000), releasing := false,
          lastSlot := m.slot } }
      exec (.admitMsg m) s = .next (sendMsg (hubMsg s1 0x0B m.src m.slot m.epoch m.hbseq 0 0 0 0) s1)) ∧
    (own 0x0A → s.pair.busy = true ∨ s.fuses.now = 5 → exec (.admitMsg m) s = .next s) ∧
    (own 0x0B → timely s → ∃ u : State, exec (.admitack m) s = .next u ∧ (u.slotOf m.slot).st = .live ∧ (u.slotOf m.slot).ackAt = s.troupe.now ∧
      (u.slotOf m.slot).ackRound = m.hbseq ∧ (u.slotOf m.slot).epoch = (s.slotOf m.slot).epoch ∧ (u.slotOf m.slot).node = (s.slotOf m.slot).node ∧
      (∀ till, s.troupe.busy = .admission m.slot till → u.troupe.busy = .no ∧ u.troupe.result = 1) ∧
      (∀ n, n ≠ m.slot → u.slotOf n = s.slotOf n) ∧ u.role = s.role) ∧
    (own 0x0C → s.role.fused = true → exec (.appoint m) s = .next { s with troupe := { s.troupe with bad := satInc s.troupe.bad } }) ∧
    (own 0x0C → s.role.fused = false → s.fuses.now = 5 → exec (.appoint m) s = .next s) ∧
    (own 0x0C → s.role.fused = false → s.fuses.now ≠ 5 →
      let s1 : State := { s with
        role := { s.role with role := .deputy, slot := 0, epoch := m.mepoch }
        troupe := { s.troupe with
          mnode := m.src, mepoch := m.mepoch, dgen := m.m2.truncate 6, lastHb := s.troupe.now, depRound := 0, nextRound := s.troupe.now + 8000,
          rounds := [], leaseEnd := none, groups := [], claim := .no, lastSlot := 0 } }
      exec (.appoint m) s = .next (arrive srcRoleChange (sendMsg (hubMsg s1 0x0D m.src 0 m.mepoch 0 0 0 0 0) s1))) ∧
    (own 0x0D → timely s → ∀ node till, s.troupe.busy = .appoint node till → exec (.appointack m) s = .next { s with troupe := { s.troupe with
      dnode := node, dvalid := true, solo := false, depRound := 0, leaseEnd := some (till - 16000 + 64000), claim := .no, busy := .no, result := 1 } }) ∧
    (own 0x0E → s.role.fused = false → exec (.release m) s = .next { s with troupe := { s.troupe with releasing := true } }) ∧
    (own 0x0F → exec (.released m) s = .next (arrive srcSlLease (setSlot m.slot { s.slotOf m.slot with st := .empty } s))) ∧
    (own 0x10 → ∃ u : State, exec (.fenced m) s = .next u ∧ fencedAs 2 true s u) ∧
    (own 0x12 → let g := m.m2.toNat % 2 ^ 14
      let s1 : State := { s with troupe := { s.troupe with
        groups := Tab.modify 0 s.troupe.groups (g / 64) (fun x => x ||| BitVec.ofNat 64 (2 ^ (g % 64))) } }
      exec (.grpmirror m) s = .next (sendMsg (hubMsg s1 0x13 s.troupe.mnode 0 s.troupe.mepoch 0 0 m.m2 0 0) s1)) ∧
    (own 0x13 → exec (.grpack m) s = .next (match mirrorScan s (fun x => 64 * x.entry.toNat + (lowestBit x.bits).getD 0 == m.m2.toNat % 2 ^ 14) with
      | some x => scanAdd x s
      | none => s)) ∧
    ∀ c : Instr, (own 0x09 ∧ c = .proberep m) ∨ (own 0x11 ∧ c = .alert m) ∨ (0x20 ≤ m.type.toNat ∧ m.type.toNat ≤ 0x3F ∧ c = .firmwareMessage m) →
      (s.troupe.slrx.length < 64 → exec c s = .next (arrive srcSlMsg { s with troupe := { s.troupe with slrx := s.troupe.slrx ++ [m] } })) ∧
      (64 ≤ s.troupe.slrx.length → exec c s = .next { s with troupe := { s.troupe with
        ovf := true, rxovf := if ofFirmware m then satInc s.troupe.rxovf else s.troupe.rxovf } })

/-- R425, R428, R433, R434, R437 to R439, R441: the hub's timers and the claims of the arbitration word. -/
def Obligations.HubTimersAndClaims : Prop :=
  ∀ s : State, hubListens s = true →
    (s.role.role = .manager → hbFrozen s = false → s.troupe.nextRound ≤ s.troupe.now → s.wrap.hold = false → s.role.fused = false →
      ∃ u : State, exec .heartbeatRound s = .next u ∧ u.troupe.hbseq = s.troupe.hbseq + 1 ∧ u.troupe.nextRound = s.troupe.now + 8000 ∧
        u.troupe.slots = s.troupe.slots ∧ u.role = s.role ∧
        u.troupe.tx = s.troupe.tx ++ (roundSlots s).map (fun e => hubMsg s 0x01 e.2.node e.1 e.2.epoch (s.troupe.hbseq + 1) e.2.ackRound 0 0 0) ++
          (if s.troupe.dvalid then [hubMsg s 0x01 s.troupe.dnode 0 s.troupe.mepoch (s.troupe.hbseq + 1) s.troupe.depRound 0 0 0] else []) ∧
        ∀ e ∈ roundSlots s, e.2.st = .admitting ∨ e.2.st = .live) ∧
    (s.role.role = .deputy → s.troupe.nextRound ≤ s.troupe.now → exec .dephbTimer s =
      .next (sendMsg (hubMsg s 0x03 s.troupe.mnode 0 s.troupe.mepoch s.troupe.depRound 0 0 0 0)
        { s with troupe := { s.troupe with nextRound := s.troupe.now + 8000 } })) ∧
    (∀ slot : BitVec 7, s.role.role = .manager → hbFrozen s = false → (s.slotOf slot).st = .live → (s.slotOf slot).ackAt + 96000 ≤ s.troupe.now →
      exec (.slotDead slot) s = .next (arrive srcSlLease (setSlot slot { s.slotOf slot with st := .dead } s))) ∧
    (∀ slot till, s.troupe.busy = .admission slot till → till ≤ s.troupe.now → ∃ u : State, exec .admitTimeout s = .next u ∧
      u.troupe.busy = .no ∧ u.troupe.result = 3 ∧ ((s.slotOf slot).st = .admitting → (u.slotOf slot).st = .dead) ∧
      ∀ n, n ≠ slot → u.slotOf n = s.slotOf n) ∧
    (∀ node till, s.troupe.busy = .appoint node till → till ≤ s.troupe.now →
      exec .appointTimeout s = .next { s with troupe := { s.troupe with busy := .no, result := 3 } }) ∧
    (s.role.role = .worker → s.troupe.releasing = true → anyChain s = false → queuesEmpty s = true → (∀ e ∈ s.dma.chans, e.2.writes = []) →
      (oddFused s = true → s.pair.drained = false →
        exec .releaseDrainDone s = .next { s with pair := { s.pair with tx := s.pair.tx ++ [.drained], drained := true } }) ∧
      (oddFused s = false → (s.role.fused = true → s.pair.drained = true) →
      let s1 := sendMsg (hubMsg s 0x0F s.troupe.mnode s.role.slot s.role.epoch 0 0 0 0 0) s
      let s2 := arrive srcRoleChange { s1 with
        role := { s.role with role := .spare, slot := 0 }, troupe := { s1.troupe with leaseEnd := none, releasing := false } }
      exec .releaseDrainDone s = .next (if s.role.fused then
        { s2 with pair := { s.pair with tx := s.pair.tx ++ [.spare], drained := false } } else s2))) ∧
    (∀ (x : Scan) (till : Nat), x ∈ s.rings.scans → x.step = .mirror till → till ≤ s.troupe.now →
      ∃ y : Scan, y ∈ s.rings.scans ∧ (∃ till', y.step = .mirror till' ∧ till' ≤ s.troupe.now) ∧ exec .grpmirrorTimeout s = .next (scanAdd y s)) ∧
    (∀ e : Nat, s.role.role = .manager → s.troupe.solo = false → s.troupe.claim = .no → s.troupe.leaseEnd = some e → e < s.troupe.now + 32000 →
      exec .managerClaim s = .next (arrive srcSlLease { s with troupe := { s.troupe with claim := if claimRefused s then .lost else .out } })) ∧
    (∀ (code : RspCode) (old : W64), s.role.role = .manager → s.troupe.claim = .out → Owed.claim ∉ s.ports.owed →
      exec (.managerClaimResponse code old) s = .next (if code = .okay ∧ s.troupe.leaseEnd.all (fun e => s.troupe.now ≤ e) = true ∧ old.getLsbD 1 = false then
        let s1 := sendMsg (hubMsg s 0x10 s.troupe.dnode 0 s.troupe.mepoch 0 0 0 0 0) s
        { s1 with troupe := { s1.troupe with claim := .no, solo := true, dvalid := false, leaseEnd := none } }
      else { s with troupe := { s.troupe with claim := .lost } })) ∧
    (s.role.role = .deputy → (s.troupe.claim = .no ∧ s.troupe.lastHb + 96000 ≤ s.troupe.now) ∨ (∃ t, s.troupe.claim = .retry t ∧ t ≤ s.troupe.now) →
      exec .deputyClaim s = .next { s with troupe := { s.troupe with
        claim := if claimRefused s then .retry (s.troupe.now + 8000) else .out } }) ∧
    ∀ (code : RspCode) (old : W64), s.role.role = .deputy → s.troupe.claim = .out → Owed.claim ∉ s.ports.owed →
      (code ≠ .okay → exec (.deputyClaimResponse code old) s =
        .next { s with troupe := { s.troupe with claim := .retry (s.troupe.now + 8000) } }) ∧
      (code = .okay → old.getLsbD 0 = true → ∃ u : State, exec (.deputyClaimResponse code old) s = .next u ∧ fencedAs 1 true s u) ∧
      (code = .okay → old.getLsbD 0 = false → ∃ u : State, exec (.deputyClaimResponse code old) s = .next u ∧
        u.role = { s.role with role := .manager, slot := 0, epoch := s.troupe.mepoch + 1 } ∧ u.troupe.mepoch = s.troupe.mepoch + 1 ∧
        u.troupe.solo = true ∧ u.troupe.dvalid = false ∧ u.troupe.leaseEnd = none ∧ u.troupe.groups = [] ∧
        ∀ n : BitVec 7, (u.slotOf n).st = .dead ∧ (u.slotOf n).epoch = 0 ∧ (u.slotOf n).node = 0)

/-- R433, R434, R437, R442, R451: SLCMD does nothing while BUSY, ends with RESULT 2 on a tile that is no manager, and else does what its KIND says;
SLTXCTL with SEND sends the message that SLTXW holds, or sets REFUSED; SLRXCTL takes the oldest message off. -/
def Obligations.StringLinkCommands : Prop :=
  (∀ (who : Requester) (node : BitVec 8) (slot : BitVec 7) (s : State), mayAccess who 2 0x10018 s = true →
    let all : List Instr := [.slcmdProbe who node slot, .slcmdAdmit who node slot, .slcmdAppoint who node slot, .slcmdRelease who node slot,
      .slcmdFence who node slot]
    let done (r : BitVec 3) (u : State) : State := { u with troupe := { u.troupe with busy := .no, result := r } }
    (s.troupe.busy ≠ .no → ∀ c ∈ all, exec c s = .next (written who s)) ∧
    (s.troupe.busy = .no → s.role.role ≠ .manager → ∀ c ∈ all, exec c s = .next (written who (done 2 s))) ∧
    (s.troupe.busy = .no → s.role.role = .manager →
      let e := s.slotOf slot
      let toDeputy : Bool := s.troupe.dvalid && node == s.troupe.dnode
      exec (.slcmdProbe who node slot) s = .next (written who (done 1 (sendMsg (hubMsg s 0x08 node (if toDeputy then 0 else slot)
        (if toDeputy then s.troupe.mepoch else e.epoch) 0 0 0 0 0) s))) ∧
      (e.st = .admitting ∨ e.st = .live → exec (.slcmdAdmit who node slot) s = .next (written who (done 2 s))) ∧
      (e.st = .empty ∨ e.st = .dead → s.wrap.hold = false → s.role.fused = false →
        ∃ u : State, exec (.slcmdAdmit who node slot) s = .next (written who u) ∧
          u.slotOf slot = { e with st := .admitting, node := node, epoch := e.epoch + 1, ackRound := 0 } ∧
          u.troupe.busy = .admission slot (s.troupe.now + 16000) ∧ u.troupe.hbseq = s.troupe.hbseq ∧
          (∃ m : Msg, u.troupe.tx = s.troupe.tx ++ [m] ∧ m.type = 0x0A ∧ m.dst = node ∧ m.slot = slot ∧ m.epoch = e.epoch + 1 ∧
            m.mepoch = s.troupe.mepoch ∧ m.hbseq = s.troupe.hbseq) ∧
          ∀ n, n ≠ slot → u.slotOf n = s.slotOf n) ∧
      (s.wrap.hold = false → s.role.fused = false → ∃ u : State, exec (.slcmdAppoint who node slot) s = .next (written who u) ∧
        u.troupe.dgen = s.troupe.dgen + 1 ∧ u.troupe.busy = .appoint node (s.troupe.now + 16000) ∧ u.troupe.dvalid = s.troupe.dvalid ∧
        ∃ m : Msg, u.troupe.tx = s.troupe.tx ++ [m] ∧ m.type = 0x0C ∧ m.dst = node ∧ m.mepoch = s.troupe.mepoch ∧
          m.m2 = (s.troupe.dgen + 1).zeroExtend 64) ∧
      (e.st = .live → exec (.slcmdRelease who node slot) s =
        .next (written who (done 1 (sendMsg (hubMsg s 0x0E e.node slot e.epoch 0 0 0 0 0) s)))) ∧
      (e.st ≠ .live → exec (.slcmdRelease who node slot) s = .next (written who (done 2 s))) ∧
      (toDeputy = true → s.troupe.claim ≠ .out →
        let s1 := sendMsg (hubMsg s 0x10 node 0 s.troupe.mepoch 0 0 0 0 0) s
        exec (.slcmdFence who node slot) s = .next (written who (done 1
          { s1 with troupe := { s1.troupe with dvalid := false, solo := true, leaseEnd := none, claim := .no } }))) ∧
      (toDeputy = false → exec (.slcmdFence who node slot) s = .next (written who (done 1 (setSlot slot { e with st := .dead }
        (sendMsg (hubMsg s 0x10 e.node slot e.epoch 0 0 0 0 0) s))))))) ∧
  (∀ (who : Requester) (type : BitVec 8) (slot : BitVec 7) (toDep : Bool) (s : State), mayAccess who 2 0xD0040 s = true →
    let s1 : State := { s with troupe := { s.troupe with txType := type, txSlot := slot, txDep := toDep } }
    exec (.sltxSend who type slot toDep) s = .next (written who (match sltxTarget s1 with
      | none => { s1 with troupe := { s1.troupe with refused := true } }
      | some (node, sl, epoch) =>
        let w (i : Nat) : W64 := Tab.get 0 s.troupe.sltxw i
        sendMsg ⟨type, s.troupe.node, node, sl, epoch, s.troupe.mepoch, 0, 0, w 2, w 3, w 4, w 5, w 6, w 7⟩
          { s1 with troupe := { s1.troupe with refused := false } })) ∧
    (type.toNat < 0x20 ∨ 0x3F < type.toNat ∨ s.role.role = .spare → sltxTarget s1 = none) ∧
    (0x20 ≤ type.toNat → type.toNat ≤ 0x3F →
      (s.role.role = .worker → sltxTarget s1 = some (s.troupe.mnode, s.role.slot, s.role.epoch)) ∧
      (s.role.role = .deputy → sltxTarget s1 = some (s.troupe.mnode, 0, s.troupe.mepoch)) ∧
      (s.role.role = .fenced → type.toNat < 0x30 → sltxTarget s1 = none) ∧
      (s.role.role = .manager → toDep = true → s.troupe.dvalid = true → sltxTarget s1 = some (s.troupe.dnode, 0, s.troupe.mepoch)) ∧
      (s.role.role = .manager → toDep = true → s.troupe.dvalid = false → sltxTarget s1 = none) ∧
      (s.role.role = .manager → toDep = false → sltxTarget s1 =
        if (s.slotOf slot).st = .live then some ((s.slotOf slot).node, slot, (s.slotOf slot).epoch) else none))) ∧
  ∀ (who : Requester) (clear : Bool) (s : State), mayAccess who 2 0xD00C0 s = true →
    exec (.slrxPop who clear) s = .next (written who { s with troupe := { s.troupe with
      slrx := s.troupe.slrx.drop 1, ovf := if clear then false else s.troupe.ovf } })

/-- R23, R113, R185, R444, R445, R449, R450, R472, R476, R487: fusing and unfusing, and the words of the pair link. -/
def Obligations.MacaronPairs : Prop :=
  (∀ (who : Requester) (s : State), mayAccess who 2 0xD0100 s = true →
    (s.pair.busy = true ∨ s.role.fused = true → exec (.pairctlFuse who) s = .next (written who s)) ∧
    (s.pair.busy = false → s.role.fused = false →
      let fails (e : BitVec 4) : Prop := exec (.pairctlFuse who) s = .next (written who { s with pair := { s.pair with err := e } })
      if s.id.pairpos = 0 then fails 1
      else if s.role.role ≠ .spare then fails 2
      else if s.vs.wipePending = true then fails 6
      else if pairIdle s = false ∨ s.vs.baseEn = true then fails 3
      else exec (.pairctlFuse who) s = .next (written who { s with pair := { s.pair with busy := true, until_ := s.troupe.now + 100000 } })) ∧
    ∀ partnerIdle : Bool,
      (s.role.fused = false → exec (.pairctlUnfuse who partnerIdle) s = .next (written who s)) ∧
      (s.role.fused = true → s.role.role = .spare → pairIdle s = true → partnerIdle = true →
        exec (.pairctlUnfuse who partnerIdle) s = .next (written who (arrive srcPlEvent { s with
          role := { s.role with fused := false }, vs := { s.vs with baseEn := false }, pair := { s.pair with tx := s.pair.tx ++ [.unfuse] } }))) ∧
      (s.role.fused = true → s.role.role ≠ .spare ∨ pairIdle s = false ∨ partnerIdle = false →
        exec (.pairctlUnfuse who partnerIdle) s = .next (written who { s with pair := { s.pair with err := 3 } }))) ∧
  (∀ (p : Partner) (s : State), s.pair.busy = true → upRuns s = true →
    let fails (e : BitVec 4) : Prop := exec (.fuseComplete p) s = .next { s with pair := { s.pair with linkup := p.trained, busy := false, err := e } }
    if p.trained = false then fails 5
    else if p.pairpos = 0 ∨ p.pairpos = s.id.pairpos then fails 1
    else if p.spare = false ∨ s.role.role ≠ .spare then fails 2
    else if p.wipePending = true ∨ s.vs.wipePending = true then fails 6
    else if p.idle = false ∨ pairIdle s = false ∨ s.vs.baseEn = true then fails 3
    else if p.lifecycle ≠ s.fuses.now then fails 4
    else
      let odd := s.id.pairpos = 2
      exec (.fuseComplete p) s = .next (arrive srcPlEvent { s with
      pair := { s.pair with
        linkup := true, busy := false, failed := false, relay := [], drained := false, farFreeze := false,
        tx := if engFrozenHere s then s.pair.tx ++ [.freeze true] else s.pair.tx }
      role := { s.role with
        fused := true, epoch := if odd then p.epoch else s.role.epoch, freason := if odd then p.freason else s.role.freason }
      cal := { s.cal with tagPair := false }
      eng := { s.eng with time := if s.id.pairpos = 2 then p.engtime else s.eng.time } })) ∧
  (∀ s : State, s.pair.busy = true → upRuns s = true → s.pair.until_ ≤ s.troupe.now →
    exec .fuseTimeout s = .next { s with pair := { s.pair with busy := false, err := 1 } }) ∧
  (∀ (q : PairReq) (s : State), s.role.fused = true → s.pair.linkup = true → s.pair.failed = false → hubRuns s = true → s.cal.trPair = false →
    vclkRuns s = true →
    (8364032 ≤ q.word.toNat → exec (.pairLinkRequest q) s = .next { s with pair := { s.pair with
      answers := s.pair.answers ++ [(q.tag, ⟨0, false⟩, true)] } }) ∧
    (q.word.toNat < 8364032 → q.px = false → ∃ op : BankOp, exec (.pairLinkRequest q) s = .next { s with vs := { s.vs with
      reqs := s.vs.reqs ++ [⟨16, q.word.toNat, op, q.monitor, 0, false, .pair q.tag⟩] } } ∧
      (q.op = 0 → op = .read) ∧ (q.op = 1 → op = .write q.data q.be q.poison)) ∧
    (q.word.toNat < 8364032 → q.px = true → ∃ u : State, exec (.pairLinkRequest q) s = .next u ∧
      (s.chain q.slot = none → u = { s with vs := { s.vs with reqs := s.vs.reqs ++ [pairBankReq q] } }) ∧
      ∀ ch, s.chain q.slot = some ch →
        (pairDue s ch q = true → u = { s with vs := { s.vs with reqs := mergeByElem q s.vs.reqs } }) ∧
        (pairDue s ch q = false → u = { s with pair := { s.pair with inbox := s.pair.inbox ++ [q] } }))) ∧
  (∀ s : State, s.pair.linkup = true → s.pair.failed = false →
    exec .pairLinkFailure s = .next { s with pair := { s.pair with failed := true, relay := [] } }) ∧
  ∀ s : State, s.role.fused = true → s.pair.failed = false →
    (∀ f : BitVec 4, s.role.role ≠ .fenced → ∃ u : State, exec (.pairLinkControlWord (.enteredFenced f)) s = .next u ∧ fencedAs f false s u) ∧
    (∀ f : BitVec 4, s.role.role = .fenced → exec (.pairLinkControlWord (.enteredFenced f)) s = .next s) ∧
    (∀ m : Msg, m.type = 0x01 → s.role.role = .worker → leaseOver s = false →
      exec (.pairLinkControlWord (.heartbeat m)) s = .next { takeHeartbeat m s with pair := { s.pair with
        tx := s.pair.tx ++ [.heartbeatAck m.hbseq] } }) ∧
    (∀ n : BitVec 16, n ∈ s.pair.relay → s.role.role = .worker →
      exec (.pairLinkControlWord (.heartbeatAck n)) s = .next (sendMsg (hubMsg s 0x02 s.troupe.mnode s.role.slot s.role.epoch n 0 0 0 0)
        { s with pair := { s.pair with relay := s.pair.relay.erase n } })) ∧
    (∃ cause : BitVec 4, exec (.pairLinkControlWord .warmReset) s = .next (warmReset cause false { s with free := s.free + 1 })) ∧
    (∃ u : State, exec (.pairLinkControlWord .coldReset) s = .next u ∧ u.role.fused = false ∧ u.pair.linkup = false ∧
      (s.role.role = .worker ∨ s.role.role = .deputy ∨ s.role.role = .manager → u.role.role = .fenced ∧ u.role.freason = 6) ∧
      (s.role.role = .spare ∨ s.role.role = .fenced → u.role.role = s.role.role)) ∧
    (∀ i : Fin 4, exec (.pairLinkControlWord (.resume i)) s = .next (engfltWrite i 2 s) ∧
      exec (.pairLinkControlWord (.cancel i)) s = .next (engfltWrite i 4 s)) ∧
    (s.role.role = .fenced → s.pwr.flush = none →
      exec (.pairLinkControlWord .roleReset) s = .next { s with role := { s.role with resetting := true } }) ∧
    (∀ on : Bool, exec (.pairLinkControlWord (.freeze on)) s = .next { s with pair := { s.pair with farFreeze := on } }) ∧
    exec (.pairLinkControlWord .drained) s = .next { s with pair := { s.pair with drained := true } } ∧
    (s.role.role = .worker → ∃ u : State, exec (.pairLinkControlWord .spare) s = .next u ∧ u.role = { s.role with role := .spare, slot := 0 }) ∧
    (s.role.role = .fenced → ∃ u : State, exec (.pairLinkControlWord .spare) s = .next u ∧
      u.role = { s.role with role := .spare, slot := 0, epoch := 0, resetting := false }) ∧
    exec (.pairLinkControlWord .unfuse) s = .next (arrive srcPlEvent { s with
      role := { s.role with fused := false }, vs := { s.vs with baseEn := false } })

/-! ## The Vector Store -/

/-- R40 to R42, R48, R52, R63, R64, R168, R473: field repair, after which the spare goes on where its bank stood, the scrubber, the starvation
override and the wipe; a VCLK in the start-up counts ENGTIME and nothing else. -/
def Obligations.VectorStoreCommands : Prop :=
  (∀ (who : Requester) (lbank : BitVec 10) (spare : BitVec 2) (s : State), mayAccess who 2 0x30010 s = true →
    let names (e : VsMapEntry) : Bool := e.valid && e.lbank == lbank
    let refused : Bool := s.vs.repair.busy || spare == 3 || (s.vs.mapEntry spare.toNat).valid || 1020 < lbank.toNat || names s.vs.map0 ||
      names s.vs.map1 || names s.vs.map2
    let r := { s.vs.repair with lbank := lbank, spare := spare }
    let r' := if refused then { r with err := true } else { r with busy := true, row := 0, runLbank := lbank, runSpare := spare }
    exec (.vsRepairStart who lbank spare) s = .next (written who { s with vs := { s.vs with repair := r' } })) ∧
  (∀ s : State, vclkRuns s = true → s.vs.repair.busy = true → 8192 ≤ s.vs.repair.row →
    ∃ v : VStore, exec .vsRepairDone s = .next (arrive srcVsRepair { s with vs := v }) ∧
      v.mapEntry s.vs.repair.runSpare.toNat = ⟨s.vs.repair.runLbank, true, false⟩ ∧
      (∀ n, n < 3 → s.vs.repair.runSpare.toNat < 3 → n ≠ s.vs.repair.runSpare.toNat → v.mapEntry n = s.vs.mapEntry n) ∧
      v.repair = { s.vs.repair with busy := false, done := true, row := 0 } ∧ v.mem = s.vs.mem ∧ v.reqs = s.vs.reqs ∧
      let old := s.vs.phys s.vs.repair.runLbank.toNat
      let spare := 1021 + s.vs.repair.runSpare.toNat
      v.bptr = Tab.set 0 s.vs.bptr spare (Tab.get 0 s.vs.bptr old) ∧
      v.halves = (match Tab.find s.vs.halves old with
        | some h => Tab.insert (Tab.erase s.vs.halves old) spare h
        | none => s.vs.halves)) ∧
  (∀ s : State, vclkRuns s = true → s.vs.scrubEn = true → s.vs.wipePending = false → s.vs.scrubWait = 0 → (∀ r ∈ s.vs.reqs, r.rq ≠ 18) →
    (∀ h ∈ s.vs.halves, h.2.dest ≠ .scrub) →
    exec .scrubStep s = .next { s with vs := { s.vs with reqs := s.vs.reqs ++ [⟨18, s.vs.scrubWord, .read, true, 0, false, .scrub⟩] } }) ∧
  (∀ s : State, vclkEdges s = true → vclkRuns s = false →
    exec .bankGrantCycle s = .next { s with eng := { s.eng with time := s.eng.time + 1 } }) ∧
  (∀ (rq word : Nat) (s : State) (r : BankReq), r ∈ s.vs.reqs → r.rq = rq → r.word = word → 12 ≤ rq → 512 ≤ r.age → r.ovr = false →
    exec (.starvationOverride rq word) s = .next { s with vs := { s.vs with reqs := s.vs.reqs.map (fun q =>
      if q.rq = rq ∧ q.word = word ∧ 512 ≤ q.age then { q with ovr := true } else q) } }) ∧
  (∀ s : State, vclkRuns s = true → s.vs.wipePending = true → s.vs.wipeBusy = false → s.wrap.hold = false →
    exec .wipeStart s = .next { s with vs := { s.vs with wipeBusy := true, wipeRow := 7680 } }) ∧
  ∀ s : State, s.vs.wipePending = true → s.vs.wipeBusy = true → 8192 ≤ s.vs.wipeRow →
    let s1 : State := { s with vs := { s.vs with wipePending := false, wipeBusy := false, wipeRow := 7680 } }
    exec .wipeDone s = .next (if s.rst.phase = .up then arrive srcVsWipedone s1 else s1)

/-- R43 to R45, R51, R54, R58, R61 to R63, R166, R239: what one VCLK does for a request that waits alone. A read brings the word, corrected or
poisoned; a write of all eight bytes replaces the word and its condition and no other word, that of an UNLOCK only while its core holds the
reservation; a write of some bytes reads and leaves its write half to the next VCLK, in which the bank serves that half; a refused access changes no
word and is recorded; a wipe's row comes first, and while it is pending nothing else is granted and secure words are refused. A VCLK in which a
trigger-linked launch falls ends after that launch. -/
def Obligations.BanksServeRequests : Prop :=
  (∀ s : State, vclkRuns s = true → detLaunchDue s = false →
    let g := grantCycle (qualRuns s) (presentProgs s)
    exec .bankGrantCycle s = .next (wakeRecords (bootWatch (g.1.foldl (fun s x => deliverAnswer x s) g.2)))) ∧
  (∀ (r : BankReq) (s : State), s.vs.reqs = [r] → s.vs.halves = [] → s.vs.repair.busy = false → s.vs.wipePending = false → detHeld s r = false →
    r.word < 8364032 →
    let g := grantCycle false s
    let key := s.vs.keyOf r.word
    let refused : Bool := isSecureWord r.word && !r.secure
    g.2.eng.time = s.eng.time + 1 ∧ g.2.vs.reqs = [] ∧
    (refused = true → g.1 = [(r.dest, r.word, .refused r)] ∧ g.2.vs.mem = s.vs.mem ∧ g.2.vs.deny = true ∧ g.2.vs.denyReq = BitVec.ofNat 5 r.rq ∧
      g.2.vs.denyCnt = satInc s.vs.denyCnt) ∧
    (refused = false → r.op = .read → r.dest ≠ .repair → r.dest ≠ .scrub → r.isUnlock = false →
      g.1 = [(r.dest, r.word, .data ⟨s.vs.mem.word key, s.vs.mem.err key == .double || s.vs.mem.err key == .poison⟩)] ∧ g.2.vs.mem = s.vs.mem ∧
      g.2.vs.halves = []) ∧
    (∀ (c : CoreId) (w : Nat) (d : W64), refused = false → r.op = .write d 255 false → r.dest = .unlock c w →
      let holds : Bool := (s.core c).lockRes == some (BitVec.ofNat 46 (w / 8))
      g.1 = [(r.dest, r.word, .data ⟨if holds then 1 else 0, false⟩)] ∧ g.2.vs.halves = [] ∧
      (holds = true → g.2.vs.mem.word key = d) ∧ (holds = false → g.2.vs.mem = s.vs.mem) ∧ (g.2.core c).lockRes = (s.core c).lockRes) ∧
    (∀ (d : W64) (p : Bool), refused = false → r.op = .write d 255 p → r.isUnlock = false →
      g.1 = [(r.dest, r.word, .done 0)] ∧ g.2.vs.halves = [] ∧ g.2.vs.mem.word key = d ∧ g.2.vs.mem.err key = (if p then .poison else .good) ∧
      ∀ k, k ≠ key → g.2.vs.mem.word k = s.vs.mem.word k ∧ g.2.vs.mem.err k = s.vs.mem.err k) ∧
    (∀ (d : W64) (be : BitVec 8) (p : Bool), refused = false → r.op = .write d be p → be ≠ 255 → r.isUnlock = false →
      g.1 = [] ∧ g.2.vs.mem = s.vs.mem ∧
      let bad := s.vs.mem.err key == .double || s.vs.mem.err key == .poison || p
      g.2.vs.halves = [(s.vs.bankOf r.word, ⟨r.word, mergeBytes (s.vs.mem.word key) d be, bad, 0, r.rq, r.dest⟩)])) ∧
  (∀ (b : Nat) (h : WriteHalf) (s : State), s.vs.reqs = [] → s.vs.halves = [(b, h)] → s.vs.repair.busy = false → s.vs.wipePending = false →
    let g := grantCycle false s
    let key := s.vs.keyOf h.word
    g.1 = [(h.dest, h.word, .done h.flags)] ∧ g.2.vs.halves = [] ∧ g.2.vs.mem.word key = h.data ∧
    g.2.vs.mem.err key = (if h.poison then .poison else .good) ∧
    ∀ k, k ≠ key → g.2.vs.mem.word k = s.vs.mem.word k ∧ g.2.vs.mem.err k = s.vs.mem.err k) ∧
  ∀ s : State, s.vs.wipePending = true → s.vs.wipeBusy = true → s.vs.wipeRow < 8192 →
    let g := grantCycle false s
    g.2.vs.wipeRow = s.vs.wipeRow + 1 ∧
    ((∀ r ∈ s.vs.reqs, isSecureWord r.word = false) → g.2.vs.reqs.length = s.vs.reqs.length) ∧
    (s.vs.halves = [] →
      g.1 = ((s.vs.reqs.filter (fun r => !notPresented s r)).filter (fun r => isSecureWord r.word)).map (fun r => (r.dest, r.word, .refused r))) ∧
    ∀ p row : Nat, p < 1024 → row < 8192 →
      if row = s.vs.wipeRow then g.2.vs.mem.word (wordKey p row) = 0 ∧ g.2.vs.mem.err (wordKey p row) = .good
      else g.2.vs.mem.word (wordKey p row) = s.vs.mem.word (wordKey p row) ∧ g.2.vs.mem.err (wordKey p row) = s.vs.mem.err (wordKey p row)

/-! ## Chains -/

/-- R88, R146 to R148, R151 to R153, R156, R166, R372: the way of a chain from its queue to launch. The engine reads the program of the next unread
chain of the head group, from the Vector Store by requests of PX and from pooled memory as the caches leave it; a complete group is checked, and a
chain that fails is rejected with VORX and CAUSE; a member consumes one arrival of its trigger source; and the head that R152 chooses launches, one
in a VCLK, at chain time 0 with the ENGTIME of that VCLK, leaving its queue. In deterministic mode a launch due at 3 VCLK after the completion that
triggers it can be made, and the VCLK does not end before it. -/
def Obligations.ChainsReachLaunch : Prop :=
  (∀ (c : CoreId) (e : Fin 8) (w : Nat → List W64) (rsp : List LineRsp) (s : State), nextToRead c s = some e → vclkRuns s = true →
    let q := s.entry c e
    let n := hNvor (w 0)
    ((∀ i ≤ (if 16 < n then 0 else n), readProgLine q i rsp s = .words (w i)) →
      exec (.chainProgramRead c rsp) s = .next (setEntry c e { q with
        stage := .read, hdr := w 0, vors := if n = 0 ∨ 16 < n then [] else (List.range n).map (fun v => vorOf (w (v + 1))) } s)) ∧
    (∀ (code : RspCode) (addr : Nat) (isWord : Bool), readProgLine q 0 rsp s = .fail code addr isWord →
      exec (.chainProgramRead c rsp) s =
        .next (setEntry c e { q with stage := .readFailed ⟨0x10, code, BitVec.ofNat 52 addr, isWord⟩ } s)) ∧
    ∀ (v : Nat) (code : RspCode) (addr : Nat) (isWord : Bool), v < n → n ≤ 16 → (∀ i ≤ v, readProgLine q i rsp s = .words (w i)) →
      readProgLine q (v + 1) rsp s = .fail code addr isWord →
      exec (.chainProgramRead c rsp) s =
        .next (setEntry c e { q with stage := .readFailed ⟨v, code, BitVec.ofNat 52 addr, isWord⟩, hdr := w 0 } s)) ∧
  (∀ (q : QEntry) (i line : Nat) (rsp : List LineRsp) (l : BitVec 46) (d : Line) (s : State), (i = 0 → q.hdr = []) → progSrc s q i = .ext line →
    rsp.find? (fun r => r.line.toNat == line) = some ⟨l, .okay, d⟩ →
    readProgLine q i rsp s = .words (lineWords (coherentLine s line .okay d))) ∧
  (∀ (q : QEntry) (i w0 addr : Nat) (isWord : Bool) (rsp : List LineRsp) (s : State), (i = 0 → q.hdr = []) →
    progSrc s q i = .vs w0 addr isWord →
    (∀ x : Nat → W64, (∀ j < 8, q.got.find? (fun g => g.1 == 8 * i + j) = some (8 * i + j, some ⟨x j, false⟩)) →
      readProgLine q i rsp s = .words [x 0, x 1, x 2, x 3, x 4, x 5, x 6, x 7]) ∧
    (q.got.find? (fun g => g.1 == 8 * i) = some (8 * i, none) →
      readProgLine q i rsp s = .fail .etgt (if isWord then w0 else addr) isWord) ∧
    ∀ d : W64, q.got.find? (fun g => g.1 == 8 * i) = some (8 * i, some ⟨d, true⟩) →
      readProgLine q i rsp s = .fail .epoi (if isWord then w0 else addr) isWord) ∧
  (∀ (c : CoreId) (e : Fin 8) (i w0 addr : Nat) (isWord : Bool) (s : State), nextToRead c s = some e → s.role.fused = false →
    (∀ r ∈ s.vs.reqs, ∀ j, r.dest ≠ .prog c e j) → nextProgLine (s.entry c e) s = some i → progSrc s (s.entry c e) i = .vs w0 addr isWord →
    let asks := (List.range 8).map (fun j => bankReq 12 (w0 + j) .read ((s.entry c e).cap.priv == 2) (.prog c e (8 * i + j)))
    presentProg c s = { s with vs := { s.vs with reqs := s.vs.reqs ++ asks } }) ∧
  (∀ (c : CoreId) (e : Fin 8) (s : State), vclkRuns s = true → groupArrived c s = true → headGroup c s = [e] →
    (ownCheck s true (s.entry c e) = none → groupMalformed [s.entry c e] = false →
      exec (.chainCheck c) s = .next (wakeRecords (setEntry c e { s.entry c e with stage := .ready } s))) ∧
    ∀ vorx cause : Nat, ownCheck s true (s.entry c e) = some (vorx, cause) → (s.entry c e).final = false → (s.entry c e).orphan = false →
      ∃ u : State, exec (.chainCheck c) s = .next (wakeRecords u) ∧ u.iq.get c = (s.iq.get c).erase e ∧ (u.entry c e).stage = .gone ∧
        (u.entry c e).record = some (mkStatus stRejected false vorx (BitVec.ofNat 8 cause) 0 (hTag (s.entry c e).hdr) 0 0 0) ∧
        (u.entry c e).final = true ∧ u.vs = s.vs ∧ (∀ i, u.chain i = s.chain i) ∧ u.eng.rejectT.get c = some s.eng.time) ∧
  (∀ (c : CoreId) (s : State), s.eng.rejectT.get c = some s.eng.time → headGroup c s = []) ∧
  (∀ (c : CoreId) (e : Fin 8) (s : State), upRuns s = true → vclkRuns s = true → canConsume c e s = true →
    exec (.triggerConsume c e) s = .next (setEntry c e { s.entry c e with
        trig := true,
        trigAt := if (Tab.get evSrc0 s.ev (hTsrc (s.entry c e).hdr)).trgcnt = 1 then pulseAt s (hTsrc (s.entry c e).hdr) else none }
      { s with ev := Tab.modify evSrc0 s.ev (hTsrc (s.entry c e).hdr) (fun x => { x with trgcnt := x.trgcnt - 1 }) }) ∧
    hTen (s.entry c e).hdr = true ∧ (s.entry c e).trig = false ∧ (Tab.get evSrc0 s.ev (hTsrc (s.entry c e).hdr)).trgcnt ≠ 0) ∧
  (∀ s : State, launchedNow s = true → ∃ why, exec .chainLaunch s = .refused why) ∧
  (∀ s : State, vclkRuns s = true → detLaunchDue s = true → (∃ why, exec .bankGrantCycle s = .refused why) ∧
    ((∃ t, exec .chainLaunch s = .next t) ∨ ∃ c e t, exec (.triggerConsume c e) s = .next t)) ∧
  ∀ (c : CoreId) (e : Fin 8) (rest : List (Fin 8)) (slot : Fin 4) (free : List (Fin 4)) (s : State), vclkRuns s = true → launchHeld s = false →
    engFrozen s = false → launchedNow s = false → nextLauncher s = some c → s.iq.get c = e :: rest → headGroup c s = [e] → freeSlots s = slot :: free →
    let q := s.entry c e
    let ch := newChain s c e false q.hdr q.vors q.cap [slot]
    (∃ u : State, exec .chainLaunch s = .next (enterTime slot u) ∧ u.chain slot = some ch ∧ u.iq.get c = rest ∧
      (u.entry c e).stage = .gone ∧ u.eng.lastCore = coreNum s c ∧ u.eng.lastLaunch = some s.eng.time ∧ u.eng.launch = s.eng.launch.bump 1 ∧ u.vs = s.vs ∧ u.ev = s.ev ∧
      ∀ i, i ≠ slot → u.chain i = s.chain i) ∧
    ch.time = 0 ∧ ch.launchT = s.eng.time ∧ ch.hdr = q.hdr ∧ q.stage = .ready ∧ (flying s).length + 1 ≤ 4 ∧ pipesHeld s &&& hPipes q.hdr = 0 ∧
    (hTen q.hdr = true → q.trig = true) ∧ pipeCount (pipesHeld s ||| hPipes q.hdr) ≤ pipeLimit s ∧
    (s.eng.detAct = true → hTen q.hdr = true → ∀ p, q.trigAt = some p → 2 ≤ (s.eng.time - p).toNat)

/-- R118, R141, R154, R155, R161, R167, R183, R184, R447, R448: a chain in flight that is no member of a larger group. At the end of a VCLK its
chain time advances by 1 where every action of it has completed, and else the VCLK is a stall, in which up to 192 words cross the pair link each way;
a poisoned index ends it there; complete, it leaves its slot with a DONE record where its issuing core is this tile's; RESUME and CANCEL act on a
valid fault record and on nothing else; and a change of ENGCFG.DET takes effect with no chain in flight. -/
def Obligations.ChainsInFlight : Prop :=
  (∀ (slot : Fin 4) (ch : Chain) (s : State), s.chain slot = some ch → vclkRuns s = true → ch.lastTick ≠ s.eng.time → ch.group = [slot] →
    ch.status = .running → chainComplete s slot ch = false →
    let k := { ch with lastTick := s.eng.time }
    let s0 := setChain slot k s
    let frozen : Bool := engFrozen s || (s.role.fused && pairHeld s) || s.vs.wipePending
    let s1 := tellPeer slot (pump slot s0)
    (frozen = true → exec (.chainTimeTick slot) s = .next (wakeRecords (journalProgress slot (stallChain slot (tellPeer slot s0))))) ∧
    (frozen = false → linearFaultNow s0 k = none → ∀ ch1 : Chain, s1.chain slot = some ch1 → ch1.status = .running →
      (timeDone s1 slot ch1 = true → poisonedIndex s1 slot ch1 = none →
        exec (.chainTimeTick slot) s = .next (wakeRecords (journalProgress slot (enterTime slot
          (withChain slot (fun k => { k with time := k.time + 1, presented := false }) (consumeLines slot s1)))))) ∧
      (∀ vi e : Nat, timeDone s1 slot ch1 = true → poisonedIndex s1 slot ch1 = some (vi, e) →
        exec (.chainTimeTick slot) s = .next (wakeRecords (journalProgress slot
          (tryEnd slot (failChain slot 0x4E vi 0 true (crossLink [slot] s1)))))) ∧
      (timeDone s1 slot ch1 = false →
        exec (.chainTimeTick slot) s = .next (wakeRecords (journalProgress slot (stallChain slot (crossLink [slot] s1))))))) ∧
  (∀ (slot : Fin 4) (ch : Chain) (s : State), s.chain slot = some ch →
    (stallChain slot s).chain slot = some { ch with stalls := ch.stalls + 1 } ∧ (stallChain slot s).eng.stall = s.eng.stall.bump 1 ∧
    (crossLink [slot] s).chain slot = some { ch with crossIn := ch.crossIn - 192, crossOut := ch.crossOut - 192 }) ∧
  (∀ (slot : Fin 4) (ch : Chain) (s : State), s.chain slot = some ch → vclkRuns s = true → chainComplete s slot ch = true → ch.group = [slot] →
    ∃ u : State, exec (.chainComplete slot) s = .next (wakeRecords u) ∧ u.chain slot = none ∧ (∀ i, i ≠ slot → u.chain i = s.chain i) ∧
      u.iq = s.iq ∧ u.vs.mem = s.vs.mem ∧ (u.eng.flt.get slot).valid = false ∧
      (ch.far = true → u.entries = s.entries ∧ u.ev = s.ev) ∧
      (ch.far = false → (s.entry ch.core ch.entry).final = false → (s.entry ch.core ch.entry).orphan = false →
        let exact := hExact ch.hdr && ch.stalls == 0 && ch.time == hTend ch.hdr
        let late := hExact ch.hdr && ch.stalls == 0 && ch.time != hTend ch.hdr
        (u.entry ch.core ch.entry).final = true ∧ (u.entry ch.core ch.entry).record =
          some (mkStatus stDone exact 0 (if late then 0x20 else 0) ch.flags (hTag ch.hdr) ch.time ch.stalls ch.launchT))) ∧
  (∀ (who : Requester) (slot : Fin 4) (s : State), mayAccess who 2 (0x40100 + 0x40 * slot.val) s = true →
    ((s.eng.flt.get slot).valid = false → exec (.chainResume who slot) s = .next (written who s) ∧
      ∀ r, exec (.chainCancel who slot r) s = .next (written who s)) ∧
    ((s.eng.flt.get slot).valid = true → s.role.fused = false → ∀ (ch : Chain) (f : SFault), s.chain slot = some ch → ch.status = .suspended f →
      (∃ u : State, exec (.chainResume who slot) s = .next (written who u) ∧ (u.eng.flt.get slot).valid = false ∧
        ∃ k : Chain, u.chain slot = some k ∧ k.status = .resuming ∧ k.told = true ∧ k.jtold = true) ∧
      ∀ r : Bool, exec (.chainCancel who slot r) s = .next (written who (tryEnd slot (failChain slot 0x4F f.vor 0 false
        (clearFault slot (tellSuspended slot s))))))) ∧
  ∀ s : State, vclkRuns s = true → s.eng.det ≠ s.eng.detAct → (∀ i, s.chain i = none) →
    exec .engdetTakeEffect s = .next { s with eng := { s.eng with detAct := s.eng.det } }

/-! ## Streams and the journal -/

/-- R156, R169, R170, R175, R178, R181, R189, R190, R271: the responses that a chain's streams and its journal wait for. A line brings its eight words,
poisoned on EPOI, and a fault held with it on EDEC or ETGT; a walk goes one level on, enters a translation or holds its fault with the page; a write
that fails ends its chain; a journal record is issued to line SEQ mod 2 once the one before is acknowledged, and one that fails ends journalling. -/
def Obligations.StreamsAndJournal : Prop :=
  (∀ (slot : Fin 4) (line : BitVec 46) (code : RspCode) (data : Line) (ch : Chain) (b : LineBuf) (s : State), s.chain slot = some ch →
    Owed.streamLine slot line.toNat ∉ s.ports.owed → ch.status = .running →
    ch.lines.find? (fun b => b.pline == line.toNat && b.words.isNone && b.fault.isNone && b.part.isEmpty) = some b →
    let words : List XWord := (lineWords (coherentLine s line.toNat code data)).map (fun d => ⟨d, code == .epoi⟩)
    let b' : LineBuf := match code with
      | .edec => { b with fault := some ⟨0x4A, 0, 0⟩ }
      | .etgt => { b with fault := some ⟨0x4B, 0, 0⟩ }
      | _ => { b with words := some words }
    exec (.streamLineResponse slot line code data) s = .next (wakeRecords (tryEnd slot (pump slot
      (setChain slot { ch with lines := ch.lines.map (fun l => if l = b then b' else l) } s))))) ∧
  (∀ (slot : Fin 4) (page : BitVec 36) (code : RspCode) (entry : W64) (w : SWalk) (s : State), Owed.streamWalk slot page.toNat ∉ s.ports.owed →
    s.eng.walks.find? (fun w => w.slot == slot && w.page == page.toNat) = some w → w.stale = false →
    let s1 : State := { s with eng := { s.eng with walks := s.eng.walks.erase w } }
    let held (f : HeldFault) : State :=
      withChain slot (fun ch => { ch with pageFaults := ch.pageFaults ++ [⟨page.toNat, w.key, w.write, f⟩] }) s1
    let e := streamEntry slot page.toNat code entry s
    let answers (u : State) : Prop := exec (.streamWalkResponse slot page code entry) s = .next (wakeRecords (tryEnd slot (pump slot u)))
    (code ≠ .okay → answers (held ⟨0x45, BitVec.ofNat 3 w.level, w.ea⟩)) ∧
    (code = .okay → pteV e = false → answers (held ⟨0x41, 0, 0⟩)) ∧
    (code = .okay → pteV e = true → isLeaf w.level e = true → w.inv = [] →
      let t := leafEntry w.cap.root 0 (page.toNat * 4096) w.level e
      (∀ f, leafCheck w.cap.priv.toNat w.write false w.write t = some f → answers (held ⟨leafCause f, 0, 0⟩)) ∧
      (leafCheck w.cap.priv.toNat w.write false w.write t = none →
        ∃ victim : Nat, answers { s1 with free := s.free + 1, eng := { s1.eng with tlb := tlbEnter 512 victim t s.eng.tlb } })) ∧
    (code = .okay → pteV e = true → isLeaf w.level e = false →
      let ea := entryAddr (pteAddr e) (page.toNat * 4096) (w.level + 1)
      answers (if walkDevice s1 ea then held ⟨0x46, BitVec.ofNat 3 (w.level + 1), BitVec.ofNat 52 ea⟩
        else { s1 with eng := { s1.eng with walks := s1.eng.walks ++ [{ w with level := w.level + 1, ea := BitVec.ofNat 52 ea }] } }))) ∧
  (∀ (slot : Fin 4) (line : BitVec 46) (code : RspCode) (ch : Chain) (w : LineWrite) (s : State), s.chain slot = some ch →
    Owed.streamWrite slot line.toNat ∉ s.ports.owed → ch.lwOut.find? (fun w => w.pline == line.toNat) = some w →
    let k := { ch with lwOut := ch.lwOut.erase w, jold := ch.jold.erase w }
    let answers (u : State) : Prop := exec (.streamWriteResponse slot line code) s = .next (wakeRecords (tryEnd slot (journalLate slot u)))
    let fails (cause : BitVec 8) : Prop :=
      answers (failChain slot cause w.vor (BitVec.ofNat 52 (line.toNat * 64)) true (setChain slot (noteLost w.vor w.e k) s))
    (code = .okay → answers (journalProgress slot (pump slot (setChain slot k s)))) ∧ (code = .edec → fails 0x4C) ∧
    (code = .etgt ∨ code = .epoi → fails 0x4D)) ∧
  (∀ (slot : Fin 4) (ch : Chain) (r : JRec) (s : State), s.chain slot = some ch → s.eng.tails.get slot = [] → vclkRuns s = true →
    s.role.role ≠ .spare → s.role.role ≠ .fenced → s.role.role ≠ .deputy → ch.journal.waiting = some r → ch.journal.outstanding = none →
    exec (.journalRecordIssue slot) s = .next (withChain slot (fun k => { k with journal := { ch.journal with
        seq := ch.journal.seq + 1, wmark := r.wmark, waiting := none, outstanding := some r } })
      (coherentWrite ((ch.journal.jbase.toNat * 128 + 64 * ((ch.journal.seq + 1) % 2)) / 64) s))) ∧
  ∀ (slot : Fin 4) (code : RspCode) (ch : Chain) (r : JRec) (s : State), s.chain slot = some ch → s.eng.tails.get slot = [] →
    Owed.journal slot ∉ s.ports.owed → ch.journal.outstanding = some r →
    (code = .okay → exec (.journalWriteResponse slot code) s =
      .next (setChain slot { ch with journal := { ch.journal with outstanding := none } } s)) ∧
    (code ≠ .okay → exec (.journalWriteResponse slot code) s = .next (logRecord 0x03 unitEngine
      (BitVec.ofNat 52 (ch.journal.jbase.toNat * 128 + 64 * (ch.journal.seq % 2))) (BitVec.ofNat 64 (codeNum code)) false (arrive srcEngJerr
        (setChain slot { ch with journal := { ch.journal with outstanding := none, waiting := none, jen := false } } s))))

/-! ## What reaches a core from outside its parcels -/

/-- R262, R271 to R275, R280, R317, R319, R328, R349, R350: the responses that a core awaits. A fill enters its line clean, a line that cannot be
had does not, and a parcel that waits for it executes again; a walk goes a level on, enters its leaf or keeps its fault; the oldest store-buffer
entry leaves as the drain rules say, and one that fails, like a write-back that fails, is a late bus error. -/
def Obligations.CoreResponses : Prop :=
  (∀ (c : CoreId) (fetch : Bool) (line : BitVec 46) (code : RspCode) (data : Line) (f : FillReq) (s : State),
    Owed.fill c fetch line ∉ s.ports.owed → dclkRuns s c = true →
    (s.core c).fills.find? (fun f => f.line == line && f.fetch == fetch) = some f → dirtyCopy s line.toNat = none →
    let got := setCore c { s.core c with fills := (s.core c).fills.erase f } s
    (waitsLine (s.core c) f.fetch f.line = false → code ≠ .okay → exec (.lineFillResponse c fetch line code data) s = .next got) ∧
    (waitsLine (s.core c) f.fetch f.line = false → code = .okay → fetch = false → f.cache = true → f.snooped = false → (s.core c).dcOn .cached = true →
      (s.core c).detOn = false → (s.core c).st ≠ .locked → Tab.find (s.core c).dcache line.toNat = none →
      ∃ u, exec (.lineFillResponse c fetch line code data) s = .next u ∧ Tab.find (u.core c).dcache line.toNat = some ⟨data, false⟩ ∧
        (u.core c).fills = (s.core c).fills.erase f ∧ (u.core c).run = (s.core c).run ∧ (u.core c).pc = (s.core c).pc ∧ u.vs = s.vs ∧
        ∀ d, d ≠ c → (u.core d).dcache = (s.core d).dcache) ∧
    (waitsLine (s.core c) f.fetch f.line = true → f.cache = false → exec (.lineFillResponse c fetch line code data) s =
      .next (runHeld c (noteGot c (fillWords (s.core c) f data (code != .okay)) got)))) ∧
  (∀ (k : Core) (h : Held) (f : FillReq) (w : BitVec 49) (cached : Bool) (d : Line) (bad : Bool), k.held = some h → h.why = .read w cached →
    fillWords k f d bad = if f.cache then lineGot f.line.toNat d bad else [⟨w.toNat, wordOfLine d (w.toNat % 8), bad⟩]) ∧
  (∀ (c : CoreId) (ea : BitVec 52) (code : RspCode) (entry : W64) (w : CWalk) (s : State), Owed.walk c ea ∉ s.ports.owed → dclkRuns s c = true →
    (s.core c).walks.find? (fun w => w.ea == ea) = some w → w.stale = false → (s.core c).st ≠ .locked →
    dirtyCopy s (ea.toNat / 64) = none →
    let s1 := setCore c { s.core c with walks := (s.core c).walks.erase w } s
    let again (u : State) : State := wakeWalks (retryWhen (fun h => h == .walk ea) c u)
    (∀ g, walkStep w (code == .okay) entry = .fault g → exec (.pageWalkResponse c ea code entry) s = .next (again (noteFault c ea g s1))) ∧
    (∀ t, walkStep w (code == .okay) entry = .leaf t → w.inv = [] →
      exec (.pageWalkResponse c ea code entry) s = .next (again (coreTlbEnter c t s1))) ∧
    (∀ table, walkStep w (code == .okay) entry = .deeper table →
      let s3 := if w.late then s1 else wcacheEnter c w table s1
      (∀ w1, walkDeeper s3 w table = .inl w1 → exec (.pageWalkResponse c ea code entry) s =
        .next (again (withCore c (fun k => { k with walks := k.walks ++ [w1] }) s3))) ∧
      ∀ g, walkDeeper s3 w table = .inr g → exec (.pageWalkResponse c ea code entry) s = .next (again (noteFault c ea g s3)))) ∧
  (∀ (w : CWalk) (e : W64), walkStep w false e = .fault ⟨w.lin.toNat / 4096, w.priv, w.need, 0x15, BitVec.ofNat 3 w.level, w.ea⟩ ∧
    (e.getLsbD 0 = false → walkStep w true e = .fault ⟨w.lin.toNat / 4096, w.priv, w.need, 0x11, BitVec.ofNat 3 w.level, w.ea⟩)) ∧
  (∀ (c : CoreId) (code : RspCode) (data : Line) (e : SbEntry) (rest : List SbEntry) (s : State), Owed.drain c ∉ s.ports.owed →
    dclkRuns s c = true → (s.core c).sb = e :: rest → e.began = true →
    let line := e.word.toNat / 8
    let late := lateError c (BitVec.ofNat 52 (e.word.toNat * 8)) false
    let s1 := setCore c { s.core c with sb := rest } s
    let after (u : State) : State :=
      retryWhen (fun h => h == .drain || h == .fence || h == .sbRoom) c (startDrain c (u.core c).sb.length u)
    let route := e.route.getD (routeOf s (e.word.toNat * 8))
    (∀ off, route = .vs off → (∀ r ∈ s.vs.reqs, r.dest ≠ .coreWrite c) → (∀ h ∈ s.vs.halves, h.2.dest ≠ .coreWrite c) →
      exec (.storeDrainResponse c code data) s = .next (after
        (if e.bad = true ∨ wordSpace s ≤ off / 8 ∨ ((homeWord s (off / 8)).isNone && partnerRefuses (off / 8) e.secure) = true then late s1 else s1))) ∧
    (∀ kind emp, route = .ext kind emp → (s.core c).st ≠ .locked →
      ((s.core c).dcOn kind = false → exec (.storeDrainResponse c code data) s =
        .next (after (if code = .okay then pastCaches c line s1 else late (pastCaches c line s1)))) ∧
      ((s.core c).dcOn kind = true → (Tab.find (s.core c).dcache line).isSome = true →
        exec (.storeDrainResponse c code data) s = .next (after (cacheStore c e.word.toNat e.data e.be s1))) ∧
      ((s.core c).dcOn kind = true → (Tab.find (s.core c).dcache line).isSome = false → (s.core c).detOn = false → dirtyCopy s1 line = none →
        exec (.storeDrainResponse c code data) s = .next (after
          (if code = .okay then cacheStore c e.word.toNat e.data e.be (dcacheEnter c line ⟨data, false⟩ s1) else late s1))))) ∧
  (∀ (c : CoreId) (line : BitVec 46) (code : RspCode) (w : BitVec 46 × Line) (s : State), Owed.writeback c line ∉ s.ports.owed →
    dclkRuns s c = true → (s.core c).wbs.find? (fun w => w.1 == line) = some w →
    let s1 := setCore c { s.core c with wbs := (s.core c).wbs.erase w } s
    exec (.writebackResponse c line code) s = .next (if code = .okay then s1
      else dropClean c line.toNat (lateError c (BitVec.ofNat 52 (line.toNat * 64)) true s1))) ∧
  (∀ (c : CoreId) (line : Nat) (d : DLine) (s : State), Tab.find (s.core c).dcache line = some d →
    (d.dirty = true → dropClean c line s = s) ∧
    (d.dirty = false → ((dropClean c line s).core c).dcache = Tab.erase (s.core c).dcache line)) ∧
  (∀ (c : CoreId) (pa : BitVec 52) (wb : Bool) (s : State),
    let b := (s.core c).belate
    ((lateError c pa wb s).core c).belate = if b.valid then { b with more := true } else { b with pa := pa, valid := true, wb := wb }) ∧
  ∀ (c : CoreId) (s : State) (word : Nat) (d : W64) (be : BitVec 8) (l : DLine), Tab.find (s.core c).dcache (word / 8) = some l →
    Tab.find ((cacheStore c word d be s).core c).dcache (word / 8) =
      some ⟨lineSetWord l.data (word % 8) (mergeBytes (wordOfLine l.data (word % 8)) d be), true⟩

/-- R267, R274, R278, R280, R282, R291, R342 to R344, R363, R365, R521, R522: what a core takes at a parcel boundary. A deliverable source is entered
at its level, the source number in ESTAT and the interrupted place in EPC, once an entry to level 7 finds bank 7 spilled; a halt saves the place in
DPC and enters nothing; a changed CORECFG takes effect once the core has drained, and leaves the loop buffer where LBEN, ICEN or DET changes. -/
def Obligations.CoreBoundaries : Prop :=
  (∀ (c : CoreId) (hdr : BitVec 8) (n : Nat) (s : State), (s.core c).sched.arm = false → interruptible (s.core c) = true →
    asyncAllowed s c = true → selectSource s c = some n →
    let free : Bool := !sevenWaits s c (Tab.get evSrc0 s.ev n).level.toNat
    ((s.core c).chk = none → free = true → exec (.interruptEntry c hdr) s = .next (stepEnd c (enterAsync c n s))) ∧
    ∀ src, (s.core c).chk = some src →
      (entryFails (s.core c).pc hdr = false → free = true → exec (.interruptEntry c hdr) s = .next (stepEnd c (enterAsync c n s))) ∧
      (entryFails (s.core c).pc hdr = true → sevenWaits s c ((s.core c).excLevel 0x03) = false →
        exec (.interruptEntry c hdr) s = .next (stepEnd c (enterExc c (excEntry src) (dropHeld c s))))) ∧
  (∀ (c : CoreId) (n : Nat) (s : State), selectSource s c = some n → mayDeliver s c n = true ∧
    ∀ m, m ∈ s.ev.map (fun e => e.1) → mayDeliver s c m = true → (Tab.get evSrc0 s.ev m).level ≤ (Tab.get evSrc0 s.ev n).level) ∧
  (∀ (c : CoreId) (n : Nat) (s : State), mayDeliver s c n = true →
    let k0 := s.core c
    let k := (enterAsync c n s).core c
    let lev := (Tab.get evSrc0 s.ev n).level
    let st := (k0.bank k0.level).status
    k.level = lev ∧ k.st = .running ∧ k.pc = BitVec.ofNat 48 ((s.evc.get c).vec.toNat * 1024 + 16 * lev.toNat) ∧ k.latent = [] ∧
    k.lockRes = none ∧ k.delay = none ∧ k.rep = none ∧ (k.bank lev).epc = k0.saved.epc ∧ (k.bank lev).eaddr = (k0.bank lev).eaddr ∧
    (k.bank lev).estat = mkEstat 0x40 true false k0.saved.rpend false false false n st ∧
    (k.bank lev).status = mkStatusWord (if lev = 7 then 2 else Nat.max (st.toNat % 4) 1) (st.getLsbD 2) lev.toNat ∧
    (∀ m, (k.bank m).oc = (k0.bank m).oc ∧ (k.bank m).rc = (k0.bank m).rc) ∧ (∀ m, m ≠ lev → k.bank m = k0.bank m) ∧
    (enterAsync c n s).evc = s.evc.set c { s.evc.get c with active := (s.evc.get c).active ||| BitVec.ofNat 8 (2 ^ lev.toNat) } ∧
    (enterAsync c n s).ev = s.ev) ∧
  (∀ (c : CoreId) (hdr : BitVec 8) (s : State), dclkRuns s c = true → interruptible (s.core c) = true → haltDue s c = true →
    (s.core c).held = none → (s.core c).chk = none →
    let k := s.core c
    let t := haltCore c (haltCause k.dbg) s
    exec (.coreHalt c hdr) s = .next t ∧ (t.core c).st = .halted ∧ (t.core c).dbg.cause = BitVec.ofNat 3 (haltCause k.dbg) ∧
    (t.core c).dbg.dpc = k.saved.epc ∧ (t.core c).dbg.drpend = k.saved.rpend ∧ (t.core c).dbg.haltreq = false ∧ (t.core c).lockRes = none ∧
    (t.core c).sb = k.sb ∧ (t.core c).level = k.level ∧ (∀ m, (t.core c).bank m = k.bank m) ∧ t.evc = s.evc ∧ t.ev = s.ev ∧ t.vs = s.vs ∧
    t.eng = s.eng) ∧
  ∀ (c : CoreId) (s : State), dclkRuns s c = true → (s.core c).cfg ≠ (s.core c).act → interruptible (s.core c) = true → (s.core c).held = none →
    (s.core c).divide = none → (s.core c).sb = [] →
    let old := (s.core c).act
    let new := (s.core c).cfg
    ∃ u, exec (.corecfgTakeEffect c) s = .next u ∧ (u.core c).act = new ∧ (u.core c).cfg = new ∧ (u.core c).latent = [] ∧
      (old.getLsbD 0 = true → new.getLsbD 0 = false → (u.core c).icache = []) ∧
      (old.getLsbD 1 = true → new.getLsbD 1 = false → (u.core c).dcache = []) ∧
      (u.core c).lbact = (if (old ^^^ new) &&& 0x19 = 0 then (s.core c).lbact else false) ∧ (u.core c).lbprev = (s.core c).lbprev ∧
      (old.getLsbD 4 = true → new.getLsbD 4 = false → ∀ l d, Tab.find (u.core c).dcache l = some d → d.dirty = false) ∧
      u.vs = s.vs ∧ u.eng = s.eng ∧ u.role = s.role

/-- R50, R287 to R291, R296, R300, R304 to R307: the spill engine moves one cell between a bank and its SPILL segment, at 8 × i from its start for
cell i of the operand stack and that far below its end for the return stack; where the place lies in the Vector Store its bank is asked, and the
operation goes on with the answer; what fails stops the engine for that stack, or locks the core up for bank 7. The scheduler's switch saves the
slot that leaves, loads the one that enters, and resumes it, with the check of a target that was still due. -/
def Obligations.SpillsAndSwitches : Prop :=
  (∀ (c : CoreId) (level : Fin 8) (ret : Bool) (r : EngRun) (s : State),
    let lv := BitVec.ofNat 3 level.val
    let s0 := engSet c (some r) s
    let k := s0.core c
    let b := k.bank lv
    let cells := if ret then b.rc else b.oc
    let count := (if ret then b.rsp else b.osp).toNat
    let d := spillSeg k lv
    let size := segLimit d.1.2 + 1
    let store := storeCell c r.rsp d.1 d.2 (if ret then size - 8 * (count + 1) else 8 * count) ((cells.getLast?).getD 0) s0
    let again (u : State) : State := retryWhen (fun h => h == .room ret || h == .seven) c u
    r.kind = .spill lv ret → spillServes s0 c = true → spillWanted s0 c lv ret = true → 8 * (b.osp.toNat + b.rsp.toNat + 1) ≤ size →
    count + 1 ≤ 2 ^ 24 - 1 →
    let gives (u : State) : Prop :=
      ((s.core c).eng = none → r.got = [] → r.next = 0 → r.wait = none → exec (.stackSpill c level ret r.rsp) s = .next u) ∧
      ∀ (r0 : EngRun) (g : EngAcc), (s.core c).eng = some r0 → r0.wait = some (g.word, g.wr) → g.data = 0 → g.bad = false →
        r = { r0 with got := r0.got ++ [g], next := 0, wait := none } → answerEng c (.done 0) s = u
    (∀ u s1, store = .ok u s1 → gives (again (withCore c (fun k => k.putBank lv
      (if ret then { b with rc := cells.dropLast, rsp := b.rsp + 1 } else { b with oc := cells.dropLast, osp := b.osp + 1 })) (engSet c none s1)))) ∧
    (∀ n q w wr, store = .wait n q w wr → gives (engAsk c r n q w wr s)) ∧
    ∀ e pa s1, store = .err e pa s1 → gives (again (if level = 7 then lockUp c 2 (engSet c none s1)
      else withCore c (fun k => k.rawBank lv (if ret then { k.bank lv with rerr := some e } else { k.bank lv with oerr := some e }))
        (engSet c none s1)))) ∧
  (∀ (c : CoreId) (ret : Bool) (rsp : List LineRsp) (s : State),
    let r : EngRun := ⟨.fill ret, rsp, [], 0, none⟩
    let s0 := engSet c (some r) s
    let k := s0.core c
    let b := k.run
    let cells := if ret then b.rc else b.oc
    let count := (if ret then b.rsp else b.osp).toNat
    let d := spillSeg k k.level
    let size := segLimit d.1.2 + 1
    let load := loadCell c rsp d.1 d.2 (if ret then size - 8 * count else 8 * (count - 1)) s0
    let again (u : State) : State := retryWhen (fun h => h == .cell ret) c u
    (s.core c).eng = none → spillServes s0 c = true → fillWanted k ret = true → count ≠ 0 → (if ret then b.rerr else b.oerr) = none →
    savePaused k = false →
    (∀ v s1, load = .ok v s1 → exec (.stackFill c ret rsp) s = .next (again (withCore c (fun k => k.putRun
      (if ret then { b with rc := cells ++ [v], rsp := b.rsp - 1 } else { b with oc := cells ++ [v], osp := b.osp - 1 })) (engSet c none s1)))) ∧
    (∀ n q w wr, load = .wait n q w wr → exec (.stackFill c ret rsp) s = .next (engAsk c r n q w wr s)) ∧
    ∀ e pa s1, load = .err e pa s1 → exec (.stackFill c ret rsp) s = .next (again (spillFails c k.level ret e (engSet c none s1)))) ∧
  (∀ (c : CoreId) (hdr : BitVec 8) (rsp : List LineRsp) (s : State), dclkRuns s c = true → (s.core c).sched.en = true → schedFrozen s = false →
    (s.core c).sb = [] → (s.core c).sched.arm = false → (s.core c).eng = none → (s.evc.get c).active = 0 →
    let o := exec (.taskSwitch c hdr rsp) s
    let k := s.core c
    let goes (out inn : Option Nat) (u : State) : Prop :=
      let r : EngRun := ⟨.switch out inn, rsp, [], 0, none⟩
      let u1 := withCore c (fun k => { k.sync with st := .switching }) u
      let u2 := engSet c (some r) u1
      let enters (v : State) : Prop := match inn with
        | none => o = .next (withCore c (fun k => { (k.rawBank 0 (bank0 0)) with st := .idle, lockRes := none, eng := none }) v)
        | some i => (∀ x s1, loadSlot c rsp ((v.core c).sched.at i) v = .ok x s1 → o = .next (enterSlot c i (engSet c none s1))) ∧
          (∀ n q w wr, loadSlot c rsp ((v.core c).sched.at i) v = .wait n q w wr → o = .next (engAsk c r n q w wr u1)) ∧
          ∀ e pa s1, loadSlot c rsp ((v.core c).sched.at i) v = .err e pa s1 → o = .next (switchError c i pa s1)
      match out with
      | none => enters u2
      | some i => (∀ x s1, saveSlot c rsp ((u2.core c).sched.at i) u2 = .ok x s1 → enters s1) ∧
        (∀ n q w wr, saveSlot c rsp ((u2.core c).sched.at i) u2 = .wait n q w wr → o = .next (engAsk c r n q w wr u1)) ∧
        ∀ e pa s1, saveSlot c rsp ((u2.core c).sched.at i) u2 = .err e pa s1 → o = .next (switchError c i pa s1)
    (k.st = .idle → ∀ i, k.sched.bestReady = some i → goes none (some i) s) ∧
    (k.st = .switching → goes (some k.sched.out.toNat) k.sched.bestReady s) ∧
    (k.st = .running → asyncAllowed s c = true → k.level = 0 → k.run.oc.length ≤ 32 → k.run.rc.length ≤ 32 → k.chk = none →
      ∀ o i, k.sched.runningSlot = some o → k.sched.bestReady = some i → (k.sched.at o).pri < (k.sched.at i).pri →
        goes (some o) (some i) (setCore c { k with
          sched := { k.sched.put o { k.sched.at o with st := .ready, pc := k.saved.epc, rpend := k.saved.rpend, chk := none } with
            slot := BitVec.ofNat 3 o, out := BitVec.ofNat 3 o }
          held := none } s))) ∧
  (∀ (c : CoreId) (i : Nat) (s : State), i < 8 →
    let t := (s.core c).sched.at i
    let k := (enterSlot c i s).core c
    k.st = .running ∧ k.pc = t.pc ∧ k.chk = t.chk ∧ k.tag = t.tag ∧ k.repResume = t.rpend ∧ k.level = 0 ∧ k.lockRes = none ∧
    k.sched.slot.toNat = i ∧ (k.sched.at i).st = (if (s.core c).sched.en then .running else .empty) ∧
    (∀ j, j ≠ i → k.sched.at j = (s.core c).sched.at j) ∧ k.bank 0 = (s.core c).bank 0) ∧
  ∀ (d : Sched) (i : Nat), d.bestReady = some i → (d.at i).st = .ready ∧ i < 8 ∧
    ∀ j, j < 8 → (d.at j).st = .ready → (d.at j).pri ≤ (d.at i).pri ∧ ((d.at j).pri = (d.at i).pri → i ≤ j)

/-! ## Rings and DMA -/

/-- R387, R389 to R392, R396, R399, R400, R402: the ring engine. WATCHARM and RINGSET act while the tile is MANAGER; a read of RINGNEXT pops the
ring it names; a watch read that fails puts its entry in ERROR, and the data of a hot line makes eligible every ring whose doorbell differs from
its shadow; a scan adds -2^b, reads the eight lines of the group and makes its cold rings eligible; polling reads the entries in order. -/
def Obligations.RingCommands : Prop :=
  (∀ (who : Requester) (entry : BitVec 15) (s : State), mayAccess who 2 0x70030 s = true → exec (.watcharmGo who entry) s =
    .next (written who (if ringsOn s = true ∧ entry.toNat < s.rings.inUse then armEntry entry.toNat true s else s))) ∧
  (∀ (who : Requester) (ring : BitVec 20) (s : State), mayAccess who 2 0x70028 s = true →
    (s.role.role ≠ .manager → exec (.ringsetSet who ring) s = .next (written who s) ∧ exec (.ringsetGroup who ring) s = .next (written who s)) ∧
    (s.role.role = .manager →
      exec (.ringsetSet who ring) s = .next (written who (makeEligible (ring.toNat / 64) (BitVec.ofNat 64 (2 ^ (ring.toNat % 64))) s)) ∧
      exec (.ringsetGroup who ring) s = .next (written who (makeEligible (ring.toNat / 64) (BitVec.allOnes 64) s)))) ∧
  (∀ (g : Nat) (mask : W64) (s : State), mask ≠ 0 →
    let s1 : State := { s with rings := { s.rings with elig := Tab.modify 0 s.rings.elig g (fun m => m ||| mask) } }
    makeEligible g mask s = if s.rings.elig = [] then arrive srcRingWatch s1 else s1) ∧
  (∀ (who : Requester) (s : State), mayAccess who 2 0x70020 s = true →
    (s.rings.next = none → exec (.ringnextRead who) s = .next (readBy who 0 s)) ∧
    ∀ n, s.rings.next = some n →
      let s1 : State := { s with rings := { s.rings with
        elig := Tab.modify 0 s.rings.elig (n / 64) (fun m => m &&& ~~~ BitVec.ofNat 64 (2 ^ (n % 64)))
        ptr := if n = 0 then s.rings.ptr else (n + 1) % 2 ^ 20 } }
      (n < 8 * s.rings.hot →
        exec (.ringnextRead who) s = .next (readBy who (BitVec.ofNat 64 (n + 2 ^ 20 + (Tab.get 0 s.rings.shadows n).toNat * 2 ^ 32)) s1)) ∧
      (8 * s.rings.hot ≤ n → exec (.ringnextRead who) s = .next (readBy who (BitVec.ofNat 64 (n + 2 ^ 20 + 2 ^ 21)) s1))) ∧
  (∀ s : State, (Tab.get 0 s.rings.elig 0).getLsbD 0 = true → s.rings.next = some 0) ∧
  (∀ (entry : BitVec 15) (code : RspCode) (data : Line) (x : WRead) (s : State), s.rings.reads.find? (fun x => x.entry == entry.toNat) = some x →
    let i := entry.toNat
    let s1 : State := { s with rings := { s.rings with reads := s.rings.reads.erase x } }
    let e := s.rings.entry i
    let s2 := setEntryW i { e with st := (if polling s then e.st else .watching), redo := false, first := false, inPass := false } s1
    (x.discard = true → exec (.watchReadResponse entry code data) s = .next (pumpRings s1)) ∧
    (x.discard = false → code ≠ .okay → exec (.watchReadResponse entry code data) s =
      .next (pumpRings (watchError i (BitVec.ofNat 52 (s.rings.lineOf i * 64)) (errCodeOf code) s1))) ∧
    (x.discard = false → code = .okay → e.redo = false → i < 256 → wordAt data 0 = 0 →
      exec (.watchReadResponse entry code data) s = .next (pumpRings s2)) ∧
    (x.discard = false → code = .okay → e.redo = false → 256 ≤ i →
      exec (.watchReadResponse entry code data) s = .next (pumpRings (handleHot (i - 256) e.first data s2)))) ∧
  (∀ (j : Nat) (first : Bool) (d : Line) (s : State), j ≠ 0 →
    let p (w : Nat) : BitVec 32 := (wordAt d w).truncate 32
    let u := handleHot j first d s
    (∀ w, w < 8 → Tab.get 0 u.rings.shadows (8 * j + w) = p w ∧
      (Tab.get 0 u.rings.elig (8 * j / 64)).getLsbD ((8 * j + w) % 64) =
        ((Tab.get 0 s.rings.elig (8 * j / 64)).getLsbD ((8 * j + w) % 64) || first || p w != Tab.get 0 s.rings.shadows (8 * j + w))) ∧
    (∀ r, r / 8 ≠ j → Tab.get 0 u.rings.shadows r = Tab.get 0 s.rings.shadows r) ∧
    (∀ g, g ≠ 8 * j / 64 → Tab.get 0 u.rings.elig g = Tab.get 0 s.rings.elig g) ∧ u.rings.entries = s.rings.entries) ∧
  (∀ (entry : BitVec 8) (code : RspCode) (x : Scan) (s : State), (entry, none) ∉ s.rings.late →
    s.rings.scans.find? (fun x => x.entry == entry && x.step == .add) = some x →
    exec (.summaryAddResponse entry code) s = .next (if code = .okay then scanReads x s
      else scanFail { x with step := .mirror 0 } (BitVec.ofNat 52 (s.rings.lineOf entry.toNat * 64)) (errCodeOf code) s)) ∧
  (∀ (x : Scan) (s : State), (∀ k, k < 8 → hubRefuses s (s.rings.groupLine x k) false = none) →
    scanReads x s = replaceScan { x with step := .reads [0, 1, 2, 3, 4, 5, 6, 7] } s) ∧
  (∀ (entry : BitVec 8) (k : Fin 8) (code : RspCode) (data : Line) (x : Scan) (l : List (Fin 8)) (s : State), (entry, some k) ∉ s.rings.late →
    s.rings.scans.find? (fun x => x.entry == entry && (match x.step with
      | .reads l => l.contains k
      | _ => false)) = some x → x.step = .reads l →
    exec (.groupReadResponse entry k code data) s = .next (if code = .okay then scanRead x k s
      else scanFail { x with step := .reads (l.erase k) } (BitVec.ofNat 52 (s.rings.groupLine x k.val * 64)) (errCodeOf code) s)) ∧
  ∀ s : State, tclkRuns s = true → ringsOn s = true → polling s = true →
    let free (i : Nat) : Bool := (s.rings.entry i).st != .error && !scanning s i && !s.rings.reads.any (fun x => x.entry == i && !x.discard)
    let passed (i : Nat) (s : State) : State :=
      if i + 1 < s.rings.inUse then { s with rings := { s.rings with pollNext := i + 1 } } else sweepEnd s
    ((∀ i, s.rings.pollNext ≤ i → i < s.rings.inUse → free i = false) → exec .pollRead s = .next (sweepEnd s)) ∧
    ∀ i, s.rings.pollNext ≤ i → i < s.rings.inUse → free i = true → (∀ j, s.rings.pollNext ≤ j → j < i → free j = false) →
      (hubRefuses s (s.rings.lineOf i) false = none →
        exec .pollRead s = .next (passed i { s with rings := { s.rings with reads := s.rings.reads ++ [⟨i, false⟩] } })) ∧
      ∀ e, hubRefuses s (s.rings.lineOf i) false = some e →
        exec .pollRead s = .next (passed i (watchError i (BitVec.ofNat 52 (s.rings.lineOf i * 64)) e s))

/-- R406, R408, R411, R413, R415, R416, R507: a grant of the DMA engine serves one request of one channel, a service channel before any list
channel; a read that returns leaves its bytes at their place in the run, a write that returns moves DMAPROG over every byte then acknowledged; the
first failure is latched with its address, side and code, later ones set MORE; a channel ends DONE once every byte is written and every response
is back. A write that is acknowledged is visible to the cores, whose copies of its line go. -/
def Obligations.DmaCommands : Prop :=
  (∀ (ch : Fin 64) (s : State), tclkRuns s = true → dmaFrozen s = false → dmaNext s = some ch →
    exec .dmaRequestGrant s = .next (bootWatch (dmaGrantChan ch s)) ∧ chanAct s ch ≠ .none ∧ (s.chan ch).st = .running ∧
    (ch.val < 60 → ∀ d : Fin 64, 60 ≤ d.val → chanAct s d = .none)) ∧
  (∀ (ch : Fin 64) (cached : Bool) (s : State), ch.val < 60 → chanAct s ch = .read →
    dmaTarget s ch (s.chan ch).sw.piece (s.chan ch).readLen = .ext cached →
    let k := s.chan ch
    let n := k.readLen
    dmaGrantChan ch s = dmaAfter ch (setChan ch { k with
        rpos := k.rpos + n
        sw := { k.sw with piece := (if k.fixs then k.sw.piece else k.sw.piece + n), left := k.sw.left - n }
        reads := k.reads ++ [⟨k.tag, .data, k.sw.piece, n, k.rpos, k.sw.entry, 0, [], false⟩]
        tag := k.tag + 1 }
      { s with dma := { s.dma with listPtr := (ch.val + 1) % 60 } })) ∧
  (∀ (ch : Fin 64) (tag : Nat) (code : RspCode) (data : Line) (r : DRead) (s : State), Owed.dmaRead ch tag ∉ s.ports.owed →
    (s.chan ch).reads.find? (fun r => r.tag == tag && r.words == 0) = some r →
    (code ≠ .okay → exec (.dmaReadResponse ch tag code data) s = .next (bootWatch (dmaReadFailed ch r (dmaCode code) s))) ∧
    (code = .okay → dmaTarget s ch r.addr r.len ≠ .ext true → (s.chan ch).st = .running → (s.chan ch).stop = .none →
      r.kind = .data →
      let k := { s.chan ch with reads := (s.chan ch).reads.erase r }
      exec (.dmaReadResponse ch tag code data) s = .next (bootWatch (dmaAfter ch (setChan ch { k with
        chunks := insertChunk ⟨r.pos, ((lineBytes data).drop (r.addr % 64)).take r.len, r.entry⟩ k.chunks } s))))) ∧
  (∀ (ch : Fin 64) (tag : Nat) (code : RspCode) (w : DWrite) (s : State), Owed.dmaWrite ch tag ∉ s.ports.owed →
    (s.chan ch).writes.find? (fun w => w.tag == tag && w.words == 0) = some w →
    let k := { s.chan ch with writes := (s.chan ch).writes.erase w }
    (code ≠ .okay → exec (.dmaWriteResponse ch tag code) s = .next (bootWatch (dmaFail ch true false w.addr (dmaCode code) (setChan ch k s)))) ∧
    (code = .okay → k.acked = [] → k.prog = w.pos → exec (.dmaWriteResponse ch tag code) s =
      .next (bootWatch (dmaAfter ch (setChan ch { k with prog := w.pos + w.len } (dmaVisible ch w.addr s)))))) ∧
  (∀ (ch : Fin 64) (dir list : Bool) (pa : Nat) (code : BitVec 4) (s : State),
    let e := (s.chan ch).err
    ((dmaFail ch dir list pa code s).chan ch).err = (if e.valid then { e with more := true } else ⟨BitVec.ofNat 52 pa, true, dir, list, code, false⟩) ∧
    ((s.chan ch).st = .running → (s.chan ch).reads = [] → (s.chan ch).writes = [] → (s.chan ch).stop ≠ .cancel →
      ((dmaFail ch dir list pa code s).chan ch).st = .halted)) ∧
  ∀ (ch : Fin 64) (s : State), (s.chan ch).st = .running → (s.chan ch).stop = .none → (s.chan ch).complete = true →
    dmaSettle ch s = arrive (srcDmaDone ch.val) (setChan ch { s.chan ch with st := .done, prog := (s.chan ch).wpos, acked := [] } s)

/-! ## Power, panel and watchdogs -/

/-- R484, R486 to R490, R492 to R494, R496, R498, R553: a request is served when its entry condition holds: downwards the tile's part, PWR.REQ, and one
toggle of PWR.ACK; upwards PWR.REQ, the toggle, and the tile's part. An overdue toggle and a lost supply are latched and logged; NAP and DOZE end
by PWR.REQ of the state they return to; a supply sample is compared and may start the flush; and the flush gives up the role when its budget or
firmware ends step 3, and is logged when nothing is outstanding. -/
def Obligations.PowerCommands : Prop :=
  (∀ s : State, s.rst.phase = .up → s.pwr.asked = true → s.pwr.step = .idle → s.pwr.flush = none → s.pwr.flushDue = none → entryReady s = true →
    let t := s.pwr.req
    (t < s.pwr.state → exec .powerTransitionStart s = .next { s with pwr := { s.pwr with
      asked := false, wake := false, out := reqCode t.toNat s, reqAt := s.log.aotime, told := false, step := .ack t true } }) ∧
    (s.pwr.state ≤ t → t ≠ 3 → exec .powerTransitionStart s = .next { s with pwr := { s.pwr with
      asked := false, wake := false, step := .part t false } }) ∧
    (s.pwr.state ≤ t → t = 3 → ∃ u, exec .powerTransitionStart s = .next u ∧ u.pwr.step = .part 3 false ∧ u.eng.tlb = [] ∧ u.vs = s.vs ∧
      ∀ c : CoreId, (u.core c).dcache = [] ∧ (u.core c).icache = [] ∧ (u.core c).tlb = [] ∧ (u.core c).wcache = [] ∧
        (u.core c).run = (s.core c).run ∧ (u.core c).pc = (s.core c).pc)) ∧
  (∀ (t : BitVec 3) (s : State),
    (s.pwr.step = .part t false → t ≠ 3 ∨ s.cores.all (fun k => k.wbs.isEmpty) = true → exec .powerTilePartDone s = .next { s with pwr := { s.pwr with
      out := reqCode t.toNat s, reqAt := s.log.aotime, told := false, step := .ack t false } }) ∧
    (s.pwr.step = .part t true → exec .powerTilePartDone s = .next (flushAfter (stateInForce t s))) ∧
    (s.pwr.step = .ack t true → exec .pwrAckToggle s = .next { s with pwr := { s.pwr with step := .part t true } }) ∧
    (s.pwr.step = .ack t false → exec .pwrAckToggle s = .next (flushAfter (stateInForce t s))) ∧
    (t ≠ 4 → s.pwr.state.toNat ≤ 1 → stateInForce t s = { s with pwr := { s.pwr with
      state := t, emul := s.pwr.out == 5 || s.pwr.out == 6, step := .idle, wake := s.pwr.wake && (t == 2 || t == 3)
      before := if t = 2 then s.pwr.state else s.pwr.before
      asked := s.pwr.asked && s.pwr.req != t } }) ∧
    (let u := stateInForce 4 s;
      u.pwr.state = 4 ∧ u.rst.phase = .off ∧ u.rst.cause = s.rst.cause ∧ u.log = s.log ∧ u.fuses.lc = s.fuses.lc ∧ u.weado = s.weado ∧
      u.panel = s.panel ∧ u.supv = { s.supv with vbus := 0, valid := false, low := false, high := false, nWarn := 0, nOver := 0 } ∧
      u.id = { s.id with paramerr := false } ∧ u.vs.wipePending = s.vs.wipePending ∧ u.vs.mem = Memory.zero ∧ u.pwr.goodlost = s.pwr.goodlost ∧
      ∀ c : CoreId, (u.core c).st = .off ∧ (u.core c).dcache = [])) ∧
  (∀ s : State, ackOverdue s = true → exec .pwrAckTimeout s =
    .next (logRecord 0x09 6 0 (s.pwr.out.zeroExtend 64) true { s with pwr := { s.pwr with ackerr := true, told := true } })) ∧
  (∀ s : State, s.rst.phase ≠ .aopor → s.pwr.out ≠ 3 → s.pwr.out ≠ 4 →
    let s1 := logRecord 0x0A 6 0 (s.pwr.out.zeroExtend 64) true { s with pwr := { s.pwr with goodlost := true } }
    (s.rst.phase = .cold → exec .pwrGoodLost s = .next s1) ∧
    (s.rst.phase ≠ .cold → ∃ u, exec .pwrGoodLost s = .next u ∧ u.pwr.goodlost = true ∧ u.pwr.state = 4 ∧ u.rst.phase = .off ∧ u.log = s1.log)) ∧
  (∀ s : State, wakeDue s = true → s.role.fused = false →
    (s.pwr.state = 2 → exec .napWake s = .next { s with pwr := { s.pwr with
      out := reqCode s.pwr.before.toNat s, reqAt := s.log.aotime, told := false, step := .ack s.pwr.before true } }) ∧
    (s.pwr.state = 3 → exec .dozeWake s = .next { s with pwr := { s.pwr with
      out := 0, reqAt := s.log.aotime, told := false, step := .ack 0 true } })) ∧
  (∀ (v : BitVec 12) (s : State), s.rst.phase ≠ .aopor → clockOn s .tmclk = true →
    let minv := if v.toNat < s.supv.minv.toNat then v else s.supv.minv
    (s.supv.en = false → exec (.vbusSample v) s = .next { s with supv := { s.supv with vbus := v, valid := true, minv := minv } }) ∧
    (s.supv.en = true → ∃ u, exec (.vbusSample v) s = .next u ∧ u.supv.vbus = v ∧ u.supv.valid = true ∧ u.supv.minv = minv ∧
      let meets : Bool := match threshold s.supv.warn with
        | some x => v.toNat < x
        | none => false
      let under : Bool := match threshold s.supv.flush with
        | some x => v.toNat < x
        | none => false
      u.supv.low = (if meets = s.supv.low then s.supv.low else if s.supv.need ≤ s.supv.nWarn + 1 then !s.supv.low else s.supv.low) ∧
      u.supv.under = (if under = s.supv.under then s.supv.under else if s.supv.need ≤ s.supv.nFlush + 1 then !s.supv.under else s.supv.under) ∧
      (u.supv.under = false ∨ s.supv.under = true → u.pwr.flush = s.pwr.flush) ∧
      (u.supv.under = true → s.supv.under = false → s.pwr.flush = none → s.pwr.flushDue = none → s.pwr.step = .idle → s.pwr.state.toNat ≤ 1 →
        ∃ f, u.pwr.flush = some f ∧ f.start = s.log.aotime ∧ f.presence = false))) ∧
  (∀ (f : Flush) (s : State), s.pwr.flush = some f → f.stage = .working →
    let drains (done : Bool) : State := { s with pwr := { s.pwr with flush := some { f with stage := .draining done } } }
    (f.budget * 50 ≤ s.log.aotime.toNat - f.start.toNat →
      (holdsRole s = false → exec .flushBudgetExpiry s = .next (drains false)) ∧
      (holdsRole s = true → ∃ u, exec .flushBudgetExpiry s = .next u ∧ fencedAs 4 true (drains false) u)) ∧
    ∀ who : Requester, mayAccess who 2 0x20048 s = true →
      (holdsRole s = false → exec (.flushdone who) s = .next (written who { drains true with
        pwr := { (drains true).pwr with wake := true, err := true } })) ∧
      (holdsRole s = true → ∃ u v, exec (.flushdone who) s = .next (written who u) ∧ fencedAs 4 true (drains true) v ∧
        u = { v with pwr := { v.pwr with wake := true, err := true } })) ∧
  (∀ (who : Requester) (s : State), mayAccess who 2 0x20048 s = true → s.pwr.flush = none →
    exec (.flushdone who) s = .next (written who (pwrRequest s.pwr.req true s))) ∧
  ∀ (f : Flush) (done : Bool) (s : State), s.pwr.flush = some f → f.stage = .draining done → responsesDue s = false →
    let s1 := logRecord 0x0C 6 0 (if f.presence then 2 else if done then 1 else 0) false { s with pwr := { s.pwr with flush := none } }
    (s.pwr.autooff = true → s.pwr.state ≠ 4 → s.rst.phase ≠ .cold → exec .flushDrainDone s = .next { s1 with pwr := { s1.pwr with step := .part 4 false } }) ∧
    (s.pwr.autooff = false ∨ s.rst.phase = .cold → s.rst.warmDue = none → exec .flushDrainDone s = .next s1) ∧
    ∀ cause, s.pwr.autooff = false → s.rst.warmDue = some cause →
      exec .flushDrainDone s = .next (warmReset cause true { s1 with rst := { s1.rst with warmDue := none } })

/-- R470, R543, R546 to R551, R553: the service panel and the watchdogs. A press starts an evacuation from IDLE; a tile that is quiet asks for OFF or
reaches SAFE; presence and tamper events arrive, are latched and logged; a watchdog warns once, and at its end resets its core, or the tile. That
PRESSES counts a press in MIGRATING and SAFE too is the model's reading (notes/assumptions/38.md). -/
def Obligations.PanelAndWatchdogs : Prop :=
  (∀ s : State, s.rst.phase ≠ .aopor →
    (s.panel.attn = false → exec .panelPress s = .next (arrive srcPanelAttn { s with panel := if s.panel.evac = 0
      then { s.panel with attn := true, presses := satInc s.panel.presses, evac := 1, since := s.log.aotime, told := false }
      else { s.panel with attn := true, presses := satInc s.panel.presses } })) ∧
    (s.panel.attn = true → exec .attnRelease s = .next { s with panel := { s.panel with attn := false } }) ∧
    (s.panel.tamper = true → exec .tamperClose s = .next { s with panel := { s.panel with tamper := false } }) ∧
    (s.panel.pres = false →
      exec .presenceGain s = .next (arrive srcPanelPresence { s with panel := { s.panel with pres := true, evac := 0 } })) ∧
    (s.panel.pres = true →
      let s1 := arrive srcPanelPresence { s with panel := { s.panel with pres := false } }
      (s.panel.evac = 2 → exec .presenceLoss s = .next s1) ∧
      (s.panel.evac ≠ 2 → exec .presenceLoss s = .next (flushTrip true
        (logRecord 0x10 6 0 (BitVec.ofNat 64 (roleNum s.role.role)) false { s1 with panel := { s1.panel with surprise := true, evac := 0 } })))) ∧
    (s.panel.tamper = false → ∃ u, exec .tamperTrip s = .next u ∧ u.panel.tamper = true ∧ u.panel.tampered = true ∧ u.auth.level = 0 ∧
      u.vs.wipePending = true ∧ u.vs.mem = s.vs.mem ∧ u.role = s.role ∧ (∀ r, u.auth.run = some r → r.discard = true))) ∧
  (∀ s : State, s.panel.evac = 1 → evacQuiet s = true →
    (s.panel.evacoff = false ∨ s.pwr.state = 4 → exec .evacSafe s = .next { s with panel := { s.panel with evac := 2 } }) ∧
    (s.panel.evacoff = true → s.pwr.state ≠ 4 → offAsked s = false → exec .evacSafe s = .next (pwrRequest 4 true s))) ∧
  (∀ s : State, s.panel.evac = 1 → s.panel.evactmo ≠ 0 → s.panel.told = false →
    s.panel.evactmo.toNat * 50000000 ≤ s.log.aotime.toNat - s.panel.since.toNat →
    exec .evacTimeout s = .next (logRecord 0x11 6 0 (BitVec.ofNat 64 (roleNum s.role.role)) true
      { s with panel := { s.panel with fcause := s.panel.fcause ||| 8, told := true } })) ∧
  (∀ (c : CoreId) (s : State), (s.wds.get c).en = true → (s.wds.get c).warned = false →
    (s.wds.get c).remain.toNat ≤ Nat.max (s.wds.get c).period.toNat 1024 / 4 →
    exec (.watchdogWarning (.core c)) s = .next (arrive (srcWdtWarn c) { s with wds := s.wds.set c { s.wds.get c with warned := true } })) ∧
  (∀ s : State, s.twd.en = true → s.twd.warned = false → s.twd.remain.toNat ≤ Nat.max s.twd.period.toNat 1024 / 4 →
    exec (.watchdogWarning .tile) s = .next (arrive srcTwdtWarn { s with twd := { s.twd with warned := true } })) ∧
  (∀ (c : CoreId) (s : State), (s.wds.get c).en = true → (s.wds.get c).remain = 0 →
    let w := s.wds.get c
    ∃ u, exec (.coreWatchdogExpiry c) s = .next u ∧ (u.wds.get c).expired = true ∧
      (u.wds.get c).remain = BitVec.ofNat 24 (Nat.max w.period.toNat 1024) ∧ (u.core c).banks = [] ∧ (u.core c).sb = [] ∧ u.evc.get c = evCore0 ∧
      (w.restart = false → (u.core c).st = .off ∧ u.rst.run = s.rst.run &&& ~~~ BitVec.ofNat 4 (2 ^ c.val)) ∧
      (w.restart = true → u.rst.run = s.rst.run ||| BitVec.ofNat 4 (2 ^ c.val)) ∧ u.log.wcount = s.log.wcount + 1) ∧
  ∀ s : State, s.twd.en = true → s.twd.remain = 0 →
    let s1 := logRecord 0x0E 6 0 0 true { s with
      twd := { s.twd with remain := BitVec.ofNat 24 (Nat.max s.twd.period.toNat 1024), warned := false, expired := true }
      panel := { s.panel with fcause := s.panel.fcause ||| 2 } }
    (s.pwr.flush = none → exec .tileWatchdogExpiry s = .next (warmReset 5 true s1)) ∧
    (s.pwr.flush ≠ none → exec .tileWatchdogExpiry s = .next { s1 with rst := { s1.rst with warmDue := some 5 } })

/-! ## Lifecycle, keys, boot and debug authentication -/

/-- R501 to R503, R505, R515, R517, R518: the fuse commands. A writer that the lifecycle state does not admit changes nothing; a command whose
condition fails sets the ERR of its register; one that is accepted runs, a transition with WIPE_PENDING set; and at its end the fuses hold the
new state, version, key or revocation, a transition with the level at NONE, a fresh challenge and a warm reset. -/
def Obligations.FuseCommands : Prop :=
  (∀ (who : Requester) (t : BitVec 3) (svn : BitVec 6) (s : State), mayAccess who (writeLevel s 0x90008) 0x90008 s = true →
    let refused : State := { s with fuses := { s.fuses with lcErr := true } }
    (lcMayWrite who s = false → exec (.lccmdTransition who t) s = .next (written who s) ∧
      exec (.lccmdRaisesvn who svn) s = .next (written who s) ∧ exec (.lccmdWipe who) s = .next (written who s)) ∧
    (lcMayWrite who s = true →
      (s.fuses.op.isSome = true ∨ transitionOk who t.toNat s = false → exec (.lccmdTransition who t) s = .next (written who refused)) ∧
      (s.fuses.op = none → transitionOk who t.toNat s = true →
        exec (.lccmdTransition who t) s = .next (written who (wipeTrip { s with fuses := { s.fuses with op := some (.transition t) } }))) ∧
      (s.fuses.op.isSome = true ∨ svn ≤ s.fuses.minsvn → exec (.lccmdRaisesvn who svn) s = .next (written who refused)) ∧
      (s.fuses.op = none → s.fuses.minsvn < svn →
        exec (.lccmdRaisesvn who svn) s = .next (written who { s with fuses := { s.fuses with op := some (.raisesvn svn) } })) ∧
      exec (.lccmdWipe who) s = .next (written who (wipeTrip s)))) ∧
  (∀ (who : Requester) (t : Nat) (s : State), transitionOk who t s = true ↔ s.fuses.lc.toNat < t ∧
    ((s.fuses.now = 0 ∧ t = 1) ∨ (s.fuses.now = 1 ∧ t = 2) ∨
      (s.fuses.now = 2 ∧ t = 3 ∧ ∃ n : Fin 4, (s.fuses.keys.get n).prog = true ∧ (s.fuses.keys.get n).boot = true ∧ (s.fuses.keys.get n).revoked = false) ∨
      (s.fuses.now = 3 ∧ t = 4 ∧ (∃ n : Fin 4, (s.fuses.keys.get n).prog = true ∧ (s.fuses.keys.get n).rma = true ∧
        (s.fuses.keys.get n).revoked = false) ∧ ((∃ c, who = .core c) ∨ who = .weado ∧ s.auth.level = 2 ∧ s.auth.byRma = true)) ∨ t = 5)) ∧
  (∀ s : State, (wipeTrip s).vs.wipePending = true ∧ (wipeTrip s).fuses = s.fuses ∧ (wipeTrip s).vs.mem = s.vs.mem ∧ (wipeTrip s).role = s.role) ∧
  (∀ (who : Requester) (slot : BitVec 2) (use : BitVec 3) (s : State), mayAccess who (writeLevel s 0x90270) 0x90270 s = true →
    let refused : State := { s with fuses := { s.fuses with keyErr := true } }
    let runs (op : FuseOp) : State := { s with fuses := { s.fuses with op := some op } }
    (lcMayWrite who s = false → exec (.keycmdProgram who slot use) s = .next (written who s) ∧
      exec (.keycmdRevoke who slot) s = .next (written who s)) ∧
    (lcMayWrite who s = true →
      (s.fuses.op.isSome = true ∨ s.fuses.now ≠ 2 → exec (.keycmdProgram who slot use) s = .next (written who refused)) ∧
      (s.fuses.op = none → s.fuses.now = 2 → use ≠ 0 ∨ slot ≠ 3 → exec (.keycmdProgram who slot use) s =
        .next (written who (if (s.fuses.keys.get slot.toFin).prog then refused else runs (.program slot use (keyDigest s))))) ∧
      (s.fuses.op = none → s.fuses.now = 2 → use = 0 → slot = 3 → exec (.keycmdProgram who slot use) s =
        .next (written who (if s.fuses.uidProg then refused else runs (.uid (Tab.get 0 s.fuses.keydata 0) (Tab.get 0 s.fuses.keydata 1))))) ∧
      exec (.keycmdRevoke who slot) s = .next (written who
        (if s.fuses.op = none ∧ (s.fuses.now = 2 ∨ s.fuses.now = 3 ∨ s.fuses.now = 4) then runs (.revoke slot) else refused)))) ∧
  ∀ s : State,
    (∀ n, s.fuses.op = some (.raisesvn n) → exec .fuseCommandDone s = .next { s with fuses := { s.fuses with op := none, minsvn := n } }) ∧
    (∀ a b, s.fuses.op = some (.uid a b) →
      exec .fuseCommandDone s = .next { s with fuses := { s.fuses with op := none, uid0 := a, uid1 := b, uidProg := true } }) ∧
    (∀ n use d, s.fuses.op = some (.program n use d) → exec .fuseCommandDone s = .next { s with fuses := { s.fuses with
      op := none
      keys := s.fuses.keys.set n.toFin ⟨true, use.getLsbD 0, use.getLsbD 1, use.getLsbD 2, (s.fuses.keys.get n.toFin).revoked, d⟩ } }) ∧
    (∀ n, s.fuses.op = some (.revoke n) → exec .fuseCommandDone s = .next { s with fuses := { s.fuses with
      op := none, keys := s.fuses.keys.set n.toFin { s.fuses.keys.get n.toFin with revoked := true } } }) ∧
    ∀ t, s.fuses.op = some (.transition t) → ∃ u, exec .fuseCommandDone s = .next u ∧ u.fuses.lc = t ∧ u.fuses.now = s.fuses.now ∧
      u.fuses.op = none ∧ u.fuses.keys = s.fuses.keys ∧ u.fuses.minsvn = s.fuses.minsvn ∧ u.auth.level = 0 ∧
      (s.pwr.flush = none → s.rst.phase = .up → u.rst.phase = .warm ∧ u.rst.cause = 7) ∧
      (s.pwr.flush.isSome = true → u.rst.warmDue = some 7 ∧ u.rst.phase = s.rst.phase)

/-- R506 to R508, R510, R516: secure boot. A GO that is not ignored checks the window and WIPE_PENDING and reads the header; each check that fails
ends the boot with its cause, WIPE_PENDING, the fault indicator and a log record; the copy runs on channel 63 into the secure rows; and an image
that passes starts C0 at its entry. -/
def Obligations.SecureBoot : Prop :=
  (∀ (who : Requester) (port : Bool) (addr : BitVec 45) (s : State), mayAccess who 2 0x90010 s = true →
    let s1 : State := { s with boot := { s.boot with port := port, addr := addr } }
    (s.fuses.now = 5 → exec (.bootctlGo who port addr) s = .next (written who s)) ∧
    (s.fuses.now ≠ 5 → s.rst.phase ≠ .up ∨ s.boot.state = 3 → exec (.bootctlGo who port addr) s = .next (written who s1)) ∧
    (s.fuses.now ≠ 5 → s.rst.phase = .up → s.boot.state = 0 ∨ s.boot.state = 4 → pwrState s ≤ 1 →
      let s2 : State := { s1 with boot := { s1.boot with
        state := 1, cause := 0, signed := false, step := .header, cur := (port, addr), hdr := [], msg := [] } }
      exec (.bootctlGo who port addr) s = .next (written who
        (if s.vs.baseEn = false ∨ 2 ^ 22 ≤ s.vs.base.toNat then bootFail 6 s2 else if s.vs.wipePending then bootFail 7 s2 else s2)))) ∧
  (∀ (cause : Nat) (s : State), let u := bootFail cause s
    u.boot.state = 4 ∧ u.boot.cause = BitVec.ofNat 4 cause ∧ u.boot.step = .none ∧ u.vs.wipePending = true ∧ u.panel.fcause.getLsbD 0 = true ∧
    u.log.wcount = s.log.wcount + 1 ∧ u.rst = s.rst ∧ u.vs.mem = s.vs.mem ∧ u.fuses = s.fuses) ∧
  (∀ (code : RspCode) (l0 l1 l2 l3 : Line) (s : State), s.boot.step = .header → upRuns s = true → (s.chan 63).st ≠ .running →
    let h := lineToBytes l0 ++ lineToBytes l1 ++ lineToBytes l2 ++ lineToBytes l3
    let s1 : State := { s with boot := { s.boot with hdr := h, svn := BitVec.ofNat 6 (hdrSvn h) } }
    (code ≠ .okay → exec (.bootHeaderResponse code l0 l1 l2 l3) s = .next (bootFail 1 s)) ∧
    (code = .okay → hdrOk h = false → exec (.bootHeaderResponse code l0 l1 l2 l3) s = .next (bootFail 2 s1)) ∧
    (code = .okay → hdrOk h = true → hdrSvn h < s.fuses.minsvn.toNat → exec (.bootHeaderResponse code l0 l1 l2 l3) s = .next (bootFail 3 s1)) ∧
    (code = .okay → hdrOk h = true → s.fuses.minsvn.toNat ≤ hdrSvn h → ∀ use, bootNeeds s1 = some use →
      (keySlotFor s1 use (slice h 64 48) (slice h 112 48) = none → exec (.bootHeaderResponse code l0 l1 l2 l3) s = .next (bootFail 4 s1)) ∧
      ∀ i, keySlotFor s1 use (slice h 64 48) (slice h 112 48) = some i → exec (.bootHeaderResponse code l0 l1 l2 l3) s =
        .next (bootWatch (bootCopy { s1 with boot := { s1.boot with keyslot := BitVec.ofFin i } }))) ∧
    (code = .okay → hdrOk h = true → s.fuses.minsvn.toNat ≤ hdrSvn h → bootNeeds s1 = none →
      exec (.bootHeaderResponse code l0 l1 l2 l3) s = .next (bootWatch (bootCopy s1)))) ∧
  (∀ s : State, (s.chan 63).st ≠ .running → (s.chan 63).st ≠ .halted → s.pwr.flush = none → 0 < hdrLen s.boot.hdr → hdrLen s.boot.hdr < 2 ^ 32 →
    let k := (bootCopy s).chan 63
    k.st = .running ∧ k.src = BitVec.ofNat 52 (s.boot.cur.2.toNat * 128 + 256) ∧
    k.dst = BitVec.ofNat 52 (s.vs.base.toNat * 2 ^ 26 + 0x03BD3000) ∧ k.len.toNat = hdrLen s.boot.hdr ∧ k.fixs = false ∧ k.fixd = false ∧
    (bootCopy s).boot.step = .copy) ∧
  (∀ s : State, s.boot.step = .copy → (s.chan 63).st = .done →
    exec .bootCopyDone s = .next { s with boot := { s.boot with state := 2, step := .verify } }) ∧
  (∀ s : State, s.boot.step = .verify →
    (bootNeeds s = none ∨ bootSignatureOk s.boot = true → exec .bootVerifyDone s = .next (bootPass s)) ∧
    (bootNeeds s ≠ none → bootSignatureOk s.boot = false → exec .bootVerifyDone s =
      .next (bootFail 5 { s with boot := { s.boot with signed := true } }))) ∧
  (∀ s : State, let u := bootPass s
    u.boot.state = 3 ∧ u.boot.signed = (bootNeeds s).isSome ∧ u.rst.run = s.rst.run ||| 1 ∧
    u.rst.bootvec.get 0 = BitVec.ofNat 48 (s.vs.base.toNat * 2 ^ 26 + 0x03BD3000 + hdrEntry s.boot.hdr) ∧
    u.boot.passed = some s.boot.cur ∧ u.vs = s.vs ∧
    (s.rst.phase = .up → s.wrap.hold = false → s.fuses.now ≠ 5 → (s.core 0).st = .off → (s.core 0).dbg.haltAtStart = false → (u.core 0).st = .running ∧
      (u.core 0).pc = BitVec.ofNat 48 (s.vs.base.toNat * 2 ^ 26 + 0x03BD3000 + hdrEntry s.boot.hdr))) ∧
  ∀ s : State, bootNeeds s = none ↔ s.fuses.now = 0 ∨ s.fuses.now = 1 ∨
    (s.fuses.now = 2 ∧ ∀ n : Fin 4, ¬ ((s.fuses.keys.get n).prog = true ∧ (s.fuses.keys.get n).revoked = false ∧ (s.fuses.keys.get n).boot = true))

/-- R511 to R513, R516, R518: debug authentication. Only Weado's writes count; a GO draws a fresh challenge, whose value is free; a request at or below
the state's free level is granted, the reserved code and every request above it under AUTHLOCK refused, and any other verified; the eighth refusal
locks; and a verification that a tamper trip has overtaken is discarded. -/
def Obligations.DebugAuthentication : Prop :=
  (∀ (req : BitVec 2) (s : State),
    (∀ who : Requester, who ≠ .weado → mayAccess who 2 0x90020 s = true → exec (.dbgauthGo who req) s = .next (written who s)) ∧
    (s.weado.sam.busy = false → s.auth.run.isSome = true → exec (.dbgauthGo .weado req) s = .next (written .weado s)) ∧
    (s.weado.sam.busy = false → s.auth.run = none → ∃ (ch : BitVec 384) (n : Nat),
      let s1 : State := { s with auth := { s.auth with chal := ch }, free := n }
      exec (.dbgauthGo .weado req) s = .next (written .weado
        (if req = 3 then authRefuse s1
        else if req.toNat ≤ freeLevel s then authGrant req false s1
        else if s.auth.lock then authRefuse s1
        else { s1 with auth := { s1.auth with run := some (authCheck req s) } })))) ∧
  (∀ s : State, freeLevel s = (if s.fuses.now = 3 ∨ s.fuses.now = 5 then 0 else 2)) ∧
  (∀ (r : AuthRun) (s : State), s.auth.run = some r →
    (r.discard = true → exec .debugVerifyDone s = .next { s with auth := { s.auth with run := none } }) ∧
    (r.discard = false → r.ok = true → exec .debugVerifyDone s = .next (authGrant r.req (s.fuses.keys.get r.slot).rma s)) ∧
    (r.discard = false → r.ok = false → exec .debugVerifyDone s = .next (authRefuse s))) ∧
  (∀ s : State,
    let n := Nat.min 8 (s.auth.fails.toNat + 1)
    authRefuse s = { s with auth := { s.auth with
      run := none, denied := true, fails := BitVec.ofNat 4 n, lock := s.auth.lock || n == 8 } }) ∧
  ∀ (l : BitVec 2) (byRma : Bool) (s : State), (authGrant l byRma s).auth.level = l ∧ (authGrant l byRma s).auth.byRma = byRma ∧
    (authGrant l byRma s).auth.run = none ∧ (authGrant l byRma s).auth.fails = s.auth.fails ∧ (authGrant l byRma s).vs = s.vs ∧
    (authGrant l byRma s).role = s.role

/-! ## Weado, terminal and trace -/

/-- R519, R520, R526 to R528, R536 to R539: a command of WD.CMD is answered once, with WD.DO and one pulse of WD.ACK. READ changes nothing else; the
writes that need HALT are denied below it, and at HALT act on a halted core as their registers say; the terminal's two words pass in turn; the
trace port sends the earliest bytes of the FIFO. -/
def Obligations.WeadoCommands : Prop :=
  ∀ s : State, s.rst.phase ≠ .aopor →
    let ans (v : W64) (u : State) : State := { u with weado := { u.weado with wdDo := v, acks := u.weado.acks + 1 } }
    let sel (off : Nat) : State := { s with weado := { s.weado with sel := BitVec.ofNat 12 off } }
    let no (u : State) : State := { u with weado := { u.weado with denied := true } }
    let at_ (c : CoreId) (r : Nat) : Nat := 0x100 + 0x40 * c.val + r
    (∀ di : W64, exec (.wdSelect di) s = .next (ans 0 { s with weado := { s.weado with sel := di.truncate 12 } })) ∧
    (weadoWaits s s.weado.sel.toNat = false → exec .wdRead s = .next (ans (readWeado s s.weado.sel.toNat) s) ∧
      ∀ di : W64, exec (.wdWrite di) s = .next (ans 0 (writeWeado feedParcel s.weado.sel.toNat di s))) ∧
    (∀ cmd : BitVec 8, ¬ (1 ≤ cmd.toNat ∧ cmd.toNat ≤ 5) → exec (.wdReservedCommand cmd) s = .next (ans 0 (no s))) ∧
    (effLevel s < 2 → ∀ (c : CoreId) (m : Bool) (p : BitVec 20) (v : W64),
      exec (.haltreq c m) s = .next (ans 0 (no (sel (at_ c 0x00)))) ∧ exec (.debugResume c m) s = .next (ans 0 (no (sel (at_ c 0x00)))) ∧
      exec (.debugStep c m) s = .next (ans 0 (no (sel (at_ c 0x00)))) ∧ exec (.dpcWrite c v) s = .next (ans 0 (no (sel (at_ c 0x10)))) ∧
      exec (.dfeed c p) s = .next (ans 0 (no (sel (at_ c 0x18)))) ∧ exec (.dx0Write c v) s = .next (ans 0 (no (sel (at_ c 0x20)))) ∧
      exec (.dy0Write c v) s = .next (ans 0 (no (sel (at_ c 0x28)))) ∧ exec (.wfreezeWrite v) s = .next (ans 0 (no (sel 0)))) ∧
    (effLevel s = 2 → ∀ (c : CoreId) (m : Bool) (p : BitVec 20) (v : W64),
      let k := s.core c
      let onCore (r : Nat) (k : Core) : State := ans 0 (setCore c k (sel (at_ c r)))
      (k.st ≠ .halted →
        exec (.haltreq c m) s = .next (onCore 0x00 { k with dbg := { k.dbg with stepmask := m, haltreq := true } }) ∧
        exec (.debugResume c m) s = .next (onCore 0x00 { k with dbg := { k.dbg with stepmask := m } }) ∧
        exec (.debugStep c m) s = .next (onCore 0x00 { k with dbg := { k.dbg with stepmask := m } }) ∧
        exec (.dpcWrite c v) s = .next (ans 0 (no (sel (at_ c 0x10)))) ∧
        exec (.dfeed c p) s = .next (onCore 0x18 { k with dbg := { k.dbg with feederr := true } }) ∧
        exec (.dx0Write c v) s = .next (ans 0 (no (sel (at_ c 0x20)))) ∧ exec (.dy0Write c v) s = .next (ans 0 (no (sel (at_ c 0x28))))) ∧
      (k.st = .halted → k.held = none →
        exec (.haltreq c m) s = .next (onCore 0x00 { k with dbg := { k.dbg with stepmask := m, haltreq := false } }) ∧
        (∃ u, exec (.debugResume c m) s = .next u ∧ (u.core c).st = .running ∧ (u.core c).pc = k.dbg.dpc ∧ (u.core c).repResume = k.dbg.drpend ∧
          (u.core c).latent = [] ∧ (u.core c).delay = none ∧ (∀ l, (u.core c).bank l = k.bank l) ∧ u.evc = s.evc ∧ u.vs = s.vs) ∧
        (∃ u, exec (.debugStep c m) s = .next u ∧ (u.core c).st = .running ∧ (u.core c).pc = k.dbg.dpc ∧ (u.core c).repResume = k.dbg.drpend ∧
          (u.core c).dbg.stepping = true ∧ (u.core c).dbg.stepmask = m ∧ (∀ l, (u.core c).bank l = k.bank l)) ∧
        exec (.dpcWrite c v) s = .next (onCore 0x10 { k with dbg := { k.dbg with dpc := v.truncate 48, drpend := v.getLsbD 48 } }) ∧
        (feedRefused s c p = true → exec (.dfeed c p) s = .next (onCore 0x18 { k with dbg := { k.dbg with feederr := true } })) ∧
        (feedRefused s c p = false → exec (.dfeed c p) s =
          .next (ans 0 (runHeld c (setCore c { k with held := some ⟨0, p, nopParcel, true, .drain, [], [], false⟩ } (sel (at_ c 0x18)))))) ∧
        (∀ x t, k.run.oc = x :: t → exec (.dx0Write c v) s = .next (onCore 0x20 (k.putRun { k.run with oc := v :: t }))) ∧
        (∀ x t, k.run.rc = x :: t → exec (.dy0Write c v) s = .next (onCore 0x28 (k.putRun { k.run with rc := v :: t }))) ∧
        (k.run.oc = [] → k.run.osp = 0 → exec (.dx0Write c v) s = .next (ans 0 (no (sel (at_ c 0x20))))) ∧
        (k.run.rc = [] → k.run.rsp = 0 → exec (.dy0Write c v) s = .next (ans 0 (no (sel (at_ c 0x28))))))) ∧
    (s.fuses.now ≠ 5 → onlyAlwaysOn s = false →
      (s.weado.vt.outFull = false → exec .vtread s = .next (ans (s.weado.vt.outData.zeroExtend 64) s)) ∧
      (s.weado.vt.outFull = true → exec .vtread s = .next (arrive srcWeadoVt (ans (BitVec.ofNat 64 (s.weado.vt.outData.toNat + 2 ^ 32))
        { s with weado := { s.weado with vt := { s.weado.vt with outFull := false } } }))) ∧
      ∀ d : BitVec 32,
        (s.weado.vt.inFull = true → exec (.vtwrite d) s = .next (ans 0 s)) ∧
        (s.weado.vt.inFull = false → exec (.vtwrite d) s = .next (arrive srcWeadoVt (ans 1
          { s with weado := { s.weado with vt := { s.weado.vt with inData := d, inFull := true } } })))) ∧
    (s.fuses.now = 5 ∨ onlyAlwaysOn s = true → exec .vtread s = .next (ans 0 (no s)) ∧ ∀ d : BitVec 32, exec (.vtwrite d) s = .next (ans 0 (no s))) ∧
    (∀ who : Requester, mayAccess who 2 0x108 s = true → exec (.vtinRead who) s =
      .next (readBy who (BitVec.ofNat 64 (s.weado.vt.inData.toNat + b2n s.weado.vt.inFull * 2 ^ 32))
        { s with weado := { s.weado with vt := { s.weado.vt with inData := 0, inFull := false } } })) ∧
    (s.weado.tr.fifo ≠ [] → s.weado.tr.lost = 0 → switchedOn s = true → ∃ u, exec .tracePortTransfer s = .next u ∧
      let n := if s.id.tracew = 0 then 1 else if s.id.tracew = 1 then 2 else 4
      u.weado.tr.port = s.weado.tr.fifo.take n ++ List.replicate (n - s.weado.tr.fifo.length) 0 ∧ u.weado.tr.fifo = s.weado.tr.fifo.drop n ∧
      { u with weado := s.weado } = s)

/-- R460, R520, R531, R533 to R535: WFREEZE and the system access master. A GO that finds BUSY is denied, one below its level ends with RESULT 4, and
so does an address that is not aligned; a peek of a set-up register at OBSERVE brings its data and changes no register; an access of a Vector Store word
waits at the banks for WEADO, and one on TFP or EMP for its response, which ends it and changes no other state. -/
def Obligations.SystemAccesses : Prop :=
  (∀ (v : W64) (s : State), s.rst.phase ≠ .aopor →
    let ans (u : State) : State := { u with weado := { u.weado with wdDo := 0, acks := u.weado.acks + 1 } }
    (effLevel s = 2 →
      let s1 : State := { s with weado := { s.weado with sel := 0 } }
      exec (.wfreezeWrite v) s = .next (ans (thawed s1 { s1 with weado := { s1.weado with wfreeze := v.truncate 11 } }))) ∧
    (v.getLsbD 0 = true →
      let s1 : State := { s with weado := { s.weado with sel := 8 } }
      (s.weado.sam.busy = true → exec (.samGo v) s = .next (ans { s1 with weado := { s1.weado with denied := true } })) ∧
      (s.weado.sam.busy = false → exec (.samGo v) s = .next (ans (samGo { s1 with weado := { s1.weado with sam := { s.weado.sam with
        write := v.getLsbD 1, consume := v.getLsbD 2, posted := v.getLsbD 3, space := v.extractLsb' 4 2, be := v.extractLsb' 6 8 } } }))))) ∧
  (∀ s : State, let m := s.weado.sam
    let ends (r : BitVec 3) (s : State) : State :=
      { s with weado := { s.weado with sam := { s.weado.sam with busy := false, out := none, rd := false, result := r } } }
    (effLevel s < samLevel s → samGo s = ends 4 { s with weado := { s.weado with denied := true } }) ∧
    (samLevel s ≤ effLevel s → 2 ≤ m.space.toNat → samGo s = ends 4 s) ∧
    (samLevel s ≤ effLevel s → m.space = 0 → m.addr.toNat % 8 ≠ 0 → samGo s = ends 4 s) ∧
    (samLevel s ≤ effLevel s → m.space = 0 → m.addr.toNat % 8 = 0 →
      (∀ off, routeOf s m.addr.toNat = .setup off → off % 8 = 0 → off < 0xF0000 → m.write = false → m.consume = false →
        samGo s = ends 0 { s with weado := { s.weado with sam := { m with data := readReg s off } } }) ∧
      (∀ off lw, routeOf s m.addr.toNat = .vs off → off / 8 < wordSpace s → homeWord s (off / 8) = some lw → m.write = false →
        ∃ r : BankReq, samGo s = { s with
            weado := { s.weado with sam := { m with busy := true, rd := true } }, vs := { s.vs with reqs := s.vs.reqs ++ [r] } } ∧
          r.rq = 17 ∧ r.word = lw ∧ r.op = .read ∧ r.dest = .sam) ∧
      (∀ kind emp, routeOf s m.addr.toNat = .ext kind emp →
        (m.write = false → kind = .device → m.consume = false → samGo s = ends 5 s) ∧
        (m.write = false → kind ≠ .device ∨ m.consume = true → samGo s = { s with weado := { s.weado with sam := { m with
          busy := true, rd := true, out := some m.addr } } }) ∧
        (m.write = true → outboundOk s = false → samGo s = ends 4 s)))) ∧
  (∀ (off : Nat) (s : State), samSetup s = some off → s.weado.sam.write = false → s.weado.sam.consume = false →
    (off < 0x10000 ∨ off = 0x90000 ∨ (off = 0x90018 ∧ onlyAlwaysOn s = false) ∨ (0x90040 ≤ off ∧ off < 0x90070) ∨ (0xC0000 ≤ off ∧ off < 0xD0000) →
      samLevel s = 0) ∧
    (¬ (off < 0x10000 ∨ off = 0x90000 ∨ (off = 0x90018 ∧ onlyAlwaysOn s = false) ∨ (0x90040 ≤ off ∧ off < 0x90070) ∨ (0xC0000 ≤ off ∧ off < 0xD0000)) → samLevel s = 1)) ∧
  ∀ (code : RspCode) (data : W64) (pa : BitVec 52) (s : State), Owed.sam ∉ s.ports.owed → s.weado.sam.busy = true → s.weado.sam.out = some pa →
    dirtyCopy s (pa.toNat / 64) = none →
    let m := s.weado.sam
    exec (.samResponse code data) s = .next { s with weado := { s.weado with sam := { m with
      busy := false, out := none, rd := false, result := BitVec.ofNat 3 (codeNum code)
      data := if m.rd = true ∧ (code = .okay ∨ code = .epoi) then data else m.data } } }

/-! ## The test wrapper -/

/-- R558 to R561, R563, R564, R566 to R568: the wrapper. A test instruction is taken in BLANK, TEST and RETURN in a SPARE tile, and else leaves WS_BYPASS
and the refused mark; the first sets WIPE_PENDING and holds every core until a cold reset; a memory test leaves the banks unpredictable and
reports its failing banks, which are free; and a repair fuse is blown once, with its VALID bit. A scan of the WIR captures what R560 says before it
updates. In OFF the wrapper has no supply (R29). -/
def Obligations.WrapperCommands : Prop :=
  (∀ s : State, switchedOn s = true → exec .wrstnAssert s = .next { s with wrap := { s.wrap with
    wir := 0, refused := false, mbusy := false, done := if s.wrap.mbusy then false else s.wrap.done } }) ∧
  (∀ s : State, wirCapture s = BitVec.ofNat 4 (s.fuses.now.toNat + 8 * b2n s.wrap.refused)) ∧
  (∀ s : State, switchedOn s = true →
    let loaded (code : BitVec 4) : State := { s with wrap := { s.wrap with wirCap := wirCapture s, wir := code, refused := false } }
    exec .wsBypass s = .next (loaded 0) ∧
    (∀ cells, exec (.wsPreload cells) s = .next { loaded 4 with wrap := { (loaded 4).wrap with
      wbr := cells.foldl (fun t c => if c.1 < 33272 then Tab.set false t c.1 c.2 else t) s.wrap.wbr } }) ∧
    exec .widcode s = .next { loaded 6 with wrap := { (loaded 6).wrap with cap := 0x5C0A102103000302#64 } } ∧
    let word : Nat := (Tab.get 0 s.wrap.fuses 0).toNat + (Tab.get 0 s.wrap.fuses 1).toNat * 2 ^ 16 + (Tab.get 0 s.wrap.fuses 2).toNat * 2 ^ 32
    exec .wfuserd s = .next { loaded 10 with wrap := { (loaded 10).wrap with cap := BitVec.ofNat 64 word } }) ∧
  (∀ s : State, switchedOn s = true → ¬ ((s.fuses.now = 0 ∨ s.fuses.now = 1 ∨ s.fuses.now = 4) ∧ s.role.role = .spare) →
    let refused : State := { s with wrap := { s.wrap with wirCap := wirCapture s, wir := 0, refused := true } }
    ∀ (cells : List (Nat × Bool)) (v : W64), exec (.wsExtest cells) s = .next refused ∧ exec (.wsIntest cells) s = .next refused ∧
      exec .wsSafe s = .next refused ∧ exec .wsClamp s = .next refused ∧ exec (.wmbist v) s = .next refused ∧
      exec (.wrepair v) s = .next refused) ∧
  (∀ s : State, switchedOn s = true → s.fuses.now = 0 ∨ s.fuses.now = 1 ∨ s.fuses.now = 4 → s.role.role = .spare →
    let s0 : State := { s with wrap := { s.wrap with wirCap := wirCapture s } }
    let held := testHold s0
    let loaded (code : BitVec 4) : State := { held with wrap := { held.wrap with wir := code, refused := false } }
    let cellsIn (cells : List (Nat × Bool)) (u : State) : State := { u with wrap := { u.wrap with
      wbr := cells.foldl (fun t c => if c.1 < 33272 then Tab.set false t c.1 c.2 else t) u.wrap.wbr } }
    (∀ cells, exec (.wsExtest cells) s = .next (cellsIn cells (loaded 1)) ∧ exec (.wsIntest cells) s = .next (cellsIn cells (loaded 2))) ∧
    exec .wsSafe s = .next (loaded 3) ∧ exec .wsClamp s = .next (loaded 5) ∧
    (∀ v : W64, exec (.wmbist v) s = .next { loaded 8 with wrap := { (loaded 8).wrap with
      cap := mbistWord (loaded 8), algo := v.extractLsb' 0 2, banksel := v.extractLsb' 6 10 } }) ∧
    (∀ v : W64, exec (.wrepair v) s = .next { loaded 9 with wrap := { (loaded 9).wrap with
      cap := wrepairWord (loaded 9), lbank := v.extractLsb' 0 10, spare := v.extractLsb' 10 2 } }) ∧
    (s.wrap.hold = true → held = s0) ∧
    (s.wrap.hold = false → held.wrap = { s0.wrap with hold := true } ∧ held.vs.wipePending = true ∧ held.fuses = s.fuses ∧
      ∀ c : CoreId, (held.core c).st = .off ∧ (held.core c).sb = [])) ∧
  (∀ (v : W64) (s : State), switchedOn s = true → s.wrap.wir = 8 →
    let w := { s.wrap with algo := v.extractLsb' 0 2, banksel := v.extractLsb' 6 10 }
    (s.wrap.mbusy = true ∨ v.extractLsb' 0 2 = (3 : BitVec 2) → exec (.mbistStart v) s = .next { s with wrap := w }) ∧
    (s.wrap.mbusy = false → v.extractLsb' 0 2 ≠ (3 : BitVec 2) → s.wrap.rbusy = none → exec (.mbistStart v) s = .next { s with
      wrap := { w with mbusy := true, done := false, fail := false, nfail := 0, runs := w.runs + 1 }
      vs := { s.vs with mem := ⟨some (w.runs + 1), [], []⟩ } })) ∧
  (∀ s : State, s.wrap.mbusy = true → clockOn s .vclk = true →
    let n := ((List.range 1024).filter (fun b => Config.mbistFails s.wrap.runs b)).length
    exec .mbistDone s = .next { s with wrap := { s.wrap with
      mbusy := false, done := true, fail := n != 0, nfail := BitVec.ofNat 11 n, lastRun := some s.wrap.runs } }) ∧
  (∀ (v : W64) (s : State), switchedOn s = true → s.wrap.wir = 9 →
    let lb : BitVec 10 := v.extractLsb' 0 10
    let sp : BitVec 2 := v.extractLsb' 10 2
    let w := { s.wrap with lbank := lb, spare := sp }
    let named : Prop := ∃ n, n < 3 ∧ (Tab.get 0 s.wrap.fuses n).getLsbD 10 = true ∧ (Tab.get 0 s.wrap.fuses n).truncate 10 = lb
    let failed : Prop := ∃ r, s.wrap.lastRun = some r ∧ Config.mbistFails r (1021 + sp.toNat) = true
    (s.wrap.rbusy.isSome = true ∨ sp = 3 ∨ Tab.get 0 s.wrap.fuses sp.toNat ≠ 0 ∨ 1020 < lb.toNat ∨ named ∨ failed →
      exec (.repairFuseProgram v) s = .next { s with wrap := { w with rerr := true } }) ∧
    (s.wrap.rbusy = none → sp ≠ 3 → Tab.get 0 s.wrap.fuses sp.toNat = 0 → lb.toNat ≤ 1020 → ¬ named → ¬ failed →
      exec (.repairFuseProgram v) s = .next { s with wrap := { w with rerr := false, rbusy := some (sp, lb) } })) ∧
  ∀ (n : BitVec 2) (lb : BitVec 10) (s : State), switchedOn s = true → s.wrap.rbusy = some (n, lb) →
    exec .repairFuseDone s = .next { s with wrap := { s.wrap with
      rbusy := none
      fuses := Tab.set 0 s.wrap.fuses n.toNat (Tab.get 0 s.wrap.fuses n.toNat ||| lb.zeroExtend 16 ||| 0x400) } }

/-! ## What every step keeps -/

/-- R501, R505, R565, R567: no command restores a fuse. Whatever stands at the front of the queue, and in any state, reached or not, in which a running
fuse command is sound, a step keeps that soundness, never lowers the lifecycle state or MINSVN, keeps programmed and revoked keys so, and leaves
every blown repair fuse blown; and it takes exactly the front command from the queue. -/
def Obligations.FusesAreNeverRestored : Prop :=
  ∀ s t : State, FusesSound s → step s = .next t → FusesSound t ∧ onlyBlown s t ∧ t.pending = s.pending.tail
end

