-- ==== Sys2Proof/Laws/Access.lean ====
section
/-! SUPPORT. A write of the set-up window that its requester may make writes its register (R570, R573). -/

namespace Sys2Proof.Laws

open Sys2Proof.Machine Sys2Proof.Claims

theorem writeCmd_ok {who : Requester} {off : Nat} {v : W64} {s : State} (h : mayAccess who (writeLevel s off) off s = true) (h8 : off % 8 = 0)
    (hl : off < 0xF0000) : writeCmd who off 0xFF v s = .next (written who (writeReg who off v s)) := by
  have hw : windowRefused who off s = false := by revert h; unfold mayAccess; cases windowRefused who off s <;> simp
  have hW : windowWrite who off 0xFF v s = (.okay, writeReg who off v s) := by
    unfold windowWrite; rw [hw]; simp [h8]; omega
  unfold writeCmd windowCmd
  cases who with
  | core c =>
    have : coreLives s c = true := by revert h; unfold mayAccess; simp [hw]
    simp only [hW, this]; rfl
  | weado =>
    have : s.weado.sam.busy = false ∧ writeLevel s off ≤ effLevel s := by revert h; unfold mayAccess; simp [hw]
    have h2 : ¬ (effLevel s < writeLevel s off) := by omega
    simp only [hW, this.1, if_neg h2]; rfl
  | host => simp only [hW]; rfl

theorem regCmd_ok {who : Requester} {off v : Nat} {s : State} (h : mayAccess who 2 off s = true) (h8 : off % 8 = 0)
    (hl : off < 0xF0000) (hf : samFreeWrite s off = false) : regCmd who off v s = .next (written who (writeReg who off (BitVec.ofNat 64 v) s)) := by
  unfold regCmd; apply writeCmd_ok _ h8 hl; unfold writeLevel; rw [hf]; simpa using h

theorem writeCmd_ok2 {who : Requester} {off : Nat} {v : W64} {s : State} (h : mayAccess who 2 off s = true) (h8 : off % 8 = 0)
    (hl : off < 0xF0000) (hf : samFreeWrite s off = false) : writeCmd who off 0xFF v s = .next (written who (writeReg who off v s)) := by
  apply writeCmd_ok _ h8 hl; unfold writeLevel; rw [hf]; simpa using h

end Sys2Proof.Laws
end

