-- ==== Sys2Proof/Laws/Tab.lean ====
section
/-! SUPPORT. The small lemmas of the groups of four and of the tables that State holds: what is read after one entry is replaced. -/

namespace Sys2Proof.Laws

open Sys2Proof.Machine Sys2Proof.Claims

@[simp] theorem Quad.get_set_same {α : Type} (q : Quad α) (i : Fin 4) (v : α) : (q.set i v).get i = v := by
  fin_cases i <;> rfl

theorem Quad.get_set_other {α : Type} (q : Quad α) (i j : Fin 4) (v : α) (h : j ≠ i) : (q.set i v).get j = q.get j := by
  fin_cases i <;> fin_cases j <;> first | rfl | exact absurd rfl h

@[simp] theorem Quad.set_set {α : Type} (q : Quad α) (i : Fin 4) (v w : α) : (q.set i v).set i w = q.set i w := by
  fin_cases i <;> rfl

@[simp] theorem Quad.set_get {α : Type} (q : Quad α) (i : Fin 4) : q.set i (q.get i) = q := by
  fin_cases i <;> rfl

@[simp] theorem core_setCore (c : CoreId) (k : Core) (s : State) : (setCore c k s).core c = k := by simp [setCore, State.core]

@[simp] theorem core_withCore (c : CoreId) (f : Core → Core) (s : State) : (withCore c f s).core c = f (s.core c) := by simp [withCore]

@[simp] theorem setCore_setCore (c : CoreId) (k k' : Core) (s : State) : setCore c k' (setCore c k s) = setCore c k' s := by simp [setCore]

@[simp] theorem setCore_core (c : CoreId) (s : State) : setCore c (s.core c) s = s := by simp [setCore, State.core]

@[simp] theorem quad_get_map {α β} (q : Quad α) (f : α → β) (i : Fin 4) : (q.map f).get i = f (q.get i) := by fin_cases i <;> rfl

@[simp] theorem Tab.find_insert_same {α : Type} (t : Tab α) (k : Nat) (v : α) : Tab.find (Tab.insert t k v) k = some v := by
  induction t with
  | nil => simp [Tab.insert, Tab.find]
  | cons e t ih =>
    obtain ⟨k', v'⟩ := e
    unfold Tab.insert
    split
    · simp [Tab.find]
    · split
      · simp [Tab.find]
      · rename_i h; simp [Tab.find, h, ih]

theorem Tab.find_insert_other {α : Type} (t : Tab α) (k m : Nat) (v : α) (h : m ≠ k) : Tab.find (Tab.insert t k v) m = Tab.find t m := by
  induction t with
  | nil => simp [Tab.insert, Tab.find, h.symm]
  | cons e t ih =>
    obtain ⟨k', v'⟩ := e
    unfold Tab.insert
    split
    · rw [Tab.find, if_neg h.symm]
    · split
      · rename_i h2; subst h2; simp [Tab.find, h.symm]
      · simp [Tab.find, ih]

@[simp] theorem Tab.find_erase_same {α : Type} (t : Tab α) (k : Nat) : Tab.find (Tab.erase t k) k = none := by
  induction t with
  | nil => rfl
  | cons e t ih =>
    obtain ⟨k', v'⟩ := e
    unfold Tab.erase at *
    by_cases h : k' = k
    · subst h; simpa using ih
    · simp [h, Tab.find]; simpa using ih

theorem Tab.find_erase_other {α : Type} (t : Tab α) (k m : Nat) (h : m ≠ k) : Tab.find (Tab.erase t k) m = Tab.find t m := by
  induction t with
  | nil => rfl
  | cons e t ih =>
    obtain ⟨k', v'⟩ := e
    unfold Tab.erase at *
    by_cases h2 : k' = k
    · subst h2; simp [Tab.find, h.symm]; simpa using ih
    · simp [h2, Tab.find]; rw [ih]

@[simp] theorem Tab.get_set_same {α : Type} [DecidableEq α] (d : α) (t : Tab α) (k : Nat) (v : α) : Tab.get d (Tab.set d t k v) k = v := by
  unfold Tab.set Tab.get; split
  · rename_i h; subst h; simp
  · simp

theorem Tab.get_set_other {α : Type} [DecidableEq α] (d d' : α) (t : Tab α) (k m : Nat) (v : α) (h : m ≠ k) :
    Tab.get d' (Tab.set d t k v) m = Tab.get d' t m := by
  unfold Tab.set Tab.get; split
  · rw [Tab.find_erase_other _ _ _ h]
  · rw [Tab.find_insert_other _ _ _ _ h]

@[simp] theorem bank_rawBank (k : Core) (l : BitVec 3) (b : Bank) : (k.rawBank l b).bank l = b := by
  simp [Core.rawBank, Core.bank]

theorem bank_rawBank_other (k : Core) (l m : BitVec 3) (b : Bank) (h : m ≠ l) : (k.rawBank l b).bank m = k.bank m := by
  unfold Core.rawBank Core.bank
  exact Tab.get_set_other _ _ _ _ _ _ (fun hh => h (BitVec.eq_of_toNat_eq hh))

@[simp] theorem run_putRun (k : Core) (b : Bank) :
    (k.putRun b).run = { b with dirty := b.dirty ||| changedGroups k.run b } := by
  simp only [Core.putRun, Core.putBank, Core.run]
  have : (k.rawBank k.level { b with dirty := b.dirty ||| changedGroups (k.bank k.level) b }).level = k.level := rfl
  rw [this, bank_rawBank]

/-- The fields of a core that a change of its running bank leaves alone. -/
theorem putRun_fields (k : Core) (b : Bank) : k.putRun b = { k with banks := (k.putRun b).banks } := rfl

end Sys2Proof.Laws
end

