-- ==== Sys2Proof/Laws/Flags.lean ====
section
/-! SUPPORT. The results and flags of the arithmetic and logical operations as numbers (R231, R252, R253). -/

namespace Sys2Proof.Laws

open Sys2Proof.Machine Sys2Proof.Claims

theorem msb_toInt (r : W64) : r.getLsbD 63 = decide (r.toInt < 0) := by
  rw [← BitVec.msb_eq_getLsbD_last r (w := 64)]
  exact BitVec.msb_eq_toInt

theorem add_v (x a : W64) (c : Bool) :
   (x.getLsbD 63 == a.getLsbD 63 && (BitVec.ofNat 64 (x.toNat + a.toNat + b2n c)).getLsbD 63 != x.getLsbD 63) =
   decide ((BitVec.ofNat 64 (x.toNat + a.toNat + b2n c)).toInt ≠ x.toInt + a.toInt + b2n c) := by
  simp only [msb_toInt]
  have h1 := x.isLt; have h2 := a.isLt
  simp only [BitVec.toInt_eq_toNat_cond, BitVec.toNat_ofNat]
  have hc : b2n c ≤ 1 := by cases c <;> decide
  rw [Bool.eq_iff_iff]
  simp only [Bool.and_eq_true, beq_iff_eq, bne_iff_ne, decide_eq_true_eq, ne_eq, decide_eq_decide, Nat.cast_ofNat]
  generalize b2n c = k at *
  generalize x.toNat = X at *
  generalize a.toNat = A at *
  split <;> split <;> split <;> omega

theorem sub_v (x a : W64) (c : Bool) :
   (x.getLsbD 63 != a.getLsbD 63 && (x - a - BitVec.ofNat 64 (b2n c)).getLsbD 63 != x.getLsbD 63) =
   decide ((x - a - BitVec.ofNat 64 (b2n c)).toInt ≠ x.toInt - a.toInt - b2n c) := by
  simp only [msb_toInt]
  have h1 := x.isLt; have h2 := a.isLt
  have hc : b2n c ≤ 1 := by cases c <;> decide
  simp only [BitVec.toInt_eq_toNat_cond, BitVec.toNat_ofNat, BitVec.toNat_sub]
  rw [Bool.eq_iff_iff]
  simp only [Bool.and_eq_true, beq_iff_eq, bne_iff_ne, decide_eq_true_eq, ne_eq, decide_eq_decide, Nat.cast_ofNat]
  generalize b2n c = k at *
  generalize x.toNat = X at *
  generalize a.toNat = A at *
  split <;> split <;> split <;> omega

theorem aluOp2 (code : Nat) (b : Bank) (a x : W64) (t : List W64) (h : b.oc = a :: x :: t)
   (h1 : 0x20 ≤ code) (h2 : code < 0x50 ∨ code = 0x60) (h3 : (code == 0x24 || code == 0x25 || code == 0x26 || code == 0x32 || code == 0x3C || (0x42 ≤ code && code ≤ 0x47)) = false) :
   halfResult code b = { b with oc := (alu2 code b.flags x a).1 :: t, flags := (alu2 code b.flags x a).2 } := by
  unfold halfResult
  rw [if_neg (by omega), if_neg (by omega)]
  unfold aluOp
  dsimp only
  rw [h]
  dsimp only
  split <;> try omega
  rw [if_neg (by rw [h3]; decide)]
  rw [if_neg (by omega)]
  rfl

theorem aluOp1 (code : Nat) (b : Bank) (a : W64) (t : List W64) (h : b.oc = a :: t)
   (h1 : 0x20 ≤ code) (h2 : code < 0x50) (h3 : (code == 0x24 || code == 0x25 || code == 0x26 || code == 0x32 || code == 0x3C || (0x42 ≤ code && code ≤ 0x47)) = true) :
   halfResult code b = { b with oc := (alu1 code b.flags a).1 :: t, flags := (alu1 code b.flags a).2 } := by
  unfold halfResult
  rw [if_neg (by omega), if_neg (by omega)]
  unfold aluOp
  dsimp only
  rw [h]
  dsimp only
  split <;> try omega
  rw [if_pos h3]
  rfl

theorem aluOpC (code : Nat) (b : Bank) (a x : W64) (t : List W64) (h : b.oc = a :: x :: t)
   (h1 : 0x50 ≤ code) (h2 : code ≤ 0x59) :
   halfResult code b = { b with oc := t, flags := compareFlags code b.flags x a } := by
  unfold halfResult
  rw [if_neg (by omega), if_neg (by omega)]
  unfold aluOp
  dsimp only
  rw [h]
  dsimp only
  have h3 : ((code == 0x24 || code == 0x25 || code == 0x26 || code == 0x32 || code == 0x3C || (0x42 ≤ code && code ≤ 0x47)) : Bool) = false := by
    simp; omega
  split <;> try omega
  rw [if_neg (by rw [h3]; decide), if_pos ⟨h1, h2⟩]
  rfl

theorem add_flags (f : Flg) (x a : W64) (c : Bool) : addFlags f x a c =
   (x + a + BitVec.ofNat 64 (b2n c), mkFlags (flT f) (x + a + BitVec.ofNat 64 (b2n c) == 0) (decide ((x + a + BitVec.ofNat 64 (b2n c)).toInt < 0))
     (decide (2 ^ 64 ≤ x.toNat + a.toNat + b2n c)) (decide ((x + a + BitVec.ofNat 64 (b2n c)).toInt ≠ x.toInt + a.toInt + b2n c))) := by
  have h : BitVec.ofNat 64 (x.toNat + a.toNat + b2n c) = x + a + BitVec.ofNat 64 (b2n c) := by
    apply BitVec.eq_of_toNat_eq; simp
  unfold addFlags
  dsimp only
  rw [add_v, msb_toInt, h]

theorem sub_flags (f : Flg) (x a : W64) (c : Bool) : subFlags f x a c =
   (x - a - BitVec.ofNat 64 (b2n c), mkFlags (flT f) (x - a - BitVec.ofNat 64 (b2n c) == 0) (decide ((x - a - BitVec.ofNat 64 (b2n c)).toInt < 0))
     (decide (a.toNat + b2n c ≤ x.toNat)) (decide ((x - a - BitVec.ofNat 64 (b2n c)).toInt ≠ x.toInt - a.toInt - b2n c))) := by
  unfold subFlags
  dsimp only
  rw [sub_v]
  simp only [ge_iff_le, msb_toInt]

theorem zn_eq (f : Flg) (r : W64) : flagsZN f r = mkFlags (flT f) (r == 0) (decide (r.toInt < 0)) (flC f) (flV f) := by
  unfold flagsZN; rw [msb_toInt]

theorem znv_eq (f : Flg) (r : W64) (v : Bool) : flagsZNV f r v = mkFlags (flT f) (r == 0) (decide (r.toInt < 0)) (flC f) v := by
  unfold flagsZNV; rw [msb_toInt]

theorem withT_mk : ∀ t z n c v h : Bool, withT (mkFlags t z n c v) h = mkFlags h z n c v := by decide

theorem popc_sum (p : Nat → Bool) (l : List Nat) : (l.filter p).length = (l.map (fun i => b2n (p i))).sum := by
  induction l with
  | nil => rfl
  | cons i l ih => cases h : p i <;> simp [h, ih, b2n]; omega

theorem shl_nat (x : W64) (n : Nat) : x <<< n = BitVec.ofNat 64 (x.toNat * 2 ^ n) := by
  apply BitVec.eq_of_toNat_eq; simp [Nat.shiftLeft_eq]

theorem shr_nat (x : W64) (n : Nat) : x >>> n = BitVec.ofNat 64 (x.toNat / 2 ^ n) := by
  have := x.isLt
  apply BitVec.eq_of_toNat_eq; simp [Nat.shiftRight_eq_div_pow]
  rw [Nat.mod_eq_of_lt]; exact Nat.lt_of_le_of_lt (Nat.div_le_self _ _) this

theorem rol_nat (x : W64) (n : Nat) (h : n < 64) : x.rotateLeft n = BitVec.ofNat 64 (x.toNat * 2 ^ n + x.toNat / 2 ^ (64 - n)) := by
  have hx := x.isLt
  apply BitVec.eq_of_toNat_eq
  rw [BitVec.toNat_rotateLeft, Nat.mod_eq_of_lt h, BitVec.toNat_ofNat, Nat.shiftLeft_eq, Nat.shiftRight_eq_div_pow]
  have h1 : x.toNat / 2 ^ (64 - n) < 2 ^ n := by
    rw [Nat.div_lt_iff_lt_mul (by positivity), ← Nat.pow_add]
    rw [show n + (64 - n) = 64 by omega]; exact hx
  have h2 : x.toNat * 2 ^ n % 2 ^ 64 = (x.toNat % 2 ^ (64 - n)) * 2 ^ n := by
    rw [show (2:Nat) ^ 64 = 2 ^ (64 - n) * 2 ^ n by rw [← Nat.pow_add]; congr 1; omega, Nat.mul_mod_mul_right]
  rw [Nat.add_mod, h2]
  rw [← Nat.shiftLeft_eq, ← Nat.shiftLeft_add_eq_or_of_lt h1]
  have h3 : (x.toNat % 2 ^ (64 - n)) < 2 ^ (64 - n) := Nat.mod_lt _ (by positivity)
  have h4 : (x.toNat % 2 ^ (64 - n)) <<< n + x.toNat / 2 ^ (64 - n) < 2 ^ 64 := by
    rw [Nat.shiftLeft_eq]
    have : (2:Nat) ^ 64 = 2 ^ (64 - n) * 2 ^ n := by rw [← Nat.pow_add]; congr 1; omega
    rw [this]
    calc _ < (x.toNat % 2 ^ (64 - n)) * 2 ^ n + 2 ^ n := by omega
      _ = (x.toNat % 2 ^ (64 - n) + 1) * 2 ^ n := by ring
      _ ≤ _ := Nat.mul_le_mul_right _ h3
  have h5 : x.toNat / 2 ^ (64 - n) % 2 ^ 64 = x.toNat / 2 ^ (64 - n) := Nat.mod_eq_of_lt (by omega)
  rw [h5, Nat.mod_eq_of_lt h4]

theorem ror_nat (x : W64) (n : Nat) (h : n < 64) : x.rotateRight n = BitVec.ofNat 64 (x.toNat / 2 ^ n + x.toNat * 2 ^ (64 - n)) := by
  rcases Nat.eq_zero_or_pos n with h0 | h0
  · subst h0; simp [BitVec.rotateRight, BitVec.rotateRightAux]
    apply BitVec.eq_of_toNat_eq; simp; omega
  · have hx := x.isLt
    rw [show x.rotateRight n = x.rotateLeft (64 - n) by
      apply BitVec.eq_of_toNat_eq
      rw [BitVec.toNat_rotateLeft, BitVec.toNat_rotateRight, Nat.mod_eq_of_lt h, show (64 - n) % 64 = 64 - n from Nat.mod_eq_of_lt (by omega), Nat.or_comm, show 64 - (64 - n) = n by omega]]
    rw [rol_nat x (64 - n) (by omega), show 64 - (64 - n) = n by omega, Nat.add_comm]

theorem sar_int (x : W64) (n : Nat) : x.sshiftRight n = BitVec.ofInt 64 (x.toInt / 2 ^ n) := by
  apply BitVec.eq_of_toInt_eq
  rw [BitVec.toInt_sshiftRight, Int.shiftRight_eq_div_pow, BitVec.toInt_ofInt]
  have h1 := BitVec.le_toInt x; have h2 := BitVec.toInt_lt (x := x)
  have hp : (1:Int) ≤ 2 ^ n := by have := Nat.one_le_two_pow (n := n); exact_mod_cast this
  have e : ((2 ^ n : Nat) : Int) = 2 ^ n := by push_cast; rfl
  rw [e]
  have a1 : -(2^63) ≤ x.toInt / 2 ^ n := by
    rw [Int.le_ediv_iff_mul_le (by omega)]
    simp at h1
    nlinarith
  have a2 : x.toInt / 2 ^ n < 2 ^ 63 := by
    apply Int.ediv_lt_of_lt_mul (by omega)
    simp at h2
    nlinarith
  rw [Int.bmod_eq_of_le] <;> simp <;> omega

theorem find_range_none (p : Nat → Bool) (n : Nat) (h : (List.range n).find? p = none) : ∀ i, i < n → p i = false := by
  intro i hi
  rw [List.find?_eq_none] at h
  simpa using h i (List.mem_range.mpr hi)

theorem ctz_ok (a : W64) : ctz64 a ≤ 64 ∧ (∀ i, i < ctz64 a → a.getLsbD i = false) ∧ (ctz64 a < 64 → a.getLsbD (ctz64 a) = true) := by
  unfold ctz64
  cases h : (List.range 64).find? (fun i => a.getLsbD i) with
  | none => simp only [Option.getD_none]; exact ⟨by omega, find_range_none _ _ h, by omega⟩
  | some i =>
    simp only [Option.getD_some]
    rw [List.find?_range_eq_some] at h
    obtain ⟨h1, h2, h3⟩ := h
    simp at h2
    exact ⟨by omega, fun j hj => by simpa using h3 j hj, fun _ => h1⟩

theorem clz_ok (a : W64) : clz64 a ≤ 64 ∧ (∀ i, 64 - clz64 a ≤ i → a.getLsbD i = false) ∧ (clz64 a < 64 → a.getLsbD (63 - clz64 a) = true) := by
  unfold clz64
  have hx := a.isLt
  split
  · rename_i h; subst h; simp
  · rename_i h
    have h0 : a.toNat ≠ 0 := by intro hh; apply h; apply BitVec.eq_of_toNat_eq; simpa using hh
    have hl : Nat.log2 a.toNat < 64 := (Nat.log2_lt h0).2 hx
    refine ⟨by omega, ?_, ?_⟩
    · intro i hi
      unfold BitVec.getLsbD
      apply Nat.testBit_lt_two_pow
      exact Nat.lt_of_lt_of_le (Nat.lt_log2_self) (Nat.pow_le_pow_right (by omega) (by omega))
    · intro _
      rw [show 63 - (63 - Nat.log2 a.toNat) = Nat.log2 a.toNat by omega]
      unfold BitVec.getLsbD
      exact Nat.testBit_log2 h0

theorem bswap_ok (a : W64) (i : Nat) (hi : i < 64) : (bswap64 a).getLsbD i = a.getLsbD (8 * (7 - i / 8) + i % 8) := by
  unfold bswap64
  simp only [List.range, List.range.loop, List.foldl_cons, List.foldl_nil]
  simp only [BitVec.getLsbD_or, BitVec.getLsbD_shiftLeft, BitVec.getLsbD_setWidth, BitVec.getLsbD_extractLsb', BitVec.truncate_eq_setWidth, BitVec.zeroExtend_eq_setWidth, BitVec.getLsbD_zero]
  interval_cases i <;> simp

end Sys2Proof.Laws
end

