-- ==== Sys2Proof/Laws/Parcels.lean ====
section
/-! SUPPORT. What the shared operations of a parcel do when they go on: fetch, decoding of the parcel's fields, cells, room, halves and commitment (R210, R215, R286, R292). -/

namespace Sys2Proof.Laws

open Sys2Proof.Machine Sys2Proof.Claims

theorem condOf_long (cond : BitVec 3) (m : Nat) (f : BitVec 10) (h : m < 64) : condOf (longParcel cond m f) = cond := by
  apply BitVec.eq_of_toNat_eq
  have h1 := cond.isLt; have h2 := f.isLt
  simp [condOf, longParcel, BitVec.extractLsb'_toNat, Nat.shiftRight_eq_div_pow]
  omega

theorem isPair_long (cond : BitVec 3) (m : Nat) (f : BitVec 10) (h : m < 64) : isPair (longParcel cond m f) = false := by
  have h1 := cond.isLt; have h2 := f.isLt
  unfold isPair longParcel BitVec.getLsbD
  rw [BitVec.toNat_ofNat, Nat.testBit_eq_decide_div_mod_eq, decide_eq_false_iff_not]
  omega

theorem majorOf_long (cond : BitVec 3) (m : Nat) (f : BitVec 10) (h : m < 64) : majorOf (longParcel cond m f) = m := by
  have h1 := cond.isLt; have h2 := f.isLt
  simp [majorOf, longParcel]
  omega

theorem fieldOf_long (cond : BitVec 3) (m : Nat) (f : BitVec 10) (_h : m < 64) : fieldOf (longParcel cond m f) = f := by
  apply BitVec.eq_of_toNat_eq
  have h1 := cond.isLt; have h2 := f.isLt
  simp [fieldOf, longParcel, BitVec.extractLsb'_toNat]
  omega

theorem isPair_pair (cond : BitVec 3) (sa : Nat) (sb : BitVec 8) (h : sa < 256) : isPair (pairParcel cond sa sb) = true := by
  have h1 := cond.isLt; have h2 := sb.isLt
  unfold isPair pairParcel BitVec.getLsbD
  rw [BitVec.toNat_ofNat, Nat.testBit_eq_decide_div_mod_eq, decide_eq_true_eq]
  omega

theorem condOf_pair (cond : BitVec 3) (sa : Nat) (sb : BitVec 8) (h : sa < 256) : condOf (pairParcel cond sa sb) = cond := by
  apply BitVec.eq_of_toNat_eq
  have h1 := cond.isLt; have h2 := sb.isLt
  simp [condOf, pairParcel, BitVec.extractLsb'_toNat, Nat.shiftRight_eq_div_pow]
  omega

theorem saOf_pair (cond : BitVec 3) (sa : Nat) (sb : BitVec 8) (h : sa < 256) : saOf (pairParcel cond sa sb) = sa := by
  have h1 := cond.isLt; have h2 := sb.isLt
  simp [saOf, pairParcel]
  omega

theorem sbOf_pair (cond : BitVec 3) (sa : Nat) (sb : BitVec 8) (_h : sa < 256) : sbOf (pairParcel cond sa sb) = sb.toNat := by
  have h1 := cond.isLt; have h2 := sb.isLt
  simp [sbOf, pairParcel]
  omega

theorem isEret_pair {cond : BitVec 3} {sa : Nat} {sb : BitVec 8} (h : sa < 256) : isEret (pairParcel cond sa sb) = false := by
  simp [isEret, isPair_pair _ _ _ h]

/-- The held parcel's result. -/
theorem parcelCmd_ready {p : PCtx} {w nxt : BitVec 20} {s s1 : State} (h : Ready p w nxt s s1) :
    parcelCmd p w nxt s = .next (match (if parcelIllegal w nxt then Out.exc excIllegal s1
        else runCond ⟨p.core, (s.core p.core).pc, false⟩ w nxt s1) with
      | .ok f s2 => stepEnd p.core (doFlow p.core f (dropHeld p.core s2))
      | .exc e s2 => takeExc p.core e (presented p w nxt s) s2
      | .hold why s2 => holdParcel p.core why s2) := by
  have hpc : ((presented p w nxt s).core p.core).pc = (s.core p.core).pc := by
    simp only [presented, core_withCore, settleArm]; split <;> simp
  have hheld : ((presented p w nxt s).core p.core).held = some ⟨p.hdr, w, nxt, false, .drain, [], [], false⟩ := by
    simp only [presented, core_withCore]
  have hx : execParcel ⟨p.core, (s.core p.core).pc, false⟩ p.hdr w nxt (presented p w nxt s) =
      if parcelIllegal w nxt then Out.exc excIllegal s1 else runCond ⟨p.core, (s.core p.core).pc, false⟩ w nxt s1 := by
    have h1 := h.reached; have h2 := h.fresh; have h3 := h.line; have h4 := h.place
    simp [execParcel, h1, Out.next, h2, h3, h4]
  unfold parcelCmd
  rw [if_pos h.issues]
  have hs : startParcel p.core p.hdr w nxt s = runHeld p.core (presented p w nxt s) := rfl
  rw [hs]; unfold runHeld; simp only [hheld]; rw [hpc, hx]; rfl

@[simp] theorem Out.next_ok {α β} (a : α) (s : State) (f : α → State → Out β) : (Out.ok a s).next f = f a s := rfl

@[simp] theorem Out.next_exc {α β} (e : Exc) (s : State) (f : α → State → Out β) : (Out.exc e s : Out α).next f = .exc e s := rfl

@[simp] theorem Out.next_hold {α β} (w : HoldFor) (s : State) (f : α → State → Out β) : (Out.hold w s : Out α).next f = .hold w s := rfl

/-- Cells that are cached and not pending are taken at once. -/
theorem needCells_ok {c : CoreId} {n r : Nat} {fr : Fr} {s : State} (hn : n ≤ fr.b.oc.length) (hr : r ≤ fr.b.rc.length)
    (hp : takesPending (s.core c).pendingCell n fr.b = false) : needCells c n r fr s = .ok () s := by
  have h1 : ¬ (fr.b.depth < n ∨ fr.b.rdepth < r) := by simp [Bank.depth, Bank.rdepth]; omega
  unfold needCells
  rw [if_neg h1, if_neg (by omega), if_neg (by omega)]
  unfold takesPending at hp
  split <;> rename_i h
  · rw [h] at hp
    simp at hp
    rw [if_neg (fun hh => by omega)]
  · rfl

theorem needRoom_ok {c : CoreId} {b b1 : Bank} {s : State} (h : hasRoom b b1 = true) : needRoom c b b1 s = .ok () s := by
  simp [hasRoom] at h
  unfold needRoom
  rw [if_neg (by omega), if_neg (by omega)]

theorem stackOp_frame (code : Nat) (fr : Fr) : stackOp code fr = { fr with b := (stackOp code ⟨fr.b, [], [], none⟩).b } := by
  obtain ⟨b, sts, acc, d⟩ := fr
  unfold stackOp; dsimp only
  split <;> simp_all [Fr.setO, Fr.setOR]

theorem aluOp_frame (code : Nat) (fr : Fr) : aluOp code fr = { fr with b := (aluOp code ⟨fr.b, [], [], none⟩).b } := by
  obtain ⟨b, sts, acc, d⟩ := fr
  cases h : b.oc with
  | nil => unfold aluOp; simp only [h]; split <;> rfl
  | cons a t =>
    unfold aluOp; simp only [h]
    split <;> try rfl
    split
    · rfl
    · cases t with
      | nil => rfl
      | cons b u => dsimp only; split <;> rfl

theorem awaitDivide_none {c : CoreId} {n : Nat} {fr : Fr} {s : State} (h : fr.div = none) : awaitDivide c n fr s = .ok fr s := by
  unfold awaitDivide; rw [h]

theorem shortHalf_plain {c : CoreId} {code : Nat} {b : Bank} {fr : Fr} {s : State}
    (hp : plainHalf code (s.core c).pendingCell fr.b = some b) (hd : fr.div = none) :
    shortHalf c code fr s = .ok { fr with b := b } s := by
  unfold plainHalf at hp; unfold shortHalf
  split at hp
  · cases hp
  · rename_i i hi
    try simp only [hi]
    split at hp
    · cases hp
    · rename_i hc
      simp only [Bool.or_eq_true, not_or, Bool.not_eq_true] at hc
      obtain ⟨⟨⟨⟨⟨⟨hm, hx⟩, h8⟩, hdv⟩, hl⟩, hlr⟩, hpd⟩ := hc
      simp at hl hlr h8
      rw [needCells_ok hl hlr hpd]
      simp only [Out.next_ok]
      rw [awaitDivide_none hd]
      simp only [Out.next_ok]
      replace hp : (if hasRoom fr.b (halfResult code fr.b) then some (halfResult code fr.b) else none) = some b := hp
      by_cases hroom : hasRoom fr.b (halfResult code fr.b) = true
      swap
      · rw [if_neg hroom] at hp; cases hp
      rw [if_pos hroom] at hp
      injection hp with hp
      unfold halfResult at hp hroom
      have hbody : shortBody c code fr s = .ok { fr with b := b } s := by
        unfold shortBody
        split
        · rename_i h0; subst h0; rw [if_pos rfl] at hp; cases fr; subst hp; rfl
        · rename_i h0
          rw [if_neg h0] at hp
          try rw [if_neg h8]
          split
          · rename_i h20; rw [if_pos h20] at hp; rw [stackOp_frame, hp]
          · rename_i h20; rw [if_neg h20] at hp
            rw [if_neg (by simp [hdv])]
            have h70 : code < 0x70 := by
              by_contra hge
              have : i.cls = .m ∨ i.cls = .x := by
                unfold shortInfo at hi
                split at hi <;> first | omega | (cases hi; first | (left; rfl) | (right; rfl)) | cases hi
              simp at hm hx
              rcases this with h | h <;> simp_all
            rw [if_pos h70, aluOp_frame, hp]
      rw [hbody]
      simp only [Out.next_ok]
      rw [hp] at hroom
      rw [needRoom_ok hroom]
      rfl

theorem makeStores_nil (c : CoreId) (s : State) : makeStores c [] s = s := rfl

theorem commit_plain {c : CoreId} {b : Bank} {s : State} (hsb : (s.core c).sb.length ≤ 16) :
    commit c ⟨b, [], [], none⟩ s = .ok () (putBank c b s) := by
  unfold commit
  have : ¬ (sbAdd (s.core c).sb []).length > 16 := by simp [sbAdd]; omega
  rw [if_neg this]
  simp only [makeStores_nil, List.foldl_nil]
  rfl

theorem commit_ok {c : CoreId} {b : Bank} {sts acc} {s : State} (hsb : (sbAdd (s.core c).sb sts).length ≤ 16) :
    commit c ⟨b, sts, acc, none⟩ s = .ok () (committed c b sts acc s) := by
  unfold commit
  rw [if_neg (Nat.not_lt.mpr hsb)]
  rfl

theorem frame_eq (k : Core) : k.frame = ⟨k.run, [], [], none⟩ := rfl

theorem putBank_pairser (c : CoreId) (b : Bank) (s : State) : ((putBank c b s).core c).detOn = (s.core c).detOn := by
  simp [putBank, Core.putRun, Core.putBank, Core.rawBank, Core.detOn]

theorem runPair_plain {c : CoreId} {sa sb : Nat} {b1 b2 : Bank} {s : State}
    (h1 : plainHalf sa (s.core c).pendingCell (s.core c).run = some b1) (h2 : plainHalf sb (s.core c).pendingCell b1 = some b2)
    (hsb : (s.core c).sb.length ≤ 16) :
    runPair c sa sb s = .ok () (countPair c sa sb (putBank c (pairBank (bank c s) b1 b2) s)) := by
  unfold runPair
  rw [frame_eq, shortHalf_plain (b := b1) (fr := ⟨(s.core c).run, [], [], none⟩) h1 rfl]
  simp only [Out.next_ok]
  rw [shortHalf_plain (b := b2) (fr := ⟨b1, [], [], none⟩) h2 rfl]
  simp only [Out.next_ok]
  rw [show (Fr.soiled ⟨b2, [], [], none⟩ (s.core c).run b1) = ⟨pairBank (bank c s) b1 b2, [], [], none⟩ from rfl, commit_plain hsb]
  rfl

/-- A pair that R209 allows and whose halves are plain. -/
theorem plain_not_solo {code : Nat} {pend b b1} (h : plainHalf code pend b = some b1) : ¬ (0x80 ≤ code ∧ code ≤ 0x85) := by
  intro ⟨ha, hb⟩
  unfold plainHalf at h
  have : ∃ i, shortInfo code = some i ∧ i.cls = .x := by
    have : code = 0x80 ∨ code = 0x81 ∨ code = 0x82 ∨ code = 0x83 ∨ code = 0x84 ∨ code = 0x85 := by omega
    rcases this with h | h | h | h | h | h <;> subst h <;> exact ⟨_, rfl, rfl⟩
  obtain ⟨i, hi, hx⟩ := this
  rw [hi] at h
  simp [hx] at h

theorem pairCmd_plain {p : PCtx} {sa : Nat} {sb : BitVec 8} {nxt : BitVec 20} {s s1 : State} {b1 b2 : Bank} (hsa : sa < 256)
    (hr : Ready p (pairParcel p.cond sa sb) nxt s s1) (hl : codeIllegal (pairParcel p.cond sa sb) = false)
    (hc : condHolds p.cond (bank p.core s1).flags = true)
    (h1 : plainHalf sa (s1.core p.core).pendingCell (bank p.core s1) = some b1)
    (h2 : plainHalf sb.toNat (s1.core p.core).pendingCell b1 = some b2) :
    pairCmd p sa sb nxt s = .next (ends p.core (countPair p.core sa sb.toNat (putBank p.core (pairBank (bank p.core s1) b1 b2) s1))) := by
  unfold pairCmd
  rw [parcelCmd_ready hr]
  have hna := plain_not_solo h1
  have hnb := plain_not_solo h2
  have hT : isTransfer (pairParcel p.cond sa sb) = false := by
    simp [isTransfer, isPair_pair _ _ _ hsa, saOf_pair _ _ _ hsa, sbOf_pair _ _ _ hsa]; omega
  have hS : hasSolo (pairParcel p.cond sa sb) = false := by
    simp [hasSolo, isPair_pair _ _ _ hsa, saOf_pair _ _ _ hsa, sbOf_pair _ _ _ hsa]; omega
  have hill : parcelIllegal (pairParcel p.cond sa sb) nxt = false := by
    simp [parcelIllegal, hl, isPair_pair _ _ _ hsa, nextIllegal, hasDelay, isRep, hT]
  rw [if_neg (by simp [hill])]
  unfold runCond
  rw [condOf_pair _ _ _ hsa]
  dsimp only
  rw [if_pos (show condHolds p.cond (s1.core p.core).run.flags = true from hc), isEret_pair hsa, if_neg (by simp)]
  unfold runHolds
  rw [if_pos (isPair_pair _ _ _ hsa), if_neg (by simp [hS]), saOf_pair _ _ _ hsa, sbOf_pair _ _ _ hsa, runPair_plain h1 h2 hr.buffer]
  rfl

/-- How a parcel's flow ends, as a state; the parcel began in `s`. -/
def flowOut (c : CoreId) (s : State) (o : Out Flow) : State := match o with
  | .ok f s2 => stepEnd c (doFlow c f (dropHeld c s2))
  | .exc e s2 => takeExc c e s s2
  | .hold why s2 => holdParcel c why s2

theorem longCmd_ready {p : PCtx} {m : Nat} {f : BitVec 10} {nxt : BitVec 20} {s s1 : State} (hm : m < 64)
    (hr : Ready p (longParcel p.cond m f) nxt s s1) (hl : parcelIllegal (longParcel p.cond m f) nxt = false)
    (hc : condHolds p.cond (bank p.core s1).flags = true) (hm2 : m ≠ 0x30 ∨ nxt = nopParcel) :
    longCmd p m f nxt s = .next (flowOut p.core (presented p (longParcel p.cond m f) nxt s) (runLong ⟨p.core, (s.core p.core).pc, false⟩ m f s1)) := by
  unfold longCmd
  rw [parcelCmd_ready hr, if_neg (by rw [hl]; decide)]
  unfold runCond
  have he : (isEret (longParcel p.cond m f) && nxt != nopParcel) = false := by
    rcases hm2 with h | h
    · simp [isEret, isPair_long _ _ _ hm, majorOf_long _ _ _ hm, h]
    · simp [h]
  rw [condOf_long _ _ _ hm, if_pos (show condHolds p.cond (s1.core p.core).run.flags = true from hc), if_neg (by rw [he]; decide)]
  unfold runHolds
  rw [if_neg (by rw [isPair_long _ _ _ hm]; decide), majorOf_long _ _ _ hm, fieldOf_long _ _ _ hm]
  rfl

theorem soloCmd_ready {p : PCtx} {sa : Nat} {sb : BitVec 8} {nxt : BitVec 20} {s s1 : State} (hsa : 0x80 ≤ sa ∧ sa ≤ 0x85)
    (hr : Ready p (pairParcel p.cond sa sb) nxt s s1) (hl : parcelIllegal (pairParcel p.cond sa sb) nxt = false)
    (hc : condHolds p.cond (bank p.core s1).flags = true) :
    pairCmd p sa sb nxt s = .next (flowOut p.core (presented p (pairParcel p.cond sa sb) nxt s) (runSolo ⟨p.core, (s.core p.core).pc, false⟩ sa s1)) := by
  have h256 : sa < 256 := by omega
  unfold pairCmd
  rw [parcelCmd_ready hr, if_neg (by rw [hl]; decide)]
  unfold runCond
  rw [condOf_pair _ _ _ h256, if_pos (show condHolds p.cond (s1.core p.core).run.flags = true from hc), isEret_pair h256, if_neg (by simp)]
  unfold runHolds
  have hS : hasSolo (pairParcel p.cond sa sb) = true := by
    simp [hasSolo, isPair_pair _ _ _ h256, saOf_pair _ _ _ h256]; omega
  rw [if_pos (isPair_pair _ _ _ h256), if_pos hS, saOf_pair _ _ _ h256, if_neg (by omega)]
  rfl

theorem long_legal {cond : BitVec 3} {m : Nat} {f : BitVec 10} {nxt : BitVec 20} (hm : m < 64) (h1 : majorListed m = true)
    (h2 : fieldLegal m f = true) (h3 : ([0x08, 0x09, 0x30, 0x3C].contains m) = false) :
    parcelIllegal (longParcel cond m f) nxt = false := by
  simp at h3
  simp [parcelIllegal, codeIllegal, isPair_long _ _ _ hm, majorOf_long _ _ _ hm, fieldOf_long _ _ _ hm, h1, h2, nextIllegal, hasDelay,
    isTransfer, isRep, h3]
  intro ha hb hc; omega

theorem onFrame_pure {c : CoreId} {n r : Nat} {f : Fr → Fr} {b : Bank} {acc : List DAcc} {s : State}
    (hn : n ≤ (bank c s).oc.length) (hr : r ≤ (bank c s).rc.length) (hp : takesPending (s.core c).pendingCell n (bank c s) = false)
    (hf : f ⟨bank c s, [], [], none⟩ = ⟨b, [], acc, none⟩) (hroom : hasRoom (bank c s) b = true) (hsb : (s.core c).sb.length ≤ 16) :
    onFrame c n r (pureFr f) s = .ok .done (committed c b [] acc s) := by
  unfold onFrame
  dsimp only
  rw [frame_eq]
  rw [needCells_ok (fr := ⟨(s.core c).run, [], [], none⟩) hn hr hp]
  simp only [Out.next_ok, pureFr]
  rw [show (⟨(s.core c).run, [], [], none⟩ : Fr) = ⟨bank c s, [], [], none⟩ from rfl, hf]
  dsimp only
  rw [needRoom_ok (show hasRoom (s.core c).run b = true from hroom)]
  simp only [Out.next_ok]
  rw [commit_ok (by simpa [sbAdd] using hsb)]
  rfl

@[simp] theorem committed_nil (c : CoreId) (b : Bank) (s : State) : committed c b [] [] s = putBank c b s := rfl

end Sys2Proof.Laws
end

