-- ==== Sys2Proof/Laws/Frames.lean ====
section
/-! SUPPORT. What the operations of a core do on the running bank: control words, loads and stores, transfers, exception entry and return (R199, R232, R235, R342, R347). -/

namespace Sys2Proof.Laws

open Sys2Proof.Machine Sys2Proof.Claims

theorem sext10_eq (f : BitVec 10) : sext10 f = BitVec.ofInt 64 f.toInt := by
  apply BitVec.eq_of_toInt_eq
  rw [sext10, BitVec.toInt_signExtend_of_le (by omega), BitVec.toInt_ofInt]
  have h1 := BitVec.le_toInt f; have h2 := BitVec.toInt_lt (x := f)
  simp at h1 h2
  rw [Int.bmod_eq_of_le] <;> omega

theorem room_of_le {b b1 : Bank} (h : b1.oc.length ≤ b.oc.length) (h2 : b1.rc.length ≤ b.rc.length) : hasRoom b b1 = true := by
  simp [hasRoom, h, h2]

theorem takesPending_zero (pd : Option Nat) (b : Bank) : takesPending pd 0 b = false := by
  unfold takesPending; split <;> simp

theorem takeExc_free {c : CoreId} {e : Exc} {b s : State} (h : entryFree c s) : takeExc c e b s = raises c e s := by
  unfold takeExc
  rw [if_neg (by simp [h.1]), if_neg (by simp [h.2])]; rfl

theorem exc_flow {c : CoreId} {e : Exc} {b s : State} (h : entryFree c s) : flowOut c b (.exc e s) = raises c e s := takeExc_free h

theorem cw_find {k : Core} {e} (h : e ∈ controlWords k) : k.cw e.1 = some e.2.1 ∧ cwLevels e.1 = some e.2.2 := by
  unfold controlWords at h
  dsimp only at h
  rw [List.mem_append] at h
  rcases h with h | h
  · simp only [List.mem_cons, List.not_mem_nil, or_false] at h
    rcases h with h | h | h | h | h | h | h | h | h | h | h | h <;> subst h <;> exact ⟨rfl, rfl⟩
  · rw [List.mem_flatMap] at h
    obtain ⟨n, hn, h⟩ := h
    rw [List.mem_range] at hn
    simp only [List.mem_cons, List.not_mem_nil, or_false] at h
    rcases h with h | h <;> subst h
    · interval_cases n <;> exact ⟨by simp [Core.cw], by simp [cwLevels]⟩
    · interval_cases n <;> exact ⟨by simp [Core.cw], by simp [cwLevels]⟩

theorem cw_none {k : Core} {n : Nat} (h : ∀ e ∈ controlWords k, n ≠ e.1) : cwLevels n = none := by
  by_contra hc
  have : n ∈ (controlWords k).map (fun e => e.1) := by
    have e : (controlWords k).map (fun e => e.1) = [0x000, 0x001, 0x002, 0x003, 0x010, 0x011, 0x012, 0x013, 0x018, 0x019, 0x01A, 0x020] ++ (List.range 16).flatMap (fun n => [0x040 + 2 * n, 0x041 + 2 * n]) := by
      unfold controlWords
      simp [List.map_flatMap]
    rw [e]
    unfold cwLevels at hc
    split at hc
    all_goals try (subst_vars; decide)
    split at hc
    · rename_i h2
      rw [List.mem_append]
      right
      rw [List.mem_flatMap]
      refine ⟨(n - 64) / 2, by rw [List.mem_range]; omega, ?_⟩
      simp only [List.mem_cons, List.not_mem_nil, or_false]
      omega
    · exact absurd rfl hc
  rw [List.mem_map] at this
  obtain ⟨e, he, h2⟩ := this
  exact h e he h2.symm

theorem mask_toNat (m v : Nat) (h : m < 2 ^ 64) : (maskTo m v).toNat = v &&& m := by
  unfold maskTo
  rw [BitVec.toNat_ofNat, Nat.mod_eq_of_lt (lt_of_le_of_lt Nat.and_le_right h)]

theorem trunc_ext {w : Nat} (x : W64) (h : x.toNat < 2 ^ w) (hw : w ≤ 64) : ((x.truncate w : BitVec w).zeroExtend 64 : W64) = x := by
  apply BitVec.eq_of_toNat_eq
  simp
  have := x.isLt
  have h2 : x.toNat % 2 ^ w = x.toNat := Nat.mod_eq_of_lt h
  rw [h2]; exact Nat.mod_eq_of_lt this

theorem cw_putRun (k : Core) (n : Nat) (b : Bank) : k.cw n = (k.cw n) := rfl

theorem seg_set_same (t : Tab (W64 × W64)) (i : Nat) (d : W64 × W64) : Tab.get seg0 (Tab.set seg0 t i d) i = d := Tab.get_set_same _ _ _ _

theorem written_bound {n w : Nat} {old v : W64} (h : (n = 0 ∧ w = 7) ∨ (n = 1 ∧ w = 5) ∨ (n = 2 ∧ w = 32) ∨ (n = 0x11 ∧ w = 48) ∨ (n = 0x12 ∧ w = 48) ∨ (n = 0x19 ∧ w = 48)) :
    (cwWritten n old v).toNat < 2 ^ w := by
  rcases h with ⟨h, rfl⟩ | ⟨h, rfl⟩ | ⟨h, rfl⟩ | ⟨h, rfl⟩ | ⟨h, rfl⟩ | ⟨h, rfl⟩ <;> subst h
  · have e : cwWritten 0 old v = BitVec.ofNat 64 ((if fieldAt 0 2 v = 3 then fieldAt 0 2 old else fieldAt 0 2 v) + (fieldAt 2 1 v) * 4 + (fieldAt 4 3 old) * 16) := rfl
    rw [e]
    have a1 : fieldAt 0 2 v < 4 := Nat.mod_lt _ (by decide)
    have a2 : fieldAt 0 2 old < 4 := Nat.mod_lt _ (by decide)
    have a3 : fieldAt 2 1 v < 2 := Nat.mod_lt _ (by decide)
    have a4 : fieldAt 4 3 old < 8 := Nat.mod_lt _ (by decide)
    rw [BitVec.toNat_ofNat]
    split <;> omega
  · rw [show cwWritten 1 old v = maskTo 0x1F v.toNat from rfl, mask_toNat _ _ (by decide)]
    exact lt_of_le_of_lt Nat.and_le_right (by decide)
  · rw [show cwWritten 2 old v = maskTo 0xFFFFFFFF v.toNat from rfl, mask_toNat _ _ (by decide)]
    exact lt_of_le_of_lt Nat.and_le_right (by decide)
  · rw [show cwWritten 0x11 old v = maskTo 0xFFFFFFFFFFFF v.toNat from rfl, mask_toNat _ _ (by decide)]
    exact lt_of_le_of_lt Nat.and_le_right (by decide)
  · rw [show cwWritten 0x12 old v = maskTo 0xFFFFFFFFFFFF v.toNat from rfl, mask_toNat _ _ (by decide)]
    exact lt_of_le_of_lt Nat.and_le_right (by decide)
  · rw [show cwWritten 0x19 old v = maskTo 0xFFFFFFFFFFFF v.toNat from rfl, mask_toNat _ _ (by decide)]
    exact lt_of_le_of_lt Nat.and_le_right (by decide)

theorem commit_cw {k : Core} {e} (he : e ∈ controlWords k) (h3 : e.1 ≠ 3) (old v : W64) :
    (k.commitCw e.1 (cwWritten e.1 old v)).cw e.1 = some (cwWritten e.1 old v) := by
  unfold controlWords at he
  dsimp only at he
  rw [List.mem_append] at he
  rcases he with h | h
  · simp only [List.mem_cons, List.not_mem_nil, or_false] at h
    rcases h with h | h | h | h | h | h | h | h | h | h | h | h <;> subst h <;> simp only [Core.commitCw, Core.cw, run_putRun]
    · rw [trunc_ext _ (written_bound (by simp)) (by omega)]
    · rw [trunc_ext _ (written_bound (by simp)) (by omega)]
    · rw [trunc_ext _ (written_bound (by simp)) (by omega)]
    · exact absurd rfl h3
    · rw [trunc_ext _ (written_bound (by simp)) (by omega)]
    · rw [trunc_ext _ (written_bound (by simp)) (by omega)]
    · rw [trunc_ext _ (written_bound (by simp)) (by omega)]
  · rw [List.mem_flatMap] at h
    obtain ⟨n, hn, h⟩ := h
    rw [List.mem_range] at hn
    simp only [List.mem_cons, List.not_mem_nil, or_false] at h
    rcases h with h | h <;> subst h
    · interval_cases n <;> simp [Core.cw, Core.commitCw, Bank.seg]
    · interval_cases n <;> simp [Core.cw, Core.commitCw, Bank.seg]

theorem commit_latent (k : Core) (n : Nat) (v : W64) : (k.commitCw n v).latent = k.latent := by
  unfold Core.commitCw
  dsimp only
  split <;> try rfl
  split <;> rfl

theorem cw_latent (k : Core) (l : Tab W64) (n : Nat) : ({ k with latent := l } : Core).cw n = k.cw n := rfl

theorem latent_list {k : Core} {e} (he : e ∈ controlWords k) : cwLatent e.1 = true ↔ (e.1 = 0x000 ∨ e.1 = 0x003 ∨ e.1 = 0x018 ∨ 0x020 ≤ e.1) := by
  unfold controlWords at he
  dsimp only at he
  rw [List.mem_append] at he
  rcases he with h | h
  · simp only [List.mem_cons, List.not_mem_nil, or_false] at h
    rcases h with h | h | h | h | h | h | h | h | h | h | h | h <;> subst h <;> simp [cwLatent]
  · rw [List.mem_flatMap] at h
    obtain ⟨n, hn, h⟩ := h
    rw [List.mem_range] at hn
    simp only [List.mem_cons, List.not_mem_nil, or_false] at h
    rcases h with h | h <;> subst h <;> simp [cwLatent] <;> omega

theorem mem_cws_latent {k : Core} {e} (l : Tab W64) (he : e ∈ controlWords k) : e ∈ controlWords { k with latent := l } := he

theorem flow_pair {c : CoreId} {o : Out Unit} : (o.next (fun _ s1 => (.ok .done s1 : Out Flow))) = (match o with | .ok _ s => .ok .done s | .exc e s => .exc e s | .hold w s => .hold w s) := by
  cases o <;> rfl

theorem half_code {row : (PCtx → BitVec 8 → Instr) × Nat} (h : row ∈ halfRows) :
    (row.2 < 256 ∧ row.2 ≠ 0 ∧ ∃ i, shortInfo row.2 = some i ∧ i.cls ≠ .x ∧ i.cls ≠ .n) ∧ ∀ p sb s, exec (row.1 p sb) s = pairCmd p row.2 sb nopParcel s := by
  have hb : ∀ row ∈ halfRows, (row.2 < 256 ∧ row.2 ≠ 0 ∧ ∃ i, shortInfo row.2 = some i ∧ i.cls ≠ .x ∧ i.cls ≠ .n) ∧ ∀ p sb s, exec (row.1 p sb) s = pairCmd p row.2 sb nopParcel s := by
    simp only [halfRows, loadRows, storeRows, divideRows, plainRows, stackRows, arithRows, logicRows, testRows, List.cons_append, List.nil_append, List.map_cons, List.map_nil, List.forall_mem_cons]
    repeat' apply And.intro
    all_goals first | (intro p sb s; rfl) | decide | (exact ⟨_, rfl, by decide, by decide⟩) | (intro x hx; cases hx)
  exact hb row h

theorem solo_sb {code : Nat} (h : 0x80 ≤ code ∧ code ≤ 0x85) : ∃ i, shortInfo code = some i ∧ i.cls = .x := by
  have : code = 0x80 ∨ code = 0x81 ∨ code = 0x82 ∨ code = 0x83 ∨ code = 0x84 ∨ code = 0x85 := by omega
  rcases this with h | h | h | h | h | h <;> subst h <;> exact ⟨_, rfl, rfl⟩

/-- A pair that is no solo operation, as its two halves. -/
theorem pairCmd_halves {p : PCtx} {sa : Nat} {sb : BitVec 8} {nxt : BitVec 20} {s s1 : State} (h1 : sa < 256) (h2 : sa ≠ 0)
    (h3 : ∃ i, shortInfo sa = some i ∧ i.cls ≠ .x ∧ i.cls ≠ .n)
    (hr : Ready p (pairParcel p.cond sa sb) nxt s s1) (hl : codeIllegal (pairParcel p.cond sa sb) = false)
    (hc : condHolds p.cond (bank p.core s1).flags = true) :
    pairCmd p sa sb nxt s = .next (flowOut p.core (presented p (pairParcel p.cond sa sb) nxt s) ((runPair p.core sa sb.toNat s1).next (fun _ s1 => .ok .done s1))) := by
  obtain ⟨i, hi, hx, hn⟩ := h3
  have hsb : ¬ (0x80 ≤ sb.toNat ∧ sb.toNat ≤ 0x85) := by
    intro hh
    obtain ⟨j, hj, hjx⟩ := solo_sb hh
    unfold codeIllegal at hl
    rw [if_pos (isPair_pair _ _ _ h1), saOf_pair _ _ _ h1, sbOf_pair _ _ _ h1, hi, hj] at hl
    simp [pairLegal, hjx, hn] at hl
  have hsa : ¬ (0x80 ≤ sa ∧ sa ≤ 0x85) := by
    intro hh
    obtain ⟨j, hj, hjx⟩ := solo_sb hh
    rw [hi] at hj; injection hj with hj; subst hj; exact hx hjx
  have hT : isTransfer (pairParcel p.cond sa sb) = false := by
    simp [isTransfer, isPair_pair _ _ _ h1, saOf_pair _ _ _ h1, sbOf_pair _ _ _ h1]; omega
  have hS : hasSolo (pairParcel p.cond sa sb) = false := by
    simp [hasSolo, isPair_pair _ _ _ h1, saOf_pair _ _ _ h1, sbOf_pair _ _ _ h1]; omega
  have hill : parcelIllegal (pairParcel p.cond sa sb) nxt = false := by
    simp [parcelIllegal, hl, isPair_pair _ _ _ h1, nextIllegal, hasDelay, isRep, hT]
  unfold pairCmd
  rw [parcelCmd_ready hr, if_neg (by rw [hill]; decide)]
  unfold runCond
  rw [condOf_pair _ _ _ h1, if_pos (show condHolds p.cond (s1.core p.core).run.flags = true from hc), isEret_pair h1, if_neg (by simp)]
  unfold runHolds
  rw [if_pos (isPair_pair _ _ _ h1), if_neg (by rw [hS]; decide), saOf_pair _ _ _ h1, sbOf_pair _ _ _ h1]
  rfl

theorem half_nop (c : CoreId) (fr : Fr) (s : State) : shortHalf c 0 fr s = .ok fr s := by
  unfold shortHalf
  rw [show shortInfo 0 = some ⟨.n, 0, 0, 0, 0, 0, 0⟩ from rfl]
  dsimp only
  rw [needCells_ok (by omega) (by omega) (takesPending_zero _ _)]
  simp only [Out.next_ok]
  have ht : awaitDivide c 0 fr s = .ok fr s := by unfold awaitDivide; split <;> simp
  rw [ht]
  simp only [Out.next_ok]
  show Out.next (needRoom c fr.b fr.b s) _ = _
  rw [needRoom_ok (by simp [hasRoom])]
  rfl

theorem countPair_nop (c : CoreId) (sa : Nat) (s : State) : countPair c sa 0 s = s := by
  unfold countPair
  rw [show shortInfo 0 = some ⟨.n, 0, 0, 0, 0, 0, 0⟩ from rfl]
  cases shortInfo sa <;> simp [pairDepends]

theorem nop_legal {sa : Nat} {cond} (h : sa < 256) (h3 : ∃ i, shortInfo sa = some i ∧ i.cls ≠ .x ∧ i.cls ≠ .n) : codeIllegal (pairParcel cond sa 0) = false := by
  obtain ⟨i, hi, hx, hn⟩ := h3
  unfold codeIllegal
  rw [if_pos (isPair_pair _ _ _ h), saOf_pair _ _ _ h, sbOf_pair _ _ _ h, hi]
  rw [show shortInfo (0 : BitVec 8).toNat = some ⟨.n, 0, 0, 0, 0, 0, 0⟩ from rfl]
  simp [pairLegal, hx]

theorem pairBank_same (b0 b : Bank) : pairBank b0 b b = marked b0 b := by
  simp [pairBank, marked, changedGroups, b2n]

/-- A half alone, with NOP beside it. -/
theorem pair_alone {row} (hrow : row ∈ halfRows) {p : PCtx} {s s1 s2 : State} {b : Bank} {sts acc} (hr : Ready p (pairParcel p.cond row.2 0) nopParcel s s1)
    (hc : condHolds p.cond (bank p.core s1).flags = true)
    (hh : shortHalf p.core row.2 ⟨bank p.core s1, [], [], none⟩ s1 = .ok ⟨b, sts, acc, none⟩ s2) (hsb : (sbAdd (s2.core p.core).sb sts).length ≤ 16) :
    exec (row.1 p 0) s = .next (ends p.core (committed p.core (marked (bank p.core s1) b) sts acc s2)) := by
  obtain ⟨⟨h1, h2, h3⟩, hx⟩ := half_code hrow
  rw [hx, pairCmd_halves h1 h2 h3 hr (nop_legal h1 h3) hc]
  unfold runPair
  rw [show (s1.core p.core).frame = ⟨bank p.core s1, [], [], none⟩ from rfl, hh]
  simp only [Out.next_ok]
  rw [show (0 : BitVec 8).toNat = 0 from rfl, half_nop]
  simp only [Out.next_ok]
  rw [show Fr.soiled ⟨b, sts, acc, none⟩ (s1.core p.core).run b = ⟨pairBank (bank p.core s1) b b, sts, acc, none⟩ from rfl, pairBank_same, commit_ok hsb]
  show Host.Outcome.next (ends p.core (countPair p.core row.2 0 _)) = _
  rw [countPair_nop]

theorem half_load {c : CoreId} {code n : Nat} {sg post : Bool} {fr : Fr} {s s2 : State} {addr v : W64} {t acc}
    (hi : shortInfo code = some ⟨.m, 1, if post then 2 else 1, 0, 0, 0, 0⟩) (hb : ∀ fr s, shortBody c code fr s = loadOp c 1 n sg post fr s)
    (ho : fr.b.oc = addr :: t) (hd : fr.div = none) (hp : takesPending (s.core c).pendingCell 1 fr.b = false) (hroom : post = true → t.length ≤ 30)
    (hl : loadBytes c 1 addr n needRead false s = .ok (v, acc) s2) :
    shortHalf c code fr s = .ok { fr with b := { fr.b with oc := extend n sg v :: (if post then (addr + 8) :: t else t) }, acc := fr.acc ++ acc } s2 := by
  unfold shortHalf
  rw [hi]
  dsimp only
  rw [needCells_ok (by rw [ho]; simp) (by omega) hp]
  simp only [Out.next_ok]
  rw [awaitDivide_none hd]
  simp only [Out.next_ok]
  rw [hb]
  unfold loadOp
  rw [ho]
  dsimp only
  rw [hl]
  simp only [Out.next_ok]
  rw [needRoom_ok]
  · rfl
  · cases post
    · simp [hasRoom, Fr.setO, ho]
    · have := hroom rfl; simp [hasRoom, Fr.setO, ho]; omega

theorem load_code {row} (h : row ∈ loadRows) : shortInfo row.2.1 = some ⟨.m, 1, if row.2.2.2.2 then 2 else 1, 0, 0, 0, 0⟩ ∧
    ∀ c fr s, shortBody c row.2.1 fr s = loadOp c 1 row.2.2.1 row.2.2.2.1 row.2.2.2.2 fr s := by
  unfold loadRows at h
  simp only [List.mem_cons, List.not_mem_nil, or_false] at h
  rcases h with h|h|h|h|h|h|h|h <;> subst h <;> exact ⟨rfl, fun _ _ _ => rfl⟩

theorem store_code {row} (h : row ∈ storeRows) : shortInfo row.2.1 = some ⟨.m, 2, if row.2.2.2 then 1 else 0, 0, 0, 0, 0⟩ ∧
    ∀ c fr s, shortBody c row.2.1 fr s = storeOp c 1 row.2.2.1 row.2.2.2 fr s := by
  unfold storeRows at h
  simp only [List.mem_cons, List.not_mem_nil, or_false] at h
  rcases h with h|h|h|h|h <;> subst h <;> exact ⟨rfl, fun _ _ _ => rfl⟩

theorem half_store {c : CoreId} {code n : Nat} {post : Bool} {fr : Fr} {s s2 : State} {addr v : W64} {t es acc}
    (hi : shortInfo code = some ⟨.m, 2, if post then 1 else 0, 0, 0, 0, 0⟩) (hb : ∀ fr s, shortBody c code fr s = storeOp c 1 n post fr s)
    (ho : fr.b.oc = addr :: v :: t) (hd : fr.div = none) (hp : takesPending (s.core c).pendingCell 2 fr.b = false)
    (hl : storeBytes c 1 addr n v s = .ok (es, acc) s2) :
    shortHalf c code fr s = .ok { fr with b := { fr.b with oc := if post then (addr + 8) :: t else t }, sts := fr.sts ++ es, acc := fr.acc ++ acc } s2 := by
  unfold shortHalf
  rw [hi]
  dsimp only
  rw [needCells_ok (by rw [ho]; simp) (by omega) hp]
  simp only [Out.next_ok]
  rw [awaitDivide_none hd]
  simp only [Out.next_ok]
  rw [hb]
  unfold storeOp
  rw [ho]
  dsimp only
  rw [hl]
  simp only [Out.next_ok]
  rw [needRoom_ok]
  · rfl
  · cases post
    · simp [hasRoom, Fr.setO, ho]; omega
    · simp [hasRoom, Fr.setO, ho]

theorem long_store {p : PCtx} {s1 s2 : State} {sel n : Nat} {addr v a0 : W64} {t es acc} (g : Fr → Fr)
   (ho : (bank p.core s1).oc = a0 :: v :: t) (hg : g ⟨bank p.core s1, [], [], none⟩ = ⟨{ bank p.core s1 with oc := addr :: v :: t }, [], [], none⟩)
   (hp : takesPending (s1.core p.core).pendingCell 2 (bank p.core s1) = false)
   (hl : storeBytes p.core sel addr n v s1 = .ok (es, acc) s2) (hsb : (sbAdd (s2.core p.core).sb es).length ≤ 16) :
   onFrame p.core 2 0 (fun fr s => storeOp p.core sel n false (g fr) s) s1 = .ok .done (committed p.core { bank p.core s1 with oc := t } es acc s2) := by
    unfold onFrame
    dsimp only
    rw [frame_eq, needCells_ok (fr := ⟨(s1.core p.core).run, [], [], none⟩) (by rw [show (s1.core p.core).run.oc = a0 :: v :: t from ho]; simp) (by omega) hp]
    simp only [Out.next_ok]
    rw [show (⟨(s1.core p.core).run, [], [], none⟩ : Fr) = ⟨bank p.core s1, [], [], none⟩ from rfl, hg]
    unfold storeOp
    dsimp only
    rw [hl]
    simp only [Out.next_ok]
    rw [needRoom_ok (room_of_le (by simp [Fr.setO, show (s1.core p.core).run.oc = a0 :: v :: t from ho]; omega) (by simp [Fr.setO]; exact Nat.le_refl _))]
    simp only [Out.next_ok]
    show ((commit p.core ⟨{bank p.core s1 with oc := t}, es, acc, none⟩ s2).next _) = _
    rw [commit_ok hsb]
    rfl

theorem next_ok_inv {α β : Type} {o : Out α} {f : α → State → Out β} {b s'} (h : o.next f = .ok b s') : ∃ a s1, o = .ok a s1 ∧ f a s1 = .ok b s' := by
  cases o with
  | ok a s1 => exact ⟨a, s1, rfl, h⟩
  | exc e s => cases h
  | hold w s => cases h

theorem leBytes_lt (bs : List Byte) : leBytes bs < 2 ^ (8 * bs.length) := by
  induction bs with
  | nil => simp [leBytes]
  | cons b t ih =>
    have hb := b.isLt
    unfold leBytes at *
    simp only [List.foldr_cons, List.length_cons]
    have : 2 ^ (8 * (t.length + 1)) = 256 * 2 ^ (8 * t.length) := by rw [show 8 * (t.length + 1) = 8 + 8 * t.length by ring, Nat.pow_add]
    rw [this]
    omega

theorem readBytes_lt {c pl pa n full split lock s v s'} (hn : n ≤ 8) (h : readBytes c pl pa n full split lock s = .ok v s') : v.toNat < 2 ^ (8 * n) := by
  unfold readBytes at h
  dsimp only at h
  split at h
  · injection h with h1 h2; subst h1
    rw [BitVec.toNat_ofNat]
    refine lt_of_le_of_lt (Nat.mod_le _ _) (lt_of_lt_of_le (leBytes_lt _) (Nat.pow_le_pow_right (by omega) ?_))
    refine Nat.mul_le_mul_left 8 (le_trans (List.length_filterMap_le _ _) (by simp))
  · split at h
    · cases h
    · obtain ⟨a, s1, h1, h2⟩ := next_ok_inv h
      injection h2 with h2 h3; subst h2
      rw [BitVec.toNat_ofNat]
      refine lt_of_le_of_lt (Nat.mod_le _ _) (Nat.mod_lt _ (by positivity))

theorem pieces_len {c sel addr n need locked s ps s1} (h : loadPieces c sel addr n need locked s = .ok ps s1) :
   (∃ pa, ps = [(pa, n)]) ∨ ∃ pa0 n0 pa1, ps = [(pa0, n0), (pa1, n - n0)] ∧ n0 < n := by
  unfold loadPieces at h
  dsimp only at h
  split at h
  · cases h
  · split at h
    · obtain ⟨a, s1, h1, h2⟩ := next_ok_inv h
      injection h2 with h2 h3; left; exact ⟨_, h2.symm⟩
    · rename_i hlt
      obtain ⟨a, s1, h1, h2⟩ := next_ok_inv h
      obtain ⟨a2, s2, h3, h4⟩ := next_ok_inv h2
      injection h4 with h4 h5; right; exact ⟨_, _, _, h4.symm, by omega⟩

theorem load_lt {c sel addr n need locked s v acc s'} (hn : n ≤ 8) (h : loadBytes c sel addr n need locked s = .ok (v, acc) s') : v.toNat < 2 ^ (8 * n) := by
  unfold loadBytes at h
  obtain ⟨ps, s1, h1, h2⟩ := next_ok_inv h
  unfold readPieces at h2
  dsimp only at h2
  split at h2
  · cases h2
  rcases pieces_len h1 with ⟨pa, rfl⟩ | ⟨pa0, n0, pa1, rfl, hlt⟩
  · obtain ⟨a, s2, h3, h4⟩ := next_ok_inv h2
    injection h4 with h4 h5; injection h4 with h4 h6; subst h4
    exact readBytes_lt hn h3
  · obtain ⟨a, s2, h3, h4⟩ := next_ok_inv h2
    obtain ⟨a2, s3, h5, h6⟩ := next_ok_inv h4
    injection h6 with h6 h7; injection h6 with h6 h8; subst h6
    have b1 := readBytes_lt (by omega) h3
    have b2 := readBytes_lt (by omega) h5
    rw [BitVec.toNat_ofNat]
    refine lt_of_le_of_lt (Nat.mod_le _ _) ?_
    have : 2 ^ (8 * n) = 2 ^ (8 * (n - n0)) * 2 ^ (8 * n0) := by rw [← Nat.pow_add]; congr 1; omega
    rw [this]
    nlinarith [Nat.one_le_two_pow (n := 8 * n0)]

theorem testBit_ones (n k i : Nat) : ((2 ^ n - 1) * 2 ^ k).testBit i = (decide (k ≤ i) && decide (i < n + k)) := by
  rw [← Nat.shiftLeft_eq, Nat.testBit_shiftLeft, Nat.testBit_two_pow_sub_one]
  by_cases h : k ≤ i
  · simp [h]; omega
  · simp [h]

theorem needCells_div {c : CoreId} {n r : Nat} {b : Bank} {s : State} (hd : (s.core c).divide = none) (hn : n ≤ b.oc.length) (hr : r ≤ b.rc.length) :
    needCells c n r ⟨b, [], [], none⟩ s = .ok () s :=
  needCells_ok hn hr (by simp [Core.pendingCell, hd, takesPending])

theorem zero_and {f : BitVec 10} {k m : Nat} (hm : m = 2 ^ k - 1) (h : f.toNat % 2 ^ k = 0) : (f.toNat &&& m == 0) = true := by
  rw [hm, Nat.and_two_pow_sub_one_eq_mod, h]; rfl

theorem beforeDelay_eq (c : CoreId) (tk : Bool) (t : BitVec 48) (ck : Bool) (s : State) :
   stepEnd c (doFlow c (.transfer tk t ck) (dropHeld c s)) = beforeDelay c tk t ck s := by
  unfold doFlow dropHeld beforeDelay withCore
  dsimp only
  rw [core_setCore, setCore_setCore]

theorem tr_legal {p : PCtx} {m : Nat} {f : BitVec 10} {nxt : BitVec 20} (hm : m < 64) (h1 : majorListed m = true)
    (h2 : fieldLegal m f = true) (h3 : m ≠ 0x30 ∧ m ≠ 0x3C) (hn : isTransfer nxt = false) (hn2 : isRep nxt = false) : parcelIllegal (longParcel p.cond m f) nxt = false := by
  unfold parcelIllegal codeIllegal nextIllegal isRep
  rw [isPair_long _ _ _ hm, majorOf_long _ _ _ hm, fieldOf_long _ _ _ hm, h1, h2]
  simp only [Bool.false_eq_true, if_false, Bool.not_true, Bool.not_false, Bool.true_and, Bool.and_true, Bool.false_or, Bool.or_false]
  simp only [hn]
  have : isRep nxt = false := hn2
  unfold isRep at this
  rw [this]
  simp [h3.2, show isRep nxt = false from hn2]

theorem solo_legal {p : PCtx} {sa : Nat} {nxt : BitVec 20} (h : 0x80 ≤ sa ∧ sa ≤ 0x85) (hn : isTransfer nxt = false) (hn2 : isRep nxt = false) : parcelIllegal (pairParcel p.cond sa 0) nxt = false := by
  have h1 : sa < 256 := by omega
  obtain ⟨i, hi, hx⟩ := solo_sb h
  unfold parcelIllegal codeIllegal nextIllegal
  rw [isPair_pair _ _ _ h1, saOf_pair _ _ _ h1, sbOf_pair _ _ _ h1, hi]
  rw [show shortInfo (0 : BitVec 8).toNat = some ⟨.n, 0, 0, 0, 0, 0, 0⟩ from rfl]
  have hr : isRep (pairParcel p.cond sa 0) = false := by unfold isRep; rw [isPair_pair _ _ _ h1]; rfl
  simp [pairLegal, hn, hn2]
  intro _ hh; rw [show isRep (pairParcel p.cond sa 0#8) = false from hr] at hh; cases hh

theorem trace_cores (k src : Nat) (pl : List Byte) (s : State) : ∃ w, tracePacket k src pl s = { s with weado := w } := by
  unfold tracePacket
  dsimp only
  split
  · unfold traceEnter setWeado
    dsimp only
    split <;> exact ⟨_, rfl⟩
  · exact ⟨s.weado, rfl⟩

theorem core_trace (k src : Nat) (pl : List Byte) (s : State) (c : CoreId) : (tracePacket k src pl s).core c = s.core c := by
  obtain ⟨w, hw⟩ := trace_cores k src pl s; rw [hw]; rfl

theorem evc_trace (k src : Nat) (pl : List Byte) (s : State) : (tracePacket k src pl s).evc = s.evc := by
  obtain ⟨w, hw⟩ := trace_cores k src pl s; rw [hw]

theorem bank_putBank (k : Core) (l : BitVec 3) (b : Bank) : (k.putBank l b).bank l = { b with dirty := b.dirty ||| changedGroups (k.bank l) b } := by
  unfold Core.putBank; dsimp only; rw [bank_rawBank]

theorem bank_putBank_other (k : Core) (l m : BitVec 3) (b : Bank) (h : m ≠ l) : (k.putBank l b).bank m = k.bank m := by
  unfold Core.putBank; dsimp only; rw [bank_rawBank_other _ _ _ _ h]

def eretCore (k0 : Core) (lk : BitVec 3) (pl : Nat) (hold : Bool) : Core :=
  let bc := k0.bank k0.level
  let e := bc.estat
  let k1 := (k0.sync).leaveLoop
  let k2 := k1.putBank k0.level { bc with estat := e &&& ~~~ (0x4000 : W64) }
  let bk := k2.bank lk
  let k3 := k2.putBank lk { bk with status := mkStatusWord pl hold lk.toNat }
  let k4 := { k3.goTo bc.epc with level := lk, lockRes := none }
  if bitAt 10 e then { k4 with repResume := true, repHold := true }
    else if bitAt 9 e then { k4 with delay := some ⟨bc.epc, true, bc.etarget, false, false⟩ }
    else k4

theorem eretCore_facts (k0 : Core) (lk : BitVec 3) (pl : Nat) (hold : Bool) :
    let k := eretCore k0 lk pl hold
    let b := k0.bank k0.level
    k.level = lk ∧ (k.bank lk).status = mkStatusWord pl hold lk.toNat ∧ (k.bank k0.level).estat = b.estat &&& ~~~ (0x4000 : W64) ∧
    k.latent = [] ∧ k.lockRes = none ∧ k.pc = b.epc ∧ k.st = .running ∧
    k.repResume = bitAt 10 b.estat ∧ k.delay = (if bitAt 9 b.estat && !bitAt 10 b.estat then some ⟨b.epc, true, b.etarget, false, false⟩ else none) ∧
    k.chk = none := by
  dsimp only
  unfold eretCore
  dsimp only
  by_cases h10 : bitAt 10 (k0.bank k0.level).estat <;> by_cases h9 : bitAt 9 (k0.bank k0.level).estat
  all_goals
    simp only [h10, h9, if_true, Bool.false_eq_true, if_false, Bool.and_true, Bool.true_and, Bool.and_false, Bool.false_and, Bool.not_true, Bool.not_false, Bool.true_eq_false]
    refine ⟨by first | rfl | trivial, ?_, ?_, by first | rfl | trivial, by first | rfl | trivial, by first | rfl | trivial, by first | rfl | trivial, by first | rfl | trivial, by first | rfl | trivial, by first | rfl | trivial⟩
    · show (Core.bank (Core.putBank _ lk _) lk).status = _
      rw [bank_putBank]
    · show (Core.bank (Core.putBank _ lk _) k0.level).estat = _
      by_cases hl : k0.level = lk
      · rw [← hl, bank_putBank]
        show (Core.bank (Core.putBank _ k0.level _) k0.level).estat = _
        rw [bank_putBank]
      · rw [bank_putBank_other _ _ _ _ hl, bank_putBank]

theorem doEret_eq (c : CoreId) (s : State) : doEret c s =
   let k0 := s.core c
   let e := (k0.bank k0.level).estat
   traceBranch c (k0.bank k0.level).epc (setCore c (eretCore k0 (if fieldAt 36 3 e ≤ k0.level.toNat then BitVec.ofNat 3 (fieldAt 36 3 e) else k0.level)
     (restorePl k0.pl (fieldAt 32 2 e)) (restoreHold k0.pl k0.hold (bitAt 34 e))) s) := rfl

theorem and_zero16 (f : BitVec 10) (h : f.toNat / 16 % 16 = 0) : (f.toNat &&& 0xF0 == 0) = true := by
  have : ∀ f : BitVec 10, f.toNat / 16 % 16 = 0 → (f.toNat &&& 0xF0 == 0) = true := by decide +kernel
  exact this f h

theorem find8 {P : Fin 8 → Bool} {e : Fin 8} (h1 : P e = true) (h2 : ∀ d, d < e → P d = false) :
    ([0, 1, 2, 3, 4, 5, 6, 7] : List (Fin 8)).find? P = some e := by
  have a : ∀ d : Fin 8, d < e → P d = false := h2
  fin_cases e <;> simp only [List.find?_cons] <;> (try rw [a 0 (by decide)]) <;> (try rw [a 1 (by decide)]) <;> (try rw [a 2 (by decide)]) <;>
    (try rw [a 3 (by decide)]) <;> (try rw [a 4 (by decide)]) <;> (try rw [a 5 (by decide)]) <;> (try rw [a 6 (by decide)]) <;> simp_all

theorem vwait_push {c : CoreId} {s1 : State} {x : W64} {t : List W64} (ws : List W64) (tt : Bool) (e : Option (Fin 8)) (hw : ws.length = 4)
    (ho : (bank c s1).oc = x :: t) (ht : t.length ≤ 28) (hpd : takesPending (s1.core c).pendingCell 1 (bank c s1) = false) (hsb : (s1.core c).sb.length ≤ 16) :
    vwaitPush c ws tt e s1 = .ok .done (putBank c { bank c s1 with oc := ws ++ t, flags := withT (bank c s1).flags tt, cstage := match e with
      | some i => (bank c s1).cstage &&& ~~~ BitVec.ofNat 8 (2 ^ i.val)
      | none => (bank c s1).cstage } s1) := by
  unfold vwaitPush
  rw [onFrame_pure (b := { bank c s1 with oc := ws ++ t, flags := withT (bank c s1).flags tt, cstage := match e with
      | some i => (bank c s1).cstage &&& ~~~ BitVec.ofNat 8 (2 ^ i.val)
      | none => (bank c s1).cstage }) (acc := [])
        (by rw [ho]; simp) (by omega) hpd (by cases e <;> simp [Fr.setOF, ho]) (by simp [hasRoom, hw]; left; omega) hsb]
  rfl

theorem runCond_fails {p nxt : BitVec 20} {cx : Cx} {s : State} (hc : condHolds (condOf p) (bank cx.c s).flags = false) : runCond cx p nxt s = runFails cx p s := by
  unfold runCond
  rw [if_neg (by rw [show (s.core cx.c).run.flags = (bank cx.c s).flags from rfl, hc]; decide)]

theorem fails_plain {p : PCtx} {w nxt : BitVec 20} {s s1 : State} (hr : Ready p w nxt s s1) (hl : parcelIllegal w nxt = false)
    (hc : condHolds (condOf w) (bank p.core s1).flags = false) (hd : hasDelay w = false) : parcelCmd p w nxt s = .next (ends p.core s1) := by
  rw [parcelCmd_ready hr, if_neg (by rw [hl]; decide), runCond_fails (cx := ⟨p.core, (s.core p.core).pc, false⟩) hc]
  unfold runFails
  rw [if_neg (by rw [hd]; decide)]
  rfl

theorem fails_delay {p : PCtx} {w nxt : BitVec 20} {s s1 : State} (hr : Ready p w nxt s s1) (hl : parcelIllegal w nxt = false)
    (hc : condHolds (condOf w) (bank p.core s1).flags = false) (hd : hasDelay w = true) : parcelCmd p w nxt s = .next (beforeDelay p.core false 0 false
      (if !isPair w && majorOf w == 0x08 then loopBr p.core (s.core p.core).pc (dispTarget (s.core p.core).pc (fieldOf w)) false s1 else s1)) := by
  rw [parcelCmd_ready hr, if_neg (by rw [hl]; decide), runCond_fails (cx := ⟨p.core, (s.core p.core).pc, false⟩) hc]
  unfold runFails
  rw [if_pos (by rw [hd])]
  dsimp only
  rw [beforeDelay_eq]

theorem hasDelay_long {cond m f} (hm : m < 64) : hasDelay (longParcel cond m f) = (m == 8 || m == 9 || m == 0x30) := by
  have hx : (m == 8 || m == 9 || m == 0x30) = decide (m = 8 ∨ m = 9 ∨ m = 0x30) := by
    by_cases h1 : m = 8 <;> by_cases h2 : m = 9 <;> by_cases h3 : m = 0x30 <;> simp_all
  rw [hx]
  simp [hasDelay, isTransfer, isPair_long _ _ _ hm, majorOf_long _ _ _ hm]
  by_cases h1 : m = 8 <;> by_cases h2 : m = 9 <;> by_cases h3 : m = 0x30 <;> by_cases h4 : m = 12 <;> by_cases h5 : m = 49 <;> simp_all

theorem hasDelay_pair {cond sa} {sb : BitVec 8} (h : sa < 256) : hasDelay (pairParcel cond sa sb) =
   ((decide (0x80 ≤ sa) && decide (sa ≤ 0x82)) || (decide (0x80 ≤ sb.toNat) && decide (sb.toNat ≤ 0x82))) := by
  simp [hasDelay, isTransfer, isPair_pair _ _ _ h, saOf_pair _ _ _ h, sbOf_pair _ _ _ h]

theorem long_row {row : (PCtx → BitVec 10 → Instr) × Nat} (h : row ∈ longRows) : (row.2 < 64 ∧ majorListed row.2 = true ∧ ([0x08, 0x09, 0x30, 0x3C].contains row.2) = false) ∧
   ∀ p f s, exec (row.1 p f) s = longCmd p row.2 f nopParcel s := by
  simp only [longRows, List.mem_cons, List.not_mem_nil, or_false] at h
  rcases h with rfl | rfl | rfl | rfl | rfl | rfl | rfl | rfl | rfl | rfl | rfl | rfl | rfl | rfl | rfl | rfl | rfl | rfl | rfl | rfl | rfl | rfl | rfl | rfl | rfl | rfl | rfl | rfl <;>
   exact ⟨⟨by decide, by decide, by decide⟩, fun _ _ _ => rfl⟩

theorem needPriv_exc {c : CoreId} {n : Nat} {s : State} (h : (s.core c).pl < n) : needPriv c n s = .exc excPriv s := by
  unfold needPriv; rw [if_neg (Nat.not_le.mpr h)]

theorem needPriv_ok {c : CoreId} {n : Nat} {s : State} (h : n ≤ (s.core c).pl) : needPriv c n s = .ok () s := by
  unfold needPriv; rw [if_pos h]

theorem needDivide_ok {c : CoreId} {f : Nat → Bool} {s : State} (h : (s.core c).divide = none) : needDivide c f s = .ok () s := by
  unfold needDivide Core.pendingCell; rw [h]; rfl

theorem needAlign_ok {sel m : Nat} {a : W64} {s : State} (h : a.toNat % m = 0) : needAlign sel m a s = .ok () s := by
  unfold needAlign; rw [if_pos h]

theorem needAlign_exc {sel m : Nat} {a : W64} {s : State} (h : a.toNat % m ≠ 0) : needAlign sel m a s = .exc (excAlign sel (a.toNat % 2 ^ 48)) s := by
  unfold needAlign; rw [if_neg h]; simp [fieldAt]

theorem zero64 {f : BitVec 10} (h : f.toNat % 64 = 0) : (f.toNat &&& 63 == 0) = true := zero_and (k := 6) rfl h

def enterCore (k0 : Core) (t : Nat) (sv : Saved) (eaddr : Option W64) (estat : BitVec 7 → W64) (vector : Nat) : Core :=
  let l := k0.level
  let k := (k0.sync).leaveLoop
  let st := (k.bank l).status
  let t3 := BitVec.ofNat 3 t
  let b := k.bank t3
  let pl := if t = 7 then 2 else Nat.max (st.toNat % 4) 1
  let b1 := { b with
    epc := sv.epc
    etarget := sv.etarget.getD b.etarget
    eaddr := eaddr.getD b.eaddr
    estat := estat st
    status := mkStatusWord pl (st.getLsbD 2) t }
  let k1 := (k.putBank t3 b1).goTo (BitVec.ofNat 48 vector)
  { k1 with level := t3, lockRes := none }

theorem enterAt_eq (c : CoreId) (t : Nat) (sv : Saved) (eaddr : Option W64) (estat : BitVec 7 → W64) (vector : Nat) (code src : Nat) (s : State) :
   enterAt c t sv eaddr estat vector code src s = traceEntry c code t src sv.epc
     (if t > (s.core c).level.toNat then pushLevel c t (setCore c (enterCore (s.core c) t sv eaddr estat vector) s)
      else setCore c (enterCore (s.core c) t sv eaddr estat vector) s) := rfl

theorem enterCore_facts (k0 : Core) (t : Nat) (sv : Saved) (eaddr : Option W64) (estat : BitVec 7 → W64) (vector : Nat) :
    let k := enterCore k0 t sv eaddr estat vector
    let t3 := BitVec.ofNat 3 t
    let b := k0.bank t3
    let st := (k0.bank k0.level).status
    let b1 := { b with
      epc := sv.epc
      etarget := sv.etarget.getD b.etarget
      eaddr := eaddr.getD b.eaddr
      estat := estat st
      status := mkStatusWord (if t = 7 then 2 else Nat.max (st.toNat % 4) 1) (st.getLsbD 2) t }
    k.level = t3 ∧ k.st = .running ∧ k.pc = BitVec.ofNat 48 vector ∧ k.latent = [] ∧ k.lockRes = none ∧ k.chk = none ∧ k.delay = none ∧ k.rep = none ∧
    k.bank t3 = { b1 with dirty := b1.dirty ||| changedGroups b b1 } ∧ (∀ m, m ≠ t3 → k.bank m = k0.bank m) ∧ k.held = none := by
  dsimp only
  refine ⟨rfl, rfl, rfl, rfl, rfl, rfl, rfl, rfl, ?_, ?_, rfl⟩
  · show Core.bank (Core.putBank _ (BitVec.ofNat 3 t) _) (BitVec.ofNat 3 t) = _
    rw [bank_putBank]
    rfl
  · intro m hm
    show Core.bank (Core.putBank _ (BitVec.ofNat 3 t) _) m = _
    rw [bank_putBank_other _ _ _ _ hm]
    rfl

theorem run_frame (c : CoreId) (s : State) : (s.core c).frame = ⟨bank c s, [], [], none⟩ := rfl

theorem movb_legal {f : BitVec 10} (h : f.toNat % 4 = 0) : fieldLegal 0x1C f = true := zero_and (k := 2) rfl h

theorem find_range_some {P : Nat → Bool} {n i : Nat} (h1 : i < n) (h2 : P i = true) (h3 : ∀ j, j < i → P j = false) : (List.range n).find? P = some i := by
  rw [List.find?_eq_some_iff_getElem]
  refine ⟨h2, i, by simpa using h1, by simp, ?_⟩
  intro j hj
  simp [h3 j hj]

theorem find_rev_some {P : Nat → Bool} {n i : Nat} (h1 : i < n) (h2 : P i = true) (h3 : ∀ j, i < j → j < n → P j = false) : ((List.range n).reverse).find? P = some i := by
  rw [List.find?_eq_some_iff_getElem]
  refine ⟨h2, n - 1 - i, by simp; omega, by simp; omega, ?_⟩
  intro j hj
  simp
  rw [h3 _ (by omega) (by omega)]

theorem find_range_no {P : Nat → Bool} {n : Nat} (h : ∀ j, j < n → P j = false) : (List.range n).find? P = none := by
  rw [List.find?_eq_none]; intro x hx; simp at hx; rw [h x hx]; decide

theorem setCell_set {t : List W64} {i : Nat} {v : W64} (h : i < t.length) : setCell t i v = t.set i v := by
  unfold setCell; rw [List.set_eq_take_append_cons_drop, if_pos h]

theorem maskbit (m : W64) (i j : Nat) (hi : i < 32) : (m &&& ~~~ BitVec.ofNat 64 (2 ^ i)).getLsbD j = (m.getLsbD j && decide (j ≠ i)) := by
  by_cases hj : j < 64
  · rw [BitVec.getLsbD_and, BitVec.getLsbD_not, BitVec.getLsbD_ofNat, Nat.testBit_two_pow]
    by_cases h : i = j
    · simp [h, hj]
    · have : ¬ j = i := fun hh => h hh.symm
      simp [h, this, hj]
  · have : m.getLsbD j = false := BitVec.getLsbD_of_ge _ _ (by omega)
    simp [this]

theorem left_iff {m : W64} {i j : Nat} (hi : i < 32 ∧ m.getLsbD i = true ∧ ∀ j, j < i → m.getLsbD j = false)
   (hj : j < 32 ∧ m.getLsbD j = true ∧ ∀ i, j < i → i < 32 → m.getLsbD i = false) : (lowestSet (m &&& ~~~ BitVec.ofNat 64 (2 ^ i))).isSome = decide (i ≠ j) := by
  by_cases h : i = j
  · subst h
    unfold lowestSet
    rw [find_range_no]
    · simp
    · intro k hk
      rw [maskbit _ _ _ hi.1]
      by_cases hki : k = i
      · simp [hki]
      · rcases Nat.lt_or_gt_of_ne hki with h | h
        · rw [hi.2.2 k h]; rfl
        · rw [hj.2.2 k h hk]; rfl
  · have hij : i < j := by
      rcases Nat.lt_or_gt_of_ne h with h | h
      · exact h
      · have := hi.2.2 j h; rw [hj.2.1] at this; cases this
    simp only [ne_eq, h, not_false_eq_true, decide_true]
    unfold lowestSet
    rw [Option.isSome_iff_ne_none]
    intro hh
    rw [List.find?_eq_none] at hh
    have := hh j (by simp; exact hj.1)
    rw [maskbit _ _ _ hi.1, hj.2.1] at this
    simp at this; exact h this.symm

theorem top_area {c : CoreId} {s : State} {area : W64} {t : List W64} (ho : (bank c s).oc = area :: t) : topCell (s.core c) = area := by
  show ((bank c s).oc.head?).getD 0 = area
  rw [ho]; rfl

end Sys2Proof.Laws
end

