-- ==== Sys2Proof/Laws/Memory.lean ====
section
/-! SUPPORT. The Vector Store arrays: what a byte reads as after a write, and that every operation keeps the canonical form (R27, R54, R63). -/

namespace Sys2Proof.Laws

open Sys2Proof.Machine

/-! ## Tables -/

theorem Tab.mem_insert {α : Type} {t : Tab α} {k : Nat} {v : α} {e : Nat × α} (h : e ∈ Tab.insert t k v) : e = (k, v) ∨ e ∈ t := by
  induction t with
  | nil => left; simpa [Tab.insert] using h
  | cons x t ih =>
    obtain ⟨k', v'⟩ := x
    unfold Tab.insert at h
    split at h
    · rcases List.mem_cons.1 h with h | h
      · exact .inl h
      · exact .inr h
    · split at h
      · rcases List.mem_cons.1 h with h | h
        · exact .inl h
        · exact .inr (List.mem_cons_of_mem _ h)
      · rcases List.mem_cons.1 h with h | h
        · subst h; exact .inr (List.mem_cons_self ..)
        · rcases ih h with h | h
          · exact .inl h
          · exact .inr (List.mem_cons_of_mem _ h)

theorem Tab.sorted_cons {α : Type} {k : Nat} {v : α} {t : Tab α} :
    Tab.sorted ((k, v) :: t) = true ↔ (∀ e ∈ t, k < e.1) ∧ Tab.sorted t = true := by
  simp [Tab.sorted, List.all_eq_true]

/-- An insertion keeps the keys strictly rising. -/
theorem Tab.sorted_insert {α : Type} {t : Tab α} (k : Nat) (v : α) (h : Tab.sorted t = true) : Tab.sorted (Tab.insert t k v) = true := by
  induction t with
  | nil => simp [Tab.insert, Tab.sorted]
  | cons x t ih =>
    obtain ⟨k', v'⟩ := x
    have ⟨h1, h2⟩ := Tab.sorted_cons.1 h
    unfold Tab.insert
    split
    · rename_i hk
      refine Tab.sorted_cons.2 ⟨?_, h⟩
      intro e he
      rcases List.mem_cons.1 he with rfl | he
      · exact hk
      · exact Nat.lt_trans hk (h1 e he)
    · split
      · rename_i hk; subst hk; exact Tab.sorted_cons.2 ⟨h1, h2⟩
      · refine Tab.sorted_cons.2 ⟨?_, ih h2⟩
        intro e he
        rcases Tab.mem_insert he with rfl | he
        · simp only; omega
        · exact h1 e he

/-- A part of a table keeps the keys strictly rising. -/
theorem Tab.sorted_filter {α : Type} {t : Tab α} (p : Nat × α → Bool) (h : Tab.sorted t = true) : Tab.sorted (t.filter p) = true := by
  induction t with
  | nil => exact h
  | cons x t ih =>
    obtain ⟨k', v'⟩ := x
    have ⟨h1, h2⟩ := Tab.sorted_cons.1 h
    rw [List.filter_cons]
    split
    · exact Tab.sorted_cons.2 ⟨fun e he => h1 e (List.mem_filter.1 he).1, ih h2⟩
    · exact ih h2

theorem Tab.wf_iff {α : Type} [DecidableEq α] {d : Nat → α} {t : Tab α} :
    Tab.wf d t = true ↔ Tab.sorted t = true ∧ ∀ e ∈ t, e.2 ≠ d e.1 := by
  simp [Tab.wf, List.all_eq_true]

theorem Tab.wf_filter {α : Type} [DecidableEq α] {d : Nat → α} {t : Tab α} (p : Nat × α → Bool) (h : Tab.wf d t = true) :
    Tab.wf d (t.filter p) = true := by
  rw [Tab.wf_iff] at h ⊢
  exact ⟨Tab.sorted_filter p h.1, fun e he => h.2 e (List.mem_filter.1 he).1⟩

/-- Writing one key keeps the canonical form. -/
theorem Tab.wf_set {α : Type} [DecidableEq α] {d : Nat → α} {t : Tab α} (k : Nat) (v : α) (h : Tab.wf d t = true) :
    Tab.wf d (Tab.set (d k) t k v) = true := by
  unfold Tab.set
  split
  · exact Tab.wf_filter _ h
  · rename_i hv
    rw [Tab.wf_iff] at h ⊢
    refine ⟨Tab.sorted_insert k v h.1, fun e he => ?_⟩
    rcases Tab.mem_insert he with rfl | he
    · exact hv
    · exact h.2 e he

/-! ## The arrays -/

@[simp] theorem Memory.byte_setByte_same (m : Memory) (a : Nat) (b : Byte) : (m.setByte a b).byte a = b := Tab.get_set_same _ _ _ _

theorem Memory.byte_setByte_other (m : Memory) (a a' : Nat) (b : Byte) (h : a' ≠ a) : (m.setByte a b).byte a' = m.byte a' :=
  Tab.get_set_other _ _ _ _ _ _ h

theorem Memory.wf_setByte {m : Memory} (a : Nat) (b : Byte) (h : m.wf = true) : (m.setByte a b).wf = true := by
  simp only [Memory.wf, Bool.and_eq_true] at h ⊢
  exact ⟨Tab.wf_set (d := m.byteDefault) a b h.1, h.2⟩

theorem Memory.fold_setByte_frame (k : Nat) (w : W64) (l : List Nat) (m : Memory) :
    (l.foldl (fun m i => m.setByte (8 * k + i) (wordByte w i)) m).scramble = m.scramble ∧
    (l.foldl (fun m i => m.setByte (8 * k + i) (wordByte w i)) m).errs = m.errs := by
  induction l generalizing m with
  | nil => exact ⟨rfl, rfl⟩
  | cons i l ih => exact ih _

theorem Memory.fold_setByte_wf (k : Nat) (w : W64) (l : List Nat) {m : Memory} (h : m.wf = true) :
    (l.foldl (fun m i => m.setByte (8 * k + i) (wordByte w i)) m).wf = true := by
  induction l generalizing m with
  | nil => exact h
  | cons i l ih => exact ih (Memory.wf_setByte _ _ h)

/-- Writing a word with its condition keeps the canonical form. -/
theorem Memory.wf_setWord {m : Memory} (k : Nat) (w : W64) (e : WordErr) (h : m.wf = true) : (m.setWord k w e).wf = true := by
  have hf := Memory.fold_setByte_frame k w (List.range 8) m
  have hw := Memory.fold_setByte_wf k w (List.range 8) h
  unfold Memory.setWord
  simp only [Memory.wf, Bool.and_eq_true] at hw h ⊢
  refine ⟨hw.1, ?_⟩
  show Tab.wf (Memory.errDefault { List.foldl (fun m i => m.setByte (8 * k + i) (wordByte w i)) m (List.range 8) with errs := _ }) _ = true
  have hd : ∀ t, Memory.errDefault { List.foldl (fun m i => m.setByte (8 * k + i) (wordByte w i)) m (List.range 8) with errs := t } = m.errDefault := by
    intro t; unfold Memory.errDefault; simp only [hf.1]
  rw [hd, hf.2]
  exact Tab.wf_set (d := m.errDefault) k e h.2

/-- Writing zero to one row of every bank keeps the canonical form. -/
theorem Memory.wf_zeroRow {m : Memory} (row : Nat) (h : m.wf = true) : (m.zeroRow row).wf = true := by
  unfold Memory.zeroRow
  split
  · rename_i hs
    simp only [Memory.wf, Bool.and_eq_true] at h ⊢
    exact ⟨Tab.wf_filter _ h.1, Tab.wf_filter _ h.2⟩
  · have : ∀ (l : List Nat) (m : Memory), m.wf = true → (l.foldl (fun m p => m.setWord (wordKey p row) 0 .good) m).wf = true := by
      intro l
      induction l with
      | nil => exact fun _ h => h
      | cons p l ih => exact fun m h => ih _ (Memory.wf_setWord _ _ _ h)
    exact this _ _ h

theorem Memory.wf_zero : Memory.zero.wf = true := rfl

/-- The arrays that an MBIST run has left. -/
theorem Memory.wf_scrambled (n : Nat) : Memory.wf ⟨some n, [], []⟩ = true := rfl

theorem Memory.wf_reset : State.reset.vs.mem.wf = true := rfl

/-- The wipe before UP keeps the canonical form (R63, R475). -/
theorem wipeNow_wf {s : State} (h : s.vs.mem.wf = true) : (wipeNow s).vs.mem.wf = true := by
  unfold wipeNow setVs
  simp only
  generalize List.range 512 = l
  have : ∀ (l : List Nat) (m : Memory), m.wf = true → (l.foldl (fun m i => m.zeroRow (7680 + i)) m).wf = true := by
    intro l
    induction l with
    | nil => exact fun _ h => h
    | cons p l ih => exact fun m h => ih _ (Memory.wf_zeroRow _ h)
  exact this l _ h

/-- A write of a local word, and of its copy in a spare, keeps the canonical form (R40, R54). -/
theorem writeWord_wf {s : State} (word : Nat) (d : W64) (poison : Bool) (h : s.vs.mem.wf = true) :
    (writeWord word d poison s).vs.mem.wf = true := by
  unfold writeWord setVs
  simp only
  split
  · exact Memory.wf_setWord _ _ _ (Memory.wf_setWord _ _ _ h)
  · exact Memory.wf_setWord _ _ _ h

end Sys2Proof.Laws
end

