-- ==== Sys2Proof/Laws/Reset.lean ====
section
/-! SUPPORT. What the settling of abandoned writes, the clearing of a core and the resets of the rings, the DMA channels and the chains may change (R193, R467 to R471). -/

namespace Sys2Proof.Laws

open Sys2Proof.Machine Sys2Proof.Claims

/-- What the settling of abandoned writes may change. -/
structure Settled (s t : State) : Prop where
  st : { t with vs := s.vs, ev := s.ev, cores := s.cores, pwr := s.pwr, free := s.free } = s
  cores : ∀ d, { t.cores.get d with sched := (s.cores.get d).sched, detvoid := (s.cores.get d).detvoid } = s.cores.get d
  vs : t.vs.repair = s.vs.repair ∧ t.vs.scrubWord = s.vs.scrubWord ∧ t.vs.wipePending = s.vs.wipePending

theorem Settled.refl (s : State) : Settled s s := ⟨rfl, fun _ => rfl, rfl, rfl, rfl⟩

theorem Settled.trans {a b c : State} (h : Settled a b) (k : Settled b c) : Settled a c := by
  refine ⟨?_, ?_, ?_⟩
  · have := h.st; have k' := k.st
    rw [← this]; conv_rhs => rw [← k']
  · intro d; have := h.cores d; have k' := k.cores d
    rw [← this]; conv_rhs => rw [← k']
  · exact ⟨k.vs.1.trans h.vs.1, k.vs.2.1.trans h.vs.2.1, k.vs.2.2.trans h.vs.2.2⟩

theorem settled_setVs {v : VStore} {s : State} (h : v.repair = s.vs.repair ∧ v.scrubWord = s.vs.scrubWord ∧ v.wipePending = s.vs.wipePending) : Settled s (setVs v s) :=
  ⟨rfl, fun _ => rfl, h⟩

@[simp] theorem quad_get_map' {α β} (q : Quad α) (f : α → β) (i : Fin 4) : (q.map f).get i = f (q.get i) := by fin_cases i <;> rfl

theorem settled_arrive (n : Nat) (s : State) : Settled s (arrive n s) := by
  have hv : ∀ c (u : State), Settled u (voidDet c u) := by
    intro c u; unfold voidDet withCore setCore; refine ⟨rfl, ?_, rfl, rfl, rfl⟩
    intro d; dsimp only
    by_cases hd : d = c
    · subst hd; rw [Quad.get_set_same]; split <;> rfl
    · rw [Quad.get_set_other _ _ _ _ hd]
  unfold arrive; split
  · exact .refl s
  split
  · exact ⟨rfl, fun _ => rfl, rfl, rfl, rfl⟩
  · unfold takeArrival; dsimp only
    have h0 : ∀ b : Bool, Settled s { s with
      ev := Tab.modify evSrc0 s.ev n EvSrc.arrive
      cores := s.cores.map (fun k => { k with sched := k.sched.arrive n })
      pwr := { s.pwr with wake := s.pwr.wake || b } } := by
      intro b; refine ⟨rfl, ?_, rfl, rfl, rfl⟩
      intro d; dsimp only; rw [quad_get_map']
    split
    · exact (h0 _).trans (hv _ _)
    · exact h0 _

theorem settled_readWord (rq w : Nat) (s : State) : Settled s (readWord rq w s).2 := by
  unfold readWord; dsimp only
  have hl : ∀ a b c d (u : State), Settled u (logEcc a b c d u) := by
    intro a b c d u; unfold logEcc; dsimp only; split
    · exact settled_setVs ⟨rfl, rfl, rfl⟩
    · exact .refl u
  cases s.vs.mem.err (s.vs.keyOf w) with
  | good => exact .refl s
  | single =>
    refine Settled.trans ?_ (hl _ _ _ _ _)
    unfold countCe; dsimp only; split
    · refine Settled.trans ?_ (settled_arrive _ _); exact settled_setVs ⟨rfl, rfl, rfl⟩
    · exact settled_setVs ⟨rfl, rfl, rfl⟩
  | double =>
    refine Settled.trans ?_ (hl _ _ _ _ _)
    refine Settled.trans ?_ (settled_arrive _ _); exact settled_setVs ⟨rfl, rfl, rfl⟩
  | poison => exact .refl s

theorem settled_writeWord (w : Nat) (d : W64) (p : Bool) (s : State) : Settled s (writeWord w d p s) := settled_setVs ⟨rfl, rfl, rfl⟩

theorem settled_grantOne {r : BankReq} {s : State} (h : r.op ≠ .read) : Settled s (grantOne r s).2 := by
  unfold grantOne; split
  · refine Settled.trans ?_ (settled_arrive _ _); exact settled_setVs ⟨rfl, rfl, rfl⟩
  split
  · exact .refl s
  · dsimp only
    cases ho : r.op with
    | read => exact absurd ho h
    | write d be p =>
      dsimp only; split
      · exact settled_writeWord _ _ _ _
      · exact (settled_readWord _ _ _).trans (settled_setVs ⟨rfl, rfl, rfl⟩)
    | acc a b c d e =>
      dsimp only; split
      · exact .refl s
      · exact (settled_readWord _ _ _).trans (settled_setVs ⟨rfl, rfl, rfl⟩)

theorem settled_takeBool (s : State) : Settled s (s.takeBool).2 := ⟨rfl, fun _ => rfl, rfl, rfl, rfl⟩

theorem settled_settleWrite (r : BankReq) (s : State) : Settled s (settleWrite r s) := by
  have key : r.op ≠ .read → Settled s (
    let (b, s1) := s.takeBool
    if b && !secureRefused r.word r.secure s1 then
      let s2 := (grantOne r s1).2
      let bank := s2.vs.bankOf r.word
      match Tab.find s2.vs.halves bank with
      | some h => if h.dest = r.dest then setVs { s2.vs with halves := Tab.erase s2.vs.halves bank } (writeWord h.word h.data h.poison s2) else s2
      | none => s2
    else s1) := by
    intro h
    refine (settled_takeBool s).trans ?_
    split
    next b s1 e =>
    have : s1 = s.takeBool.2 := by rw [e]
    rw [← this]
    split
    · refine (settled_grantOne h).trans ?_
      dsimp only
      split
      · split
        · exact (settled_writeWord _ _ _ _).trans (settled_setVs ⟨rfl, rfl, rfl⟩)
        · exact .refl _
      · exact .refl _
    · exact .refl _
  unfold settleWrite
  cases ho : r.op with
  | read => exact .refl s
  | write => exact key (by rw [ho]; simp)
  | acc => exact key (by rw [ho]; simp)

theorem settled_fold {α} (l : List α) (f : State → α → State) (h : ∀ s a, Settled s (f s a)) (s : State) : Settled s (l.foldl f s) := by
  induction l generalizing s with
  | nil => exact .refl s
  | cons a l ih => exact (h s a).trans (ih _)

theorem settled_withdraw (p : ReqDest → Bool) (s : State) : Settled s (withdraw p s) := by
  unfold withdraw; dsimp only
  refine (settled_setVs ?_).trans (settled_fold _ _ (fun s r => settled_settleWrite r s) _)
  exact ⟨rfl, rfl, rfl⟩

theorem settled_settleStore (c : CoreId) (e : SbEntry) (s : State) : Settled s (settleStore c e s) := by
  unfold settleStore
  repeat (first | exact .refl s | exact settled_settleWrite _ _ | split)

structure Cleared (c : CoreId) (s t : State) : Prop where
  st : { t with vs := s.vs, ev := s.ev, cores := s.cores, pwr := s.pwr, free := s.free, ports := s.ports, evc := s.evc } = s
  other : ∀ d, d ≠ c → { t.cores.get d with sched := (s.cores.get d).sched, detvoid := (s.cores.get d).detvoid } = s.cores.get d ∧ t.evc.get d = s.evc.get d
  this : (∃ dbg, t.cores.get c = { core0 with dbg := dbg }) ∧ t.evc.get c = evCore0
  vs : t.vs.repair = s.vs.repair ∧ t.vs.scrubWord = s.vs.scrubWord ∧ t.vs.wipePending = s.vs.wipePending

theorem cleared_key (c : CoreId) (s s2 : State) (o : List Owed) (dbg : CoreDbg) (h2 : Settled (owe o s) s2) :
    Cleared c s { setCore c { core0 with dbg := dbg } s2 with evc := s2.evc.set c evCore0 } := by
  have e2 := h2.st
  refine ⟨?_, ?_, ⟨⟨dbg, ?_⟩, ?_⟩, ?_⟩
  · simp only [setCore]
    have : s = { owe o s with ports := s.ports } := rfl
    rw [this, ← e2]
  · intro d hd
    refine ⟨?_, ?_⟩
    · simp only [setCore]; rw [Quad.get_set_other _ _ _ _ hd]; exact h2.cores d
    · simp only [setCore]; rw [Quad.get_set_other _ _ _ _ hd]
      have : s2.evc = s.evc := by have h := congrArg State.evc e2; exact h
      rw [this]
  · simp only [setCore, Quad.get_set_same]
  · simp only [Quad.get_set_same]
  · exact h2.vs

theorem cleared_clearCore (c : CoreId) (s : State) : Cleared c s (clearCore c s) := by
  unfold clearCore
  exact cleared_key c s _ _ _ ((settled_withdraw _ _).trans (settled_fold _ _ (fun s e => settled_settleStore c e s) _))

theorem settled_field {α} (f : State → α) (h : ∀ s v e c p n, f { s with vs := v, ev := e, cores := c, pwr := p, free := n } = f s) {s t : State} (k : Settled s t) : f t = f s := by
  rw [← h t s.vs s.ev s.cores s.pwr s.free, k.st]

theorem cleared_field {α} (f : State → α) (h : ∀ s v e c p n q x, f { s with vs := v, ev := e, cores := c, pwr := p, free := n, ports := q, evc := x } = f s) {c : CoreId} {s t : State} (k : Cleared c s t) : f t = f s := by
  rw [← h t s.vs s.ev s.cores s.pwr s.free s.ports s.evc, k.st]

theorem clearAll_field {α} (f : State → α) (h : ∀ s v e c p n q x, f { s with vs := v, ev := e, cores := c, pwr := p, free := n, ports := q, evc := x } = f s) (s : State) :
    f (fours.foldl (fun s c => clearCore c s) s) = f s := by
  show f (clearCore 3 (clearCore 2 (clearCore 1 (clearCore 0 s)))) = f s
  rw [cleared_field f h (cleared_clearCore 3 _), cleared_field f h (cleared_clearCore 2 _), cleared_field f h (cleared_clearCore 1 _), cleared_field f h (cleared_clearCore 0 _)]

theorem clearAll_core (s : State) (c : CoreId) : (∃ dbg sc dv, (fours.foldl (fun s c => clearCore c s) s).cores.get c = { core0 with dbg := dbg, sched := sc, detvoid := dv }) ∧
    (fours.foldl (fun s c => clearCore c s) s).evc.get c = evCore0 := by
  show (∃ dbg sc dv, (clearCore 3 (clearCore 2 (clearCore 1 (clearCore 0 s)))).cores.get c = _) ∧ (clearCore 3 (clearCore 2 (clearCore 1 (clearCore 0 s)))).evc.get c = _
  have h0 := cleared_clearCore 0 s
  generalize clearCore 0 s = s1 at h0 ⊢
  have h1 := cleared_clearCore 1 s1
  generalize clearCore 1 s1 = s2 at h1 ⊢
  have h2 := cleared_clearCore 2 s2
  generalize clearCore 2 s2 = s3 at h2 ⊢
  have h3 := cleared_clearCore 3 s3
  generalize clearCore 3 s3 = s4 at h3 ⊢
  have step : ∀ (d : CoreId) (a b : State) (k : Cleared d a b), c ≠ d → (∃ dbg sc dv, a.cores.get c = { core0 with dbg := dbg, sched := sc, detvoid := dv }) ∧ a.evc.get c = evCore0 →
      (∃ dbg sc dv, b.cores.get c = { core0 with dbg := dbg, sched := sc, detvoid := dv }) ∧ b.evc.get c = evCore0 := by
    rintro d a b k hd ⟨⟨dbg, sc, dv, e⟩, e2⟩
    obtain ⟨o1, o2⟩ := k.other c hd
    refine ⟨⟨dbg, (b.cores.get c).sched, (b.cores.get c).detvoid, ?_⟩, by rw [o2, e2]⟩
    rw [e] at o1
    generalize b.cores.get c = x at o1 ⊢
    cases x; simp only [Core.mk.injEq] at o1 ⊢; simp_all
  have start : ∀ (a b : State) (k : Cleared c a b), (∃ dbg sc dv, b.cores.get c = { core0 with dbg := dbg, sched := sc, detvoid := dv }) ∧ b.evc.get c = evCore0 := by
    intro a b k; obtain ⟨dbg, e⟩ := k.this.1; exact ⟨⟨dbg, _, _, e⟩, k.this.2⟩
  fin_cases c
  · exact step 3 _ _ h3 (by decide) (step 2 _ _ h2 (by decide) (step 1 _ _ h1 (by decide) (start _ _ h0)))
  · exact step 3 _ _ h3 (by decide) (step 2 _ _ h2 (by decide) (start _ _ h1))
  · exact step 3 _ _ h3 (by decide) (start _ _ h2)
  · exact start _ _ h3

theorem dropW (s : State) : ∃ r p, dropWatches s = { s with rings := r, ports := p } ∧ r.en = s.rings.en := by
  unfold dropWatches withRings; exact ⟨_, _, rfl, rfl⟩

theorem ringReset_form (s : State) : ∃ r t p, ringReset s = { s with rings := r, troupe := t, ports := p } ∧ r.en = false ∧ t.leaseEnd = s.troupe.leaseEnd ∧ t.slrx = s.troupe.slrx := by
  obtain ⟨r, p, h, -⟩ := dropW s
  unfold ringReset ringStop; rw [h]
  exact ⟨_, _, _, rfl, rfl, rfl, rfl⟩

theorem dmaReset_form (s : State) : ∃ d p q, dmaReset s = { s with dma := d, ports := p, vs := { s.vs with reqs := q } } := by
  unfold dmaReset
  have : ∀ (l : List (Fin 64)) (u : State), ∃ d, l.foldl (fun (s : State) ch => setChan ch { s.chan ch with st := .idle, stop := .none, chunks := [], reads := [], writes := [], acked := [] } s) u = { u with dma := d } := by
    intro l; induction l with
    | nil => intro u; exact ⟨_, rfl⟩
    | cons a l ih => intro u; obtain ⟨d, h⟩ := ih (setChan a { u.chan a with st := .idle, stop := .none, chunks := [], reads := [], writes := [], acked := [] } u); exact ⟨d, by rw [List.foldl_cons, h]; rfl⟩
  dsimp only
  obtain ⟨d, h⟩ := this allChans { s with ports := { s.ports with owed := s.ports.owed ++ s.dma.chans.flatMap (fun e =>
    let ch : Fin 64 := BitVec.toFin (BitVec.ofNat 6 e.1)
    (e.2.reads.filter (fun r => r.words == 0)).map (fun r => Owed.dmaRead ch r.tag) ++
    (e.2.writes.filter (fun w => w.words == 0)).map (fun w => Owed.dmaWrite ch w.tag)) } }
  rw [h]
  exact ⟨_, _, _, rfl⟩

theorem abandon_form (s : State) : ∃ s1 e p, Settled { s with ports := p } s1 ∧ abandonChains s = { s1 with eng := e, entries := Quad.same [], iq := Quad.same [] } ∧ e.slots = Quad.same none ∧ e.time = s1.eng.time := by
  unfold abandonChains
  exact ⟨_, _, _, settled_withdraw _ _, rfl, rfl, rfl⟩

theorem warmRole_form (s : State) : ∃ r t p q, warmRole true s = { s with pair := p, role := r, troupe := t, ports := q } ∧ t.leaseEnd = none ∧ t.slrx = [] ∧
     (s.role.role = .spare ∨ s.role.role = .fenced → r = s.role) ∧ (s.role.role = .worker ∨ s.role.role = .deputy ∨ s.role.role = .manager →
      r = { s.role with role := .fenced, slot := 0, freason := 5 }) := by
  have h0 : ∃ p, sendPair .warmReset s = { s with pair := p } := by unfold sendPair; split <;> exact ⟨_, rfl⟩
  obtain ⟨p0, h0⟩ := h0
  unfold warmRole
  rw [if_pos rfl, h0]
  unfold dropClaim roleWarm withTroupe owe setRole
  cases hr : s.role.role <;> dsimp only <;> split <;> exact ⟨_, _, _, _, rfl, rfl, rfl, by simp, by simp⟩

theorem tellFreeze_form (b s : State) : ∃ p, tellFreeze b s = { s with pair := p } := by
  unfold tellFreeze sendPair
  split
  · exact ⟨_, rfl⟩
  · split <;> exact ⟨_, rfl⟩

theorem tellFreeze_core (b s : State) (c : CoreId) : (tellFreeze b s).core c = s.core c ∧ (tellFreeze b s).auth = s.auth := by
  obtain ⟨p, hp⟩ := tellFreeze_form b s
  rw [hp]
  exact ⟨rfl, rfl⟩

theorem thawed_core (b s : State) (c : CoreId) : (thawed b s).core c = s.core c ∧ (thawed b s).auth = s.auth := by
  unfold thawed
  dsimp only
  refine ⟨(tellFreeze_core _ _ _).1, (tellFreeze_core _ _ c).2⟩

theorem strike_facts (s : State) : ∀ u, u = warmStrike s →
    (u.role = s.role ∧ u.log = s.log ∧ u.fuses = s.fuses ∧ u.pamap = s.pamap ∧ u.eng.time = s.eng.time ∧ u.rst = s.rst ∧ u.boot = s.boot) ∧
    (∀ c : CoreId, (u.core c).st = .off ∧ (u.core c).sb = [] ∧ (u.core c).tlb = [] ∧ u.evc.get c = evCore0 ∧ u.iq.get c = []) ∧
    (∀ i, u.chain i = none) ∧ u.ev = [] ∧ u.troupe.leaseEnd = s.troupe.leaseEnd ∧ u.troupe.slrx = s.troupe.slrx ∧ u.rings.en = false ∧ u.vs.scrubWord = 0 ∧
    u.vs.repair.busy = false := by
  intro u hu
  unfold warmStrike at hu
  obtain ⟨r3, t3, p3, h3, he3, hl3, hs3⟩ := ringReset_form s
  rw [h3] at hu
  generalize hs3' : ({ s with rings := r3, troupe := t3, ports := p3 } : State) = s3 at hu
  have h4 := settled_withdraw (fun d => match d with
    | .dmaRead _ _ _ => true
    | .dmaWrite _ _ => true
    | _ => false) s3
  dsimp only at hu
  generalize hs4 : withdraw (fun d => match d with
    | .dmaRead _ _ _ => true
    | .dmaWrite _ _ => true
    | _ => false) s3 = s4 at h4 hu
  obtain ⟨d5, p5, q5, h5⟩ := dmaReset_form s4
  rw [h5] at hu
  generalize hs5 : ({ s4 with dma := d5, ports := p5, vs := { s4.vs with reqs := q5 } } : State) = s5 at hu
  obtain ⟨u6, v6, p6, h6, h6', hsl, htm⟩ := abandon_form s5
  rw [h6'] at hu
  generalize hs6 : vsWarm { u6 with eng := v6, entries := Quad.same [], iq := Quad.same [] } = s6 at hu
  have hc := clearAll_core s6
  have f := fun {α} (f : State → α) h => clearAll_field f h s6
  have hv : (fours.foldl (fun s c => clearCore c s) s6).vs.repair = s6.vs.repair ∧ (fours.foldl (fun s c => clearCore c s) s6).vs.scrubWord = s6.vs.scrubWord := by
    show (clearCore 3 (clearCore 2 (clearCore 1 (clearCore 0 s6)))).vs.repair = _ ∧ (clearCore 3 (clearCore 2 (clearCore 1 (clearCore 0 s6)))).vs.scrubWord = _
    exact ⟨by rw [(cleared_clearCore 3 _).vs.1, (cleared_clearCore 2 _).vs.1, (cleared_clearCore 1 _).vs.1, (cleared_clearCore 0 _).vs.1],
     by rw [(cleared_clearCore 3 _).vs.2.1, (cleared_clearCore 2 _).vs.2.1, (cleared_clearCore 1 _).vs.2.1, (cleared_clearCore 0 _).vs.2.1]⟩
  generalize (fours.foldl (fun s c => clearCore c s) s6) = s7 at hu hc hv f
  have f1 := f (fun s => s.role) (fun _ _ _ _ _ _ _ _ => rfl)
  have f2 := f (fun s => s.log) (fun _ _ _ _ _ _ _ _ => rfl)
  have f3 := f (fun s => s.fuses) (fun _ _ _ _ _ _ _ _ => rfl)
  have f4 := f (fun s => s.pamap) (fun _ _ _ _ _ _ _ _ => rfl)
  have f5 := f (fun s => s.eng) (fun _ _ _ _ _ _ _ _ => rfl)
  have f6 := f (fun s => s.rst) (fun _ _ _ _ _ _ _ _ => rfl)
  have f7 := f (fun s => s.troupe) (fun _ _ _ _ _ _ _ _ => rfl)
  have f8 := f (fun s => s.rings) (fun _ _ _ _ _ _ _ _ => rfl)
  have f9 := f (fun s => s.iq) (fun _ _ _ _ _ _ _ _ => rfl)
  have f0 := f (fun s => s.boot) (fun _ _ _ _ _ _ _ _ => rfl)
  clear f
  have g := fun {α} (f : State → α) h => settled_field f h h4
  have g' := fun {α} (f : State → α) h => settled_field f h h6
  have k1 := g (fun s => s.role) (fun _ _ _ _ _ _ => rfl)
  have k2 := g (fun s => s.log) (fun _ _ _ _ _ _ => rfl)
  have k3 := g (fun s => s.fuses) (fun _ _ _ _ _ _ => rfl)
  have k4 := g (fun s => s.pamap) (fun _ _ _ _ _ _ => rfl)
  have k5 := g (fun s => s.eng) (fun _ _ _ _ _ _ => rfl)
  have k6 := g (fun s => s.rst) (fun _ _ _ _ _ _ => rfl)
  have k7 := g (fun s => s.troupe) (fun _ _ _ _ _ _ => rfl)
  have k8 := g (fun s => s.rings) (fun _ _ _ _ _ _ => rfl)
  have k0 := g (fun s => s.boot) (fun _ _ _ _ _ _ => rfl)
  have m1 := g' (fun s => s.role) (fun _ _ _ _ _ _ => rfl)
  have m2 := g' (fun s => s.log) (fun _ _ _ _ _ _ => rfl)
  have m3 := g' (fun s => s.fuses) (fun _ _ _ _ _ _ => rfl)
  have m4 := g' (fun s => s.pamap) (fun _ _ _ _ _ _ => rfl)
  have m5 := g' (fun s => s.eng) (fun _ _ _ _ _ _ => rfl)
  have m6 := g' (fun s => s.rst) (fun _ _ _ _ _ _ => rfl)
  have m7 := g' (fun s => s.troupe) (fun _ _ _ _ _ _ => rfl)
  have m8 := g' (fun s => s.rings) (fun _ _ _ _ _ _ => rfl)
  have m0 := g' (fun s => s.boot) (fun _ _ _ _ _ _ => rfl)
  clear g g'
  dsimp only at *
  have n5 : s6.eng = v6 := by rw [← hs6]; rfl
  have n9 : s6.iq = Quad.same [] := by rw [← hs6]; rfl
  have nn : s6.role = u6.role ∧ s6.log = u6.log ∧ s6.fuses = u6.fuses ∧ s6.pamap = u6.pamap ∧ s6.rst = u6.rst ∧ s6.troupe = u6.troupe ∧ s6.rings = u6.rings ∧ s6.boot = u6.boot ∧ s6.vs.scrubWord = 0 ∧ s6.vs.repair.busy = false := by rw [← hs6]; exact ⟨rfl, rfl, rfl, rfl, rfl, rfl, rfl, rfl, rfl, rfl⟩
  obtain ⟨n1, n2, n3, n4, n6, n7, n8, n0, nv, nw⟩ := nn
  have oo : s5.role = s4.role ∧ s5.log = s4.log ∧ s5.fuses = s4.fuses ∧ s5.pamap = s4.pamap ∧ s5.rst = s4.rst ∧ s5.troupe = s4.troupe ∧ s5.rings = s4.rings ∧ s5.boot = s4.boot ∧ s5.eng = s4.eng := by rw [← hs5]; exact ⟨rfl, rfl, rfl, rfl, rfl, rfl, rfl, rfl, rfl⟩
  obtain ⟨o1, o2, o3, o4, o6, o7, o8, o0, o5⟩ := oo
  have qq : s3.role = s.role ∧ s3.log = s.log ∧ s3.fuses = s.fuses ∧ s3.pamap = s.pamap ∧ s3.rst = s.rst ∧ s3.troupe = t3 ∧ s3.rings = r3 ∧ s3.boot = s.boot ∧ s3.eng = s.eng := by rw [← hs3']; exact ⟨rfl, rfl, rfl, rfl, rfl, rfl, rfl, rfl, rfl⟩
  obtain ⟨q1, q2, q3, q4, q6, q7, q8, q0, q5⟩ := qq
  obtain ⟨p8, h8⟩ := tellFreeze_form s { s7 with ev := [] }
  rw [h8] at hu
  subst hu
  dsimp only [State.core, State.chain]
  refine ⟨⟨?_, ?_, ?_, ?_, ?_, ?_, ?_⟩, ?_, ?_, rfl, ?_, ?_, ?_, ?_, ?_⟩
  · rw [f1, n1, m1, o1, k1, q1]
  · rw [f2, n2, m2, o2, k2, q2]
  · rw [f3, n3, m3, o3, k3, q3]
  · rw [f4, n4, m4, o4, k4, q4]
  · rw [f5, n5, htm, m5, o5, k5, q5]
  · rw [f6, n6, m6, o6, k6, q6]
  · rw [f0, n0, m0, o0, k0, q0]
  · intro c; obtain ⟨⟨_, _, _, e⟩, e2⟩ := hc c
    refine ⟨by rw [e]; rfl, by rw [e]; rfl, by rw [e]; rfl, e2, by rw [f9, n9]; fin_cases c <;> rfl⟩
  · intro i; rw [f5, n5, hsl]; fin_cases i <;> rfl
  · rw [f7, n7, m7, o7, k7, q7, hl3]
  · rw [f7, n7, m7, o7, k7, q7, hs3]
  · rw [f8, n8, m8, o8, k8, q8, he3]
  · rw [hv.2, nv]
  · rw [hv.1, nw]

theorem traceHalt_core (c : CoreId) (n : Nat) (d : BitVec 48) (s : State) (e : CoreId) : (traceHalt c n d s).core e = s.core e ∧ (traceHalt c n d s).auth = s.auth := by
  unfold traceHalt tracePacket traceEnter setWeado; dsimp only; split
  · split <;> exact ⟨rfl, rfl⟩
  · exact ⟨rfl, rfl⟩

theorem resume_other (c d : CoreId) (h : d ≠ c) (s : State) : (resumeCore c s).core d = s.core d ∧ (resumeCore c s).auth = s.auth := by
  unfold resumeCore; dsimp only; split
  · exact ⟨rfl, rfl⟩
  split
  · unfold withDbg withCore setCore State.core; exact ⟨Quad.get_set_other _ _ _ _ h, rfl⟩
  · have := traceHalt_core c 0 (s.core c).dbg.dpc
    refine ⟨(thawed_core _ _ d).1.trans ((this _ d).1.trans ?_), (thawed_core _ _ d).2.trans (this _ d).2⟩
    unfold setCore State.core; exact Quad.get_set_other _ _ _ _ h

theorem resume_same (c : CoreId) (s : State) : ((s.core c).st ≠ .halted → resumeCore c s = s) ∧ ((s.core c).st = .halted → (s.core c).held.isSome = true → (resumeCore c s).core c = { s.core c with dbg := { (s.core c).dbg with resumeDue := true } }) ∧
   ((s.core c).st = .halted → (s.core c).held = none → ((resumeCore c s).core c).st = .running ∧ ((resumeCore c s).core c).pc = (s.core c).dbg.dpc ∧ ((resumeCore c s).core c).repResume = (s.core c).dbg.drpend) := by
  unfold resumeCore; dsimp only
  refine ⟨?_, ?_, ?_⟩
  · intro h; simp [h]
  · intro h h'; simp [h, h', withDbg, withCore]
  · intro h h'; simp only [h, h']
    have e : (CoreSt.halted != CoreSt.halted) = false := rfl
    simp only [e, Option.isSome_none, Bool.false_eq_true, if_false]
    have hh : ∀ a b, (thawed a b).core c = b.core c := fun a b => (thawed_core a b c).1
    rw [hh, (traceHalt_core _ _ _ _ _).1, core_setCore]
    exact ⟨rfl, rfl, rfl⟩

end Sys2Proof.Laws
end

