-- ==== Sys2Proof/Laws/State.lean ====
section
/-! SUPPORT. Each update of one component of State: what the component is after it, and that every other component is as before. -/

namespace Sys2Proof.Laws

open Sys2Proof.Machine Sys2Proof.Claims

/-! ## setCore -/

@[simp] theorem setCore_id (c : CoreId) (k : Core) (s : State) : (setCore c k s).id = s.id := rfl
@[simp] theorem setCore_role (c : CoreId) (k : Core) (s : State) : (setCore c k s).role = s.role := rfl
@[simp] theorem setCore_ev (c : CoreId) (k : Core) (s : State) : (setCore c k s).ev = s.ev := rfl
@[simp] theorem setCore_evc (c : CoreId) (k : Core) (s : State) : (setCore c k s).evc = s.evc := rfl
@[simp] theorem setCore_log (c : CoreId) (k : Core) (s : State) : (setCore c k s).log = s.log := rfl
@[simp] theorem setCore_vs (c : CoreId) (k : Core) (s : State) : (setCore c k s).vs = s.vs := rfl
@[simp] theorem setCore_eng (c : CoreId) (k : Core) (s : State) : (setCore c k s).eng = s.eng := rfl
@[simp] theorem setCore_entries (c : CoreId) (k : Core) (s : State) : (setCore c k s).entries = s.entries := rfl
@[simp] theorem setCore_iq (c : CoreId) (k : Core) (s : State) : (setCore c k s).iq = s.iq := rfl
@[simp] theorem setCore_pamap (c : CoreId) (k : Core) (s : State) : (setCore c k s).pamap = s.pamap := rfl
@[simp] theorem setCore_cores (c : CoreId) (k : Core) (s : State) : (setCore c k s).cores = s.cores.set c k := rfl
@[simp] theorem setCore_weado (c : CoreId) (k : Core) (s : State) : (setCore c k s).weado = s.weado := rfl
@[simp] theorem setCore_rings (c : CoreId) (k : Core) (s : State) : (setCore c k s).rings = s.rings := rfl
@[simp] theorem setCore_dma (c : CoreId) (k : Core) (s : State) : (setCore c k s).dma = s.dma := rfl
@[simp] theorem setCore_troupe (c : CoreId) (k : Core) (s : State) : (setCore c k s).troupe = s.troupe := rfl
@[simp] theorem setCore_pair (c : CoreId) (k : Core) (s : State) : (setCore c k s).pair = s.pair := rfl
@[simp] theorem setCore_rst (c : CoreId) (k : Core) (s : State) : (setCore c k s).rst = s.rst := rfl
@[simp] theorem setCore_cal (c : CoreId) (k : Core) (s : State) : (setCore c k s).cal = s.cal := rfl
@[simp] theorem setCore_pwr (c : CoreId) (k : Core) (s : State) : (setCore c k s).pwr = s.pwr := rfl
@[simp] theorem setCore_supv (c : CoreId) (k : Core) (s : State) : (setCore c k s).supv = s.supv := rfl
@[simp] theorem setCore_fuses (c : CoreId) (k : Core) (s : State) : (setCore c k s).fuses = s.fuses := rfl
@[simp] theorem setCore_boot (c : CoreId) (k : Core) (s : State) : (setCore c k s).boot = s.boot := rfl
@[simp] theorem setCore_auth (c : CoreId) (k : Core) (s : State) : (setCore c k s).auth = s.auth := rfl
@[simp] theorem setCore_panel (c : CoreId) (k : Core) (s : State) : (setCore c k s).panel = s.panel := rfl
@[simp] theorem setCore_wds (c : CoreId) (k : Core) (s : State) : (setCore c k s).wds = s.wds := rfl
@[simp] theorem setCore_twd (c : CoreId) (k : Core) (s : State) : (setCore c k s).twd = s.twd := rfl
@[simp] theorem setCore_wrap (c : CoreId) (k : Core) (s : State) : (setCore c k s).wrap = s.wrap := rfl
@[simp] theorem setCore_ports (c : CoreId) (k : Core) (s : State) : (setCore c k s).ports = s.ports := rfl
@[simp] theorem setCore_free (c : CoreId) (k : Core) (s : State) : (setCore c k s).free = s.free := rfl
@[simp] theorem setCore_pending (c : CoreId) (k : Core) (s : State) : (setCore c k s).pending = s.pending := rfl

/-! ## withCore -/

@[simp] theorem withCore_id (c : CoreId) (f : Core → Core) (s : State) : (withCore c f s).id = s.id := rfl
@[simp] theorem withCore_role (c : CoreId) (f : Core → Core) (s : State) : (withCore c f s).role = s.role := rfl
@[simp] theorem withCore_ev (c : CoreId) (f : Core → Core) (s : State) : (withCore c f s).ev = s.ev := rfl
@[simp] theorem withCore_evc (c : CoreId) (f : Core → Core) (s : State) : (withCore c f s).evc = s.evc := rfl
@[simp] theorem withCore_log (c : CoreId) (f : Core → Core) (s : State) : (withCore c f s).log = s.log := rfl
@[simp] theorem withCore_vs (c : CoreId) (f : Core → Core) (s : State) : (withCore c f s).vs = s.vs := rfl
@[simp] theorem withCore_eng (c : CoreId) (f : Core → Core) (s : State) : (withCore c f s).eng = s.eng := rfl
@[simp] theorem withCore_entries (c : CoreId) (f : Core → Core) (s : State) : (withCore c f s).entries = s.entries := rfl
@[simp] theorem withCore_iq (c : CoreId) (f : Core → Core) (s : State) : (withCore c f s).iq = s.iq := rfl
@[simp] theorem withCore_pamap (c : CoreId) (f : Core → Core) (s : State) : (withCore c f s).pamap = s.pamap := rfl
@[simp] theorem withCore_cores (c : CoreId) (f : Core → Core) (s : State) : (withCore c f s).cores = s.cores.set c (f (s.core c)) := rfl
@[simp] theorem withCore_weado (c : CoreId) (f : Core → Core) (s : State) : (withCore c f s).weado = s.weado := rfl
@[simp] theorem withCore_rings (c : CoreId) (f : Core → Core) (s : State) : (withCore c f s).rings = s.rings := rfl
@[simp] theorem withCore_dma (c : CoreId) (f : Core → Core) (s : State) : (withCore c f s).dma = s.dma := rfl
@[simp] theorem withCore_troupe (c : CoreId) (f : Core → Core) (s : State) : (withCore c f s).troupe = s.troupe := rfl
@[simp] theorem withCore_pair (c : CoreId) (f : Core → Core) (s : State) : (withCore c f s).pair = s.pair := rfl
@[simp] theorem withCore_rst (c : CoreId) (f : Core → Core) (s : State) : (withCore c f s).rst = s.rst := rfl
@[simp] theorem withCore_cal (c : CoreId) (f : Core → Core) (s : State) : (withCore c f s).cal = s.cal := rfl
@[simp] theorem withCore_pwr (c : CoreId) (f : Core → Core) (s : State) : (withCore c f s).pwr = s.pwr := rfl
@[simp] theorem withCore_supv (c : CoreId) (f : Core → Core) (s : State) : (withCore c f s).supv = s.supv := rfl
@[simp] theorem withCore_fuses (c : CoreId) (f : Core → Core) (s : State) : (withCore c f s).fuses = s.fuses := rfl
@[simp] theorem withCore_boot (c : CoreId) (f : Core → Core) (s : State) : (withCore c f s).boot = s.boot := rfl
@[simp] theorem withCore_auth (c : CoreId) (f : Core → Core) (s : State) : (withCore c f s).auth = s.auth := rfl
@[simp] theorem withCore_panel (c : CoreId) (f : Core → Core) (s : State) : (withCore c f s).panel = s.panel := rfl
@[simp] theorem withCore_wds (c : CoreId) (f : Core → Core) (s : State) : (withCore c f s).wds = s.wds := rfl
@[simp] theorem withCore_twd (c : CoreId) (f : Core → Core) (s : State) : (withCore c f s).twd = s.twd := rfl
@[simp] theorem withCore_wrap (c : CoreId) (f : Core → Core) (s : State) : (withCore c f s).wrap = s.wrap := rfl
@[simp] theorem withCore_ports (c : CoreId) (f : Core → Core) (s : State) : (withCore c f s).ports = s.ports := rfl
@[simp] theorem withCore_free (c : CoreId) (f : Core → Core) (s : State) : (withCore c f s).free = s.free := rfl
@[simp] theorem withCore_pending (c : CoreId) (f : Core → Core) (s : State) : (withCore c f s).pending = s.pending := rfl

/-! ## putBank -/

@[simp] theorem putBank_id (c : CoreId) (b : Bank) (s : State) : (putBank c b s).id = s.id := rfl
@[simp] theorem putBank_role (c : CoreId) (b : Bank) (s : State) : (putBank c b s).role = s.role := rfl
@[simp] theorem putBank_ev (c : CoreId) (b : Bank) (s : State) : (putBank c b s).ev = s.ev := rfl
@[simp] theorem putBank_evc (c : CoreId) (b : Bank) (s : State) : (putBank c b s).evc = s.evc := rfl
@[simp] theorem putBank_log (c : CoreId) (b : Bank) (s : State) : (putBank c b s).log = s.log := rfl
@[simp] theorem putBank_vs (c : CoreId) (b : Bank) (s : State) : (putBank c b s).vs = s.vs := rfl
@[simp] theorem putBank_eng (c : CoreId) (b : Bank) (s : State) : (putBank c b s).eng = s.eng := rfl
@[simp] theorem putBank_entries (c : CoreId) (b : Bank) (s : State) : (putBank c b s).entries = s.entries := rfl
@[simp] theorem putBank_iq (c : CoreId) (b : Bank) (s : State) : (putBank c b s).iq = s.iq := rfl
@[simp] theorem putBank_pamap (c : CoreId) (b : Bank) (s : State) : (putBank c b s).pamap = s.pamap := rfl
@[simp] theorem putBank_weado (c : CoreId) (b : Bank) (s : State) : (putBank c b s).weado = s.weado := rfl
@[simp] theorem putBank_rings (c : CoreId) (b : Bank) (s : State) : (putBank c b s).rings = s.rings := rfl
@[simp] theorem putBank_dma (c : CoreId) (b : Bank) (s : State) : (putBank c b s).dma = s.dma := rfl
@[simp] theorem putBank_troupe (c : CoreId) (b : Bank) (s : State) : (putBank c b s).troupe = s.troupe := rfl
@[simp] theorem putBank_pair (c : CoreId) (b : Bank) (s : State) : (putBank c b s).pair = s.pair := rfl
@[simp] theorem putBank_rst (c : CoreId) (b : Bank) (s : State) : (putBank c b s).rst = s.rst := rfl
@[simp] theorem putBank_cal (c : CoreId) (b : Bank) (s : State) : (putBank c b s).cal = s.cal := rfl
@[simp] theorem putBank_pwr (c : CoreId) (b : Bank) (s : State) : (putBank c b s).pwr = s.pwr := rfl
@[simp] theorem putBank_supv (c : CoreId) (b : Bank) (s : State) : (putBank c b s).supv = s.supv := rfl
@[simp] theorem putBank_fuses (c : CoreId) (b : Bank) (s : State) : (putBank c b s).fuses = s.fuses := rfl
@[simp] theorem putBank_boot (c : CoreId) (b : Bank) (s : State) : (putBank c b s).boot = s.boot := rfl
@[simp] theorem putBank_auth (c : CoreId) (b : Bank) (s : State) : (putBank c b s).auth = s.auth := rfl
@[simp] theorem putBank_panel (c : CoreId) (b : Bank) (s : State) : (putBank c b s).panel = s.panel := rfl
@[simp] theorem putBank_wds (c : CoreId) (b : Bank) (s : State) : (putBank c b s).wds = s.wds := rfl
@[simp] theorem putBank_twd (c : CoreId) (b : Bank) (s : State) : (putBank c b s).twd = s.twd := rfl
@[simp] theorem putBank_wrap (c : CoreId) (b : Bank) (s : State) : (putBank c b s).wrap = s.wrap := rfl
@[simp] theorem putBank_ports (c : CoreId) (b : Bank) (s : State) : (putBank c b s).ports = s.ports := rfl
@[simp] theorem putBank_free (c : CoreId) (b : Bank) (s : State) : (putBank c b s).free = s.free := rfl
@[simp] theorem putBank_pending (c : CoreId) (b : Bank) (s : State) : (putBank c b s).pending = s.pending := rfl

/-! ## setVs -/

@[simp] theorem setVs_id (v : VStore) (s : State) : (setVs v s).id = s.id := rfl
@[simp] theorem setVs_role (v : VStore) (s : State) : (setVs v s).role = s.role := rfl
@[simp] theorem setVs_ev (v : VStore) (s : State) : (setVs v s).ev = s.ev := rfl
@[simp] theorem setVs_evc (v : VStore) (s : State) : (setVs v s).evc = s.evc := rfl
@[simp] theorem setVs_log (v : VStore) (s : State) : (setVs v s).log = s.log := rfl
@[simp] theorem setVs_vs (v : VStore) (s : State) : (setVs v s).vs = v := rfl
@[simp] theorem setVs_eng (v : VStore) (s : State) : (setVs v s).eng = s.eng := rfl
@[simp] theorem setVs_entries (v : VStore) (s : State) : (setVs v s).entries = s.entries := rfl
@[simp] theorem setVs_iq (v : VStore) (s : State) : (setVs v s).iq = s.iq := rfl
@[simp] theorem setVs_pamap (v : VStore) (s : State) : (setVs v s).pamap = s.pamap := rfl
@[simp] theorem setVs_cores (v : VStore) (s : State) : (setVs v s).cores = s.cores := rfl
@[simp] theorem setVs_weado (v : VStore) (s : State) : (setVs v s).weado = s.weado := rfl
@[simp] theorem setVs_rings (v : VStore) (s : State) : (setVs v s).rings = s.rings := rfl
@[simp] theorem setVs_dma (v : VStore) (s : State) : (setVs v s).dma = s.dma := rfl
@[simp] theorem setVs_troupe (v : VStore) (s : State) : (setVs v s).troupe = s.troupe := rfl
@[simp] theorem setVs_pair (v : VStore) (s : State) : (setVs v s).pair = s.pair := rfl
@[simp] theorem setVs_rst (v : VStore) (s : State) : (setVs v s).rst = s.rst := rfl
@[simp] theorem setVs_cal (v : VStore) (s : State) : (setVs v s).cal = s.cal := rfl
@[simp] theorem setVs_pwr (v : VStore) (s : State) : (setVs v s).pwr = s.pwr := rfl
@[simp] theorem setVs_supv (v : VStore) (s : State) : (setVs v s).supv = s.supv := rfl
@[simp] theorem setVs_fuses (v : VStore) (s : State) : (setVs v s).fuses = s.fuses := rfl
@[simp] theorem setVs_boot (v : VStore) (s : State) : (setVs v s).boot = s.boot := rfl
@[simp] theorem setVs_auth (v : VStore) (s : State) : (setVs v s).auth = s.auth := rfl
@[simp] theorem setVs_panel (v : VStore) (s : State) : (setVs v s).panel = s.panel := rfl
@[simp] theorem setVs_wds (v : VStore) (s : State) : (setVs v s).wds = s.wds := rfl
@[simp] theorem setVs_twd (v : VStore) (s : State) : (setVs v s).twd = s.twd := rfl
@[simp] theorem setVs_wrap (v : VStore) (s : State) : (setVs v s).wrap = s.wrap := rfl
@[simp] theorem setVs_ports (v : VStore) (s : State) : (setVs v s).ports = s.ports := rfl
@[simp] theorem setVs_free (v : VStore) (s : State) : (setVs v s).free = s.free := rfl
@[simp] theorem setVs_pending (v : VStore) (s : State) : (setVs v s).pending = s.pending := rfl

/-! ## setEng -/

@[simp] theorem setEng_id (e : Engine) (s : State) : (setEng e s).id = s.id := rfl
@[simp] theorem setEng_role (e : Engine) (s : State) : (setEng e s).role = s.role := rfl
@[simp] theorem setEng_ev (e : Engine) (s : State) : (setEng e s).ev = s.ev := rfl
@[simp] theorem setEng_evc (e : Engine) (s : State) : (setEng e s).evc = s.evc := rfl
@[simp] theorem setEng_log (e : Engine) (s : State) : (setEng e s).log = s.log := rfl
@[simp] theorem setEng_vs (e : Engine) (s : State) : (setEng e s).vs = s.vs := rfl
@[simp] theorem setEng_eng (e : Engine) (s : State) : (setEng e s).eng = e := rfl
@[simp] theorem setEng_entries (e : Engine) (s : State) : (setEng e s).entries = s.entries := rfl
@[simp] theorem setEng_iq (e : Engine) (s : State) : (setEng e s).iq = s.iq := rfl
@[simp] theorem setEng_pamap (e : Engine) (s : State) : (setEng e s).pamap = s.pamap := rfl
@[simp] theorem setEng_cores (e : Engine) (s : State) : (setEng e s).cores = s.cores := rfl
@[simp] theorem setEng_weado (e : Engine) (s : State) : (setEng e s).weado = s.weado := rfl
@[simp] theorem setEng_rings (e : Engine) (s : State) : (setEng e s).rings = s.rings := rfl
@[simp] theorem setEng_dma (e : Engine) (s : State) : (setEng e s).dma = s.dma := rfl
@[simp] theorem setEng_troupe (e : Engine) (s : State) : (setEng e s).troupe = s.troupe := rfl
@[simp] theorem setEng_pair (e : Engine) (s : State) : (setEng e s).pair = s.pair := rfl
@[simp] theorem setEng_rst (e : Engine) (s : State) : (setEng e s).rst = s.rst := rfl
@[simp] theorem setEng_cal (e : Engine) (s : State) : (setEng e s).cal = s.cal := rfl
@[simp] theorem setEng_pwr (e : Engine) (s : State) : (setEng e s).pwr = s.pwr := rfl
@[simp] theorem setEng_supv (e : Engine) (s : State) : (setEng e s).supv = s.supv := rfl
@[simp] theorem setEng_fuses (e : Engine) (s : State) : (setEng e s).fuses = s.fuses := rfl
@[simp] theorem setEng_boot (e : Engine) (s : State) : (setEng e s).boot = s.boot := rfl
@[simp] theorem setEng_auth (e : Engine) (s : State) : (setEng e s).auth = s.auth := rfl
@[simp] theorem setEng_panel (e : Engine) (s : State) : (setEng e s).panel = s.panel := rfl
@[simp] theorem setEng_wds (e : Engine) (s : State) : (setEng e s).wds = s.wds := rfl
@[simp] theorem setEng_twd (e : Engine) (s : State) : (setEng e s).twd = s.twd := rfl
@[simp] theorem setEng_wrap (e : Engine) (s : State) : (setEng e s).wrap = s.wrap := rfl
@[simp] theorem setEng_ports (e : Engine) (s : State) : (setEng e s).ports = s.ports := rfl
@[simp] theorem setEng_free (e : Engine) (s : State) : (setEng e s).free = s.free := rfl
@[simp] theorem setEng_pending (e : Engine) (s : State) : (setEng e s).pending = s.pending := rfl

/-! ## setChain -/

@[simp] theorem setChain_id (i : Fin 4) (ch : Chain) (s : State) : (setChain i ch s).id = s.id := rfl
@[simp] theorem setChain_role (i : Fin 4) (ch : Chain) (s : State) : (setChain i ch s).role = s.role := rfl
@[simp] theorem setChain_ev (i : Fin 4) (ch : Chain) (s : State) : (setChain i ch s).ev = s.ev := rfl
@[simp] theorem setChain_evc (i : Fin 4) (ch : Chain) (s : State) : (setChain i ch s).evc = s.evc := rfl
@[simp] theorem setChain_log (i : Fin 4) (ch : Chain) (s : State) : (setChain i ch s).log = s.log := rfl
@[simp] theorem setChain_vs (i : Fin 4) (ch : Chain) (s : State) : (setChain i ch s).vs = s.vs := rfl
@[simp] theorem setChain_eng (i : Fin 4) (ch : Chain) (s : State) : (setChain i ch s).eng = { s.eng with slots := s.eng.slots.set i (some ch) } := rfl
@[simp] theorem setChain_entries (i : Fin 4) (ch : Chain) (s : State) : (setChain i ch s).entries = s.entries := rfl
@[simp] theorem setChain_iq (i : Fin 4) (ch : Chain) (s : State) : (setChain i ch s).iq = s.iq := rfl
@[simp] theorem setChain_pamap (i : Fin 4) (ch : Chain) (s : State) : (setChain i ch s).pamap = s.pamap := rfl
@[simp] theorem setChain_cores (i : Fin 4) (ch : Chain) (s : State) : (setChain i ch s).cores = s.cores := rfl
@[simp] theorem setChain_weado (i : Fin 4) (ch : Chain) (s : State) : (setChain i ch s).weado = s.weado := rfl
@[simp] theorem setChain_rings (i : Fin 4) (ch : Chain) (s : State) : (setChain i ch s).rings = s.rings := rfl
@[simp] theorem setChain_dma (i : Fin 4) (ch : Chain) (s : State) : (setChain i ch s).dma = s.dma := rfl
@[simp] theorem setChain_troupe (i : Fin 4) (ch : Chain) (s : State) : (setChain i ch s).troupe = s.troupe := rfl
@[simp] theorem setChain_pair (i : Fin 4) (ch : Chain) (s : State) : (setChain i ch s).pair = s.pair := rfl
@[simp] theorem setChain_rst (i : Fin 4) (ch : Chain) (s : State) : (setChain i ch s).rst = s.rst := rfl
@[simp] theorem setChain_cal (i : Fin 4) (ch : Chain) (s : State) : (setChain i ch s).cal = s.cal := rfl
@[simp] theorem setChain_pwr (i : Fin 4) (ch : Chain) (s : State) : (setChain i ch s).pwr = s.pwr := rfl
@[simp] theorem setChain_supv (i : Fin 4) (ch : Chain) (s : State) : (setChain i ch s).supv = s.supv := rfl
@[simp] theorem setChain_fuses (i : Fin 4) (ch : Chain) (s : State) : (setChain i ch s).fuses = s.fuses := rfl
@[simp] theorem setChain_boot (i : Fin 4) (ch : Chain) (s : State) : (setChain i ch s).boot = s.boot := rfl
@[simp] theorem setChain_auth (i : Fin 4) (ch : Chain) (s : State) : (setChain i ch s).auth = s.auth := rfl
@[simp] theorem setChain_panel (i : Fin 4) (ch : Chain) (s : State) : (setChain i ch s).panel = s.panel := rfl
@[simp] theorem setChain_wds (i : Fin 4) (ch : Chain) (s : State) : (setChain i ch s).wds = s.wds := rfl
@[simp] theorem setChain_twd (i : Fin 4) (ch : Chain) (s : State) : (setChain i ch s).twd = s.twd := rfl
@[simp] theorem setChain_wrap (i : Fin 4) (ch : Chain) (s : State) : (setChain i ch s).wrap = s.wrap := rfl
@[simp] theorem setChain_ports (i : Fin 4) (ch : Chain) (s : State) : (setChain i ch s).ports = s.ports := rfl
@[simp] theorem setChain_free (i : Fin 4) (ch : Chain) (s : State) : (setChain i ch s).free = s.free := rfl
@[simp] theorem setChain_pending (i : Fin 4) (ch : Chain) (s : State) : (setChain i ch s).pending = s.pending := rfl

/-! ## setEntry -/

@[simp] theorem setEntry_id (c : CoreId) (e : Fin 8) (q : QEntry) (s : State) : (setEntry c e q s).id = s.id := rfl
@[simp] theorem setEntry_role (c : CoreId) (e : Fin 8) (q : QEntry) (s : State) : (setEntry c e q s).role = s.role := rfl
@[simp] theorem setEntry_ev (c : CoreId) (e : Fin 8) (q : QEntry) (s : State) : (setEntry c e q s).ev = s.ev := rfl
@[simp] theorem setEntry_evc (c : CoreId) (e : Fin 8) (q : QEntry) (s : State) : (setEntry c e q s).evc = s.evc := rfl
@[simp] theorem setEntry_log (c : CoreId) (e : Fin 8) (q : QEntry) (s : State) : (setEntry c e q s).log = s.log := rfl
@[simp] theorem setEntry_vs (c : CoreId) (e : Fin 8) (q : QEntry) (s : State) : (setEntry c e q s).vs = s.vs := rfl
@[simp] theorem setEntry_eng (c : CoreId) (e : Fin 8) (q : QEntry) (s : State) : (setEntry c e q s).eng = s.eng := rfl
@[simp] theorem setEntry_entries (c : CoreId) (e : Fin 8) (q : QEntry) (s : State) : (setEntry c e q s).entries = s.entries.set c (Tab.set entry0 (s.entries.get c) e.val q) := rfl
@[simp] theorem setEntry_iq (c : CoreId) (e : Fin 8) (q : QEntry) (s : State) : (setEntry c e q s).iq = s.iq := rfl
@[simp] theorem setEntry_pamap (c : CoreId) (e : Fin 8) (q : QEntry) (s : State) : (setEntry c e q s).pamap = s.pamap := rfl
@[simp] theorem setEntry_cores (c : CoreId) (e : Fin 8) (q : QEntry) (s : State) : (setEntry c e q s).cores = s.cores := rfl
@[simp] theorem setEntry_weado (c : CoreId) (e : Fin 8) (q : QEntry) (s : State) : (setEntry c e q s).weado = s.weado := rfl
@[simp] theorem setEntry_rings (c : CoreId) (e : Fin 8) (q : QEntry) (s : State) : (setEntry c e q s).rings = s.rings := rfl
@[simp] theorem setEntry_dma (c : CoreId) (e : Fin 8) (q : QEntry) (s : State) : (setEntry c e q s).dma = s.dma := rfl
@[simp] theorem setEntry_troupe (c : CoreId) (e : Fin 8) (q : QEntry) (s : State) : (setEntry c e q s).troupe = s.troupe := rfl
@[simp] theorem setEntry_pair (c : CoreId) (e : Fin 8) (q : QEntry) (s : State) : (setEntry c e q s).pair = s.pair := rfl
@[simp] theorem setEntry_rst (c : CoreId) (e : Fin 8) (q : QEntry) (s : State) : (setEntry c e q s).rst = s.rst := rfl
@[simp] theorem setEntry_cal (c : CoreId) (e : Fin 8) (q : QEntry) (s : State) : (setEntry c e q s).cal = s.cal := rfl
@[simp] theorem setEntry_pwr (c : CoreId) (e : Fin 8) (q : QEntry) (s : State) : (setEntry c e q s).pwr = s.pwr := rfl
@[simp] theorem setEntry_supv (c : CoreId) (e : Fin 8) (q : QEntry) (s : State) : (setEntry c e q s).supv = s.supv := rfl
@[simp] theorem setEntry_fuses (c : CoreId) (e : Fin 8) (q : QEntry) (s : State) : (setEntry c e q s).fuses = s.fuses := rfl
@[simp] theorem setEntry_boot (c : CoreId) (e : Fin 8) (q : QEntry) (s : State) : (setEntry c e q s).boot = s.boot := rfl
@[simp] theorem setEntry_auth (c : CoreId) (e : Fin 8) (q : QEntry) (s : State) : (setEntry c e q s).auth = s.auth := rfl
@[simp] theorem setEntry_panel (c : CoreId) (e : Fin 8) (q : QEntry) (s : State) : (setEntry c e q s).panel = s.panel := rfl
@[simp] theorem setEntry_wds (c : CoreId) (e : Fin 8) (q : QEntry) (s : State) : (setEntry c e q s).wds = s.wds := rfl
@[simp] theorem setEntry_twd (c : CoreId) (e : Fin 8) (q : QEntry) (s : State) : (setEntry c e q s).twd = s.twd := rfl
@[simp] theorem setEntry_wrap (c : CoreId) (e : Fin 8) (q : QEntry) (s : State) : (setEntry c e q s).wrap = s.wrap := rfl
@[simp] theorem setEntry_ports (c : CoreId) (e : Fin 8) (q : QEntry) (s : State) : (setEntry c e q s).ports = s.ports := rfl
@[simp] theorem setEntry_free (c : CoreId) (e : Fin 8) (q : QEntry) (s : State) : (setEntry c e q s).free = s.free := rfl
@[simp] theorem setEntry_pending (c : CoreId) (e : Fin 8) (q : QEntry) (s : State) : (setEntry c e q s).pending = s.pending := rfl

/-! ## setWeado -/

@[simp] theorem setWeado_id (w : Weado) (s : State) : (setWeado w s).id = s.id := rfl
@[simp] theorem setWeado_role (w : Weado) (s : State) : (setWeado w s).role = s.role := rfl
@[simp] theorem setWeado_ev (w : Weado) (s : State) : (setWeado w s).ev = s.ev := rfl
@[simp] theorem setWeado_evc (w : Weado) (s : State) : (setWeado w s).evc = s.evc := rfl
@[simp] theorem setWeado_log (w : Weado) (s : State) : (setWeado w s).log = s.log := rfl
@[simp] theorem setWeado_vs (w : Weado) (s : State) : (setWeado w s).vs = s.vs := rfl
@[simp] theorem setWeado_eng (w : Weado) (s : State) : (setWeado w s).eng = s.eng := rfl
@[simp] theorem setWeado_entries (w : Weado) (s : State) : (setWeado w s).entries = s.entries := rfl
@[simp] theorem setWeado_iq (w : Weado) (s : State) : (setWeado w s).iq = s.iq := rfl
@[simp] theorem setWeado_pamap (w : Weado) (s : State) : (setWeado w s).pamap = s.pamap := rfl
@[simp] theorem setWeado_cores (w : Weado) (s : State) : (setWeado w s).cores = s.cores := rfl
@[simp] theorem setWeado_weado (w : Weado) (s : State) : (setWeado w s).weado = w := rfl
@[simp] theorem setWeado_rings (w : Weado) (s : State) : (setWeado w s).rings = s.rings := rfl
@[simp] theorem setWeado_dma (w : Weado) (s : State) : (setWeado w s).dma = s.dma := rfl
@[simp] theorem setWeado_troupe (w : Weado) (s : State) : (setWeado w s).troupe = s.troupe := rfl
@[simp] theorem setWeado_pair (w : Weado) (s : State) : (setWeado w s).pair = s.pair := rfl
@[simp] theorem setWeado_rst (w : Weado) (s : State) : (setWeado w s).rst = s.rst := rfl
@[simp] theorem setWeado_cal (w : Weado) (s : State) : (setWeado w s).cal = s.cal := rfl
@[simp] theorem setWeado_pwr (w : Weado) (s : State) : (setWeado w s).pwr = s.pwr := rfl
@[simp] theorem setWeado_supv (w : Weado) (s : State) : (setWeado w s).supv = s.supv := rfl
@[simp] theorem setWeado_fuses (w : Weado) (s : State) : (setWeado w s).fuses = s.fuses := rfl
@[simp] theorem setWeado_boot (w : Weado) (s : State) : (setWeado w s).boot = s.boot := rfl
@[simp] theorem setWeado_auth (w : Weado) (s : State) : (setWeado w s).auth = s.auth := rfl
@[simp] theorem setWeado_panel (w : Weado) (s : State) : (setWeado w s).panel = s.panel := rfl
@[simp] theorem setWeado_wds (w : Weado) (s : State) : (setWeado w s).wds = s.wds := rfl
@[simp] theorem setWeado_twd (w : Weado) (s : State) : (setWeado w s).twd = s.twd := rfl
@[simp] theorem setWeado_wrap (w : Weado) (s : State) : (setWeado w s).wrap = s.wrap := rfl
@[simp] theorem setWeado_ports (w : Weado) (s : State) : (setWeado w s).ports = s.ports := rfl
@[simp] theorem setWeado_free (w : Weado) (s : State) : (setWeado w s).free = s.free := rfl
@[simp] theorem setWeado_pending (w : Weado) (s : State) : (setWeado w s).pending = s.pending := rfl

/-! ## setSam -/

@[simp] theorem setSam_id (m : Sam) (s : State) : (setSam m s).id = s.id := rfl
@[simp] theorem setSam_role (m : Sam) (s : State) : (setSam m s).role = s.role := rfl
@[simp] theorem setSam_ev (m : Sam) (s : State) : (setSam m s).ev = s.ev := rfl
@[simp] theorem setSam_evc (m : Sam) (s : State) : (setSam m s).evc = s.evc := rfl
@[simp] theorem setSam_log (m : Sam) (s : State) : (setSam m s).log = s.log := rfl
@[simp] theorem setSam_vs (m : Sam) (s : State) : (setSam m s).vs = s.vs := rfl
@[simp] theorem setSam_eng (m : Sam) (s : State) : (setSam m s).eng = s.eng := rfl
@[simp] theorem setSam_entries (m : Sam) (s : State) : (setSam m s).entries = s.entries := rfl
@[simp] theorem setSam_iq (m : Sam) (s : State) : (setSam m s).iq = s.iq := rfl
@[simp] theorem setSam_pamap (m : Sam) (s : State) : (setSam m s).pamap = s.pamap := rfl
@[simp] theorem setSam_cores (m : Sam) (s : State) : (setSam m s).cores = s.cores := rfl
@[simp] theorem setSam_weado (m : Sam) (s : State) : (setSam m s).weado = { s.weado with sam := m } := rfl
@[simp] theorem setSam_rings (m : Sam) (s : State) : (setSam m s).rings = s.rings := rfl
@[simp] theorem setSam_dma (m : Sam) (s : State) : (setSam m s).dma = s.dma := rfl
@[simp] theorem setSam_troupe (m : Sam) (s : State) : (setSam m s).troupe = s.troupe := rfl
@[simp] theorem setSam_pair (m : Sam) (s : State) : (setSam m s).pair = s.pair := rfl
@[simp] theorem setSam_rst (m : Sam) (s : State) : (setSam m s).rst = s.rst := rfl
@[simp] theorem setSam_cal (m : Sam) (s : State) : (setSam m s).cal = s.cal := rfl
@[simp] theorem setSam_pwr (m : Sam) (s : State) : (setSam m s).pwr = s.pwr := rfl
@[simp] theorem setSam_supv (m : Sam) (s : State) : (setSam m s).supv = s.supv := rfl
@[simp] theorem setSam_fuses (m : Sam) (s : State) : (setSam m s).fuses = s.fuses := rfl
@[simp] theorem setSam_boot (m : Sam) (s : State) : (setSam m s).boot = s.boot := rfl
@[simp] theorem setSam_auth (m : Sam) (s : State) : (setSam m s).auth = s.auth := rfl
@[simp] theorem setSam_panel (m : Sam) (s : State) : (setSam m s).panel = s.panel := rfl
@[simp] theorem setSam_wds (m : Sam) (s : State) : (setSam m s).wds = s.wds := rfl
@[simp] theorem setSam_twd (m : Sam) (s : State) : (setSam m s).twd = s.twd := rfl
@[simp] theorem setSam_wrap (m : Sam) (s : State) : (setSam m s).wrap = s.wrap := rfl
@[simp] theorem setSam_ports (m : Sam) (s : State) : (setSam m s).ports = s.ports := rfl
@[simp] theorem setSam_free (m : Sam) (s : State) : (setSam m s).free = s.free := rfl
@[simp] theorem setSam_pending (m : Sam) (s : State) : (setSam m s).pending = s.pending := rfl

/-! ## setVt -/

@[simp] theorem setVt_id (t : Vterm) (s : State) : (setVt t s).id = s.id := rfl
@[simp] theorem setVt_role (t : Vterm) (s : State) : (setVt t s).role = s.role := rfl
@[simp] theorem setVt_ev (t : Vterm) (s : State) : (setVt t s).ev = s.ev := rfl
@[simp] theorem setVt_evc (t : Vterm) (s : State) : (setVt t s).evc = s.evc := rfl
@[simp] theorem setVt_log (t : Vterm) (s : State) : (setVt t s).log = s.log := rfl
@[simp] theorem setVt_vs (t : Vterm) (s : State) : (setVt t s).vs = s.vs := rfl
@[simp] theorem setVt_eng (t : Vterm) (s : State) : (setVt t s).eng = s.eng := rfl
@[simp] theorem setVt_entries (t : Vterm) (s : State) : (setVt t s).entries = s.entries := rfl
@[simp] theorem setVt_iq (t : Vterm) (s : State) : (setVt t s).iq = s.iq := rfl
@[simp] theorem setVt_pamap (t : Vterm) (s : State) : (setVt t s).pamap = s.pamap := rfl
@[simp] theorem setVt_cores (t : Vterm) (s : State) : (setVt t s).cores = s.cores := rfl
@[simp] theorem setVt_weado (t : Vterm) (s : State) : (setVt t s).weado = { s.weado with vt := t } := rfl
@[simp] theorem setVt_rings (t : Vterm) (s : State) : (setVt t s).rings = s.rings := rfl
@[simp] theorem setVt_dma (t : Vterm) (s : State) : (setVt t s).dma = s.dma := rfl
@[simp] theorem setVt_troupe (t : Vterm) (s : State) : (setVt t s).troupe = s.troupe := rfl
@[simp] theorem setVt_pair (t : Vterm) (s : State) : (setVt t s).pair = s.pair := rfl
@[simp] theorem setVt_rst (t : Vterm) (s : State) : (setVt t s).rst = s.rst := rfl
@[simp] theorem setVt_cal (t : Vterm) (s : State) : (setVt t s).cal = s.cal := rfl
@[simp] theorem setVt_pwr (t : Vterm) (s : State) : (setVt t s).pwr = s.pwr := rfl
@[simp] theorem setVt_supv (t : Vterm) (s : State) : (setVt t s).supv = s.supv := rfl
@[simp] theorem setVt_fuses (t : Vterm) (s : State) : (setVt t s).fuses = s.fuses := rfl
@[simp] theorem setVt_boot (t : Vterm) (s : State) : (setVt t s).boot = s.boot := rfl
@[simp] theorem setVt_auth (t : Vterm) (s : State) : (setVt t s).auth = s.auth := rfl
@[simp] theorem setVt_panel (t : Vterm) (s : State) : (setVt t s).panel = s.panel := rfl
@[simp] theorem setVt_wds (t : Vterm) (s : State) : (setVt t s).wds = s.wds := rfl
@[simp] theorem setVt_twd (t : Vterm) (s : State) : (setVt t s).twd = s.twd := rfl
@[simp] theorem setVt_wrap (t : Vterm) (s : State) : (setVt t s).wrap = s.wrap := rfl
@[simp] theorem setVt_ports (t : Vterm) (s : State) : (setVt t s).ports = s.ports := rfl
@[simp] theorem setVt_free (t : Vterm) (s : State) : (setVt t s).free = s.free := rfl
@[simp] theorem setVt_pending (t : Vterm) (s : State) : (setVt t s).pending = s.pending := rfl

/-! ## withRings -/

@[simp] theorem withRings_id (f : Rings → Rings) (s : State) : (withRings f s).id = s.id := rfl
@[simp] theorem withRings_role (f : Rings → Rings) (s : State) : (withRings f s).role = s.role := rfl
@[simp] theorem withRings_ev (f : Rings → Rings) (s : State) : (withRings f s).ev = s.ev := rfl
@[simp] theorem withRings_evc (f : Rings → Rings) (s : State) : (withRings f s).evc = s.evc := rfl
@[simp] theorem withRings_log (f : Rings → Rings) (s : State) : (withRings f s).log = s.log := rfl
@[simp] theorem withRings_vs (f : Rings → Rings) (s : State) : (withRings f s).vs = s.vs := rfl
@[simp] theorem withRings_eng (f : Rings → Rings) (s : State) : (withRings f s).eng = s.eng := rfl
@[simp] theorem withRings_entries (f : Rings → Rings) (s : State) : (withRings f s).entries = s.entries := rfl
@[simp] theorem withRings_iq (f : Rings → Rings) (s : State) : (withRings f s).iq = s.iq := rfl
@[simp] theorem withRings_pamap (f : Rings → Rings) (s : State) : (withRings f s).pamap = s.pamap := rfl
@[simp] theorem withRings_cores (f : Rings → Rings) (s : State) : (withRings f s).cores = s.cores := rfl
@[simp] theorem withRings_weado (f : Rings → Rings) (s : State) : (withRings f s).weado = s.weado := rfl
@[simp] theorem withRings_rings (f : Rings → Rings) (s : State) : (withRings f s).rings = f s.rings := rfl
@[simp] theorem withRings_dma (f : Rings → Rings) (s : State) : (withRings f s).dma = s.dma := rfl
@[simp] theorem withRings_troupe (f : Rings → Rings) (s : State) : (withRings f s).troupe = s.troupe := rfl
@[simp] theorem withRings_pair (f : Rings → Rings) (s : State) : (withRings f s).pair = s.pair := rfl
@[simp] theorem withRings_rst (f : Rings → Rings) (s : State) : (withRings f s).rst = s.rst := rfl
@[simp] theorem withRings_cal (f : Rings → Rings) (s : State) : (withRings f s).cal = s.cal := rfl
@[simp] theorem withRings_pwr (f : Rings → Rings) (s : State) : (withRings f s).pwr = s.pwr := rfl
@[simp] theorem withRings_supv (f : Rings → Rings) (s : State) : (withRings f s).supv = s.supv := rfl
@[simp] theorem withRings_fuses (f : Rings → Rings) (s : State) : (withRings f s).fuses = s.fuses := rfl
@[simp] theorem withRings_boot (f : Rings → Rings) (s : State) : (withRings f s).boot = s.boot := rfl
@[simp] theorem withRings_auth (f : Rings → Rings) (s : State) : (withRings f s).auth = s.auth := rfl
@[simp] theorem withRings_panel (f : Rings → Rings) (s : State) : (withRings f s).panel = s.panel := rfl
@[simp] theorem withRings_wds (f : Rings → Rings) (s : State) : (withRings f s).wds = s.wds := rfl
@[simp] theorem withRings_twd (f : Rings → Rings) (s : State) : (withRings f s).twd = s.twd := rfl
@[simp] theorem withRings_wrap (f : Rings → Rings) (s : State) : (withRings f s).wrap = s.wrap := rfl
@[simp] theorem withRings_ports (f : Rings → Rings) (s : State) : (withRings f s).ports = s.ports := rfl
@[simp] theorem withRings_free (f : Rings → Rings) (s : State) : (withRings f s).free = s.free := rfl
@[simp] theorem withRings_pending (f : Rings → Rings) (s : State) : (withRings f s).pending = s.pending := rfl

/-! ## setScans -/

@[simp] theorem setScans_id (l : List Scan) (s : State) : (setScans l s).id = s.id := rfl
@[simp] theorem setScans_role (l : List Scan) (s : State) : (setScans l s).role = s.role := rfl
@[simp] theorem setScans_ev (l : List Scan) (s : State) : (setScans l s).ev = s.ev := rfl
@[simp] theorem setScans_evc (l : List Scan) (s : State) : (setScans l s).evc = s.evc := rfl
@[simp] theorem setScans_log (l : List Scan) (s : State) : (setScans l s).log = s.log := rfl
@[simp] theorem setScans_vs (l : List Scan) (s : State) : (setScans l s).vs = s.vs := rfl
@[simp] theorem setScans_eng (l : List Scan) (s : State) : (setScans l s).eng = s.eng := rfl
@[simp] theorem setScans_entries (l : List Scan) (s : State) : (setScans l s).entries = s.entries := rfl
@[simp] theorem setScans_iq (l : List Scan) (s : State) : (setScans l s).iq = s.iq := rfl
@[simp] theorem setScans_pamap (l : List Scan) (s : State) : (setScans l s).pamap = s.pamap := rfl
@[simp] theorem setScans_cores (l : List Scan) (s : State) : (setScans l s).cores = s.cores := rfl
@[simp] theorem setScans_weado (l : List Scan) (s : State) : (setScans l s).weado = s.weado := rfl
@[simp] theorem setScans_rings (l : List Scan) (s : State) : (setScans l s).rings = { s.rings with scans := l } := rfl
@[simp] theorem setScans_dma (l : List Scan) (s : State) : (setScans l s).dma = s.dma := rfl
@[simp] theorem setScans_troupe (l : List Scan) (s : State) : (setScans l s).troupe = s.troupe := rfl
@[simp] theorem setScans_pair (l : List Scan) (s : State) : (setScans l s).pair = s.pair := rfl
@[simp] theorem setScans_rst (l : List Scan) (s : State) : (setScans l s).rst = s.rst := rfl
@[simp] theorem setScans_cal (l : List Scan) (s : State) : (setScans l s).cal = s.cal := rfl
@[simp] theorem setScans_pwr (l : List Scan) (s : State) : (setScans l s).pwr = s.pwr := rfl
@[simp] theorem setScans_supv (l : List Scan) (s : State) : (setScans l s).supv = s.supv := rfl
@[simp] theorem setScans_fuses (l : List Scan) (s : State) : (setScans l s).fuses = s.fuses := rfl
@[simp] theorem setScans_boot (l : List Scan) (s : State) : (setScans l s).boot = s.boot := rfl
@[simp] theorem setScans_auth (l : List Scan) (s : State) : (setScans l s).auth = s.auth := rfl
@[simp] theorem setScans_panel (l : List Scan) (s : State) : (setScans l s).panel = s.panel := rfl
@[simp] theorem setScans_wds (l : List Scan) (s : State) : (setScans l s).wds = s.wds := rfl
@[simp] theorem setScans_twd (l : List Scan) (s : State) : (setScans l s).twd = s.twd := rfl
@[simp] theorem setScans_wrap (l : List Scan) (s : State) : (setScans l s).wrap = s.wrap := rfl
@[simp] theorem setScans_ports (l : List Scan) (s : State) : (setScans l s).ports = s.ports := rfl
@[simp] theorem setScans_free (l : List Scan) (s : State) : (setScans l s).free = s.free := rfl
@[simp] theorem setScans_pending (l : List Scan) (s : State) : (setScans l s).pending = s.pending := rfl

/-! ## setEntryW -/

@[simp] theorem setEntryW_id (i : Nat) (e : WEntry) (s : State) : (setEntryW i e s).id = s.id := rfl
@[simp] theorem setEntryW_role (i : Nat) (e : WEntry) (s : State) : (setEntryW i e s).role = s.role := rfl
@[simp] theorem setEntryW_ev (i : Nat) (e : WEntry) (s : State) : (setEntryW i e s).ev = s.ev := rfl
@[simp] theorem setEntryW_evc (i : Nat) (e : WEntry) (s : State) : (setEntryW i e s).evc = s.evc := rfl
@[simp] theorem setEntryW_log (i : Nat) (e : WEntry) (s : State) : (setEntryW i e s).log = s.log := rfl
@[simp] theorem setEntryW_vs (i : Nat) (e : WEntry) (s : State) : (setEntryW i e s).vs = s.vs := rfl
@[simp] theorem setEntryW_eng (i : Nat) (e : WEntry) (s : State) : (setEntryW i e s).eng = s.eng := rfl
@[simp] theorem setEntryW_entries (i : Nat) (e : WEntry) (s : State) : (setEntryW i e s).entries = s.entries := rfl
@[simp] theorem setEntryW_iq (i : Nat) (e : WEntry) (s : State) : (setEntryW i e s).iq = s.iq := rfl
@[simp] theorem setEntryW_pamap (i : Nat) (e : WEntry) (s : State) : (setEntryW i e s).pamap = s.pamap := rfl
@[simp] theorem setEntryW_cores (i : Nat) (e : WEntry) (s : State) : (setEntryW i e s).cores = s.cores := rfl
@[simp] theorem setEntryW_weado (i : Nat) (e : WEntry) (s : State) : (setEntryW i e s).weado = s.weado := rfl
@[simp] theorem setEntryW_rings (i : Nat) (e : WEntry) (s : State) : (setEntryW i e s).rings = { s.rings with entries := Tab.insert s.rings.entries i e } := rfl
@[simp] theorem setEntryW_dma (i : Nat) (e : WEntry) (s : State) : (setEntryW i e s).dma = s.dma := rfl
@[simp] theorem setEntryW_troupe (i : Nat) (e : WEntry) (s : State) : (setEntryW i e s).troupe = s.troupe := rfl
@[simp] theorem setEntryW_pair (i : Nat) (e : WEntry) (s : State) : (setEntryW i e s).pair = s.pair := rfl
@[simp] theorem setEntryW_rst (i : Nat) (e : WEntry) (s : State) : (setEntryW i e s).rst = s.rst := rfl
@[simp] theorem setEntryW_cal (i : Nat) (e : WEntry) (s : State) : (setEntryW i e s).cal = s.cal := rfl
@[simp] theorem setEntryW_pwr (i : Nat) (e : WEntry) (s : State) : (setEntryW i e s).pwr = s.pwr := rfl
@[simp] theorem setEntryW_supv (i : Nat) (e : WEntry) (s : State) : (setEntryW i e s).supv = s.supv := rfl
@[simp] theorem setEntryW_fuses (i : Nat) (e : WEntry) (s : State) : (setEntryW i e s).fuses = s.fuses := rfl
@[simp] theorem setEntryW_boot (i : Nat) (e : WEntry) (s : State) : (setEntryW i e s).boot = s.boot := rfl
@[simp] theorem setEntryW_auth (i : Nat) (e : WEntry) (s : State) : (setEntryW i e s).auth = s.auth := rfl
@[simp] theorem setEntryW_panel (i : Nat) (e : WEntry) (s : State) : (setEntryW i e s).panel = s.panel := rfl
@[simp] theorem setEntryW_wds (i : Nat) (e : WEntry) (s : State) : (setEntryW i e s).wds = s.wds := rfl
@[simp] theorem setEntryW_twd (i : Nat) (e : WEntry) (s : State) : (setEntryW i e s).twd = s.twd := rfl
@[simp] theorem setEntryW_wrap (i : Nat) (e : WEntry) (s : State) : (setEntryW i e s).wrap = s.wrap := rfl
@[simp] theorem setEntryW_ports (i : Nat) (e : WEntry) (s : State) : (setEntryW i e s).ports = s.ports := rfl
@[simp] theorem setEntryW_free (i : Nat) (e : WEntry) (s : State) : (setEntryW i e s).free = s.free := rfl
@[simp] theorem setEntryW_pending (i : Nat) (e : WEntry) (s : State) : (setEntryW i e s).pending = s.pending := rfl

/-! ## setChan -/

@[simp] theorem setChan_id (ch : Fin 64) (k : Chan) (s : State) : (setChan ch k s).id = s.id := rfl
@[simp] theorem setChan_role (ch : Fin 64) (k : Chan) (s : State) : (setChan ch k s).role = s.role := rfl
@[simp] theorem setChan_ev (ch : Fin 64) (k : Chan) (s : State) : (setChan ch k s).ev = s.ev := rfl
@[simp] theorem setChan_evc (ch : Fin 64) (k : Chan) (s : State) : (setChan ch k s).evc = s.evc := rfl
@[simp] theorem setChan_log (ch : Fin 64) (k : Chan) (s : State) : (setChan ch k s).log = s.log := rfl
@[simp] theorem setChan_vs (ch : Fin 64) (k : Chan) (s : State) : (setChan ch k s).vs = s.vs := rfl
@[simp] theorem setChan_eng (ch : Fin 64) (k : Chan) (s : State) : (setChan ch k s).eng = s.eng := rfl
@[simp] theorem setChan_entries (ch : Fin 64) (k : Chan) (s : State) : (setChan ch k s).entries = s.entries := rfl
@[simp] theorem setChan_iq (ch : Fin 64) (k : Chan) (s : State) : (setChan ch k s).iq = s.iq := rfl
@[simp] theorem setChan_pamap (ch : Fin 64) (k : Chan) (s : State) : (setChan ch k s).pamap = s.pamap := rfl
@[simp] theorem setChan_cores (ch : Fin 64) (k : Chan) (s : State) : (setChan ch k s).cores = s.cores := rfl
@[simp] theorem setChan_weado (ch : Fin 64) (k : Chan) (s : State) : (setChan ch k s).weado = s.weado := rfl
@[simp] theorem setChan_rings (ch : Fin 64) (k : Chan) (s : State) : (setChan ch k s).rings = s.rings := rfl
@[simp] theorem setChan_dma (ch : Fin 64) (k : Chan) (s : State) : (setChan ch k s).dma = { s.dma with chans := Tab.set (chan0 ch.val) s.dma.chans ch.val k } := rfl
@[simp] theorem setChan_troupe (ch : Fin 64) (k : Chan) (s : State) : (setChan ch k s).troupe = s.troupe := rfl
@[simp] theorem setChan_pair (ch : Fin 64) (k : Chan) (s : State) : (setChan ch k s).pair = s.pair := rfl
@[simp] theorem setChan_rst (ch : Fin 64) (k : Chan) (s : State) : (setChan ch k s).rst = s.rst := rfl
@[simp] theorem setChan_cal (ch : Fin 64) (k : Chan) (s : State) : (setChan ch k s).cal = s.cal := rfl
@[simp] theorem setChan_pwr (ch : Fin 64) (k : Chan) (s : State) : (setChan ch k s).pwr = s.pwr := rfl
@[simp] theorem setChan_supv (ch : Fin 64) (k : Chan) (s : State) : (setChan ch k s).supv = s.supv := rfl
@[simp] theorem setChan_fuses (ch : Fin 64) (k : Chan) (s : State) : (setChan ch k s).fuses = s.fuses := rfl
@[simp] theorem setChan_boot (ch : Fin 64) (k : Chan) (s : State) : (setChan ch k s).boot = s.boot := rfl
@[simp] theorem setChan_auth (ch : Fin 64) (k : Chan) (s : State) : (setChan ch k s).auth = s.auth := rfl
@[simp] theorem setChan_panel (ch : Fin 64) (k : Chan) (s : State) : (setChan ch k s).panel = s.panel := rfl
@[simp] theorem setChan_wds (ch : Fin 64) (k : Chan) (s : State) : (setChan ch k s).wds = s.wds := rfl
@[simp] theorem setChan_twd (ch : Fin 64) (k : Chan) (s : State) : (setChan ch k s).twd = s.twd := rfl
@[simp] theorem setChan_wrap (ch : Fin 64) (k : Chan) (s : State) : (setChan ch k s).wrap = s.wrap := rfl
@[simp] theorem setChan_ports (ch : Fin 64) (k : Chan) (s : State) : (setChan ch k s).ports = s.ports := rfl
@[simp] theorem setChan_free (ch : Fin 64) (k : Chan) (s : State) : (setChan ch k s).free = s.free := rfl
@[simp] theorem setChan_pending (ch : Fin 64) (k : Chan) (s : State) : (setChan ch k s).pending = s.pending := rfl

/-! ## withTroupe -/

@[simp] theorem withTroupe_id (f : Troupe → Troupe) (s : State) : (withTroupe f s).id = s.id := rfl
@[simp] theorem withTroupe_role (f : Troupe → Troupe) (s : State) : (withTroupe f s).role = s.role := rfl
@[simp] theorem withTroupe_ev (f : Troupe → Troupe) (s : State) : (withTroupe f s).ev = s.ev := rfl
@[simp] theorem withTroupe_evc (f : Troupe → Troupe) (s : State) : (withTroupe f s).evc = s.evc := rfl
@[simp] theorem withTroupe_log (f : Troupe → Troupe) (s : State) : (withTroupe f s).log = s.log := rfl
@[simp] theorem withTroupe_vs (f : Troupe → Troupe) (s : State) : (withTroupe f s).vs = s.vs := rfl
@[simp] theorem withTroupe_eng (f : Troupe → Troupe) (s : State) : (withTroupe f s).eng = s.eng := rfl
@[simp] theorem withTroupe_entries (f : Troupe → Troupe) (s : State) : (withTroupe f s).entries = s.entries := rfl
@[simp] theorem withTroupe_iq (f : Troupe → Troupe) (s : State) : (withTroupe f s).iq = s.iq := rfl
@[simp] theorem withTroupe_pamap (f : Troupe → Troupe) (s : State) : (withTroupe f s).pamap = s.pamap := rfl
@[simp] theorem withTroupe_cores (f : Troupe → Troupe) (s : State) : (withTroupe f s).cores = s.cores := rfl
@[simp] theorem withTroupe_weado (f : Troupe → Troupe) (s : State) : (withTroupe f s).weado = s.weado := rfl
@[simp] theorem withTroupe_rings (f : Troupe → Troupe) (s : State) : (withTroupe f s).rings = s.rings := rfl
@[simp] theorem withTroupe_dma (f : Troupe → Troupe) (s : State) : (withTroupe f s).dma = s.dma := rfl
@[simp] theorem withTroupe_troupe (f : Troupe → Troupe) (s : State) : (withTroupe f s).troupe = f s.troupe := rfl
@[simp] theorem withTroupe_pair (f : Troupe → Troupe) (s : State) : (withTroupe f s).pair = s.pair := rfl
@[simp] theorem withTroupe_rst (f : Troupe → Troupe) (s : State) : (withTroupe f s).rst = s.rst := rfl
@[simp] theorem withTroupe_cal (f : Troupe → Troupe) (s : State) : (withTroupe f s).cal = s.cal := rfl
@[simp] theorem withTroupe_pwr (f : Troupe → Troupe) (s : State) : (withTroupe f s).pwr = s.pwr := rfl
@[simp] theorem withTroupe_supv (f : Troupe → Troupe) (s : State) : (withTroupe f s).supv = s.supv := rfl
@[simp] theorem withTroupe_fuses (f : Troupe → Troupe) (s : State) : (withTroupe f s).fuses = s.fuses := rfl
@[simp] theorem withTroupe_boot (f : Troupe → Troupe) (s : State) : (withTroupe f s).boot = s.boot := rfl
@[simp] theorem withTroupe_auth (f : Troupe → Troupe) (s : State) : (withTroupe f s).auth = s.auth := rfl
@[simp] theorem withTroupe_panel (f : Troupe → Troupe) (s : State) : (withTroupe f s).panel = s.panel := rfl
@[simp] theorem withTroupe_wds (f : Troupe → Troupe) (s : State) : (withTroupe f s).wds = s.wds := rfl
@[simp] theorem withTroupe_twd (f : Troupe → Troupe) (s : State) : (withTroupe f s).twd = s.twd := rfl
@[simp] theorem withTroupe_wrap (f : Troupe → Troupe) (s : State) : (withTroupe f s).wrap = s.wrap := rfl
@[simp] theorem withTroupe_ports (f : Troupe → Troupe) (s : State) : (withTroupe f s).ports = s.ports := rfl
@[simp] theorem withTroupe_free (f : Troupe → Troupe) (s : State) : (withTroupe f s).free = s.free := rfl
@[simp] theorem withTroupe_pending (f : Troupe → Troupe) (s : State) : (withTroupe f s).pending = s.pending := rfl

/-! ## setSlot -/

@[simp] theorem setSlot_id (n : BitVec 7) (e : SlotEnt) (s : State) : (setSlot n e s).id = s.id := rfl
@[simp] theorem setSlot_role (n : BitVec 7) (e : SlotEnt) (s : State) : (setSlot n e s).role = s.role := rfl
@[simp] theorem setSlot_ev (n : BitVec 7) (e : SlotEnt) (s : State) : (setSlot n e s).ev = s.ev := rfl
@[simp] theorem setSlot_evc (n : BitVec 7) (e : SlotEnt) (s : State) : (setSlot n e s).evc = s.evc := rfl
@[simp] theorem setSlot_log (n : BitVec 7) (e : SlotEnt) (s : State) : (setSlot n e s).log = s.log := rfl
@[simp] theorem setSlot_vs (n : BitVec 7) (e : SlotEnt) (s : State) : (setSlot n e s).vs = s.vs := rfl
@[simp] theorem setSlot_eng (n : BitVec 7) (e : SlotEnt) (s : State) : (setSlot n e s).eng = s.eng := rfl
@[simp] theorem setSlot_entries (n : BitVec 7) (e : SlotEnt) (s : State) : (setSlot n e s).entries = s.entries := rfl
@[simp] theorem setSlot_iq (n : BitVec 7) (e : SlotEnt) (s : State) : (setSlot n e s).iq = s.iq := rfl
@[simp] theorem setSlot_pamap (n : BitVec 7) (e : SlotEnt) (s : State) : (setSlot n e s).pamap = s.pamap := rfl
@[simp] theorem setSlot_cores (n : BitVec 7) (e : SlotEnt) (s : State) : (setSlot n e s).cores = s.cores := rfl
@[simp] theorem setSlot_weado (n : BitVec 7) (e : SlotEnt) (s : State) : (setSlot n e s).weado = s.weado := rfl
@[simp] theorem setSlot_rings (n : BitVec 7) (e : SlotEnt) (s : State) : (setSlot n e s).rings = s.rings := rfl
@[simp] theorem setSlot_dma (n : BitVec 7) (e : SlotEnt) (s : State) : (setSlot n e s).dma = s.dma := rfl
@[simp] theorem setSlot_troupe (n : BitVec 7) (e : SlotEnt) (s : State) : (setSlot n e s).troupe = { s.troupe with slots := Tab.set slot0T s.troupe.slots n.toNat e } := rfl
@[simp] theorem setSlot_pair (n : BitVec 7) (e : SlotEnt) (s : State) : (setSlot n e s).pair = s.pair := rfl
@[simp] theorem setSlot_rst (n : BitVec 7) (e : SlotEnt) (s : State) : (setSlot n e s).rst = s.rst := rfl
@[simp] theorem setSlot_cal (n : BitVec 7) (e : SlotEnt) (s : State) : (setSlot n e s).cal = s.cal := rfl
@[simp] theorem setSlot_pwr (n : BitVec 7) (e : SlotEnt) (s : State) : (setSlot n e s).pwr = s.pwr := rfl
@[simp] theorem setSlot_supv (n : BitVec 7) (e : SlotEnt) (s : State) : (setSlot n e s).supv = s.supv := rfl
@[simp] theorem setSlot_fuses (n : BitVec 7) (e : SlotEnt) (s : State) : (setSlot n e s).fuses = s.fuses := rfl
@[simp] theorem setSlot_boot (n : BitVec 7) (e : SlotEnt) (s : State) : (setSlot n e s).boot = s.boot := rfl
@[simp] theorem setSlot_auth (n : BitVec 7) (e : SlotEnt) (s : State) : (setSlot n e s).auth = s.auth := rfl
@[simp] theorem setSlot_panel (n : BitVec 7) (e : SlotEnt) (s : State) : (setSlot n e s).panel = s.panel := rfl
@[simp] theorem setSlot_wds (n : BitVec 7) (e : SlotEnt) (s : State) : (setSlot n e s).wds = s.wds := rfl
@[simp] theorem setSlot_twd (n : BitVec 7) (e : SlotEnt) (s : State) : (setSlot n e s).twd = s.twd := rfl
@[simp] theorem setSlot_wrap (n : BitVec 7) (e : SlotEnt) (s : State) : (setSlot n e s).wrap = s.wrap := rfl
@[simp] theorem setSlot_ports (n : BitVec 7) (e : SlotEnt) (s : State) : (setSlot n e s).ports = s.ports := rfl
@[simp] theorem setSlot_free (n : BitVec 7) (e : SlotEnt) (s : State) : (setSlot n e s).free = s.free := rfl
@[simp] theorem setSlot_pending (n : BitVec 7) (e : SlotEnt) (s : State) : (setSlot n e s).pending = s.pending := rfl

/-! ## setBusy -/

@[simp] theorem setBusy_id (b : SlBusy) (r : BitVec 3) (s : State) : (setBusy b r s).id = s.id := rfl
@[simp] theorem setBusy_role (b : SlBusy) (r : BitVec 3) (s : State) : (setBusy b r s).role = s.role := rfl
@[simp] theorem setBusy_ev (b : SlBusy) (r : BitVec 3) (s : State) : (setBusy b r s).ev = s.ev := rfl
@[simp] theorem setBusy_evc (b : SlBusy) (r : BitVec 3) (s : State) : (setBusy b r s).evc = s.evc := rfl
@[simp] theorem setBusy_log (b : SlBusy) (r : BitVec 3) (s : State) : (setBusy b r s).log = s.log := rfl
@[simp] theorem setBusy_vs (b : SlBusy) (r : BitVec 3) (s : State) : (setBusy b r s).vs = s.vs := rfl
@[simp] theorem setBusy_eng (b : SlBusy) (r : BitVec 3) (s : State) : (setBusy b r s).eng = s.eng := rfl
@[simp] theorem setBusy_entries (b : SlBusy) (r : BitVec 3) (s : State) : (setBusy b r s).entries = s.entries := rfl
@[simp] theorem setBusy_iq (b : SlBusy) (r : BitVec 3) (s : State) : (setBusy b r s).iq = s.iq := rfl
@[simp] theorem setBusy_pamap (b : SlBusy) (r : BitVec 3) (s : State) : (setBusy b r s).pamap = s.pamap := rfl
@[simp] theorem setBusy_cores (b : SlBusy) (r : BitVec 3) (s : State) : (setBusy b r s).cores = s.cores := rfl
@[simp] theorem setBusy_weado (b : SlBusy) (r : BitVec 3) (s : State) : (setBusy b r s).weado = s.weado := rfl
@[simp] theorem setBusy_rings (b : SlBusy) (r : BitVec 3) (s : State) : (setBusy b r s).rings = s.rings := rfl
@[simp] theorem setBusy_dma (b : SlBusy) (r : BitVec 3) (s : State) : (setBusy b r s).dma = s.dma := rfl
@[simp] theorem setBusy_troupe (b : SlBusy) (r : BitVec 3) (s : State) : (setBusy b r s).troupe = { s.troupe with busy := b, result := r } := rfl
@[simp] theorem setBusy_pair (b : SlBusy) (r : BitVec 3) (s : State) : (setBusy b r s).pair = s.pair := rfl
@[simp] theorem setBusy_rst (b : SlBusy) (r : BitVec 3) (s : State) : (setBusy b r s).rst = s.rst := rfl
@[simp] theorem setBusy_cal (b : SlBusy) (r : BitVec 3) (s : State) : (setBusy b r s).cal = s.cal := rfl
@[simp] theorem setBusy_pwr (b : SlBusy) (r : BitVec 3) (s : State) : (setBusy b r s).pwr = s.pwr := rfl
@[simp] theorem setBusy_supv (b : SlBusy) (r : BitVec 3) (s : State) : (setBusy b r s).supv = s.supv := rfl
@[simp] theorem setBusy_fuses (b : SlBusy) (r : BitVec 3) (s : State) : (setBusy b r s).fuses = s.fuses := rfl
@[simp] theorem setBusy_boot (b : SlBusy) (r : BitVec 3) (s : State) : (setBusy b r s).boot = s.boot := rfl
@[simp] theorem setBusy_auth (b : SlBusy) (r : BitVec 3) (s : State) : (setBusy b r s).auth = s.auth := rfl
@[simp] theorem setBusy_panel (b : SlBusy) (r : BitVec 3) (s : State) : (setBusy b r s).panel = s.panel := rfl
@[simp] theorem setBusy_wds (b : SlBusy) (r : BitVec 3) (s : State) : (setBusy b r s).wds = s.wds := rfl
@[simp] theorem setBusy_twd (b : SlBusy) (r : BitVec 3) (s : State) : (setBusy b r s).twd = s.twd := rfl
@[simp] theorem setBusy_wrap (b : SlBusy) (r : BitVec 3) (s : State) : (setBusy b r s).wrap = s.wrap := rfl
@[simp] theorem setBusy_ports (b : SlBusy) (r : BitVec 3) (s : State) : (setBusy b r s).ports = s.ports := rfl
@[simp] theorem setBusy_free (b : SlBusy) (r : BitVec 3) (s : State) : (setBusy b r s).free = s.free := rfl
@[simp] theorem setBusy_pending (b : SlBusy) (r : BitVec 3) (s : State) : (setBusy b r s).pending = s.pending := rfl

/-! ## setRole -/

@[simp] theorem setRole_id (r : TileRole) (s : State) : (setRole r s).id = s.id := rfl
@[simp] theorem setRole_role (r : TileRole) (s : State) : (setRole r s).role = r := rfl
@[simp] theorem setRole_ev (r : TileRole) (s : State) : (setRole r s).ev = s.ev := rfl
@[simp] theorem setRole_evc (r : TileRole) (s : State) : (setRole r s).evc = s.evc := rfl
@[simp] theorem setRole_log (r : TileRole) (s : State) : (setRole r s).log = s.log := rfl
@[simp] theorem setRole_vs (r : TileRole) (s : State) : (setRole r s).vs = s.vs := rfl
@[simp] theorem setRole_eng (r : TileRole) (s : State) : (setRole r s).eng = s.eng := rfl
@[simp] theorem setRole_entries (r : TileRole) (s : State) : (setRole r s).entries = s.entries := rfl
@[simp] theorem setRole_iq (r : TileRole) (s : State) : (setRole r s).iq = s.iq := rfl
@[simp] theorem setRole_pamap (r : TileRole) (s : State) : (setRole r s).pamap = s.pamap := rfl
@[simp] theorem setRole_cores (r : TileRole) (s : State) : (setRole r s).cores = s.cores := rfl
@[simp] theorem setRole_weado (r : TileRole) (s : State) : (setRole r s).weado = s.weado := rfl
@[simp] theorem setRole_rings (r : TileRole) (s : State) : (setRole r s).rings = s.rings := rfl
@[simp] theorem setRole_dma (r : TileRole) (s : State) : (setRole r s).dma = s.dma := rfl
@[simp] theorem setRole_troupe (r : TileRole) (s : State) : (setRole r s).troupe = s.troupe := rfl
@[simp] theorem setRole_pair (r : TileRole) (s : State) : (setRole r s).pair = s.pair := rfl
@[simp] theorem setRole_rst (r : TileRole) (s : State) : (setRole r s).rst = s.rst := rfl
@[simp] theorem setRole_cal (r : TileRole) (s : State) : (setRole r s).cal = s.cal := rfl
@[simp] theorem setRole_pwr (r : TileRole) (s : State) : (setRole r s).pwr = s.pwr := rfl
@[simp] theorem setRole_supv (r : TileRole) (s : State) : (setRole r s).supv = s.supv := rfl
@[simp] theorem setRole_fuses (r : TileRole) (s : State) : (setRole r s).fuses = s.fuses := rfl
@[simp] theorem setRole_boot (r : TileRole) (s : State) : (setRole r s).boot = s.boot := rfl
@[simp] theorem setRole_auth (r : TileRole) (s : State) : (setRole r s).auth = s.auth := rfl
@[simp] theorem setRole_panel (r : TileRole) (s : State) : (setRole r s).panel = s.panel := rfl
@[simp] theorem setRole_wds (r : TileRole) (s : State) : (setRole r s).wds = s.wds := rfl
@[simp] theorem setRole_twd (r : TileRole) (s : State) : (setRole r s).twd = s.twd := rfl
@[simp] theorem setRole_wrap (r : TileRole) (s : State) : (setRole r s).wrap = s.wrap := rfl
@[simp] theorem setRole_ports (r : TileRole) (s : State) : (setRole r s).ports = s.ports := rfl
@[simp] theorem setRole_free (r : TileRole) (s : State) : (setRole r s).free = s.free := rfl
@[simp] theorem setRole_pending (r : TileRole) (s : State) : (setRole r s).pending = s.pending := rfl

/-! ## setPair -/

@[simp] theorem setPair_id (p : Pair) (s : State) : (setPair p s).id = s.id := rfl
@[simp] theorem setPair_role (p : Pair) (s : State) : (setPair p s).role = s.role := rfl
@[simp] theorem setPair_ev (p : Pair) (s : State) : (setPair p s).ev = s.ev := rfl
@[simp] theorem setPair_evc (p : Pair) (s : State) : (setPair p s).evc = s.evc := rfl
@[simp] theorem setPair_log (p : Pair) (s : State) : (setPair p s).log = s.log := rfl
@[simp] theorem setPair_vs (p : Pair) (s : State) : (setPair p s).vs = s.vs := rfl
@[simp] theorem setPair_eng (p : Pair) (s : State) : (setPair p s).eng = s.eng := rfl
@[simp] theorem setPair_entries (p : Pair) (s : State) : (setPair p s).entries = s.entries := rfl
@[simp] theorem setPair_iq (p : Pair) (s : State) : (setPair p s).iq = s.iq := rfl
@[simp] theorem setPair_pamap (p : Pair) (s : State) : (setPair p s).pamap = s.pamap := rfl
@[simp] theorem setPair_cores (p : Pair) (s : State) : (setPair p s).cores = s.cores := rfl
@[simp] theorem setPair_weado (p : Pair) (s : State) : (setPair p s).weado = s.weado := rfl
@[simp] theorem setPair_rings (p : Pair) (s : State) : (setPair p s).rings = s.rings := rfl
@[simp] theorem setPair_dma (p : Pair) (s : State) : (setPair p s).dma = s.dma := rfl
@[simp] theorem setPair_troupe (p : Pair) (s : State) : (setPair p s).troupe = s.troupe := rfl
@[simp] theorem setPair_pair (p : Pair) (s : State) : (setPair p s).pair = p := rfl
@[simp] theorem setPair_rst (p : Pair) (s : State) : (setPair p s).rst = s.rst := rfl
@[simp] theorem setPair_cal (p : Pair) (s : State) : (setPair p s).cal = s.cal := rfl
@[simp] theorem setPair_pwr (p : Pair) (s : State) : (setPair p s).pwr = s.pwr := rfl
@[simp] theorem setPair_supv (p : Pair) (s : State) : (setPair p s).supv = s.supv := rfl
@[simp] theorem setPair_fuses (p : Pair) (s : State) : (setPair p s).fuses = s.fuses := rfl
@[simp] theorem setPair_boot (p : Pair) (s : State) : (setPair p s).boot = s.boot := rfl
@[simp] theorem setPair_auth (p : Pair) (s : State) : (setPair p s).auth = s.auth := rfl
@[simp] theorem setPair_panel (p : Pair) (s : State) : (setPair p s).panel = s.panel := rfl
@[simp] theorem setPair_wds (p : Pair) (s : State) : (setPair p s).wds = s.wds := rfl
@[simp] theorem setPair_twd (p : Pair) (s : State) : (setPair p s).twd = s.twd := rfl
@[simp] theorem setPair_wrap (p : Pair) (s : State) : (setPair p s).wrap = s.wrap := rfl
@[simp] theorem setPair_ports (p : Pair) (s : State) : (setPair p s).ports = s.ports := rfl
@[simp] theorem setPair_free (p : Pair) (s : State) : (setPair p s).free = s.free := rfl
@[simp] theorem setPair_pending (p : Pair) (s : State) : (setPair p s).pending = s.pending := rfl

/-! ## setRst -/

@[simp] theorem setRst_id (r : ResetClk) (s : State) : (setRst r s).id = s.id := rfl
@[simp] theorem setRst_role (r : ResetClk) (s : State) : (setRst r s).role = s.role := rfl
@[simp] theorem setRst_ev (r : ResetClk) (s : State) : (setRst r s).ev = s.ev := rfl
@[simp] theorem setRst_evc (r : ResetClk) (s : State) : (setRst r s).evc = s.evc := rfl
@[simp] theorem setRst_log (r : ResetClk) (s : State) : (setRst r s).log = s.log := rfl
@[simp] theorem setRst_vs (r : ResetClk) (s : State) : (setRst r s).vs = s.vs := rfl
@[simp] theorem setRst_eng (r : ResetClk) (s : State) : (setRst r s).eng = s.eng := rfl
@[simp] theorem setRst_entries (r : ResetClk) (s : State) : (setRst r s).entries = s.entries := rfl
@[simp] theorem setRst_iq (r : ResetClk) (s : State) : (setRst r s).iq = s.iq := rfl
@[simp] theorem setRst_pamap (r : ResetClk) (s : State) : (setRst r s).pamap = s.pamap := rfl
@[simp] theorem setRst_cores (r : ResetClk) (s : State) : (setRst r s).cores = s.cores := rfl
@[simp] theorem setRst_weado (r : ResetClk) (s : State) : (setRst r s).weado = s.weado := rfl
@[simp] theorem setRst_rings (r : ResetClk) (s : State) : (setRst r s).rings = s.rings := rfl
@[simp] theorem setRst_dma (r : ResetClk) (s : State) : (setRst r s).dma = s.dma := rfl
@[simp] theorem setRst_troupe (r : ResetClk) (s : State) : (setRst r s).troupe = s.troupe := rfl
@[simp] theorem setRst_pair (r : ResetClk) (s : State) : (setRst r s).pair = s.pair := rfl
@[simp] theorem setRst_rst (r : ResetClk) (s : State) : (setRst r s).rst = r := rfl
@[simp] theorem setRst_cal (r : ResetClk) (s : State) : (setRst r s).cal = s.cal := rfl
@[simp] theorem setRst_pwr (r : ResetClk) (s : State) : (setRst r s).pwr = s.pwr := rfl
@[simp] theorem setRst_supv (r : ResetClk) (s : State) : (setRst r s).supv = s.supv := rfl
@[simp] theorem setRst_fuses (r : ResetClk) (s : State) : (setRst r s).fuses = s.fuses := rfl
@[simp] theorem setRst_boot (r : ResetClk) (s : State) : (setRst r s).boot = s.boot := rfl
@[simp] theorem setRst_auth (r : ResetClk) (s : State) : (setRst r s).auth = s.auth := rfl
@[simp] theorem setRst_panel (r : ResetClk) (s : State) : (setRst r s).panel = s.panel := rfl
@[simp] theorem setRst_wds (r : ResetClk) (s : State) : (setRst r s).wds = s.wds := rfl
@[simp] theorem setRst_twd (r : ResetClk) (s : State) : (setRst r s).twd = s.twd := rfl
@[simp] theorem setRst_wrap (r : ResetClk) (s : State) : (setRst r s).wrap = s.wrap := rfl
@[simp] theorem setRst_ports (r : ResetClk) (s : State) : (setRst r s).ports = s.ports := rfl
@[simp] theorem setRst_free (r : ResetClk) (s : State) : (setRst r s).free = s.free := rfl
@[simp] theorem setRst_pending (r : ResetClk) (s : State) : (setRst r s).pending = s.pending := rfl

/-! ## setCal -/

@[simp] theorem setCal_id (c : Calib) (s : State) : (setCal c s).id = s.id := rfl
@[simp] theorem setCal_role (c : Calib) (s : State) : (setCal c s).role = s.role := rfl
@[simp] theorem setCal_ev (c : Calib) (s : State) : (setCal c s).ev = s.ev := rfl
@[simp] theorem setCal_evc (c : Calib) (s : State) : (setCal c s).evc = s.evc := rfl
@[simp] theorem setCal_log (c : Calib) (s : State) : (setCal c s).log = s.log := rfl
@[simp] theorem setCal_vs (c : Calib) (s : State) : (setCal c s).vs = s.vs := rfl
@[simp] theorem setCal_eng (c : Calib) (s : State) : (setCal c s).eng = s.eng := rfl
@[simp] theorem setCal_entries (c : Calib) (s : State) : (setCal c s).entries = s.entries := rfl
@[simp] theorem setCal_iq (c : Calib) (s : State) : (setCal c s).iq = s.iq := rfl
@[simp] theorem setCal_pamap (c : Calib) (s : State) : (setCal c s).pamap = s.pamap := rfl
@[simp] theorem setCal_cores (c : Calib) (s : State) : (setCal c s).cores = s.cores := rfl
@[simp] theorem setCal_weado (c : Calib) (s : State) : (setCal c s).weado = s.weado := rfl
@[simp] theorem setCal_rings (c : Calib) (s : State) : (setCal c s).rings = s.rings := rfl
@[simp] theorem setCal_dma (c : Calib) (s : State) : (setCal c s).dma = s.dma := rfl
@[simp] theorem setCal_troupe (c : Calib) (s : State) : (setCal c s).troupe = s.troupe := rfl
@[simp] theorem setCal_pair (c : Calib) (s : State) : (setCal c s).pair = s.pair := rfl
@[simp] theorem setCal_rst (c : Calib) (s : State) : (setCal c s).rst = s.rst := rfl
@[simp] theorem setCal_cal (c : Calib) (s : State) : (setCal c s).cal = c := rfl
@[simp] theorem setCal_pwr (c : Calib) (s : State) : (setCal c s).pwr = s.pwr := rfl
@[simp] theorem setCal_supv (c : Calib) (s : State) : (setCal c s).supv = s.supv := rfl
@[simp] theorem setCal_fuses (c : Calib) (s : State) : (setCal c s).fuses = s.fuses := rfl
@[simp] theorem setCal_boot (c : Calib) (s : State) : (setCal c s).boot = s.boot := rfl
@[simp] theorem setCal_auth (c : Calib) (s : State) : (setCal c s).auth = s.auth := rfl
@[simp] theorem setCal_panel (c : Calib) (s : State) : (setCal c s).panel = s.panel := rfl
@[simp] theorem setCal_wds (c : Calib) (s : State) : (setCal c s).wds = s.wds := rfl
@[simp] theorem setCal_twd (c : Calib) (s : State) : (setCal c s).twd = s.twd := rfl
@[simp] theorem setCal_wrap (c : Calib) (s : State) : (setCal c s).wrap = s.wrap := rfl
@[simp] theorem setCal_ports (c : Calib) (s : State) : (setCal c s).ports = s.ports := rfl
@[simp] theorem setCal_free (c : Calib) (s : State) : (setCal c s).free = s.free := rfl
@[simp] theorem setCal_pending (c : Calib) (s : State) : (setCal c s).pending = s.pending := rfl

/-! ## setPwr -/

@[simp] theorem setPwr_id (p : Power) (s : State) : (setPwr p s).id = s.id := rfl
@[simp] theorem setPwr_role (p : Power) (s : State) : (setPwr p s).role = s.role := rfl
@[simp] theorem setPwr_ev (p : Power) (s : State) : (setPwr p s).ev = s.ev := rfl
@[simp] theorem setPwr_evc (p : Power) (s : State) : (setPwr p s).evc = s.evc := rfl
@[simp] theorem setPwr_log (p : Power) (s : State) : (setPwr p s).log = s.log := rfl
@[simp] theorem setPwr_vs (p : Power) (s : State) : (setPwr p s).vs = s.vs := rfl
@[simp] theorem setPwr_eng (p : Power) (s : State) : (setPwr p s).eng = s.eng := rfl
@[simp] theorem setPwr_entries (p : Power) (s : State) : (setPwr p s).entries = s.entries := rfl
@[simp] theorem setPwr_iq (p : Power) (s : State) : (setPwr p s).iq = s.iq := rfl
@[simp] theorem setPwr_pamap (p : Power) (s : State) : (setPwr p s).pamap = s.pamap := rfl
@[simp] theorem setPwr_cores (p : Power) (s : State) : (setPwr p s).cores = s.cores := rfl
@[simp] theorem setPwr_weado (p : Power) (s : State) : (setPwr p s).weado = s.weado := rfl
@[simp] theorem setPwr_rings (p : Power) (s : State) : (setPwr p s).rings = s.rings := rfl
@[simp] theorem setPwr_dma (p : Power) (s : State) : (setPwr p s).dma = s.dma := rfl
@[simp] theorem setPwr_troupe (p : Power) (s : State) : (setPwr p s).troupe = s.troupe := rfl
@[simp] theorem setPwr_pair (p : Power) (s : State) : (setPwr p s).pair = s.pair := rfl
@[simp] theorem setPwr_rst (p : Power) (s : State) : (setPwr p s).rst = s.rst := rfl
@[simp] theorem setPwr_cal (p : Power) (s : State) : (setPwr p s).cal = s.cal := rfl
@[simp] theorem setPwr_pwr (p : Power) (s : State) : (setPwr p s).pwr = p := rfl
@[simp] theorem setPwr_supv (p : Power) (s : State) : (setPwr p s).supv = s.supv := rfl
@[simp] theorem setPwr_fuses (p : Power) (s : State) : (setPwr p s).fuses = s.fuses := rfl
@[simp] theorem setPwr_boot (p : Power) (s : State) : (setPwr p s).boot = s.boot := rfl
@[simp] theorem setPwr_auth (p : Power) (s : State) : (setPwr p s).auth = s.auth := rfl
@[simp] theorem setPwr_panel (p : Power) (s : State) : (setPwr p s).panel = s.panel := rfl
@[simp] theorem setPwr_wds (p : Power) (s : State) : (setPwr p s).wds = s.wds := rfl
@[simp] theorem setPwr_twd (p : Power) (s : State) : (setPwr p s).twd = s.twd := rfl
@[simp] theorem setPwr_wrap (p : Power) (s : State) : (setPwr p s).wrap = s.wrap := rfl
@[simp] theorem setPwr_ports (p : Power) (s : State) : (setPwr p s).ports = s.ports := rfl
@[simp] theorem setPwr_free (p : Power) (s : State) : (setPwr p s).free = s.free := rfl
@[simp] theorem setPwr_pending (p : Power) (s : State) : (setPwr p s).pending = s.pending := rfl

/-! ## setFuses -/

@[simp] theorem setFuses_id (f : Fuses) (s : State) : (setFuses f s).id = s.id := rfl
@[simp] theorem setFuses_role (f : Fuses) (s : State) : (setFuses f s).role = s.role := rfl
@[simp] theorem setFuses_ev (f : Fuses) (s : State) : (setFuses f s).ev = s.ev := rfl
@[simp] theorem setFuses_evc (f : Fuses) (s : State) : (setFuses f s).evc = s.evc := rfl
@[simp] theorem setFuses_log (f : Fuses) (s : State) : (setFuses f s).log = s.log := rfl
@[simp] theorem setFuses_vs (f : Fuses) (s : State) : (setFuses f s).vs = s.vs := rfl
@[simp] theorem setFuses_eng (f : Fuses) (s : State) : (setFuses f s).eng = s.eng := rfl
@[simp] theorem setFuses_entries (f : Fuses) (s : State) : (setFuses f s).entries = s.entries := rfl
@[simp] theorem setFuses_iq (f : Fuses) (s : State) : (setFuses f s).iq = s.iq := rfl
@[simp] theorem setFuses_pamap (f : Fuses) (s : State) : (setFuses f s).pamap = s.pamap := rfl
@[simp] theorem setFuses_cores (f : Fuses) (s : State) : (setFuses f s).cores = s.cores := rfl
@[simp] theorem setFuses_weado (f : Fuses) (s : State) : (setFuses f s).weado = s.weado := rfl
@[simp] theorem setFuses_rings (f : Fuses) (s : State) : (setFuses f s).rings = s.rings := rfl
@[simp] theorem setFuses_dma (f : Fuses) (s : State) : (setFuses f s).dma = s.dma := rfl
@[simp] theorem setFuses_troupe (f : Fuses) (s : State) : (setFuses f s).troupe = s.troupe := rfl
@[simp] theorem setFuses_pair (f : Fuses) (s : State) : (setFuses f s).pair = s.pair := rfl
@[simp] theorem setFuses_rst (f : Fuses) (s : State) : (setFuses f s).rst = s.rst := rfl
@[simp] theorem setFuses_cal (f : Fuses) (s : State) : (setFuses f s).cal = s.cal := rfl
@[simp] theorem setFuses_pwr (f : Fuses) (s : State) : (setFuses f s).pwr = s.pwr := rfl
@[simp] theorem setFuses_supv (f : Fuses) (s : State) : (setFuses f s).supv = s.supv := rfl
@[simp] theorem setFuses_fuses (f : Fuses) (s : State) : (setFuses f s).fuses = f := rfl
@[simp] theorem setFuses_boot (f : Fuses) (s : State) : (setFuses f s).boot = s.boot := rfl
@[simp] theorem setFuses_auth (f : Fuses) (s : State) : (setFuses f s).auth = s.auth := rfl
@[simp] theorem setFuses_panel (f : Fuses) (s : State) : (setFuses f s).panel = s.panel := rfl
@[simp] theorem setFuses_wds (f : Fuses) (s : State) : (setFuses f s).wds = s.wds := rfl
@[simp] theorem setFuses_twd (f : Fuses) (s : State) : (setFuses f s).twd = s.twd := rfl
@[simp] theorem setFuses_wrap (f : Fuses) (s : State) : (setFuses f s).wrap = s.wrap := rfl
@[simp] theorem setFuses_ports (f : Fuses) (s : State) : (setFuses f s).ports = s.ports := rfl
@[simp] theorem setFuses_free (f : Fuses) (s : State) : (setFuses f s).free = s.free := rfl
@[simp] theorem setFuses_pending (f : Fuses) (s : State) : (setFuses f s).pending = s.pending := rfl

/-! ## setBoot -/

@[simp] theorem setBoot_id (b : Boot) (s : State) : (setBoot b s).id = s.id := rfl
@[simp] theorem setBoot_role (b : Boot) (s : State) : (setBoot b s).role = s.role := rfl
@[simp] theorem setBoot_ev (b : Boot) (s : State) : (setBoot b s).ev = s.ev := rfl
@[simp] theorem setBoot_evc (b : Boot) (s : State) : (setBoot b s).evc = s.evc := rfl
@[simp] theorem setBoot_log (b : Boot) (s : State) : (setBoot b s).log = s.log := rfl
@[simp] theorem setBoot_vs (b : Boot) (s : State) : (setBoot b s).vs = s.vs := rfl
@[simp] theorem setBoot_eng (b : Boot) (s : State) : (setBoot b s).eng = s.eng := rfl
@[simp] theorem setBoot_entries (b : Boot) (s : State) : (setBoot b s).entries = s.entries := rfl
@[simp] theorem setBoot_iq (b : Boot) (s : State) : (setBoot b s).iq = s.iq := rfl
@[simp] theorem setBoot_pamap (b : Boot) (s : State) : (setBoot b s).pamap = s.pamap := rfl
@[simp] theorem setBoot_cores (b : Boot) (s : State) : (setBoot b s).cores = s.cores := rfl
@[simp] theorem setBoot_weado (b : Boot) (s : State) : (setBoot b s).weado = s.weado := rfl
@[simp] theorem setBoot_rings (b : Boot) (s : State) : (setBoot b s).rings = s.rings := rfl
@[simp] theorem setBoot_dma (b : Boot) (s : State) : (setBoot b s).dma = s.dma := rfl
@[simp] theorem setBoot_troupe (b : Boot) (s : State) : (setBoot b s).troupe = s.troupe := rfl
@[simp] theorem setBoot_pair (b : Boot) (s : State) : (setBoot b s).pair = s.pair := rfl
@[simp] theorem setBoot_rst (b : Boot) (s : State) : (setBoot b s).rst = s.rst := rfl
@[simp] theorem setBoot_cal (b : Boot) (s : State) : (setBoot b s).cal = s.cal := rfl
@[simp] theorem setBoot_pwr (b : Boot) (s : State) : (setBoot b s).pwr = s.pwr := rfl
@[simp] theorem setBoot_supv (b : Boot) (s : State) : (setBoot b s).supv = s.supv := rfl
@[simp] theorem setBoot_fuses (b : Boot) (s : State) : (setBoot b s).fuses = s.fuses := rfl
@[simp] theorem setBoot_boot (b : Boot) (s : State) : (setBoot b s).boot = b := rfl
@[simp] theorem setBoot_auth (b : Boot) (s : State) : (setBoot b s).auth = s.auth := rfl
@[simp] theorem setBoot_panel (b : Boot) (s : State) : (setBoot b s).panel = s.panel := rfl
@[simp] theorem setBoot_wds (b : Boot) (s : State) : (setBoot b s).wds = s.wds := rfl
@[simp] theorem setBoot_twd (b : Boot) (s : State) : (setBoot b s).twd = s.twd := rfl
@[simp] theorem setBoot_wrap (b : Boot) (s : State) : (setBoot b s).wrap = s.wrap := rfl
@[simp] theorem setBoot_ports (b : Boot) (s : State) : (setBoot b s).ports = s.ports := rfl
@[simp] theorem setBoot_free (b : Boot) (s : State) : (setBoot b s).free = s.free := rfl
@[simp] theorem setBoot_pending (b : Boot) (s : State) : (setBoot b s).pending = s.pending := rfl

/-! ## setAuth -/

@[simp] theorem setAuth_id (a : DbgAuth) (s : State) : (setAuth a s).id = s.id := rfl
@[simp] theorem setAuth_role (a : DbgAuth) (s : State) : (setAuth a s).role = s.role := rfl
@[simp] theorem setAuth_ev (a : DbgAuth) (s : State) : (setAuth a s).ev = s.ev := rfl
@[simp] theorem setAuth_evc (a : DbgAuth) (s : State) : (setAuth a s).evc = s.evc := rfl
@[simp] theorem setAuth_log (a : DbgAuth) (s : State) : (setAuth a s).log = s.log := rfl
@[simp] theorem setAuth_vs (a : DbgAuth) (s : State) : (setAuth a s).vs = s.vs := rfl
@[simp] theorem setAuth_eng (a : DbgAuth) (s : State) : (setAuth a s).eng = s.eng := rfl
@[simp] theorem setAuth_entries (a : DbgAuth) (s : State) : (setAuth a s).entries = s.entries := rfl
@[simp] theorem setAuth_iq (a : DbgAuth) (s : State) : (setAuth a s).iq = s.iq := rfl
@[simp] theorem setAuth_pamap (a : DbgAuth) (s : State) : (setAuth a s).pamap = s.pamap := rfl
@[simp] theorem setAuth_cores (a : DbgAuth) (s : State) : (setAuth a s).cores = s.cores := rfl
@[simp] theorem setAuth_weado (a : DbgAuth) (s : State) : (setAuth a s).weado = s.weado := rfl
@[simp] theorem setAuth_rings (a : DbgAuth) (s : State) : (setAuth a s).rings = s.rings := rfl
@[simp] theorem setAuth_dma (a : DbgAuth) (s : State) : (setAuth a s).dma = s.dma := rfl
@[simp] theorem setAuth_troupe (a : DbgAuth) (s : State) : (setAuth a s).troupe = s.troupe := rfl
@[simp] theorem setAuth_pair (a : DbgAuth) (s : State) : (setAuth a s).pair = s.pair := rfl
@[simp] theorem setAuth_rst (a : DbgAuth) (s : State) : (setAuth a s).rst = s.rst := rfl
@[simp] theorem setAuth_cal (a : DbgAuth) (s : State) : (setAuth a s).cal = s.cal := rfl
@[simp] theorem setAuth_pwr (a : DbgAuth) (s : State) : (setAuth a s).pwr = s.pwr := rfl
@[simp] theorem setAuth_supv (a : DbgAuth) (s : State) : (setAuth a s).supv = s.supv := rfl
@[simp] theorem setAuth_fuses (a : DbgAuth) (s : State) : (setAuth a s).fuses = s.fuses := rfl
@[simp] theorem setAuth_boot (a : DbgAuth) (s : State) : (setAuth a s).boot = s.boot := rfl
@[simp] theorem setAuth_auth (a : DbgAuth) (s : State) : (setAuth a s).auth = a := rfl
@[simp] theorem setAuth_panel (a : DbgAuth) (s : State) : (setAuth a s).panel = s.panel := rfl
@[simp] theorem setAuth_wds (a : DbgAuth) (s : State) : (setAuth a s).wds = s.wds := rfl
@[simp] theorem setAuth_twd (a : DbgAuth) (s : State) : (setAuth a s).twd = s.twd := rfl
@[simp] theorem setAuth_wrap (a : DbgAuth) (s : State) : (setAuth a s).wrap = s.wrap := rfl
@[simp] theorem setAuth_ports (a : DbgAuth) (s : State) : (setAuth a s).ports = s.ports := rfl
@[simp] theorem setAuth_free (a : DbgAuth) (s : State) : (setAuth a s).free = s.free := rfl
@[simp] theorem setAuth_pending (a : DbgAuth) (s : State) : (setAuth a s).pending = s.pending := rfl

/-! ## setPanel -/

@[simp] theorem setPanel_id (p : Panel) (s : State) : (setPanel p s).id = s.id := rfl
@[simp] theorem setPanel_role (p : Panel) (s : State) : (setPanel p s).role = s.role := rfl
@[simp] theorem setPanel_ev (p : Panel) (s : State) : (setPanel p s).ev = s.ev := rfl
@[simp] theorem setPanel_evc (p : Panel) (s : State) : (setPanel p s).evc = s.evc := rfl
@[simp] theorem setPanel_log (p : Panel) (s : State) : (setPanel p s).log = s.log := rfl
@[simp] theorem setPanel_vs (p : Panel) (s : State) : (setPanel p s).vs = s.vs := rfl
@[simp] theorem setPanel_eng (p : Panel) (s : State) : (setPanel p s).eng = s.eng := rfl
@[simp] theorem setPanel_entries (p : Panel) (s : State) : (setPanel p s).entries = s.entries := rfl
@[simp] theorem setPanel_iq (p : Panel) (s : State) : (setPanel p s).iq = s.iq := rfl
@[simp] theorem setPanel_pamap (p : Panel) (s : State) : (setPanel p s).pamap = s.pamap := rfl
@[simp] theorem setPanel_cores (p : Panel) (s : State) : (setPanel p s).cores = s.cores := rfl
@[simp] theorem setPanel_weado (p : Panel) (s : State) : (setPanel p s).weado = s.weado := rfl
@[simp] theorem setPanel_rings (p : Panel) (s : State) : (setPanel p s).rings = s.rings := rfl
@[simp] theorem setPanel_dma (p : Panel) (s : State) : (setPanel p s).dma = s.dma := rfl
@[simp] theorem setPanel_troupe (p : Panel) (s : State) : (setPanel p s).troupe = s.troupe := rfl
@[simp] theorem setPanel_pair (p : Panel) (s : State) : (setPanel p s).pair = s.pair := rfl
@[simp] theorem setPanel_rst (p : Panel) (s : State) : (setPanel p s).rst = s.rst := rfl
@[simp] theorem setPanel_cal (p : Panel) (s : State) : (setPanel p s).cal = s.cal := rfl
@[simp] theorem setPanel_pwr (p : Panel) (s : State) : (setPanel p s).pwr = s.pwr := rfl
@[simp] theorem setPanel_supv (p : Panel) (s : State) : (setPanel p s).supv = s.supv := rfl
@[simp] theorem setPanel_fuses (p : Panel) (s : State) : (setPanel p s).fuses = s.fuses := rfl
@[simp] theorem setPanel_boot (p : Panel) (s : State) : (setPanel p s).boot = s.boot := rfl
@[simp] theorem setPanel_auth (p : Panel) (s : State) : (setPanel p s).auth = s.auth := rfl
@[simp] theorem setPanel_panel (p : Panel) (s : State) : (setPanel p s).panel = p := rfl
@[simp] theorem setPanel_wds (p : Panel) (s : State) : (setPanel p s).wds = s.wds := rfl
@[simp] theorem setPanel_twd (p : Panel) (s : State) : (setPanel p s).twd = s.twd := rfl
@[simp] theorem setPanel_wrap (p : Panel) (s : State) : (setPanel p s).wrap = s.wrap := rfl
@[simp] theorem setPanel_ports (p : Panel) (s : State) : (setPanel p s).ports = s.ports := rfl
@[simp] theorem setPanel_free (p : Panel) (s : State) : (setPanel p s).free = s.free := rfl
@[simp] theorem setPanel_pending (p : Panel) (s : State) : (setPanel p s).pending = s.pending := rfl

/-! ## setWrap -/

@[simp] theorem setWrap_id (w : Wrapper) (s : State) : (setWrap w s).id = s.id := rfl
@[simp] theorem setWrap_role (w : Wrapper) (s : State) : (setWrap w s).role = s.role := rfl
@[simp] theorem setWrap_ev (w : Wrapper) (s : State) : (setWrap w s).ev = s.ev := rfl
@[simp] theorem setWrap_evc (w : Wrapper) (s : State) : (setWrap w s).evc = s.evc := rfl
@[simp] theorem setWrap_log (w : Wrapper) (s : State) : (setWrap w s).log = s.log := rfl
@[simp] theorem setWrap_vs (w : Wrapper) (s : State) : (setWrap w s).vs = s.vs := rfl
@[simp] theorem setWrap_eng (w : Wrapper) (s : State) : (setWrap w s).eng = s.eng := rfl
@[simp] theorem setWrap_entries (w : Wrapper) (s : State) : (setWrap w s).entries = s.entries := rfl
@[simp] theorem setWrap_iq (w : Wrapper) (s : State) : (setWrap w s).iq = s.iq := rfl
@[simp] theorem setWrap_pamap (w : Wrapper) (s : State) : (setWrap w s).pamap = s.pamap := rfl
@[simp] theorem setWrap_cores (w : Wrapper) (s : State) : (setWrap w s).cores = s.cores := rfl
@[simp] theorem setWrap_weado (w : Wrapper) (s : State) : (setWrap w s).weado = s.weado := rfl
@[simp] theorem setWrap_rings (w : Wrapper) (s : State) : (setWrap w s).rings = s.rings := rfl
@[simp] theorem setWrap_dma (w : Wrapper) (s : State) : (setWrap w s).dma = s.dma := rfl
@[simp] theorem setWrap_troupe (w : Wrapper) (s : State) : (setWrap w s).troupe = s.troupe := rfl
@[simp] theorem setWrap_pair (w : Wrapper) (s : State) : (setWrap w s).pair = s.pair := rfl
@[simp] theorem setWrap_rst (w : Wrapper) (s : State) : (setWrap w s).rst = s.rst := rfl
@[simp] theorem setWrap_cal (w : Wrapper) (s : State) : (setWrap w s).cal = s.cal := rfl
@[simp] theorem setWrap_pwr (w : Wrapper) (s : State) : (setWrap w s).pwr = s.pwr := rfl
@[simp] theorem setWrap_supv (w : Wrapper) (s : State) : (setWrap w s).supv = s.supv := rfl
@[simp] theorem setWrap_fuses (w : Wrapper) (s : State) : (setWrap w s).fuses = s.fuses := rfl
@[simp] theorem setWrap_boot (w : Wrapper) (s : State) : (setWrap w s).boot = s.boot := rfl
@[simp] theorem setWrap_auth (w : Wrapper) (s : State) : (setWrap w s).auth = s.auth := rfl
@[simp] theorem setWrap_panel (w : Wrapper) (s : State) : (setWrap w s).panel = s.panel := rfl
@[simp] theorem setWrap_wds (w : Wrapper) (s : State) : (setWrap w s).wds = s.wds := rfl
@[simp] theorem setWrap_twd (w : Wrapper) (s : State) : (setWrap w s).twd = s.twd := rfl
@[simp] theorem setWrap_wrap (w : Wrapper) (s : State) : (setWrap w s).wrap = w := rfl
@[simp] theorem setWrap_ports (w : Wrapper) (s : State) : (setWrap w s).ports = s.ports := rfl
@[simp] theorem setWrap_free (w : Wrapper) (s : State) : (setWrap w s).free = s.free := rfl
@[simp] theorem setWrap_pending (w : Wrapper) (s : State) : (setWrap w s).pending = s.pending := rfl

end Sys2Proof.Laws
end

