-- ==== Sys2Proof/Tests/Slice0.lean ====
section
/-! SUPPORT. The model's own tests: ill-formed commands, single steps on small states against values worked by hand from the rules, and for each
obligation with hypotheses a state and operands that meet them. -/

namespace Sys2Proof.Tests

set_option Elab.async false

open Sys2Proof.Machine Sys2Proof.Claims

/-! ## Helpers -/

/-- The command goes on to a state of which `q` holds. -/
def after (o : Host.Outcome State Fault Refusal) (q : State → Bool) : Bool := match o with
  | .next t => q t
  | _ => false

/-- The command is refused. -/
def stopped (o : Host.Outcome State Fault Refusal) : Bool := match o with
  | .refused _ => true
  | _ => false

def okOut {α : Type} (o : Out α) : Bool := match o with
  | .ok _ _ => true
  | _ => false

/-- The tile after its start-up, its set-up window at 16 MiB, the 16 MiB at 0 cached memory on TFP, lifecycle TEST. -/
def upState : State := { State.reset with
  rst := { State.reset.rst with phase := .up }
  id := { State.reset.id with tilebase := 1 }
  pamap := [(0, 0x181)]
  fuses := { State.reset.fuses with lc := 1, now := 1 } }

/-- The data line at 0x1000: byte i holds i + 0x80. -/
def dataLine : Line := BitVec.ofNat 512 (((List.range 64).map (fun i => (i + 0x80) * 256 ^ i)).sum)

/-- C0 runs at the first parcel of line 0x400, at hand, on bank 0 with the given operand and return cells and flags. -/
def rdyCore (oc rc : List W64) (fl : BitVec 5) : Core := { core0 with
  st := .running
  pc := 0x400
  code := some 0x400
  banks := [(0, { core0.bank 0 with oc := oc, rc := rc, flags := fl })]
  dcache := [(0x40, ⟨dataLine, false⟩)] }
def rdyF (oc rc : List W64) (fl : BitVec 5) : State := setCore 0 (rdyCore oc rc fl) upState
def rdyR (oc rc : List W64) : State := rdyF oc rc 0
def rdy (oc : List W64) : State := rdyF oc [] 0
/-- The same, with a change of the core. -/
def rdyWith (f : Core → Core) (oc : List W64) : State := withCore 0 f (rdy oc)

/-- C0, every slot of the line an entry, condition AL. -/
def P0 : PCtx := ⟨0, 0x3F, 0⟩

def pair (sa : Nat) (sb : BitVec 8) : BitVec 20 := pairParcel 0 sa sb
def long (m : Nat) (f : BitVec 10) : BitVec 20 := longParcel 0 m f

/-- What a parcel finds when its code line is at hand. -/
def reached (w nxt : BitVec 20) (s : State) : State := match reachParcel ⟨0, (s.core 0).pc, false⟩ 0x3F (presented P0 w nxt s) with
  | .ok _ s1 => s1
  | .exc _ s1 => s1
  | .hold _ s1 => s1

def readyB (w nxt : BitVec 20) (s : State) : Bool :=
  issues s 0 && okOut (reachParcel ⟨0, (s.core 0).pc, false⟩ 0x3F (presented P0 w nxt s)) && !((reached w nxt s).core 0).repResume &&
  !lineIllegal (s.core 0).pc 0x3F && !placeIllegal ((reached w nxt s).core 0) w && decide (((reached w nxt s).core 0).sb.length ≤ 16)

theorem ready_of {w nxt : BitVec 20} {s : State} (h : readyB w nxt s = true) : Ready P0 w nxt s (reached w nxt s) := by
  simp only [readyB, Bool.and_eq_true, Bool.not_eq_true', decide_eq_true_eq] at h
  obtain ⟨⟨⟨⟨⟨h1, h2⟩, h3⟩, h4⟩, h5⟩, h6⟩ := h
  refine ⟨h1, ?_, h3, h4, h5, h6⟩
  unfold reached
  revert h2
  show okOut (reachParcel ⟨0, (s.core 0).pc, false⟩ 0x3F (presented P0 w nxt s)) = true → reachParcel ⟨0, (s.core 0).pc, false⟩ 0x3F (presented P0 w nxt s) = _
  cases reachParcel ⟨0, (s.core 0).pc, false⟩ 0x3F (presented P0 w nxt s) with
  | ok a t => exact fun _ => rfl
  | exc e t => exact fun h => by cases h
  | hold y t => exact fun h => by cases h

def cells (oc : List W64) (t : State) : Bool := (t.core 0).run.oc == oc
def rcells (oc : List W64) (t : State) : Bool := (t.core 0).run.rc == oc
def at_ (pc : BitVec 48) (t : State) : Bool := (t.core 0).pc == pc

/-! ## Ill-formed commands -/

def msgOf (ty : BitVec 8) : Msg := ⟨ty, 0, 0, 0, 0, 0, 0, 0, 0, 0, 0, 0, 0, 0⟩

/-- A message command bears the TYPE of its row (R423). -/
theorem test_wf_messages : ([.heartbeat (msgOf 0x02), .hback (msgOf 0x01), .dephb (msgOf 0), .probe (msgOf 0), .proberep (msgOf 0), .admitMsg (msgOf 0),
    .admitack (msgOf 0), .appoint (msgOf 0), .appointack (msgOf 0), .release (msgOf 0), .released (msgOf 0), .fenced (msgOf 0), .alert (msgOf 0),
    .grpmirror (msgOf 0), .grpack (msgOf 0), .firmwareMessage (msgOf 0x1F), .firmwareMessage (msgOf 0x40)] : List Instr).all (fun i => !i.wf) = true := by
  decide

/-- A register write sets the bit that its row is about. -/
theorem test_wf_bits : ([.evsrcSet .host 0 0, .armall .host 1, .dmaStart .host 0 2, .dmaRestart .host 0 1, .dmaCancel .host 0 1, .pnlctlEvac .host 2,
    .pnlctlCancel .host 1, .watchdogKick .host .tile 1, .samGo 2, .mbistStart 1, .repairFuseProgram 0, .wmbist 4, .wrepair 0x1000,
    .wdReservedCommand 1, .wdReservedCommand 5] : List Instr).all (fun i => !i.wf) = true := by decide

/-- A reserved parcel is reserved, and a pulse reaches a source that has one. -/
theorem test_wf_parcels : ([.reservedParcel P0 (pair 0x20 0), .eventArrival 0x100] : List Instr).all (fun i => !i.wf) = true := by decide

/-- No line comes twice, and boundary cells lie in the register, each once. -/
theorem test_wf_lists : ([.chainProgramRead 0 [⟨1, .okay, 0⟩, ⟨1, .okay, 0⟩], .stackSpill 0 0 false [⟨1, .okay, 0⟩, ⟨1, .okay, 0⟩],
    .stackFill 0 false [⟨1, .okay, 0⟩, ⟨1, .okay, 0⟩], .taskSwitch 0 0 [⟨1, .okay, 0⟩, ⟨1, .okay, 0⟩], .wsExtest [(33272, true)],
    .wsIntest [(1, true), (1, false)], .wsPreload [(40000, true)]] : List Instr).all (fun i => !i.wf) = true := by decide

theorem test_wf_admits : ([.heartbeat (msgOf 0x01), .samGo 1, .reservedParcel P0 0, .eventArrival 0x70, .wsExtest [(33271, true), (0, false)],
    .wdReservedCommand 6, .add P0 0] : List Instr).all (fun i => i.wf) = true := by decide

/-! ## Parcels: stack, arithmetic, logic, compares (R210 to R216, R251 to R254) -/

/-- DUP under AL, ADD, and a second half that takes what the first leaves. -/
theorem test_pairs : after (exec (.dup P0 0x20) (rdy [5, 7])) (cells [10, 7]) = true ∧ after (exec (.add P0 0x0C) (rdy [3, 4, 9])) (cells [1, 7, 9]) = true ∧
    after (exec (.nop P0 0x03 nopParcel) (rdy [1, 2])) (cells [2, 1]) = true ∧ after (exec (.add P0 0) (rdy [3, 4])) (at_ 0x401) = true := by decide

/-- The carry out of bit 63 and the signed overflow of 2^63 - 1 + 1 (R231). -/
theorem test_add_flags : after (exec (.add P0 0) (rdy [1, 0xFFFF_FFFF_FFFF_FFFF])) (fun t => cells [0] t && (t.core 0).run.flags == mkFlags false true false true false) = true ∧
    after (exec (.add P0 0) (rdy [1, 0x7FFF_FFFF_FFFF_FFFF])) (fun t => (t.core 0).run.flags == mkFlags false false true false true) = true ∧
    after (exec (.sub P0 0) (rdy [3, 2])) (fun t => cells [0xFFFF_FFFF_FFFF_FFFF] t && (t.core 0).run.flags == mkFlags false false true false false) = true := by decide

/-- Stack effects of R251 on cells that differ. -/
theorem test_stack : after (exec (.rot P0 0) (rdy [1, 2, 3])) (cells [3, 1, 2]) = true ∧ after (exec (.over P0 0) (rdy [1, 2])) (cells [2, 1, 2]) = true ∧
    after (exec (.tuck P0 0) (rdy [1, 2])) (cells [1, 2, 1]) = true ∧ after (exec (.nip P0 0) (rdy [1, 2])) (cells [1]) = true ∧
    after (exec (.twoDup P0 0) (rdy [1, 2])) (cells [1, 2, 1, 2]) = true ∧ after (exec (.twoDrop P0 0) (rdy [1, 2, 3])) (cells [3]) = true ∧
    after (exec (.depth P0 0) (rdy [8, 9])) (cells [2, 8, 9]) = true ∧ after (exec (.tor P0 0) (rdy [8, 9])) (fun t => cells [9] t && rcells [8] t) = true ∧
    after (exec (.fromr P0 0) (rdyR [9] [8])) (fun t => cells [8, 9] t && rcells [] t) = true ∧
    after (exec (.pick P0 0) (rdy [33, 5, 6])) (cells [6, 5, 6]) = true := by decide

/-- The results of R252 and R253 on worked values. -/
theorem test_results : after (exec (.mulhs P0 0) (rdy [0xFFFF_FFFF_FFFF_FFFF, 1])) (cells [0xFFFF_FFFF_FFFF_FFFF]) = true ∧
    after (exec (.mulhu P0 0) (rdy [0xFFFF_FFFF_FFFF_FFFF, 2])) (cells [1]) = true ∧ after (exec (.mods P0 0) (rdy [3, BitVec.ofInt 64 (-7)])) (cells [BitVec.ofInt 64 (-1)]) = true ∧
    after (exec (.divs P0 0) (rdy [2, BitVec.ofInt 64 (-7)])) (cells [BitVec.ofInt 64 (-3)]) = true ∧ after (exec (.shl P0 0) (rdy [65, 3])) (cells [6]) = true ∧
    after (exec (.sar P0 0) (rdy [1, BitVec.ofInt 64 (-4)])) (cells [BitVec.ofInt 64 (-2)]) = true ∧ after (exec (.rol P0 0) (rdy [8, 0xAB00_0000_0000_0001])) (cells [0x1AB]) = true ∧
    after (exec (.bswap P0 0) (rdy [0x0102_0304_0506_0708])) (cells [0x0807_0605_0403_0201]) = true ∧ after (exec (.clz P0 0) (rdy [1])) (cells [63]) = true ∧
    after (exec (.ctz P0 0) (rdy [0])) (cells [64]) = true ∧ after (exec (.popc P0 0) (rdy [0xF0])) (cells [4]) = true ∧ after (exec (.andn P0 0) (rdy [1, 7])) (cells [6]) = true ∧
    after (exec (.adc P0 0) (rdyF [1, 1] [] (mkFlags false false false true false))) (cells [3]) = true := by decide

/-- T after a signed and an unsigned compare of -1 with 1, and SEL by T (R254). -/
theorem test_compares : after (exec (.clt P0 0) (rdy [1, 0xFFFF_FFFF_FFFF_FFFF])) (fun t => cells [] t && flT (t.core 0).run.flags) = true ∧
    after (exec (.cltu P0 0) (rdy [1, 0xFFFF_FFFF_FFFF_FFFF])) (fun t => !flT (t.core 0).run.flags) = true ∧
    after (exec (.sel P0 0) (rdyF [1, 2] [] 1)) (cells [2]) = true ∧ after (exec (.sel P0 0) (rdyF [1, 2] [] 0)) (cells [1]) = true ∧
    after (exec (.tst P0 0) (rdy [4])) (fun t => cells [] t && flT (t.core 0).run.flags) = true := by decide

/-- R216: the seven parcels build VERSION; here the last LITX. -/
theorem test_literals : after (exec (.lit P0 0x3FF) (rdy [])) (cells [0xFFFF_FFFF_FFFF_FFFF]) = true ∧ after (exec (.lit P0 5) (rdy [])) (cells [5]) = true ∧
    after (exec (.litx P0 0x302) (rdy [0x0017_0284_0840_C000])) (cells [0x5C0A_1021_0300_0302]) = true ∧
    after (exec (.addi P0 0x3FF) (rdy [5])) (cells [4]) = true := by decide

theorem witness_PlainPairsComplete :
    Ready P0 (pair 0x01 0x20) nopParcel (rdy [5, 7]) (reached (pair 0x01 0x20) nopParcel (rdy [5, 7])) ∧ codeIllegal (pair 0x01 0x20) = false ∧
    condHolds 0 (bank 0 (reached (pair 0x01 0x20) nopParcel (rdy [5, 7]))).flags = true ∧
    ((plainHalf 0x01 none (bank 0 (reached (pair 0x01 0x20) nopParcel (rdy [5, 7])))).bind (plainHalf 0x20 none)).isSome = true ∧
    Ready P0 (pair 0 0x03) nopParcel (rdy [1, 2]) (reached (pair 0 0x03) nopParcel (rdy [1, 2])) ∧
    (plainHalf 0x03 none (bank 0 (reached (pair 0 0x03) nopParcel (rdy [1, 2])))).isSome = true :=
  ⟨ready_of (by decide), by decide, by decide, by decide, ready_of (by decide), by decide⟩

/-- Every clause has cells to take: 32 of them, the most that are cached, and one. -/
theorem witness_results : (∃ b : Bank, ∃ a x y t, b.oc = a :: x :: y :: t ∧ b.oc.length = 32) ∧ (∃ b : Bank, ∃ a, b.oc = [a]) ∧ ∃ b : Bank, ∃ a, b.rc = [a] :=
  ⟨⟨{ core0.bank 0 with oc := List.replicate 32 0 }, 0, 0, 0, List.replicate 29 0, rfl, rfl⟩, ⟨{ core0.bank 0 with oc := [0] }, 0, rfl⟩,
    ⟨{ core0.bank 0 with rc := [0] }, 0, rfl⟩⟩

theorem witness_ConditionsAfterCompare : ∃ b : Bank, ∃ a x t, b.oc = a :: x :: t ∧ 0x50 ≤ 0x59 :=
  ⟨{ core0.bank 0 with oc := [1, 2] }, 1, 2, [], rfl, by decide⟩

/-- PICK: the deepest cell that n mod 32 names, and one too few. -/
theorem witness_PickReadsItsCell :
    Ready P0 (pair 0x08 0) nopParcel (rdy [1, 5, 6]) (reached (pair 0x08 0) nopParcel (rdy [1, 5, 6])) ∧ ([5, 6] : List W64)[1 % 32]? = some 6 ∧
    ((reached (pair 0x08 0) nopParcel (rdy [1, 5, 6])).core 0).divide = none ∧
    Ready P0 (pair 0x08 0) nopParcel (rdy [2, 5, 6]) (reached (pair 0x08 0) nopParcel (rdy [2, 5, 6])) ∧
    2 + (bank 0 (reached (pair 0x08 0) nopParcel (rdy [2, 5, 6]))).osp.toNat < 2 % 32 + 1 :=
  ⟨ready_of (by decide), by decide, by decide, ready_of (by decide), by decide⟩

theorem witness_LiteralsAndAddi :
    Ready P0 (long 1 5) nopParcel (rdy (List.replicate 31 0)) (reached (long 1 5) nopParcel (rdy (List.replicate 31 0))) ∧
    (bank 0 (reached (long 1 5) nopParcel (rdy (List.replicate 31 0)))).oc.length = 31 ∧
    Ready P0 (long 2 0x302) nopParcel (rdy [7]) (reached (long 2 0x302) nopParcel (rdy [7])) ∧
    Ready P0 (long 3 0x3FF) nopParcel (rdy [7]) (reached (long 3 0x3FF) nopParcel (rdy [7])) ∧
    takesPending ((reached (long 3 0x3FF) nopParcel (rdy [7])).core 0).pendingCell 1 (bank 0 (reached (long 3 0x3FF) nopParcel (rdy [7]))) = false :=
  ⟨ready_of (by decide), by decide, ready_of (by decide), ready_of (by decide), by decide⟩

/-! ## Control words (R199, R278) -/

/-- Task privilege: STATUS with PL 0. -/
def task (oc : List W64) : State := rdyWith (fun k => { k with banks := [(0, { k.bank 0 with
  status := 0, segs := (List.range 16).map (fun n => (n, ((0 : W64), (0x000F_FFFF_FFFF_FFFF : W64)))) })] }) oc

theorem test_cwr : after (exec (.cwr P0 0x000) (rdy [])) (cells [2]) = true ∧ after (exec (.cwr P0 0x001) (rdyF [] [] 0x1F)) (cells [0x1F]) = true ∧
    after (exec (.cww P0 0x002) (rdy [0x1_0000_0007])) (fun t => (t.core 0).run.loopcnt == 7) = true ∧
    after (exec (.cwr P0 0x004) (rdy [])) (fun t => fieldAt 0 8 (t.core 0).run.estat == 0x01) = true ∧
    after (exec (.cwr P0 0x000) (task [])) (fun t => fieldAt 0 8 (t.core 0).run.estat == 0x02) = true := by decide

/-- A write of STATUS is committed at once and in force after SYNC. -/
theorem test_latent : after (exec (.cww P0 0x000) (rdy [0])) (fun t => (t.core 0).pl == 2 && fieldAt 0 2 ((t.core 0).cw 0 |>.getD 9) == 0 && (t.core 0).sync.pl == 0) = true := by
  decide

theorem witness_ControlWordReadsAndWrites :
    Ready P0 (long 4 0x05F) nopParcel (rdy []) (reached (long 4 0x05F) nopParcel (rdy [])) ∧
    (∃ e ∈ controlWords ((reached (long 4 0x05F) nopParcel (rdy [])).core 0), 0x05F = e.1 ∧ e.2.2.1 ≤ ((reached (long 4 0x05F) nopParcel (rdy [])).core 0).pl) ∧
    Ready P0 (long 4 0x000) nopParcel (task []) (reached (long 4 0x000) nopParcel (task [])) ∧
    (∃ e ∈ controlWords ((reached (long 4 0x000) nopParcel (task [])).core 0), 0x000 = e.1 ∧ ((reached (long 4 0x000) nopParcel (task [])).core 0).pl < e.2.2.1) ∧
    Ready P0 (long 4 0x060) nopParcel (rdy []) (reached (long 4 0x060) nopParcel (rdy [])) ∧
    (∀ e ∈ controlWords ((reached (long 4 0x060) nopParcel (rdy [])).core 0), 0x060 ≠ e.1) ∧
    Ready P0 (long 5 0x000) nopParcel (rdy [1]) (reached (long 5 0x000) nopParcel (rdy [1])) ∧
    (∃ e ∈ controlWords ((reached (long 5 0x000) nopParcel (rdy [1])).core 0), 0x000 = e.1 ∧ e.2.2.2 ≤ ((reached (long 5 0x000) nopParcel (rdy [1])).core 0).pl) ∧
    Ready P0 (long 5 0x003) nopParcel (task [1]) (reached (long 5 0x003) nopParcel (task [1])) ∧
    (∃ e ∈ controlWords ((reached (long 5 0x003) nopParcel (task [1])).core 0), 0x003 = e.1 ∧ ((reached (long 5 0x003) nopParcel (task [1])).core 0).pl < e.2.2.2) ∧
    Ready P0 (long 5 0x3FF) nopParcel (rdy [1]) (reached (long 5 0x3FF) nopParcel (rdy [1])) ∧
    (∀ e ∈ controlWords ((reached (long 5 0x3FF) nopParcel (rdy [1])).core 0), 0x3FF ≠ e.1) :=
  ⟨ready_of (by decide), by decide, ready_of (by decide), by decide, ready_of (by decide), by decide, ready_of (by decide), by decide,
    ready_of (by decide), by decide, ready_of (by decide), by decide⟩

theorem witness_LatentControlWords : (∃ e ∈ controlWords core0, e.1 = 0x05F) ∧ (∃ e ∈ controlWords core0, e.1 = 0x003) ∧
    ∃ e ∈ controlWords core0, e.1 = 0x01A ∧ Tab.find core0.latent e.1 = none := by decide

/-! ## Memory (R232 to R234, R238 to R246, R255, R275 to R277) -/

def okSame {α : Type} (o : Out α) (s : State) : Bool := match o with
  | .ok _ t => t == s
  | _ => false

/-- A load of each width and extension from the cached line, one across two words, LD64P and LDC. -/
theorem test_loads : after (exec (.ld64 P0 0) (rdy [0x1000])) (cells [0x8786_8584_8382_8180]) = true ∧
    after (exec (.ld8s P0 0) (rdy [0x1000])) (cells [BitVec.ofInt 64 (-128)]) = true ∧ after (exec (.ld8u P0 0) (rdy [0x1001])) (cells [0x81]) = true ∧
    after (exec (.ld16u P0 0) (rdy [0x1007])) (cells [0x8887]) = true ∧ after (exec (.ld16s P0 0) (rdy [0x1002])) (cells [0xFFFF_FFFF_FFFF_8382]) = true ∧
    after (exec (.ld32u P0 0) (rdy [0x1004])) (cells [0x8786_8584]) = true ∧ after (exec (.ld32s P0 0) (rdy [0x1004])) (cells [0xFFFF_FFFF_8786_8584]) = true ∧
    after (exec (.ld64p P0 0) (rdy [0x1008])) (cells [0x8F8E_8D8C_8B8A_8988, 0x1010]) = true ∧
    after (exec (.ldc P0 0x042) (rdy [0x1000])) (cells [0x9796_9594_9392_9190]) = true ∧
    after (exec (.ld P0 0x048) (rdy [0x1000])) (cells [BitVec.ofInt 64 (-128)]) = true := by decide +kernel

/-- A store enters the store buffer, and a load after it takes its bytes (R275, R276). -/
theorem test_stores : after (exec (.st8 P0 0x0B) (rdy [0x1003, 0x1_22])) (fun t => cells [0] t && ((t.core 0).sb.map (fun e => (e.word, e.be)) == [(0x200, 8)]) &&
      sbByte (t.core 0).sb 0x1003 == some 0x22 && sbByte (t.core 0).sb 0x1004 == none) = true ∧
    after (exec (.st64p P0 0) (rdy [0x1008, 7])) (fun t => cells [0x1010] t && sbByte (t.core 0).sb 0x1008 == some 7) = true ∧
    after (exec (.stc P0 0x041) (rdy [0x1000, 9])) (fun t => sbByte (t.core 0).sb 0x1008 == some 9) = true ∧
    after (exec (.st P0 0x070) (rdy [0x1000, 9])) (fun t => sbByte (t.core 0).sb 0x1007 == some 0) = true ∧
    after (exec (.st16 P0 0) (rdy [0x1007, 0xABCD])) (fun t => (t.core 0).sb.length == 2 && sbByte (t.core 0).sb 0x1008 == some 0xAB) = true := by decide +kernel

theorem witness_loads :
    (loadRows.all (fun row => readyB (pair row.2.1 0) nopParcel (rdy [0x1000]) &&
      okOut (loadBytes 0 1 0x1000 row.2.2.1 needRead false (reached (pair row.2.1 0) nopParcel (rdy [0x1000]))))) = true ∧
    readyB (long 0x10 0x070) nopParcel (rdy [0x1000]) = true ∧ okOut (loadBytes 0 1 0x1000 8 needRead false (reached (long 0x10 0x070) nopParcel (rdy [0x1000]))) = true ∧
    readyB (long 0x12 0x041) nopParcel (rdy [0x1000]) = true ∧ okOut (loadBytes 0 1 0x1008 8 needRead false (reached (long 0x12 0x041) nopParcel (rdy [0x1000]))) = true := by
  decide +kernel

theorem witness_stores :
    (storeRows.all (fun row => readyB (pair row.2.1 0) nopParcel (rdy [0x1000, 1]) &&
      okOut (storeBytes 0 1 0x1000 row.2.2.1 1 (reached (pair row.2.1 0) nopParcel (rdy [0x1000, 1]))))) = true ∧
    readyB (long 0x11 0x070) nopParcel (rdy [0x1000, 1]) = true ∧ okOut (storeBytes 0 1 0x1000 8 1 (reached (long 0x11 0x070) nopParcel (rdy [0x1000, 1]))) = true ∧
    readyB (long 0x13 0x041) nopParcel (rdy [0x1000, 1]) = true ∧ okOut (storeBytes 0 1 0x1008 8 1 (reached (long 0x13 0x041) nopParcel (rdy [0x1000, 1]))) = true ∧
    segLinear (rdyCore [] [] 0) 2 .write 1 0x1000 8 = some 0x1000 ∧ okSame (dataXlate 0 2 0x1000 needWrite false false (rdy [])) (rdy []) = true := by decide +kernel

/-- The shapes of PairsExecuteBothHalves: both halves go on, the first raises, the second raises. -/
theorem witness_PairsExecuteBothHalves :
    readyB (pair 0x71 0x01) nopParcel (rdy [0x1000, 1, 2]) = true ∧ readyB (pair 0x70 0) nopParcel (rdy [0x1_0000_0000_0000]) = true ∧
    (match shortHalf 0 0x70 ((reached (pair 0x70 0) nopParcel (rdy [0x1_0000_0000_0000])).core 0).frame (reached (pair 0x70 0) nopParcel (rdy [0x1_0000_0000_0000])) with
      | .exc _ s => (s.core 0).divide == none
      | _ => false) = true ∧
    readyB (pair 0x0B 0x70) nopParcel (rdyWith (fun k => { k with banks := k.banks.map (fun e => (e.1, { e.2 with segs := [(1, ((0 : W64), (0 : W64)))] })) }) []) = true ∧
    after (exec (.push0 P0 0x70) (rdyWith (fun k => { k with banks := k.banks.map (fun e => (e.1, { e.2 with segs := [(1, ((0 : W64), (0 : W64)))] })) }) []))
      (fun t => cells [] t && fieldAt 0 8 (t.core 0).run.estat == 0x10) = true := by decide +kernel

/-- LOCK and UNLOCK, with and without the reservation, and misaligned (R238, R239). -/
theorem test_lock : after (exec (.lock P0 0x040) (rdy [0x1008])) (fun t => cells [0x8F8E_8D8C_8B8A_8988] t && (t.core 0).lockRes == some 0x40) = true ∧
    after (exec (.unlock P0 0x040) (rdyWith (fun k => { k with lockRes := some 0x40 }) [0x1008, 5])) (fun t => cells [] t && flT (t.core 0).run.flags &&
      (t.core 0).lockRes == none && (Tab.find (t.core 0).dcache 0x40).any (fun l => l.dirty && l.data.extractLsb' 64 64 == (5 : W64))) = true ∧
    after (exec (.unlock P0 0x040) (rdy [0x1008, 5])) (fun t => cells [] t && !flT (t.core 0).run.flags) = true ∧
    after (exec (.lock P0 0x040) (rdy [0x1004])) (fun t => fieldAt 0 8 (t.core 0).run.estat == 0x04) = true := by decide +kernel

/-- A divide by 0 raises DIVZ; another leaves its cell pending until DIVIDE_RESULT (R262). -/
theorem test_divide : after (exec (.divu P0 0) (rdy [0, 7])) (fun t => cells [0, 7] t && fieldAt 0 8 (t.core 0).run.estat == 0x05) = true ∧
    after (exec (.divu P0 0) (rdy [2, 7])) (fun t => cells [3] t && (t.core 0).divide == some ⟨0, 0⟩ && stopped (exec (.divideResult 1) t) &&
      after (exec (.divideResult 0) t) (fun u => (u.core 0).divide == none && cells [3] u)) = true := by decide +kernel

theorem witness_Divides : (divideRows.all (fun row => readyB (pair row.2 0) nopParcel (rdy [2, 7]) && readyB (pair row.2 0) nopParcel (rdy [0, 7]))) = true ∧
    dclkRuns (rdyWith (fun k => { k with divide := some ⟨0, 0⟩ }) [3]) 0 = true ∧ ((rdyWith (fun k => { k with divide := some ⟨0, 0⟩ }) [3]).core 0).divide ≠ none := by
  decide +kernel

/-! ## Flow of control (R201 to R206, R217 to R228, R235, R347, R351 to R354) -/

/-- A branch back by one line's six parcels, and its delay parcel; CALL pushes the address after the delay parcel. -/
theorem test_transfers : after (exec (.br P0 (BitVec.ofInt 10 (-6)) nopParcel) (rdy [])) (fun t => at_ 0x401 t && ((t.core 0).delay == some ⟨0x400, true, 0x3F0, true, false⟩) &&
      after (exec (.nop P0 0 nopParcel) t) (fun u => at_ 0x3F0 u && (u.core 0).chk == some 0x400)) = true ∧
    after (exec (.call P0 7 nopParcel) (rdy [])) (fun t => rcells [0x402] t && ((t.core 0).delay == some ⟨0x400, true, 0x411, true, false⟩)) = true ∧
    after (exec (.brx P0 0 nopParcel) (rdy [0x500])) (fun t => cells [] t && ((t.core 0).delay == some ⟨0x400, true, 0x500, true, false⟩)) = true ∧
    after (exec (.callx P0 0 nopParcel) (rdy [0x500])) (fun t => cells [] t && rcells [0x402] t) = true ∧
    after (exec (.ret P0 0 nopParcel) (rdyR [] [0x777])) (fun t => rcells [] t && ((t.core 0).delay == some ⟨0x400, true, 0x777, false, false⟩)) = true ∧
    after (exec (.eret P0 0 nopParcel) (rdy [])) (fun t => at_ 0x401 t && ((t.core 0).delay == some ⟨0x400, true, 0, false, true⟩)) = true := by decide +kernel

theorem witness_TransfersAwaitTheirDelayParcel :
    isTransfer (pair 0x20 0) = false ∧ isRep (pair 0x20 0) = false ∧ readyB (long 0x08 0x200) (pair 0x20 0) (rdy []) = true ∧
    readyB (long 0x09 0x1FF) (pair 0x20 0) (rdyR [] (List.replicate 31 0)) = true ∧ readyB (pair 0x80 0) (pair 0x20 0) (rdy [0x500]) = true ∧
    readyB (pair 0x81 0) (pair 0x20 0) (rdyR [0x500] (List.replicate 31 0)) = true ∧ readyB (pair 0x82 0) (pair 0x20 0) (rdyR [] [0x500]) = true ∧
    readyB (long 0x30 0) nopParcel (rdy []) = true ∧ 1 ≤ ((reached (long 0x30 0) nopParcel (rdy [])).core 0).pl := by decide +kernel

/-- SVC from task level to Monitor, and FRTN (R353, R354). -/
theorem test_fastCalls : after (exec (.svc P0 9) (rdyWith (fun k => { k with fentry := 0x0002_0000_0000_0800, banks := k.banks.map (fun e => (e.1, { e.2 with
        status := 1, segs := (List.range 16).map (fun n => (n, ((0 : W64), (0x000F_FFFF_FFFF_FFFF : W64)))) })) }) [])) (fun t =>
      at_ 0x800 t && (t.core 0).pl == 2 && (t.core 0).run.fpc == 0x401 && fieldAt 16 10 (t.core 0).run.fstat == 9 && fieldAt 0 2 (t.core 0).run.fstat == 1) = true ∧
    after (exec (.frtn P0 0) (rdyWith (fun k => { k with banks := k.banks.map (fun e => (e.1, { e.2 with fpc := 0x801, fstat := 0x101 })) }) [])) (fun t =>
      at_ 0x801 t && (t.core 0).pl == 1 && (t.core 0).run.fstat == 1) = true := by decide +kernel

theorem witness_FastCallsAndReturns : readyB (long 0x0C 0x3FF) nopParcel (rdy []) = true ∧ readyB (long 0x31 0) nopParcel (rdy []) = true ∧
    1 ≤ ((reached (long 0x31 0) nopParcel (rdy [])).core 0).pl := by decide +kernel

/-- ERET goes back to the level and the place that ESTAT and EPC hold (R347). -/
theorem test_eret : (let s := withCore 0 (fun k => { k with level := 3, banks := [(3, { bank0 3 with estat := 0x0001_4000, epc := 0x900 })] }) (rdy [])
    let k := (doEret 0 s).core 0
    k.level == 0 && k.pc == 0x900 && (k.bank 3).estat == 0x0001_0000 && (k.bank 0).status == 0) = true := by decide +kernel

/-- advance over lines of six parcels (R203, R205). -/
theorem test_advance : advance 0x405 1 = 0x410 ∧ advance 0x400 (-1) = 0x3F5 ∧ advance 0xFFFF_FFFF_FFF5 1 = 0 := by decide +kernel

theorem witness_ExecutionGoesOn :
    (core0.rep = none ∧ core0.delay = none) ∧ (∃ k : Core, ∃ d, k.rep = none ∧ k.delay = some d ∧ d.eret = false) ∧
    (∃ k : Core, ∃ d, k.rep = none ∧ k.delay = some d ∧ d.eret = true) ∧ ∃ k : Core, ∃ r, k.rep = some r :=
  ⟨⟨rfl, rfl⟩, ⟨{ core0 with delay := some ⟨0, true, 0, true, false⟩ }, _, rfl, rfl, rfl⟩, ⟨{ core0 with delay := some ⟨0, true, 0, false, true⟩ }, _, rfl, rfl, rfl⟩,
    ⟨{ core0 with rep := some ⟨0, false, true, false⟩ }, _, rfl⟩⟩

/-! ## System operations (R220 to R222, R241 to R249, R256, R331, R362, R368, R369) -/

/-- ACK, EOS and WAIT. -/
theorem test_events : after (exec (.ack P0 0) { rdy [0x205] with ev := [(5, { evSrc0 with cnt := 3 })] }) (fun t => cells [] t && (Tab.get evSrc0 t.ev 5).cnt == 2) = true ∧
    after (exec (.eos P0 3) { rdy [] with evc := Quad.same { evCore0 with active := 0x09 } }) (fun t => (t.evc.get 0).active == 1) = true ∧
    after (exec (.eos P0 0) { rdy [] with evc := Quad.same { evCore0 with active := 0x09 } }) (fun t => fieldAt 0 8 ((t.core 0).bank 7).estat == 0x20) = true ∧
    after (exec (.wait P0 0) (rdy [])) (fun t => (t.core 0).st == .waiting && at_ 0x401 t) = true := by decide +kernel

/-- The core's task scheduler on, its slot 2 running. -/
def tasking (cnt : BitVec 8) (oc : List W64) : State :=
  rdyWith (fun k => { k with sched := { k.sched with en := true, slot := 2, slots := [(2, { slot0 with st := .running, tcnt := cnt })] } }) oc

theorem witness_EventOperations :
    readyB (long 0x34 0) nopParcel (rdy [5]) = true ∧ readyB (long 0x35 3) nopParcel { rdy [] with evc := Quad.same { evCore0 with active := 0x09 } } = true ∧
    topOf 0x09 = 3 ∧ topOf 0x80 = 7 ∧ readyB (long 0x35 0) nopParcel (rdy []) = true ∧ ((rdy []).evc.get 0).active = 0 ∧
    readyB (long 0x38 0) nopParcel (rdy []) = true ∧ ((rdy []).core 0).sched.en = false ∧
    readyB (long 0x38 0) nopParcel (tasking 1 []) = true ∧ readyB (long 0x38 0) nopParcel (tasking 0 []) = true ∧
    ((reached (long 0x38 0) nopParcel (tasking 1 [])).core 0).sched.runningSlot = some 2 ∧ ((reached (long 0x38 0) nopParcel (tasking 1 [])).core 0).level = 0 ∧
    (((reached (long 0x38 0) nopParcel (tasking 1 [])).core 0).sched.at 2).tcnt = 1 := by decide +kernel

/-- REP with its count in the field, REP with a count of 0 on the stack, FENCE with an empty buffer, BRK outside debug (R221, R256). -/
theorem test_rep : after (exec (.rep P0 0x203 nopParcel) (rdy [])) (fun t => (t.core 0).run.loopcnt == 3 && at_ 0x401 t && (t.core 0).rep == some ⟨0x400, true, true, false⟩) = true ∧
    after (exec (.rep P0 0 nopParcel) (rdy [0])) (fun t => cells [] t && at_ 0x402 t && (t.core 0).rep == none) = true ∧
    after (exec (.rep P0 0 nopParcel) (rdy [0x1_0000_0000])) (fun t => (t.core 0).run.loopcnt == 0xFFFF_FFFF) = true ∧
    after (exec (.fence P0 0) (rdy [])) (at_ 0x401) = true ∧ after (exec (.brk P0 0) (rdy [])) (fun t => fieldAt 0 8 (t.core 0).run.estat == 6) = true := by decide +kernel

/-- A tile with debug level HALT. -/
def halting (s : State) : State := { s with auth := { s.auth with level := 2 } }

theorem witness_RepSyncFenceBrk :
    isTransfer (pair 0x20 0) = false ∧ isRep (pair 0x20 0) = false ∧ hasSolo (pair 0x20 0) = false ∧ readyB (long 0x3C 0x1FF) (pair 0x20 0) (rdy []) = true ∧
    readyB (long 0x3C 0x200) (pair 0x20 0) (rdy [5]) = true ∧ readyB (pair 0x83 0) nopParcel (rdy []) = true ∧
    readyB (pair 0x84 0) nopParcel (rdy []) = true ∧ ((reached (pair 0x84 0) nopParcel (rdy [])).core 0).sb = [] ∧
    readyB (pair 0x84 0) nopParcel (rdyWith (fun k => { k with sb := [⟨0x200, 1, 0, true, false, false, none⟩] }) []) = true ∧
    readyB (pair 0x85 0) nopParcel (rdy []) = true ∧ dbgLevel (rdy []) ≠ 2 ∧ readyB (pair 0x85 0) nopParcel (halting (rdy [])) = true ∧
    dbgLevel (reached (pair 0x85 0) nopParcel (halting (rdy []))) = 2 := by decide +kernel

def tlbPage : TlbEntry := { root := 0, tag := 0, page := 5, level := 4, base := 0, w := true, x := true, t := false, s := false, a := true, d := true, g := false }

theorem test_invalidations : after (exec (.invpg P0 0) (rdyWith (fun k => { k with tlb := [tlbPage, { tlbPage with page := 6 }] }) [0x5123])) (fun t =>
      (t.core 0).tlb.map (·.page) == [6]) = true ∧
    after (exec (.invall P0 0) (rdyWith (fun k => { k with tlb := [tlbPage] }) [])) (fun t => (t.core 0).tlb == []) = true ∧
    after (exec (.invwalk P0 0) (rdy [])) (at_ 0x401) = true := by decide +kernel

theorem witness_Invalidations : readyB (long 0x2C 0) nopParcel (rdy [0x5000]) = true ∧ readyB (long 0x2D 0) nopParcel (rdy []) = true ∧ readyB (long 0x2E 0) nopParcel (rdy []) = true ∧
    ((reached (long 0x2D 0) nopParcel (rdy [])).core 0).pl = 2 ∧ ((reached (long 0x2D 0) nopParcel (rdy [])).core 0).sb = [] ∧
    readyB (long 0x2C 0) nopParcel (rdyWith (fun k => { k with sb := [⟨0x200, 1, 0, true, false, false, none⟩] }) [0x5000]) = true ∧
    readyB (long 0x2D 0) nopParcel (rdyWith (fun k => { k with sb := [⟨0x200, 1, 0, true, false, false, none⟩] }) []) = true ∧
    readyB (long 0x2E 0) nopParcel (rdyWith (fun k => { k with sb := [⟨0x200, 1, 0, true, false, false, none⟩] }) []) = true := by decide +kernel

/-- Every entry of C0's issue queue is taken. -/
def full (s : State) : State := { s with entries := s.entries.set 0 ((List.range 8).map (fun e => (e, { entry0 with taken := true }))) }
/-- Entry 3 belongs to the context, with or without a record. -/
def staged (r : Option StatusRec) (fin : Bool) (s : State) : State := withCore 0 (fun k => { k with banks := k.banks.map (fun e => (e.1, { e.2 with cstage := 8 })) })
  { s with entries := s.entries.set 0 [(3, { entry0 with taken := true, record := r, final := fin })] }

theorem test_vissue : after (exec (.vissue P0 0) (rdy [0x80])) (fun t => cells [0] t && flT (t.core 0).run.flags && t.iq.get 0 == [0] && (t.core 0).run.cstage == 1) = true ∧
    after (exec (.vissue P0 0) (full (rdy [0x80]))) (fun t => cells [0xFFFF_FFFF_FFFF_FFFF] t && !flT (t.core 0).run.flags) = true ∧
    after (exec (.vissue P0 0x100) (full (rdy [0x80]))) (fun t => cells [0x80] t && (t.core 0).held.isSome) = true ∧
    after (exec (.vwait P0 0) (staged (some ⟨1, 2, 3, 4⟩) true (rdy [3]))) (fun t => cells [1, 2, 3, 4] t && flT (t.core 0).run.flags && (t.core 0).run.cstage == 0 &&
      !(t.entry 0 3).taken) = true ∧
    after (exec (.vwait P0 0) (rdy [3])) (fun t => cells [0, 0, 0, 0] t && !flT (t.core 0).run.flags) = true := by decide +kernel

theorem witness_ChainIssueAndStatus :
    readyB (long 0x20 0) nopParcel (rdy [0x80]) = true ∧ okSame (progAddr 0 false 0 0x80 (reached (long 0x20 0) nopParcel (rdy [0x80]))) (reached (long 0x20 0) nopParcel (rdy [0x80])) = true ∧
    readyB (long 0x20 0x100) nopParcel (full (rdy [0x80])) = true ∧ (∀ d : Fin 8, ((full (rdy [0x80])).entry 0 d).taken = true) ∧
    ((rdy [0x80]).entry 0 0).taken = false ∧ readyB (long 0x21 0) nopParcel (rdy (8 :: List.replicate 28 0)) = true ∧ readyB (long 0x21 256) nopParcel (staged none false (rdy [3])) = true ∧
    readyB (long 0x21 0) nopParcel (staged (some ⟨1, 2, 3, 4⟩) false (rdy [3])) = true ∧ ((staged (some ⟨1, 2, 3, 4⟩) true (rdy [3])).entry 0 3).final = true ∧
    (bank 0 (staged none false (rdy [3]))).cstage.getLsbD 3 = true := by decide +kernel

/-- MOVB of 5 bytes that ends in one word: one element; and of 8 bytes from a misaligned place: the element up to the word's end (R241). -/
theorem test_movb : after (exec (.movb P0 0x044) (rdy [5, 0x1020, 0x1000])) (fun t => cells [] t && sbByte (t.core 0).sb 0x1024 == some 0x84 && sbByte (t.core 0).sb 0x1025 == none) = true ∧
    after (exec (.movb P0 0x044) (rdy [8, 0x1026, 0x1000])) (fun t => cells [6, 0x1028, 0x1002] t && at_ 0x400 t) = true ∧
    after (exec (.movb P0 0x044) (rdy [0, 1, 1])) (fun t => cells [] t && at_ 0x401 t) = true := by decide +kernel

theorem witness_MovbElements : readyB (long 0x1C 0x044) nopParcel (rdy [0, 1, 1]) = true ∧ readyB (long 0x1C 0x044) nopParcel (rdy [8, 0x1026, 0x1000]) = true ∧
    okSame (loadPieces 0 1 0x1000 2 needRead false (reached (long 0x1C 0x044) nopParcel (rdy [8, 0x1026, 0x1000]))) (reached (long 0x1C 0x044) nopParcel (rdy [8, 0x1026, 0x1000])) = true ∧
    okSame (storeBytes 0 1 0x1026 2 0 (reached (long 0x1C 0x044) nopParcel (rdy [8, 0x1026, 0x1000]))) (reached (long 0x1C 0x044) nopParcel (rdy [8, 0x1026, 0x1000])) = true ∧
    readyB (long 0x1C 0x044) nopParcel (rdy [5, 0x1020, 0x1000]) = true := by decide +kernel

/-- STM stores the lowest cell of the mask first, LDM loads into it (R246). -/
theorem test_blocks : after (exec (.stm P0 0x040) (rdy [0x1000, 6, 10, 11, 12])) (fun t => cells [0x1008, 4, 10, 11, 12] t && sbByte (t.core 0).sb 0x1000 == some 11) = true ∧
    after (exec (.ldm P0 0x040) (rdy [0x1000, 4, 10, 11, 12])) (cells [10, 11, 0x8786_8584_8382_8180]) = true ∧
    after (exec (.ldm P0 0x040) (rdy [0x1000, 4, 10, 11])) (fun t => fieldAt 0 8 (t.core 0).run.estat == 7) = true := by decide +kernel

theorem witness_CellBlocks : ([(false, (0x28 : Nat)), (true, 0x29)].all (fun r =>
      readyB (long r.2 0x040) nopParcel (rdy [0x1000, 0, 10]) && readyB (long r.2 0x040) nopParcel (rdy [0x1000, 6, 10, 11, 12]) && readyB (long r.2 0x040) nopParcel (rdy [0x1000, 8, 10]) &&
      readyB (long r.2 0x040) nopParcel (rdy [0x1001, 1, 10]))) = true ∧
    okOut (loadBytes 0 1 0x1000 8 needRead false (reached (long 0x29 0x040) nopParcel (rdy [0x1000, 6, 10, 11, 12]))) = true ∧
    okOut (storeBytes 0 1 0x1000 8 11 (reached (long 0x28 0x040) nopParcel (rdy [0x1000, 6, 10, 11, 12]))) = true := by decide +kernel

/-- SAVEU's header word with two operand cells below the address and one return cell (R244, R295). -/
theorem test_saveu : after (exec (.saveu P0 0x040) (rdyR [0x1200, 5, 6] [7])) (fun t => cells [0x1208, 5, 6] t && at_ 0x400 t) = true ∧
    after (exec (.loadu P0 0x040) (rdy [0x1000])) (fun t => fieldAt 0 8 (t.core 0).run.estat == 1) = true ∧
    after (exec (.loadl P0 0x040) (rdy [0x1008])) (fun t => fieldAt 0 8 (t.core 0).run.estat == 4) = true := by decide +kernel

/-- An upper save area at 0x1000 that holds one operand cell, 0x55, and no return cell. -/
def areaLine : Line := BitVec.ofNat 512 (0x1000_0000_0000_0001 + 0x55 * 2 ^ 192)
def withArea (s : State) : State := withCore 0 (fun k => { k with dcache := [(0x40, ⟨areaLine, false⟩)] }) s
/-- A lower save area at 0x1000 of no cells and Task privilege. -/
def lowerArea (s : State) : State := withCore 0 (fun k => { k with dcache := (List.range 6).map (fun i => (0x40 + i, ⟨if i = 0 then BitVec.ofNat 512 0x2000_0000_0000_0000 else 0, false⟩)) }) s

theorem test_loadu : after (exec (.loadu P0 0x040) (withArea (rdy [0x1000]))) (cells [0x55]) = true := by decide +kernel

theorem witness_SavesAndLoadsOfContexts :
    readyB (long 0x24 0x040) nopParcel (rdyR [0x1200, 5, 6] [7]) = true ∧ okOut (storeBytes 0 1 0x1200 8 0 (reached (long 0x24 0x040) nopParcel (rdyR [0x1200, 5, 6] [7]))) = true ∧
    okOut (nextCell 0 1 0x1200 (reached (long 0x24 0x040) nopParcel (rdyR [0x1200, 5, 6] [7]))) = true ∧ readyB (long 0x25 0x040) nopParcel (rdy [0x1201]) = true ∧
    readyB (long 0x25 0x040) nopParcel (rdy [0x1200]) = true ∧ readyB (long 0x26 0x040) nopParcel (rdy [0x1001]) = true ∧
    readyB (long 0x26 0x040) nopParcel (withArea (rdy [0x1000])) = true ∧ okOut (readArea 0 1 1 0x1000 (reached (long 0x26 0x040) nopParcel (withArea (rdy [0x1000])))) = true ∧
    okOut (readArea 0 1 4 0x1000 (reached (long 0x26 0x040) nopParcel (withArea (rdy [0x1000])))) = true ∧ readyB (long 0x26 0x040) nopParcel (rdy [0x1000]) = true ∧
    readyB (long 0x27 0x040) nopParcel (lowerArea (rdy [0x1000])) = true ∧ okOut (readArea 0 1 1 0x1000 (reached (long 0x27 0x040) nopParcel (lowerArea (rdy [0x1000])))) = true ∧
    okOut (readArea 0 1 43 0x1000 (reached (long 0x27 0x040) nopParcel (lowerArea (rdy [0x1000])))) = true := by decide +kernel

/-! ## Exceptions (R207 to R209, R229, R336, R342 to R346) -/

theorem test_illegal : after (exec (.reservedParcel P0 0) (rdy [9])) (fun t => cells [9] t && fieldAt 0 8 (t.core 0).run.estat == 1 && (t.core 0).run.epc == 0x400 && at_ 0x10 t) = true ∧
    after (exec (.reservedParcel P0 (longParcel 2 0x3F 0)) (rdy [])) (fun t => fieldAt 0 8 (t.core 0).run.estat == 1) = true := by decide +kernel

theorem witness_ReservedParcelsRaiseIllegal : readyB 0 nopParcel (rdy []) = true ∧ majorListed 0 = false ∧ readyB (long 0x35 0x3FF) nopParcel (rdy []) = true ∧
    fieldLegal 0x35 0x3FF = false ∧ readyB (pair 0x70 0x71) nopParcel (rdy []) = true ∧ ((reached 0 nopParcel (rdy [])).core 0).divide = none := by decide +kernel

theorem test_priv : after (exec (.invall P0 0) (task [])) (fun t => fieldAt 0 8 (t.core 0).run.estat == 2) = true ∧
    after (exec (.wait P0 0) (task [])) (fun t => fieldAt 0 8 (t.core 0).run.estat == 2 && (t.core 0).pl == 1) = true := by decide +kernel

theorem witness_PrivilegedOperationsRaisePriv : ([0x24, 0x25, 0x26, 0x27, 0x30, 0x31, 0x34, 0x35, 0x38, 0x2C, 0x2D, 0x2E].all (fun m => readyB (long m 0) nopParcel (task []))) = true ∧
    ((reached (long 0x24 0) nopParcel (task [])).core 0).pl = 0 := by decide +kernel

theorem witness_SynchronousEntry : ¬ (excPriv.code.toNat = 0x08 ∧ (core0.level).toNat = 7) ∧ ¬ (excStkovf.code.toNat = 0x08 ∧ (core0.level).toNat = 7) ∧
    ¬ (excPriv.code.toNat = 0x08 ∧ ({ core0 with level := 7 } : Core).level.toNat = 7) := by decide +kernel

/-- A failed condition: condition T with T = 0. -/
def P1 : PCtx := ⟨0, 0x3F, 1⟩

theorem test_failed : after (exec (.add P1 0) (rdy [1, 2])) (fun t => cells [1, 2] t && at_ 0x401 t) = true ∧
    after (exec (.brx P1 0 nopParcel) (rdy [0x500])) (fun t => cells [0x500] t && (t.core 0).delay == some ⟨0x400, false, 0, false, false⟩) = true ∧
    condHolds 1 (bank 0 (rdy [])).flags = false := by decide +kernel

theorem witness_FailedConditionsDoNothing : ([pairParcel 1 0x20 0, longParcel 1 0x01 0, pairParcel 1 0x83 0, longParcel 1 0x3C 1, longParcel 1 0x08 0, longParcel 1 0x09 0,
    pairParcel 1 0x80 0, pairParcel 1 0x81 0, pairParcel 1 0x82 0, longParcel 1 0x30 0].all (fun w => readyB w nopParcel (rdy []))) = true := by decide +kernel

/-! ## Start-up, resets, clocks, the set-up window, events (R357 to R371, R459, R465 to R483, R570 to R574) -/

def ties : TieOffs := ⟨1, 0, 0, false, false, 0⟩
def pins : PanelPins := ⟨false, true, false⟩
def atPhase (p : Phase) (s : State) : State := { s with rst := { s.rst with phase := p } }

/-- COLD_N is released, three steps follow, and UP is set; PAIRPOS 3 is reserved (R7, R473). -/
theorem test_startup : after (exec (.coldResetRelease ties) State.reset) (fun t => t.rst.phase == .startup 1 && t.id.tilebase == 1) = true ∧
    after (exec (.coldResetRelease { ties with pairpos := 3 }) State.reset) (fun t => t.rst.phase == .cold && t.id.paramerr) = true ∧
    after (exec .startupStepDone (atPhase (.startup 3) State.reset)) (fun t => t.rst.phase == .up && t.cal.wanted) = true ∧
    stopped (exec .startupStepDone upState) = true := by decide +kernel

theorem witness_StartUpSequence : State.reset.rst.phase = .cold ∧ State.reset.id.paramerr = false ∧ (atPhase .aopor upState).rst.phase = .aopor ∧
    (atPhase (.startup 1) upState).rst.phase = .startup 1 ∧ (atPhase (.startup 2) upState).rst.phase = .startup 2 ∧ (atPhase (.startup 3) upState).rst.phase = .startup 3 := by
  decide +kernel

theorem witness_StepRunsTheFrontCommand : (upState.withCommand .pollRead).pending = .pollRead :: [] ∧ upState.pending = [] := by decide +kernel

/-- The idle step counts AOTIME and the troupe's time (R554). -/
theorem test_idle : after (step upState) (fun t => t.log.aotime == 1 && t.troupe.now == 20) = true := by decide +kernel

def roleIs (r : Role) (s : State) : State := { s with role := { s.role with role := r } }

theorem test_resets : after (exec (.warmReset .pin) (roleIs .manager (rdy [1]))) (fun t => t.rst.phase == .warm && t.role.role == .fenced && t.role.freason == 5 &&
      (t.core 0).st == .off && t.pamap == [(0, 0x181)]) = true ∧
    after (exec .warmResetRelease (atPhase .warm upState)) (fun t => t.rst.phase == .up) = true ∧
    after (exec (.coreReset .host 1 2) (rdy [1])) (fun t => (t.core 0).st == .off && t.rst.run == 2) = true ∧
    after (exec (.coldResetAssert) (rdy [1])) (fun t => t.rst.phase == .cold && t.rst.cause == 2) = true ∧
    after (exec (.debugReset .pin) (halting upState)) (fun t => t.auth.level == 0 && t.weado.wfreeze == 0x1F0) = true := by decide +kernel

theorem witness_ResetsStrikeWhatR468Names : upState.rst.phase = .up ∧ mayAccess .host 2 0x20000 upState = true ∧ mayAccess (.core 0) 2 0x20000 (rdy []) = true ∧
    mayAccess .weado 2 0x20000 (halting upState) = true ∧ effLevel upState < 2 ∧ effLevel (halting upState) = 2 ∧ (atPhase .warm upState).rst.phase = .warm ∧
    (atPhase .warm upState).boot.passed = none ∧ (atPhase .warm State.reset).vs.wipePending = true ∧ clockOn (atPhase .warm State.reset) .vclk = true ∧
    (halting (rdyWith (fun k => { k with st := .halted }) [])).auth.level = 2 ∧ ((rdyWith (fun k => { k with st := .halted }) []).core 0).held = none := by decide +kernel

def stoppedClock (k : Clock) (s : State) : State := { s with rst := { s.rst with stopped := BitVec.ofNat 16 (2 ^ clockBit k) } }

theorem test_clocks : after (exec (.clockLost .vclk) upState) (fun t => t.rst.lost == 1 && !clockOn t .vclk && t.log.wcount == 1) = true ∧
    after (exec (.clockReturn .vclk) (stoppedClock .vclk upState)) (fun t => clockOn t .vclk) = true ∧
    after (exec .qualPassStart { upState with cal := { upState.cal with wanted := true } }) (fun t => t.cal.running && !t.cal.wanted) = true ∧
    after (exec .qualPassEnd { upState with cal := { upState.cal with running := true, band := 3 } }) (fun t => t.cal.qband == 3 && t.cal.qcount == 1 && t.cal.tagDroop) = true ∧
    after (exec (.droopGuard true) upState) (fun t => t.cal.droop) = true := by decide +kernel

/-- The band of R479 rises from 0 once the sample stands 2 °C above the next floor, 25 °C. -/
theorem test_temp : after (exec (.tempSample 108) upState) (fun t => t.cal.band == 1 && t.cal.wanted) = true ∧ after (exec (.tempSample 107) upState) (fun t => t.cal.band == 0) = true := by
  decide +kernel

theorem test_margin : after (exec (.linkMarginLow .emp0 0x0F) upState) (fun t => t.cal.trEmp0 && t.cal.retrains == 1) = true ∧
    after (exec (.linkMarginLow .emp0 0) { upState with cal := { upState.cal with running := true, restarts := 2 } }) (fun t => t.cal.qfail && !t.cal.running) = true ∧
    after (exec (.linkRetrainEnd .emp0) { upState with cal := { upState.cal with trEmp0 := true } }) (fun t => !t.cal.trEmp0) = true := by decide +kernel

theorem witness_ClocksAndCalibration : watched upState .spclk = true ∧ clockOn upState .spclk = true ∧ clockOn (stoppedClock (.dclk 3) upState) (.dclk 3) = false ∧
    upRuns upState = true ∧ vclkRuns upState = true ∧ (∀ i, upState.chain i = none) ∧ mayAccess .host 2 0x20040 upState = true ∧ clockOn upState .tmclk = true ∧
    upState.cal.band.toNat ≤ 5 ∧ ({ upState.cal with band := 5 } : Calib).band.toNat ≤ 5 ∧ hubRuns upState = true ∧ linkThere upState .emp0 = true ∧
    retraining upState.cal .emp0 = false ∧ (0 : BitVec 7).toNat < upState.cal.margin.toNat ∧ retraining { upState.cal with trPair := true } .pair = true := by decide +kernel

/-- PAMAP1 is written whole; half a word and an offset above the registers are errors; Weado needs its level (R570 to R573). -/
theorem test_window : after (exec (.setupRegisterWrite .host 0x91008 0xFF 0x1181) upState) (fun t => Tab.get 0 t.pamap 1 == 0x1181 && t.ports.last == .okay) = true ∧
    after (exec (.setupRegisterWrite .host 0x91008 0x0F 0x1181) upState) (fun t => Tab.get 0 t.pamap 1 == 0 && t.ports.last == .etgt) = true ∧
    after (exec (.setupRegisterWrite (.core 0) 0xF0000 0xFF 1) (rdy [])) (fun t => t.ports.last == .edec) = true ∧
    after (exec (.setupRegisterWrite .weado 0x91008 0xFF 1) upState) (fun t => Tab.get 0 t.pamap 1 == 0 && t.weado.denied && t.weado.sam.result == 4) = true ∧
    stopped (exec (.setupRegisterWrite (.core 1) 0x91008 0xFF 1) upState) = true := by decide +kernel

theorem witness_VersionRegister : mayAccess .host (writeLevel upState 0) 0 upState = true ∧ mayAccess (.core 0) (writeLevel (rdy []) 0) 0 (rdy []) = true := by decide +kernel

theorem witness_SetupWindowAccesses : mayAccess .host (writeLevel upState 0xEFFF8) 0xEFFF8 upState = true ∧ coreLives (rdy []) 0 = true ∧ State.reset.rst.phase ≠ .up ∧
    ({ upState with weado := { upState.weado with sam := { upState.weado.sam with busy := true } } } : State).weado.sam.busy = true ∧ upState.weado.sam.busy = false ∧
    effLevel upState < writeLevel upState 0x91008 := by decide +kernel

def withSrc (e : EvSrc) (s : State) : State := { s with ev := [(5, e)] }

theorem test_arrivals : after (exec (.eventArrival 0) { upState with ev := [(0, { evSrc0 with en := true, trgen := true, cnt := 255 })] }) (fun t =>
      (Tab.get evSrc0 t.ev 0).cnt == 255 && (Tab.get evSrc0 t.ev 0).ovf && (Tab.get evSrc0 t.ev 0).trgcnt == 1) = true ∧
    after (exec (.evsrcSet .host 0x100 0xA8) { upState with ev := [(0x100, { evSrc0 with en := true })] }) (fun t => (Tab.get evSrc0 t.ev 0x100).cnt == 1) = true ∧
    after (exec (.snoopInvalidate 0x40 9) (rdyWith (fun k => { k with lockRes := some 0x40 }) [])) (fun t => t.ports.snpack == [9] && (t.core 0).dcache == [] &&
      (t.core 0).lockRes == none) = true := by decide +kernel

theorem witness_ArrivalsAndSnoops : pulseSource 0 = true ∧ pulseSource 0xC0 = true ∧ upState.pwr.state.toNat ≤ 2 ∧
    (Tab.get evSrc0 (withSrc { evSrc0 with en := true, cnt := 254 } upState).ev 5).cnt.toNat < 255 ∧ mayAccess .host 2 (0x50000 + 8 * 511) upState = true ∧
    (0x80 : W64).getLsbD 7 = true := by decide +kernel

/-! ## Roles and the troupe (R17 to R23, R421 to R451) -/

/-- Node 1 as a worker of node 9's troupe in slot 3, epoch 7, term 4, its lease running. -/
def worker : State := { upState with
  role := { upState.role with role := .worker, slot := 3, epoch := 7 }
  troupe := { upState.troupe with node := 1, mnode := 9, mepoch := 4, now := 1000, leaseEnd := some 50000, rounds := [(6, 500)] } }
/-- Node 9 as the manager of that troupe, slot 3 LIVE at node 1, node 2 its deputy. -/
def manager : State := { upState with
  role := { upState.role with role := .manager, epoch := 4 }
  troupe := { upState.troupe with
    node := 9, mnode := 9, mepoch := 4, now := 1000, dnode := 2, dvalid := true, hbseq := 6, leaseEnd := some 20000, rounds := [(6, 500)]
    slots := [(3, { slot0T with st := .live, node := 1, epoch := 7 })] } }
def deputy : State := { upState with
  role := { upState.role with role := .deputy, epoch := 4 }
  troupe := { upState.troupe with node := 2, mnode := 9, mepoch := 4, now := 200000, lastHb := 100000 } }
/-- A message from a node to a node, in slot 3, epoch 7, term 4. -/
def msg (ty src dst : BitVec 8) : Msg := { msgOf ty with src := src, dst := dst, slot := 3, epoch := 7, mepoch := 4, hbseq := 7, ackseq := 6 }
def sent (ty : BitVec 8) (t : State) : Bool := t.troupe.tx.map (·.type) == [ty]

theorem test_roles : after (exec (.reqroleManager .host) upState) (fun t => t.role.role == .manager && t.troupe.solo) = true ∧
    after (exec (.reqroleManager .host) worker) (fun t => t.role.role == .worker && t.role.roleErr) = true ∧
    after (exec (.reqroleFenced .host) worker) (fun t => t.role.role == .fenced && t.role.freason == 3) = true ∧
    after (exec (.reqroleSpare .host) (roleIs .fenced upState)) (fun t => t.role.resetting) = true ∧
    after (exec .roleResetDone { roleIs .fenced upState with role := { upState.role with role := .fenced, resetting := true, epoch := 5 } }) (fun t =>
      t.role.role == .spare && t.role.epoch == 0) = true ∧
    after (exec .leaseExpiry { worker with troupe := { worker.troupe with now := 50000 } }) (fun t => t.role.role == .fenced && t.role.freason == 1) = true ∧
    stopped (exec .leaseExpiry worker) = true := by decide +kernel

def flushing (s : State) : State := { s with pwr := { s.pwr with flush := some ⟨0, 1000, false, .working⟩ } }
def resettingTile : State := { upState with role := { upState.role with role := .fenced, resetting := true } }

theorem witness_RoleRequests : mayAccess .host 2 0x10000 upState = true ∧ (flushing upState).pwr.flush.isSome = true ∧ upState.pwr.flush = none ∧
    upState.role.role = .spare ∧ upState.role.fused = false ∧ upState.fuses.now ≠ 5 ∧ (roleIs .fenced upState).role.role = .fenced ∧ worker.role.role ≠ .fenced ∧
    resettingTile.role.resetting = true ∧ upRuns resettingTile = true ∧ anyChain resettingTile = false ∧ responsesDue resettingTile = false ∧
    hubListens worker = true ∧ worker.troupe.leaseEnd = some 50000 ∧ manager.troupe.solo = false ∧ hubListens manager = true := by decide +kernel

/-- A worker answers HEARTBEAT and renews its lease from round 6; another term's is stale, and another node's is bad (R22, R424, R426, R430). -/
theorem test_messages : after (exec (.heartbeat (msg 1 9 1)) worker) (fun t => sent 0x02 t && t.troupe.leaseEnd == some 64500) = true ∧
    after (exec (.heartbeat { msg 1 9 1 with mepoch := 5 }) worker) (fun t => sent 0x02 t == false && t.troupe.stale == 1) = true ∧
    after (exec (.heartbeat (msg 1 9 2)) worker) (fun t => t.troupe.bad == 1) = true ∧ after (exec (.hback (msg 2 9 1)) worker) (fun t => t.troupe.bad == 1) = true ∧
    after (exec (.hback { msg 2 1 9 with epoch := 6 }) manager) (fun t => sent 0x10 t && t.troupe.stale == 1) = true ∧
    after (exec (.reservedMessage (msg 0x14 9 1)) worker) (fun t => t.troupe.bad == 1) = true ∧
    after (exec (.hback (msg 2 1 9)) manager) (fun t => (t.slotOf 3).ackAt == 1000 && (t.slotOf 3).ackRound == 7) = true ∧
    after (exec (.dephb { msg 3 2 9 with hbseq := 6 }) manager) (fun t => t.troupe.leaseEnd == some 64500) = true := by decide +kernel

theorem test_messages2 : after (exec (.probe (msg 8 9 1)) upState) (fun t => t.troupe.bad == 1) = true ∧
    after (exec (.probe (msg 8 9 1)) worker) (sent 0x09) = true ∧
    after (exec (.admitMsg (msg 0x0A 9 0)) upState) (fun t => sent 0x0B t && t.role.role == .worker && t.role.slot == 3 && t.role.epoch == 7) = true ∧
    after (exec (.admitack (msg 0x0B 1 9)) { manager with troupe := { manager.troupe with slots := [(3, { slot0T with st := .admitting, node := 1, epoch := 7 })] } }) (fun t =>
      (t.slotOf 3).st == .live) = true ∧
    after (exec (.appoint { msg 0x0C 9 0 with m2 := 5 }) upState) (fun t => sent 0x0D t && t.role.role == .deputy && t.troupe.dgen == 5) = true ∧
    after (exec (.appointack (msg 0x0D 6 9)) { manager with troupe := { manager.troupe with busy := .appoint 6 17000 } }) (fun t => t.troupe.dnode == 6 && t.troupe.result == 1) = true ∧
    after (exec (.release (msg 0x0E 9 1)) worker) (fun t => t.troupe.releasing) = true ∧
    after (exec (.released (msg 0x0F 1 9)) manager) (fun t => (t.slotOf 3).st == .empty) = true ∧
    after (exec (.fenced (msg 0x10 9 1)) worker) (fun t => t.role.role == .fenced && t.role.freason == 2) = true := by decide +kernel

theorem test_messages3 : after (exec (.grpmirror { msg 0x12 9 2 with m2 := 65, epoch := 4 }) deputy) (fun t => sent 0x13 t && Tab.get 0 t.troupe.groups 1 == 2) = true ∧
    after (exec (.grpack (msg 0x13 2 9)) manager) (fun t => t.troupe.tx == []) = true ∧
    after (exec (.alert (msg 0x11 1 9)) manager) (fun t => t.troupe.slrx.length == 1) = true ∧
    after (exec (.proberep (msg 0x09 7 9)) manager) (fun t => t.troupe.slrx.length == 1) = true ∧
    after (exec (.firmwareMessage (msg 0x20 9 1)) { worker with troupe := { worker.troupe with slrx := List.replicate 64 (msg 0x20 9 1) } }) (fun t =>
      t.troupe.ovf && t.troupe.rxovf == 1 && t.troupe.slrx.length == 64) = true := by decide +kernel

theorem witness_MessagesAreCheckedFirst : hubListens State.reset = false ∧ hubListens worker = true ∧ (msg 1 9 2).dst ≠ worker.troupe.node ∧
    msgFate worker { msg 1 9 1 with mepoch := 5 } = .stale ∧ msgFate manager { msg 2 1 9 with epoch := 6 } = .stale ∧ msgFate (flushing worker) (msg 1 9 1) = .accepted ∧
    typeListed 0x14 = false ∧ (msg 1 9 1).dst = worker.troupe.node ∧ 1 ∈ acceptedTypes .worker ∧ 0x10 ∈ acceptedTypes .worker ∧ 0x0A ∈ acceptedTypes .spare ∧
    9 ∈ acceptedTypes .manager ∧ 2 ∈ acceptedTypes .manager ∧ 0x0B ∈ acceptedTypes .manager ∧ (msg 2 1 9).src ≠ manager.troupe.dnode ∧ worker.wrap.hold = false := by
  decide +kernel

theorem heard_of {m : Msg} {s : State} (h : (hubListens s && !oddFused s && msgFate s m == .accepted && (s.pwr.flush.isNone || !roleMessage m)) = true) :
    heard m s := by
  simpa [heard, and_assoc] using h

def admitting : State := { manager with troupe := { manager.troupe with
  busy := .admission 3 17000, slots := [(3, { slot0T with st := .admitting, node := 1, epoch := 7 })] } }
def appointing : State := { manager with troupe := { manager.troupe with dvalid := false, busy := .appoint 6 17000 } }

theorem witness_AcceptedMessages : heard (msg 1 9 1) worker ∧ leaseOver worker = false ∧ heard (msg 1 9 1) { worker with troupe := { worker.troupe with now := 50000 } } ∧
    heard { msg 1 9 2 with epoch := 4 } deputy ∧ heard (msg 2 1 9) manager ∧ heard { msg 3 2 9 with slot := 0 } manager ∧ heard (msg 8 9 1) worker ∧ heard (msg 0x0A 9 0) upState ∧ heard (msg 0x0B 1 9) admitting ∧
    heard (msg 0x0C 9 0) upState ∧ heard (msg 0x0D 6 9) appointing ∧ heard (msg 0x0E 9 1) worker ∧ heard (msg 0x0F 1 9) manager ∧ heard (msg 0x10 9 1) worker ∧
    heard { msg 0x12 9 2 with epoch := 4 } deputy ∧ heard (msg 0x13 2 9) manager ∧ heard (msg 0x09 7 9) manager ∧ heard (msg 0x11 1 9) manager ∧ heard (msg 0x2F 9 1) worker := by
  refine ⟨heard_of ?_, ?_, heard_of ?_, heard_of ?_, heard_of ?_, heard_of ?_, heard_of ?_, heard_of ?_, heard_of ?_, heard_of ?_, heard_of ?_, heard_of ?_, heard_of ?_,
    heard_of ?_, heard_of ?_, heard_of ?_, heard_of ?_, heard_of ?_, heard_of ?_⟩ <;> decide +kernel

def at_ns (n : Nat) (s : State) : State := { s with troupe := { s.troupe with now := n } }
def claimOut (s : State) : State := { s with troupe := { s.troupe with claim := .out } }

theorem test_timers : after (exec .heartbeatRound manager) (fun t => t.troupe.tx.map (·.dst) == [1, 2] && t.troupe.hbseq == 7) = true ∧
    after (exec .dephbTimer deputy) (sent 0x03) = true ∧ after (exec (.slotDead 3) (at_ns 96000 manager)) (fun t => (t.slotOf 3).st == .dead) = true ∧
    stopped (exec (.slotDead 3) (at_ns 95999 manager)) = true ∧ after (exec .admitTimeout (at_ns 17000 admitting)) (fun t => (t.slotOf 3).st == .dead && t.troupe.result == 3) = true ∧
    after (exec .appointTimeout (at_ns 17000 appointing)) (fun t => t.troupe.result == 3) = true ∧
    after (exec .releaseDrainDone { worker with troupe := { worker.troupe with releasing := true } }) (fun t => sent 0x0F t && t.role.role == .spare) = true ∧
    after (exec .managerClaim manager) (fun t => t.troupe.claim == .out) = true ∧ after (exec .deputyClaim deputy) (fun t => t.troupe.claim == .no) = false := by decide +kernel

theorem test_claims : after (exec (.managerClaimResponse .okay 1) (claimOut manager)) (fun t => sent 0x10 t && t.troupe.solo) = true ∧
    after (exec (.managerClaimResponse .okay 2) (claimOut manager)) (fun t => t.troupe.claim == .lost) = true ∧
    after (exec (.managerLeaseExpiry) (at_ns 20000 manager)) (fun t => t.role.role == .fenced && t.role.freason == 1) = true ∧
    after (exec (.deputyClaimResponse .okay 2) (claimOut deputy)) (fun t => t.role.role == .manager && t.troupe.mepoch == 5) = true ∧
    after (exec (.deputyClaimResponse .okay 1) (claimOut deputy)) (fun t => t.role.role == .fenced) = true ∧
    after (exec (.deputyClaimResponse .etgt 0) (claimOut deputy)) (fun t => t.troupe.claim == .retry 208000) = true := by decide +kernel

def scanTile : State := { manager with rings := { manager.rings with scans := [⟨0, 1, .mirror 900⟩] } }

theorem test_mirror : after (exec .grpmirrorTimeout scanTile) (fun t => t.rings.scans.all (fun x => x.step == .add)) = true := by decide +kernel

theorem witness_HubTimersAndClaims : hubListens manager = true ∧ hbFrozen manager = false ∧ manager.troupe.nextRound ≤ manager.troupe.now ∧ hubListens deputy = true ∧
    deputy.troupe.nextRound ≤ deputy.troupe.now ∧ (manager.slotOf 3).st = .live ∧ (manager.slotOf 3).ackAt + 96000 ≤ (at_ns 96000 manager).troupe.now ∧
    (at_ns 17000 admitting).troupe.busy = .admission 3 17000 ∧ (at_ns 17000 appointing).troupe.busy = .appoint 6 17000 ∧
    anyChain worker = false ∧ queuesEmpty worker = true ∧ worker.dma.chans = [] ∧ scanTile.rings.scans = [⟨0, 1, .mirror 900⟩] ∧ 900 ≤ scanTile.troupe.now ∧
    manager.troupe.claim = .no ∧ manager.troupe.leaseEnd = some 20000 ∧ 20000 < manager.troupe.now + 32000 ∧ (claimOut manager).troupe.claim = .out ∧
    Owed.claim ∉ manager.ports.owed ∧ deputy.troupe.claim = .no ∧ deputy.troupe.lastHb + 96000 ≤ deputy.troupe.now ∧
    ({ deputy.troupe with claim := .retry 200000 } : Troupe).claim = .retry 200000 := by decide +kernel

theorem test_slcmd : after (exec (.slcmdProbe .host 5 3) manager) (fun t => sent 0x08 t && t.troupe.result == 1) = true ∧
    after (exec (.slcmdProbe .host 5 3) worker) (fun t => t.troupe.result == 2 && t.troupe.tx == []) = true ∧
    after (exec (.slcmdAdmit .host 5 4) manager) (fun t => sent 0x0A t && (t.slotOf 4).st == .admitting && (t.slotOf 4).epoch == 1 && t.troupe.busy == .admission 4 17000) = true ∧
    after (exec (.slcmdAdmit .host 5 3) manager) (fun t => t.troupe.result == 2) = true ∧
    after (exec (.slcmdAppoint .host 6 0) manager) (fun t => sent 0x0C t && t.troupe.dgen == 1) = true ∧
    after (exec (.slcmdRelease .host 0 3) manager) (fun t => sent 0x0E t && t.troupe.result == 1) = true ∧
    after (exec (.slcmdFence .host 1 3) manager) (fun t => sent 0x10 t && (t.slotOf 3).st == .dead) = true ∧
    after (exec (.slcmdFence .host 2 0) manager) (fun t => sent 0x10 t && !t.troupe.dvalid) = true := by decide +kernel

theorem test_sltx : after (exec (.sltxSend .host 0x30 0 false) worker) (fun t => sent 0x30 t && !t.troupe.refused) = true ∧
    after (exec (.sltxSend .host 0x40 0 false) worker) (fun t => t.troupe.tx == [] && t.troupe.refused) = true ∧
    after (exec (.slrxPop .host true) { worker with troupe := { worker.troupe with slrx := [msg 0x20 9 1, msg 0x21 9 1], ovf := true } }) (fun t =>
      t.troupe.slrx == [msg 0x21 9 1] && !t.troupe.ovf) = true := by decide +kernel

theorem witness_StringLinkCommands : mayAccess .host 2 0x10018 manager = true ∧ admitting.troupe.busy ≠ .no ∧ manager.troupe.busy = .no ∧ manager.role.role = .manager ∧
    worker.role.role ≠ .manager ∧ (manager.slotOf 3).st = .live ∧ (manager.slotOf 4).st = .empty ∧ manager.wrap.hold = false ∧ manager.role.fused = false ∧
    mayAccess .host 2 0xD0040 worker = true ∧ mayAccess .host 2 0xD00C0 worker = true ∧ manager.troupe.dvalid = true ∧ appointing.troupe.dvalid = false ∧
    (roleIs .fenced upState).role.role = .fenced ∧ deputy.role.role = .deputy := by decide +kernel

/-- A tile at an even place, wiped, and the same one fused with the pair link up. -/
def single : State := { upState with id := { upState.id with pairpos := 1 }, vs := { upState.vs with wipePending := false } }
def fusedTile : State := { single with role := { single.role with fused := true }, pair := { single.pair with linkup := true } }
def fusing : State := { single with pair := { single.pair with busy := true, until_ := 1000 } }
def partner : Partner := ⟨2, true, true, false, 1, true, 77, 3, 0⟩
def fuseErr (e : BitVec 4) (o : Host.Outcome State Fault Refusal) : Bool := after o (fun t => t.pair.err == e && !t.role.fused && !t.pair.busy)

theorem test_fuse : after (exec (.pairctlFuse .host) single) (fun t => t.pair.busy && t.pair.until_ == 100000) = true ∧ fuseErr 6 (exec (.pairctlFuse .host) { upState with id := { upState.id with pairpos := 1 } }) = true ∧
    fuseErr 1 (exec (.pairctlFuse .host) upState) = true ∧ after (exec (.fuseComplete partner) fusing) (fun t => t.role.fused && t.pair.linkup && !t.pair.busy) = true ∧
    fuseErr 5 (exec (.fuseComplete { partner with trained := false }) fusing) = true ∧ fuseErr 1 (exec (.fuseComplete { partner with pairpos := 1 }) fusing) = true ∧
    fuseErr 4 (exec (.fuseComplete { partner with lifecycle := 2 }) fusing) = true ∧ fuseErr 1 (exec .fuseTimeout (at_ns 1000 fusing)) = true ∧
    after (exec (.pairctlUnfuse .host true) fusedTile) (fun t => !t.role.fused) = true ∧ after (exec (.pairctlUnfuse .host false) fusedTile) (fun t => t.role.fused && t.pair.err == 3) = true := by
  decide +kernel

def fromPair (word : BitVec 23) : PairReq := ⟨word, 0, 0, 0xFF, false, 0, 0, false, false, 0, 0, 0, 3, 5⟩

theorem test_pairlink : after (exec (.pairLinkRequest (fromPair 8)) fusedTile) (fun t => t.vs.reqs.length == 1) = true ∧
    after (exec (.pairLinkRequest (fromPair 8364032)) fusedTile) (fun t => t.pair.answers == [(5, ⟨0, false⟩, true)]) = true ∧
    after (exec .pairLinkFailure fusedTile) (fun t => t.pair.failed) = true ∧
    after (exec (.pairLinkControlWord (.enteredFenced 3)) fusedTile) (fun t => t.role.role == .fenced && t.role.freason == 3) = true ∧
    after (exec (.pairLinkControlWord .unfuse) fusedTile) (fun t => !t.role.fused) = true := by decide +kernel

theorem witness_MacaronPairs : mayAccess .host 2 0xD0100 single = true ∧ fusing.pair.busy = true ∧ single.role.fused = false ∧ single.id.pairpos ≠ 0 ∧ pairIdle single = true ∧
    single.vs.baseEn = false ∧ fusedTile.role.fused = true ∧ fusedTile.role.role = .spare ∧ pairIdle fusedTile = true ∧ fusedTile.vs.wipePending = false ∧ upRuns fusing = true ∧
    (at_ns 1000 fusing).pair.until_ ≤ (at_ns 1000 fusing).troupe.now ∧ fusedTile.pair.linkup = true ∧ fusedTile.pair.failed = false ∧ hubRuns fusedTile = true ∧
    fusedTile.cal.trPair = false ∧ vclkRuns fusedTile = true ∧ (8364031 : BitVec 23).toNat < 8364032 ∧ (8364032 : BitVec 23).toNat = 8364032 ∧ fusedTile.role.role ≠ .fenced ∧
    fusedTile.pwr.flush = none ∧ (7 : BitVec 16) ∈ ({ fusedTile.pair with relay := [6, 7] } : Pair).relay ∧ leaseOver worker = false := by decide +kernel

/-! ## The Vector Store and the vector engine (R33 to R192) -/

def withVs (f : VStore → VStore) (s : State) : State := { s with vs := f s.vs }
/-- A wiped Vector Store. -/
def wiped : State := withVs (fun v => { v with wipePending := false }) upState
/-- Word 8 of local bank 8 holds 0x0123456789ABCDEF with a single-bit, double-bit or no error. -/
def wordState (e : WordErr) : State := withVs (fun v => { v with mem := v.mem.setWord (v.keyOf 8) 0x0123456789ABCDEF e }) wiped
def asks (r : BankReq) (s : State) : State := withVs (fun v => { v with reqs := [r] }) s
def ask (word : Nat) (op : BankOp) : BankReq := ⟨16, word, op, false, 0, false, .pair 5⟩

/-- Bank 5 goes to spare 0; a second name for it, a bank past 1,020 and SPARE 3 are refused (R40, R70). -/
theorem test_repair : after (exec (.vsRepairStart .host 5 0) wiped) (fun t => t.vs.repair.busy && !t.vs.repair.err) = true ∧
    after (exec (.vsRepairStart .host 1021 0) wiped) (fun t => !t.vs.repair.busy && t.vs.repair.err) = true ∧
    after (exec (.vsRepairStart .host 5 3) wiped) (fun t => t.vs.repair.err) = true ∧
    after (exec (.vsRepairStart .host 5 1) (withVs (fun v => { v with map0 := ⟨5, true, false⟩ }) wiped)) (fun t => t.vs.repair.err) = true ∧
    after (exec .vsRepairDone (withVs (fun v => { v with repair := { v.repair with busy := true, row := 8192, runLbank := 5, runSpare := 1 } }) wiped)) (fun t =>
      t.vs.map1 == ⟨5, true, false⟩ && t.vs.repair.done && !t.vs.repair.busy) = true := by decide +kernel

theorem test_wipe : after (exec .wipeStart upState) (fun t => t.vs.wipeBusy && t.vs.wipeRow == 7680) = true ∧
    after (exec .wipeDone (withVs (fun v => { v with wipeBusy := true, wipeRow := 8192 }) upState)) (fun t => !t.vs.wipePending && (Tab.get evSrc0 t.ev srcVsWipedone).cnt == 0) = true ∧
    stopped (exec .wipeDone upState) = true ∧
    after (exec .scrubStep (withVs (fun v => { v with scrubWait := 0 }) wiped)) (fun t => t.vs.reqs.length == 1) = true ∧
    after (exec (.starvationOverride 16 8) (asks { ask 8 .read with age := 512 } wiped)) (fun t => t.vs.reqs.map (·.ovr) == [true]) = true := by decide +kernel

theorem witness_VectorStoreCommands : mayAccess .host 2 0x30010 wiped = true ∧ vclkRuns wiped = true ∧
    ({ repair0 with busy := true, row := 8192 } : RepairState).row = 8192 ∧ wiped.vs.scrubEn = true ∧ wiped.vs.wipePending = false ∧ wiped.vs.reqs = [] ∧ wiped.vs.halves = [] ∧
    vclkEdges (atPhase (.startup 1) upState) = true ∧ vclkRuns (atPhase (.startup 1) upState) = false ∧ ({ ask 8 .read with age := 512 } : BankReq).age = 512 ∧
    vclkRuns upState = true ∧ upState.vs.wipePending = true ∧ upState.vs.wipeBusy = false ∧ upState.wrap.hold = false := by decide +kernel

def granted (r : BankReq) (s : State) : List (ReqDest × Nat × BankAnswer) × State := grantCycle false (asks r s)

/-- A single error is corrected, a double one is poison; words in the secure rows are refused to a request without Monitor privilege (R44, R61, R62). -/
theorem test_bank_reads : (granted (ask 8 .read) (wordState .single)).1 = [(.pair 5, 8, .data ⟨0x0123456789ABCDEF, false⟩)] ∧
    (granted (ask 8 .read) (wordState .double)).1 = [(.pair 5, 8, .data ⟨0x0123456789ABCDEF, true⟩)] ∧
    (granted (ask (7680 * 1021) .read) wiped).1 = [(.pair 5, 7680 * 1021, .refused (ask (7680 * 1021) .read))] ∧
    (granted (ask (7680 * 1021) .read) wiped).2.vs.denyCnt = 1 := by decide +kernel

/-- A whole word is written at once; some bytes take a read and a write half (R58). -/
theorem test_bank_writes : (granted (ask 8 (.write 5 255 false)) (wordState .double)).2.vs.mem = { wiped.vs.mem with cells := [⟨8 * wiped.vs.keyOf 8, 5⟩] } ∧
    (granted (ask 8 (.write 0xFF 1 false)) (wordState .good)).2.vs.halves = [(wiped.vs.bankOf 8, ⟨8, 0x0123456789ABCDFF, false, 0, 16, .pair 5⟩)] ∧
    after (exec .bankGrantCycle (asks (ask 8 .read) (wordState .good))) (fun t => t.pair.answers == [(5, ⟨0x0123456789ABCDEF, false⟩, false)] && t.vs.reqs == []) = true := by
  decide +kernel

theorem witness_BanksServeRequests : vclkRuns wiped = true ∧ (asks (ask 8 .read) wiped).vs.reqs = [ask 8 .read] ∧ (asks (ask 8 .read) wiped).vs.halves = [] ∧
    wiped.vs.repair.busy = false ∧ wiped.vs.wipePending = false ∧ detHeld (asks (ask 8 .read) wiped) (ask 8 .read) = false ∧ (8364031 : Nat) < 8364032 ∧
    isSecureWord (7680 * 1021) = true ∧ isSecureWord 8 = false ∧
    (withVs (fun v => { v with wipeBusy := true, wipeRow := 8191 }) upState).vs.wipeRow < 8192 ∧
    (withVs (fun v => { v with halves := [(8, ⟨8, 5, false, 0, 16, .pair 5⟩)] }) wiped).vs.halves = [(8, ⟨8, 5, false, 0, 16, .pair 5⟩)] := by decide +kernel

/-- A program of one VOR: MOV of the FP64 scalar 1.0 to word 0x1000, LEN 1, START 0 (R72 to R75, R137). -/
def movVor (len : W64) : Vor := ⟨0x2000011, len, 0x3FF0000000000000, 0, 0, 0x1000, 0, 0x100000000⟩
def movHdr : List W64 := [0x1C4E2, 0x1001, 0, 0x77, 0, 0, 0, 0]
def movQ (st : EntryStage) : QEntry := ⟨true, .phys 0x2000 0, { captured0 with priv := 2 }, st, [], movHdr, [movVor 1], false, none, none, false, false⟩
/-- The same, unread; and with its program in the Vector Store, at word 0x40. -/
def unread : QEntry := { movQ .queued with hdr := [], vors := [] }
def storedQ : QEntry := { unread with prog := .word 0x40 }
/-- The tile with that chain at the head of C0's queue. -/
def queued (q : QEntry) : State := let s := setEntry 0 0 q wiped
  { s with iq := s.iq.set 0 [0] }
def lineOf (l : List W64) : Line := BitVec.ofNat 512 ((l.zipIdx.map (fun x => x.1.toNat * 2 ^ (64 * x.2))).sum)
def movLine : Line := lineOf [0x2000011, 1, 0x3FF0000000000000, 0, 0, 0x1000, 0, 0x100000000]

theorem test_program : after (exec (.chainProgramRead 0 [⟨0x80, .okay, lineOf movHdr⟩, ⟨0x81, .okay, movLine⟩]) (queued unread)) (fun t =>
      t.entry 0 0 == movQ .read) = true ∧
    after (exec (.chainProgramRead 0 [⟨0x80, .etgt, 0⟩]) (queued unread)) (fun t => (t.entry 0 0).stage == .readFailed ⟨0x10, .etgt, 0x2000, false⟩) = true ∧
    after (exec .bankGrantCycle (queued storedQ)) (fun t => (t.entry 0 0).got == (List.range 8).map (fun i => (i, some ⟨0, false⟩))) = true ∧
    after (exec (.chainCheck 0) (queued (movQ .read))) (fun t => (t.entry 0 0).stage == .ready) = true ∧
    after (exec (.chainCheck 0) (queued { movQ .read with hdr := [0x1C4E3, 0x1001, 0, 0x77, 0, 0, 0, 0] })) (fun t => (t.entry 0 0).final && t.iq.get 0 == []) = true := by decide +kernel

/-- The causes of R88 and R146 that one wrong field gives. -/
theorem test_causes : ownCheck wiped true (movQ .read) = none ∧
    ([0x2000012, 0x2010011, 0x200C011, 0x2001011, 0x2800011, 0x12000011, 0x2400011].map (fun w => ownCheck wiped true { movQ .read with
      hdr := [0x1C4E2, if w = 0x2010011 then 0x1002 else 0x1001, 0, 0, 0, 0, 0, 0], vors := [{ movVor 1 with w0 := w }] })) =
      [some (0, 1), none, some (0, 3), some (0, 4), some (0, 5), some (0, 6), some (0, 10)] ∧
    ownCheck wiped false (movQ .read) = some (0x10, 0x14) ∧ ownCheck wiped true { movQ .read with hdr := [0x1C4E2, 0x1003, 0, 0x77, 0, 0, 0, 0] } = some (0x10, 0x11) ∧
    ownCheck wiped true { movQ .read with hdr := [0x1C4E2, 0x2001, 0, 0x77, 0, 0, 0, 0] } = some (0x10, 0x12) ∧
    ownCheck wiped true { movQ .read with hdr := [0x1C4E2, 0x1001, 5, 0x77, 0, 0, 0, 0] } = some (0x10, 0x13) := by decide +kernel

def triggered : State := { queued { movQ .ready with hdr := [0x2000001C4E2, 0x1001, 0, 0x77, 0, 0, 0, 0] } with ev := [(0, { evSrc0 with trgen := true, trgcnt := 2 })] }

theorem test_launch : after (exec .chainLaunch (queued (movQ .ready))) (fun t => t.iq.get 0 == [] && (t.chain 0).isSome && t.eng.launch.count == 1) = true ∧
    stopped (exec .chainLaunch triggered) = true ∧
    after (exec (.triggerConsume 0 0) triggered) (fun t => (t.entry 0 0).trig && (Tab.get evSrc0 t.ev 0).trgcnt == 1) = true := by decide +kernel

/-- A chain has been rejected, or launched, in this VCLK; and in deterministic mode a chain awaits the launch that a completion 3 VCLK ago triggers. -/
def rejecting : State := { wiped with eng := { wiped.eng with rejectT := wiped.eng.rejectT.set 0 (some wiped.eng.time) } }
def launchedTile : State := { wiped with eng := { wiped.eng with lastLaunch := some wiped.eng.time } }
def linkedTile : State := let s := queued { movQ .ready with hdr := [0x2000001C4E2, 0x1001, 0, 0x77, 0, 0, 0, 0], trig := true, trigAt := some 48 }
  { s with eng := { s.eng with detAct := true, time := 50 } }

theorem test_linked_launch : stopped (exec .bankGrantCycle linkedTile) = true ∧ after (exec .chainLaunch linkedTile) (fun t => (t.chain 0).isSome && t.eng.lastLaunch == some 50) = true ∧
    stopped (exec .chainLaunch { linkedTile with eng := { linkedTile.eng with time := 49 } }) = true ∧ stopped (exec .chainLaunch launchedTile) = true ∧
    headGroup 0 { queued (movQ .read) with eng := rejecting.eng } = [] := by decide +kernel

theorem witness_ChainsReachLaunch : nextToRead 0 (queued unread) = some 0 ∧ vclkRuns (queued unread) = true ∧ hNvor movHdr = 1 ∧
    readProgLine unread 0 [⟨0x80, .okay, lineOf movHdr⟩] (queued unread) = .words movHdr ∧ readProgLine unread 0 [⟨0x80, .etgt, 0⟩] (queued unread) = .fail .etgt 0x2000 false ∧
    readProgLine unread 1 [⟨0x81, .okay, movLine⟩] (queued unread) = .words [0x2000011, 1, 0x3FF0000000000000, 0, 0, 0x1000, 0, 0x100000000] ∧
    readProgLine unread 1 [⟨0x81, .edec, 0⟩] (queued unread) = .fail .edec 0x2040 false ∧ progSrc (queued unread) unread 0 = .ext 0x80 ∧
    nextToRead 0 (queued storedQ) = some 0 ∧ (queued storedQ).role.fused = false ∧ (queued storedQ).vs.reqs = [] ∧ nextProgLine storedQ (queued storedQ) = some 0 ∧
    progSrc (queued storedQ) storedQ 0 = .vs 0x40 0 true ∧
    (List.range 8).all (fun j => ((List.range 8).map (fun i => (i, some (⟨5, false⟩ : XWord)))).find? (fun g => g.1 == 8 * 0 + j) == some (8 * 0 + j, some ⟨5, false⟩)) = true ∧
    [((0 : Nat), (none : Option XWord))].find? (fun g => g.1 == 8 * 0) = some (8 * 0, none) ∧
    [((0 : Nat), some (⟨7, true⟩ : XWord))].find? (fun g => g.1 == 8 * 0) = some (8 * 0, some ⟨7, true⟩) ∧
    ownCheck wiped true { movQ .read with hdr := [0x1C4E2, 0x1003, 0, 0x77, 0, 0, 0, 0] } = some (0x10, 0x11) ∧
    (rejecting.eng.rejectT.get 0) = some rejecting.eng.time ∧ launchedNow launchedTile = true ∧ detLaunchDue linkedTile = true ∧ vclkRuns linkedTile = true ∧
    launchedNow (queued (movQ .ready)) = false ∧  groupArrived 0 (queued (movQ .read)) = true ∧ headGroup 0 (queued (movQ .read)) = [0] ∧
    ownCheck wiped true (movQ .read) = none ∧ groupMalformed [movQ .read] = false ∧ (movQ .read).final = false ∧ (movQ .read).orphan = false ∧
    upRuns triggered = true ∧ canConsume 0 0 triggered = true ∧ launchHeld (queued (movQ .ready)) = false ∧ engFrozen (queued (movQ .ready)) = false ∧
    nextLauncher (queued (movQ .ready)) = some 0 ∧ freeSlots (queued (movQ .ready)) = [0, 1, 2, 3] ∧ hNvor (lineWords (lineOf movHdr)) = 1 := by decide +kernel

/-- The chain in launch slot 0, ENGTIME 50. -/
def movChain : Chain := newChain (queued (movQ .ready)) 0 0 false movHdr [movVor 1] { captured0 with priv := 2 } [0]
def flies (ch : Chain) : State := let s := setChain 0 ch (queued (movQ .gone))
  { s with eng := { s.eng with time := 50 }, iq := s.iq.set 0 [] }
def emptyChain : Chain := { movChain with vors := [movVor 0] }

/-- The group enters at 0; at chain time 13, START + 5 + 8, its word is written (R142, R145). -/
theorem test_tick : after (exec (.chainTimeTick 0) (flies movChain)) (fun t => (t.chain 0).map (·.time) == some 1) = true ∧
    after (exec (.chainTimeTick 0) (flies { movChain with time := 12, groups := [(0, 1)], res := [(0, ⟨0x3FF0000000000000, false, true⟩)] })) (fun t =>
      (t.chain 0).map (·.time) == some 13 && t.vs.reqs.map (fun r => (r.word, r.op)) == [(0x1000, .write 0x3FF0000000000000 255 false)]) = true ∧
    after (exec (.chainComplete 0) (flies emptyChain)) (fun t => t.chain 0 == none && (t.entry 0 0).final) = true ∧
    stopped (exec (.chainComplete 0) (flies movChain)) = true := by decide +kernel

def sfault : SFault := ⟨0x41, 0, 0, false, 0x5000, true, 0, 0⟩
def suspendedTile : State := let s := flies { movChain with status := .suspended sfault }
  { s with eng := { s.eng with flt := s.eng.flt.set 0 { noFault with valid := true } } }

theorem test_fault_writes : after (exec (.chainResume .host 0) suspendedTile) (fun t => (t.chain 0).map (·.status) == some .resuming && !(t.eng.flt.get 0).valid) = true ∧
    after (exec (.chainCancel .host 0 false) suspendedTile) (fun t => t.chain 0 == none && (t.entry 0 0).final) = true ∧
    after (exec .engdetTakeEffect { wiped with eng := { wiped.eng with det := true } }) (fun t => t.eng.detAct) = true := by decide +kernel

theorem witness_ChainsInFlight : (flies movChain).chain 0 = some movChain ∧ vclkRuns (flies movChain) = true ∧ movChain.lastTick ≠ (flies movChain).eng.time ∧ movChain.group = [0] ∧
    movChain.status = .running ∧ chainComplete (flies movChain) 0 movChain = false ∧ (flies movChain).role.fused = false ∧ engFrozen (flies movChain) = false ∧
    (flies movChain).vs.wipePending = false ∧ linearFaultNow (flies movChain) movChain = none ∧ timeDone (pump 0 (flies movChain)) 0 movChain = true ∧
    chainComplete (flies emptyChain) 0 emptyChain = true ∧ ((flies emptyChain).entry 0 0).final = false ∧ ((flies emptyChain).entry 0 0).orphan = false ∧
    mayAccess .host 2 0x40100 suspendedTile = true ∧ (suspendedTile.eng.flt.get 0).valid = true ∧ (wiped.eng.flt.get 0).valid = false ∧
    wiped.chain 0 = none ∧ wiped.chain 3 = none ∧ wiped.eng.detAct = false := by decide +kernel

/-- A linear load of element 0 awaits its line; a record is due; a walk reads its level 1 entry. -/
def waits : Chain := { movChain with lines := [⟨0, 1, 0x40, 0x40, none, [], none⟩], lwOut := [⟨0, 0, 0, 12, 0x41, 0x41, 255, 0, 0⟩] }
def jTile (w o : Option JRec) : State := let s := flies { movChain with journal := { movChain.journal with jen := true, jbase := 2, waiting := w, outstanding := o } }
  { s with role := { s.role with role := .worker } }
def jrec : JRec := ⟨.done, 0, 0, 0, 1, 13, 0⟩
def walkTile (level : Nat) : State := let s := flies { movChain with lines := [] }
  { s with eng := { s.eng with walks := [⟨0, captured0, 5, 1, level, 0x3000, false, false, []⟩] } }
def chainAfter (c : Instr) (s : State) (q : Chain → Bool) : Bool := after (exec c s) (fun t => match t.chain 0 with
  | some ch => q ch
  | none => false)

theorem test_stream_lines : chainAfter (.streamLineResponse 0 0x40 .okay dataLine) (flies waits) (fun ch => ch.lines.all (fun l => (l.words.getD [])[1]? == some ⟨0x8F8E8D8C8B8A8988, false⟩)) = true ∧
    chainAfter (.streamLineResponse 0 0x40 .epoi 0) (flies waits) (fun ch => ch.lines.all (fun l => (l.words.getD []).all (·.poison))) = true ∧
    chainAfter (.streamLineResponse 0 0x40 .etgt 0) (flies waits) (fun ch => ch.lines.all (fun l => l.fault == some ⟨0x4B, 0, 0⟩)) = true ∧
    chainAfter (.streamWriteResponse 0 0x41 .okay) (flies waits) (fun ch => ch.lwOut == []) = true ∧
    chainAfter (.streamWriteResponse 0 0x41 .edec) (flies waits) (fun ch => ch.status == .ending 0x4C 0 0x1040) = true := by decide +kernel

theorem test_stream_walks : after (exec (.streamWalkResponse 0 5 .okay 0x0000000000004001) (walkTile 1)) (fun t => t.eng.walks.map (fun w => (w.level, w.ea)) == [(2, 0x4000)]) = true ∧
    chainAfter (.streamWalkResponse 0 5 .etgt 0) (walkTile 1) (fun ch => ch.pageFaults == [⟨5, 1, false, ⟨0x45, 1, 0x3000⟩⟩]) = true ∧
    chainAfter (.streamWalkResponse 0 5 .okay 0) (walkTile 1) (fun ch => ch.pageFaults == [⟨5, 1, false, ⟨0x41, 0, 0⟩⟩]) = true ∧
    after (exec (.streamWalkResponse 0 5 .okay 0x0000000000007069) (walkTile 4)) (fun t => t.eng.tlb.map (fun e => (e.page, e.base)) == [(5, 0x7000)]) = true := by decide +kernel

theorem test_journal : chainAfter (.journalRecordIssue 0) (jTile (some jrec) none) (fun ch => ch.journal.seq == 1 && ch.journal.outstanding == some jrec && ch.journal.waiting == none) = true ∧
    chainAfter (.journalWriteResponse 0 .okay) (jTile none (some jrec)) (fun ch => ch.journal.outstanding == none && ch.journal.jen) = true ∧
    after (exec (.journalWriteResponse 0 .edec) (jTile none (some jrec))) (fun t => t.log.wcount == 1) = true := by decide +kernel

theorem witness_StreamsAndJournal : (flies waits).chain 0 = some waits ∧ (flies waits).ports.owed = [] ∧ waits.status = .running ∧
    waits.lines.find? (fun b => b.pline == 0x40 && b.words.isNone && b.fault.isNone && b.part.isEmpty) = some ⟨0, 1, 0x40, 0x40, none, [], none⟩ ∧
    (walkTile 1).eng.walks = [⟨0, captured0, 5, 1, 1, 0x3000, false, false, []⟩] ∧ isLeaf 1 0x4001 = false ∧ isLeaf 4 0x7069 = true ∧ pteV 0x7069 = true ∧ pteV 0 = false ∧
    leafCheck captured0.priv.toNat false false false (leafEntry captured0.root 0 0x5000 4 0x7069) = none ∧
    leafCheck captured0.priv.toNat true false true (leafEntry captured0.root 0 0x5000 4 0x7069) ≠ none ∧
    waits.lwOut.find? (fun w => w.pline == 0x41) = some ⟨0, 0, 0, 12, 0x41, 0x41, 255, 0, 0⟩ ∧ vclkRuns (jTile (some jrec) none) = true ∧ (jTile (some jrec) none).eng.tails.get 0 = [] ∧
    (jTile (some jrec) none).role.role ≠ .spare ∧ (jTile (some jrec) none).role.role ≠ .fenced := by decide +kernel

/-! ## What reaches a core from outside its parcels (R262 to R284, R287 to R309, R317 to R332, R342 to R350, R363 to R365, R521, R522) -/

def withC0 (f : Core → Core) (s : State) : State := withCore 0 f s
/-- C0 waits at a load for line 0x41; it awaits a drain, a write-back and a walk. -/
def heldFor (h : HoldFor) : State := rdyWith (fun k => { k with held := some ⟨0x3F, long 0x20 0x243, nopParcel, false, h, [], [], false⟩ }) [0x1040]
def filling (held : Bool) (cache : Bool) : State :=
  withC0 (fun k => { k with fills := [⟨0x41, false, cache, false⟩] }) (if held then heldFor (.read 0x208 cache) else rdy [])
def walkOf (level : Nat) (ea : BitVec 52) : CWalk := ⟨0, 0, 2, 0x5000, ⟨false, false, false⟩, level, ea, false, [], false⟩
def walking (level : Nat) : State := withC0 (fun k => { k with walks := [walkOf level 0x3000] }) (rdy [])
/-- The oldest store, to bytes 0 of the word at `word` × 8, drains. -/
def draining (word : BitVec 49) : State := withC0 (fun k => { k with sb := [⟨word, 1, 0x77, true, false, false, none⟩] }) (rdy [])

theorem test_fills : after (exec (.lineFillResponse 0 false 0x41 .okay dataLine) (filling false true)) (fun t => Tab.find (t.core 0).dcache 0x41 == some ⟨dataLine, false⟩) = true ∧
    after (exec (.lineFillResponse 0 false 0x41 .edec dataLine) (filling false true)) (fun t => Tab.find (t.core 0).dcache 0x41 == none && (t.core 0).fills == []) = true ∧
    stopped (exec (.lineFillResponse 0 false 0x42 .okay 0) (filling false true)) = true := by decide +kernel

theorem test_walks : after (exec (.pageWalkResponse 0 0x3000 .okay 0x4001) (walking 1)) (fun t => (t.core 0).walks.map (fun w => (w.level, w.ea)) == [(2, 0x4000)]) = true ∧
    after (exec (.pageWalkResponse 0 0x3000 .okay 0x7071) (walking 4)) (fun t => (t.core 0).tlb.map (fun e => (e.page, e.base)) == [(5, 0x7000)]) = true ∧
    walkStep (walkOf 2 0x3000) false 0 = .fault ⟨5, 2, ⟨false, false, false⟩, 0x15, 2, 0x3000⟩ ∧ walkStep (walkOf 2 0x3000) true 0 = .fault ⟨5, 2, ⟨false, false, false⟩, 0x11, 2, 0x3000⟩ := by
  decide +kernel

/-- A drain makes a line of the data cache dirty, fills one that is not there, or is a late bus error (R273, R275, R349, R350). -/
theorem test_drains : after (exec (.storeDrainResponse 0 .okay 0) (draining 0x200)) (fun t => (t.core 0).sb == [] && (Tab.find (t.core 0).dcache 0x40).map (fun l => (wordOfLine l.data 0, l.dirty)) ==
      some (0x8786858483828177, true)) = true ∧
    after (exec (.storeDrainResponse 0 .okay dataLine) (draining 0x208)) (fun t => (Tab.find (t.core 0).dcache 0x41).map (fun l => (wordOfLine l.data 0, l.dirty)) == some (0x8786858483828177, true)) = true ∧
    after (exec (.storeDrainResponse 0 .etgt 0) (draining 0x208)) (fun t => (t.core 0).belate == ⟨0x1040, true, false, false⟩) = true ∧
    after (exec (.writebackResponse 0 0x50 .epoi) (withC0 (fun k => { k with wbs := [(0x50, dataLine)] }) (rdy []))) (fun t => (t.core 0).belate == ⟨0x1400, true, true, false⟩ && (t.core 0).wbs == []) = true ∧
    ((lateError 0 0x2000 false (withC0 (fun k => { k with belate := ⟨0x1400, true, true, false⟩ }) (rdy []))).core 0).belate = ⟨0x1400, true, true, true⟩ := by decide +kernel

theorem witness_CoreResponses : dclkRuns (rdy []) 0 = true ∧ (filling false true).ports.owed = [] ∧ ((filling false true).core 0).fills = [⟨0x41, false, true, false⟩] ∧
    dirtyCopy (filling false true) 0x41 = none ∧ waitsLine ((filling false true).core 0) false 0x41 = false ∧ ((filling false true).core 0).dcOn .cached = true ∧
    ((rdy []).core 0).detOn = false ∧ Tab.find ((rdy []).core 0).dcache 0x41 = none ∧ waitsLine ((filling true false).core 0) false 0x41 = true ∧
    dirtyCopy (walking 1) 0xC0 = none ∧ walkStep (walkOf 1 0x3000) true 0x4001 = .deeper 0x4000 ∧ walkDevice (walking 1) 0x4000 = false ∧
    walkStep (walkOf 4 0x3000) true 0x7071 = .leaf (leafEntry 0 0 0x5000 4 0x7071) ∧ ((draining 0x200).core 0).sb = [⟨0x200, 1, 0x77, true, false, false, none⟩] ∧
    routeOf (rdy []) 0x1000 = .ext .cached false ∧ (Tab.find ((draining 0x200).core 0).dcache 0x40).isSome = true ∧
    ((withC0 (fun k => { k with wbs := [(0x50, dataLine)] }) (rdy [])).core 0).wbs.find? (fun w => w.1 == 0x50) = some (0x50, dataLine) := by decide +kernel

/-- An uncached read's words, a clean line and a dirty one that a failed write-back meets, and a store whose bus was decided when it began. -/
theorem witness2_CoreResponses : ((heldFor (.read 0x208 false)).core 0).held.any (fun h => h.why == .read 0x208 false) = true := by decide +kernel

theorem witness3_CoreResponses : (Tab.find ((rdy []).core 0).dcache 0x40).any (fun d => !d.dirty) = true ∧ ((rdy []).core 0).st ≠ .locked ∧
    (⟨0x200, 1, 0x77, true, false, false, some (.vs 0x40)⟩ : SbEntry).route.getD (routeOf (rdy []) 0x1000) = .vs 0x40 ∧
    (⟨0x200, 1, 0x77, true, false, false, none⟩ : SbEntry).route.getD (routeOf (rdy []) 0x1000) = .ext .cached false ∧
    (Tab.find ((withC0 (fun k => { k with dcache := [(0x40, ⟨dataLine, true⟩)] }) (rdy [])).core 0).dcache 0x40).any (fun d => d.dirty) = true := by decide +kernel

def srcAt (level : BitVec 3) : EvSrc := { evSrc0 with en := true, level := level, cnt := 1 }
/-- Sources 5 and 6 await C0 at levels 3 and 4. -/
def pendingSources : State := { rdy [1, 2] with ev := [(5, srcAt 3), (6, srcAt 4)] }
def haltAsked : State := halting (withC0 (fun k => { k with dbg := { k.dbg with haltreq := true } }) (rdy [1]))
def cfgAsked : State := withC0 (fun k => { k with cfg := 0xC, icache := [(0x10, 0)] }) (rdy [1])

theorem test_boundaries : after (exec (.interruptEntry 0 0x3F) pendingSources) (fun t => (t.core 0).level == 4 && (t.core 0).pc == 0x40 && ((t.core 0).bank 4).epc == 0x400 &&
      fieldAt 8 12 ((t.core 0).bank 4).estat != 0 && (t.evc.get 0).active == 0x10) = true ∧
    stopped (exec (.interruptEntry 0 0x3F) (rdy [1])) = true ∧
    after (exec (.coreHalt 0 0x3F) haltAsked) (fun t => (t.core 0).st == .halted && (t.core 0).dbg.dpc == 0x400) = true ∧
    after (exec (.corecfgTakeEffect 0) cfgAsked) (fun t => (t.core 0).act == 0xC && (t.core 0).icache == [] && (t.core 0).dcache == []) = true := by decide +kernel

theorem witness_CoreBoundaries : (pendingSources.core 0).sched.arm = false ∧ interruptible (pendingSources.core 0) = true ∧ asyncAllowed pendingSources 0 = true ∧
    selectSource pendingSources 0 = some 6 ∧ mayDeliver pendingSources 0 5 = true ∧ mayDeliver pendingSources 0 6 = true ∧ (pendingSources.core 0).chk = none ∧
    entryFails 0x400 0x3E = true ∧ entryFails 0x400 0x3F = false ∧ dclkRuns haltAsked 0 = true ∧ haltDue haltAsked 0 = true ∧ (haltAsked.core 0).held = none ∧
    (haltAsked.core 0).chk = none ∧ (cfgAsked.core 0).cfg ≠ (cfgAsked.core 0).act ∧ (cfgAsked.core 0).divide = none ∧ (cfgAsked.core 0).sb = [] := by decide +kernel

def manyCells (n : Nat) : List W64 := (List.range n).map (fun i => BitVec.ofNat 64 (i + 1))
/-- 28 operand cells; the line of the first spilled cell is at hand. -/
def spilling : State := withC0 (fun k => { k with dcache := [(0, ⟨0, false⟩)] }) (rdy (manyCells 28))
/-- Two cells, one more in memory, holding 9. -/
def filled : State := withC0 (fun k => { (k.putRun { k.run with osp := 1 }) with dcache := [(0, ⟨BitVec.ofNat 512 9, false⟩)] }) (rdy [1, 2])

theorem test_spills : after (exec (.stackSpill 0 0 false []) spilling) (fun t => (t.core 0).run.oc.length == 27 && (t.core 0).run.osp == 1 &&
      (Tab.find (t.core 0).dcache 0).map (fun l => wordOfLine l.data 0) == some 28) = true ∧
    after (exec (.stackFill 0 false []) filled) (fun t => cells [1, 2, 9] t && (t.core 0).run.osp == 0) = true ∧ stopped (exec (.stackFill 0 false []) (rdy [1])) = true := by decide +kernel

/-- Slot 2 runs and slot 1 is READY at a higher priority; its areas at 0x1000 and 0x2000 are at hand. -/
def areaLines : Tab DLine := (List.range 6).map (fun i => (0x40 + i, ⟨if i = 0 then BitVec.ofNat 512 0x2000_0000_0000_0000 else 0, false⟩)) ++ [(0x80, ⟨areaLine, false⟩)]
def twoTasks (st : CoreSt) : State := withC0 (fun k => { k with
  st := st
  dcache := areaLines
  sched := { k.sched with en := true, slot := 2, out := 2, slots := [(1, { slot0 with st := .ready, pri := 5, pc := 0x800, areal := 8, areau := 16 }),
    (2, { slot0 with st := if st = .running then .running else .waiting, pri := 1, areal := 8, areau := 16 })] } }) (rdy [])

theorem test_switch : after (exec (.taskSwitch 0 0x3F []) (twoTasks .idle)) (fun t => (t.core 0).st == .running && at_ 0x800 t && cells [0x55] t && (t.core 0).sched.slot == 1) = true ∧
    after (exec (.taskSwitch 0 0x3F []) (twoTasks .running)) (fun t => at_ 0x800 t && cells [] t && ((t.core 0).sched.at 2).st == .ready && ((t.core 0).sched.at 2).pc == 0x400) = true ∧
    after (exec (.taskSwitch 0 0x3F []) (twoTasks .switching)) (fun t => at_ 0x800 t && cells [] t) = true := by decide +kernel

def okPhys {α : Type} (o : Phys α) : Bool := match o with
  | .ok _ _ => true
  | _ => false

def okWait {α : Type} (o : Phys α) : Bool := match o with
  | .wait _ _ _ _ => true
  | _ => false
def okErr {α : Type} (o : Phys α) : Bool := match o with
  | .err _ _ _ => true
  | _ => false
def spillRun : EngRun := ⟨.spill 0 false, [], [], 0, none⟩
def fillRun : EngRun := ⟨.fill false, [], [], 0, none⟩
def switchRun (out inn : Option Nat) : EngRun := ⟨.switch out inn, [], [], 0, none⟩
/-- The SPILL segment of level 0 in the Vector Store, at 64 MiB, and one that may not be written. -/
def spillAt (d : W64 × W64) (s : State) : State :=
  withC0 (fun k => { k with banks := k.banks.map (fun e => (e.1, { e.2 with segs := [(3, d)] })) })
    { s with vs := { s.vs with baseEn := true, base := 1 } }
def stores (s : State) : Phys Unit :=
  let s0 := engSet 0 (some spillRun) s
  storeCell 0 [] (spillSeg (s0.core 0) 0).1 (spillSeg (s0.core 0) 0).2 0 28 s0
def loads (s : State) : Phys W64 :=
  let s0 := engSet 0 (some fillRun) s
  loadCell 0 [] (spillSeg (s0.core 0) 0).1 (spillSeg (s0.core 0) 0).2 0 s0

theorem witness_SpillsAndSwitches : spillServes (engSet 0 (some spillRun) spilling) 0 = true ∧ spillWanted (engSet 0 (some spillRun) spilling) 0 0 false = true ∧
    (spilling.core 0).eng = none ∧ segLimit (spillSeg (spilling.core 0) 0).1.2 + 1 = 2 ^ 48 ∧ okPhys (stores spilling) = true ∧
    okWait (stores (spillAt (0x4000000, 0x000F_FFFF_FFFF_FFFF) spilling)) = true ∧ okErr (stores (spillAt (0, 0x000B_FFFF_FFFF_FFFF) spilling)) = true ∧
    spillServes (engSet 0 (some fillRun) filled) 0 = true ∧ fillWanted ((engSet 0 (some fillRun) filled).core 0) false = true ∧ (filled.core 0).run.osp.toNat ≠ 0 ∧
    (filled.core 0).run.oerr = none ∧ savePaused ((engSet 0 (some fillRun) filled).core 0) = false ∧ (filled.core 0).eng = none ∧ okPhys (loads filled) = true ∧
    okWait (loads (spillAt (0x4000000, 0x000F_FFFF_FFFF_FFFF) filled)) = true ∧ okErr (loads (spillAt (0, 0x000D_FFFF_FFFF_FFFF) filled)) = true := by decide +kernel

/-- The three ways into a switch, and an area in the Vector Store. -/
def switching (out inn : Option Nat) (s : State) : State := engSet 0 (some (switchRun out inn)) (withC0 (fun k => { k.sync with st := .switching }) s)

theorem witness_Switches : dclkRuns (twoTasks .idle) 0 = true ∧ schedFrozen (twoTasks .idle) = false ∧ ((twoTasks .idle).core 0).sched.bestReady = some 1 ∧
    ((twoTasks .idle).core 0).sb = [] ∧ ((twoTasks .idle).core 0).sched.arm = false ∧ ((twoTasks .idle).core 0).eng = none ∧
    okPhys (loadSlot 0 [] (((switching none (some 1) (twoTasks .idle)).core 0).sched.at 1) (switching none (some 1) (twoTasks .idle))) = true ∧
    okWait (loadSlot 0 [] { slot0 with areal := 0x20000, areau := 16 } (switching none (some 1) (spillAt (0, 0x000F_FFFF_FFFF_FFFF) (twoTasks .idle)))) = true ∧
    ((twoTasks .switching).core 0).sched.out = 2 ∧
    okPhys (saveSlot 0 [] (((switching (some 2) (some 1) (twoTasks .switching)).core 0).sched.at 2) (switching (some 2) (some 1) (twoTasks .switching))) = true ∧
    asyncAllowed (twoTasks .running) 0 = true ∧ ((twoTasks .running).evc.get 0).active = 0 ∧ ((twoTasks .running).core 0).sched.runningSlot = some 2 ∧
    ((twoTasks .running).core 0).sched.bestReady = some 1 ∧ ((twoTasks .running).core 0).chk = none ∧ ((twoTasks .running).core 0).level = 0 := by decide +kernel

/-- An operation of the engine that awaits the answer of its store. -/
theorem witness_answerEng : ((withC0 (fun k => { k with eng := some { spillRun with wait := some (0x800000, some (28, 255)) } }) spilling).core 0).eng =
    some { spillRun with wait := some (0x800000, some (28, 255)) } := by decide +kernel

/-! ## Rings and DMA (R376 to R420) -/

/-- A manager whose ring engine is on, one hot line (rings 0 to 7), tables at 0. -/
def ringState : State := { manager with
  id := { manager.id with snoopcap := true }
  rings := { manager.rings with en := true, nhot := 1, smbase := 2, dbbase := 1 } }
def withRg (f : Rings → Rings) (s : State) : State := { s with rings := f s.rings }
def noSnoop (s : State) : State := { s with id := { s.id with snoopcap := false } }
/-- The doorbell line with 9 for ring 0 and 0 for the others. -/
def bells : Line := 9

theorem test_rings : after (exec (.ringsetSet .host 65) ringState) (fun t => t.rings.elig == [(1, 2)]) = true ∧
    after (exec (.ringsetGroup .host 65) ringState) (fun t => t.rings.elig == [(1, BitVec.allOnes 64)]) = true ∧
    after (exec (.ringsetSet .host 65) worker) (fun t => t.rings.elig == []) = true ∧
    after (exec (.ringnextRead .host) (withRg (fun r => { r with elig := [(0, 6)], shadows := [(1, 7)] }) ringState)) (fun t => t.rings.elig == [(0, 4)] && t.rings.ptr == 2 &&
      t.ports.irsp == [(.okay, 0x700100001)]) = true ∧
    after (exec (.watcharmGo .host 256) ringState) (fun t => (t.rings.entry 256).st == .arming && t.rings.reads == [⟨256, false⟩]) = true := by decide +kernel

theorem test_watch : after (exec (.watchReadResponse 256 .okay bells) (withRg (fun r => { r with reads := [⟨256, false⟩], shadows := [(0, 4)], entries := [(256, ⟨.arming, false, false, false⟩)] }) ringState)) (fun t =>
      t.rings.elig == [(0, 1)] && Tab.get 0 t.rings.shadows 0 == 9 && (t.rings.entry 256).st == .watching) = true ∧
    after (exec (.watchReadResponse 256 .epoi 0) (withRg (fun r => { r with reads := [⟨256, false⟩] }) ringState)) (fun t => (t.rings.entry 256).st == .error && t.rings.errCode == 2 &&
      t.rings.errPa == 0x800000) = true ∧
    after (exec (.summaryAddResponse 0 .okay) (withRg (fun r => { r with scans := [⟨0, 4, .add⟩] }) ringState)) (fun t => t.rings.scans == [⟨0, 4, .reads [0, 1, 2, 3, 4, 5, 6, 7]⟩]) = true ∧
    after (exec (.groupReadResponse 0 7 .okay 0) (withRg (fun r => { r with scans := [⟨0, 4, .reads [7]⟩] }) ringState)) (fun t => t.rings.elig == [(2, BitVec.allOnes 64)] && t.rings.scans == []) = true ∧
    after (exec .pollRead (noSnoop ringState)) (fun t => t.rings.reads == [⟨0, false⟩] && t.rings.pollNext == 1) = true := by decide +kernel

theorem witness_RingCommands : mayAccess .host 2 0x70030 ringState = true ∧ ringsOn ringState = true ∧ ringState.rings.inUse = 257 ∧ mayAccess .host 2 0x70028 worker = true ∧
    worker.role.role ≠ .manager ∧ ringState.role.role = .manager ∧ ringState.rings.next = none ∧ (withRg (fun r => { r with elig := [(0, 6)] }) ringState).rings.next = some 1 ∧
    (withRg (fun r => { r with elig := [(0, 256)] }) ringState).rings.next = some 8 ∧ ringState.rings.late = [] ∧ (∀ k, k < 8 → hubRefuses ringState (ringState.rings.groupLine ⟨0, 4, .add⟩ k) false = none) ∧
    tclkRuns (noSnoop ringState) = true ∧ ringsOn (noSnoop ringState) = true ∧ polling (noSnoop ringState) = true ∧ hubRefuses ringState (ringState.rings.lineOf 0) false = none ∧
    (withRg (fun r => { r with pollNext := 257 }) ringState).rings.pollNext = 257 ∧ (ringState.rings.entry 256).redo = false ∧ wordAt 0 0 = 0 := by decide +kernel

/-- Channel 3 moves 64 bytes from 0x1000 to 0x2000. -/
def walk0 (pa left : Nat) : DWalk := { dwalk0 with last := true, piece := pa, left := left }
def moving : Chan := { chan0 3 with st := .running, src := 0x1000, dst := 0x2000, len := 64, sw := walk0 0x1000 64, dw := walk0 0x2000 64 }
def dmaTile (k : Chan) : State := { wiped with dma := { wiped.dma with chans := [(3, k)] } }
def readOut : Chan := { moving with rpos := 64, sw := walk0 0x1040 0, reads := [⟨0, .data, 0x1000, 64, 0, 0, 0, [], false⟩], tag := 1 }
def writeOut : Chan := { readOut with reads := [], wpos := 64, dw := walk0 0x2040 0, writes := [⟨1, 0x2000, 64, 0, 0, false, []⟩], tag := 2 }
def chanIs (c : Instr) (s : State) (q : Chan → Bool) : Bool := after (exec c s) (fun t => q (t.chan 3))

theorem test_dma : chanIs .dmaRequestGrant (dmaTile moving) (fun k => k == readOut) = true ∧
    chanIs (.dmaReadResponse 3 0 .okay dataLine) (dmaTile readOut) (fun k => k.reads == [] && k.chunks.map (fun c => (c.pos, c.bytes.length, c.bytes.head?)) == [(0, 64, some 0x80)]) = true ∧
    chanIs (.dmaReadResponse 3 0 .etgt 0) (dmaTile readOut) (fun k => k.st == .halted && k.err.valid && k.err.pa == 0x1000 && !k.err.dir) = true ∧
    chanIs (.dmaWriteResponse 3 1 .okay) (dmaTile writeOut) (fun k => k.st == .done && k.prog == 64) = true ∧
    chanIs (.dmaWriteResponse 3 1 .edec) (dmaTile writeOut) (fun k => k.st == .halted && k.err.dir && k.err.pa == 0x2000) = true ∧
    stopped (exec .dmaRequestGrant wiped) = true := by decide +kernel

theorem witness_DmaCommands : tclkRuns (dmaTile moving) = true ∧ dmaFrozen (dmaTile moving) = false ∧ dmaNext (dmaTile moving) = some 3 ∧ chanAct (dmaTile moving) 3 = .read ∧
    dmaTarget (dmaTile moving) 3 0x1000 64 = .ext true ∧ ((dmaTile readOut).chan 3).reads.find? (fun r => r.tag == 0 && r.words == 0) = some ⟨0, .data, 0x1000, 64, 0, 0, 0, [], false⟩ ∧
    (dmaTile readOut).ports.owed = [] ∧ dmaTarget { dmaTile readOut with pamap := [(0, 0x183)] } 3 0x1000 64 = .ext false ∧
    ((dmaTile writeOut).chan 3).writes.find? (fun w => w.tag == 1 && w.words == 0) = some ⟨1, 0x2000, 64, 0, 0, false, []⟩ ∧ writeOut.acked = [] ∧ writeOut.prog = 0 ∧
    ({ writeOut with writes := [], prog := 64 } : Chan).complete = true := by decide +kernel

/-! ## Power, panel and watchdogs (R484 to R499, R543 to R556) -/

def withPwr (f : Power → Power) (s : State) : State := { s with pwr := f s.pwr }
def asked (t : BitVec 3) : State := withPwr (fun p => { p with asked := true, req := t }) upState
def pwrAt (st : PwrStep) : State := withPwr (fun p => { p with step := st }) upState
def stateIs (n : BitVec 3) (s : State) : State := withPwr (fun p => { p with state := n, out := n }) s
def later (n : Nat) (s : State) : State := { s with log := { s.log with aotime := BitVec.ofNat 64 n } }

theorem test_power : after (exec .powerTransitionStart (asked 4)) (fun t => t.pwr.step == .part 4 false && !t.pwr.asked) = true ∧
    after (exec .powerTransitionStart (stateIs 1 (asked 0))) (fun t => t.pwr.step == .ack 0 true && t.pwr.out == 0) = true ∧
    after (exec .powerTilePartDone (pwrAt (.part 2 false))) (fun t => t.pwr.out == 2 && t.pwr.step == .ack 2 false) = true ∧
    after (exec .pwrAckToggle (pwrAt (.ack 2 false))) (fun t => t.pwr.state == 2 && t.pwr.step == .idle) = true ∧
    after (exec .pwrAckToggle (pwrAt (.ack 4 false))) (fun t => t.pwr.state == 4 && t.rst.phase == .off) = true ∧
    after (exec .powerTilePartDone (pwrAt (.part 0 true))) (fun t => t.pwr.state == 0 && t.pwr.step == .idle) = true ∧
    stopped (exec .powerTransitionStart upState) = true ∧ stopped (exec .pwrAckToggle upState) = true := by decide +kernel

theorem test_power2 : after (exec .pwrAckTimeout (later 50000 (pwrAt (.ack 2 false)))) (fun t => t.pwr.ackerr && t.log.wcount == 1) = true ∧
    stopped (exec .pwrAckTimeout (later 49999 (pwrAt (.ack 2 false)))) = true ∧
    after (exec .pwrGoodLost upState) (fun t => t.pwr.goodlost && t.pwr.state == 4 && t.rst.phase == .off) = true ∧
    after (exec .napWake (withPwr (fun p => { p with wake := true }) (stateIs 2 upState))) (fun t => t.pwr.step == .ack 0 true) = true ∧
    after (exec .dozeWake (withPwr (fun p => { p with wake := true }) (stateIs 3 upState))) (fun t => t.pwr.step == .ack 0 true) = true := by decide +kernel

def supervised (n : Nat) : State := { worker with supv := { upState.supv with en := true, flush := 1000, nFlush := n } }

/-- The fourth sample in a row below the threshold trips the flush (R493, R494). -/
theorem test_vbus : after (exec (.vbusSample 999) (supervised 3)) (fun t => t.supv.under && t.pwr.flush == some ⟨0, 1000, false, .working⟩) = true ∧
    after (exec (.vbusSample 999) (supervised 2)) (fun t => !t.supv.under && t.supv.nFlush == 3 && t.pwr.flush == none) = true ∧
    after (exec (.vbusSample 1000) (supervised 3)) (fun t => !t.supv.under && t.supv.nFlush == 0) = true := by decide +kernel

def drained (done : Bool) : State := withPwr (fun p => { p with autooff := false, flush := some ⟨0, 1000, false, .draining done⟩ }) upState

theorem test_flush : after (exec .flushBudgetExpiry (later 50000 (flushing worker))) (fun t => t.role.role == .fenced && t.role.freason == 4) = true ∧
    stopped (exec .flushBudgetExpiry (later 49999 (flushing worker))) = true ∧
    after (exec (.flushdone .host) (flushing worker)) (fun t => t.role.role == .fenced && t.pwr.flush.map (·.stage) == some (.draining true)) = true ∧
    after (exec .flushDrainDone (drained true)) (fun t => t.pwr.flush == none && t.log.wcount == 1) = true := by decide +kernel

theorem witness_PowerCommands : (asked 4).rst.phase = .up ∧ (asked 4).pwr.step = .idle ∧ (asked 4).pwr.flush = none ∧ (asked 4).pwr.flushDue = none ∧ entryReady (asked 4) = true ∧
    entryReady (asked 3) = true ∧ entryReady (stateIs 1 (asked 0)) = true ∧ (0 : BitVec 3) < 1 ∧ (pwrAt (.part 2 false)).pwr.step = .part 2 false ∧
    (pwrAt (.part 2 false)).pwr.state.toNat ≤ 1 ∧ ackOverdue (later 50000 (pwrAt (.ack 2 false))) = true ∧ upState.pwr.out ≠ 3 ∧ State.reset.rst.phase = .cold ∧
    wakeDue (withPwr (fun p => { p with wake := true }) (stateIs 2 upState)) = true ∧ wakeDue (withPwr (fun p => { p with wake := true }) (stateIs 3 upState)) = true ∧
    clockOn upState .tmclk = true ∧ (supervised 3).supv.en = true ∧ (supervised 3).supv.under = false ∧ upState.supv.en = false ∧
    (flushing worker).pwr.flush = some ⟨0, 1000, false, .working⟩ ∧ holdsRole (flushing worker) = true ∧ holdsRole (flushing upState) = false ∧
    mayAccess .host 2 0x20048 (flushing worker) = true ∧ responsesDue (drained true) = false ∧ (drained true).rst.warmDue = none ∧ upState.pwr.autooff = true := by decide +kernel

def withPanel (f : Panel → Panel) (s : State) : State := { s with panel := f s.panel }

theorem test_panel : after (exec .panelPress upState) (fun t => t.panel.evac == 1 && t.panel.presses == 1) = true ∧
    after (exec .attnRelease (withPanel (fun p => { p with attn := true }) upState)) (fun t => !t.panel.attn) = true ∧
    after (exec .presenceGain upState) (fun t => t.panel.pres) = true ∧
    after (exec .presenceLoss (withPanel (fun p => { p with pres := true }) worker)) (fun t => t.panel.surprise && t.pwr.flush.isSome) = true ∧
    after (exec .presenceLoss (withPanel (fun p => { p with pres := true, evac := 2 }) worker)) (fun t => !t.panel.surprise && t.pwr.flush.isNone) = true ∧
    after (exec .tamperTrip wiped) (fun t => t.vs.wipePending && t.panel.tampered) = true ∧
    after (exec .tamperClose (withPanel (fun p => { p with tamper := true }) upState)) (fun t => !t.panel.tamper) = true ∧
    after (exec .evacSafe (withPanel (fun p => { p with evac := 1 }) upState)) (fun t => t.pwr.asked && t.pwr.req == 4) = true ∧
    after (exec .evacTimeout (later 3000000000 (withPanel (fun p => { p with evac := 1 }) upState))) (fun t => t.panel.fcause == 8 && t.log.wcount == 1) = true := by decide +kernel

def wdRuns (r : BitVec 24) : Wdog := { wdog0 with en := true, remain := r }

theorem test_watchdogs : after (exec (.watchdogWarning (.core 0)) { upState with wds := upState.wds.set 0 (wdRuns 250000) }) (fun t => (t.wds.get 0).warned) = true ∧
    stopped (exec (.watchdogWarning (.core 0)) { upState with wds := upState.wds.set 0 (wdRuns 250001) }) = true ∧
    after (exec (.coreWatchdogExpiry 0) { rdy [1] with wds := upState.wds.set 0 (wdRuns 0) }) (fun t => (t.core 0).st == .off && (t.wds.get 0).expired && t.log.wcount == 1) = true ∧
    after (exec .tileWatchdogExpiry { upState with twd := wdRuns 0 }) (fun t => t.rst.phase == .warm && t.rst.cause == 5 && t.panel.fcause == 2) = true := by decide +kernel

theorem witness_PanelAndWatchdogs : upState.rst.phase ≠ .aopor ∧ upState.panel.attn = false ∧ upState.panel.pres = false ∧ upState.panel.tamper = false ∧
    (withPanel (fun p => { p with evac := 1 }) upState).panel.evac = 1 ∧ evacQuiet (withPanel (fun p => { p with evac := 1 }) upState) = true ∧ upState.panel.evacoff = true ∧
    upState.pwr.state ≠ 4 ∧ offAsked upState = false ∧ upState.panel.evactmo ≠ 0 ∧ upState.panel.told = false ∧ upState.panel.evactmo.toNat * 50000000 ≤ 3000000000 ∧
    (wdRuns 250000).en = true ∧ (wdRuns 250000).warned = false ∧ (wdRuns 250000).remain.toNat ≤ Nat.max wdog0.period.toNat 1024 / 4 ∧ (wdRuns 0).remain = 0 := by decide +kernel

/-! ## Lifecycle, keys, boot and debug authentication (R500 to R518) -/

def withFuses (f : Fuses → Fuses) (s : State) : State := { s with fuses := f s.fuses }
def lifecycle (n : BitVec 3) (s : State) : State := withFuses (fun x => { x with lc := n, now := n }) s
def fuseRuns (op : FuseOp) : State := withFuses (fun x => { x with op := some op }) upState
def bootKey : KeySlot := ⟨true, true, false, true, false, 5⟩
def keyed (n : BitVec 3) : State := withFuses (fun x => { x with keys := x.keys.set 0 bootKey }) (lifecycle n upState)

theorem test_lifecycle : after (exec (.lccmdTransition .host 2) wiped) (fun t => t.fuses.op == some (.transition 2) && t.vs.wipePending) = true ∧
    after (exec (.lccmdTransition .host 3) wiped) (fun t => t.fuses.lcErr && t.fuses.op == none) = true ∧
    after (exec (.lccmdTransition .host 3) (keyed 2)) (fun t => t.fuses.op == some (.transition 3)) = true ∧
    after (exec (.lccmdTransition .host 4) (keyed 3)) (fun t => t.fuses.op == none && !t.fuses.lcErr) = true ∧
    after (exec (.lccmdTransition (.core 0) 4) { rdy [] with fuses := (keyed 3).fuses }) (fun t => t.fuses.op == some (.transition 4)) = true ∧
    after (exec (.lccmdRaisesvn .host 0) upState) (fun t => t.fuses.lcErr) = true ∧ after (exec (.lccmdRaisesvn .host 63) upState) (fun t => t.fuses.op == some (.raisesvn 63)) = true ∧
    after (exec (.lccmdWipe .host) wiped) (fun t => t.vs.wipePending) = true := by decide +kernel

theorem test_keys : after (exec (.keycmdProgram .host 1 3) (keyed 2)) (fun t => t.fuses.op == some (.program 1 3 0)) = true ∧
    after (exec (.keycmdProgram .host 0 3) (keyed 2)) (fun t => t.fuses.keyErr) = true ∧ after (exec (.keycmdProgram .host 3 0) (keyed 2)) (fun t => t.fuses.op == some (.uid 0 0)) = true ∧
    after (exec (.keycmdRevoke .host 0) (keyed 2)) (fun t => t.fuses.op == some (.revoke 0)) = true ∧ after (exec (.keycmdRevoke .host 0) upState) (fun t => t.fuses.keyErr) = true ∧
    after (exec .fuseCommandDone (fuseRuns (.program 1 3 7))) (fun t => t.fuses.keys.get 1 == ⟨true, true, true, false, false, 7⟩) = true ∧
    after (exec .fuseCommandDone (fuseRuns (.transition 2))) (fun t => t.fuses.lc == 2 && t.rst.phase == .warm && t.rst.cause == 7) = true ∧
    after (exec .fuseCommandDone (fuseRuns (.revoke 1))) (fun t => (t.fuses.keys.get 1).revoked) = true := by decide +kernel

theorem witness_FuseCommands : mayAccess .host (writeLevel upState 0x90008) 0x90008 upState = true ∧ lcMayWrite .host upState = true ∧ lcMayWrite .host (keyed 3) = false ∧
    transitionOk .host 2 wiped = true ∧ transitionOk .host 4 wiped = false ∧ wiped.fuses.op = none ∧ wiped.fuses.minsvn < 1 ∧
    mayAccess .host (writeLevel upState 0x90270) 0x90270 upState = true ∧ (keyed 2).fuses.now = 2 ∧ ((keyed 2).fuses.keys.get 0).prog = true ∧ ((keyed 2).fuses.keys.get 1).prog = false ∧
    (fuseRuns (.raisesvn 3)).fuses.op = some (.raisesvn 3) ∧ (fuseRuns (.uid 1 2)).fuses.op = some (.uid 1 2) ∧ (fuseRuns (.revoke 3)).fuses.op = some (.revoke 3) ∧
    upState.pwr.flush = none ∧ (flushing upState).pwr.flush.isSome = true := by decide +kernel

def withBoot (f : Boot → Boot) (s : State) : State := { s with boot := f s.boot }
/-- The window at 64 MiB is enabled and the Vector Store wiped. -/
def bootable : State := withVs (fun v => { v with baseEn := true, base := 1 }) wiped
def headerRead : State := withBoot (fun b => { b with state := 1, step := .header, cur := (true, 0x20) }) bootable
/-- MAGIC 0xB0D1, SVN 2, LENGTH 64, ENTRY 0 (R506). -/
def header0 : Line := 0x40_0002_B0D1
def copied : State := withBoot (fun b => { b with state := 1, step := .copy, cur := (true, 0x20), hdr := lineToBytes header0 }) bootable
def k63 (st : DmaSt) (s : State) : State := { s with dma := { s.dma with chans := [(63, { chan0 63 with st := st })] } }
def verifying : State := withBoot (fun b => { b with state := 2, step := .verify, cur := (true, 0x20), hdr := lineToBytes header0 }) bootable

theorem test_boot : after (exec (.bootctlGo .host true 0x20) bootable) (fun t => t.boot.state == 1 && t.boot.step == .header) = true ∧
    after (exec (.bootctlGo .host true 0x20) wiped) (fun t => t.boot.state == 4 && t.boot.cause == 6 && t.log.wcount == 1) = true ∧
    after (exec (.bootctlGo .host true 0x20) { bootable with vs := { bootable.vs with wipePending := true } }) (fun t => t.boot.cause == 7) = true ∧
    after (exec (.bootHeaderResponse .okay header0 0 0 0) headerRead) (fun t => t.boot.step == .copy && (t.chan 63).st == .running && (t.chan 63).len == 64) = true ∧
    after (exec (.bootHeaderResponse .okay 0xB0D0 0 0 0) headerRead) (fun t => t.boot.cause == 2) = true ∧
    after (exec (.bootHeaderResponse .etgt 0 0 0 0) headerRead) (fun t => t.boot.cause == 1) = true ∧
    after (exec (.bootHeaderResponse .okay header0 0 0 0) (withFuses (fun f => { f with minsvn := 3 }) headerRead)) (fun t => t.boot.cause == 3) = true ∧
    after (exec .bootCopyDone (k63 .done copied)) (fun t => t.boot.state == 2 && t.boot.step == .verify) = true ∧
    after (exec .bootVerifyDone verifying) (fun t => t.boot.state == 3 && (t.core 0).st == .running && (t.core 0).pc == 0x7BD3000) = true := by decide +kernel

theorem witness_SecureBoot : mayAccess .host 2 0x90010 bootable = true ∧ bootable.rst.phase = .up ∧ bootable.boot.state = 0 ∧ pwrState bootable ≤ 1 ∧ (lifecycle 5 upState).fuses.now = 5 ∧
    headerRead.boot.step = .header ∧ upRuns headerRead = true ∧ (headerRead.chan 63).st ≠ .running ∧ hdrOk (lineToBytes header0) = true ∧ hdrOk (lineToBytes 0xB0D0) = false ∧
    hdrSvn (lineToBytes header0) = 2 ∧ (bootNeeds (keyed 2)).isSome = true ∧ (bootNeeds headerRead).isNone = true ∧ (headerRead.chan 63).st ≠ .halted ∧ hdrLen (lineToBytes header0) = 64 ∧
    copied.boot.step = .copy ∧ ((k63 .done copied).chan 63).st = .done ∧ verifying.boot.step = .verify ∧ bootSignatureOk { verifying.boot with hdr := [] } = false ∧
    verifying.wrap.hold = false ∧ (verifying.core 0).st = .off ∧ (verifying.core 0).dbg.haltAtStart = false := by decide +kernel

/-- SHA-384 of "abc", the digest that FIPS 180-4's example gives. -/
theorem test_sha384 : beNat (sha384 [0x61, 0x62, 0x63]) =
    0xCB00753F45A35E8BB5A03D699AC65007272C32AB0EDED1631A8B605A43FF5BED8086072BA1E7CC2358BAECA134C825A7 := by decide +kernel

def verifyRuns (ok discard : Bool) (fails : BitVec 4) : State := { lifecycle 3 upState with auth := { upState.auth with run := some ⟨2, 0, ok, discard⟩, fails := fails } }

theorem test_debug_auth : after (exec (.dbgauthGo .weado 2) upState) (fun t => t.auth.level == 2) = true ∧
    after (exec (.dbgauthGo .host 2) upState) (fun t => t.auth.level == 0) = true ∧
    after (exec (.dbgauthGo .weado 3) upState) (fun t => t.auth.denied && t.auth.fails == 1) = true ∧
    after (exec .debugVerifyDone (verifyRuns true false 0)) (fun t => t.auth.level == 2 && t.auth.run == none) = true ∧
    after (exec .debugVerifyDone (verifyRuns false false 7)) (fun t => t.auth.level == 0 && t.auth.fails == 8 && t.auth.lock) = true ∧
    after (exec .debugVerifyDone (verifyRuns true true 0)) (fun t => t.auth.level == 0 && t.auth.run == none && t.auth.fails == 0) = true := by decide +kernel

theorem witness_DebugAuthentication : mayAccess .host 2 0x90020 upState = true ∧ upState.weado.sam.busy = false ∧ upState.auth.run = none ∧ (verifyRuns true false 0).auth.run.isSome = true ∧
    freeLevel upState = 2 ∧ freeLevel (lifecycle 3 upState) = 0 ∧ upState.auth.lock = false := by decide +kernel

/-! ## Weado, the system access master, the wrapper (R519 to R541, R557 to R568) -/

def withWd (f : Weado → Weado) (s : State) : State := { s with weado := f s.weado }
/-- C0 halted at 0x400 with debug level HALT. -/
def haltedCore (oc rc : List W64) : State := halting (withC0 (fun k => { k with st := .halted, dbg := { k.dbg with dpc := 0x400 } }) (rdyR oc rc))
def vtFull (s : State) : State := withWd (fun w => { w with vt := { w.vt with outData := 7, outFull := true, inData := 8, inFull := true } }) s

theorem test_weado : after (exec (.wdSelect 0x1010) upState) (fun t => t.weado.sel == 0x010 && t.weado.acks == 1) = true ∧
    after (exec (.haltreq 0 true) upState) (fun t => t.weado.denied && !(t.core 0).dbg.haltreq) = true ∧
    after (exec (.haltreq 0 true) (halting (rdy []))) (fun t => (t.core 0).dbg.haltreq && (t.core 0).dbg.stepmask && !t.weado.denied) = true ∧
    after (exec (.debugResume 0 false) (haltedCore [1] [])) (fun t => (t.core 0).st == .running && at_ 0x400 t && cells [1] t) = true ∧
    after (exec (.debugStep 0 true) (haltedCore [1] [])) (fun t => (t.core 0).st == .running && (t.core 0).dbg.stepping) = true ∧
    after (exec (.dpcWrite 0 0x1000000000801) (haltedCore [] [])) (fun t => (t.core 0).dbg.dpc == 0x801 && (t.core 0).dbg.drpend) = true ∧
    after (exec (.dx0Write 0 5) (haltedCore [1, 2] [])) (cells [5, 2]) = true ∧ after (exec (.dy0Write 0 5) (haltedCore [] [])) (fun t => t.weado.denied) = true ∧
    after (exec (.wdReservedCommand 9) upState) (fun t => t.weado.denied && t.weado.acks == 1) = true := by decide +kernel

/-- DFEED of DUP and of a branch (R526 to R528). -/
theorem test_feed : after (exec (.dfeed 0 (pair 0x01 0)) (haltedCore [4] [])) (fun t => cells [4, 4] t && (t.core 0).st == .halted && (t.core 0).dbg.dpc == 0x400) = true ∧
    after (exec (.dfeed 0 (longParcel 0 0x08 0)) (haltedCore [4] [])) (fun t => (t.core 0).dbg.feederr && cells [4] t) = true := by decide +kernel

theorem test_terminal : after (exec .vtread (vtFull upState)) (fun t => t.weado.wdDo == 0x100000007 && !t.weado.vt.outFull) = true ∧
    after (exec (.vtwrite 9) upState) (fun t => t.weado.wdDo == 1 && t.weado.vt.inFull && t.weado.vt.inData == 9) = true ∧
    after (exec (.vtwrite 9) (vtFull upState)) (fun t => t.weado.wdDo == 0 && t.weado.vt.inData == 8) = true ∧
    after (exec (.vtinRead .host) (vtFull upState)) (fun t => t.ports.irsp == [(.okay, 0x100000008)] && !t.weado.vt.inFull) = true ∧
    after (exec .vtread (lifecycle 5 upState)) (fun t => t.weado.denied) = true ∧
    after (exec .tracePortTransfer (withWd (fun w => { w with tr := { w.tr with fifo := [1, 2, 3] } }) upState)) (fun t => t.weado.tr.port == [1] && t.weado.tr.fifo == [2, 3]) = true := by
  decide +kernel

theorem witness_WeadoCommands : upState.rst.phase ≠ .aopor ∧ weadoWaits upState upState.weado.sel.toNat = false ∧ effLevel upState < 2 ∧ effLevel (haltedCore [1] []) = 2 ∧
    ((haltedCore [1] []).core 0).st = .halted ∧ ((haltedCore [1] []).core 0).held = none ∧ ((halting (rdy [])).core 0).st ≠ .halted ∧
    feedRefused (haltedCore [4] []) 0 (pair 0x01 0) = false ∧ feedRefused (haltedCore [4] []) 0 (longParcel 0 0x08 0) = true ∧ ((haltedCore [1] [2]).core 0).run.rc = [2] ∧
    ((haltedCore [] []).core 0).run.oc = [] ∧ ((haltedCore [] []).core 0).run.osp = 0 ∧ ((haltedCore [] []).core 0).run.rsp = 0 ∧ upState.fuses.now ≠ 5 ∧
    (lifecycle 5 upState).fuses.now = 5 ∧ (vtFull upState).weado.vt.outFull = true ∧ upState.weado.vt.inFull = false ∧ mayAccess .host 2 0x108 upState = true ∧ onlyAlwaysOn upState = false ∧ onlyAlwaysOn { upState with pwr := { upState.pwr with state := 4 } } = true ∧
    ¬ (1 ≤ (0 : BitVec 8).toNat ∧ (0 : BitVec 8).toNat ≤ 5) ∧ ¬ (1 ≤ (6 : BitVec 8).toNat ∧ (6 : BitVec 8).toNat ≤ 5) := by decide +kernel

def samAt (write : Bool) (pa : BitVec 52) (s : State) : State := withWd (fun w => { w with sam := { w.sam with write := write, addr := pa, data := 0x55 } }) s
/-- The window at 64 MiB is enabled, with HALT. -/
def samTile : State := halting bootable
def samResult (o : Host.Outcome State Fault Refusal) (r : BitVec 3) : Bool := after o (fun t => !t.weado.sam.busy && t.weado.sam.result == r)

theorem test_sam : after (exec (.samGo 0x3FC1) (samAt false 0x4000008 samTile)) (fun t => t.weado.sam.busy && t.vs.reqs.map (fun r => (r.rq, r.word, r.op)) == [(17, 1, .read)]) = true ∧
    after (exec (.samGo 0x3FC3) (samAt true 0x4000008 samTile)) (fun t => t.vs.reqs.map (fun r => (r.word, r.op)) == [(1, .write 0x55 255 false)]) = true ∧
    after (exec (.samGo 0x3FC1) (samAt false 0x1000 samTile)) (fun t => t.weado.sam.out == some 0x1000) = true ∧ samResult (exec (.samGo 0x3FC1) (samAt false 0x1004 samTile)) 4 = true ∧
    samResult (exec (.samGo 0x3FC3) (samAt true 0x1000 samTile)) 4 = true ∧ samResult (exec (.samGo 0x3FC1) (samAt false 0x1000000 samTile)) 0 = true ∧
    samResult (exec (.samGo 0x3FE1) (samAt false 0x1000 samTile)) 4 = true ∧ samResult (exec (.samGo 0x3FC1) (samAt false 0x1000 wiped)) 4 = true ∧
    after (exec (.samGo 0x3FC1) (withWd (fun w => { w with sam := { w.sam with busy := true } }) samTile)) (fun t => t.weado.denied) = true ∧
    after (exec (.wfreezeWrite 3) samTile) (fun t => t.weado.wfreeze == 3) = true := by decide +kernel

def samOut : State := withWd (fun w => { w with sam := { w.sam with busy := true, rd := true, out := some 0x1000, addr := 0x2000 } }) samTile

theorem test_sam_response : after (exec (.samResponse .okay 9) samOut) (fun t => t.weado.sam.data == 9 && t.weado.sam.result == 0 && !t.weado.sam.busy) = true ∧
    after (exec (.samResponse .edec 9) samOut) (fun t => t.weado.sam.data == 0 && t.weado.sam.result == 1) = true := by decide +kernel

theorem witness_SystemAccesses : samTile.rst.phase ≠ .aopor ∧ effLevel samTile = 2 ∧ (0x3FC1 : W64).getLsbD 0 = true ∧ samTile.weado.sam.busy = false ∧
    effLevel wiped < samLevel (samAt false 0x1000 wiped) ∧ samLevel (samAt false 0x1000 samTile) ≤ effLevel samTile ∧ (samAt false 0x1000 samTile).weado.sam.space = 0 ∧
    routeOf samTile 0x1000000 = .setup 0 ∧ routeOf samTile 0x10EFFF8 = .setup 0xEFFF8 ∧ routeOf samTile 0x4000008 = .vs 8 ∧ 8 / 8 < wordSpace samTile ∧ homeWord samTile 1 = some 1 ∧
    routeOf samTile 0x1000 = .ext .cached false ∧ routeOf { samTile with pamap := [] } 0x1000 = .ext .device false ∧ outboundOk samTile = false ∧
    samSetup (samAt false 0x1000000 samTile) = some 0 ∧ samSetup (samAt false 0x1000010 samTile) = some 0x10 ∧ samOut.ports.owed = [] ∧ samOut.weado.sam.out = some 0x1000 ∧ dirtyCopy samOut 0x40 = none ∧ onlyAlwaysOn samTile = false := by decide +kernel

def withWrap (f : Wrapper → Wrapper) (s : State) : State := { s with wrap := f s.wrap }
def wirIs (n : BitVec 4) (s : State) : State := withWrap (fun w => { w with wir := n }) s

theorem test_wrapper : after (exec .widcode worker) (fun t => t.wrap.wir == 6 && t.wrap.cap == 0x5C0A102103000302) = true ∧
    after (exec (.wsExtest [(5, true)]) wiped) (fun t => t.wrap.wir == 1 && t.wrap.wbr == [(5, true)] && t.wrap.hold && t.vs.wipePending) = true ∧
    after (exec .wsSafe worker) (fun t => t.wrap.wir == 0 && t.wrap.refused && !t.wrap.hold) = true ∧ after (exec (.wsPreload [(33271, true)]) worker) (fun t => t.wrap.wbr == [(33271, true)]) = true ∧
    after (exec (.mbistStart 1) (wirIs 8 wiped)) (fun t => t.wrap.mbusy && t.vs.mem.scramble == some 1) = true ∧
    after (exec (.mbistStart 3) (wirIs 8 wiped)) (fun t => !t.wrap.mbusy && t.wrap.algo == 3) = true ∧
    after (exec .mbistDone (withWrap (fun w => { w with mbusy := true, runs := 1 }) wiped)) (fun t => t.wrap.done && !t.wrap.mbusy && t.wrap.lastRun == some 1) = true ∧
    after (exec .wrstnAssert (withWrap (fun w => { w with mbusy := true, done := true, wir := 8 }) wiped)) (fun t => t.wrap.wir == 0 && !t.wrap.mbusy && !t.wrap.done) = true := by
  decide +kernel

theorem test_repair_fuses : after (exec (.repairFuseProgram 5) (wirIs 9 wiped)) (fun t => t.wrap.rbusy == some (0, 5)) = true ∧
    after (exec (.repairFuseProgram 1021) (wirIs 9 wiped)) (fun t => t.wrap.rbusy == none && t.wrap.rerr) = true ∧
    after (exec (.repairFuseProgram 5) (withWrap (fun w => { w with fuses := [(1, 0x405)] }) (wirIs 9 wiped))) (fun t => t.wrap.rerr) = true ∧
    after (exec .repairFuseDone (withWrap (fun w => { w with rbusy := some (0, 5) }) wiped)) (fun t => t.wrap.fuses == [(0, 0x405)] && t.wrap.rbusy == none) = true ∧
    after (exec .wfuserd (withWrap (fun w => { w with fuses := [(0, 0x405), (2, 0x7FF)] }) wiped)) (fun t => t.wrap.cap == 0x7FF_0000_0405) = true := by decide +kernel

theorem witness_WrapperCommands : ¬ ((worker.fuses.now = 0 ∨ worker.fuses.now = 1 ∨ worker.fuses.now = 4) ∧ worker.role.role = .spare) ∧ wiped.fuses.now = 1 ∧ wiped.role.role = .spare ∧
    wiped.wrap.hold = false ∧ (withWrap (fun w => { w with hold := true }) wiped).wrap.hold = true ∧ (wirIs 8 wiped).wrap.wir = 8 ∧ (wirIs 8 wiped).wrap.mbusy = false ∧
    (wirIs 8 wiped).wrap.rbusy = none ∧ (3 : W64).extractLsb' 0 2 = (3 : BitVec 2) ∧ (1 : W64).extractLsb' 0 2 ≠ (3 : BitVec 2) ∧ clockOn wiped .vclk = true ∧
    (withWrap (fun w => { w with mbusy := true, runs := 1 }) wiped).wrap.mbusy = true ∧ (wirIs 9 wiped).wrap.wir = 9 ∧ (wirIs 9 wiped).wrap.lastRun = none ∧
    Tab.get 0 (wirIs 9 wiped).wrap.fuses 0 = 0 ∧ (1020 : BitVec 10).toNat ≤ 1020 ∧ (withWrap (fun w => { w with rbusy := some (0, 5) }) wiped).wrap.rbusy = some (0, 5) := by decide +kernel

/-! ## Fuses -/

def burning : State := { withFuses (fun x => { x with op := some (.raisesvn 3) }) upState with pending := [.fuseCommandDone] }

theorem test_burning : after (step burning) (fun t => t.fuses.minsvn == 3 && t.pending == []) = true := by decide +kernel

theorem witness_FusesAreNeverRestored : FusesSound burning ∧ burning.pending = [.fuseCommandDone] :=
  ⟨{ listed := by decide, forward := fun t h => (by cases h), rises := fun n h => (by cases h; decide), empty := fun n use d h => (by cases h),
     once := fun a b h => (by cases h) }, rfl⟩

/-! ## Further witnesses, for the clauses and premises that the ones above leave -/

/-- Nothing holds an entry off, and no cell of the top `n` awaits the divide unit. -/
def free (n : Nat) (s : State) : Bool :=
  (s.core 0).divide.isNone && !sevenWaits s 0 7 && !takesPending (s.core 0).pendingCell n (bank 0 s)

theorem entry_of_free {n : Nat} {s : State} (h : free n s = true) : entryFree 0 s := by
  simp only [free, Bool.and_eq_true, Bool.not_eq_true', Option.isNone_iff_eq_none] at h
  refine ⟨h.1.1, fun t => ?_⟩
  by_cases ht : t = 7
  · rw [ht]; exact h.1.2
  · simp [sevenWaits, ht]

/-- The parcel is ready, and what it finds is free. -/
def freeB (w nxt : BitVec 20) (n : Nat) (s : State) : Bool := readyB w nxt s && free n (reached w nxt s)

/-- Segment 1 with the given BASE. -/
def based (b : W64) (oc : List W64) : State :=
  rdyWith (fun k => { k with banks := k.banks.map (fun e => (e.1, { e.2 with segs := [(1, (b, (0x000F_FFFF_FFFF_FFFF : W64)))] })) }) oc
/-- Four bytes of a line stand in the store buffer. -/
def storing : State → State := withCore 0 (fun k => { k with sb := [⟨0x200, 1, 0, true, false, false, none⟩] })

theorem witness2_PickReadsItsCell : free 1 (reached (pair 0x08 0) nopParcel (rdy [2, 5, 6])) = true := by decide +kernel

theorem witness2_ControlWords : freeB (long 4 0x000) nopParcel 0 (task []) = true ∧ freeB (long 4 0x060) nopParcel 0 (rdy []) = true ∧
    freeB (long 5 0x000) nopParcel 1 (rdy [1]) = true ∧ freeB (long 5 0x003) nopParcel 1 (task [1]) = true ∧
    freeB (long 5 0x3FF) nopParcel 1 (rdy [1]) = true := by decide +kernel

theorem witness2_PairsExecuteBothHalves :
    (match shortHalf 0 0x70 ((reached (pair 0x70 0) nopParcel (rdy [0x1_0000_0000_0000])).core 0).frame (reached (pair 0x70 0) nopParcel (rdy [0x1_0000_0000_0000])) with
      | .exc _ s => free 0 s
      | _ => false) = true ∧
    (let s1 := reached (pair 0x0B 0x70) nopParcel (rdyWith (fun k => { k with banks := k.banks.map (fun e => (e.1, { e.2 with segs := [(1, ((0 : W64), (0 : W64)))] })) }) [])
    match shortHalf 0 0x0B (s1.core 0).frame s1 with
      | .ok fr s2 => (match shortHalf 0 0x70 fr s2 with
        | .exc _ s3 => free 0 s3
        | _ => false)
      | _ => false) = true := by decide +kernel

/-- LDC and STC at the largest base cell that segments take, and past it. -/
theorem witness2_LoadsAndStores : freeB (pair 0x76 0) nopParcel 1 (rdy [0x1000]) = true ∧ freeB (pair 0x7B 0) nopParcel 2 (rdy [0x1000, 1]) = true ∧
    (0xFFFF_FFFF_FFFF : W64).toNat < 2 ^ 48 ∧ 2 ^ 48 ≤ (0x1_0000_0000_0000 : W64).toNat ∧
    freeB (long 0x12 0x041) nopParcel 1 (rdy [0x1_0000_0000_0000]) = true ∧ freeB (long 0x12 0x041) nopParcel 1 (rdy [0xFFFF_FFFF_FFFF]) = true ∧
    freeB (long 0x13 0x041) nopParcel 2 (rdy [0x1000, 1]) = true ∧
    (match storeBytes 0 1 0x1008 8 1 (reached (long 0x13 0x041) nopParcel (rdy [0x1000, 1])) with
      | .ok r s2 => decide ((sbAdd (s2.core 0).sb r.1).length ≤ 16)
      | _ => false) = true ∧
    (match loadBytes 0 1 0x1008 8 needRead false (reached (long 0x12 0x041) nopParcel (rdy [0x1000])) with
      | .ok _ s2 => decide ((s2.core 0).sb.length ≤ 16)
      | _ => false) = true := by decide +kernel

/-- A divide by 0 with nothing that holds the entry off. -/
theorem witness2_Divides : (divideRows.all (fun row => freeB (pair row.2 0) nopParcel 0 (rdy [0, 7]))) = true := by decide +kernel

/-- ERET before a parcel that is no canonical no-operation. -/
theorem witness2_TransfersAwaitTheirDelayParcel : freeB (long 0x30 0) (pair 0x20 0) 0 (rdy []) = true ∧ pair 0x20 0 ≠ nopParcel ∧
    freeB (pair 0x80 0) (pair 0x20 0) 1 (rdy [0x500]) = true := by decide +kernel

theorem witness2_EventOperations : freeB (long 0x35 0) nopParcel 0 (rdy []) = true ∧ ((reached (long 0x35 0) nopParcel (rdy [])).evc.get 0).active = 0 ∧
    freeB (long 0x35 2) nopParcel 0 { rdy [] with evc := Quad.same { evCore0 with active := 0x09 } } = true ∧ topOf 0x09 ≠ 2 ∧
    freeB (long 0x34 0) nopParcel 1 (rdy [5]) = true := by decide +kernel

theorem witness2_RepSyncFenceBrk : freeB (pair 0x85 0) nopParcel 0 (rdy []) = true ∧ freeB (long 0x3C 0) (pair 0x20 0) 1 (rdy [5]) = true := by decide +kernel

theorem witness2_Invalidations : 2 ≤ ((reached (long 0x2C 0) nopParcel (rdy [0x5000])).core 0).pl ∧ freeB (long 0x2C 0) nopParcel 1 (rdy [0x5000]) = true ∧
    ((reached (long 0x2C 0) nopParcel (rdy [0x5000])).core 0).sb = [] ∧
    ([0x2C, 0x2D, 0x2E].all (fun m => freeB (long m 0) nopParcel 1 (storing (rdy [0x5000])) && !((reached (long m 0) nopParcel (storing (rdy [0x5000]))).core 0).sb.isEmpty &&
      decide (2 ≤ ((reached (long m 0) nopParcel (storing (rdy [0x5000]))).core 0).pl))) = true := by decide +kernel

theorem witness2_ChainIssueAndStatus : freeB (long 0x20 0) nopParcel 1 (rdy [0x80]) = true ∧ ((reached (long 0x20 0) nopParcel (rdy [0x80])).core 0).sb = [] ∧
    freeB (long 0x21 256) nopParcel 1 (staged none false (rdy [3])) = true ∧
    ((reached (long 0x21 256) nopParcel (staged none false (rdy [3]))).entry 0 3).taken = true ∧
    (let s := staged none false (rdy [3])
    let s' := { s with entries := s.entries.set 0 [(3, { entry0 with taken := false })] }
    freeB (long 0x21 256) nopParcel 1 s' && !((reached (long 0x21 256) nopParcel s').entry 0 3).taken &&
      (bank 0 (reached (long 0x21 256) nopParcel s')).cstage.getLsbD 3) = true := by decide +kernel

/-- MOVB's three cells and the store buffer after its element. -/
theorem witness2_MovbElements : freeB (long 0x1C 0x044) nopParcel 3 (rdy [8, 0x1026, 0x1000]) = true ∧ freeB (long 0x1C 0x044) nopParcel 3 (rdy [0, 1, 1]) = true ∧
    (let s1 := reached (long 0x1C 0x044) nopParcel (rdy [8, 0x1026, 0x1000])
    match loadPieces 0 1 0x1000 2 needRead false s1 with
    | .ok ps s2 => (match storeBytes 0 1 0x1026 2 0 s2 with
      | .ok _ s3 => (match readPieces 0 2 ps s3 with
        | .ok r s4 =>
          let m := mixBytes (movbOrig (s1.core 0) 0x1000 0x1026) 0x1000 2 r.1 s4
          (match storeBytes 0 1 0x1026 2 m.1 m.2 with
          | .ok e s5 =>
            let s6 := (recordBytes 0 0x1026 2 0x1002 0x1008 e.2 s5).2
            decide ((sbAdd (s6.core 0).sb e.1).length ≤ 16)
          | _ => false)
        | _ => false)
      | _ => false)
    | _ => false) = true := by decide +kernel

/-- A misaligned address, a misaligned BASE, and too few cells. -/
theorem witness2_CellBlocks : ([0x28, 0x29].all (fun m =>
      freeB (long m 0x040) nopParcel 0 (rdy [0x1001, 0, 10]) && freeB (long m 0x040) nopParcel 0 (rdy [0x1001, 1, 10]) &&
      freeB (long m 0x040) nopParcel 0 (based 4 [0x1000, 1, 10]) && freeB (long m 0x040) nopParcel 0 (rdy [0x1000, 8, 10]) &&
      segBase (((reached (long m 0x040) nopParcel (based 4 [0x1000, 1, 10])).core 0).segNow 1).1 == 4)) = true ∧
    segBase (((reached (long 0x28 0x040) nopParcel (rdy [0x1000, 6, 10, 11, 12])).core 0).segNow 1).1 % 8 = 0 := by decide +kernel

theorem witness_LockAndUnlock :
    (let s := reached (long 0x18 0x040) nopParcel (rdy [0x1008])
    freeB (long 0x18 0x040) nopParcel 1 (rdy [0x1008]) && okSame (lockXlate 0 1 .read needLock 0x1008 s) s && segBase ((s.core 0).segNow 1).1 % 8 == 0 &&
      (match readBytes 0 2 0x1008 8 true false true s with
      | .ok _ s2 => decide ((s2.core 0).sb.length ≤ 16)
      | _ => false)) = true ∧
    ([0x18, 0x19].all (fun m => freeB (long m 0x040) nopParcel 2 (rdy [0x1007, 5]) && freeB (long m 0x040) nopParcel 2 (based 4 [0x1008, 5]) &&
      segBase (((reached (long m 0x040) nopParcel (based 4 [0x1008, 5])).core 0).segNow 1).1 % 8 != 0)) = true ∧
    ([none, some (0x40 : BitVec 46)].all (fun r =>
      let s0 := rdyWith (fun k => { k with lockRes := r }) [0x1008, 5]
      let s := reached (long 0x19 0x040) nopParcel s0
      freeB (long 0x19 0x040) nopParcel 2 s0 && okSame (lockXlate 0 1 .write needWrite 0x1008 s) s && (s.core 0).lockRes == r && !rivalStore s 0 0x40 &&
        (s.core 0).sb.isEmpty && (ownBankWord s 0x1008).isNone)) = true ∧
    ([none, some (0x10_0000 : BitVec 46)].all (fun r =>
      let s0 := { rdyWith (fun k => { k with lockRes := r }) [0x400_0008, 5] with vs := { (rdy []).vs with baseEn := true, base := 1 } }
      let s := reached (long 0x19 0x040) nopParcel s0
      freeB (long 0x19 0x040) nopParcel 2 s0 && okSame (lockXlate 0 1 .write needWrite 0x400_0008 s) s && (s.core 0).lockRes == r && !rivalStore s 0 0x10_0000 &&
        (s.core 0).sb.isEmpty && ownBankWord s 0x400_0008 == some 1 && ((s.core 0).got.find? (fun g => g.word == 0x400_0008 / 8)).isNone &&
        !s.vs.reqs.any (fun q => q.dest == .unlock 0 (0x400_0008 / 8)))) = true := by decide +kernel

/-- A level-0 handler that would go to level 7, whose stack has 17 cells to be spilled to segment 15. -/
def crowded : State := rdyWith (fun k => { k with banks := [(0, { k.bank 0 with estat := 0x4000, segs := [] }), (7, { bank0 7 with oc := List.replicate 17 0 })] }) []

/-- The areas' misalignments of address and of BASE, headers that do not fit, and a lower half of a privilege above the loader's. -/
theorem witness2_SavesAndLoadsOfContexts : ([0x24, 0x25, 0x26, 0x27].all (fun m => freeB (long m 0x040) nopParcel 0 (rdy [0x1001]) && freeB (long m 0x040) nopParcel 0 (based 4 [0x1000]) &&
      segBase (((reached (long m 0x040) nopParcel (based 4 [0x1000])).core 0).segNow 1).1 % 8 != 0)) = true ∧
    segBase (((reached (long 0x24 0x040) nopParcel (rdyR [0x1200, 5, 6] [7])).core 0).segNow 1).1 % 8 = 0 ∧
    ([0x26, 0x27].all (fun m => let s := reached (long m 0x040) nopParcel (rdy [0x1000])
      freeB (long m 0x040) nopParcel 0 (rdy [0x1000]) && (match readArea 0 1 1 0x1000 s with
        | .ok _ s2 => free 0 s2
        | _ => false))) = true ∧
    (let s0 := rdyWith (fun k => { k with
      banks := k.banks.map (fun e => (e.1, { e.2 with status := 1, segs := (List.range 16).map (fun n => (n, ((0 : W64), (0x000F_FFFF_FFFF_FFFF : W64)))) }))
      dcache := (List.range 6).map (fun i => (0x40 + i, ⟨if i = 0 then BitVec.ofNat 512 (0x2000_0000_0000_0000 + 2 * 2 ^ 64) else 0, false⟩)) }) [0x1000]
    let s1 := reached (long 0x27 0x040) nopParcel s0
    freeB (long 0x27 0x040) nopParcel 0 s0 && (match readArea 0 1 1 0x1000 s1 with
      | .ok _ s2 => (match readArea 0 1 43 0x1000 s2 with
        | .ok r s3 => free 0 s3 && decide ((s3.core 0).pl < fieldAt 0 2 (((r.1)[1]?).getD 0))
        | _ => false)
      | _ => false)) = true := by decide +kernel

/-- A divide in flight, and bank 7 full, hold the entry off. -/
theorem witness2_ReservedParcelsRaiseIllegal : readyB 0 nopParcel (rdyWith (fun k => { k with divide := some ⟨0, 0⟩ }) [3]) = true ∧
    ((reached 0 nopParcel (rdyWith (fun k => { k with divide := some ⟨0, 0⟩ }) [3])).core 0).divide = some ⟨0, 0⟩ ∧
    readyB 0 nopParcel crowded = true ∧ ((reached 0 nopParcel crowded).core 0).divide = none ∧
    sevenWaits (reached 0 nopParcel crowded) 0 (((reached 0 nopParcel crowded).core 0).excLevel 1) = true ∧ free 0 (reached 0 nopParcel (rdy [])) = true := by
  decide +kernel

theorem witness2_PrivilegedOperationsRaisePriv :
    ([0x24, 0x25, 0x26, 0x27, 0x30, 0x31, 0x34, 0x35, 0x38, 0x2C, 0x2D, 0x2E].all (fun m => freeB (long m 0) nopParcel 0 (task []))) = true := by decide +kernel

theorem witness2_FailedConditionsDoNothing : readyB (longParcel 1 0x30 0) (pair 0x20 0) (rdy []) = true ∧ isTransfer (pair 0x20 0) = false ∧ isRep (pair 0x20 0) = false := by
  decide +kernel

/-- The always-on reset is released, and COLD_N asserted during start-up; a core halted between parcels and one that holds a fed parcel. -/
theorem witness2_Resets : State.reset.rst.phase = .cold ∧ State.reset.id.paramerr = false ∧ (atPhase (.startup 2) upState).rst.phase ≠ .aopor ∧
    effLevel (halting upState) = 2 ∧ ¬ effLevel (halting upState) < 2 ∧ (roleIs .manager upState).role.role = .manager ∧ upState.role.role = .spare ∧
    ((rdyWith (fun k => { k with st := .halted, held := some ⟨0, 0, 0, true, .drain, [], [], false⟩ }) []).core 0).held.isSome = true := by decide +kernel

/-- Samples inside the bands, and margins with a pass and without. -/
theorem witness2_ClocksAndCalibration : upState.rst.phase ≠ .aopor ∧ upState.rst.phase ≠ .cold ∧ upState.rst.phase ≠ .off ∧ (atPhase .warm upState).rst.phase = .warm ∧
    upState.cal.running = false ∧ ({ upState.cal with running := true, restarts := 1 } : Calib).restarts < 2 ∧
    ¬ ({ upState.cal with running := true, restarts := 2 } : Calib).restarts < 2 := by decide +kernel

/-- Every register that a command of its own writes may be written, and the three reserved ranges. -/
theorem witness2_SetupWindowAccesses : (([0x50000, 0x50FF8, 0x70000, 0x60000, 0x60FC0, 0x20048, 0xA0010, 0xA0040, 0xA0058, 0xA0060, 0x100] : List Nat).all (fun off =>
      mayAccess .host (writeLevel upState off) off upState && mayAccess (.core 0) (writeLevel (rdy []) off) off (rdy []))) = true ∧
    0xC0008 / 0x10000 = 0xC ∧ 0x108 / 0x10000 = 0 ∧ 0x61000 < 0x70000 ∧ (atPhase .warm upState).rst.phase ≠ .up ∧
    (0x91004 : Nat) % 8 ≠ 0 ∧ (0x0F : BitVec 8) ≠ 0xFF := by decide +kernel

theorem witness2_ArrivalsAndSnoops : mayAccess .host 2 (0x50000 + 8 * 0) upState = true ∧ upState.rst.phase = .up ∧ pulseSource 0x100 = false := by decide +kernel

/-- The ODD tile of the fused pair. -/
def oddTile : State := { fusedTile with id := { fusedTile.id with pairpos := 2 } }
def partDone (s : State) : State := { s with pair := { s.pair with drained := true } }
def endTile (s : State) : State := { s with fuses := { s.fuses with now := 5 } }
def resettingIn (s : State) : State := { s with role := { s.role with role := .fenced, resetting := true } }
def releasingIn (s : State) : State := { s with role := { s.role with role := .worker }, troupe := { s.troupe with releasing := true } }

/-- Both tiles of a pair, before and after the partner's part of a role reset; END; and the roles that a request does not fit. -/
theorem witness2_RoleRequests : oddFused oddTile = true ∧ (resettingIn oddTile).pair.drained = false ∧ upRuns (resettingIn oddTile) = true ∧
    anyChain (resettingIn oddTile) = false ∧ responsesDue (resettingIn oddTile) = false ∧ oddFused fusedTile = false ∧ (partDone (resettingIn fusedTile)).pair.drained = true ∧
    upRuns (partDone (resettingIn fusedTile)) = true ∧ anyChain (partDone (resettingIn fusedTile)) = false ∧ responsesDue (partDone (resettingIn fusedTile)) = false ∧
    mayAccess .host 2 0x10000 (endTile upState) = true ∧ (endTile upState).fuses.now = 5 ∧ mayAccess .host 2 0x10000 (flushing upState) = true ∧
    manager.role.role = .manager ∧ ({ manager.troupe with leaseEnd := some 1000 } : Troupe).leaseEnd = some 1000 := by decide +kernel

/-- An ODD tile; a hub whose timer has run out meets an HBACK; a manager answers a stale message, or has done so; a flush keeps an ADMIT off. -/
theorem witness2_MessagesAreCheckedFirst : (msgOf 0x01).type.toNat = 0x01 ∧ oddFused (met 0x01 (msg 1 9 1) oddTile) = true ∧ oddFused (met 0x02 (msg 2 1 9) manager) = false ∧
    slotSilent 3 (at_ns 96000 manager) = true ∧ ((met 0x02 (msg 2 1 9) (at_ns 96000 manager)).slotOf 3).st = .dead ∧
    msgFate (met 0x02 { msg 2 1 9 with epoch := 6 } manager) { msg 2 1 9 with epoch := 6 } = .stale ∧
    Tab.find ({ manager.troupe with fencedAt := [(1, 900)] } : Troupe).fencedAt 1 = some 900 ∧
    hubListens (flushing upState) = true ∧ msgFate (flushing upState) (msg 0x0A 9 0) = .accepted ∧ roleMessage (msg 0x0A 9 0) = true ∧
    (flushing upState).pwr.flush.isSome = true ∧ fusedTile.id.pairpos ≠ 2 := by decide +kernel

theorem witness2_AcceptedMessages : slotSilent 3 manager = false ∧ heard (msg 2 1 9) (at_ns 96000 manager) ∧ slotSilent 3 (at_ns 96000 manager) = true ∧
    heard (msg 0x0A 9 0) (endTile upState) ∧ heard (msg 0x0C 9 0) (endTile upState) ∧ (endTile upState).fuses.now = 5 ∧ heard (msg 0x0C 9 0) fusedTile ∧
    heard (msg 0x0A 9 0) { upState with pair := { upState.pair with busy := true } } ∧ heard (msg 1 9 1) (flushing worker) ∧ upState.fuses.now ≠ 5 := by
  refine ⟨?_, heard_of ?_, ?_, heard_of ?_, heard_of ?_, ?_, heard_of ?_, heard_of ?_, heard_of ?_, ?_⟩ <;> decide +kernel

/-- The answers come while their timers run. -/
theorem witness2_timely : timely admitting ∧ timely appointing := by
  constructor <;> intro till h <;> obtain ⟨n, h⟩ | ⟨n, h⟩ := h
  · obtain ⟨-, h⟩ := SlBusy.admission.inj h; exact h ▸ by decide +kernel
  · exact SlBusy.noConfusion h
  · exact SlBusy.noConfusion h
  · obtain ⟨-, h⟩ := SlBusy.appoint.inj h; exact h ▸ by decide +kernel

theorem witness2_HubTimersAndClaims : hubListens (releasingIn oddTile) = true ∧ oddFused (releasingIn oddTile) = true ∧ (releasingIn oddTile).pair.drained = false ∧
    queuesEmpty (releasingIn oddTile) = true ∧ (releasingIn oddTile).dma.chans = [] ∧ hubListens (partDone (releasingIn fusedTile)) = true ∧
    (partDone (releasingIn fusedTile)).pair.drained = true ∧ anyChain (partDone (releasingIn fusedTile)) = false ∧
    (claimOut manager).troupe.leaseEnd.all (fun e => (claimOut manager).troupe.now ≤ e) = true ∧ (1 : W64).getLsbD 1 = false ∧ (2 : W64).getLsbD 1 = true ∧
    (claimOut deputy).troupe.claim = .out ∧ (1 : W64).getLsbD 0 = true ∧ (2 : W64).getLsbD 0 = false := by decide +kernel

/-- Partners that differ, and the requests of a PX unit of the partner: for no chain here, for an element that this tile has reached, and ahead of it. -/
def farPx : PairReq := ⟨8, 1, 5, 0xFF, false, 0, 0, false, true, 0, 0, 0, 3, 5⟩
def fusedWith (ch : Chain) : State := setChain 0 ch fusedTile

theorem witness2_MacaronPairs : fusing.id.pairpos ≠ 2 ∧ upRuns { fusing with id := { fusing.id with pairpos := 2 } } = true ∧
    partner.trained = true ∧ partner.pairpos ≠ 0 ∧ partner.pairpos ≠ fusing.id.pairpos ∧ partner.spare = true ∧ partner.wipePending = false ∧ partner.idle = true ∧
    partner.lifecycle = fusing.fuses.now ∧ pairIdle fusing = true ∧ fusing.vs.baseEn = false ∧ (farPx.px = true) ∧ farPx.word.toNat < 8364032 ∧ fusedTile.chain 0 = none ∧
    (fusedWith { movChain with time := 100 }).chain 0 = some { movChain with time := 100 } ∧ pairDue (fusedWith { movChain with time := 100 }) { movChain with time := 100 } farPx = true ∧
    pairDue (fusedWith movChain) movChain farPx = false ∧ hubRuns (fusedWith movChain) = true ∧ vclkRuns (fusedWith movChain) = true ∧
    (fusedWith movChain).role.fused = true ∧ (resettingIn fusedTile).pair.failed = false ∧ (releasingIn fusedTile).role.role = .worker ∧
    (endTile single).role.fused = false := by decide +kernel

/-- A spare whose repair ends with a write half under way, a bank that names the spare already. -/
theorem witness2_VectorStoreCommands : (withVs (fun v => { v with halves := [(5, ⟨8, 5, false, 0, 16, .pair 5⟩)] }) wiped).vs.phys 5 = 5 ∧
    (Tab.find [((5 : Nat), (⟨8, 5, false, 0, 16, .pair 5⟩ : WriteHalf))] 5).isSome = true ∧ wiped.vs.phys 5 = 5 ∧
    (withVs (fun v => { v with map0 := ⟨5, true, false⟩ }) wiped).vs.map0.valid = true ∧
    (withVs (fun v => { v with wipeBusy := true, wipeRow := 8192 }) upState).vs.wipePending = true ∧ upState.rst.phase = .up ∧
    (atPhase (.startup 2) upState).rst.phase ≠ .up := by decide +kernel

/-- UNLOCK's write with its reservation and without, and secure and other words while a wipe is pending. -/
def unlockReq : BankReq := ⟨15, 8, .write 7 255 false, true, 0, false, .unlock 0 0x80008⟩

theorem test_unlock_grant :
    (let s := { asks unlockReq wiped with cores := (setCore 0 (rdyCore [] [] 0) wiped).cores }
    let t := { s with cores := (setCore 0 { rdyCore [] [] 0 with lockRes := some 0x10001 } wiped).cores }
    (grantCycle false s).1 == [(ReqDest.unlock 0 0x80008, 8, BankAnswer.data ⟨0, false⟩)] && (grantCycle false s).2.vs.mem == s.vs.mem &&
      (grantCycle false t).1 == [(ReqDest.unlock 0 0x80008, 8, BankAnswer.data ⟨1, false⟩)] &&
      (grantCycle false t).2.vs.mem.word (wiped.vs.keyOf 8) == 7) = true := by decide +kernel

theorem witness2_BanksServeRequests : detLaunchDue wiped = false ∧ (ask 8 .read).isUnlock = false ∧ (ask 8 .read).dest ≠ .repair ∧ (ask 8 .read).dest ≠ .scrub ∧
    (asks unlockReq wiped).vs.reqs = [unlockReq] ∧ detHeld (asks unlockReq wiped) unlockReq = false ∧ (isSecureWord unlockReq.word && !unlockReq.secure) = false ∧
    (∀ r ∈ (asks (ask 8 .read) (withVs (fun v => { v with wipeBusy := true }) upState)).vs.reqs, isSecureWord r.word = false) ∧
    ((asks (ask (7680 * 1021) .read) upState).vs.reqs.filter (fun r => isSecureWord r.word)).length = 1 ∧
    notPresented (asks (ask (7680 * 1021) .read) upState) (ask (7680 * 1021) .read) = false := by decide +kernel

/-- A chain time that stands: its write waits at a bank; one that ends the chain: its index is poisoned; and one that passes. -/
def scatterVor : Vor := ⟨0x22005084, 1, 0x3FF0000000000000, 0x20, 0, 0x1000, 0x100000000, 0x100000000⟩
def scatterChain (caps : Tab XWord) : Chain := { movChain with vors := [scatterVor], time := 10, caps := caps, groups := [(0, 1)] }
def writingChain : Chain := { movChain with time := 13, presented := true, groups := [(0, 1)] }
def writingTile : State := asks ⟨0, 0x1000, .write 0x3FF0000000000000 255 false, true, 0, false, .store 0 0 0⟩ (flies writingChain)
/-- What stands at the end of the VCLK. -/
def ticked (ch : Chain) (s : State) : Option (Bool × Option (Nat × Nat) × Bool) :=
  let s1 := tellPeer 0 (pump 0 (setChain 0 { ch with lastTick := 50 } s))
  (s1.chain 0).map (fun k => (timeDone s1 0 k, poisonedIndex s1 0 k, k.status == .running))
def frozenTile : State := halting { flies movChain with weado := { (flies movChain).weado with wfreeze := 1 } }

theorem test_poisoned_index : chainAfter (.chainTimeTick 0) (flies (scatterChain [(2 * 2 ^ 40, ⟨3, true⟩)])) (fun ch => ch.status == .ending 0x4E 0 0) = false ∧
    after (exec (.chainTimeTick 0) (flies (scatterChain [(2 * 2 ^ 40, ⟨3, true⟩)]))) (fun t => (t.chain 0).isNone && (t.entry 0 0).record.isSome) = true := by decide +kernel

theorem witness_tickedChains : (ticked movChain (flies movChain) == some (true, none, true) &&
      ticked (scatterChain [(2 * 2 ^ 40, ⟨3, true⟩)]) (flies (scatterChain [(2 * 2 ^ 40, ⟨3, true⟩)])) == some (true, some (0, 0), true) &&
      ticked writingChain writingTile == some (false, none, true)) = true := by decide +kernel

theorem witness2_ChainsInFlight : engFrozen frozenTile = true ∧ vclkRuns frozenTile = true ∧
    chainComplete frozenTile 0 movChain = false ∧ chainComplete (flies (scatterChain [(2 * 2 ^ 40, ⟨3, true⟩)])) 0 (scatterChain [(2 * 2 ^ 40, ⟨3, true⟩)]) = false ∧
    chainComplete (flies { emptyChain with far := true }) 0 { emptyChain with far := true } = true ∧
    suspendedTile.chain 0 = some { movChain with status := .suspended sfault } ∧ suspendedTile.role.fused = false ∧
    ({ wiped with eng := { wiped.eng with det := true } } : State).eng.det ≠ ({ wiped with eng := { wiped.eng with det := true } } : State).eng.detAct := by decide +kernel

theorem witness_writingTile : linearFaultNow writingTile writingChain = none ∧ chainComplete writingTile 0 writingChain = false ∧
    ((writingTile.chain 0).map (fun ch => ch == writingChain) = some true) := by decide +kernel

theorem witness2_ChainsReachLaunch : pipesHeld (queued (movQ .ready)) &&& hPipes movHdr = 0 ∧ (flying (queued (movQ .ready))).length + 1 ≤ 4 ∧
    (triggered.entry 0 0).trig = false ∧ (Tab.get evSrc0 triggered.ev 0).trgcnt ≠ 1 ∧
    (Tab.get evSrc0 ({ triggered with ev := [(0, { evSrc0 with trgen := true, trgcnt := 1 })] } : State).ev 0).trgcnt = 1 ∧
    canConsume 0 0 { triggered with ev := [(0, { evSrc0 with trgen := true, trgcnt := 1 })] } = true ∧ engFrozen (queued (movQ .ready)) = false := by decide +kernel

theorem witness2_StreamsAndJournal : (jTile (some jrec) none).role.role ≠ .deputy ∧ ((jTile (some jrec) none).chain 0).any (fun ch => ch.journal.waiting == some jrec &&
      ch.journal.outstanding == none) = true ∧ ((jTile none (some jrec)).chain 0).any (fun ch => ch.journal.outstanding == some jrec) = true ∧
    (⟨0, captured0, 5, 1, 1, 0x3000, false, false, []⟩ : SWalk).stale = false := by decide +kernel

/-- Nothing holds the entries off, an entry that its mark refuses, and a source at level 7 that waits for a full bank 7. -/
def sevenFull : State := { withC0 (fun k => { k with banks := k.banks ++ [(7, { bank0 7 with oc := List.replicate 17 0 })] }) (rdy [1]) with ev := [(5, srcAt 7)] }

theorem witness2_CoreBoundaries : sevenWaits pendingSources 0 (Tab.get evSrc0 pendingSources.ev 6).level.toNat = false ∧
    sevenWaits pendingSources 0 ((pendingSources.core 0).excLevel 0x03) = false ∧ selectSource sevenFull 0 = some 5 ∧ sevenWaits sevenFull 0 7 = true ∧
    asyncAllowed sevenFull 0 = true ∧ interruptible (withC0 (fun k => { k with chk := some 0x100 }) pendingSources |>.core 0) = true ∧
    ((cfgAsked.core 0).act ^^^ (cfgAsked.core 0).cfg) &&& 0x19 ≠ 0 ∧ ((0x0F : BitVec 5) ^^^ 0x0B) &&& 0x19 = 0 ∧ interruptible (cfgAsked.core 0) = true := by decide +kernel

theorem witness2_DmaCommands : (moving.reads = [] ∧ moving.writes = [] ∧ moving.st = .running ∧ moving.stop = .none) ∧ (3 : Fin 64).val < 60 ∧
    (dmaTile moving).chan 3 = moving ∧ (dmaTile writeOut).ports.owed = [] ∧ readOut.readLen = 0 ∧ moving.readLen = 64 := by decide +kernel

/-- Each state that a request leads to, the part of OFF, a cold tile whose flush ends, and a fall of the supply with no step under way. -/
theorem witness2_PowerCommands : (pwrAt (.part 3 false)).cores.all (fun k => k.wbs.isEmpty) = true ∧ (asked 3).pwr.state ≤ 3 ∧ (asked 4).pwr.state ≤ 4 ∧
    (pwrAt (.ack 4 false)).pwr.step = .ack 4 false ∧ (pwrAt (.part 0 true)).pwr.step = .part 0 true ∧ (pwrAt (.ack 0 true)).pwr.step = .ack 0 true ∧
    (atPhase .cold (drained true)).rst.phase = .cold ∧ (atPhase .cold (drained true)).rst.warmDue = none ∧ upState.pwr.state ≠ 4 ∧ upState.rst.phase ≠ .cold ∧
    upState.role.fused = false ∧ (supervised 3).pwr.step = .idle ∧ (supervised 3).pwr.state.toNat ≤ 1 ∧ (supervised 3).pwr.flushDue = none ∧
    ({ (drained true).rst with warmDue := some 5 } : ResetClk).warmDue = some 5 ∧ holdsRole worker = true ∧ mayAccess .host 2 0x20048 upState = true ∧
    (later 50000 (flushing worker)).log.aotime.toNat - 0 = 50000 := by decide +kernel

theorem witness2_SecureBoot : copied.pwr.flush = none ∧ 0 < hdrLen copied.boot.hdr ∧ hdrLen copied.boot.hdr < 2 ^ 32 ∧ (copied.chan 63).st ≠ .running ∧ (copied.chan 63).st ≠ .halted ∧
    (bootNeeds (withFuses (fun f => { f with lc := 3, now := 3 }) verifying)).isSome = true ∧
    bootSignatureOk (withFuses (fun f => { f with lc := 3, now := 3 }) verifying).boot = false ∧ bootable.vs.baseEn = true ∧ bootable.vs.base.toNat < 2 ^ 22 := by decide +kernel

theorem witness2_WrapperCommands : switchedOn wiped = true ∧ switchedOn worker = true ∧ (wirIs 8 wiped).wrap.rbusy = none ∧
    (∀ n, n < 3 → (Tab.get 0 (wirIs 9 wiped).wrap.fuses n).getLsbD 10 = false) ∧ (∀ r, (wirIs 9 wiped).wrap.lastRun ≠ some r) ∧
    (withWrap (fun w => { w with fuses := [(1, 0x405)] }) wiped).wrap.fuses = [(1, 0x405)] ∧ switchedOn (stateIs 4 (atPhase .off upState)) = false := by
  refine ⟨?_, ?_, ?_, ?_, fun r h => (by cases h), ?_, ?_⟩ <;> decide +kernel

theorem witness2_WeadoCommands : switchedOn (withWd (fun w => { w with tr := { w.tr with fifo := [1, 2, 3] } }) upState) = true ∧
    (withWd (fun w => { w with tr := { w.tr with fifo := [1, 2, 3] } }) upState).weado.tr.lost = 0 := by decide +kernel

theorem witness2_PanelAndWatchdogs : (withPanel (fun p => { p with pres := true, evac := 2 }) worker).panel.evac = 2 ∧ (stateIs 4 upState).pwr.state = 4 ∧
    (flushing upState).pwr.flush ≠ none ∧ (withPanel (fun p => { p with attn := true, pres := true, tamper := true }) upState).panel.attn = true ∧
    ({ wdRuns 0 with restart := true } : Wdog).restart = true ∧ (wdRuns 0).restart = false := by decide +kernel

/-! ## Walks that INVWALK meets, arming passes, the order of log records, and what OFF leaves to Weado (R332, R335, R389, R417, R451, R487, R516, R552) -/

/-- C1 walks while C0 executes INVWALK, and the same once INVWALK waits for it. -/
def otherWalk (why : HoldFor) (late : Bool) : State :=
  withCore 1 (fun k => { k with walks := [{ walkOf 4 0x3000 with late := late }] })
    (if late then rdyWith (fun k => { k with held := some ⟨0x3F, long 0x2E 0, nopParcel, false, why, [], [], false⟩ }) [] else rdy [])

theorem test_invwalk : after (exec (.invwalk P0 0) (otherWalk .walks false)) (fun t => (t.core 0).held.map (fun h => h.why) == some .walks && at_ 0x400 t &&
      (t.core 1).walks.map (fun w => w.late) == [true]) = true ∧
    after (exec (.pageWalkResponse 1 0x3000 .okay 0x7071) (otherWalk .walks true)) (fun t => at_ 0x401 t && (t.core 1).tlb.map (fun e => e.page) == [5]) = true := by decide +kernel

theorem witness3_Invalidations : walksLate (discardWalks (otherWalk .walks false)) = true ∧ walksLate (discardWalks (rdy [])) = false ∧
    readyB (long 0x2E 0) nopParcel (otherWalk .walks false) = true := by decide +kernel

/-- The line of entry 256 is being read when ARMALL is written. -/
theorem test_armall : let t := armAll (withRg (fun r => { r with reads := [⟨256, false⟩], entries := [(256, ⟨.arming, false, false, false⟩)] }) ringState)
    (t.rings.entry 256 == ⟨.arming, true, true, true⟩ && t.rings.reads.length == 64 && t.rings.reads.head? == some ⟨256, false⟩) = true := by decide +kernel

theorem test_log_order : let t := logRecord 0x02 unitEngine 0 0 false (logRecord 0x09 unitSec 0 0 false upState)
    ((logWord t 0 0).toNat, (logWord t 1 0).toNat) = (0x02 * 2 ^ 32 + 4 * 2 ^ 44, 1 + 0x09 * 2 ^ 32 + 6 * 2 ^ 44) := by decide +kernel

theorem test_restart : let t := dmaRestartChan 0 (setChan 0 { upState.chan 0 with st := .halted, err := ⟨0x40, true, false, false, 1, true⟩ } upState)
    ((t.chan 0).st == .running && !(t.chan 0).err.valid && (t.chan 0).err.more) = true := by decide +kernel

/-- A hub message that finds SLRX full is no firmware message lost. -/
theorem test_full_slrx : after (exec (.alert (msg 0x11 1 9)) { manager with troupe := { manager.troupe with slrx := List.replicate 64 (msg 0x20 9 1) } }) (fun t =>
      t.troupe.ovf && t.troupe.rxovf == 0) = true := by decide +kernel

theorem test_off_weado : after (exec .vtread { upState with pwr := { upState.pwr with state := 4 } }) (fun t => t.weado.denied) = true ∧ samFreeRead { upState with pwr := { upState.pwr with state := 4 } } 0x90018 = false ∧
    samFreeRead { upState with pwr := { upState.pwr with state := 4 } } 0x90000 = true ∧ samFreeWrite { upState with pwr := { upState.pwr with state := 4 } } 0x90020 = true := by decide +kernel

/-- A task slot that counts an arrival does not end an emulated DOZE, and the panel does. -/
theorem test_emulated_doze : (takeArrival 5 { upState with pwr := { upState.pwr with state := 3, emul := true } }).pwr.wake = false ∧
    (takeArrival srcPanelAttn { upState with pwr := { upState.pwr with state := 3, emul := true } }).pwr.wake = true := by decide +kernel

end Sys2Proof.Tests
end

section
/-! SUPPORT. Start-up from the release of COLD_N to UP, and the VERSION register (R2, R7, R39, R473, R504, R512, R543). -/

namespace Sys2Proof.Proofs

open Sys2Proof.Machine Sys2Proof.Claims Sys2Proof.Laws

/-! ## The release of COLD_N -/

theorem onlyIf_of_true {ok : Bool} {why : String} {s : State} (h : ok = true) : onlyIf ok why s = .next s := by
  rw [onlyIf, if_pos h]

/-- R7: PARAMERR is set exactly on a reserved encoding. -/
theorem sampleParams_eq (t : TieOffs) (s : State) : sampleParams t s =
    { s with id := ⟨t.tilebase, t.diepos, t.pairpos, t.snoopcap, t.empch, t.tracew, !tieOffsLegal t⟩ } := by
  have reserved : (t.pairpos == 3 || t.tracew == 3) = !tieOffsLegal t := by simp [tieOffsLegal, bne]
  rw [sampleParams, reserved]

/-- R512: a fresh challenge draws six free words. -/
theorem freshChallenge_form (s : State) :
    ∃ (ch : BitVec 384) (n : Nat), freshChallenge s = { s with auth := { s.auth with chal := ch }, free := n } :=
  ⟨_, _, rfl⟩

theorem coldRelease_form (t : TieOffs) (s : State) : ∃ (ch : BitVec 384) (n : Nat), coldRelease t s = { s with
    id := ⟨t.tilebase, t.diepos, t.pairpos, t.snoopcap, t.empch, t.tracew, !tieOffsLegal t⟩
    rst := { s.rst with phase := if tieOffsLegal t then .startup 1 else s.rst.phase }
    auth := { s.auth with chal := ch }, free := n } := by
  obtain ⟨ch, n, fresh⟩ := freshChallenge_form (sampleParams t s)
  refine ⟨ch, n, ?_⟩
  rw [coldRelease, fresh, sampleParams_eq]
  cases tieOffsLegal t <;> rfl

theorem exec_coldResetRelease {s : State} (t : TieOffs) (cold : s.rst.phase = .cold) (legal : s.id.paramerr = false) :
    exec (.coldResetRelease t) s = .next (coldRelease t s) :=
  onlyIf_of_true (by simp [cold, legal])

/-! ## The release of the always-on reset -/

/-- In phase cold this release is taken too (the model's choice, notes/assumptions/1.md). -/
theorem exec_aoporRelease {s : State} (t : TieOffs) (pnl : PanelPins)
    (h : s.rst.phase = .aopor ∨ (s.rst.phase = .cold ∧ s.id.paramerr = false)) :
    exec (.aoporRelease t pnl) s = .next (coldRelease t (firstPanelSample pnl (alwaysOnClear s))) :=
  onlyIf_of_true (by simpa using h)

/-! ## The timed steps of R473 -/

theorem exec_startupStepDone {s : State} {n : Nat} (phase : s.rst.phase = .startup n) (timed : n ≤ 3) :
    exec .startupStepDone s = .next (stepDone n s) := by
  show execStartupStepDone s = _
  rw [execStartupStepDone, phase]
  exact onlyIf_of_true (decide_eq_true timed)

/-- R39, R69: a VSMAP entry is that of its fuses where VALID is blown, and 0 elsewhere. -/
theorem fuseEntry_eq (s : State) (n : Nat) :
    fuseEntry s n = if fuseValid (s.fuseOf n) then ⟨(s.fuseOf n).truncate 10, true, true⟩ else ⟨0, false, false⟩ := rfl

/-- Settles O30: each release is `coldRelease` of the state it starts from, whose form says what start-up samples, and each timed step is
`stepDone` of its number. -/
theorem startUpSequence : Obligations.StartUpSequence := by
  unfold Obligations.StartUpSequence
  refine ⟨?coldN, ?aoporN, ?first, ?second, ?third⟩
  case coldN =>
    intro t s cold legal
    obtain ⟨ch, n, released⟩ := coldRelease_form t s
    refine ⟨ch, n, ?_⟩
    rw [exec_coldResetRelease t cold legal, released, cold]
  case aoporN =>
    intro t pnl s h
    obtain ⟨ch, n, released⟩ := coldRelease_form t (firstPanelSample pnl (alwaysOnClear s))
    refine ⟨_, exec_aoporRelease t pnl h, ?_⟩
    rw [released]
    refine ⟨rfl, rfl, rfl, rfl, rfl, rfl, rfl, rfl, rfl, rfl, rfl, rfl, rfl, rfl, fun c => ?_⟩
    fin_cases c <;> rfl
  case first =>
    intro s phase
    rw [exec_startupStepDone phase (by decide)]
    rfl
  case second =>
    intro s phase
    rw [exec_startupStepDone phase (by decide)]
    simp only [← fuseEntry_eq]
    rfl
  case third =>
    intro s phase
    rw [exec_startupStepDone phase (by decide)]
    rfl

/-! ## VERSION -/

theorem readReg_version (s : State) : readReg s 0 = Config.version := rfl

theorem writeReg_version (who : Requester) (v : W64) (s : State) : writeReg who 0 v s = s := rfl

/-- Settles O33: a served write of offset 0 writes the register there, which is no state. -/
theorem versionRegister : Obligations.VersionRegister := by
  unfold Obligations.VersionRegister
  refine ⟨readReg_version, fun who v s served => ?_, writeReg_version⟩
  have wrote : exec (.setupRegisterWrite who 0 0xFF v) s = .next (written who (writeReg who 0 v s)) :=
    writeCmd_ok served (by decide) (by decide)
  rw [wrote, writeReg_version]

end Sys2Proof.Proofs
end

section
/-! SUPPORT. What each register holds after reset (R18, R286, R338, R346, R373, R468, R482, R498, R517, R554). -/

namespace Sys2Proof.Proofs

open Sys2Proof.Machine Sys2Proof.Claims Sys2Proof.Laws

@[simp] theorem Quad.get_same {α : Type} (v : α) (i : Fin 4) : (Quad.same v).get i = v := by
  fin_cases i <;> rfl

@[simp] theorem core_reset (c : CoreId) : State.reset.core c = core0 := Quad.get_same core0 c

/-- R286: the banks of a core held in reset, of which only STATUS.LEVEL tells them apart. -/
theorem bank_core0 (l : BitVec 3) : core0.bank l = bank0 l.toNat := rfl

theorem bank0_status (n : Fin 8) : (bank0 n).status.toNat = 2 + 16 * n.val := by
  revert n; decide

theorem fusesSound_reset : FusesSound State.reset where
  listed := by decide
  forward := nofun
  rises := nofun
  empty := nofun
  once := nofun

/-- Settles O29: the reset state is written out in the model, so each register reads as the literal there; what is indexed by a core, a bank
or a key slot reads the same at every index. -/
theorem resetLeavesTheResetValues : Obligations.ResetLeavesTheResetValues := by
  unfold Obligations.ResetLeavesTheResetValues
  refine ⟨?registers, fusesSound_reset, Memory.wf_reset, rfl, rfl, ?keys, fun n => rfl⟩
  case keys => exact fun n => by fin_cases n <;> exact ⟨rfl, rfl⟩
  case registers =>
    refine ⟨rfl, rfl, rfl, rfl, rfl, rfl, rfl, rfl, rfl, rfl, rfl, rfl, rfl, ?events, ?cores, ?slots, ?queues, rfl, rfl, rfl, rfl, rfl, rfl,
      rfl, rfl, rfl, rfl, rfl, rfl, rfl, rfl, rfl, rfl⟩
    case events => exact fun c => by rw [show State.reset.evc.get c = evCore0 from Quad.get_same _ c]; exact ⟨rfl, rfl, rfl⟩
    case cores =>
      intro c k
      rw [show k = core0 from core_reset c]
      refine ⟨rfl, rfl, rfl, rfl, rfl, rfl, rfl, rfl, fun l => ?_⟩
      rw [bank_core0]
      exact ⟨rfl, rfl, bank0_status l.toFin, rfl⟩
    case slots => exact Quad.get_same none
    case queues => exact Quad.get_same []

end Sys2Proof.Proofs
end

section
/-! SUPPORT. What each reset strikes and what it keeps (R21, R63, R467 to R472, R475, R482, R518). -/

namespace Sys2Proof.Proofs

open Sys2Proof.Machine Sys2Proof.Claims Sys2Proof.Laws

/-! ## Cold and always-on reset -/

/-- A word of the pair link is sent, or nothing changes. -/
theorem sendPair_form (w : PairWord) (s : State) : ∃ p, sendPair w s = { s with pair := p } := by
  unfold sendPair; split <;> exact ⟨_, rfl⟩

theorem coldAssert_form (s : State) : ∃ p, coldAssert s = coldClear 2 { s with pair := p } := by
  obtain ⟨p, sent⟩ := sendPair_form .coldReset s
  exact ⟨p, by rw [coldAssert, sent]⟩

theorem wrapCut_form (s : State) : ∃ f, wrapCut s = { s with free := s.free + 1, wrap := { s.wrap with fuses := f, rbusy := none } } ∧
    (s.wrap.rbusy = none → f = s.wrap.fuses) := by
  refine ⟨_, rfl, fun idle => ?_⟩
  rw [idle]

theorem exec_coldResetAssert {s : State} (on : s.rst.phase ≠ .aopor) : exec .coldResetAssert s = .next (coldAssert s) :=
  onlyIf_of_true (by simpa using on)

theorem exec_alwaysOnResetAssert (s : State) : exec .alwaysOnResetAssert s = .next (alwaysOnAssert s) := rfl

/-! ## Rows of zeros in the arrays -/

theorem Tab.find_filter {α : Type} (keep : Nat → Bool) (t : Tab α) (k : Nat) :
    Tab.find (t.filter (fun e => keep e.1)) k = if keep k then Tab.find t k else none := by
  induction t with
  | nil => simp [Tab.find]
  | cons e t ih =>
    obtain ⟨k', v⟩ := e
    by_cases here : k' = k
    · subst here
      cases kept : keep k' <;> simp [Tab.find, kept, ih]
    · cases kept : keep k' <;> simp [Tab.find, kept, here, ih]

theorem Memory.byte_setWord (m : Memory) (k a : Nat) (w : W64) (e : WordErr) :
    (m.setWord k w e).byte a = if a / 8 = k then wordByte w (a % 8) else m.byte a := by
  have stored (n : Nat) : ((List.range n).foldl (fun m i => m.setByte (8 * k + i) (wordByte w i)) m).byte a =
      if 8 * k ≤ a ∧ a < 8 * k + n then wordByte w (a - 8 * k) else m.byte a := by
    induction n with
    | zero => rw [if_neg (by omega)]; rfl
    | succ n ih =>
      rw [List.range_succ, List.foldl_append, List.foldl_cons, List.foldl_nil]
      by_cases last : a = 8 * k + n
      · subst last
        rw [Memory.byte_setByte_same, if_pos (by omega)]
        congr 1; omega
      · rw [Memory.byte_setByte_other _ _ _ _ last, ih]
        exact if_congr (by omega) rfl rfl
  show ((List.range 8).foldl (fun m i => m.setByte (8 * k + i) (wordByte w i)) m).byte a = _
  rw [stored, if_congr (show 8 * k ≤ a ∧ a < 8 * k + 8 ↔ a / 8 = k by omega) rfl rfl]
  split
  · congr 1; omega
  · rfl

theorem Memory.err_setWord (m : Memory) (k j : Nat) (w : W64) (e : WordErr) :
    (m.setWord k w e).err j = if j = k then e else m.err j := by
  obtain ⟨scramble, errs⟩ := Memory.fold_setByte_frame k w (List.range 8) m
  have dflt : (m.setWord k w e).errDefault j = m.errDefault j := by
    unfold Memory.errDefault Memory.setWord; rw [scramble]
  show Tab.get ((m.setWord k w e).errDefault j) (Tab.set (m.errDefault k) _ k e) j = _
  rw [dflt, errs]
  split
  · rename_i same; subst same; exact Tab.get_set_same _ _ _ _
  · rename_i other; exact Tab.get_set_other _ _ _ _ _ _ other

@[simp] theorem wordByte_zero (i : Nat) : wordByte 0 i = 0 := by simp [wordByte]

/-- One row of every bank becomes zero, and no other byte changes (R63). -/
theorem Memory.byte_zeroRow (m : Memory) {row a : Nat} (inRow : row < 8192) (inBank : a / 8 / 8192 < 1024) :
    (m.zeroRow row).byte a = if a / 8 % 8192 = row then 0 else m.byte a := by
  have upTo (n : Nat) : ((List.range n).foldl (fun m p => m.setWord (wordKey p row) 0 .good) m).byte a =
      if a / 8 % 8192 = row ∧ a / 8 / 8192 < n then 0 else m.byte a := by
    induction n with
    | zero => simp
    | succ n ih =>
      rw [List.range_succ, List.foldl_append, List.foldl_cons, List.foldl_nil, Memory.byte_setWord, ih, wordByte_zero, wordKey]
      grind
  unfold Memory.zeroRow
  cases clean : m.scramble with
  | none =>
    simp only [Memory.byte, Memory.byteDefault, clean, Tab.get, Tab.find_filter (fun k => k / 8 % 8192 != row)]
    by_cases here : a / 8 % 8192 = row <;> simp [here]
  | some n => exact (upTo 1024).trans (if_congr (and_iff_left inBank) rfl rfl)

theorem Memory.err_zeroRow (m : Memory) {row k : Nat} (inRow : row < 8192) (inBank : k / 8192 < 1024) :
    (m.zeroRow row).err k = if k % 8192 = row then .good else m.err k := by
  have upTo (n : Nat) : ((List.range n).foldl (fun m p => m.setWord (wordKey p row) 0 .good) m).err k =
      if k % 8192 = row ∧ k / 8192 < n then .good else m.err k := by
    induction n with
    | zero => simp
    | succ n ih =>
      rw [List.range_succ, List.foldl_append, List.foldl_cons, List.foldl_nil, Memory.err_setWord, ih, wordKey]
      grind
  unfold Memory.zeroRow
  cases clean : m.scramble with
  | none =>
    simp only [Memory.err, Memory.errDefault, clean, Tab.get, Tab.find_filter (fun k => k % 8192 != row)]
    by_cases here : k % 8192 = row <;> simp [here]
  | some n => exact (upTo 1024).trans (if_congr (and_iff_left inBank) rfl rfl)

/-! ## The wipe before UP -/

/-- The rows of the secure region, from 7680 upwards, become zero (R63, R475). -/
theorem wipeRows_byte (m : Memory) {n a : Nat} (rows : n ≤ 512) (inBank : a / 8 / 8192 < 1024) :
    ((List.range n).foldl (fun m i => m.zeroRow (7680 + i)) m).byte a =
      if 7680 ≤ a / 8 % 8192 ∧ a / 8 % 8192 < 7680 + n then 0 else m.byte a := by
  induction n with
  | zero => rw [if_neg (by omega)]; rfl
  | succ n ih =>
    rw [List.range_succ, List.foldl_append, List.foldl_cons, List.foldl_nil, Memory.byte_zeroRow _ (by omega) inBank, ih (by omega)]
    grind

theorem wipeRows_err (m : Memory) {n k : Nat} (rows : n ≤ 512) (inBank : k / 8192 < 1024) :
    ((List.range n).foldl (fun m i => m.zeroRow (7680 + i)) m).err k =
      if 7680 ≤ k % 8192 ∧ k % 8192 < 7680 + n then .good else m.err k := by
  induction n with
  | zero => rw [if_neg (by omega)]; rfl
  | succ n ih =>
    rw [List.range_succ, List.foldl_append, List.foldl_cons, List.foldl_nil, Memory.err_zeroRow _ (by omega) inBank, ih (by omega)]
    grind

theorem wipeNow_mem (s : State) : (wipeNow s).vs.mem = (List.range 512).foldl (fun m i => m.zeroRow (7680 + i)) s.vs.mem := by
  simp only [wipeNow, setVs_vs]

theorem wipeNow_word (s : State) {p row : Nat} (inBank : p < 1024) (inRow : row < 8192) :
    (wipeNow s).vs.mem.word (wordKey p row) = if 7680 ≤ row then 0 else s.vs.mem.word (wordKey p row) := by
  have byte (j : Nat) (hj : j < 8) : (wipeNow s).vs.mem.byte (8 * wordKey p row + j) =
      if 7680 ≤ row then 0 else s.vs.mem.byte (8 * wordKey p row + j) := by
    have place : (8 * wordKey p row + j) / 8 = p * 8192 + row := by rw [wordKey]; omega
    rw [wipeNow_mem, wipeRows_byte _ (le_refl _) (by omega), place]
    exact if_congr (by omega) rfl rfl
  have byte0 := byte 0 (by decide)
  rw [Nat.add_zero] at byte0
  rw [Memory.word, Memory.word, byte 7 (by decide), byte 6 (by decide), byte 5 (by decide), byte 4 (by decide), byte 3 (by decide),
    byte 2 (by decide), byte 1 (by decide), byte0]
  split <;> rfl

theorem wipeNow_err (s : State) {p row : Nat} (inBank : p < 1024) (inRow : row < 8192) :
    (wipeNow s).vs.mem.err (wordKey p row) = if 7680 ≤ row then .good else s.vs.mem.err (wordKey p row) := by
  rw [wipeNow_mem, wipeRows_err _ (le_refl _) (by rw [wordKey]; omega), wordKey]
  exact if_congr (by omega) rfl rfl

/-! ## All four cores in turn -/

/-- What is done to each core in turn reaches core `c` from a state in which it stands as at the start. -/
theorem fours_core {act : State → CoreId → State} (other : ∀ (s : State) (d c : CoreId), c ≠ d → (act s d).core c = s.core c) (c : CoreId) (s : State) :
    ∃ x : State, x.core c = s.core c ∧ (fours.foldl act s).core c = (act x c).core c := by
  show ∃ x : State, _ ∧ (act (act (act (act s 0) 1) 2) 3).core c = _
  fin_cases c
  · exact ⟨s, rfl, by rw [other _ 3 _ (by decide), other _ 2 _ (by decide), other _ 1 _ (by decide)]; rfl⟩
  · exact ⟨act s 0, other _ 0 _ (by decide), by rw [other _ 3 _ (by decide), other _ 2 _ (by decide)]; rfl⟩
  · exact ⟨act (act s 0) 1, by rw [other _ 1 _ (by decide), other _ 0 _ (by decide)], by rw [other _ 3 _ (by decide)]; rfl⟩
  · exact ⟨act (act (act s 0) 1) 2, by rw [other _ 2 _ (by decide), other _ 1 _ (by decide), other _ 0 _ (by decide)], rfl⟩

theorem foldl_field {α β : Type} (f : State → β) {act : State → α → State} (same : ∀ s a, f (act s a) = f s) (l : List α) (s : State) :
    f (l.foldl act s) = f s := by
  induction l generalizing s with
  | nil => rfl
  | cons a l ih => rw [List.foldl_cons, ih, same]

/-! ## A debug reset -/

theorem core_withDbg_other {c d : CoreId} (f : CoreDbg → CoreDbg) (s : State) (h : c ≠ d) : (withDbg d f s).core c = s.core c :=
  Quad.get_set_other _ _ _ _ h

@[simp] theorem core_withDbg (c : CoreId) (f : CoreDbg → CoreDbg) (s : State) :
    (withDbg c f s).core c = { s.core c with dbg := f (s.core c).dbg } := core_withCore _ _ _

@[simp] theorem withDbg_auth (c : CoreId) (f : CoreDbg → CoreDbg) (s : State) : (withDbg c f s).auth = s.auth := rfl
@[simp] theorem withDbg_weado (c : CoreId) (f : CoreDbg → CoreDbg) (s : State) : (withDbg c f s).weado = s.weado := rfl

/-- R532: the halted cores resume, one after the other, and no step is under way any more. -/
def resumeAll (s : State) : State :=
  fours.foldl (fun s c => withDbg c (fun d => { d with stepping := false, stepDue := false }) (resumeCore c s)) s

theorem resumeAll_core (s : State) (c : CoreId) : ∃ x d, x.core c = s.core c ∧ (resumeAll s).core c = { (resumeCore c x).core c with dbg := d } := by
  obtain ⟨x, same, reached⟩ := fours_core
    (act := fun s c => withDbg c (fun d => { d with stepping := false, stepDue := false }) (resumeCore c s))
    (fun s d c h => (core_withDbg_other _ _ h).trans (resume_other d c h s).1) c s
  exact ⟨x, _, same, reached.trans (core_withDbg _ _ _)⟩

theorem resumeCore_auth (c : CoreId) (s : State) : (resumeCore c s).auth = s.auth :=
  (resume_other c (c + 1) (by fin_cases c <;> decide) s).2

theorem resumeAll_auth (s : State) : (resumeAll s).auth = s.auth := by
  unfold resumeAll
  refine foldl_field State.auth (fun s c => ?_) fours s
  rw [withDbg_auth, resumeCore_auth]

/-- The state in which LEVEL has just fallen to NONE, and the halted cores of a tile at HALT have resumed (R513, R532). -/
def lowered (s : State) : State :=
  let s1 := { s with auth := { s.auth with level := 0, byRma := false } }
  if s.auth.level = 2 then resumeAll s1 else s1

theorem lowered_auth (s : State) : (lowered s).auth = { s.auth with level := 0, byRma := false } := by
  unfold lowered; split
  · exact resumeAll_auth _
  · rfl

theorem setLevel_none (s : State) (c : CoreId) : (setLevel 0 false s).core c = (lowered s).core c ∧ (setLevel 0 false s).auth = (lowered s).auth := by
  have atHalt : (dbgLevel s == 2 && (0 : BitVec 2) != 2) = decide (s.auth.level = 2) := by
    rw [Bool.eq_iff_iff]; simp [dbgLevel, ← BitVec.toNat_inj]
  have fallen : lowered s = if dbgLevel s == 2 && (0 : BitVec 2) != 2 then
      resumeAll { s with auth := { s.auth with level := 0, byRma := false } } else { s with auth := { s.auth with level := 0, byRma := false } } := by
    rw [atHalt, lowered]; simp only [decide_eq_true_eq]
  rw [← (thawed_core s (lowered s) c).1, ← (thawed_core s (lowered s) c).2, fallen]
  unfold setLevel resumeAll
  dsimp only
  generalize thawed s _ = s3
  split <;> exact ⟨rfl, rfl⟩

/-- What a debug reset leaves of Weado's registers of a core (R468, R532). -/
def resetDbg (d : CoreDbg) : CoreDbg :=
  if d.resumeDue then { coreDbg0 with resumeDue := true, dpc := d.dpc, drpend := d.drpend } else coreDbg0

theorem debugReset_form (s : State) : ∃ (w : Weado) (p : Ports), debugReset s = fours.foldl (fun s c => withDbg c resetDbg s)
    { setLevel 0 false s with weado := { weado0 with wdDo := w.wdDo, acks := w.acks }, ports := p } := by
  unfold debugReset owe
  generalize setLevel 0 false s = s1
  dsimp only
  split <;> exact ⟨s1.weado, _, rfl⟩

theorem debugReset_regs (s : State) : (debugReset s).auth.level = 0 ∧ (debugReset s).weado.wfreeze = 0x1F0 ∧ (debugReset s).weado.sel = 0 ∧
    (debugReset s).weado.sam = sam0 ∧ (debugReset s).weado.tr = trace0 := by
  obtain ⟨w, p, form⟩ := debugReset_form s
  rw [form, foldl_field State.auth (fun s c => withDbg_auth c _ s), foldl_field State.weado (fun s c => withDbg_weado c _ s)]
  refine ⟨?_, rfl, rfl, rfl, rfl⟩
  rw [show ∀ w p, ({ setLevel 0 false s with weado := w, ports := p } : State).auth = _ from fun _ _ => (setLevel_none s 0).2, lowered_auth]

/-- R523, R532: where the debug level was HALT, a core that a debug reset strikes resumes. -/
theorem debugReset_core (s : State) (c : CoreId) : ∃ x d, x.core c = s.core c ∧
    (debugReset s).core c = { (if s.auth.level = 2 then resumeCore c x else x).core c with dbg := d } := by
  obtain ⟨w, p, form⟩ := debugReset_form s
  obtain ⟨y, sameY, reset⟩ := fours_core (act := fun s c => withDbg c resetDbg s) (fun s d c h => core_withDbg_other _ _ h) c
    { setLevel 0 false s with weado := { weado0 with wdDo := w.wdDo, acks := w.acks }, ports := p }
  have fell : y.core c = (lowered s).core c := sameY.trans (setLevel_none s c).1
  rw [form, reset, core_withDbg, fell, lowered]
  split
  · obtain ⟨x, d, sameX, resumed⟩ := resumeAll_core { s with auth := { s.auth with level := 0, byRma := false } } c
    exact ⟨x, _, sameX, by rw [resumed]⟩
  · exact ⟨s, _, rfl, rfl⟩

/-- R523: a core that has resumed is halted only where a fed parcel still runs. -/
theorem resumeCore_halted {c : CoreId} {s : State} (halted : ((resumeCore c s).core c).st = .halted) :
    ((resumeCore c s).core c).held.isSome = true := by
  obtain ⟨other, fed, resumes⟩ := resume_same c s
  by_cases st : (s.core c).st = .halted
  · cases held : (s.core c).held with
    | none => rw [(resumes st held).1] at halted; cases halted
    | some h => rw [fed st (by rw [held]; rfl), held]; rfl
  · rw [other st] at halted; exact absurd halted st

/-! ## RSTCTL -/

/-- RSTCTL as it is written (R482): CORERST in bits 3 to 0, RUN in bits 7 to 4, and a request for a warm reset in bit 8. -/
theorem rstctl_fields (mask run : BitVec 4) (warm : Bool) : let v : W64 := BitVec.ofNat 64 (mask.toNat + run.toNat * 16 + b2n warm * 0x100)
    (∀ c : CoreId, bitAt c.val v = mask.getLsbD c.val) ∧ v.extractLsb' 4 4 = run ∧ bitAt 8 v = warm := by
  have m := mask.isLt
  have r := run.isLt
  have w : b2n warm ≤ 1 := by cases warm <;> decide
  refine ⟨fun c => ?_, ?_, ?_⟩
  · simp only [bitAt, BitVec.getLsbD, BitVec.toNat_ofNat, Nat.testBit_eq_decide_div_mod_eq]
    fin_cases c <;> simp only [decide_eq_decide] <;> omega
  · apply BitVec.eq_of_toNat_eq
    simp only [BitVec.extractLsb'_toNat, BitVec.toNat_ofNat, Nat.shiftRight_eq_div_pow]
    omega
  · simp only [bitAt, BitVec.getLsbD, BitVec.toNat_ofNat, Nat.testBit_eq_decide_div_mod_eq]
    cases warm <;> simp [b2n] <;> omega

theorem writeRstctl_eq (mask run : BitVec 4) (warm : Bool) (s : State) :
    writeRstctl (BitVec.ofNat 64 (mask.toNat + run.toNat * 16 + b2n warm * 0x100)) s =
      let s1 := writeRun run (fours.foldl (fun s c => if mask.getLsbD c.val then coreResetOne c s else s) s)
      if warm then warmReset 4 true s1 else s1 := by
  obtain ⟨corerst, runs, wrst⟩ := rstctl_fields mask run warm
  simp only [writeRstctl, corerst, runs, wrst]

theorem exec_rstctl {who : Requester} {v : Nat} {s : State} (served : mayAccess who 2 0x20000 s = true) :
    regCmd who 0x20000 v s = .next (written who (writeRstctl (BitVec.ofNat 64 v) s)) :=
  regCmd_ok served (by decide) (by decide) (by simp [samFreeWrite])

/-- A write of RUN that leaves it as it is strikes no core. -/
theorem writeRun_same (s : State) : writeRun s.rst.run s = startCores s := by
  simp [writeRun, fours, setRst]

/-! ## The reset of one core -/

theorem coreResetOne_form (c : CoreId) (s : State) : ∃ e p r, coreResetOne c s = { clearCore c s with entries := e, pair := p, rst := r } ∧
    r.run = (clearCore c s).rst.run &&& ~~~ BitVec.ofNat 4 (2 ^ c.val) := by
  obtain ⟨p, told⟩ := tellFreeze_form s (orphanEntries c (clearCore c s))
  unfold coreResetOne setRst
  rw [told]
  exact ⟨_, p, _, rfl, rfl⟩

theorem run_bit_cleared (run : BitVec 4) (c : CoreId) : (run &&& ~~~ BitVec.ofNat 4 (2 ^ c.val)).getLsbD c.val = false := by
  fin_cases c <;> simp

/-! ## Arrivals and the error log -/

/-- An arrival is counted, or held in DOZE: only event sources, cores and the power-state controller change (R357, R487). -/
theorem arrive_form (n : Nat) (s : State) : ∃ ev cores pwr, arrive n s = { s with ev := ev, cores := cores, pwr := pwr } := by
  unfold arrive takeArrival voidDet withCore setCore
  dsimp only
  split
  · exact ⟨_, _, _, rfl⟩
  split
  · exact ⟨_, _, _, rfl⟩
  split <;> exact ⟨_, _, _, rfl⟩

theorem logRecord_form (kind unit : Nat) (addr : BitVec 52) (detail : W64) (mchk : Bool) (s : State) : ∃ l,
    logRecord kind unit addr detail mchk s = if mchk then arrive srcMchk { s with log := l } else { s with log := l } := ⟨_, rfl⟩

/-! ## The end of a warm reset -/

/-- A boot that fails before it copies logs and counts, and leaves the reset registers and the fuses. -/
theorem bootFail_keeps (cause : Nat) {s : State} (early : s.boot.step ≠ .copy) :
    (bootFail cause s).rst = s.rst ∧ (bootFail cause s).fuses = s.fuses := by
  have noCopy : (s.boot.step == .copy) = false := by simpa using early
  unfold bootFail
  rw [noCopy]
  obtain ⟨p, sent⟩ := sendPair_form .wipe (wipeTrigger (setBoot { s.boot with state := 4, cause := BitVec.ofNat 4 cause, step := .none } s))
  simp only [Bool.false_eq_true, if_false, sent]
  obtain ⟨l, logged⟩ := logRecord_form 0x07 unitSec (BitVec.ofNat 52 (imageAddr s.boot.cur.2)) (BitVec.ofNat 64 cause) true _
  obtain ⟨ev, cores, pwr, arrived⟩ := arrive_form srcMchk _
  rw [logged, if_pos rfl, arrived]
  exact ⟨rfl, rfl⟩

theorem bootStart_keeps (port : Bool) (addr : BitVec 45) (s : State) :
    (bootStart port addr s).rst = s.rst ∧ (bootStart port addr s).fuses = s.fuses := by
  unfold bootStart
  dsimp only
  split
  · exact bootFail_keeps 6 (by simp)
  split
  · exact bootFail_keeps 7 (by simp)
  · exact ⟨rfl, rfl⟩

theorem bootAgain_keeps (s : State) : (bootAgain s).rst = s.rst ∧ (bootAgain s).fuses = s.fuses := by
  unfold bootAgain
  split
  · split
    · exact ⟨rfl, rfl⟩
    · exact bootStart_keeps _ _ s
  · exact ⟨rfl, rfl⟩

theorem bootAgain_none {s : State} (never : s.boot.passed = none) : bootAgain s = s := by
  rw [bootAgain, never]

/-- The tile as the release of a warm reset finds it, before the wipe and the boot (R475, R503). -/
def atRelease (s : State) : State := { s with fuses := { s.fuses with now := s.fuses.lc }, rst := { s.rst with phase := .up } }

theorem exec_warmResetRelease {s : State} (warm : s.rst.phase = .warm) : exec .warmResetRelease s = .next
    (bootAgain (if s.vs.wipePending && clockOn s .vclk then wipeNow (atRelease s) else atRelease s)) :=
  onlyIf_of_true (by simp [warm])

theorem warmReset_up {cause : BitVec 4} {relay : Bool} {s : State} (up : s.rst.phase = .up) : warmReset cause relay s = warmBegin cause relay s :=
  if_pos up

/-- Settles O31: each reset is the composition that the model names; the forms of its parts (`coldAssert_form`, `wrapCut_form`, `warmRole_form`,
`strike_facts`, `cleared_clearCore`, `debugReset_core`) say what is struck, and the wipe is that of `wipeNow_word`. -/
theorem resetsStrikeWhatR468Names : Obligations.ResetsStrikeWhatR468Names := by
  unfold Obligations.ResetsStrikeWhatR468Names
  refine ⟨?cold, ?alwaysOn, ?warmPin, ?rstctl, ?weado, ?release, ?coreReset, ?oneCore, ?debug⟩
  case cold =>
    intro s on
    obtain ⟨p, cold⟩ := coldAssert_form s
    refine ⟨_, exec_coldResetAssert on, ?_⟩
    rw [cold]
    refine ⟨rfl, rfl, rfl, rfl, rfl, rfl, rfl, rfl, rfl, rfl, fun c => ?_, fun i => ?_, rfl, rfl, rfl, rfl, rfl, rfl⟩
    · fin_cases c <;> rfl
    · fin_cases i <;> rfl
  case alwaysOn =>
    intro s
    obtain ⟨f, cut, kept⟩ := wrapCut_form s
    refine ⟨_, exec_alwaysOnResetAssert s, ?_⟩
    rw [alwaysOnAssert, cut]
    refine ⟨rfl, rfl, rfl, rfl, rfl, rfl, rfl, rfl, kept, fun c => ?_⟩
    fin_cases c <;> rfl
  case warmPin =>
    intro s up
    refine ⟨_, onlyIf_of_true (by simp [up]), ?_⟩
    rw [warmReset_up up, warmBegin]
    obtain ⟨r, t, p, q, role, lease, slrx, kept, fenced⟩ := warmRole_form s
    rw [role]
    generalize struck : warmStrike _ = u
    obtain ⟨⟨kRole, kLog, kFuses, kPamap, kTime, kRst, -⟩, cores, chains, ev, kLease, kSlrx, rings, scrub, repair⟩ := strike_facts _ u struck.symm
    refine ⟨rfl, rfl, rfl, (congrArg (fun r : ResetClk => satInc r.warmCnt) kRst :), fun h => kRole.trans (kept h), fun h => kRole.trans (fenced h), cores, chains, ev,
      kLease.trans lease, kSlrx.trans slrx, rings, scrub, repair, rfl, kPamap, kTime, (congrArg Fuses.lc kFuses :), kLog⟩
  case rstctl =>
    intro who s served
    have none0 : fours.foldl (fun s c => if (0 : BitVec 4).getLsbD c.val then coreResetOne c s else s) s = s := by simp [fours]
    have write := writeRstctl_eq 0 s.rst.run true s
    rw [none0, writeRun_same] at write
    show regCmd who 0x20000 (0x100 + s.rst.run.toNat * 16) s = _
    rw [exec_rstctl served, show 0x100 + s.rst.run.toNat * 16 = (0 : BitVec 4).toNat + s.rst.run.toNat * 16 + b2n true * 0x100 by simp [b2n]; omega,
      write, if_pos rfl]
  case weado => exact fun s on => onlyIf_of_true (by simpa using on)
  case release =>
    intro s warm
    refine ⟨fun noWipe never => ?_, _, exec_warmResetRelease warm, ?_, ?_, fun pending runs never => ?_⟩
    · have dry : (s.vs.wipePending && clockOn s .vclk) = false := by rcases noWipe with h | h <;> simp [h]
      rw [exec_warmResetRelease warm, dry, if_neg (by decide), bootAgain_none (s := atRelease s) never]
      rfl
    · rw [(bootAgain_keeps _).1]; split <;> rfl
    · rw [(bootAgain_keeps _).2]; split <;> rfl
    · rw [pending, runs, Bool.and_self, if_pos rfl, bootAgain_none (s := wipeNow (atRelease s)) never]
      refine ⟨rfl, fun p row inBank inRow => ?_⟩
      rw [wipeNow_word _ inBank inRow, wipeNow_err _ inBank inRow]
      split <;> exact ⟨rfl, rfl⟩
  case coreReset =>
    intro who mask run s served
    have write := writeRstctl_eq mask run false s
    rw [show mask.toNat + run.toNat * 16 + b2n false * 0x100 = mask.toNat + run.toNat * 16 by simp [b2n]] at write
    show regCmd who 0x20000 (mask.toNat + run.toNat * 16) s = _
    rw [exec_rstctl served, write]
    rfl
  case oneCore =>
    intro c s t
    obtain ⟨e, p, r, form, cleared⟩ := coreResetOne_form c s
    obtain ⟨-, others, ⟨⟨dbg, fresh⟩, events⟩, -⟩ := cleared_clearCore c s
    have core (d : CoreId) : t.core d = (clearCore c s).cores.get d := (congrArg (fun u : State => u.core d) form :)
    rw [core c, fresh]
    refine ⟨rfl, rfl, rfl, rfl, rfl, rfl, rfl, (congrArg (fun u : State => u.evc.get c) form :).trans events, ?_, fun d other => ?_⟩
    · rw [show t.rst.run = _ from (congrArg (fun u : State => u.rst.run) form :).trans cleared, run_bit_cleared]
    · rw [core d]
      exact ⟨(others d other).1, (congrArg (fun u : State => u.evc.get d) form :).trans (others d other).2⟩
  case debug =>
    intro src s on
    obtain ⟨level, freeze, sel, sam, tr⟩ := debugReset_regs s
    refine ⟨debugReset s, onlyIf_of_true (by simpa using on), level, freeze, sel, sam, tr, fun c halted => ?_, fun c atHalt st held => ?_⟩
    · obtain ⟨x, d, -, form⟩ := debugReset_core s c
      rw [form] at halted ⊢
      by_cases atHalt : s.auth.level = 2
      · rw [if_pos atHalt] at halted ⊢
        exact .inl (resumeCore_halted halted)
      · exact .inr atHalt
    · obtain ⟨x, d, same, form⟩ := debugReset_core s c
      rw [form, if_pos atHalt, ← same]
      exact (resume_same c x).2.2 (by rw [same, st]) (by rw [same, held])

end Sys2Proof.Proofs
end

section
/-! SUPPORT. Role requests, the entry to FENCED, the role reset and leases (R18 to R23, R426, R427, R436, R438, R471). -/

namespace Sys2Proof.Proofs

open Sys2Proof.Machine Sys2Proof.Claims Sys2Proof.Laws

/-! ## What the engine, the rings, the DMA channels and arrivals leave alone -/

/-- The part of the tile that neither a chain's end, nor the ring engine, nor a DMA channel, nor an arrival changes: role and troupe, the order
of the issue queues, the fuses, the bank arrays, the commands that wait, and the words sent on the pair link. -/
def roleSide (s : State) : TileRole × Troupe × Quad (List (Fin 8)) × Fuses × Memory × List Instr × List PairWord :=
  (s.role, s.troupe, s.iq, s.fuses, s.vs.mem, s.pending, s.pair.tx)

@[simp] theorem roleSide_arrive (n : Nat) (s : State) : roleSide (arrive n s) = roleSide s := by
  obtain ⟨ev, cores, pwr, form⟩ := arrive_form n s
  rw [form]; rfl

@[simp] theorem roleSide_logRecord (kind unit : Nat) (addr : BitVec 52) (detail : W64) (mchk : Bool) (s : State) :
    roleSide (logRecord kind unit addr detail mchk s) = roleSide s := by
  obtain ⟨l, logged⟩ := logRecord_form kind unit addr detail mchk s
  rw [logged]
  split
  · exact roleSide_arrive _ _
  · rfl

@[simp] theorem roleSide_withCore (c : CoreId) (f : Core → Core) (s : State) : roleSide (withCore c f s) = roleSide s := rfl
@[simp] theorem roleSide_setEng (e : Engine) (s : State) : roleSide (setEng e s) = roleSide s := rfl
@[simp] theorem roleSide_setChain (i : Fin 4) (ch : Chain) (s : State) : roleSide (setChain i ch s) = roleSide s := rfl
@[simp] theorem roleSide_clearFault (i : Fin 4) (s : State) : roleSide (clearFault i s) = roleSide s := rfl
@[simp] theorem roleSide_setEntry (c : CoreId) (e : Fin 8) (q : QEntry) (s : State) : roleSide (setEntry c e q s) = roleSide s := rfl
@[simp] theorem roleSide_setChan (ch : Fin 64) (k : Chan) (s : State) : roleSide (setChan ch k s) = roleSide s := rfl
@[simp] theorem roleSide_withRings (f : Rings → Rings) (s : State) : roleSide (withRings f s) = roleSide s := rfl

/-! ### Chains -/

@[simp] theorem roleSide_tracePacket (kind src : Nat) (payload : List Byte) (s : State) : roleSide (tracePacket kind src payload s) = roleSide s := by
  obtain ⟨w, traced⟩ := trace_cores kind src payload s
  rw [traced]; rfl

@[simp] theorem roleSide_deliverStatus (c : CoreId) (e : Fin 8) (r : StatusRec) (final : Bool) (s : State) :
    roleSide (deliverStatus c e r final s) = roleSide s := by
  unfold deliverStatus
  dsimp only
  split_ifs <;> rfl

theorem roleSide_finishChain (i : Fin 4) (state : Nat) (cause : BitVec 8) (vorx : Nat) (s : State) :
    roleSide (finishChain i state cause vorx s) = roleSide s := by
  unfold finishChain
  split
  · rfl
  · dsimp only
    split
    · rfl
    · rw [traceChdone, roleSide_tracePacket, roleSide_arrive, roleSide_deliverStatus]; rfl

theorem roleSide_failChain (i : Fin 4) (cause : BitVec 8) (vorx : Nat) (pa : BitVec 52) (logIt : Bool) (s : State) :
    roleSide (failChain i cause vorx pa logIt s) = roleSide s := by
  unfold failChain
  split
  · rfl
  split
  · rfl
  · dsimp only
    split <;> simp

theorem roleSide_tryEnd (i : Fin 4) (s : State) : roleSide (tryEnd i s) = roleSide s := by
  unfold tryEnd
  split
  · rfl
  split
  · split
    · rfl
    · exact roleSide_finishChain _ _ _ _ _
  · rfl

theorem roleSide_fenceChains (s : State) : roleSide (fenceChains s) = roleSide s := by
  unfold fenceChains
  refine foldl_field roleSide (fun s i => ?_) fours s
  split
  · rw [roleSide_tryEnd, roleSide_failChain]
  · rfl

/-! ### DMA channels and store buffers -/

theorem roleSide_dmaSettle (ch : Fin 64) (s : State) : roleSide (dmaSettle ch s) = roleSide s := by
  unfold dmaSettle
  dsimp only
  split
  · rfl
  split <;> split <;> simp

theorem roleSide_dmaFence (s : State) : roleSide (dmaFence s) = roleSide s := by
  unfold dmaFence
  refine foldl_field roleSide (fun s ch => ?_) allChans s
  dsimp only
  split
  · split
    · rw [dmaFail, roleSide_dmaSettle]; rfl
    · rfl
  · rfl

theorem roleSide_lateError (c : CoreId) (pa : BitVec 52) (wb : Bool) (s : State) : roleSide (lateError c pa wb s) = roleSide s := by
  simp [lateError]

theorem roleSide_discardStores (c : CoreId) (s : State) : roleSide (discardStores c s) = roleSide s := by
  unfold discardStores
  exact foldl_field roleSide (fun s e => roleSide_lateError c _ false s) _ _

/-! ### The ring engine -/

theorem roleSide_ringStop (s : State) : roleSide (ringStop s) = roleSide s := rfl

theorem roleSide_issueArm (i : Nat) (s : State) : roleSide (issueArm i s) = roleSide s := by
  unfold issueArm
  dsimp only
  split_ifs
  · rfl
  · rfl
  · split
    · simp [watchError, setEntryW]
    · rfl

theorem roleSide_pumpWatch (n : Nat) (s : State) : roleSide (pumpWatch n s) = roleSide s := by
  induction n generalizing s with
  | zero => rfl
  | succ n ih =>
    unfold pumpWatch
    split
    · rfl
    split
    · rfl
    · rw [ih, roleSide_issueArm, roleSide_withRings]

theorem roleSide_ringStart (s : State) : roleSide (ringStart s) = roleSide s := by
  unfold ringStart armAll
  dsimp only
  split
  · split
    · rfl
    · rw [pumpRings, roleSide_pumpWatch, roleSide_withRings]
  · rfl

/-! ## Entry to FENCED (R427) -/

/-- Role and lease as an entry to FENCED sets them, before it reaches the rest of the tile. -/
def fencedHere (freason : BitVec 4) (s : State) : State :=
  dropClaim (withTroupe (fun t => { t with leaseEnd := none, releasing := false }) (setRole { s.role with role := .fenced, slot := 0, freason := freason } s))

theorem roleSide_fencedHere (freason : BitVec 4) (s : State) : roleSide (fencedHere freason s) =
    ({ s.role with role := .fenced, slot := 0, freason := freason }, { s.troupe with leaseEnd := none, releasing := false, claim := .no },
      s.iq, s.fuses, s.vs.mem, s.pending, s.pair.tx) := by
  unfold fencedHere dropClaim
  dsimp only
  split <;> rfl

/-- What an entry to FENCED does past role and lease touches none of `roleSide`, but for the word to the partner (R23). -/
theorem enterFenced_form (freason : BitVec 4) (relay : Bool) {s : State} (h : s.role.role ≠ .fenced) :
    ∃ t, roleSide t = roleSide (fencedHere freason s) ∧ enterFenced freason relay s = if relay then sendPair (.enteredFenced freason) t else t := by
  unfold enterFenced
  rw [if_neg h]
  refine ⟨_, ?_, rfl⟩
  rw [roleSide_arrive, foldl_field roleSide (fun s c => roleSide_discardStores c s), roleSide_dmaFence, roleSide_fenceChains]
  split
  · rw [roleSide_ringStop]; rfl
  · rfl

theorem roleSide_sendPair (w : PairWord) (s : State) : roleSide (sendPair w s) =
    (s.role, s.troupe, s.iq, s.fuses, s.vs.mem, s.pending, if s.role.fused then s.pair.tx ++ [w] else s.pair.tx) := by
  unfold sendPair
  split <;> rfl

/-- R23, R427: role, lease and slot as FENCED has them, and the partner of a fused pair told where `relay` holds. -/
theorem roleSide_enterFenced (freason : BitVec 4) (relay : Bool) {s : State} (h : s.role.role ≠ .fenced) :
    roleSide (enterFenced freason relay s) =
      ({ s.role with role := .fenced, slot := 0, freason := freason }, { s.troupe with leaseEnd := none, releasing := false, claim := .no },
        s.iq, s.fuses, s.vs.mem, s.pending, if relay && s.role.fused then s.pair.tx ++ [.enteredFenced freason] else s.pair.tx) := by
  obtain ⟨t, same, form⟩ := enterFenced_form freason relay h
  rw [roleSide_fencedHere] at same
  rw [form]
  cases relay
  · exact same
  · rw [if_pos rfl, roleSide_sendPair]
    simp only [roleSide, Prod.mk.injEq] at same
    simp only [same, Bool.true_and]

theorem enterFenced_fencedAs (freason : BitVec 4) (relay : Bool) {s : State} (h : s.role.role ≠ .fenced) :
    fencedAs freason relay s (enterFenced freason relay s) := by
  have side := roleSide_enterFenced freason relay h
  simp only [roleSide, Prod.mk.injEq] at side
  obtain ⟨role, troupe, iq, fuses, mem, pending, tx⟩ := side
  unfold fencedAs
  rw [troupe]
  exact ⟨role, rfl, rfl, rfl, rfl, rfl, iq, fuses, mem, pending, tx⟩

/-! ## Writes of TILEROLE -/

theorem exec_tilerole {who : Requester} {v : Nat} {s : State} (served : mayAccess who 2 0x10000 s = true) :
    regCmd who 0x10000 v s = .next (written who (writeTilerole (BitVec.ofNat 64 v) s)) :=
  regCmd_ok served (by decide) (by decide) (by simp [samFreeWrite])

theorem exec_reqroleManager {who : Requester} {s : State} (served : mayAccess who 2 0x10000 s = true) :
    exec (.reqroleManager who) s = .next (written who (reqManager s)) := exec_tilerole served

theorem exec_reqroleSpare {who : Requester} {s : State} (served : mayAccess who 2 0x10000 s = true) :
    exec (.reqroleSpare who) s = .next (written who (reqSpare s)) := exec_tilerole served

theorem exec_reqroleFenced {who : Requester} {s : State} (served : mayAccess who 2 0x10000 s = true) :
    exec (.reqroleFenced who) s = .next (written who (reqFenced s)) := exec_tilerole served

/-- R22: while the hold-up flush runs, a request does nothing. -/
theorem requests_held {s : State} (flush : s.pwr.flush.isSome = true) : reqManager s = s ∧ reqSpare s = s ∧ reqFenced s = s :=
  ⟨if_pos flush, if_pos flush, if_pos flush⟩

/-! ## MANAGER (R19, R436) -/

theorem roleSide_becomeManager (s : State) : roleSide (becomeManager s) =
    ({ s.role with role := .manager, slot := 0, epoch := s.troupe.mepoch },
      { s.troupe with mnode := s.troupe.node, dvalid := false, solo := true, leaseEnd := none, nextRound := s.troupe.now + 8000, rounds := [] },
      s.iq, s.fuses, s.vs.mem, s.pending, s.pair.tx) := by
  rw [becomeManager, roleSide_ringStart, roleSide_arrive]
  rfl

theorem reqManager_eq {s : State} (noFlush : s.pwr.flush = none) : reqManager s =
    if s.role.role = .spare ∧ s.role.fused = false ∧ s.fuses.now ≠ 5 then becomeManager s else roleError s := by
  simp [reqManager, roleHeld, noFlush, and_assoc]

theorem reqSpare_eq {s : State} (noFlush : s.pwr.flush = none) : reqSpare s =
    if s.role.role = .fenced ∧ s.fuses.now ≠ 5 then setRole { s.role with resetting := true } (sendPair .roleReset s) else roleError s := by
  simp [reqSpare, roleHeld, noFlush]

theorem reqFenced_eq {s : State} (noFlush : s.pwr.flush = none) : reqFenced s =
    if s.role.role ≠ .fenced ∧ s.fuses.now ≠ 5 then enterFenced 3 true s else roleError s := by
  by_cases fenced : s.role.role = .fenced <;> by_cases ended : s.fuses.now = 5 <;> simp [reqFenced, roleHeld, noFlush, fenced, ended]

/-! ## The role reset (R468, R471) -/

theorem roleReset_form (s : State) : ∃ rings ports ev cores pwr, roleReset s = { s with
    role := { s.role with role := .spare, slot := 0, epoch := 0, resetting := false }
    troupe := { s.troupe with
      mepoch := 0, mnode := 0, dnode := 0, dvalid := false, solo := false, dgen := 0, slots := [], leaseEnd := none, slrx := [],
      rounds := [], busy := .no, lastSlot := 0, groups := [] }
    rings := rings, ports := ports, ev := ev, cores := cores, pwr := pwr } ∧ rings.en = false := by
  unfold roleReset
  dsimp only
  generalize fresh : withTroupe _ (setRole _ s) = s1
  obtain ⟨ev, cores, pwr, form⟩ := arrive_form srcRoleChange (ringReset s1)
  rw [form, ← fresh]
  exact ⟨_, _, ev, cores, pwr, rfl, rfl⟩

theorem exec_roleResetDone {s : State} (resetting : s.role.resetting = true) (fenced : s.role.role = .fenced) (up : upRuns s = true)
    (noChain : anyChain s = false) (noneDue : responsesDue s = false) (part : partAllowed s = true) :
    exec .roleResetDone s = .next (partDone roleReset s) :=
  onlyIf_of_true (by simp [resetting, fenced, up, noChain, noneDue, part])

/-! ## Leases (R426, R438) -/

theorem leaseOver_of {s : State} {e : Nat} (lease : s.troupe.leaseEnd = some e) (past : e ≤ s.troupe.now) : leaseOver s = true := by
  rw [leaseOver, lease]
  exact decide_eq_true past

theorem exec_leaseExpiry {s : State} (hub : hubListens s = true) (held : s.role.role = .worker ∨ s.role.role = .deputy) (out : leaseOver s = true) :
    exec .leaseExpiry s = .next (enterFenced 1 true s) :=
  onlyIf_of_true (by rcases held with h | h <;> simp [hubTimes, hub, out, h])

theorem exec_managerLeaseExpiry {s : State} (hub : hubListens s = true) (manager : s.role.role = .manager) (deputy : s.troupe.solo = false)
    (out : leaseOver s = true) : exec .managerLeaseExpiry s = .next (enterFenced 1 true s) :=
  onlyIf_of_true (by simp [hubTimes, hub, out, manager, deputy])

/-- Settles O36: each request is the equation of its REQROLE value, an entry to FENCED is `enterFenced_fencedAs`, and the role reset is
`roleReset_form`. -/
theorem roleRequests : Obligations.RoleRequests := by
  unfold Obligations.RoleRequests
  refine ⟨fun who s served => ⟨fun flush => ?held, fun noFlush => ⟨?manager, ?spare, ?fenced⟩⟩,
    fun s resetting fenced up noChain noneDue => ⟨fun odd early => ?oddPart, fun even heard => ?wholeReset⟩,
    fun s e hub lease past => ⟨fun held => ?lease, fun manager deputy => ?managerLease⟩⟩
  case held =>
    obtain ⟨m, sp, f⟩ := requests_held flush
    rw [exec_reqroleManager served, exec_reqroleSpare served, exec_reqroleFenced served, m, sp, f]
    exact ⟨rfl, rfl, rfl⟩
  case manager =>
    rw [exec_reqroleManager served, reqManager_eq noFlush]
    split
    · have side := roleSide_becomeManager s
      simp only [roleSide, Prod.mk.injEq] at side
      obtain ⟨role, troupe, -⟩ := side
      exact ⟨_, rfl, role, by rw [troupe], by rw [troupe], by rw [troupe], by rw [troupe], by rw [troupe], by rw [troupe]⟩
    · rfl
  case spare =>
    rw [exec_reqroleSpare served, reqSpare_eq noFlush]
    split
    · rw [sendPair]
      cases s.role.fused <;> rfl
    · rfl
  case fenced =>
    rw [exec_reqroleFenced served, reqFenced_eq noFlush]
    split
    case isTrue may => exact ⟨_, rfl, enterFenced_fencedAs 3 true may.1⟩
    case isFalse => rfl
  case oddPart =>
    have fused : s.role.fused = true := by rw [oddFused, Bool.and_eq_true] at odd; exact odd.1
    rw [exec_roleResetDone resetting fenced up noChain noneDue (by simp [partAllowed, odd, early]), partDone, if_pos odd]
    rfl
  case wholeReset =>
    have part : partAllowed s = true := by
      cases fused : s.role.fused
      · simp [partAllowed, fused]
      · simp [partAllowed, even, heard fused]
    obtain ⟨rings, ports, ev, cores, pwr, form, off⟩ := roleReset_form s
    refine ⟨_, exec_roleResetDone resetting fenced up noChain noneDue part, ?_⟩
    rw [partDone, if_neg (by rw [even]; decide), form]
    cases s.role.fused <;>
      exact ⟨rfl, rfl, rfl, rfl, rfl, rfl, rfl, rfl, rfl, rfl, rfl, rfl, rfl, off, rfl, rfl, rfl, rfl, rfl⟩
  case lease =>
    refine ⟨_, exec_leaseExpiry hub held (leaseOver_of lease past), enterFenced_fencedAs 1 true ?_⟩
    rcases held with h | h <;> rw [h] <;> decide
  case managerLease =>
    exact ⟨_, exec_managerLeaseExpiry hub manager deputy (leaseOver_of lease past), enterFenced_fencedAs 1 true (by rw [manager]; decide)⟩

end Sys2Proof.Proofs
end

section
/-! SUPPORT. What becomes of a message of the string link, whatever its type (R22, R422 to R424, R430, R431). -/

namespace Sys2Proof.Proofs

open Sys2Proof.Machine Sys2Proof.Claims Sys2Proof.Laws

/-! ## What a message command is -/

theorem messageCmd_of_type {type : BitVec 8} {m : Msg} (h : m.type.toNat = type.toNat) (handle : State → State) (s : State) :
    messageCmd type m handle s = .next (receive m handle s) :=
  onlyIf_of_true (by simp [BitVec.eq_of_toNat_eq h])

theorem exec_firmwareMessage {m : Msg} (low : 0x20 ≤ m.type.toNat) (high : m.type.toNat ≤ 0x3F) (s : State) :
    exec (.firmwareMessage m) s = .next (receive m (queueMsg m) s) :=
  onlyIf_of_true (by simp [low, high])

/-- R22, R424: every message, whatever its type, is received in the state in which a timer that has run out by then has fired. -/
theorem exec_message {r : (Msg → Instr) × Nat} (row : r ∈ messageRows) {m : Msg} (type : m.type.toNat = r.2) (s : State) :
    ∃ handle, exec (r.1 m) s = .next (receive m handle (met r.2 m s)) := by
  rw [messageRows, List.mem_append] at row
  rcases row with row | row
  · simp only [List.mem_cons, List.not_mem_nil, or_false] at row
    rcases row with rfl | rfl | rfl | rfl | rfl | rfl | rfl | rfl | rfl | rfl | rfl | rfl | rfl | rfl | rfl <;> exact ⟨_, messageCmd_of_type type _ _⟩
  · obtain ⟨i, hi, rfl⟩ := List.mem_map.1 row
    have lt := List.mem_range.1 hi
    dsimp only at type ⊢
    rw [met, if_neg (by omega), if_neg (by omega)]
    exact ⟨_, exec_firmwareMessage (by omega) (by omega) s⟩

/-! ## The timers that come first -/

theorem hubListens_arrive (n : Nat) (s : State) : hubListens (arrive n s) = hubListens s := by
  unfold arrive takeArrival
  dsimp only
  split
  · rfl
  split
  · rfl
  split <;> rfl

theorem hubListens_timeoutNow (s : State) : hubListens (timeoutNow s) = hubListens s := by
  unfold timeoutNow
  split
  · unfold admitTimedOut
    dsimp only
    split <;> rfl
  · rfl

/-- R433, R437, R452: the timers of a message are the hub's, and it hears on as before. -/
theorem hubListens_met (type : Nat) (m : Msg) (s : State) : hubListens (met type m s) = hubListens s := by
  unfold met
  split
  · have dead : deadFirst m.slot s = slotDies m.slot s ∨ deadFirst m.slot s = s := ite_eq_or_eq _ _ _
    rcases dead with h | h <;> rw [h]
    exact hubListens_arrive _ _
  split
  · have late : lateFirst timeoutNow s = timeoutNow s ∨ lateFirst timeoutNow s = s := ite_eq_or_eq _ _ _
    rcases late with h | h <;> rw [h]
    exact hubListens_timeoutNow s
  · rfl

theorem met_deaf {type : Nat} {m : Msg} {s : State} (deaf : hubListens s = false) : met type m s = s := by
  simp [met, deadFirst, lateFirst, deaf]

/-! ## Which types a role accepts -/

theorem mem_messages {n t : Nat} : t ∈ (List.range n).map (fun i => 0x20 + i) ↔ 0x20 ≤ t ∧ t < 0x20 + n := by
  rw [List.mem_map]
  constructor
  · rintro ⟨i, hi, rfl⟩
    have := List.mem_range.1 hi
    omega
  · exact fun ⟨low, high⟩ => ⟨t - 0x20, List.mem_range.2 (by omega), by omega⟩

theorem typeAccepted_iff (r : Role) (t : Nat) : typeAccepted r t = true ↔ t ∈ acceptedTypes r := by
  cases r <;> simp only [typeAccepted, acceptedTypes, List.mem_append, mem_messages, List.mem_cons, List.not_mem_nil] <;> grind

theorem typeListed_of_accepted {r : Role} {t : Nat} (h : typeAccepted r t = true) : typeListed t = true := by
  cases r <;> simp [typeAccepted, typeListed] at h ⊢ <;> omega

/-! ## The receiver's checks -/

theorem msgFate_bad {m : Msg} {s : State} (h : m.dst ≠ s.troupe.node ∨ typeAccepted s.role.role m.type.toNat = false) : msgFate s m = .bad :=
  if_pos (by rcases h with h | h <;> simp [h])

theorem receive_deaf {m : Msg} {handle : State → State} {s : State} (h : hubListens s = false ∨ oddFused s = true) : receive m handle s = s :=
  if_pos (by rcases h with h | h <;> simp [h])

section
variable {m : Msg} {handle : State → State} {s : State} (hub : hubListens s = true) (even : oddFused s = false)
include hub even

theorem receive_bad (fate : msgFate s m = .bad) : receive m handle s = countBad s := by
  simp [receive, hub, even, fate]

theorem receive_stale (fate : msgFate s m = .stale) : receive m handle s =
    if s.role.role = .manager then replyFenced m (countStale s) else countStale s := by
  simp [receive, hub, even, fate]

theorem receive_held (fate : msgFate s m = .accepted) (flush : s.pwr.flush.isSome = true) (role : roleMessage m = true) : receive m handle s = s := by
  simp [receive, hub, even, fate, roleHeld, flush, role]

end

/-- R430: the manager's answer, unless it has answered the node within 8 µs. -/
theorem replyFenced_eq (m : Msg) (s : State) : replyFenced m s =
    let quiet : Bool := match Tab.find s.troupe.fencedAt m.src.toNat with
      | some x => decide (s.troupe.now < x + 8000)
      | none => false
    if quiet then s else sendMsg (hubMsg s 0x10 m.src m.slot m.epoch 0 0 0 0 0)
      (withTroupe (fun t => { t with fencedAt := Tab.insert t.fencedAt m.src.toNat t.now }) s) := by
  unfold replyFenced
  dsimp only
  cases Tab.find s.troupe.fencedAt m.src.toNat with
  | none => rfl
  | some x =>
    by_cases due : x + 8000 ≤ s.troupe.now
    · simp [due]
    · simp [due, Nat.lt_of_not_le due]

section
variable {m : Msg} {s : State} (here : m.dst = s.troupe.node) (accepted : m.type.toNat ∈ acceptedTypes s.role.role)
include here accepted

/-- R424, R431: what the checks of its term make of a message for this node and of a type that the role accepts. -/
theorem msgFate_eq : msgFate s m = match s.role.role with
    | .spare => .accepted
    | .fenced => .bad
    | .manager => managerFate s m
    | .worker =>
      if m.src = s.troupe.mnode ∧ (m.type = 0x10 ∨ m.mepoch = s.troupe.mepoch) ∧ m.slot = s.role.slot ∧ m.epoch = s.role.epoch then .accepted
      else .stale
    | .deputy =>
      if m.src = s.troupe.mnode ∧ (if m.type = 0x10 then m.slot = 0 else m.mepoch = s.troupe.mepoch) ∧ m.epoch = s.troupe.mepoch then .accepted
      else .stale := by
  have reached : ¬(m.dst != s.troupe.node || !typeAccepted s.role.role m.type.toNat) = true := by
    simp [here, (typeAccepted_iff _ _).2 accepted]
  have isFenced : m.type.toNat = 0x10 ↔ m.type = 0x10 := by rw [← BitVec.toNat_inj]; rfl
  unfold msgFate
  dsimp only
  rw [if_neg reached]
  cases s.role.role <;> by_cases fenced : m.type = 16#8 <;> simp [isFenced, fenced, and_assoc]

end

/-- R430: what the manager checks of a message that is none of the deputy's: the term, and a slot that is LIVE, or ADMITTING for ADMITACK. -/
theorem managerFate_slot {m : Msg} {s : State} (other : fromDeputy s m = false)
    (type : m.type = 0x02 ∨ m.type = 0x0B ∨ m.type = 0x0F ∨ m.type = 0x11) : managerFate s m = .accepted ↔
      m.mepoch = s.troupe.mepoch ∧ m.epoch = (s.slotOf m.slot).epoch ∧ (s.slotOf m.slot).st = if m.type = 0x0B then .admitting else .live := by
  rcases type with h | h | h | h <;> simp [managerFate, h, other, and_assoc]

theorem managerFate_decides (s : State) (m : Msg) : managerFate s m = .accepted ∨ managerFate s m = .stale := by
  unfold managerFate
  dsimp only
  split
  · exact .inl rfl
  split
  · split
    · exact ite_eq_or_eq _ _ _
    · exact .inr rfl
  split
  · exact ite_eq_or_eq _ _ _
  split <;> exact ite_eq_or_eq _ _ _

theorem fromDeputy_false {m : Msg} {s : State} (h : s.troupe.dvalid = false ∨ m.src ≠ s.troupe.dnode) : fromDeputy s m = false := by
  rcases h with h | h <;> simp [fromDeputy, h]

/-- Settles O37: every message command is one `receive`, whose branches are `receive_bad`, `receive_stale` and `receive_held`; the fate of a
message that is none of those is `msgFate_eq`. -/
theorem messagesAreCheckedFirst : Obligations.MessagesAreCheckedFirst := by
  unfold Obligations.MessagesAreCheckedFirst
  refine ⟨fun r row m s0 type => ?message, fun m s hub even h => ?reserved, fun m s here accepted => ?checks, fun m s free even => ?sends⟩
  case message =>
    obtain ⟨handle, received⟩ := exec_message row type s0
    refine ⟨fun deaf => ?_, ?_⟩
    · rw [received, met_deaf deaf, receive_deaf (.inl deaf)]
    intro s
    rw [received]
    rw [← hubListens_met r.2 m s0]
    refine ⟨fun odd => ?_, fun hub even h => ?_, fun hub even fate other => ?_, fun hub even fate manager => ?_, fun hub even fate flush role => ?_⟩
    · rw [receive_deaf (.inr odd)]
    · rw [receive_bad hub even (msgFate_bad ?_)]
      · rfl
      · rw [type, ← Bool.not_eq_true, typeAccepted_iff]; exact h
    · rw [receive_stale hub even fate, if_neg other]; rfl
    · rw [receive_stale hub even fate, if_pos manager, replyFenced_eq]; rfl
    · rw [receive_held hub even fate flush role]
  case reserved =>
    have unlisted : m.dst ≠ s.troupe.node ∨ typeAccepted s.role.role m.type.toNat = false :=
      h.imp_right fun no => Bool.eq_false_iff.2 fun yes => absurd (typeListed_of_accepted yes) (by rw [no]; decide)
    have received : exec (.reservedMessage m) s = .next (receive m (fun s => s) s) := onlyIf_of_true (by rcases h with h | h <;> simp [h])
    rw [received, receive_bad hub even (msgFate_bad unlisted)]
    rfl
  case checks =>
    have fate := msgFate_eq here accepted
    refine ⟨fun spare => ?_, fun worker other => ?_, fun worker fenced => ?_, fun manager probe => ?_, fun manager type other => ?_,
      fun manager type other => ?_, ?_⟩
    · rw [fate, spare]
    · rw [fate, worker]; simp [show ¬m.type = 16#8 from other]
    · rw [fate, worker]; simp [fenced]
    · rw [fate, manager]; simp [managerFate, probe]
    · rw [fate, manager]
      have notAck : m.type ≠ 0x0B := by rcases type with h | h | h <;> rw [h] <;> decide
      exact (managerFate_slot (fromDeputy_false other) (by tauto)).trans (by rw [if_neg notAck])
    · rw [fate, manager]
      exact (managerFate_slot (fromDeputy_false other) (by tauto)).trans (by rw [if_pos type])
    · cases role : s.role.role with
      | spare => rw [fate, role]; exact .inl rfl
      | fenced => rw [role] at accepted; cases accepted
      | manager => rw [fate, role]; exact managerFate_decides s m
      | worker => rw [fate, role]; exact ite_eq_or_eq _ _ _
      | deputy => rw [fate, role]; exact ite_eq_or_eq _ _ _
  case sends =>
    refine if_neg ?_
    have notOdd : oddFused s = false := by
      rcases even with h | h
      · simp [oddFused, h]
      · simp [oddFused, show ¬s.id.pairpos = 2#2 from h]
    simp [free, notOdd]

end Sys2Proof.Proofs
end

section
/-! SUPPORT. Macaron pairs: fusing, unfusing and the words of the pair link (R23, R113, R185, R444, R445, R449, R450, R472, R476, R487). -/

namespace Sys2Proof.Proofs

open Sys2Proof.Machine Sys2Proof.Claims Sys2Proof.Laws

/-! ## PAIRCTL (R444, R450) -/

theorem exec_pairctlFuse {who : Requester} {s : State} (served : mayAccess who 2 0xD0100 s = true) :
    exec (.pairctlFuse who) s = .next (written who (fuseRequest s)) :=
  regCmd_ok served (by decide) (by decide) (by simp [samFreeWrite])

/-- A write of the set-up window that its requester may make answers OKAY. -/
theorem windowCmd_okay {who : Requester} {off level : Nat} {act : State → State} {s : State} (served : mayAccess who level off s = true) :
    windowCmd who level false (fun s => if windowRefused who off s then (.etgt, 0, s) else (.okay, 0, act s)) s = .next (written who (act s)) := by
  unfold mayAccess at served
  rw [Bool.and_eq_true, Bool.not_eq_true'] at served
  obtain ⟨free, may⟩ := served
  unfold windowCmd
  cases who with
  | core c =>
    dsimp only at may ⊢
    rw [if_pos may, free]
    rfl
  | weado =>
    simp only [Bool.and_eq_true, Bool.not_eq_true', decide_eq_true_eq] at may
    obtain ⟨idle, level⟩ := may
    dsimp only
    rw [idle, if_neg (by decide), if_neg (Nat.not_lt.2 level), free]
    rfl
  | host =>
    dsimp only
    rw [free]
    rfl

theorem exec_pairctlUnfuse {who : Requester} {s : State} (served : mayAccess who 2 0xD0100 s = true) (partnerIdle : Bool) :
    exec (.pairctlUnfuse who partnerIdle) s = .next (written who (unfuseRequest partnerIdle s)) :=
  windowCmd_okay served

theorem fuseRequest_eq {s : State} (idle : s.pair.busy = false) (unfused : s.role.fused = false) :
    let fails (e : BitVec 4) : State := { s with pair := { s.pair with err := e } }
    fuseRequest s =
      if s.id.pairpos = 0 then fails 1
      else if s.role.role ≠ .spare then fails 2
      else if s.vs.wipePending = true then fails 6
      else if pairIdle s = false ∨ s.vs.baseEn = true then fails 3
      else { s with pair := { s.pair with busy := true, until_ := s.troupe.now + 100000 } } := by
  have error : fuseError s = if s.id.pairpos = 0 then some 1 else if s.role.role ≠ .spare then some 2 else if s.vs.wipePending = true then some 6
      else if pairIdle s = false ∨ s.vs.baseEn = true then some 3 else none := by simp [fuseError]
  rw [fuseRequest, if_neg (by simp [idle, unfused]), error]
  split_ifs <;> rfl

/-- A write of the set-up window has been served and has its answer. -/
def answered (who : Requester) (u : State) : Host.Outcome State Fault Refusal := .next (written who u)

/-- A command's outcome that turns on a condition, told case by case. -/
theorem outcome_cases {α β : Type} (f : α → β) {c : Prop} [Decidable c] {o : β} {a b : α} {P Q : Prop} (h : o = f (if c then a else b))
    (yes : o = f a → P) (no : ¬c → o = f b → Q) : if c then P else Q := by
  split
  case isTrue holds => exact yes (by rw [h, if_pos holds])
  case isFalse fails => exact no fails (by rw [h, if_neg fails])

/-! ## The end of fusing (R23, R444) -/

theorem fuseFinish_eq (p : Partner) (s : State) : let s1 : State := { s with pair := { s.pair with linkup := p.trained } }
    fuseFinish p s =
      if p.trained = false then fuseFail 5 s1
      else if p.pairpos = 0 ∨ p.pairpos = s.id.pairpos then fuseFail 1 s1
      else if p.spare = false ∨ s.role.role ≠ .spare then fuseFail 2 s1
      else if p.wipePending = true ∨ s.vs.wipePending = true then fuseFail 6 s1
      else if p.idle = false ∨ pairIdle s = false ∨ s.vs.baseEn = true then fuseFail 3 s1
      else if p.lifecycle ≠ s.fuses.now then fuseFail 4 s1
      else arrive srcPlEvent { s with
        pair := { s.pair with
          linkup := p.trained, busy := false, failed := false, relay := [], drained := false, farFreeze := false,
          tx := if engFrozenHere s then s.pair.tx ++ [.freeze true] else s.pair.tx }
        role := { s.role with
          fused := true, epoch := if s.id.pairpos = 2 then p.epoch else s.role.epoch,
          freason := if s.id.pairpos = 2 then p.freason else s.role.freason }
        cal := { s.cal with tagPair := false }
        eng := { s.eng with time := if s.id.pairpos = 2 then p.engtime else s.eng.time } } := by
  intro s1
  unfold fuseFinish
  refine if_congr (by simp) rfl (if_congr (by simp) rfl (if_congr (by simp) rfl (if_congr (by simp) rfl (if_congr ?idle rfl
    (if_congr (by simp) rfl ?fused)))))
  case idle =>
    show (!p.idle || !pairIdle s || s.vs.baseEn) = true ↔ _
    simp [or_assoc]
  case fused =>
    by_cases odd : s.id.pairpos = 2
    all_goals
      simp only [odd, if_true, if_false]
      change arrive srcPlEvent (if engFrozenHere s then sendPair (.freeze true) _ else _) = _
      cases engFrozenHere s <;> rfl

theorem exec_fuseComplete {s : State} (p : Partner) (busy : s.pair.busy = true) (up : upRuns s = true) :
    exec (.fuseComplete p) s = .next (fuseFinish p s) := onlyIf_of_true (by simp [busy, up])

theorem exec_fuseTimeout {s : State} (busy : s.pair.busy = true) (up : upRuns s = true) (out : s.pair.until_ ≤ s.troupe.now) :
    exec .fuseTimeout s = .next (fuseFail 1 s) := onlyIf_of_true (by simp [busy, up, out])

/-! ## Words of the pair link -/

theorem exec_pairLinkRequest {s : State} (q : PairReq) (fused : s.role.fused = true) (up : s.pair.linkup = true) (sound : s.pair.failed = false)
    (hub : hubRuns s = true) (trained : s.cal.trPair = false) (vclk : vclkRuns s = true) :
    exec (.pairLinkRequest q) s = .next (pairPresent q s) :=
  onlyIf_of_true (by simp [pairCarries, fused, up, sound, hub, trained, vclk])

theorem pairPresent_eq (q : PairReq) (s : State) : pairPresent q s =
    if 8364032 ≤ q.word.toNat then { s with pair := { s.pair with answers := s.pair.answers ++ [(q.tag, ⟨0, false⟩, true)] } }
    else if q.px = false then present [pairBankReq q] s
    else match s.chain q.slot with
      | some ch =>
        if pairDue s ch q then setVs { s.vs with reqs := mergeByElem q s.vs.reqs } s
        else setPair { s.pair with inbox := s.pair.inbox ++ [q] } s
      | none => present [pairBankReq q] s :=
  if_congr Iff.rfl rfl (if_congr (by simp) rfl rfl)

theorem exec_pairLinkControlWord {s : State} (w : PairWord) (fused : s.role.fused = true) (sound : s.pair.failed = false) :
    exec (.pairLinkControlWord w) s = .next (pairWordEffect w s) := onlyIf_of_true (by simp [fused, sound])

theorem sendPair_fused {w : PairWord} {s : State} (fused : s.role.fused = true) :
    sendPair w s = { s with pair := { s.pair with tx := s.pair.tx ++ [w] } } := if_pos fused

theorem enterFenced_fenced {freason : BitVec 4} {relay : Bool} {s : State} (h : s.role.role = .fenced) : enterFenced freason relay s = s := if_pos h

theorem takeHeartbeat_form (m : Msg) (s : State) : ∃ t, takeHeartbeat m s = { s with troupe := t } := by
  have lease (n : BitVec 16) (u : State) : ∃ t, renewLease n u = { u with troupe := t } := by
    unfold renewLease
    split <;> exact ⟨_, rfl⟩
  unfold takeHeartbeat
  split
  · obtain ⟨t, form⟩ := lease m.ackseq (recordRound m.hbseq s)
    exact ⟨t, form⟩
  · exact ⟨_, rfl⟩
  · exact ⟨_, rfl⟩

/-- R449: a relayed HEARTBEAT renews a worker's lease, and is acknowledged. -/
theorem relayedMsg_heartbeat {m : Msg} {s : State} (type : m.type = 0x01) (worker : s.role.role = .worker) (lease : leaseOver s = false)
    (fused : s.role.fused = true) : relayedMsg m s =
      { takeHeartbeat m s with pair := { s.pair with tx := s.pair.tx ++ [.heartbeatAck m.hbseq] } } := by
  have relayed : relayedMsg m s = sendPair (.heartbeatAck m.hbseq) (takeHeartbeat m s) := by
    simp [relayedMsg, type, worker, lease]
  obtain ⟨t, form⟩ := takeHeartbeat_form m s
  rw [relayed, form]
  exact sendPair_fused fused

theorem relayAcked_awaited {n : BitVec 16} {s : State} (awaited : n ∈ s.pair.relay) (worker : s.role.role = .worker) :
    relayAcked n s = sendMsg (hubMsg s 0x02 s.troupe.mnode s.role.slot s.role.epoch n 0 0 0 0)
      { s with pair := { s.pair with relay := s.pair.relay.erase n } } :=
  if_pos (by simp [awaited, worker])

/-- R472: the partner's cold reset unfuses the pair, and takes a tile that holds a role to FENCED. -/
theorem partnerCold_role (s : State) : (partnerCold s).role = { (if holdsRole s then enterFenced 6 false s else s).role with fused := false } := rfl

theorem partnerCold_holder {s : State} (h : s.role.role = .worker ∨ s.role.role = .deputy ∨ s.role.role = .manager) :
    (partnerCold s).role.role = .fenced ∧ (partnerCold s).role.freason = 6 := by
  have holds : holdsRole s = true := by rcases h with h | h | h <;> simp [holdsRole, h]
  have unfenced : s.role.role ≠ .fenced := by rcases h with h | h | h <;> simp [h]
  rw [partnerCold_role, if_pos holds, (enterFenced_fencedAs 6 false unfenced).1]
  exact ⟨rfl, rfl⟩

theorem partnerCold_idle {s : State} (h : s.role.role = .spare ∨ s.role.role = .fenced) : (partnerCold s).role.role = s.role.role := by
  have none0 : holdsRole s = false := by rcases h with h | h <;> simp [holdsRole, h]
  rw [partnerCold_role, none0]
  rfl

/-- R23: the EVEN tile's word that the pair becomes SPARE ends a release, or a role reset. -/
theorem partnerSpare_worker {s : State} (h : s.role.role = .worker) : (partnerSpare s).role = { s.role with role := .spare, slot := 0 } := by
  obtain ⟨ev, cores, pwr, form⟩ := arrive_form srcRoleChange
    (withTroupe (fun t => { t with leaseEnd := none, releasing := false })
      (setRole { s.role with role := .spare, slot := 0 } (setPair { s.pair with drained := false } s)))
  unfold partnerSpare
  rw [h]
  exact congrArg State.role form

theorem partnerSpare_fenced {s : State} (h : s.role.role = .fenced) :
    (partnerSpare s).role = { s.role with role := .spare, slot := 0, epoch := 0, resetting := false } := by
  obtain ⟨rings, ports, ev, cores, pwr, form, -⟩ := roleReset_form (setPair { s.pair with drained := false } s)
  unfold partnerSpare
  rw [h]
  exact congrArg State.role form

/-- Settles O41: PAIRCTL and the end of fusing by their equations `fuseError_eq` and `fuseFinish_eq`; each word of the pair link is the effect
that `pairWordEffect` names, FENCED being `enterFenced_fencedAs` and the role reset `roleReset_form`. -/
theorem macaronPairs : Obligations.MacaronPairs := by
  unfold Obligations.MacaronPairs
  refine ⟨fun who s served => ⟨fun h => ?noFuse, fun idle unfused => ?fuse, fun partnerIdle => ⟨fun h => ?noUnfuse, fun fused spare idle far => ?unfuse,
    fun fused refusal => ?unfuseFails⟩⟩, fun p s busy up => ?complete, fun s busy up out => ?timeout, ?request, fun s up sound => ?failure,
    fun s fused sound => ?words⟩
  case noFuse =>
    rw [exec_pairctlFuse served, fuseRequest, if_pos (by simpa using h)]
  case fuse =>
    have asked : exec (.pairctlFuse who) s = answered who (fuseRequest s) := exec_pairctlFuse served
    rw [fuseRequest_eq idle unfused] at asked
    refine outcome_cases (answered who) asked id fun _ asked => ?_
    refine outcome_cases (answered who) asked id fun _ asked => ?_
    refine outcome_cases (answered who) asked id fun _ asked => ?_
    exact outcome_cases (answered who) asked id fun _ asked => asked
  case noUnfuse =>
    rw [exec_pairctlUnfuse served, unfuseRequest, h]
    rfl
  case unfuse =>
    rw [exec_pairctlUnfuse served, unfuseRequest, if_neg (by simp [fused]), if_pos (by simp [spare, idle, far]), unfuse, sendPair_fused fused]
    rfl
  case unfuseFails =>
    rw [exec_pairctlUnfuse served, unfuseRequest, if_neg (by simp [fused]), if_neg (by rcases refusal with h | h | h <;> simp [h])]
    rfl
  case complete =>
    have ended := exec_fuseComplete p busy up
    rw [fuseFinish_eq] at ended
    refine outcome_cases Host.Outcome.next ended id fun trained ended => ?_
    refine outcome_cases Host.Outcome.next ended id fun _ ended => ?_
    refine outcome_cases Host.Outcome.next ended id fun _ ended => ?_
    refine outcome_cases Host.Outcome.next ended id fun _ ended => ?_
    refine outcome_cases Host.Outcome.next ended id fun _ ended => ?_
    refine outcome_cases Host.Outcome.next ended id fun _ ended => ?_
    rw [ended, (Bool.not_eq_false _).mp trained]
  case timeout => exact exec_fuseTimeout busy up out
  case request =>
    intro q s fused up sound hub trained vclk
    rw [exec_pairLinkRequest q fused up sound hub trained vclk, pairPresent_eq]
    refine ⟨fun far => by rw [if_pos far], fun near bank => ⟨(pairBankReq q).op, ?_, fun read => ?_, fun write => ?_⟩, fun near px => ⟨_, rfl, ?_⟩⟩
    · rw [if_neg (Nat.not_le.2 near), if_pos bank]
      simp [present, setVs, pairBankReq, bankReq, bank]
    · simp [pairBankReq, bankReq, read]
    · simp [pairBankReq, bankReq, write]
    · rw [if_neg (Nat.not_le.2 near), if_neg (by simp [px])]
      refine ⟨fun free => by rw [free]; rfl, fun ch flies => ⟨fun due => ?_, fun early => ?_⟩⟩
      · simp [flies, due, setVs]
      · simp [flies, early, setPair]
  case failure => exact onlyIf_of_true (by simp [up, sound])
  case words =>
    have effect (w : PairWord) : exec (.pairLinkControlWord w) s = .next (pairWordEffect w s) := exec_pairLinkControlWord w fused sound
    refine ⟨fun f other => ⟨_, effect _, enterFenced_fencedAs f false other⟩, fun f same => ?_, fun m type worker lease => ?_, fun n awaited worker => ?_,
      ⟨_, effect .warmReset⟩, ⟨_, effect .coldReset, rfl, rfl, partnerCold_holder, partnerCold_idle⟩, fun i => ⟨effect (.resume i), effect (.cancel i)⟩,
      fun fenced flush => ?_, fun on => effect (.freeze on), effect .drained, fun worker => ⟨_, effect .spare, partnerSpare_worker worker⟩,
      fun fenced => ⟨_, effect .spare, partnerSpare_fenced fenced⟩, effect .unfuse⟩
    · rw [effect, pairWordEffect, enterFenced_fenced same]
    · rw [effect, pairWordEffect, relayedMsg_heartbeat type worker lease fused]
    · rw [effect, pairWordEffect, relayAcked_awaited awaited worker]
    · rw [effect, pairWordEffect, if_pos (by simp [roleHeld, fenced, flush])]
      rfl

end Sys2Proof.Proofs
end

section
/-! SUPPORT. The commands of the Vector Store: field repair, the scrubber, the starvation override, the wipe
(R40 to R42, R48, R52, R63, R64, R473). -/

namespace Sys2Proof.Proofs

open Sys2Proof.Machine Sys2Proof.Claims Sys2Proof.Laws

/-! ## VSREPAIR (R40 to R42, R70) -/

/-- VSREPAIR as a field repair writes it (R70): LBANK in bits 9 to 0, SPARE in bits 11 and 10, START in bit 12, no acknowledgement. -/
theorem vsrepair_fields (lbank : BitVec 10) (spare : BitVec 2) : let v : W64 := BitVec.ofNat 64 (lbank.toNat + spare.toNat * 2 ^ 10 + 2 ^ 12)
    v.extractLsb' 0 10 = lbank ∧ v.extractLsb' 10 2 = spare ∧ bitAt 12 v = true ∧ bitAt 14 v = false ∧ bitAt 15 v = false := by
  have l := lbank.isLt
  have p := spare.isLt
  refine ⟨BitVec.eq_of_toNat_eq ?_, BitVec.eq_of_toNat_eq ?_, ?_, ?_, ?_⟩
  case refine_1 | refine_2 => simp only [BitVec.extractLsb'_toNat, BitVec.toNat_ofNat, Nat.shiftRight_eq_div_pow]; omega
  all_goals simp only [bitAt, BitVec.getLsbD, BitVec.toNat_ofNat, Nat.testBit_eq_decide_div_mod_eq, decide_eq_true_eq, decide_eq_false_iff_not]; omega

/-- A write of VSREPAIR with START is the start of a repair, in which the fields keep ERR and DONE. -/
theorem writeVsrepair_start (lbank : BitVec 10) (spare : BitVec 2) (s : State) :
    writeVsrepair (BitVec.ofNat 64 (lbank.toNat + spare.toNat * 2 ^ 10 + 2 ^ 12)) s = repairStart lbank spare s := by
  obtain ⟨lb, sp, start, err, done⟩ := vsrepair_fields lbank spare
  simp only [writeVsrepair, lb, sp, start, err, done, Bool.not_false, Bool.and_true, if_true]
  rfl

theorem exec_vsRepairStart {who : Requester} {s : State} (lbank : BitVec 10) (spare : BitVec 2) (served : mayAccess who 2 0x30010 s = true) :
    exec (.vsRepairStart who lbank spare) s = .next (written who (repairStart lbank spare s)) := by
  have wrote : exec (.vsRepairStart who lbank spare) s =
      .next (written who (writeVsrepair (BitVec.ofNat 64 (lbank.toNat + spare.toNat * 2 ^ 10 + 2 ^ 12)) s)) :=
    regCmd_ok served (by decide) (by decide) (by simp [samFreeWrite])
  rw [wrote, writeVsrepair_start]

/-- The VSMAP entry that SPARE designates becomes `e` (R40, R69). -/
def putMapEntry (spare : BitVec 2) (e : VsMapEntry) (v : VStore) : VStore :=
  match spare with
  | 0 => { v with map0 := e }
  | 1 => { v with map1 := e }
  | _ => { v with map2 := e }

/-- SPARE has two bits: 0 to 2 name the spares, and 3 is reserved (R41, R70). -/
theorem spare_cases : ∀ spare : BitVec 2, spare = 0 ∨ spare = 1 ∨ spare = 2 ∨ spare = 3 := by decide

theorem mapEntry_putMapEntry (spare : BitVec 2) (e : VsMapEntry) (v : VStore) : (putMapEntry spare e v).mapEntry spare.toNat = e := by
  rcases spare_cases spare with rfl | rfl | rfl | rfl <;> rfl

theorem mapEntry_putMapEntry_other {spare : BitVec 2} {n : Nat} (e : VsMapEntry) (v : VStore) (hn : n < 3) (real : spare.toNat < 3)
    (other : n ≠ spare.toNat) : (putMapEntry spare e v).mapEntry n = v.mapEntry n := by
  rcases spare_cases spare with rfl | rfl | rfl | rfl <;> interval_cases n <;> simp_all [putMapEntry, VStore.mapEntry]

theorem putMapEntry_form (spare : BitVec 2) (e : VsMapEntry) (v : VStore) :
    ∃ m0 m1 m2, putMapEntry spare e v = { v with map0 := m0, map1 := m1, map2 := m2 } := by
  unfold putMapEntry
  split <;> exact ⟨_, _, _, rfl⟩

/-- The Vector Store once a copy has passed its last row (R40 item 4, R42). -/
def repaired (v : VStore) : VStore :=
  let w := putMapEntry v.repair.runSpare ⟨v.repair.runLbank, true, false⟩ (spareTakesOver v)
  { w with repair := { v.repair with busy := false, done := true, row := 0 } }

theorem repairDone_eq (s : State) : repairDone s = arrive srcVsRepair (setVs (repaired s.vs) s) := rfl

theorem exec_vsRepairDone {s : State} (runs : vclkRuns s = true) (busy : s.vs.repair.busy = true) (copied : 8192 ≤ s.vs.repair.row) :
    exec .vsRepairDone s = .next (repairDone s) :=
  onlyIf_of_true (by simp [runs, busy, copied])

/-! ## The scrubber and the starvation override (R48, R52) -/

theorem exec_scrubStep {s : State} (runs : vclkRuns s = true) (en : s.vs.scrubEn = true) (noWipe : s.vs.wipePending = false)
    (waited : s.vs.scrubWait = 0) (noRead : ∀ r ∈ s.vs.reqs, r.rq ≠ 18) (noWrite : ∀ h ∈ s.vs.halves, h.2.dest ≠ .scrub) :
    exec .scrubStep s = .next (scrubPresents s) := by
  have noReadB : s.vs.reqs.any (fun r => r.rq == 18) = false := by simpa using noRead
  have noWriteB : s.vs.halves.any (fun h => h.2.dest == .scrub) = false := List.any_eq_false.2 fun h mem => by simpa using noWrite h mem
  exact onlyIf_of_true (by simp [runs, en, noWipe, waited, noReadB, noWriteB])

theorem overrideDue_iff {rq word : Nat} {r : BankReq} (classB : 12 ≤ rq) :
    overrideDue rq word r = true ↔ (r.rq = rq ∧ r.word = word ∧ 512 ≤ r.age) ∧ r.ovr = false := by
  simp [overrideDue, classB, and_assoc]

/-- The override marks each such request; for one that has its override already nothing changes. -/
theorem setOverride_eq {rq word : Nat} (classB : 12 ≤ rq) (s : State) : setOverride rq word s = setVs { s.vs with
    reqs := s.vs.reqs.map (fun q => if q.rq = rq ∧ q.word = word ∧ 512 ≤ q.age then { q with ovr := true } else q) } s := by
  have each (q : BankReq) : (if overrideDue rq word q then { q with ovr := true } else q) =
      if q.rq = rq ∧ q.word = word ∧ 512 ≤ q.age then { q with ovr := true } else q := by
    obtain ⟨_, _, _, _, _, ovr, _⟩ := q
    cases ovr <;> simp [overrideDue_iff classB]
  simp only [setOverride, each]

theorem exec_starvationOverride {rq word : Nat} {s : State} {r : BankReq} (waits : r ∈ s.vs.reqs) (due : overrideDue rq word r = true) :
    exec (.starvationOverride rq word) s = .next (setOverride rq word s) :=
  onlyIf_of_true (List.any_eq_true.2 ⟨r, waits, due⟩)

/-! ## The wipe (R63, R64) -/

theorem exec_wipeStart {s : State} (runs : vclkRuns s = true) (pending : s.vs.wipePending = true) (idle : s.vs.wipeBusy = false)
    (free : s.wrap.hold = false) : exec .wipeStart s = .next (setVs { s.vs with wipeBusy := true, wipeRow := 7680 } s) :=
  onlyIf_of_true (by simp [runs, pending, idle, free])

theorem exec_wipeDone {s : State} (pending : s.vs.wipePending = true) (busy : s.vs.wipeBusy = true) (wiped : 8192 ≤ s.vs.wipeRow) :
    exec .wipeDone s = .next (wipeEnds s) :=
  onlyIf_of_true (by simp [pending, busy, wiped])

/-! ## One VCLK -/

/-- R168, R473: in the start-up a VCLK counts ENGTIME and nothing else. -/
theorem exec_bankGrantCycle_startup {s : State} (edges : vclkEdges s = true) (still : vclkRuns s = false) :
    exec .bankGrantCycle s = .next (tickEngtime s) := by
  have ticks : exec .bankGrantCycle s = .next (if vclkRuns s then vclk s else tickEngtime s) := onlyIf_of_true (by simp [edges, still])
  rw [ticks, still]
  rfl

/-- Settles O42: each command is the equation of its `exec_` lemma; a finished copy leaves the Vector Store `repaired`. -/
theorem vectorStoreCommands : Obligations.VectorStoreCommands := by
  unfold Obligations.VectorStoreCommands
  refine ⟨fun who lbank spare s served => ?start, fun s runs busy copied => ?done, fun s runs en noWipe waited noRead noWrite => ?scrub,
    fun s edges still => ?startup, fun rq word s r waits isRq isWord classB old noOvr => ?override, fun s runs pending idle free => ?wipe,
    fun s pending busy wiped => ?wiped⟩
  case start =>
    rw [exec_vsRepairStart lbank spare served, repairStart]
    simp only [repairRefused, gt_iff_lt]
    split <;> rfl
  case done =>
    obtain ⟨m0, m1, m2, form⟩ := putMapEntry_form s.vs.repair.runSpare ⟨s.vs.repair.runLbank, true, false⟩ (spareTakesOver s.vs)
    refine ⟨repaired s.vs, exec_vsRepairDone runs busy copied, mapEntry_putMapEntry ..,
      fun n hn real other => mapEntry_putMapEntry_other _ (spareTakesOver s.vs) hn real other, rfl, ?_⟩
    rw [repaired, form]
    exact ⟨rfl, rfl, rfl, rfl⟩
  case scrub => exact exec_scrubStep runs en noWipe waited noRead noWrite
  case startup => exact exec_bankGrantCycle_startup edges still
  case override =>
    rw [exec_starvationOverride waits ((overrideDue_iff classB).2 ⟨⟨isRq, isWord, old⟩, noOvr⟩), setOverride_eq classB]
    rfl
  case wipe => exact exec_wipeStart runs pending idle free
  case wiped =>
    rw [exec_wipeDone pending busy wiped]
    simp only [wipeEnds, beq_iff_eq]
    rfl

end Sys2Proof.Proofs
end

section
/-! SUPPORT. One VCLK at the banks: what a request that waits alone, a write half and a row of the wipe do
(R43 to R45, R51, R54, R58, R61 to R63, R239). -/

namespace Sys2Proof.Proofs

open Sys2Proof.Machine Sys2Proof.Claims Sys2Proof.Laws

/-! ## Words of the arrays -/

theorem wordBytes_append (w : W64) : wordByte w 7 ++ wordByte w 6 ++ wordByte w 5 ++ wordByte w 4 ++ wordByte w 3 ++ wordByte w 2 ++ wordByte w 1 ++
    wordByte w 0 = w := by
  simp only [wordByte]
  iterate 7 rw [BitVec.extractLsb'_append_extractLsb'_eq_extractLsb' (by decide)]
  exact BitVec.extractLsb'_eq_self

theorem Memory.word_of_bytes {m : Memory} {k : Nat} {w : W64} (bytes : ∀ i < 8, m.byte (8 * k + i) = wordByte w i) : m.word k = w := by
  have low := bytes 0 (by decide)
  rw [Nat.add_zero] at low
  rw [Memory.word, low, bytes 1 (by decide), bytes 2 (by decide), bytes 3 (by decide), bytes 4 (by decide), bytes 5 (by decide),
    bytes 6 (by decide), bytes 7 (by decide), wordBytes_append]

/-- Two arrays hold the same word where they hold the same eight bytes. -/
theorem Memory.word_congr {m m' : Memory} {k : Nat} (same : ∀ i < 8, m.byte (8 * k + i) = m'.byte (8 * k + i)) : m.word k = m'.word k := by
  have low := same 0 (by decide)
  rw [Nat.add_zero] at low
  rw [Memory.word, Memory.word, low, same 1 (by decide), same 2 (by decide), same 3 (by decide), same 4 (by decide), same 5 (by decide),
    same 6 (by decide), same 7 (by decide)]

theorem Memory.word_setWord (m : Memory) (k j : Nat) (w : W64) (e : WordErr) : (m.setWord k w e).word j = if j = k then w else m.word j := by
  have byte (i : Nat) (hi : i < 8) : (m.setWord k w e).byte (8 * j + i) = if j = k then wordByte w i else m.byte (8 * j + i) := by
    rw [Memory.byte_setWord, show (8 * j + i) / 8 = j by omega, show (8 * j + i) % 8 = i by omega]
  split
  case isTrue here => exact Memory.word_of_bytes fun i hi => (byte i hi).trans (if_pos here)
  case isFalse other => exact Memory.word_congr fun i hi => (byte i hi).trans (if_neg other)

/-- A write of a word with its condition replaces that word and no other (R54). -/
theorem Memory.setWord_reads (m : Memory) (k : Nat) (w : W64) (e : WordErr) : (m.setWord k w e).word k = w ∧ (m.setWord k w e).err k = e ∧
    ∀ j, j ≠ k → (m.setWord k w e).word j = m.word j ∧ (m.setWord k w e).err j = m.err j := by
  refine ⟨?_, ?_, fun j other => ⟨?_, ?_⟩⟩
  · rw [Memory.word_setWord, if_pos rfl]
  · rw [Memory.err_setWord, if_pos rfl]
  · rw [Memory.word_setWord, if_neg other]
  · rw [Memory.err_setWord, if_neg other]

/-- R63: the wipe's write of one row of every bank. -/
theorem Memory.word_zeroRow (m : Memory) {row k : Nat} (inRow : row < 8192) (inBank : k / 8192 < 1024) :
    (m.zeroRow row).word k = if k % 8192 = row then 0 else m.word k := by
  have byte (i : Nat) (hi : i < 8) : (m.zeroRow row).byte (8 * k + i) = if k % 8192 = row then 0 else m.byte (8 * k + i) := by
    rw [Memory.byte_zeroRow m inRow (by omega), show (8 * k + i) / 8 = k by omega]
  split
  case isTrue here => exact Memory.word_of_bytes fun i hi => by rw [byte i hi, if_pos here, wordByte_zero]
  case isFalse other => exact Memory.word_congr fun i hi => (byte i hi).trans (if_neg other)

/-! ## What the parts of a grant leave alone -/

@[simp] theorem arrive_vs (n : Nat) (s : State) : (arrive n s).vs = s.vs := by
  obtain ⟨ev, cores, pwr, form⟩ := arrive_form n s
  rw [form]

@[simp] theorem arrive_eng (n : Nat) (s : State) : (arrive n s).eng = s.eng := by
  obtain ⟨ev, cores, pwr, form⟩ := arrive_form n s
  rw [form]

@[simp] theorem denySecure_vs (rq : Nat) (s : State) : (denySecure rq s).vs =
    { s.vs with deny := true, denyCnt := satInc s.vs.denyCnt, denyReq := BitVec.ofNat 5 rq } := arrive_vs _ _

/-- The arrays after a whole word has been written while no copy runs (R40, R54). -/
theorem writeWord_mem {word : Nat} {d : W64} {p : Bool} {s : State} (idle : s.vs.repair.busy = false) :
    (writeWord word d p s).vs.mem = s.vs.mem.setWord (s.vs.keyOf word) d (if p then .poison else .good) := by
  simp [writeWord, idle]

@[simp] theorem clearLocks_vs (who : Option CoreId) (line : Nat) (s : State) : (clearLocks who line s).vs = s.vs :=
  foldl_field State.vs (fun s c => by split <;> rfl) fours s

@[simp] theorem clearLocks_eng (who : Option CoreId) (line : Nat) (s : State) : (clearLocks who line s).eng = s.eng :=
  foldl_field State.eng (fun s c => by split <;> rfl) fours s

theorem core_withCore_other {c d : CoreId} (f : Core → Core) (s : State) (other : c ≠ d) : (withCore d f s).core c = s.core c :=
  Quad.get_set_other _ _ _ _ other

/-- R240: a write leaves the reservation of the core that makes it. -/
theorem clearLocks_own (c : CoreId) (line : Nat) (s : State) : (clearLocks (some c) line s).core c = s.core c := by
  refine foldl_field (fun s => s.core c) (fun s d => ?_) fours s
  by_cases own : c = d
  · rw [if_neg (by simp [own])]
  · split
    · exact core_withCore_other _ _ own
    · rfl

theorem grantClears_form (r : BankReq) (s : State) : grantClears r s = s ∨ grantClears r s = clearLocks r.dest.writer (vsLine s r.word) s := by
  unfold grantClears
  split
  · exact .inl rfl
  · exact ite_eq_or_eq _ _ _

@[simp] theorem grantClears_vs (r : BankReq) (s : State) : (grantClears r s).vs = s.vs := by
  rcases grantClears_form r s with h | h <;> simp [h]

@[simp] theorem grantClears_eng (r : BankReq) (s : State) : (grantClears r s).eng = s.eng := by
  rcases grantClears_form r s with h | h <;> simp [h]

theorem grantClears_unlock {r : BankReq} {c : CoreId} {w : Nat} (dest : r.dest = .unlock c w) (s : State) :
    (grantClears r s).core c = s.core c := by
  rcases grantClears_form r s with h | h <;> rw [h]
  rw [dest]
  exact clearLocks_own c _ s

@[simp] theorem wipeClears_vs (row : Nat) (s : State) : (wipeClears row s).vs = s.vs := by
  refine foldl_field State.vs (fun s c => ?_) fours s
  split
  · split <;> rfl
  · rfl

/-- R55: where no request has lost, no counter counts. -/
theorem countConflicts_nil (s : State) : countConflicts [] s = s := by
  simp [countConflicts]

theorem countConflicts_reqs (losers : List BankReq) (s : State) : (countConflicts losers s).vs.reqs = s.vs.reqs :=
  foldl_field (fun s => s.vs.reqs) (fun s n => by split <;> rfl) _ s

/-! ## Reads -/

theorem readWord_word (rq word : Nat) (s : State) : (readWord rq word s).1 =
    ⟨s.vs.mem.word (s.vs.keyOf word), s.vs.mem.err (s.vs.keyOf word) == .double || s.vs.mem.err (s.vs.keyOf word) == .poison⟩ := by
  unfold readWord
  dsimp only
  cases s.vs.mem.err (s.vs.keyOf word) <;> rfl

theorem logEcc_form (dbl : Bool) (rq word pbank : Nat) (s : State) : ∃ log, logEcc dbl rq word pbank s = setVs { s.vs with eccLog := log } s := by
  unfold logEcc
  dsimp only
  split <;> exact ⟨_, rfl⟩

/-- A read counts and records what it corrects, and changes nothing else in the Vector Store (R46, R47). -/
theorem readWord_vs (rq word : Nat) (s : State) : ∃ ce ue log, (readWord rq word s).2.vs = { s.vs with ceCount := ce, ueCount := ue, eccLog := log } := by
  unfold readWord
  dsimp only
  cases s.vs.mem.err (s.vs.keyOf word) with
  | good | poison => exact ⟨_, _, _, rfl⟩
  | single =>
    obtain ⟨log, form⟩ := logEcc_form false rq word (s.vs.bankOf word) (countCe s)
    have counted : (countCe s).vs = { s.vs with ceCount := satInc s.vs.ceCount } := by
      unfold countCe
      dsimp only
      split <;> simp
    exact ⟨_, _, log, by rw [form, counted]; rfl⟩
  | double =>
    obtain ⟨log, form⟩ := logEcc_form true rq word (s.vs.bankOf word) (countUe s)
    have counted : (countUe s).vs = { s.vs with ueCount := satInc s.vs.ueCount } := arrive_vs _ _
    exact ⟨_, _, log, by rw [form, counted]; rfl⟩

@[simp] theorem readWord_eng (rq word : Nat) (s : State) : (readWord rq word s).2.eng = s.eng :=
  settled_field State.eng (fun _ _ _ _ _ _ => rfl) (settled_readWord rq word s)

/-! ## One grant -/

theorem grantOne_refused {r : BankReq} {s : State} (refused : secureRefused r.word r.secure s = true) :
    grantOne r s = (some (.refused r), denySecure r.rq s) := if_pos refused

/-- R239: an UNLOCK whose reservation is lost writes nothing. -/
theorem grantOne_lost {r : BankReq} {s : State} (allowed : secureRefused r.word r.secure s = false) (lost : unlockLost r s = true) :
    grantOne r s = (some (.data ⟨0, false⟩), s) := by
  rw [grantOne, if_neg (by simp [allowed]), if_pos lost]

theorem unlockLost_of_not_unlock {r : BankReq} (h : r.isUnlock = false) (s : State) : unlockLost r s = false := by
  unfold BankReq.isUnlock at h
  unfold unlockLost
  split
  · rename_i dest; simp [dest] at h
  · rfl

theorem grantOne_read {r : BankReq} {s : State} (allowed : secureRefused r.word r.secure s = false) (free : unlockLost r s = false)
    (op : r.op = .read) (noRepair : r.dest ≠ .repair) (noScrub : r.dest ≠ .scrub) :
    grantOne r s = (some (.data (readWord r.rq r.word s).1), (readWord r.rq r.word s).2) := by
  rw [grantOne, if_neg (by simp [allowed]), if_neg (by simp [free]), op]
  dsimp only
  split
  · contradiction
  · contradiction
  · rfl

theorem grantOne_write {r : BankReq} {s : State} {d : W64} {p : Bool} (allowed : secureRefused r.word r.secure s = false)
    (free : unlockLost r s = false) (op : r.op = .write d 255 p) :
    grantOne r s = (some (if r.isUnlock then .data ⟨1, false⟩ else .done 0), writeWord r.word d p s) := by
  rw [grantOne, if_neg (by simp [allowed]), if_neg (by simp [free]), op]
  dsimp only
  rw [if_pos rfl, BankReq.isUnlock]
  cases r.dest <;> rfl

/-- R58: a write of some bytes reads, and leaves the merged word to the next VCLK. -/
theorem grantOne_part {r : BankReq} {s : State} {d : W64} {be : BitVec 8} {p : Bool} (allowed : secureRefused r.word r.secure s = false)
    (free : unlockLost r s = false) (op : r.op = .write d be p) (part : be ≠ 255) :
    let x := (readWord r.rq r.word s).1
    let s1 := (readWord r.rq r.word s).2
    grantOne r s = (none, setVs { s1.vs with
      halves := Tab.insert s1.vs.halves (s.vs.bankOf r.word) ⟨r.word, mergeBytes x.data d be, x.poison || p, 0, r.rq, r.dest⟩ } s1) := by
  dsimp only
  rw [grantOne, if_neg (by simp [allowed]), if_neg (by simp [free]), op]
  dsimp only
  rw [if_neg part]

/-! ## The shape of a VCLK without a wipe -/

theorem presentRepair_idle {s : State} (idle : s.vs.repair.busy = false) : presentRepair s = s := if_neg (by simp [idle])

theorem presentRepair_wiping {s : State} (pending : s.vs.wipePending = true) : presentRepair s = s := if_neg (by simp [pending])

/-- The end of a VCLK, once every bank has granted: `x` holds the answers, the requests that won, and the state. -/
def cycleEnds (pres : List BankReq) (x : (List (ReqDest × Nat × BankAnswer) × List BankReq) × State) : List (ReqDest × Nat × BankAnswer) × State :=
  let losers := removeWon pres x.1.2
  let s3 := countConflicts losers x.2
  (x.1.1, tickEngtime (scrubCount (setVs { s3.vs with
    reqs := (removeWon s3.vs.reqs x.1.2).map (fun r => if losers.contains r then ageReq r else r) } s3)))

theorem grantCycle_granting {pres : List BankReq} {s : State} (idle : s.vs.repair.busy = false) (noWipe : s.vs.wipePending = false)
    (shown : s.vs.reqs.filter (fun r => !notPresented s r) = pres) (qual : Bool) :
    grantCycle qual s = cycleEnds pres ((busyBanks s pres).foldl (grantBank qual pres s.vs.halves (s.eng.time.toNat % 12))
      (([], []), setVs { s.vs with halves := [] } s)) := by
  subst shown
  unfold grantCycle
  rw [presentRepair_idle idle]
  exact if_neg (by simp [noWipe])

theorem removeWon_self (rs : List BankReq) : removeWon rs rs = [] := by
  induction rs with
  | nil => rfl
  | cons r rs ih => rw [removeWon, List.foldl_cons, List.erase_cons_head]; exact ih

theorem scrubCount_form (s : State) : ∃ wait, scrubCount s = setVs { s.vs with scrubWait := wait } s := by
  unfold scrubCount
  split
  · exact ⟨_, rfl⟩
  · exact ⟨s.vs.scrubWait, rfl⟩

/-- Where every request has won, none waits on. -/
theorem cycleEnds_all {rs : List BankReq} {u : State} (waited : u.vs.reqs = rs) (out : List (ReqDest × Nat × BankAnswer)) :
    ∃ wait, cycleEnds rs ((out, rs), u) = (out, tickEngtime (setVs { u.vs with reqs := [], scrubWait := wait } u)) := by
  obtain ⟨wait, scrub⟩ := scrubCount_form (setVs { u.vs with reqs := [] } u)
  refine ⟨wait, ?_⟩
  unfold cycleEnds
  dsimp only
  rw [removeWon_self, countConflicts_nil, waited, removeWon_self, List.map_nil]
  exact congrArg (fun s => (out, tickEngtime s)) scrub

theorem setVs_noHalves {s : State} (noHalf : s.vs.halves = []) : setVs { s.vs with halves := [] } s = s := by
  have same : ({ s.vs with halves := [] } : VStore) = s.vs := by rw [← noHalf]
  rw [same]
  rfl

/-! ## A request that waits alone -/

/-- Alone at its bank, a request wins, whatever its class and whichever item of R51 serves it. -/
theorem winner_alone (r : BankReq) (p ptr : Nat) (hub : CoreId) : winner [r] p ptr hub false = some r := by
  unfold winner
  by_cases classB : 12 ≤ r.rq
  · cases ovr : r.ovr <;> simp [classB, ovr, Nat.not_lt.2 classB]
  · simp [classB, Nat.lt_of_not_le classB]

theorem busyBanks_alone {r : BankReq} {s : State} (noHalf : s.vs.halves = []) : busyBanks s [r] = [s.vs.bankOf r.word] := by
  unfold busyBanks
  cases unlock : r.isUnlock <;> simp [unlock, noHalf, List.eraseDups_cons]

/-- A grant of class B moves the bank's pointer and the hub's turn (R50, R51), and nothing else. -/
theorem grantBank_alone {r : BankReq} {s u : State} {ans : Option BankAnswer} (granted : grantOne r (grantClears r s) = (ans, u)) (p : Nat) :
    ∃ ptr hub, grantBank false [r] [] p (([], []), s) (s.vs.bankOf r.word) =
      ((ans.toList.map (fun a => (r.dest, r.word, a)), [r]), setVs { u.vs with bptr := ptr, hubNext := hub } u) := by
  unfold grantBank
  simp only [beq_self_eq_true, List.filter_cons_of_pos, List.filter_nil, Tab.find, winner_alone, granted]
  by_cases classB : 12 ≤ r.rq
  · refine ⟨Tab.set 0 u.vs.bptr (s.vs.bankOf r.word) ((r.rq - 12 + 1) % 8), (r.dest.coreOf.map (fun c => c + 1)).getD u.vs.hubNext, ?_⟩
    rw [if_pos classB]
    cases ans <;> rfl
  · refine ⟨u.vs.bptr, u.vs.hubNext, ?_⟩
    rw [if_neg classB]
    cases ans <;> rfl

/-- What a grant keeps, whatever its request: those that wait, and the engine. -/
theorem grantOne_keeps (r : BankReq) (s : State) : (grantOne r s).2.vs.reqs = s.vs.reqs ∧ (grantOne r s).2.eng = s.eng := by
  have read : (readWord r.rq r.word s).2.vs.reqs = s.vs.reqs ∧ (readWord r.rq r.word s).2.eng = s.eng := by
    obtain ⟨ce, ue, log, form⟩ := readWord_vs r.rq r.word s
    exact ⟨by rw [form], readWord_eng _ _ _⟩
  unfold grantOne
  generalize readWord r.rq r.word s = x at read
  split
  · exact ⟨by simp, by simp [denySecure]⟩
  split
  · exact ⟨rfl, rfl⟩
  dsimp only
  cases r.op with
  | read =>
    cases r.dest with
    | repair => exact read
    | scrub =>
      have step : (scrubStepDone x.2).vs.reqs = x.2.vs.reqs ∧ (scrubStepDone x.2).eng = x.2.eng := by
        unfold scrubStepDone
        dsimp only
        split <;> exact ⟨rfl, rfl⟩
      dsimp only
      split <;> exact ⟨step.1.trans read.1, step.2.trans read.2⟩
    | _ => exact read
  | write d be p =>
    dsimp only
    split
    · exact ⟨rfl, rfl⟩
    · exact read
  | acc code d half rm p =>
    dsimp only
    split
    · exact ⟨rfl, rfl⟩
    · exact read

/-- One request waits, and nothing else is due at any bank. -/
structure Alone (r : BankReq) (s : State) : Prop where
  waits : s.vs.reqs = [r]
  noHalf : s.vs.halves = []
  idle : s.vs.repair.busy = false
  noWipe : s.vs.wipePending = false
  presented : detHeld s r = false

section
variable {r : BankReq} {s u : State}

/-- The bank grants the request, and around the grant only the bank's pointer, the hub's turn, the scrubber's wait and ENGTIME move. -/
theorem Alone.grantCycle_eq {ans : Option BankAnswer} (h : Alone r s) (granted : grantOne r (grantClears r s) = (ans, u)) :
    ∃ ptr hub wait, grantCycle false s = (ans.toList.map (fun a => (r.dest, r.word, a)),
      tickEngtime (setVs { u.vs with bptr := ptr, hubNext := hub, reqs := [], scrubWait := wait } u)) := by
  obtain ⟨ptr, hub, grant⟩ := grantBank_alone granted (s.eng.time.toNat % 12)
  have shown : s.vs.reqs.filter (fun r => !notPresented s r) = [r] := by simp [h.waits, notPresented, h.presented, h.noWipe]
  have waited : u.vs.reqs = [r] := by
    have keeps := (grantOne_keeps r (grantClears r s)).1
    rwa [granted, grantClears_vs, h.waits] at keeps
  have granting := grantCycle_granting h.idle h.noWipe shown false
  rw [busyBanks_alone h.noHalf, setVs_noHalves h.noHalf, h.noHalf, List.foldl_cons, List.foldl_nil, grant] at granting
  obtain ⟨wait, ends⟩ := cycleEnds_all (u := setVs { u.vs with bptr := ptr, hubNext := hub } u) waited _
  exact ⟨ptr, hub, wait, granting.trans ends⟩

theorem Alone.served (h : Alone r s) : (grantCycle false s).2.eng.time = s.eng.time + 1 ∧ (grantCycle false s).2.vs.reqs = [] := by
  obtain ⟨ptr, hub, wait, cycle⟩ := h.grantCycle_eq rfl
  have eng := (grantOne_keeps r (grantClears r s)).2
  rw [grantClears_eng] at eng
  rw [cycle]
  exact ⟨congrArg (fun e => e.time + 1) eng, rfl⟩

/-- R61: while no wipe is pending, a secure word is refused to a requester without the right to it. -/
theorem Alone.secureRefused_eq (h : Alone r s) : secureRefused r.word r.secure (grantClears r s) = (isSecureWord r.word && !r.secure) := by
  rw [secureRefused, grantClears_vs, h.noWipe, Bool.false_or]

theorem Alone.refused (h : Alone r s) (refused : (isSecureWord r.word && !r.secure) = true) :
    (grantCycle false s).1 = [(r.dest, r.word, .refused r)] ∧ (grantCycle false s).2.vs.mem = s.vs.mem ∧ (grantCycle false s).2.vs.deny = true ∧
      (grantCycle false s).2.vs.denyReq = BitVec.ofNat 5 r.rq ∧ (grantCycle false s).2.vs.denyCnt = satInc s.vs.denyCnt := by
  obtain ⟨ptr, hub, wait, cycle⟩ := h.grantCycle_eq (grantOne_refused (h.secureRefused_eq.trans refused))
  rw [cycle]
  simp [tickEngtime]

variable (allowed : (isSecureWord r.word && !r.secure) = false)
include allowed

theorem Alone.read (h : Alone r s) (op : r.op = .read) (noRepair : r.dest ≠ .repair) (noScrub : r.dest ≠ .scrub) (noUnlock : r.isUnlock = false) :
    let key := s.vs.keyOf r.word
    (grantCycle false s).1 =
        [(r.dest, r.word, .data ⟨s.vs.mem.word key, s.vs.mem.err key == .double || s.vs.mem.err key == .poison⟩)] ∧
      (grantCycle false s).2.vs.mem = s.vs.mem ∧ (grantCycle false s).2.vs.halves = [] := by
  obtain ⟨ptr, hub, wait, cycle⟩ :=
    h.grantCycle_eq (grantOne_read (h.secureRefused_eq.trans allowed) (unlockLost_of_not_unlock noUnlock _) op noRepair noScrub)
  obtain ⟨ce, ue, log, form⟩ := readWord_vs r.rq r.word (grantClears r s)
  rw [cycle, readWord_word, form, grantClears_vs]
  exact ⟨rfl, rfl, h.noHalf⟩

theorem Alone.write {d : W64} {p : Bool} (h : Alone r s) (op : r.op = .write d 255 p) (noUnlock : r.isUnlock = false) :
    (grantCycle false s).1 = [(r.dest, r.word, .done 0)] ∧ (grantCycle false s).2.vs.halves = [] ∧
      (grantCycle false s).2.vs.mem = s.vs.mem.setWord (s.vs.keyOf r.word) d (if p then .poison else .good) := by
  obtain ⟨ptr, hub, wait, cycle⟩ :=
    h.grantCycle_eq (grantOne_write (h.secureRefused_eq.trans allowed) (unlockLost_of_not_unlock noUnlock _) op)
  have mem := writeWord_mem (word := r.word) (d := d) (p := p) (s := grantClears r s) (by rw [grantClears_vs, h.idle])
  rw [grantClears_vs] at mem
  rw [cycle, noUnlock]
  exact ⟨rfl, (congrArg VStore.halves (grantClears_vs r s)).trans h.noHalf, mem⟩

/-- R239: an UNLOCK writes while its core's reservation stands, and answers whether it did. -/
theorem Alone.unlock {c : CoreId} {w : Nat} {d : W64} (h : Alone r s) (op : r.op = .write d 255 false) (dest : r.dest = .unlock c w) :
    let holds : Bool := (s.core c).lockRes == some (BitVec.ofNat 46 (w / 8))
    (grantCycle false s).1 = [(r.dest, r.word, .data ⟨if holds then 1 else 0, false⟩)] ∧ (grantCycle false s).2.vs.halves = [] ∧
      (grantCycle false s).2.vs.mem = (if holds then s.vs.mem.setWord (s.vs.keyOf r.word) d .good else s.vs.mem) ∧
      ((grantCycle false s).2.core c).lockRes = (s.core c).lockRes := by
  intro holds
  have own : (grantClears r s).core c = s.core c := grantClears_unlock dest s
  have lost : unlockLost r (grantClears r s) = !holds := by simp [unlockLost, dest, own, holds, bne]
  have halves : (grantClears r s).vs.halves = [] := (congrArg VStore.halves (grantClears_vs r s)).trans h.noHalf
  have lock : ((grantClears r s).core c).lockRes = (s.core c).lockRes := congrArg Core.lockRes own
  cases stands : holds with
  | true =>
    obtain ⟨ptr, hub, wait, cycle⟩ := h.grantCycle_eq (grantOne_write (h.secureRefused_eq.trans allowed) (by rw [lost, stands]; rfl) op)
    have mem := writeWord_mem (word := r.word) (d := d) (p := false) (s := grantClears r s) (by rw [grantClears_vs, h.idle])
    rw [grantClears_vs] at mem
    rw [cycle, show r.isUnlock = true by rw [BankReq.isUnlock, dest]]
    exact ⟨rfl, halves, mem, lock⟩
  | false =>
    obtain ⟨ptr, hub, wait, cycle⟩ := h.grantCycle_eq (grantOne_lost (h.secureRefused_eq.trans allowed) (by rw [lost, stands]; rfl))
    rw [cycle]
    exact ⟨rfl, halves, (congrArg VStore.mem (grantClears_vs r s) :), lock⟩

/-- R58: a write of some bytes leaves its write half to the next VCLK. -/
theorem Alone.part {d : W64} {be : BitVec 8} {p : Bool} (h : Alone r s) (op : r.op = .write d be p) (part : be ≠ 255)
    (noUnlock : r.isUnlock = false) :
    let key := s.vs.keyOf r.word
    let bad := s.vs.mem.err key == .double || s.vs.mem.err key == .poison || p
    (grantCycle false s).1 = [] ∧ (grantCycle false s).2.vs.mem = s.vs.mem ∧
      (grantCycle false s).2.vs.halves = [(s.vs.bankOf r.word, ⟨r.word, mergeBytes (s.vs.mem.word key) d be, bad, 0, r.rq, r.dest⟩)] := by
  obtain ⟨ptr, hub, wait, cycle⟩ :=
    h.grantCycle_eq (grantOne_part (h.secureRefused_eq.trans allowed) (unlockLost_of_not_unlock noUnlock _) op part)
  obtain ⟨ce, ue, log, form⟩ := readWord_vs r.rq r.word (grantClears r s)
  rw [cycle, readWord_word, form, grantClears_vs, h.noHalf]
  exact ⟨rfl, rfl, rfl⟩

end

/-! ## A write half -/

/-- One VCLK in which one write half is all that is due: the bank makes it (R58). -/
theorem grantCycle_half {b : Nat} {h : WriteHalf} {s : State} (noReq : s.vs.reqs = []) (half : s.vs.halves = [(b, h)])
    (idle : s.vs.repair.busy = false) (noWipe : s.vs.wipePending = false) :
    (grantCycle false s).1 = [(h.dest, h.word, .done h.flags)] ∧ (grantCycle false s).2.vs.halves = [] ∧
      (grantCycle false s).2.vs.mem = s.vs.mem.setWord (s.vs.keyOf h.word) h.data (if h.poison then .poison else .good) := by
  have shown : s.vs.reqs.filter (fun r => !notPresented s r) = [] := by rw [noReq]; rfl
  have banks : busyBanks s [] = [b] := by simp [busyBanks, half, List.eraseDups_cons]
  have granting := grantCycle_granting idle noWipe shown false
  generalize opened : setVs { s.vs with halves := [] } s = u at granting
  have grant : grantBank false [] [(b, h)] (s.eng.time.toNat % 12) (([], []), u) b = (([(h.dest, h.word, .done h.flags)], []),
      writeWord h.word h.data h.poison (clearLocks h.dest.writer (vsLine u h.word) u)) := by
    simp [grantBank, Tab.find]
  rw [banks, half, List.foldl_cons, List.foldl_nil, grant] at granting
  generalize cleared : clearLocks h.dest.writer (vsLine u h.word) u = t at granting
  have same : t.vs = { s.vs with halves := [] } := by rw [← cleared, clearLocks_vs, ← opened, setVs_vs]
  have mem := writeWord_mem (word := h.word) (d := h.data) (p := h.poison) (s := t) (by rw [same]; exact idle)
  rw [same] at mem
  have waited : (writeWord h.word h.data h.poison t).vs.reqs = [] := by
    rw [writeWord, setVs_vs, same]
    exact noReq
  obtain ⟨wait, ends⟩ := cycleEnds_all waited [(h.dest, h.word, .done h.flags)]
  rw [granting, ends]
  exact ⟨rfl, (congrArg VStore.halves same :), mem⟩

/-! ## A row of the wipe -/

/-- R63: while the wipe writes its rows, a VCLK writes one and grants nothing; a secure word is refused to whoever asks for it. -/
theorem grantCycle_wiping {s : State} (pending : s.vs.wipePending = true) (busy : s.vs.wipeBusy = true) (rows : s.vs.wipeRow < 8192) (qual : Bool) :
    let denied := (s.vs.reqs.filter (fun r => !notPresented s r)).filter (fun r => isSecureWord r.word)
    (grantCycle qual s).2.vs.mem = s.vs.mem.zeroRow s.vs.wipeRow ∧ (grantCycle qual s).2.vs.wipeRow = s.vs.wipeRow + 1 ∧
      (denied = [] → (grantCycle qual s).2.vs.reqs.length = s.vs.reqs.length) ∧
      (s.vs.halves = [] → (grantCycle qual s).1 = denied.map (fun r => (r.dest, r.word, .refused r))) := by
  intro denied
  have writes : (s.vs.wipeBusy && decide (s.vs.wipeRow < 8192)) = true := by simp [busy, rows]
  unfold grantCycle
  rw [presentRepair_wiping pending]
  dsimp only
  rw [if_pos pending, writes]
  refine ⟨rfl, rfl, fun none => ?_, fun noHalf => ?_⟩
  · show (List.map _ (removeWon (countConflicts _ (denied.foldl _ _)).vs.reqs denied)).length = _
    rw [none, countConflicts_reqs, List.length_map]
    show (State.vs (wipeClears _ _)).reqs.length = _
    rw [wipeClears_vs]
  · rw [noHalf]
    rfl

/-! ## A VCLK without a due launch -/

theorem vclkEdges_of_runs {s : State} (runs : vclkRuns s = true) : vclkEdges s = true := by
  revert runs
  unfold vclkRuns vclkEdges
  cases s.rst.phase <;> simp

theorem exec_bankGrantCycle {s : State} (runs : vclkRuns s = true) (noLaunch : detLaunchDue s = false) :
    exec .bankGrantCycle s = .next (vclk s) := by
  have ticks : exec .bankGrantCycle s = .next (if vclkRuns s then vclk s else tickEngtime s) :=
    onlyIf_of_true (by simp [vclkEdges_of_runs runs, noLaunch])
  rw [ticks, if_pos runs]

/-- Settles O43: each outcome of a request that waits alone is a lemma about `Alone`; the write half is `grantCycle_half`, the wipe's row
`grantCycle_wiping`. -/
theorem banksServeRequests : Obligations.BanksServeRequests := by
  unfold Obligations.BanksServeRequests
  refine ⟨fun s runs noLaunch => exec_bankGrantCycle runs noLaunch, fun r s waits noHalf idle noWipe presented _ => ?alone,
    fun b h s noReq half idle noWipe => ?half, fun s pending busy rows => ?wipe⟩
  case alone =>
    have h : Alone r s := ⟨waits, noHalf, idle, noWipe, presented⟩
    refine ⟨h.served.1, h.served.2, h.refused, fun allowed op noRepair noScrub noUnlock => h.read allowed op noRepair noScrub noUnlock,
      fun c w d allowed op dest => ?_, fun d p allowed op noUnlock => ?_, fun d be p allowed op part noUnlock => h.part allowed op part noUnlock⟩
    · obtain ⟨answer, halves, mem, lock⟩ := h.unlock allowed op dest
      refine ⟨answer, halves, fun holds => ?_, fun lost => ?_, lock⟩
      · rw [mem, if_pos holds, (Memory.setWord_reads _ _ _ _).1]
      · rw [mem, if_neg (by simp [lost])]
    · obtain ⟨answer, halves, mem⟩ := h.write allowed op noUnlock
      rw [mem]
      exact ⟨answer, halves, Memory.setWord_reads _ _ _ _⟩
  case half =>
    obtain ⟨answer, halves, mem⟩ := grantCycle_half noReq half idle noWipe
    refine ⟨answer, halves, ?_⟩
    rw [mem]
    exact Memory.setWord_reads _ _ _ _
  case wipe =>
    obtain ⟨mem, row, waits, refused⟩ := grantCycle_wiping pending busy rows false
    refine ⟨row, fun none => waits ?_, refused, fun p row inBank inRow => ?_⟩
    · exact List.filter_eq_nil_iff.2 fun r there => by simp [none r (List.mem_of_mem_filter there)]
    · have key : wordKey p row % 8192 = row := by rw [wordKey]; omega
      have bank : wordKey p row / 8192 < 1024 := by rw [wordKey]; omega
      rw [mem, Memory.word_zeroRow _ rows bank, Memory.err_zeroRow _ rows bank, key]
      split <;> exact ⟨rfl, rfl⟩

end Sys2Proof.Proofs
end

section
/-! SUPPORT. The spill engine and the scheduler's switch (R50, R287 to R291, R296, R300, R304 to R307). -/

namespace Sys2Proof.Proofs

open Sys2Proof.Machine Sys2Proof.Claims Sys2Proof.Laws

/-! ## Spills (R288 to R291) -/

section
variable {c : CoreId} {level : BitVec 3} {ret : Bool} {r : EngRun} {s : State}

/-- How a spill goes on from what its store gives. -/
def spillEnds (c : CoreId) (level : BitVec 3) (ret : Bool) (r : EngRun) (s : State) : Phys Unit → Option State
  | .missing => none
  | .wait n q w wr => some (engAsk c r n q w wr s)
  | .err e _ s1 => some (retryWhen (fun h => h == .room ret || h == .seven) c (spillFails c level ret e (engSet c none s1)))
  | .ok _ s1 =>
    let b := ((engSet c (some r) s).core c).bank level
    let cells := if ret then b.rc else b.oc
    let b1 := if ret then { b with rc := cells.dropLast, rsp := b.rsp + 1 } else { b with oc := cells.dropLast, osp := b.osp + 1 }
    some (retryWhen (fun h => h == .room ret || h == .seven) c (withCore c (fun k => k.putBank level b1) (engSet c none s1)))

theorem spillGo_eq (serves : spillServes (engSet c (some r) s) c = true) (wanted : spillWanted (engSet c (some r) s) c level ret = true)
    (fits : spillFits ((engSet c (some r) s).core c) level ret = true) :
    let s0 := engSet c (some r) s
    let b := (s0.core c).bank level
    let d := spillSeg (s0.core c) level
    spillGo c level ret r s = spillEnds c level ret r s (storeCell c r.rsp d.1 d.2
      (spillOffset (segLimit d.1.2 + 1) ret (if ret then b.rsp else b.osp).toNat) (((if ret then b.rc else b.oc).getLast?).getD 0) s0) := by
  unfold spillGo
  dsimp only
  rw [if_neg (by simp [serves, wanted, fits])]
  cases storeCell c r.rsp _ _ _ _ _ <;> rfl

theorem exec_stackSpill {lv : Fin 8} {u : State} (free : (s.core c).eng = none) (kind : r.kind = .spill (BitVec.ofNat 3 lv.val) ret)
    (noGot : r.got = []) (first : r.next = 0) (noWait : r.wait = none) (goes : spillGo c (BitVec.ofNat 3 lv.val) ret r s = some u) :
    exec (.stackSpill c lv ret r.rsp) s = .next u := by
  obtain ⟨kd, rsp, got, next, wait⟩ := r
  dsimp only at kind noGot first noWait
  subst kind noGot first noWait
  show orRefuse _ (spillOne c _ ret rsp s) = _
  rw [spillOne, if_neg (by simp [free]), goes]
  rfl

/-- A bank has made the write that a spill waits for, and the spill goes on with it. -/
theorem answerEng_spill {r0 : EngRun} {g : EngAcc} {u : State} (busy : (s.core c).eng = some r0) (waits : r0.wait = some (g.word, g.wr))
    (noData : g.data = 0) (good : g.bad = false) (kind : r0.kind = .spill level ret)
    (goes : spillGo c level ret { r0 with got := r0.got ++ [g], next := 0, wait := none } s = some u) : answerEng c (.done 0) s = u := by
  obtain ⟨word, wr, data, bad⟩ := g
  obtain ⟨kd, rsp, got, next, wait⟩ := r0
  dsimp only at waits noData good kind
  subst waits noData good kind
  unfold answerEng
  rw [busy]
  exact congrArg (fun o => o.getD (engSet c none s)) goes

/-- R289, R293: what a failed spill or fill stops. -/
theorem spillFails_level (lv : Fin 8) (e : SpillErr) (t : State) : spillFails c (BitVec.ofNat 3 lv.val) ret e t =
    if lv = 7 then lockUp c 2 t else withCore c (fun k => k.rawBank (BitVec.ofNat 3 lv.val)
      (if ret then { k.bank (BitVec.ofNat 3 lv.val) with rerr := some e } else { k.bank (BitVec.ofNat 3 lv.val) with oerr := some e })) t := by
  have seven : BitVec.ofNat 3 lv.val = 7 ↔ lv = 7 := by revert lv; decide
  exact if_congr seven rfl rfl

end

/-! ## Fills (R288, R289) -/

section
variable {c : CoreId} {ret : Bool} {r : EngRun} {s : State}

/-- How a fill goes on from what its load gives. -/
def fillEnds (c : CoreId) (ret : Bool) (r : EngRun) (s : State) : Phys W64 → Option State
  | .missing => none
  | .wait n q w wr => some (engAsk c r n q w wr s)
  | .err e _ s1 => some (retryWhen (fun h => h == .cell ret) c (spillFails c ((engSet c (some r) s).core c).level ret e (engSet c none s1)))
  | .ok v s1 =>
    let b := ((engSet c (some r) s).core c).run
    let cells := if ret then b.rc else b.oc
    let b1 := if ret then { b with rc := cells ++ [v], rsp := b.rsp - 1 } else { b with oc := cells ++ [v], osp := b.osp - 1 }
    some (retryWhen (fun h => h == .cell ret) c (withCore c (fun k => k.putRun b1) (engSet c none s1)))

theorem fillGo_eq (serves : spillServes (engSet c (some r) s) c = true) (wanted : fillWanted ((engSet c (some r) s).core c) ret = true)
    (some_ : (if ret then ((engSet c (some r) s).core c).run.rsp else ((engSet c (some r) s).core c).run.osp).toNat ≠ 0)
    (noErr : (if ret then ((engSet c (some r) s).core c).run.rerr else ((engSet c (some r) s).core c).run.oerr) = none)
    (noPause : savePaused ((engSet c (some r) s).core c) = false) :
    let s0 := engSet c (some r) s
    let k := s0.core c
    let d := spillSeg k k.level
    fillGo c ret r s = fillEnds c ret r s (loadCell c r.rsp d.1 d.2
      (spillOffset (segLimit d.1.2 + 1) ret ((if ret then k.run.rsp else k.run.osp).toNat - 1)) s0) := by
  unfold fillGo
  dsimp only
  rw [if_neg (by simp [serves, wanted, some_, noErr, noPause])]
  cases loadCell c r.rsp _ _ _ _ <;> rfl

theorem exec_stackFill {rsp : List LineRsp} {u : State} (free : (s.core c).eng = none)
    (goes : fillGo c ret ⟨.fill ret, rsp, [], 0, none⟩ s = some u) : exec (.stackFill c ret rsp) s = .next u := by
  show orRefuse _ (fillOne c ret rsp s) = _
  rw [fillOne, if_neg (by simp [free]), goes]
  rfl

end

/-! ## The switch (R304, R305) -/

section
variable {c : CoreId} {r : EngRun}

/-- How a switch goes on from what the load of the incoming slot gives; `s0` is the state in which it began. -/
def loadEnds (c : CoreId) (i : Nat) (r : EngRun) (s0 : State) : Phys Unit → Option State
  | .missing => none
  | .wait n q w wr => some (engAsk c r n q w wr s0)
  | .err _ pa s1 => some (switchError c i pa s1)
  | .ok _ s1 => some (enterSlot c i (engSet c none s1))

/-- The second part of a switch: the incoming slot is loaded, or the core is idle. -/
def switchLoads (c : CoreId) (inn : Option Nat) (r : EngRun) (s0 s : State) : Option State :=
  match inn with
  | none => some (withCore c (fun k => { (k.rawBank 0 (bank0 0)) with st := .idle, lockRes := none, eng := none }) s)
  | some i => loadEnds c i r s0 (loadSlot c r.rsp ((s.core c).sched.at i) s)

/-- How a switch goes on from what the save of the outgoing slot gives. -/
def saveEnds (c : CoreId) (o : Nat) (inn : Option Nat) (r : EngRun) (s0 : State) : Phys Unit → Option State
  | .missing => none
  | .wait n q w wr => some (engAsk c r n q w wr s0)
  | .err _ pa s1 => some (switchError c o pa s1)
  | .ok _ s1 => switchLoads c inn r s0 s1

theorem switchGo_none (inn : Option Nat) (s : State) : switchGo c none inn r s = switchLoads c inn r s (engSet c (some r) s) := by
  cases inn with
  | none => rfl
  | some i =>
    simp only [switchGo, switchLoads]
    cases loadSlot c r.rsp _ _ <;> rfl

theorem switchGo_some (o : Nat) (inn : Option Nat) (s : State) : switchGo c (some o) inn r s =
    saveEnds c o inn r s (saveSlot c r.rsp (((engSet c (some r) s).core c).sched.at o) (engSet c (some r) s)) := by
  unfold switchGo
  dsimp only
  cases saveSlot c r.rsp _ _ with
  | ok u s1 =>
    cases inn with
    | none => rfl
    | some i =>
      simp only [saveEnds, switchLoads]
      cases loadSlot c r.rsp _ _ <;> rfl
  | _ => rfl

end

section
variable {c : CoreId} {hdr : BitVec 8} {rsp : List LineRsp} {s : State} (runs : dclkRuns s c = true) (en : (s.core c).sched.en = true)
  (thawed : schedFrozen s = false) (drained : (s.core c).sb = []) (armed : (s.core c).sched.arm = false) (free : (s.core c).eng = none)
  (calm : (s.evc.get c).active = 0)
include runs en thawed drained armed free calm

/-- R304, R306: where a switch may begin, what the core does decides which. -/
theorem taskSwitchNow_eq : taskSwitchNow c hdr rsp s = match (s.core c).st with
    | .idle => (s.core c).sched.bestReady.bind (fun i => switchStart c none (some i) rsp s)
    | .switching => switchStart c (some (s.core c).sched.out.toNat) (s.core c).sched.bestReady rsp s
    | _ =>
      if interruptible (s.core c) && asyncAllowed s c && (s.core c).level == 0 && (s.core c).run.oc.length ≤ 32 && (s.core c).run.rc.length ≤ 32 then
        (s.core c).sched.runningSlot.bind (fun o => (s.core c).sched.bestReady.bind (fun i =>
          if ((s.core c).sched.at i).pri.toNat > ((s.core c).sched.at o).pri.toNat then switchFrom c hdr o i rsp s else none))
      else none := by
  have settled : settleArm c s = s := if_neg (by simp [armed])
  unfold taskSwitchNow
  rw [settled]
  dsimp only
  rw [if_neg (by simp [runs]), if_neg (by simp [free]), if_neg (by simp [en, thawed, drained, calm])]
  cases (s.core c).st <;> cases (s.core c).sched.bestReady <;> cases (s.core c).sched.runningSlot <;> rfl

theorem taskSwitchNow_idle {i : Nat} (idle : (s.core c).st = .idle) (best : (s.core c).sched.bestReady = some i) :
    taskSwitchNow c hdr rsp s = switchStart c none (some i) rsp s := by
  rw [taskSwitchNow_eq runs en thawed drained armed free calm, idle, best]
  rfl

theorem taskSwitchNow_switching (switching : (s.core c).st = .switching) :
    taskSwitchNow c hdr rsp s = switchStart c (some (s.core c).sched.out.toNat) (s.core c).sched.bestReady rsp s := by
  rw [taskSwitchNow_eq runs en thawed drained armed free calm, switching]

theorem taskSwitchNow_running {o i : Nat} (running : (s.core c).st = .running) (allowed : asyncAllowed s c = true) (level : (s.core c).level = 0)
    (oc : (s.core c).run.oc.length ≤ 32) (rc : (s.core c).run.rc.length ≤ 32) (slot : (s.core c).sched.runningSlot = some o)
    (best : (s.core c).sched.bestReady = some i) (higher : ((s.core c).sched.at o).pri < ((s.core c).sched.at i).pri) :
    taskSwitchNow c hdr rsp s = switchFrom c hdr o i rsp s := by
  rw [taskSwitchNow_eq runs en thawed drained armed free calm, running]
  dsimp only
  rw [if_pos (by simp [interruptible, running, allowed, level, oc, rc]), slot, best]
  exact if_pos higher

end

/-- R306, R309: a switch in which the running slot gives way to a READY slot of higher priority. -/
theorem switchFrom_unchecked {c : CoreId} {s : State} (noChk : (s.core c).chk = none) (hdr : BitVec 8) (o i : Nat) (rsp : List LineRsp) :
    switchFrom c hdr o i rsp s = switchStart c (some o) (some i) rsp (setCore c { s.core c with
      sched := { (s.core c).sched.put o { (s.core c).sched.at o with
        st := .ready, pc := (s.core c).saved.epc, rpend := (s.core c).saved.rpend, chk := none } with
          slot := BitVec.ofNat 3 o, out := BitVec.ofNat 3 o }
      held := none } s) := by
  have passes : chkFails (s.core c) hdr = none := by rw [chkFails, noChk]
  rw [switchFrom, passes]

/-! ## Entering a slot -/

theorem Sched.at_put_same (d : Sched) (i : Nat) (t : TSlot) : (d.put i t).at i = t := Tab.get_set_same _ _ _ _

theorem Sched.at_put_other (d : Sched) {i j : Nat} (t : TSlot) (other : j ≠ i) : (d.put i t).at j = d.at j := Tab.get_set_other _ _ _ _ _ _ other

/-! ## The READY slot that R304 prefers -/

/-- One slot of the search for the READY slot of the highest priority. -/
def betterReady (d : Sched) (best : Option Nat) (i : Nat) : Option Nat :=
  if (d.at i).st = .ready then (match best with
    | none => some i
    | some b => if (d.at i).pri.toNat > (d.at b).pri.toNat then some i else some b)
  else best

theorem bestReady_eq (d : Sched) : d.bestReady = (List.range 8).foldl (betterReady d) none := rfl

/-- `best` is the lowest-numbered of the READY slots of the highest priority below `n`. -/
def BestBelow (d : Sched) (n : Nat) : Option Nat → Prop
  | none => ∀ j < n, (d.at j).st ≠ .ready
  | some i => (d.at i).st = .ready ∧ i < n ∧
    ∀ j < n, (d.at j).st = .ready → (d.at j).pri.toNat ≤ (d.at i).pri.toNat ∧ ((d.at j).pri.toNat = (d.at i).pri.toNat → i ≤ j)

theorem BestBelow.next {d : Sched} {n : Nat} {best : Option Nat} (h : BestBelow d n best) : BestBelow d (n + 1) (betterReady d best n) := by
  unfold betterReady
  by_cases ready : (d.at n).st = .ready
  · rw [if_pos ready]
    cases best with
    | none =>
      refine ⟨ready, Nat.lt_succ_self n, fun j hj jReady => ?_⟩
      have last : j = n := Nat.eq_of_lt_succ_of_not_lt hj fun before => h j before jReady
      subst last
      exact ⟨le_refl _, fun _ => le_refl _⟩
    | some i =>
      obtain ⟨iReady, below, beats⟩ := h
      dsimp only
      split
      case isTrue higher =>
        refine ⟨ready, Nat.lt_succ_self n, fun j hj jReady => ?_⟩
        rcases Nat.lt_succ_iff_lt_or_eq.1 hj with before | rfl
        · have := (beats j before jReady).1
          exact ⟨by omega, by omega⟩
        · exact ⟨le_refl _, fun _ => le_refl _⟩
      case isFalse notHigher =>
        refine ⟨iReady, by omega, fun j hj jReady => ?_⟩
        rcases Nat.lt_succ_iff_lt_or_eq.1 hj with before | rfl
        · exact beats j before jReady
        · exact ⟨by omega, fun _ => by omega⟩
  · rw [if_neg ready]
    cases best with
    | none =>
      intro j hj
      rcases Nat.lt_succ_iff_lt_or_eq.1 hj with before | rfl
      · exact h j before
      · exact ready
    | some i =>
      obtain ⟨iReady, below, beats⟩ := h
      refine ⟨iReady, by omega, fun j hj jReady => ?_⟩
      rcases Nat.lt_succ_iff_lt_or_eq.1 hj with before | rfl
      · exact beats j before jReady
      · exact absurd jReady ready

theorem bestBelow_foldl (d : Sched) (n : Nat) : BestBelow d n ((List.range n).foldl (betterReady d) none) := by
  induction n with
  | zero => exact fun j hj => absurd hj (Nat.not_lt_zero j)
  | succ n ih =>
    rw [List.range_succ, List.foldl_append]
    exact ih.next

/-- Settles O49: each operation's end is what its `Ends` definition makes of its store, load or save, as `spillGo_eq`, `fillGo_eq`,
`switchGo_none` and `switchGo_some` say; the choice of a slot is `bestBelow_foldl`. -/
theorem spillsAndSwitches : Obligations.SpillsAndSwitches := by
  unfold Obligations.SpillsAndSwitches
  refine ⟨?spill, ?fill, ?switch, ?enter, ?best⟩
  case spill =>
    intro c level ret r s lv s0 k b cells count d size store again kind serves wanted inSegment inCount gives
    have fits : spillFits k lv ret = true := by simp only [spillFits, Bool.and_eq_true, decide_eq_true_eq]; exact ⟨inSegment, inCount⟩
    have goes : ∀ {u : State}, spillEnds c lv ret r s store = some u → gives u := by
      intro u ends
      have go : spillGo c lv ret r s = some u := (spillGo_eq serves wanted fits).trans ends
      refine ⟨fun free noGot first noWait => exec_stackSpill free kind noGot first noWait go, fun r0 g busy waits noData good same => ?_⟩
      subst same
      exact answerEng_spill busy waits noData good kind go
    refine ⟨fun u s1 stored => ?_, fun n q w wr waits => ?_, fun e pa s1 fails => ?_⟩
    · exact goes (by rw [stored]; rfl)
    · exact goes (by rw [waits]; rfl)
    · exact goes (by rw [fails, spillEnds, spillFails_level])
  case fill =>
    intro c ret rsp s r s0 k b cells count d size load again free serves wanted spilled noErr noPause
    have goes : ∀ {u : State}, fillEnds c ret r s load = some u → exec (.stackFill c ret rsp) s = .next u := by
      intro u ends
      have place : loadCell c r.rsp d.1 d.2 (spillOffset size ret (count - 1)) s0 = load := by
        rw [spillOffset, Nat.sub_add_cancel (Nat.one_le_iff_ne_zero.2 spilled)]
      exact exec_stackFill free ((fillGo_eq serves wanted spilled noErr noPause).trans ((congrArg (fillEnds c ret r s) place).trans ends))
    refine ⟨fun v s1 loaded => ?_, fun n q w wr waits => ?_, fun e pa s1 fails => ?_⟩
    · exact goes (by rw [loaded]; rfl)
    · exact goes (by rw [waits]; rfl)
    · exact goes (by rw [fails]; rfl)
  case switch =>
    intro c hdr rsp s runs en thawed drained armed free calm o k goes
    have starts : ∀ (out inn : Option Nat) (u : State), taskSwitchNow c hdr rsp s = switchStart c out inn rsp u → goes out inn u := by
      intro out inn u chosen
      have begun : o = orRefuse "the scheduler makes no switch now" (switchStart c out inn rsp u) := congrArg (orRefuse _) chosen
      unfold goes
      intro r u1 u2 enters
      rw [switchStart] at begun
      have loads : ∀ v, o = orRefuse "the scheduler makes no switch now" (switchLoads c inn r u1 v) → enters v := by
        intro v goesOn
        cases inn with
        | none => exact goesOn
        | some i =>
          refine ⟨fun x s1 loaded => ?_, fun n q w wr waits => ?_, fun e pa s1 fails => ?_⟩
          · rw [goesOn, switchLoads, loaded]; rfl
          · rw [goesOn, switchLoads, waits]; rfl
          · rw [goesOn, switchLoads, fails]; rfl
      cases out with
      | none => exact loads u2 (begun.trans (congrArg _ (switchGo_none _ _)))
      | some i =>
        rw [switchGo_some] at begun
        refine ⟨fun x s1 saved => loads s1 ?_, fun n q w wr waits => ?_, fun e pa s1 fails => ?_⟩
        · rw [begun, saved]; rfl
        · rw [begun, waits]; rfl
        · rw [begun, fails]; rfl
    refine ⟨fun idle i best => starts none (some i) s ?_,
      fun switching => starts (some k.sched.out.toNat) k.sched.bestReady s ?_,
      fun running allowed level oc rc noChk out i slot best higher => ?_⟩
    · exact taskSwitchNow_idle runs en thawed drained armed free calm idle best
    · exact taskSwitchNow_switching runs en thawed drained armed free calm switching
    · have chosen := taskSwitchNow_running (hdr := hdr) (rsp := rsp) runs en thawed drained armed free calm running allowed level oc rc slot
        best higher
      rw [switchFrom_unchecked noChk] at chosen
      exact starts (some out) (some i) _ chosen
  case enter =>
    intro c i s hi t k
    have entered : k = _ := core_withCore _ _ _
    rw [entered]
    refine ⟨rfl, rfl, rfl, rfl, rfl, rfl, rfl, ?_, ?_, fun j other => Sched.at_put_other _ _ other, rfl⟩
    · exact (BitVec.toNat_ofNat i 3).trans (Nat.mod_eq_of_lt hi)
    · exact congrArg TSlot.st (Sched.at_put_same _ _ _)
  case best =>
    intro d i best
    have found := bestBelow_foldl d 8
    rw [← bestReady_eq, best] at found
    obtain ⟨ready, low, beats⟩ := found
    exact ⟨ready, low, fun j hj jReady => (beats j hj jReady).imp_right fun ties same => ties (congrArg BitVec.toNat same)⟩

end Sys2Proof.Proofs
end

section
/-! SUPPORT. The way of a chain from its issue queue to launch: program reads, checks, triggers and launch
(R88, R146 to R148, R151 to R153, R156, R166, R372). -/

namespace Sys2Proof.Proofs

open Sys2Proof.Machine Sys2Proof.Claims Sys2Proof.Laws

/-! ## Entries, launch slots, and what a trace packet leaves alone -/

@[simp] theorem entry_setEntry (c : CoreId) (e : Fin 8) (q : QEntry) (s : State) : (setEntry c e q s).entry c e = q := by
  simp [State.entry]

@[simp] theorem chain_setChain (i : Fin 4) (ch : Chain) (s : State) : (setChain i ch s).chain i = some ch := Quad.get_set_same _ _ _

theorem chain_setChain_other {i j : Fin 4} (ch : Chain) (s : State) (other : j ≠ i) : (setChain i ch s).chain j = s.chain j :=
  Quad.get_set_other _ _ _ _ other

/-! ## One line of a program (R148, R156) -/

section
variable {q : QEntry} {i : Nat} {rsp : List LineRsp} {s : State}

/-- Where no header is kept from an earlier read, a line on TFP or EMP is its response, as the cores' caches leave it. -/
theorem readProgLine_ext {line : Nat} {l : BitVec 46} {d : Line} (noHdr : i = 0 → q.hdr = []) (src : progSrc s q i = .ext line)
    (came : rsp.find? (fun r => r.line.toNat == line) = some ⟨l, .okay, d⟩) :
    readProgLine q i rsp s = .words (lineWords (coherentLine s line .okay d)) := by
  rw [readProgLine, if_neg (by simpa using noHdr), src]
  dsimp only
  rw [came]

/-- Where no header is kept, a line in the Vector Store is the words that PX has brought. -/
theorem readProgLine_vs {w0 addr : Nat} {isWord : Bool} (noHdr : i = 0 → q.hdr = []) (src : progSrc s q i = .vs w0 addr isWord) :
    readProgLine q i rsp s = gotProgWords q i addr isWord w0 (List.range 8) [] := by
  rw [readProgLine, if_neg (by simpa using noHdr), src]

theorem gotProgWords_clean {addr w0 : Nat} {isWord : Bool} {x : Nat → W64} (js : List Nat) (acc : List W64)
    (came : ∀ j ∈ js, q.got.find? (fun g => g.1 == 8 * i + j) = some (8 * i + j, some ⟨x j, false⟩)) :
    gotProgWords q i addr isWord w0 js acc = .words (acc ++ js.map x) := by
  induction js generalizing acc with
  | nil => simp [gotProgWords]
  | cons j js ih =>
    rw [gotProgWords, came j List.mem_cons_self]
    simpa using ih (acc ++ [x j]) fun k hk => came k (List.mem_cons_of_mem j hk)

/-- A refused first word ends the read of a line with ETGT. -/
theorem gotProgWords_refused {addr w0 : Nat} {isWord : Bool} (js : List Nat) (acc : List W64)
    (refused : q.got.find? (fun g => g.1 == 8 * i) = some (8 * i, none)) :
    gotProgWords q i addr isWord w0 (0 :: js) acc = .fail .etgt (if isWord then w0 else addr) isWord := by
  simp [gotProgWords, refused]

/-- A poisoned first word ends the read of a line with EPOI. -/
theorem gotProgWords_poisoned {addr w0 : Nat} {isWord : Bool} {d : W64} (js : List Nat) (acc : List W64)
    (poisoned : q.got.find? (fun g => g.1 == 8 * i) = some (8 * i, some ⟨d, true⟩)) :
    gotProgWords q i addr isWord w0 (0 :: js) acc = .fail .epoi (if isWord then w0 else addr) isWord := by
  simp [gotProgWords, poisoned]

end

/-! ## A whole program (R148) -/

section
variable {c : CoreId} {e : Fin 8} {rsp : List LineRsp} {s : State}

/-- VORs whose lines have come are read, and the read goes on behind them. -/
theorem readVors_append {q : QEntry} {w : Nat → List W64} (vs rest : List Nat) (acc : List Vor)
    (came : ∀ v ∈ vs, readProgLine q (v + 1) rsp s = .words (w (v + 1))) :
    readVors q rsp s (vs ++ rest) acc = readVors q rsp s rest (acc ++ vs.map (fun v => vorOf (w (v + 1)))) := by
  induction vs generalizing acc with
  | nil => simp
  | cons v vs ih =>
    rw [List.cons_append, readVors, came v List.mem_cons_self]
    simpa using ih (acc ++ [vorOf (w (v + 1))]) fun u hu => came u (List.mem_cons_of_mem v hu)

theorem readVors_all {q : QEntry} {w : Nat → List W64} {n : Nat} (came : ∀ i ≤ n, readProgLine q i rsp s = .words (w i)) :
    readVors q rsp s (List.range n) [] = .inl ((List.range n).map (fun v => vorOf (w (v + 1)))) := by
  have all := readVors_append (List.range n) [] [] fun v hv => came (v + 1) (List.mem_range.1 hv)
  rwa [List.append_nil] at all

/-- The first line that cannot be had ends the read. -/
theorem readVors_fails {q : QEntry} {w : Nat → List W64} {v n addr : Nat} {code : RspCode} {isWord : Bool} (below : v < n)
    (came : ∀ i ≤ v, readProgLine q i rsp s = .words (w i)) (fails : readProgLine q (v + 1) rsp s = .fail code addr isWord) :
    readVors q rsp s (List.range n) [] = .inr (v, .fail code addr isWord) := by
  obtain ⟨k, rfl⟩ : ∃ k, n = v + (k + 1) := ⟨n - v - 1, by omega⟩
  rw [List.range_add, readVors_append _ _ _ fun u hu => came (u + 1) (List.mem_range.1 hu), List.range_succ_eq_map, List.map_cons, readVors,
    Nat.add_zero, fails]
  rfl

/-- R148: every line that the header names has come. A header that names none, or more than 16, is all that is read. -/
theorem readProgram_words {w : Nat → List W64}
    (came : ∀ i ≤ (if 16 < hNvor (w 0) then 0 else hNvor (w 0)), readProgLine (s.entry c e) i rsp s = .words (w i)) :
    readProgram c e rsp s = some (setEntry c e { s.entry c e with
      stage := .read, hdr := w 0
      vors := if hNvor (w 0) = 0 ∨ 16 < hNvor (w 0) then [] else (List.range (hNvor (w 0))).map (fun v => vorOf (w (v + 1))) } s) := by
  rw [readProgram]
  dsimp only
  rw [came 0 (Nat.zero_le _)]
  dsimp only
  by_cases short : hNvor (w 0) = 0 ∨ hNvor (w 0) > 16
  · rw [if_pos short, if_pos short]
  · rw [if_neg (by omega)] at came
    rw [if_neg short, if_neg short, readVors_all came]

theorem readProgram_headerFails {addr : Nat} {code : RspCode} {isWord : Bool}
    (fails : readProgLine (s.entry c e) 0 rsp s = .fail code addr isWord) :
    readProgram c e rsp s =
      some (setEntry c e { s.entry c e with stage := .readFailed ⟨0x10, code, BitVec.ofNat 52 addr, isWord⟩ } s) := by
  rw [readProgram]
  dsimp only
  rw [fails]
  rfl

theorem readProgram_vorFails {w : Nat → List W64} {v addr : Nat} {code : RspCode} {isWord : Bool} (below : v < hNvor (w 0))
    (few : hNvor (w 0) ≤ 16) (came : ∀ i ≤ v, readProgLine (s.entry c e) i rsp s = .words (w i))
    (fails : readProgLine (s.entry c e) (v + 1) rsp s = .fail code addr isWord) :
    readProgram c e rsp s =
      some (setEntry c e { s.entry c e with stage := .readFailed ⟨v, code, BitVec.ofNat 52 addr, isWord⟩, hdr := w 0 } s) := by
  rw [readProgram]
  dsimp only
  rw [came 0 (Nat.zero_le _)]
  dsimp only
  rw [if_neg (by omega), readVors_fails below came fails]
  rfl

theorem exec_chainProgramRead {u : State} (unread : nextToRead c s = some e) (runs : vclkRuns s = true)
    (read : readProgram c e rsp s = some u) : exec (.chainProgramRead c rsp) s = .next u := by
  show execChainProgramRead c rsp s = _
  rw [execChainProgramRead, unread]
  dsimp only
  rw [if_neg (by simp [runs]), read]
  rfl

end

/-! ## The requests of PX (R50, R148) -/

/-- A tile that is in no pair holds every word itself. -/
theorem homeWord_alone {s : State} (alone : s.role.fused = false) (w : Nat) : homeWord s w = some w := by
  rw [homeWord, if_neg (by simp [alone])]

/-- Where each step presents one request, as long as the tile is in no pair, all steps present their requests in order. -/
theorem foldl_present {act : State → Nat → State} {req : Nat → BankReq}
    (one : ∀ (s : State) (j : Nat), s.role.fused = false → act s j = present [req j] s) (js : List Nat) {s : State}
    (alone : s.role.fused = false) : js.foldl act s = present (js.map req) s := by
  induction js generalizing s with
  | nil => simp [present, setVs]
  | cons j js ih =>
    rw [List.foldl_cons, one s j alone, ih (s := present [req j] s) alone]
    simp [present, setVs]

theorem presentProg_vs {c : CoreId} {e : Fin 8} {i w0 addr : Nat} {isWord : Bool} {s : State} (unread : nextToRead c s = some e)
    (alone : s.role.fused = false) (noneWaits : ∀ r ∈ s.vs.reqs, ∀ j, r.dest ≠ .prog c e j)
    (next : nextProgLine (s.entry c e) s = some i) (src : progSrc s (s.entry c e) i = .vs w0 addr isWord) :
    presentProg c s =
      present ((List.range 8).map (fun j => bankReq 12 (w0 + j) .read ((s.entry c e).cap.priv == 2) (.prog c e (8 * i + j)))) s := by
  unfold presentProg
  rw [unread]
  dsimp only
  rw [if_neg ?idle, next]
  case idle =>
    simp only [List.any_eq_true, not_exists, not_and]
    intro r there waits
    split at waits
    · rename_i c' e' j dest
      simp only [Bool.and_eq_true, beq_iff_eq] at waits
      obtain ⟨rfl, rfl⟩ := waits
      exact noneWaits r there j dest
    · exact absurd waits Bool.false_ne_true
  dsimp only
  rw [src]
  exact foldl_present (fun s j alone => by rw [homeWord_alone alone]) _ alone

/-! ## Checks (R88, R146, R147, R153) -/

section
variable {c : CoreId} {e : Fin 8} {s : State}

theorem exec_chainCheck (runs : vclkRuns s = true) (arrived : groupArrived c s = true) :
    exec (.chainCheck c) s = .next (wakeRecords (checkHead c s)) := onlyIf_of_true (by simp [runs, arrived])

/-- A lone chain that passes its checks is ready to launch. -/
theorem checkHead_passes (head : headGroup c s = [e]) (own : ownCheck s true (s.entry c e) = none)
    (formed : groupMalformed [s.entry c e] = false) : checkHead c s = setEntry c e { s.entry c e with stage := .ready } s := by
  simp [checkHead, head, own, formed]

/-- A lone chain that fails is rejected with what its own check names. -/
theorem checkHead_fails {vorx cause : Nat} (head : headGroup c s = [e]) (own : ownCheck s true (s.entry c e) = some (vorx, cause)) :
    checkHead c s = rejectChain c e vorx cause s := by
  simp [checkHead, head, own]

/-- A final record enters the status of a chain that has none yet, and whose core still owns it (R249, R470). -/
theorem deliverStatus_final {q : QEntry} (r : StatusRec) (open_ : q.final = false) (owned : q.orphan = false) (s : State) :
    deliverStatus c e r true (setEntry c e q s) = setEntry c e { q with record := some r, final := true } (setEntry c e q s) := by
  simp [deliverStatus, open_, owned]

/-- A log record without MCHK changes the log alone (R552). -/
theorem logRecord_quiet (kind unit : Nat) (addr : BitVec 52) (detail : W64) (s : State) :
    ∃ l, logRecord kind unit addr detail false s = { s with log := l } := ⟨_, rfl⟩

/-- The entry of a rejected chain: out of the engine, with its final REJECTED record (R88, R155). -/
def rejectedEntry (vorx cause : Nat) (q : QEntry) : QEntry :=
  { q with
    stage := .gone, final := true
    record := some (mkStatus stRejected false vorx (BitVec.ofNat 8 cause) 0 (hTag q.hdr) 0 0 0) }

/-- R88, R155: a rejected chain leaves its queue with a final REJECTED record; around that only the log, the event sources, the cores'
schedulers, the power-state controller and the trace change. -/
theorem rejectChain_form (vorx cause : Nat) (open_ : (s.entry c e).final = false) (owned : (s.entry c e).orphan = false) :
    ∃ l ev cores pwr w, rejectChain c e vorx cause s =
      { setEntry c e (rejectedEntry vorx cause (s.entry c e)) (setEntry c e { s.entry c e with stage := .gone } s) with
        eng := { s.eng with rejectT := s.eng.rejectT.set c (some s.eng.time) }, iq := s.iq.set c ((s.iq.get c).erase e)
        log := l, ev := ev, cores := cores, pwr := pwr, weado := w } := by
  have told : ∃ l, rejectChain c e vorx cause s = traceChdone (hTag (s.entry c e).hdr) stRejected 0 (arrive (srcChainDone c e)
      { setEntry c e (rejectedEntry vorx cause (s.entry c e)) (setEntry c e { s.entry c e with stage := .gone } s) with
        eng := { s.eng with rejectT := s.eng.rejectT.set c (some s.eng.time) }, iq := s.iq.set c ((s.iq.get c).erase e), log := l }) := by
    unfold rejectChain
    dsimp only
    split
    · generalize logs : logRecord _ _ _ _ false s = s1
      obtain ⟨l, rfl⟩ : ∃ l, s1 = { s with log := l } := logs ▸ logRecord_quiet _ _ _ _ s
      rw [deliverStatus_final (q := { s.entry c e with stage := .gone }) _ open_ owned]
      exact ⟨l, rfl⟩
    · rw [deliverStatus_final (q := { s.entry c e with stage := .gone }) _ open_ owned]
      exact ⟨s.log, rfl⟩
  obtain ⟨l, told⟩ := told
  generalize left : ({ setEntry c e _ _ with eng := _, iq := _, log := l } : State) = s1 at told
  obtain ⟨ev, cores, pwr, arrives⟩ := arrive_form (srcChainDone c e) s1
  obtain ⟨w, traced⟩ := trace_cores 6 4 (bytesLE (hTag (s.entry c e).hdr).toNat 4 ++ [BitVec.ofNat 8 stRejected, 0])
    (arrive (srcChainDone c e) s1)
  refine ⟨l, ev, cores, pwr, w, told.trans (traced.trans ?_)⟩
  rw [arrives, ← left]

/-- R153: a chain that has been rejected leaves the head for one VCLK. -/
theorem headGroup_rejected (rejected : s.eng.rejectT.get c = some s.eng.time) : headGroup c s = [] := by
  unfold headGroup
  split
  · rfl
  · simp [headShown, rejected]

end

/-! ## Triggers (R372) -/

theorem canConsume_iff {c : CoreId} {e : Fin 8} {s : State} : canConsume c e s = true ↔
    e ∈ headGroup c s ∧ (s.entry c e).stage = .ready ∧ hTen (s.entry c e).hdr = true ∧ (s.entry c e).trig = false ∧
      (Tab.get evSrc0 s.ev (hTsrc (s.entry c e).hdr)).trgcnt ≠ 0 ∧
      ∀ x ∈ (headGroup c s).takeWhile (fun x => x != e), hTen (s.entry c x).hdr = false ∨ (s.entry c x).trig = true ∨
        hTsrc (s.entry c x).hdr ≠ hTsrc (s.entry c e).hdr := by
  simp [canConsume, and_assoc, or_assoc]

theorem exec_triggerConsume {c : CoreId} {e : Fin 8} {s : State} (up : upRuns s = true) (runs : vclkRuns s = true)
    (arrived : canConsume c e s = true) : exec (.triggerConsume c e) s = .next (consumeTrigger c e s) :=
  onlyIf_of_true (by simp [up, runs, arrived])

/-! ## Launch (R151, R152, R166) -/

section
variable {c : CoreId} {s : State}

theorem exec_chainLaunch (runs : vclkRuns s = true) (free : launchHeld s = false) (thawed : engFrozen s = false)
    (first : launchedNow s = false) (next : nextLauncher s = some c) : exec .chainLaunch s = .next (launchGroup c s) := by
  show execChainLaunch s = _
  rw [execChainLaunch, if_neg (by simp [runs, free, thawed, first]), next]
  rfl

theorem exec_chainLaunch_again (launched : launchedNow s = true) : ∃ why, exec .chainLaunch s = .refused why :=
  ⟨_, if_pos (by simp [launched])⟩

/-- A head that R152 chooses meets the conditions of R151. -/
theorem launchable_of_nextLauncher (next : nextLauncher s = some c) : launchable c s = true :=
  List.find?_some (p := fun c => launchable c s) next

/-- The conditions of R151 for a chain alone at the head. -/
theorem launchable_alone {e : Fin 8} (head : headGroup c s = [e]) (ok : launchable c s = true) :
    (s.entry c e).stage = .ready ∧ (flying s).length + 1 ≤ 4 ∧ pipesHeld s &&& hPipes (s.entry c e).hdr = 0 ∧
      (hTen (s.entry c e).hdr = true → (s.entry c e).trig = true) ∧ pipeCount (pipesHeld s ||| hPipes (s.entry c e).hdr) ≤ pipeLimit s ∧
      detTimeOk s (s.entry c e) = true := by
  simp only [launchable, head, List.map_cons, List.map_nil, List.all_cons, List.all_nil, List.foldl_cons, List.foldl_nil, List.isEmpty_cons,
    List.length_singleton, Nat.zero_or, Bool.not_false, Bool.true_and, Bool.and_true, Bool.and_eq_true, Bool.or_eq_true, Bool.not_eq_true',
    beq_iff_eq, decide_eq_true_eq, and_assoc] at ok
  obtain ⟨ready, room, apart, -, -, triggered, timely, -, within⟩ := ok
  exact ⟨ready, room, apart, fun linked => triggered.resolve_left (by simp [linked]), within, timely⟩

/-- R166: in deterministic mode a trigger-linked launch waits 2 VCLK after the pulse (the model's timing, notes/assumptions/49.md). -/
theorem detTimeOk_waits {q : QEntry} (ok : detTimeOk s q = true) (det : s.eng.detAct = true) (linked : hTen q.hdr = true) {p : W64}
    (pulse : q.trigAt = some p) : 2 ≤ (s.eng.time - p).toNat := by
  simpa [detTimeOk, det, linked, pulse] using ok

/-- A lone chain takes the first free slot and leaves its queue; around that only the trace and the pair link change before chain time 0
is entered. -/
theorem launchGroup_alone {e : Fin 8} {slot : Fin 4} {free : List (Fin 4)} {ch : Chain} (head : headGroup c s = [e])
    (slots : freeSlots s = slot :: free)
    (takes : newChain s c e false (s.entry c e).hdr (s.entry c e).vors (s.entry c e).cap [slot] = ch) :
    ∃ w p, launchGroup c s = enterTime slot { setEntry c e { s.entry c e with stage := .gone } s with
      iq := s.iq.set c ((s.iq.get c).erase e)
      eng := { s.eng with
        slots := s.eng.slots.set slot (some ch), launch := s.eng.launch.bump 1, lastCore := coreNum s c, lastLaunch := some s.eng.time }
      weado := w, pair := p } := by
  unfold launchGroup
  rw [head, slots]
  dsimp only [List.length_cons, List.length_nil, List.take_succ_cons, List.take_zero, List.zip_cons_cons, List.zip_nil_left,
    List.foldl_cons, List.foldl_nil]
  rw [traceLaunch, takes]
  generalize took : ({ setEntry c e _ _ with iq := _ } : State) = s1
  obtain ⟨w, traced⟩ := trace_cores 5 4 (bytesLE (hTag ch.hdr).toNat 4 ++ [BitVec.ofNat 8 (c.val + 4 * e.val)]) s1
  obtain ⟨p, sent⟩ := sendPair_form (.launch ([e].map (fun e => peerProgOf c (s.entry c e)))) (setEng { s1.eng with
    launch := s1.eng.launch.bump 1, lastCore := coreNum s c, lastLaunch := some s.eng.time } { s1 with weado := w })
  refine ⟨w, p, ?_⟩
  rw [traced]
  refine congrArg (enterTime slot) (sent.trans ?_)
  rw [← took]
  rfl

/-- What a launch that is due in deterministic mode finds: nothing holds it, and a head can launch or a trigger can be consumed. -/
theorem detLaunchDue_finds (due : detLaunchDue s = true) : launchHeld s = false ∧ engFrozen s = false ∧ launchedNow s = false ∧
    ((∃ c, nextLauncher s = some c) ∨ ∃ c e, canConsume c e s = true) := by
  unfold detLaunchDue at due
  simp only [Bool.and_eq_true, Bool.not_eq_true', Bool.or_eq_true] at due
  obtain ⟨⟨⟨⟨-, free⟩, thawed⟩, first⟩, linked | pulsed⟩ := due
  · refine ⟨free, thawed, first, .inl ?_⟩
    cases next : nextLauncher s with
    | none => simp [next] at linked
    | some c => exact ⟨c, rfl⟩
  · simp only [List.any_eq_true, Bool.and_eq_true] at pulsed
    obtain ⟨c, -, e, -, arrived, -⟩ := pulsed
    exact ⟨free, thawed, first, .inr ⟨c, e, arrived⟩⟩

/-- While nothing holds launches, UP is set. -/
theorem upRuns_of_free (runs : vclkRuns s = true) (free : launchHeld s = false) : upRuns s = true := by
  simp only [vclkRuns, Bool.and_eq_true] at runs
  simp only [launchHeld, Bool.or_eq_false_iff, bne_eq_false_iff_eq] at free
  obtain ⟨⟨hub, -⟩, -⟩ := runs
  obtain ⟨-, up⟩ := free
  simp [upRuns, hub, up]

theorem exec_bankGrantCycle_due (runs : vclkRuns s = true) (due : detLaunchDue s = true) : ∃ why, exec .bankGrantCycle s = .refused why :=
  ⟨_, if_neg (by simp [runs, due])⟩

end

/-! ## From the queue to launch -/

/-- Settles O44: the program read, the check and the launch of a chain alone at its head are each an equation above for the command, and
each clause reads its facts off that equation. How a program's words are read, that a qualification pass holds launches, and when a
trigger-linked launch falls are the model's choices (notes/assumptions/17.md, 18.md and 49.md). -/
theorem chainsReachLaunch : Obligations.ChainsReachLaunch := by
  unfold Obligations.ChainsReachLaunch
  refine ⟨?program, fun q i line rsp l d s noHdr src came => readProgLine_ext noHdr src came, ?stored, ?requests, ?check,
    fun c s => headGroup_rejected, ?trigger, fun s => exec_chainLaunch_again, ?due, ?launch⟩
  case program =>
    intro c e w rsp s unread runs q n
    exact ⟨fun came => exec_chainProgramRead unread runs (readProgram_words came),
      fun code addr isWord fails => exec_chainProgramRead unread runs (readProgram_headerFails fails),
      fun v code addr isWord below few came fails => exec_chainProgramRead unread runs (readProgram_vorFails below few came fails)⟩
  case stored =>
    intro q i w0 addr isWord rsp s noHdr src
    rw [readProgLine_vs noHdr src]
    exact ⟨fun x came => gotProgWords_clean (List.range 8) [] fun j hj => came j (List.mem_range.1 hj),
      gotProgWords_refused _ [], fun d => gotProgWords_poisoned _ []⟩
  case requests =>
    intro c e i w0 addr isWord s unread alone noneWaits next src
    exact presentProg_vs unread alone noneWaits next src
  case check =>
    intro c e s runs arrived head
    rw [exec_chainCheck runs arrived]
    refine ⟨fun own formed => by rw [checkHead_passes head own formed], fun vorx cause own open_ owned => ?_⟩
    obtain ⟨l, ev, cores, pwr, w, rejects⟩ := rejectChain_form vorx cause open_ owned
    have entry : (rejectChain c e vorx cause s).entry c e = rejectedEntry vorx cause (s.entry c e) := by
      rw [rejects]
      exact entry_setEntry _ _ _ _
    refine ⟨_, by rw [checkHead_fails head own], ?_⟩
    rw [entry, rejects]
    exact ⟨Quad.get_set_same _ _ _, rfl, rfl, rfl, rfl, fun i => rfl, Quad.get_set_same _ _ _⟩
  case trigger =>
    intro c e s up runs arrived
    obtain ⟨-, -, linked, waits, counted, -⟩ := canConsume_iff.1 arrived
    exact ⟨exec_triggerConsume up runs arrived, linked, waits, counted⟩
  case due =>
    intro s runs due
    obtain ⟨free, thawed, first, ⟨c, next⟩ | ⟨c, e, arrived⟩⟩ := detLaunchDue_finds due
    · exact ⟨exec_bankGrantCycle_due runs due, .inl ⟨_, exec_chainLaunch runs free thawed first next⟩⟩
    · exact ⟨exec_bankGrantCycle_due runs due, .inr ⟨c, e, _, exec_triggerConsume (upRuns_of_free runs free) runs arrived⟩⟩
  case launch =>
    intro c e rest slot free s runs open_ thawed first next queue head slots q ch
    obtain ⟨ready, room, apart, triggered, within, timely⟩ := launchable_alone head (launchable_of_nextLauncher next)
    obtain ⟨w, p, launches⟩ := launchGroup_alone head slots (ch := ch) rfl
    refine ⟨⟨_, (exec_chainLaunch runs open_ thawed first next).trans (congrArg _ launches), chain_setChain slot ch s, ?_, ?_, rfl, rfl, rfl,
      rfl, rfl, fun i other => chain_setChain_other ch s other⟩, rfl, rfl, rfl, ready, room, apart, triggered, within,
      fun det linked pulse => detTimeOk_waits timely det linked⟩
    · show (s.iq.set c ((s.iq.get c).erase e)).get c = rest
      rw [Quad.get_set_same, queue, List.erase_cons_head]
    · exact congrArg QEntry.stage (entry_setEntry c e { q with stage := .gone } (setChain slot ch s))

end Sys2Proof.Proofs
end

section
/-! SUPPORT. A chain in flight: the end of a VCLK, completion, RESUME, CANCEL and DET
(R118, R141, R154, R155, R161, R167, R183, R184, R447, R448). -/

namespace Sys2Proof.Proofs

open Sys2Proof.Machine Sys2Proof.Claims Sys2Proof.Laws

/-! ## One chain of the engine -/

section
variable {slot : Fin 4} {ch : Chain} {s : State}

theorem withChain_eq (inFlight : s.chain slot = some ch) (f : Chain → Chain) : withChain slot f s = setChain slot (f ch) s := by
  rw [withChain, inFlight]

/-- R141: one stall of a chain. -/
theorem stallChain_eq (inFlight : s.chain slot = some ch) :
    stallChain slot s = engBump (setChain slot { ch with stalls := ch.stalls + 1 } s) 1 := by
  rw [stallChain, withChain_eq inFlight]

/-- R447: the whole link carries the words of a chain alone. -/
theorem crossLink_alone (inFlight : s.chain slot = some ch) :
    crossLink [slot] s = setChain slot { ch with crossIn := ch.crossIn - 192, crossOut := ch.crossOut - 192 } s := by
  rw [crossLink, List.foldl_cons, List.foldl_nil, inFlight]

/-- What a report to the partner tile leaves of the chain's slot: the chain, with the report noted. -/
theorem tellPeer_chain (inFlight : s.chain slot = some ch) :
    ∃ r, (tellPeer slot s).chain slot = some { ch with sent := r } := by
  rw [tellPeer, inFlight]
  dsimp only
  split_ifs
  · exact ⟨ch.sent, inFlight⟩
  · generalize (⟨_, _, _, _⟩ : PeerReport) = r
    obtain ⟨p, sent⟩ := sendPair_form (.chain slot r) (setChain slot { ch with sent := r } s)
    exact ⟨r, by rw [sent]; exact chain_setChain slot _ s⟩

end

/-! ## The end of a VCLK (R141) -/

/-- No chain moves in this VCLK: the engine is frozen, the link of the pair is held, or a wipe is pending. -/
def timeHeld (s : State) : Bool := engFrozen s || (s.role.fused && pairHeld s) || s.vs.wipePending

/-- How the VCLK ends for a chain alone, which stands as `ch` in `s`: it advances, it ends at a poisoned index, or it stalls. -/
def endsVclk (held : Bool) (slot : Fin 4) (ch : Chain) (s : State) : State :=
  if !held && (ch.status == .running && timeDone s slot ch) then
    match poisonedIndex s slot ch with
    | none => advanceChain slot s
    | some x => tryEnd slot (failChain slot 0x4E x.1 0 true (crossLink [slot] s))
  else stallChain slot (if held then s else crossLink [slot] s)

section
variable {slot : Fin 4} {ch ch1 : Chain} {s : State}

/-- The tick of a chain that is alone in its group and runs: `ch1` is the chain once the VCLK's own steps are done. -/
theorem tickGroup_alone (inFlight : s.chain slot = some ch) (alone : ch.group = [slot]) (running : ch.status = .running)
    (open_ : chainComplete s slot ch = false) {s1 : State}
    (before : tellPeer slot (beforeAdvance (timeHeld s) slot (setChain slot { ch with lastTick := s.eng.time } s)) = s1)
    (now : s1.chain slot = some ch1) :
    tickGroup slot s = journalProgress slot (endsVclk (timeHeld s) slot ch1 s1) := by
  have ticked : withChain slot (fun ch => { ch with lastTick := s.eng.time }) s = setChain slot { ch with lastTick := s.eng.time } s :=
    withChain_eq inFlight _
  have held : (engFrozen s || s.role.fused && pairHeld s || s.vs.wipePending) = timeHeld s := rfl
  unfold tickGroup
  rw [inFlight]
  dsimp only
  rw [alone]
  simp only [List.filter_cons, List.filter_nil, inFlight, open_, running, Bool.not_false, if_true, List.foldl_cons, List.foldl_nil,
    List.all_cons, List.all_nil, beq_self_eq_true, Bool.and_true]
  rw [ticked, held, before, now]
  dsimp only [Option.bind_some]
  refine congrArg (journalProgress slot) ?_
  unfold endsVclk
  cases moves : timeHeld s
  case true => rfl
  case false =>
    by_cases ready : (ch1.status == .running && timeDone s1 slot ch1) = true
    · simp only [ready]
      cases poisonedIndex s1 slot ch1 <;> rfl
    · simp only [eq_false_of_ne_true ready]
      rfl

theorem endsVclk_held (ch : Chain) (s : State) : endsVclk true slot ch s = stallChain slot s := rfl

theorem endsVclk_advances (running : ch.status = .running) (done : timeDone s slot ch = true) (clean : poisonedIndex s slot ch = none) :
    endsVclk false slot ch s = advanceChain slot s := by
  rw [endsVclk, if_pos (by simp [running, done]), clean]

theorem endsVclk_poisoned {vi e : Nat} (running : ch.status = .running) (done : timeDone s slot ch = true)
    (poisoned : poisonedIndex s slot ch = some (vi, e)) :
    endsVclk false slot ch s = tryEnd slot (failChain slot 0x4E vi 0 true (crossLink [slot] s)) := by
  rw [endsVclk, if_pos (by simp [running, done]), poisoned]

theorem endsVclk_stalls (waits : timeDone s slot ch = false) : endsVclk false slot ch s = stallChain slot (crossLink [slot] s) := by
  rw [endsVclk, if_neg (by simp [waits])]
  rfl

/-- While chain time is held, a running chain does nothing before the VCLK ends. -/
theorem beforeAdvance_held (inFlight : s.chain slot = some ch) (running : ch.status = .running) : beforeAdvance true slot s = s := by
  rw [beforeAdvance, inFlight]
  dsimp only
  rw [running]
  rfl

/-- A running chain whose linear loads have no fault sets going what it can. -/
theorem beforeAdvance_moves (inFlight : s.chain slot = some ch) (running : ch.status = .running) (noFault : linearFaultNow s ch = none) :
    beforeAdvance false slot s = pump slot s := by
  rw [beforeAdvance, inFlight]
  dsimp only
  rw [running]
  dsimp only
  rw [if_neg Bool.false_ne_true, noFault]

theorem exec_chainTimeTick (inFlight : s.chain slot = some ch) (runs : vclkRuns s = true) (first : ch.lastTick ≠ s.eng.time) :
    exec (.chainTimeTick slot) s = .next (wakeRecords (tickGroup slot s)) := by
  show execChainTimeTick slot s = _
  rw [execChainTimeTick, inFlight]
  exact onlyIf_of_true (by simp [runs, first])

end

/-! ## Completion (R154, R155) -/

/-- `u` is `s` after a chain has left its slot: the other chains, the issue queues and the arrays are as before, and the slot's fault
record is void. -/
structure LeavesSlot (slot : Fin 4) (s u : State) : Prop where
  slots : u.eng.slots = s.eng.slots.set slot none
  fault : (u.eng.flt.get slot).valid = false
  iq : u.iq = s.iq
  mem : u.vs.mem = s.vs.mem

theorem LeavesSlot.chain {slot : Fin 4} {s u : State} (h : LeavesSlot slot s u) : u.chain slot = none := by
  rw [State.chain, h.slots, Quad.get_set_same]

theorem LeavesSlot.chain_other {slot i : Fin 4} {s u : State} (h : LeavesSlot slot s u) (other : i ≠ slot) : u.chain i = s.chain i := by
  rw [State.chain, h.slots, Quad.get_set_other _ _ _ _ other]
  rfl

theorem clearFault_void (slot : Fin 4) (s : State) : ((clearFault slot s).eng.flt.get slot).valid = false := by simp [clearFault]

/-- The final record of a chain that completes: EXACT, or a deadline missed, where the header asks for exact timing (R155). -/
def doneRecord (ch : Chain) : StatusRec :=
  mkStatus stDone (hExact ch.hdr && ch.stalls == 0 && ch.time == hTend ch.hdr) 0
    (if hExact ch.hdr && ch.stalls == 0 && ch.time != hTend ch.hdr then 0x20 else 0) ch.flags (hTag ch.hdr) ch.time ch.stalls ch.launchT

theorem deliverStatus_entries (c : CoreId) (e : Fin 8) (r : StatusRec) (final : Bool) (s : State) :
    ∃ entries, deliverStatus c e r final s = { s with entries := entries } := by
  unfold deliverStatus
  dsimp only
  split_ifs <;> exact ⟨_, rfl⟩

theorem deliverStatus_eng (c : CoreId) (e : Fin 8) (r : StatusRec) (final : Bool) (s : State) :
    (deliverStatus c e r final s).eng = s.eng := by
  obtain ⟨entries, delivered⟩ := deliverStatus_entries c e r final s
  rw [delivered]

section
variable {slot : Fin 4} {ch : Chain} {s : State}

/-- R448: on the tile whose core has issued it, a complete chain leaves its slot, and then its record, its pulse and its trace packet
follow; on the other tile it leaves its slot. -/
theorem finishChain_done (inFlight : s.chain slot = some ch) (alone : ch.group = [slot]) :
    ∃ t, LeavesSlot slot s t ∧ t.entries = s.entries ∧ t.ev = s.ev ∧ finishChain slot stDone 0 0 s =
      if ch.far then t
      else traceChdone (hTag ch.hdr) stDone ch.flags
        (arrive (srcChainDone ch.core ch.entry) (deliverStatus ch.core ch.entry (doneRecord ch) true t)) := by
  generalize finished : finishChain slot stDone 0 0 s = u
  unfold finishChain at finished
  rw [inFlight] at finished
  dsimp -zeta only at finished
  extract_lets ok exact cause r wm j e slots slots' s1 s2 vs s3 pair s4 src eng s5 at finished
  have emptied : slots' = s.eng.slots.set slot none := by
    simp only [slots', alone, List.foldl_cons, List.foldl_nil, slots, e, Quad.get_set_same]
  have void := clearFault_void slot s1
  have left : LeavesSlot slot s s4 ∧ s4.entries = s.entries ∧ s4.ev = s.ev :=
    ⟨⟨emptied, void, rfl, rfl⟩, setPair_entries _ _, setPair_ev _ _⟩
  clear_value s4
  obtain ⟨⟨slots4, void, iq, mem⟩, entries, ev⟩ := left
  rw [← finished]
  cases ch.far
  case true => exact ⟨s4, ⟨slots4, void, iq, mem⟩, entries, ev, by rw [if_pos rfl, if_pos rfl]⟩
  case false => exact ⟨s5, ⟨slots4, void, iq, mem⟩, entries, ev, by rw [if_neg Bool.false_ne_true, if_neg Bool.false_ne_true]; rfl⟩

/-- The record, the pulse and the trace packet of a chain-done change entries, event sources, cores, power and trace alone. -/
theorem chainDone_form (c : CoreId) (e : Fin 8) (r : StatusRec) (tag : BitVec 32) (state : Nat) (flags : BitVec 8) (t : State) :
    ∃ ev cores pwr w, traceChdone tag state flags (arrive (srcChainDone c e) (deliverStatus c e r true t)) =
      { deliverStatus c e r true t with ev := ev, cores := cores, pwr := pwr, weado := w } := by
  obtain ⟨ev, cores, pwr, arrives⟩ := arrive_form (srcChainDone c e) (deliverStatus c e r true t)
  obtain ⟨w, traced⟩ := trace_cores 6 4 (bytesLE tag.toNat 4 ++ [BitVec.ofNat 8 state, flags])
    (arrive (srcChainDone c e) (deliverStatus c e r true t))
  refine ⟨ev, cores, pwr, w, traced.trans ?_⟩
  rw [arrives]

theorem LeavesSlot.chainDone {t : State} (h : LeavesSlot slot s t) (c : CoreId) (e : Fin 8) (r : StatusRec) (tag : BitVec 32) (state : Nat)
    (flags : BitVec 8) : LeavesSlot slot s (traceChdone tag state flags (arrive (srcChainDone c e) (deliverStatus c e r true t))) := by
  obtain ⟨ev, cores, pwr, w, done⟩ := chainDone_form c e r tag state flags t
  obtain ⟨entries, told⟩ := deliverStatus_entries c e r true t
  rw [done, told]
  exact ⟨h.slots, h.fault, h.iq, h.mem⟩

/-- The issuing core's entry after a chain-done, where it has no final record yet and its core still owns it. -/
theorem chainDone_entry {c : CoreId} {e : Fin 8} {t : State} (r : StatusRec) (tag : BitVec 32) (state : Nat) (flags : BitVec 8)
    (open_ : (t.entry c e).final = false) (owned : (t.entry c e).orphan = false) :
    (traceChdone tag state flags (arrive (srcChainDone c e) (deliverStatus c e r true t))).entry c e =
      { t.entry c e with record := some r, final := true } := by
  obtain ⟨ev, cores, pwr, w, done⟩ := chainDone_form c e r tag state flags t
  have told : deliverStatus c e r true t = setEntry c e { t.entry c e with record := some r, final := true } t := by
    simp [deliverStatus, open_, owned]
  rw [done, told]
  exact entry_setEntry c e _ t

theorem exec_chainComplete (inFlight : s.chain slot = some ch) (runs : vclkRuns s = true) (complete : chainComplete s slot ch = true) :
    exec (.chainComplete slot) s = .next (wakeRecords (finishChain slot stDone 0 0 s)) := by
  have running : (ch.status == .running) = true := by
    unfold chainComplete at complete
    simp only [Bool.and_eq_true, and_assoc] at complete
    exact complete.1
  show execChainComplete slot s = _
  rw [execChainComplete, inFlight]
  exact onlyIf_of_true (by simp [runs, complete, running])

end

/-! ## ENGFLT.CTL (R183, R184) -/

section
variable {who : Requester} {slot : Fin 4} {s : State}

/-- A write that its requester may make reaches the fault record of its slot. -/
theorem engfltCmd_eq (served : mayAccess who 2 (0x40100 + 0x40 * slot.val) s = true) (v : Nat) :
    regCmd who (0x40100 + 0x40 * slot.val) v s = .next (written who (writeEngflt slot (BitVec.ofNat 64 v) s)) := by
  have reaches : writeReg who (0x40100 + 0x40 * slot.val) (BitVec.ofNat 64 v) s = writeEngflt slot (BitVec.ofNat 64 v) s := by
    fin_cases slot <;> rfl
  rw [← reaches]
  exact regCmd_ok served (by omega) (by omega) (by fin_cases slot <;> simp [samFreeWrite])

/-- R183, R184: without a valid fault record a write of CTL has no effect. -/
theorem writeEngflt_void (void : (s.eng.flt.get slot).valid = false) (v : W64) : writeEngflt slot v s = s := by
  simp [writeEngflt, engfltWrite, cancelChain, resumeChain, void]

/-- On a tile that is in no pair a write of CTL goes no further (R185). -/
theorem writeEngflt_single (single : s.role.fused = false) (v : W64) : writeEngflt slot v s = engfltWrite slot v s := by
  simp [writeEngflt, single]

theorem engfltWrite_resume : engfltWrite slot (BitVec.ofNat 64 2) s = resumeChain slot s := rfl

/-- R184: CANCEL takes precedence over RESUME. -/
theorem engfltWrite_cancel (r : Bool) : engfltWrite slot (BitVec.ofNat 64 (4 + 2 * b2n r)) s = cancelChain slot s := by
  cases r <;> rfl

theorem exec_chainResume (served : mayAccess who 2 (0x40100 + 0x40 * slot.val) s = true) :
    exec (.chainResume who slot) s = .next (written who (writeEngflt slot (BitVec.ofNat 64 2) s)) := engfltCmd_eq served 2

theorem exec_chainCancel (served : mayAccess who 2 (0x40100 + 0x40 * slot.val) s = true) (r : Bool) :
    exec (.chainCancel who slot r) s = .next (written who (writeEngflt slot (BitVec.ofNat 64 (4 + 2 * b2n r)) s)) := engfltCmd_eq served _

section
variable {ch : Chain} {f : SFault}

/-- Once a suspension has been told, its chain stands suspended with the record delivered (R180). -/
theorem tellSuspended_chain (inFlight : s.chain slot = some ch) (suspended : ch.status = .suspended f) :
    (tellSuspended slot s).chain slot = some { ch with told := true } := by
  unfold tellSuspended
  rw [inFlight]
  dsimp only
  rw [suspended]
  dsimp only
  split_ifs with told far
  · rw [inFlight, ← suspended]
    exact congrArg (fun b => some { ch with told := b }) told
  · exact chain_setChain slot _ s
  · rw [State.chain, arrive_eng, deliverStatus_eng]
    exact chain_setChain slot _ s

/-- The SUSPEND journal record changes the journal of its chain, and notes that it has fallen due (R189). -/
theorem journalSuspend_chain (inFlight : s.chain slot = some ch) (suspended : ch.status = .suspended f) :
    ∃ j jtold, (journalSuspend slot s).chain slot = some { ch with jtold := jtold, journal := j } := by
  unfold journalSuspend
  rw [inFlight]
  dsimp only
  rw [suspended]
  dsimp only
  split_ifs
  · exact ⟨_, true, chain_setChain slot _ s⟩
  · exact ⟨ch.journal, ch.jtold, suspended ▸ inFlight⟩

/-- R183: RESUME voids the fault record, and the chain, its suspension told, resumes. -/
theorem resumeChain_suspended (valid : (s.eng.flt.get slot).valid = true) (inFlight : s.chain slot = some ch)
    (suspended : ch.status = .suspended f) :
    ((resumeChain slot s).eng.flt.get slot).valid = false ∧
      ∃ k : Chain, (resumeChain slot s).chain slot = some k ∧ k.status = .resuming ∧ k.told = true ∧ k.jtold = true := by
  obtain ⟨j, jtold, due⟩ := journalSuspend_chain (tellSuspended_chain inFlight suspended) (f := f) suspended
  have cleared : (clearFault slot (journalSuspend slot (tellSuspended slot s))).chain slot =
      some { ch with told := true, jtold := jtold, journal := j } := due
  rw [resumeChain, if_pos valid, withChain_eq cleared, chain_setChain]
  dsimp only
  rw [suspended]
  refine ⟨clearFault_void slot _, _, rfl, ?_⟩
  cases jtold <;> exact ⟨rfl, rfl, rfl⟩

/-- R184: CANCEL ends a suspended chain with cause 0x4F at the VOR of its fault. -/
theorem cancelChain_suspended (valid : (s.eng.flt.get slot).valid = true) (inFlight : s.chain slot = some ch)
    (suspended : ch.status = .suspended f) :
    cancelChain slot s = tryEnd slot (failChain slot 0x4F f.vor 0 false (clearFault slot (tellSuspended slot s))) := by
  rw [cancelChain, if_pos valid, inFlight, Option.map_some, suspended]

end
end

/-! ## ENGCFG.DET (R167) -/

theorem exec_engdetTakeEffect {s : State} (runs : vclkRuns s = true) (changed : s.eng.det ≠ s.eng.detAct)
    (none_ : ∀ i, s.chain i = none) : exec .engdetTakeEffect s = .next (setEng { s.eng with detAct := s.eng.det } s) := by
  have q0 : s.eng.slots.q0 = none := none_ 0
  have q1 : s.eng.slots.q1 = none := none_ 1
  have q2 : s.eng.slots.q2 = none := none_ 2
  have q3 : s.eng.slots.q3 = none := none_ 3
  have empty : (flying s).isEmpty = true := by simp [flying, Quad.toList, q0, q1, q2, q3]
  exact onlyIf_of_true (by simp [runs, changed, empty])

/-! ## From launch to the end -/

/-- Settles O45: the tick of a lone chain has one equation, whose cases are the outcomes of R141; completion, RESUME, CANCEL and a change of
DET are each an equation for the command. That a poisoned index ends the chain after the actions already due is the model's choice
(notes/assumptions/16.md). -/
theorem chainsInFlight : Obligations.ChainsInFlight := by
  unfold Obligations.ChainsInFlight
  refine ⟨?tick, ?stall, ?complete, ?fault, fun s => exec_engdetTakeEffect⟩
  case tick =>
    intro slot ch s inFlight runs first alone running open_ k s0 frozen s1
    have there : s0.chain slot = some k := chain_setChain slot k s
    have held : timeHeld s = frozen := rfl
    rw [exec_chainTimeTick inFlight runs first]
    refine ⟨fun stops => ?_, fun moves noFault ch1 now running1 => ?_⟩
    · obtain ⟨r, now⟩ := tellPeer_chain there
      have before : tellPeer slot (beforeAdvance (timeHeld s) slot s0) = tellPeer slot s0 := by
        rw [held, stops, beforeAdvance_held there running]
      rw [tickGroup_alone inFlight alone running open_ before now, held, stops, endsVclk_held]
    · have before : tellPeer slot (beforeAdvance (timeHeld s) slot s0) = s1 := by
        rw [held, moves, beforeAdvance_moves there running noFault]
      rw [tickGroup_alone inFlight alone running open_ before now, held, moves]
      exact ⟨fun done clean => by rw [endsVclk_advances running1 done clean]; rfl,
        fun vi e done poisoned => by rw [endsVclk_poisoned running1 done poisoned],
        fun waits => by rw [endsVclk_stalls waits]⟩
  case stall =>
    intro slot ch s inFlight
    rw [stallChain_eq inFlight, crossLink_alone inFlight]
    exact ⟨chain_setChain slot _ s, rfl, chain_setChain slot _ s⟩
  case complete =>
    intro slot ch s inFlight runs complete alone
    obtain ⟨t, left, entries, ev, finished⟩ := finishChain_done inFlight alone
    refine ⟨_, exec_chainComplete inFlight runs complete, ?_⟩
    rw [finished]
    cases ch.far
    case true => exact ⟨left.chain, fun i => left.chain_other, left.iq, left.mem, left.fault, fun _ => ⟨entries, ev⟩, nofun⟩
    case false =>
      have done := left.chainDone ch.core ch.entry (doneRecord ch) (hTag ch.hdr) stDone ch.flags
      refine ⟨done.chain, fun i => done.chain_other, done.iq, done.mem, done.fault, nofun, fun _ open_ owned => ?_⟩
      have same : t.entry ch.core ch.entry = s.entry ch.core ch.entry := by rw [State.entry, entries, State.entry]
      have entry := chainDone_entry (doneRecord ch) (hTag ch.hdr) stDone ch.flags (same ▸ open_) (same ▸ owned)
      exact ⟨congrArg QEntry.final entry, congrArg QEntry.record entry⟩
  case fault =>
    intro who slot s served
    rw [exec_chainResume served]
    refine ⟨fun void => ⟨by rw [writeEngflt_void void], fun r => by rw [exec_chainCancel served, writeEngflt_void void]⟩,
      fun valid single ch f inFlight suspended => ⟨⟨_, by rw [writeEngflt_single single, engfltWrite_resume],
        resumeChain_suspended valid inFlight suspended⟩, fun r => ?_⟩⟩
    rw [exec_chainCancel served, writeEngflt_single single, engfltWrite_cancel, cancelChain_suspended valid inFlight suspended]

end Sys2Proof.Proofs
end

section
/-! SUPPORT. The responses that a chain's streams and its journal wait for (R156, R169, R170, R175, R178, R181, R189, R190, R271). -/

namespace Sys2Proof.Proofs

open Sys2Proof.Machine Sys2Proof.Claims Sys2Proof.Laws

/-- A response that no struck requester is owed goes to its requester (R469, R470). -/
theorem owedFirst_of_not_mem {o : Owed} {s : State} (f : State → Host.Outcome State Fault Refusal) (unowed : o ∉ s.ports.owed) :
    owedFirst o f s = f s := by
  rw [owedFirst, if_neg (by simpa using unowed)]

/-! ## Line reads (R156, R178, R271) -/

/-- A buffer of physical line `line` for which the port has still to answer. -/
def awaitsLine (line : Nat) (b : LineBuf) : Bool := b.pline == line && b.words.isNone && b.fault.isNone && b.part.isEmpty

/-- A stream buffer with what the port has answered: its words, or the fault held with it (R178). -/
def answeredLine (code : RspCode) (data : Line) (b : LineBuf) : LineBuf :=
  match code with
  | .edec => { b with fault := some ⟨0x4A, 0, 0⟩ }
  | .etgt => { b with fault := some ⟨0x4B, 0, 0⟩ }
  | _ => { b with words := some ((lineWords data).map (fun d => ⟨d, code == .epoi⟩)) }

section
variable {slot : Fin 4} {ch : Chain} {b : LineBuf} {s : State}

theorem lineResponse_running {line : Nat} (running : ch.status = .running) (waiting : ch.lines.find? (awaitsLine line) = some b)
    (code : RspCode) (data : Line) :
    lineResponse slot ch line code data s = some (tryEnd slot (pump slot
      (setChain slot { ch with lines := ch.lines.map (fun l => if l = b then answeredLine code data b else l) } s))) := by
  have mine : ch.lines.find? (fun b => b.pline == line && b.words.isNone && b.fault.isNone && b.part.isEmpty) = some b := waiting
  unfold lineResponse
  dsimp only
  rw [mine]
  dsimp only
  rw [running]
  rfl

theorem exec_streamLineResponse {line : BitVec 46} {code : RspCode} {data : Line} {u : State}
    (unowed : Owed.streamLine slot line.toNat ∉ s.ports.owed) (inFlight : s.chain slot = some ch)
    (answered : lineResponse slot ch line.toNat code (coherentLine s line.toNat code data) s = some u) :
    exec (.streamLineResponse slot line code data) s = .next (wakeRecords u) := by
  show execStreamLineResponse slot line code data s = _
  rw [execStreamLineResponse, owedFirst_of_not_mem _ unowed, inFlight, Option.bind_some, answered]
  rfl

end

/-! ## Table walks (R169, R170) -/

/-- The walk has read its entry, and leaves the walks in flight. -/
def walkRead (w : SWalk) (s : State) : State := setEng { s.eng with walks := s.eng.walks.erase w } s

/-- What a leaf leads to (R319, R326, R327, R332): an invalidation that names its page discards it, a check that fails holds its fault with
the page, and else it enters the stream TLB in the place of a victim that is drawn. -/
def leafRead (slot : Fin 4) (page : Nat) (entry : W64) (w : SWalk) (s : State) : State :=
  let t := leafEntry w.cap.root 0 (page * 4096) w.level entry
  if w.inv.any (fun a => t.holds a.toNat) then s
  else match leafCheck w.cap.priv.toNat w.write false w.write t with
    | some f => holdPage slot page w.key w.write ⟨leafCause f, 0, 0⟩ s
    | none => setEng { s.eng with tlb := tlbEnter 512 (Config.freeNat s.free) t s.eng.tlb } { s with free := s.free + 1 }

/-- What the entry of a further table leads to: the walk goes one level on, where the next entry is no device's (R322). -/
def tableRead (slot : Fin 4) (page : Nat) (entry : W64) (w : SWalk) (s : State) : State :=
  let ea := entryAddr (pteAddr entry) (page * 4096) (w.level + 1)
  if walkDevice s ea then holdPage slot page w.key w.write ⟨0x46, BitVec.ofNat 3 (w.level + 1), BitVec.ofNat 52 ea⟩ s
  else setEng { s.eng with walks := s.eng.walks ++ [{ w with level := w.level + 1, ea := BitVec.ofNat 52 ea }] } s

section
variable {slot : Fin 4} {page : Nat} {code : RspCode} {entry : W64} {w : SWalk} {s : State}

section
variable (found : s.eng.walks.find? (fun w => w.slot == slot && w.page == page) = some w) (fresh : w.stale = false)
include found fresh

/-- A read that fails holds the bus fault with the page. -/
theorem walkResponse_failed (failed : code ≠ .okay) : walkResponse slot page code entry s = some (tryEnd slot (pump slot
    (holdPage slot page w.key w.write ⟨0x45, BitVec.ofNat 3 w.level, w.ea⟩ (walkRead w s)))) := by
  simp only [walkResponse, walkRead, found, fresh, Bool.false_eq_true, if_false, bne_iff_ne, ne_eq, failed, not_false_eq_true, if_true]

/-- An entry that is not valid holds its fault with the page. -/
theorem walkResponse_invalid (invalid : pteV entry = false) : walkResponse slot page .okay entry s = some (tryEnd slot (pump slot
    (holdPage slot page w.key w.write ⟨0x41, 0, 0⟩ (walkRead w s)))) := by
  simp only [walkResponse, walkRead, found, fresh, Bool.false_eq_true, if_false, bne_self_eq_false, invalid, Bool.not_false, if_true]

/-- A valid entry is a leaf or leads to a further table. -/
theorem walkResponse_valid (valid : pteV entry = true) : walkResponse slot page .okay entry s = some (tryEnd slot (pump slot
    (if isLeaf w.level entry then leafRead slot page entry w (walkRead w s) else tableRead slot page entry w (walkRead w s)))) := by
  rw [walkResponse, found]
  dsimp only
  rw [if_neg (ne_true_of_eq_false fresh), valid]
  rfl

end

section
variable (calm : w.inv = [])
include calm

theorem leafRead_fault {f : LeafFault}
    (fails : leafCheck w.cap.priv.toNat w.write false w.write (leafEntry w.cap.root 0 (page * 4096) w.level entry) = some f) :
    leafRead slot page entry w s = holdPage slot page w.key w.write ⟨leafCause f, 0, 0⟩ s := by
  simp only [leafRead, calm, List.any_nil, Bool.false_eq_true, if_false, fails]

theorem leafRead_enters
    (passes : leafCheck w.cap.priv.toNat w.write false w.write (leafEntry w.cap.root 0 (page * 4096) w.level entry) = none) :
    leafRead slot page entry w s = setEng { s.eng with
      tlb := tlbEnter 512 (Config.freeNat s.free) (leafEntry w.cap.root 0 (page * 4096) w.level entry) s.eng.tlb }
      { s with free := s.free + 1 } := by
  simp only [leafRead, calm, List.any_nil, Bool.false_eq_true, if_false, passes]

end
end

theorem exec_streamWalkResponse {slot : Fin 4} {page : BitVec 36} {code : RspCode} {entry : W64} {s u : State}
    (unowed : Owed.streamWalk slot page.toNat ∉ s.ports.owed)
    (answered : walkResponse slot page.toNat code (streamEntry slot page.toNat code entry s) s = some u) :
    exec (.streamWalkResponse slot page code entry) s = .next (wakeRecords u) := by
  show execStreamWalkResponse slot page code entry s = _
  rw [execStreamWalkResponse, owedFirst_of_not_mem _ unowed, answered]
  rfl

/-! ## Line writes (R175, R181) -/

/-- The cause with which a failed write ends its chain (R181). -/
def writeCause : RspCode → BitVec 8
  | .edec => 0x4C
  | _ => 0x4D

/-- The chain without a line write that has been answered. -/
def writeReturned (w : LineWrite) (ch : Chain) : Chain := { ch with lwOut := ch.lwOut.erase w, jold := ch.jold.erase w }

section
variable {slot : Fin 4} {ch : Chain} {line : Nat} {w : LineWrite} {s : State}
variable (out : ch.lwOut.find? (fun w => w.pline == line) = some w)
include out

theorem writeResponse_okay : writeResponse slot ch line .okay s =
    some (tryEnd slot (journalLate slot (journalProgress slot (pump slot (setChain slot (writeReturned w ch) s))))) := by
  rw [writeResponse, out]
  rfl

/-- R181: a failed write ends its chain with the cause of its response, and its element counts as lost. -/
theorem writeResponse_failed {code : RspCode} (failed : code ≠ .okay) : writeResponse slot ch line code s =
    some (tryEnd slot (journalLate slot (failChain slot (writeCause code) w.vor (BitVec.ofNat 52 (line * 64)) true
      (setChain slot (noteLost w.vor w.e (writeReturned w ch)) s)))) := by
  rw [writeResponse, out]
  cases code with
  | okay => exact absurd rfl failed
  | edec | etgt | epoi => rfl

end

theorem exec_streamWriteResponse {slot : Fin 4} {line : BitVec 46} {code : RspCode} {ch : Chain} {s u : State}
    (unowed : Owed.streamWrite slot line.toNat ∉ s.ports.owed) (inFlight : s.chain slot = some ch)
    (answered : writeResponse slot ch line.toNat code s = some u) :
    exec (.streamWriteResponse slot line code) s = .next (wakeRecords u) := by
  show execStreamWriteResponse slot line code s = _
  rw [execStreamWriteResponse, owedFirst_of_not_mem _ unowed, inFlight, Option.bind_some, answered]
  rfl

/-! ## The journal (R17, R189, R190) -/

section
variable {slot : Fin 4} {ch : Chain} {r : JRec} {s : State}

/-- Without the journal of an ended chain a journal command is about that of the chain in flight. -/
theorem slotJournal_inFlight {want : Journal → Bool} (noTail : s.eng.tails.get slot = []) (inFlight : s.chain slot = some ch)
    (wanted : want ch.journal = true) : slotJournal slot want s = some (false, ch.journal) := by
  rw [slotJournal, noTail, List.find?_nil, inFlight]
  exact if_pos wanted

/-- R189: the record that waits is issued once none is outstanding. -/
theorem Journal.issue_due {j : Journal} (waiting : j.waiting = some r) (acked : j.outstanding = none) :
    j.issue = some { j with seq := j.seq + 1, wmark := r.wmark, waiting := none, outstanding := some r } := by
  rw [Journal.issue, waiting, acked]

theorem Journal.answer_failed {code : RspCode} (failed : code ≠ .okay) (j : Journal) :
    j.answer code = { j with outstanding := none, waiting := none, jen := false } := by
  rw [Journal.answer, if_neg (by simpa using failed)]

/-- R17: chain writes and journal records leave a tile that is no SPARE, FENCED or DEPUTY. -/
theorem chainOut_of_role (spare : s.role.role ≠ .spare) (fenced : s.role.role ≠ .fenced) (deputy : s.role.role ≠ .deputy) :
    chainOut s = true := by
  simp [chainOut, outboundOk, spare, fenced, deputy]

theorem exec_journalRecordIssue {j : Journal} (runs : vclkRuns s = true) (out : chainOut s = true)
    (noTail : s.eng.tails.get slot = []) (inFlight : s.chain slot = some ch) (waiting : ch.journal.waiting = some r)
    (acked : ch.journal.outstanding = none) (issued : ch.journal.issue = some j) :
    exec (.journalRecordIssue slot) s =
      .next (withChain slot (fun k => { k with journal := j }) (coherentWrite (jrecAddr j j.seq / 64) s)) := by
  show execJournalRecordIssue slot s = _
  rw [execJournalRecordIssue, if_neg (by simp [runs, out]), journalIssue,
    slotJournal_inFlight noTail inFlight (by simp [waiting, acked]), Option.bind_some, issued]
  rfl

theorem exec_journalWriteResponse (unowed : Owed.journal slot ∉ s.ports.owed) (noTail : s.eng.tails.get slot = [])
    (inFlight : s.chain slot = some ch) (out : ch.journal.outstanding = some r) (code : RspCode) :
    exec (.journalWriteResponse slot code) s = .next
      (if code == .okay then setChain slot { ch with journal := ch.journal.answer code } s
      else journalError ch.journal code (setChain slot { ch with journal := ch.journal.answer code } s)) := by
  have put : putJournal slot false ch.journal (ch.journal.answer code) s = setChain slot { ch with journal := ch.journal.answer code } s :=
    withChain_eq inFlight _
  show execJournalWriteResponse slot code s = _
  rw [execJournalWriteResponse, owedFirst_of_not_mem _ unowed, journalAnswer, slotJournal_inFlight noTail inFlight (by simp [out]),
    Option.map_some]
  dsimp only
  rw [put]
  rfl

end

/-! ## Streams and the journal -/

/-- Settles O46: each command is the answer of its response function, which has an equation per code, per kind of table entry and per outcome
of the leaf check. -/
theorem streamsAndJournal : Obligations.StreamsAndJournal := by
  unfold Obligations.StreamsAndJournal
  refine ⟨?line, ?walk, ?write, ?issue, ?answer⟩
  case line =>
    intro slot line code data ch b s inFlight unowed running waiting
    exact exec_streamLineResponse unowed inFlight (lineResponse_running running waiting code (coherentLine s line.toNat code data))
  case walk =>
    intro slot page code entry w s unowed found fresh s1 held e answers
    have leads {u : State} (h : walkResponse slot page.toNat code e s = some (tryEnd slot (pump slot u))) : answers u :=
      exec_streamWalkResponse unowed h
    refine ⟨fun failed => leads (walkResponse_failed found fresh failed), ?invalid, ?leaf, ?table⟩
    case invalid =>
      rintro rfl invalid
      exact leads (walkResponse_invalid found fresh invalid)
    case leaf =>
      rintro rfl valid leaf calm
      have read := walkResponse_valid found fresh valid
      rw [if_pos leaf] at read
      exact ⟨fun f fails => leads (read.trans (by rw [leafRead_fault calm fails]; rfl)),
        fun passes => ⟨_, leads (read.trans (by rw [leafRead_enters calm passes]; rfl))⟩⟩
    case table =>
      rintro rfl valid table ea
      have read := walkResponse_valid found fresh valid
      rw [if_neg (by simp [table])] at read
      exact leads read
  case write =>
    intro slot line code ch w s inFlight unowed out k answers fails
    have failing (failed : code ≠ .okay) : fails (writeCause code) :=
      exec_streamWriteResponse unowed inFlight (writeResponse_failed out failed)
    refine ⟨?_, ?_, ?_⟩
    · rintro rfl
      exact exec_streamWriteResponse unowed inFlight (writeResponse_okay out)
    · rintro rfl
      exact failing nofun
    · rintro (rfl | rfl) <;> exact failing nofun
  case issue =>
    intro slot ch r s inFlight noTail runs spare fenced deputy waiting acked
    exact exec_journalRecordIssue runs (chainOut_of_role spare fenced deputy) noTail inFlight waiting acked
      (Journal.issue_due waiting acked)
  case answer =>
    intro slot code ch r s inFlight noTail unowed out
    rw [exec_journalWriteResponse unowed noTail inFlight out]
    refine ⟨?_, fun failed => ?_⟩
    · rintro rfl
      rfl
    · rw [Journal.answer_failed failed]
      exact congrArg Host.Outcome.next (if_neg (by simpa using failed))

end Sys2Proof.Proofs
end

section
/-! SUPPORT. Paired parcels, and the conditions over FLAGS (R210 to R214, R250 to R254, R294, R341). -/

namespace Sys2Proof.Proofs

open Sys2Proof.Machine Sys2Proof.Claims Sys2Proof.Laws

/-! ## Pairs over cells and flags -/

theorem halfRow_of_plainRow {row : (PCtx → BitVec 8 → Instr) × Nat} (h : row ∈ plainRows) : row ∈ halfRows := by
  simp [halfRows, h]

theorem shortInfo_nop : shortInfo 0x00 = some ⟨.n, 0, 0, 0, 0, 0, 0⟩ := rfl

/-- R209: NOP pairs with every listed short code. -/
theorem codeIllegal_nopFirst {sb : BitVec 8} {i : ShortInfo} (cond : BitVec 3) (listed : shortInfo sb.toNat = some i) :
    codeIllegal (pairParcel cond 0x00 sb) = false := by
  unfold codeIllegal
  rw [if_pos (isPair_pair _ _ _ (by decide)), saOf_pair _ _ _ (by decide), sbOf_pair _ _ _ (by decide), listed, shortInfo_nop]
  simp [pairLegal]

theorem shortInfo_of_plainHalf {code : Nat} {pend : Option Nat} {b b1 : Bank} (h : plainHalf code pend b = some b1) :
    ∃ i, shortInfo code = some i := by
  cases listed : shortInfo code with
  | none => simp [plainHalf, listed] at h
  | some i => exact ⟨i, rfl⟩

theorem plainHalf_nop (pend : Option Nat) (b : Bank) : plainHalf 0x00 pend b = some b := by
  simp [plainHalf, shortInfo_nop, isDivide, halfResult, hasRoom, takesPending_zero]

/-- R211: no half depends on a NOP before it. -/
theorem countPair_nopFirst (c : CoreId) (sb : Nat) (s : State) : countPair c 0x00 sb s = s := by
  cases listed : shortInfo sb <;> simp [countPair, shortInfo_nop, listed, pairDepends]

theorem pairBank_first_same (b0 b : Bank) : pairBank b0 b0 b = marked b0 b := by
  simp [pairBank, marked, changedGroups, b2n]

theorem marked_marked (b0 b : Bank) : marked b0 (marked b0 b) = marked b0 b := by
  show ({ b with dirty := b.dirty ||| changedGroups b0 b ||| changedGroups b0 b } : Bank) = _
  rw [BitVec.or_assoc, BitVec.or_self]
  rfl

/-- R294: a write of the running bank marks the groups that it changes. -/
theorem putBank_eq (c : CoreId) (b : Bank) (s : State) :
    putBank c b s = setCore c ((s.core c).rawBank (s.core c).level (marked (bank c s) b)) s := rfl

theorem putBank_marked (c : CoreId) (b : Bank) (s : State) : putBank c (marked (bank c s) b) s = putBank c b s := by
  rw [putBank_eq, marked_marked, putBank_eq]

/-- Settles O1: the two halves of a plain pair run on one frame (`pairCmd_plain`); with NOP first nothing is counted and the second half's
marks are those of the write of its bank. -/
theorem plainPairsComplete : Obligations.PlainPairsComplete := by
  unfold Obligations.PlainPairsComplete
  refine ⟨?pairs, ?nopFirst⟩
  case pairs =>
    intro row plain p sb s s1 b1 b2 ready legal holds first second
    obtain ⟨⟨below, -, -⟩, runs⟩ := half_code (halfRow_of_plainRow plain)
    rw [runs, pairCmd_plain below ready legal holds first second]
  case nopFirst =>
    intro p sb nxt s s1 b2 ready holds second
    obtain ⟨i, listed⟩ := shortInfo_of_plainHalf second
    have paired := pairCmd_plain (by decide) ready (codeIllegal_nopFirst _ listed) holds (plainHalf_nop _ _) second
    rw [countPair_nopFirst, pairBank_first_same, putBank_marked] at paired
    exact paired

/-! ## Pairs of any halves -/

/-- R210, R341: the halves of a pair run in order on one frame, which is committed as a whole. -/
theorem runPair_eq (c : CoreId) (sa sb : Nat) (s : State) : runPair c sa sb s =
    (shortHalf c sa (s.core c).frame s).next (fun fr1 s1 => (shortHalf c sb fr1 s1).next (fun fr2 s2 =>
      (commit c (fr2.soiled (bank c s) fr1.b) s2).next (fun _ s3 => .ok () (countPair c sa sb s3)))) := rfl

/-- Settles O9: a pair's flow is that of `runPair`, which goes on with the second half and with the commit only where the part before raised
nothing. -/
theorem pairsExecuteBothHalves : Obligations.PairsExecuteBothHalves := by
  unfold Obligations.PairsExecuteBothHalves
  intro row half p sb s s1 ready legal holds
  obtain ⟨⟨below, notNop, cls⟩, runs⟩ := half_code half
  rw [runs, pairCmd_halves below notNop cls ready legal holds, runPair_eq]
  refine ⟨?both, ?firstRaises, ?secondRaises⟩
  case both =>
    intro fr1 fr2 s2 s3 s4 first second commits
    simp only [first, second, commits, Out.next_ok]
    rfl
  case firstRaises =>
    intro e s2 first free
    simp only [first, Out.next_exc, exc_flow free]
  case secondRaises =>
    intro fr1 e s2 s3 first second free
    simp only [first, second, Out.next_ok, Out.next_exc, exc_flow free]

/-! ## Conditions -/

/-- R214: COND over five flags. -/
theorem condHolds_mkFlags : ∀ t z n c v : Bool,
    condHolds 0 (mkFlags t z n c v) = true ∧ condHolds 1 (mkFlags t z n c v) = t ∧ condHolds 2 (mkFlags t z n c v) = !t ∧
    condHolds 3 (mkFlags t z n c v) = z ∧ condHolds 4 (mkFlags t z n c v) = !z ∧ condHolds 5 (mkFlags t z n c v) = (n != v) ∧
    condHolds 6 (mkFlags t z n c v) = (n == v) ∧ condHolds 7 (mkFlags t z n c v) = c := by decide

/-- R214: GE is the opposite of LT. -/
theorem condHolds_ge (f : Flg) : condHolds 6 f = !condHolds 5 f := by simp [condHolds, bne]

/-- R231, R254: FLAGS after a compare of `x` with the cell `a` above it. -/
theorem compareFlags_eq (code : Nat) (f : Flg) (x a : W64) : compareFlags code f x a =
    mkFlags (compareHolds code x a) (x - a == 0) (decide ((x - a).toInt < 0)) (decide (a.toNat ≤ x.toNat))
      (decide ((x - a).toInt ≠ x.toInt - a.toInt)) := by
  rw [compareFlags, sub_flags, withT_mk]
  simp [b2n]

/-- The sign of a difference, corrected by its overflow, is the order of signed values. -/
theorem sub_sign_ne_overflow (x a : W64) :
    (decide ((x - a).toInt < 0) != decide ((x - a).toInt ≠ x.toInt - a.toInt)) = decide (x.toInt < a.toInt) := by
  have wraps : (x - a).toInt = (x.toInt - a.toInt).bmod (2 ^ 64) := BitVec.toInt_sub
  have lo := BitVec.le_toInt x
  have hi := BitVec.toInt_lt (x := x)
  have lo' := BitVec.le_toInt a
  have hi' := BitVec.toInt_lt (x := a)
  rw [Bool.eq_iff_iff]
  simp only [bne_iff_ne, ne_eq, decide_eq_decide, decide_eq_true_eq]
  rw [Int.bmod_def] at wraps
  split at wraps <;> omega

/-- Settles O5: the conditions over `mkFlags`, and what they are of the flags that a compare writes. -/
theorem conditionsAfterCompare : Obligations.ConditionsAfterCompare := by
  unfold Obligations.ConditionsAfterCompare
  refine ⟨condHolds_mkFlags, fun code b a x t low high cells => ?_⟩
  rw [aluOpC code b a x t cells low high]
  dsimp only
  rw [compareFlags_eq]
  obtain ⟨-, -, -, zero, -, less, -, carry⟩ := condHolds_mkFlags (compareHolds code x a) (x - a == 0) (decide ((x - a).toInt < 0))
    (decide (a.toNat ≤ x.toNat)) (decide ((x - a).toInt ≠ x.toInt - a.toInt))
  refine ⟨by rw [less, sub_sign_ne_overflow], ?_, carry, ?_⟩
  · rw [condHolds_ge, less, sub_sign_ne_overflow, ← decide_not, decide_eq_decide]
    exact Int.not_lt
  · rw [zero, Bool.eq_iff_iff, beq_iff_eq, decide_eq_true_eq]
    exact sub_eq_zero

end Sys2Proof.Proofs
end

section
/-! SUPPORT. Long operations on cells and control words (R199, R216, R233, R278). -/

namespace Sys2Proof.Proofs

open Sys2Proof.Machine Sys2Proof.Claims Sys2Proof.Laws

/-! ## A long operation whose condition holds -/

section
variable {row : (PCtx → BitVec 10 → Instr) × Nat} {p : PCtx} {f : BitVec 10} {s s1 : State}

theorem exec_long (listed : row ∈ longRows) (field : fieldLegal row.2 f = true)
    (ready : Ready p (longParcel p.cond row.2 f) nopParcel s s1) (holds : condHolds p.cond (bank p.core s1).flags = true) :
    exec (row.1 p f) s = .next (flowOut p.core (presented p (longParcel p.cond row.2 f) nopParcel s)
      (runLong ⟨p.core, (s.core p.core).pc, false⟩ row.2 f s1)) := by
  obtain ⟨⟨below, known, plain⟩, runs⟩ := long_row listed
  rw [runs, longCmd_ready below ready (long_legal below known field plain) holds (.inr rfl)]

theorem exec_long_done {s2 : State} (listed : row ∈ longRows) (field : fieldLegal row.2 f = true)
    (ready : Ready p (longParcel p.cond row.2 f) nopParcel s s1) (holds : condHolds p.cond (bank p.core s1).flags = true)
    (run : runLong ⟨p.core, (s.core p.core).pc, false⟩ row.2 f s1 = .ok .done s2) : exec (row.1 p f) s = .next (ends p.core s2) := by
  rw [exec_long listed field ready holds, run]
  rfl

theorem exec_long_raises {e : Exc} {s2 : State} (listed : row ∈ longRows) (field : fieldLegal row.2 f = true)
    (ready : Ready p (longParcel p.cond row.2 f) nopParcel s s1) (holds : condHolds p.cond (bank p.core s1).flags = true)
    (free : entryFree p.core s2) (run : runLong ⟨p.core, (s.core p.core).pc, false⟩ row.2 f s1 = .exc e s2) :
    exec (row.1 p f) s = .next (raises p.core e s2) := by
  rw [exec_long listed field ready holds, run, exc_flow free]

end

section
variable {c : CoreId} {s : State} (buffer : (s.core c).sb.length ≤ 16)
include buffer

/-- A parcel that works on the running bank alone leaves that bank. -/
theorem onFrame_bank {n r : Nat} {f : Fr → Fr} {b : Bank} (cells : n ≤ (bank c s).oc.length) (rets : r ≤ (bank c s).rc.length)
    (settled : takesPending (s.core c).pendingCell n (bank c s) = false) (result : f ⟨bank c s, [], [], none⟩ = ⟨b, [], [], none⟩)
    (room : hasRoom (bank c s) b = true) : onFrame c n r (pureFr f) s = .ok .done (putBank c b s) :=
  onFrame_pure cells rets settled result room buffer

theorem onFrame_push {f : Fr → Fr} {b : Bank} (result : f ⟨bank c s, [], [], none⟩ = ⟨b, [], [], none⟩)
    (room : hasRoom (bank c s) b = true) : onFrame c 0 0 (pureFr f) s = .ok .done (putBank c b s) :=
  onFrame_bank buffer (Nat.zero_le _) (Nat.zero_le _) (takesPending_zero _ _) result room

variable {x : W64} {t : List W64} (cells : (bank c s).oc = x :: t) (settled : takesPending (s.core c).pendingCell 1 (bank c s) = false)
include cells settled

theorem onFrame_takesOne {f : Fr → Fr} {b : Bank} (result : f ⟨bank c s, [], [], none⟩ = ⟨b, [], [], none⟩)
    (room : hasRoom (bank c s) b = true) : onFrame c 1 0 (pureFr f) s = .ok .done (putBank c b s) :=
  onFrame_bank buffer (by simp [cells]) (Nat.zero_le _) settled result room

theorem onFrame_pop : onFrame c 1 0 (pureFr (fun fr => fr.setO fr.b.oc.tail)) s = .ok .done (putBank c { bank c s with oc := t } s) :=
  onFrame_takesOne buffer cells settled (by simp [Fr.setO, cells]) (room_of_le (by simp [cells]) le_rfl)

end

/-! ## Literals -/

theorem litx_value (x : W64) (f : BitVec 10) : (x <<< 10) ||| f.zeroExtend 64 = BitVec.ofNat 64 (x.toNat * 2 ^ 10 + f.toNat) := by
  rw [shl_nat, BitVec.zeroExtend_eq_setWidth, ← BitVec.ofNat_toNat, ← BitVec.ofNat_or, ← Nat.shiftLeft_eq,
    ← Nat.shiftLeft_add_eq_or_of_lt f.isLt]

theorem sext10_toInt (f : BitVec 10) : (BitVec.ofInt 64 f.toInt : W64).toInt = f.toInt := by
  rw [← sext10_eq, sext10, BitVec.toInt_signExtend_of_le (by decide)]

/-- R233: the sum of a cell and an immediate value, with its flags. -/
theorem addi_flags (fl : Flg) (x : W64) (f : BitVec 10) : addFlags fl x (sext10 f) false =
    let i : W64 := BitVec.ofInt 64 f.toInt
    (x + i, mkFlags (flT fl) (x + i == 0) (decide ((x + i).toInt < 0)) (decide (2 ^ 64 ≤ x.toNat + i.toNat))
      (decide ((x + i).toInt ≠ x.toInt + f.toInt))) := by
  rw [sext10_eq, add_flags]
  simp only [show b2n false = 0 from rfl, BitVec.add_zero, Nat.add_zero, Nat.cast_zero, Int.add_zero, sext10_toInt]

section
variable {c : CoreId} {s : State} (f : BitVec 10) (buffer : (s.core c).sb.length ≤ 16)
include buffer

theorem runLit_eq (room : (bank c s).oc.length < 32) :
    runLit c f s = .ok .done (putBank c { bank c s with oc := BitVec.ofInt 64 f.toInt :: (bank c s).oc } s) :=
  onFrame_push buffer (by rw [sext10_eq]; rfl) (by simp [hasRoom]; omega)

variable {x : W64} {t : List W64} (cells : (bank c s).oc = x :: t) (settled : takesPending (s.core c).pendingCell 1 (bank c s) = false)
include cells settled

theorem runLitx_eq : runLitx c f s =
    .ok .done (putBank c { bank c s with oc := BitVec.ofNat 64 (x.toNat * 2 ^ 10 + f.toNat) :: t } s) :=
  onFrame_takesOne buffer cells settled (by simp only [cells, litx_value]; rfl) (room_of_le (by simp [cells]) le_rfl)

theorem runAddi_eq : runAddi c f s = .ok .done (putBank c { bank c s with
    oc := (addFlags (bank c s).flags x (sext10 f) false).1 :: t, flags := (addFlags (bank c s).flags x (sext10 f) false).2 } s) :=
  onFrame_takesOne buffer cells settled (by simp only [cells]; rfl) (room_of_le (by simp [cells]) le_rfl)

end

/-- Settles O6: each operation is the change of the bank that its `run…_eq` states. -/
theorem literalsAndAddi : Obligations.LiteralsAndAddi := by
  unfold Obligations.LiteralsAndAddi
  intro p f s s1 holds
  refine ⟨fun ready room => ?lit, fun x t cells settled => ⟨fun ready => ?litx, fun ready => ?addi⟩⟩
  case lit =>
    exact exec_long_done (row := (.lit, 0x01)) (by simp [longRows]) rfl ready holds (runLit_eq f ready.buffer room)
  case litx =>
    exact exec_long_done (row := (.litx, 0x02)) (by simp [longRows]) rfl ready holds (runLitx_eq f ready.buffer cells settled)
  case addi =>
    intro i
    have run := runAddi_eq f ready.buffer cells settled
    rw [addi_flags] at run
    exact exec_long_done (row := (.addi, 0x03)) (by simp [longRows]) rfl ready holds run

/-! ## Control words -/

section
variable {c : CoreId} {f : BitVec 10} {s : State}

theorem runCwr_reserved (reserved : ∀ e ∈ controlWords (s.core c), f.toNat ≠ e.1) : runCwr c f s = .exc excIllegal s := by
  rw [runCwr, cw_none reserved]

theorem runCww_reserved (reserved : ∀ e ∈ controlWords (s.core c), f.toNat ≠ e.1) : runCww c f s = .exc excIllegal s := by
  rw [runCww, cw_none reserved]

variable {e : Nat × W64 × Nat × Nat} (listed : e ∈ controlWords (s.core c)) (named : f.toNat = e.1)
include listed named

theorem runCwr_eq (level : e.2.2.1 ≤ (s.core c).pl) (room : (bank c s).oc.length < 32) (buffer : (s.core c).sb.length ≤ 16) :
    runCwr c f s = .ok .done (putBank c { bank c s with oc := e.2.1 :: (bank c s).oc } s) := by
  obtain ⟨value, levels⟩ := cw_find listed
  simp only [runCwr, named, levels, needPriv_ok level, Out.next_ok, value]
  exact onFrame_push buffer rfl (by simp [hasRoom]; omega)

theorem runCwr_priv (level : (s.core c).pl < e.2.2.1) : runCwr c f s = .exc excPriv s := by
  simp only [runCwr, named, (cw_find listed).2, needPriv_exc level, Out.next_exc]

theorem runCww_eq {v : W64} {t : List W64} (level : e.2.2.2 ≤ (s.core c).pl) (cells : (bank c s).oc = v :: t)
    (settled : takesPending (s.core c).pendingCell 1 (bank c s) = false) (buffer : (s.core c).sb.length ≤ 16) :
    runCww c f s = .ok .done (withCore c (fun k => k.writeCw e.1 v) (putBank c { bank c s with oc := t } s)) := by
  have top : ((s.core c).run.oc.head?).getD 0 = v := top_area cells
  simp only [runCww, named, (cw_find listed).2, needPriv_ok level, Out.next_ok, top, onFrame_pop buffer cells settled]

theorem runCww_priv (level : (s.core c).pl < e.2.2.2) : runCww c f s = .exc excPriv s := by
  simp only [runCww, named, (cw_find listed).2, needPriv_exc level, Out.next_exc]

end

/-- Settles O7: a listed number has a value and two levels (`cw_find`), any other none (`cw_none`). -/
theorem controlWordReadsAndWrites : Obligations.ControlWordReadsAndWrites := by
  unfold Obligations.ControlWordReadsAndWrites
  refine ⟨?reads, ?writes⟩
  case reads =>
    intro p f s s1 ready holds
    have cwr : ((.cwr, 0x04) : (PCtx → BitVec 10 → Instr) × Nat) ∈ longRows := by simp [longRows]
    refine ⟨fun e listed named => ⟨fun level room => ?_, fun level free => ?_⟩, fun reserved free => ?_⟩
    · exact exec_long_done cwr rfl ready holds (runCwr_eq listed named level room ready.buffer)
    · exact exec_long_raises cwr rfl ready holds free (runCwr_priv listed named level)
    · exact exec_long_raises cwr rfl ready holds free (runCwr_reserved reserved)
  case writes =>
    intro p f s s1 ready holds
    have cww : ((.cww, 0x05) : (PCtx → BitVec 10 → Instr) × Nat) ∈ longRows := by simp [longRows]
    refine ⟨fun e listed named => ⟨fun level v t cells settled => ?_, fun level free => ?_⟩, fun reserved free => ?_⟩
    · exact exec_long_done cww rfl ready holds (runCww_eq listed named level cells settled ready.buffer)
    · exact exec_long_raises cww rfl ready holds free (runCww_priv listed named level)
    · exact exec_long_raises cww rfl ready holds free (runCww_reserved reserved)

end Sys2Proof.Proofs
end

section
/-! SUPPORT. Control transfers and their delay parcels, and where execution goes on (R203, R217, R218, R221, R228, R235, R236). -/

namespace Sys2Proof.Proofs

open Sys2Proof.Machine Sys2Proof.Claims Sys2Proof.Laws

/-! ## Parcels that look at the next one -/

theorem isRep_long {cond : BitVec 3} {m : Nat} {f : BitVec 10} (below : m < 64) : isRep (longParcel cond m f) = (m == 0x3C) := by
  simp [isRep, isPair_long _ _ _ below, majorOf_long _ _ _ below]

/-- R218, R222: no transfer and no REP stands after a parcel with a delay parcel or a repetition, and no solo operation after a REP. -/
theorem nextIllegal_of_allowed {w nxt : BitVec 20} (noTransfer : isTransfer nxt = false) (noRep : isRep nxt = false)
    (noSolo : isRep w = true → hasSolo nxt = false) : nextIllegal w nxt = false := by
  unfold nextIllegal
  split
  · simp [noTransfer, noRep]
  · split
    · rename_i rep
      simp [noTransfer, noRep, noSolo rep]
    · rfl

theorem long_legal_before {cond : BitVec 3} {m : Nat} {f : BitVec 10} {nxt : BitVec 20} (below : m < 64) (listed : majorListed m = true)
    (field : fieldLegal m f = true) (noTransfer : isTransfer nxt = false) (noRep : isRep nxt = false)
    (noSolo : m = 0x3C → hasSolo nxt = false) : parcelIllegal (longParcel cond m f) nxt = false := by
  have next : nextIllegal (longParcel cond m f) nxt = false :=
    nextIllegal_of_allowed noTransfer noRep fun rep => noSolo (by simpa [isRep_long below] using rep)
  simp [parcelIllegal, codeIllegal, isPair_long _ _ _ below, majorOf_long _ _ _ below, fieldOf_long _ _ _ below, listed, field, next]

/-! ## A transfer whose condition holds -/

section
variable {p : PCtx} {nxt : BitVec 20} {s s1 s2 : State} {taken check : Bool} {target : BitVec 48}
  (noTransfer : isTransfer nxt = false) (noRep : isRep nxt = false) (holds : condHolds p.cond (bank p.core s1).flags = true)
include noTransfer noRep holds

theorem longCmd_transfer {m : Nat} {f : BitVec 10} (transfers : m = 0x08 ∨ m = 0x09) (ready : Ready p (longParcel p.cond m f) nxt s s1)
    (run : runLong ⟨p.core, (s.core p.core).pc, false⟩ m f s1 = .ok (.transfer taken target check) s2) :
    longCmd p m f nxt s = .next (beforeDelay p.core taken target check s2) := by
  obtain ⟨legal, below, notEret⟩ : parcelIllegal (longParcel p.cond m f) nxt = false ∧ m < 64 ∧ m ≠ 0x30 := by
    rcases transfers with rfl | rfl <;>
      exact ⟨long_legal_before (by decide) rfl rfl noTransfer noRep nofun, by decide, by decide⟩
  rw [longCmd_ready below ready legal holds (.inl notEret), run, ← beforeDelay_eq]
  rfl

theorem soloCmd_transfer {sa : Nat} (transfers : 0x80 ≤ sa ∧ sa ≤ 0x82) (ready : Ready p (pairParcel p.cond sa 0) nxt s s1)
    (run : runSolo ⟨p.core, (s.core p.core).pc, false⟩ sa s1 = .ok (.transfer taken target check) s2) :
    pairCmd p sa 0 nxt s = .next (beforeDelay p.core taken target check s2) := by
  have solo : 0x80 ≤ sa ∧ sa ≤ 0x85 := by omega
  rw [soloCmd_ready solo ready (solo_legal solo noTransfer noRep) holds, run, ← beforeDelay_eq]
  rfl

end

section
variable {cx : Cx} {s : State} (buffer : (s.core cx.c).sb.length ≤ 16)

/-- The address after the delay parcel, as CALL and CALLX push it (R235). -/
def returnCell (pc : BitVec 48) : W64 := (advance pc 2).zeroExtend 64

theorem pushRet_eq (cx : Cx) (b : Bank) : pushRet cx ⟨b, [], [], none⟩ = ⟨{ b with rc := returnCell cx.pc :: b.rc }, [], [], none⟩ := rfl

include buffer in
theorem runCall_eq (f : BitVec 10) (room : (bank cx.c s).rc.length < 32) : runCall cx f s =
    .ok (.transfer true (advance cx.pc f.toInt) true) (traceBranch cx.c (advance cx.pc f.toInt) (pastLoop cx.c
      (putBank cx.c { bank cx.c s with rc := returnCell cx.pc :: (bank cx.c s).rc } s))) := by
  rw [runCall, onFrame_push buffer (pushRet_eq _ _) (by simp [hasRoom]; omega)]
  rfl

section
variable {x : W64} {t : List W64} (cells : (bank cx.c s).oc = x :: t) (settled : takesPending (s.core cx.c).pendingCell 1 (bank cx.c s) = false)
include cells settled

theorem needCells_one : needCells cx.c 1 0 (s.core cx.c).frame s = .ok () s :=
  needCells_ok (fr := ⟨bank cx.c s, [], [], none⟩) (by simp [cells]) (Nat.zero_le _) settled

include buffer

theorem runBrx_eq : runBrx cx s = .ok (.transfer true (x.truncate 48) true)
    (traceBranch cx.c (x.truncate 48) (pastLoop cx.c (putBank cx.c { bank cx.c s with oc := t } s))) := by
  rw [runBrx, needCells_one cells settled]
  simp only [Out.next_ok, top_area cells, onFrame_pop buffer cells settled]

theorem runCallx_eq (room : (bank cx.c s).rc.length < 32) : runCallx cx s = .ok (.transfer true (x.truncate 48) true)
    (traceBranch cx.c (x.truncate 48) (pastLoop cx.c
      (putBank cx.c { bank cx.c s with oc := t, rc := returnCell cx.pc :: (bank cx.c s).rc } s))) := by
  have popped : pushRet cx (Fr.setO ⟨bank cx.c s, [], [], none⟩ (bank cx.c s).oc.tail) =
      ⟨{ bank cx.c s with oc := t, rc := returnCell cx.pc :: (bank cx.c s).rc }, [], [], none⟩ := by
    rw [cells]
    rfl
  rw [runCallx, needCells_one cells settled]
  simp only [Out.next_ok, top_area cells,
    onFrame_takesOne buffer cells settled (f := fun fr => pushRet cx (fr.setO fr.b.oc.tail)) popped (by simp [hasRoom, cells]; omega)]

end

include buffer in
theorem runRet_eq {x : W64} {t : List W64} (rets : (bank cx.c s).rc = x :: t) : runRet cx s = .ok (.transfer true (x.truncate 48) false)
    (traceBranch cx.c (x.truncate 48) (pastLoop cx.c (putBank cx.c { bank cx.c s with rc := t } s))) := by
  have settled := takesPending_zero (s.core cx.c).pendingCell (bank cx.c s)
  have held : 1 ≤ (bank cx.c s).rc.length := by simp [rets]
  have top : ((s.core cx.c).run.rc.head?).getD 0 = x := by
    rw [show (s.core cx.c).run.rc = x :: t from rets]
    rfl
  have popped : Fr.setOR ⟨bank cx.c s, [], [], none⟩ (bank cx.c s).oc (bank cx.c s).rc.tail = ⟨{ bank cx.c s with rc := t }, [], [], none⟩ := by
    rw [rets]
    rfl
  rw [runRet, run_frame, needCells_ok (fr := ⟨bank cx.c s, [], [], none⟩) (Nat.zero_le _) held settled]
  simp only [Out.next_ok, top, onFrame_bank buffer (Nat.zero_le _) held settled (f := fun fr => fr.setOR fr.b.oc fr.b.rc.tail) popped
    (room_of_le le_rfl (by simp [rets]))]

end

/-! ## ERET and its delay parcel -/

theorem eretFlow_eq (c : CoreId) (s : State) : stepEnd c (doFlow c .eret (dropHeld c s)) = stepEnd c (withCore c (fun k => { k with
    pc := advance k.pc 1, delay := some ⟨k.pc, true, 0, false, true⟩, held := none }) s) := by
  simp only [doFlow, dropHeld, withCore, core_setCore, setCore_setCore]

section
variable {p : PCtx} {s s1 : State} (holds : condHolds p.cond (bank p.core s1).flags = true)
include holds

theorem longCmd_eret (ready : Ready p (longParcel p.cond 0x30 0) nopParcel s s1) (level : 1 ≤ (s1.core p.core).pl) :
    longCmd p 0x30 0 nopParcel s = .next (stepEnd p.core (doFlow p.core .eret (dropHeld p.core s1))) := by
  have run : runLong ⟨p.core, (s.core p.core).pc, false⟩ 0x30 0 s1 = .ok .eret s1 := by
    simp only [runLong, needPriv_ok level, Out.next_ok]
  rw [longCmd_ready (by decide) ready (long_legal_before (by decide) rfl rfl rfl rfl nofun) holds (.inr rfl), run]
  rfl

/-- R236: an ERET that holds raises ILLEGAL at any other delay parcel. -/
theorem longCmd_eret_illegal {nxt : BitVec 20} (noTransfer : isTransfer nxt = false) (noRep : isRep nxt = false)
    (ready : Ready p (longParcel p.cond 0x30 0) nxt s s1) (other : nxt ≠ nopParcel) (free : entryFree p.core s1) :
    longCmd p 0x30 0 nxt s = .next (raises p.core excIllegal s1) := by
  have unfit : (isEret (longParcel p.cond 0x30 0) && nxt != nopParcel) = true := by
    simp [isEret, isPair_long, majorOf_long, other]
  have run : runCond ⟨p.core, (s.core p.core).pc, false⟩ (longParcel p.cond 0x30 0) nxt s1 = .exc excIllegal s1 := by
    rw [runCond, condOf_long _ _ _ (by decide), if_pos (show condHolds p.cond (s1.core p.core).run.flags = true from holds), if_pos unfit]
  have legal : parcelIllegal (longParcel p.cond 0x30 0) nxt = false := long_legal_before (by decide) rfl rfl noTransfer noRep nofun
  rw [longCmd, parcelCmd_ready ready, legal, if_neg (by decide), run]
  exact congrArg _ (takeExc_free free)

end

/-- Settles O14: each transfer's flow is its `run…_eq`, and a transfer's flow ends before its delay parcel. -/
theorem transfersAwaitTheirDelayParcel : Obligations.TransfersAwaitTheirDelayParcel := by
  unfold Obligations.TransfersAwaitTheirDelayParcel
  intro p f nxt s s1 noTransfer noRep holds c pc near ret
  refine ⟨fun ready => ?br, fun ready room => ?call, fun x t cells settled => ⟨fun ready => ?brx, fun ready room => ?callx⟩,
    fun x t rets ready => ?ret, fun ready level => ?eret, fun ready other free => ?eretIllegal⟩
  case br => exact longCmd_transfer noTransfer noRep holds (.inl rfl) ready rfl
  case call => exact longCmd_transfer noTransfer noRep holds (.inr rfl) ready (runCall_eq ready.buffer f room)
  case brx => exact soloCmd_transfer noTransfer noRep holds (by decide) ready (runBrx_eq ready.buffer cells settled)
  case callx => exact soloCmd_transfer noTransfer noRep holds (by decide) ready (runCallx_eq ready.buffer cells settled room)
  case ret => exact soloCmd_transfer noTransfer noRep holds (by decide) ready (runRet_eq ready.buffer rets)
  case eret => exact (longCmd_eret holds ready level).trans (congrArg _ (eretFlow_eq c s1))
  case eretIllegal => exact longCmd_eret_illegal holds noTransfer noRep ready other free

/-! ## After a parcel that is done -/

section
variable {c : CoreId} {s : State}

/-- R221: LOOPCNT counts down and stays at 0 (the model's choice, notes/assumptions/23.md). -/
theorem loopcnt_down (x : BitVec 32) : (if x = 0 then 0 else x - 1) = BitVec.ofNat 32 (x.toNat - 1) := by
  have := x.isLt
  split
  · rename_i zero
    simp [zero]
  · rename_i more
    have pos : x.toNat ≠ 0 := fun zero => more (BitVec.eq_of_toNat_eq zero)
    apply BitVec.eq_of_toNat_eq
    simp only [BitVec.toNat_sub, BitVec.toNat_ofNat, show (1 : BitVec 32).toNat = 1 from rfl]
    omega

theorem ofNat_pred_eq_zero (x : BitVec 32) : BitVec.ofNat 32 (x.toNat - 1) = 0 ↔ x.toNat - 1 = 0 := by
  have := x.isLt
  rw [← BitVec.toNat_inj, BitVec.toNat_ofNat]
  change (x.toNat - 1) % 2 ^ 32 = 0 ↔ _
  omega

theorem followOn_rep {r : Rep} (rep : (s.core c).rep = some r) : followOn c s =
    let k := s.core c
    let n := k.run.loopcnt.toNat - 1
    let k1 := k.putRun { k.run with loopcnt := BitVec.ofNat 32 n }
    setCore c (if n = 0 then { k1 with rep := none, pc := advance k.pc 1 } else { k1 with rep := some { r with first := false, mid := false } }) s := by
  unfold followOn
  simp only [rep, loopcnt_down, ofNat_pred_eq_zero]

theorem followOn_delay {d : Delay} (noRep : (s.core c).rep = none) (delay : (s.core c).delay = some d) : followOn c s =
    if d.eret then doEret c (setCore c { s.core c with delay := none } s)
    else setCore c (if d.taken then { s.core c with
        delay := none, pc := d.target, chk := if d.check then some d.src else none, code := none }
      else { s.core c with delay := none, pc := advance (s.core c).pc 1 }) s := by
  unfold followOn
  simp only [noRep, delay]
  cases d.taken <;> rfl

theorem followOn_next (noRep : (s.core c).rep = none) (noDelay : (s.core c).delay = none) :
    followOn c s = setCore c { s.core c with pc := advance (s.core c).pc 1 } s := by
  unfold followOn
  simp only [noRep, noDelay]

end

/-- Settles O16: `followOn` goes by the repetition, then the pending target, then the next parcel. -/
theorem executionGoesOn : Obligations.ExecutionGoesOn := by
  unfold Obligations.ExecutionGoesOn
  intro c s k
  refine ⟨fun pa n => rfl, followOn_next, fun d noRep delay plain => ?_, fun d noRep delay eret => ?_, fun r => followOn_rep⟩
  · rw [followOn_delay noRep delay, plain, if_neg (by decide)]
  · rw [followOn_delay noRep delay, eret, if_pos rfl]

end Sys2Proof.Proofs
end

section
/-! SUPPORT. REP, SYNC, FENCE and BRK (R220, R221, R256, R267, R278). -/

namespace Sys2Proof.Proofs

open Sys2Proof.Machine Sys2Proof.Claims Sys2Proof.Laws

/-! ## REP -/

theorem takesPending_noDivide {k : Core} (n : Nat) (b : Bank) (idle : k.divide = none) : takesPending k.pendingCell n b = false := by
  simp [Core.pendingCell, idle, takesPending]

/-- R220, R221: the iterations of the parcel after the REP at `cx.pc` begin, or that parcel is passed. -/
def beginIterations (cx : Cx) (ni : Bool) (n : Nat) (s : State) : State := withCore cx.c (fun k =>
  let k1 := k.putRun { k.run with loopcnt := BitVec.ofNat 32 n }
  if n = 0 then { k1 with pc := advance cx.pc 2 } else { k1 with pc := advance cx.pc 1, rep := some ⟨cx.pc, ni, true, false⟩ }) s

section
variable {cx : Cx} {f : BitVec 10} {s : State}

theorem runRep_immediate (counted : f.toNat % 512 ≠ 0) :
    runRep cx f s = .ok .moved (beginIterations cx (f.getLsbD 9) (f.toNat % 512) s) := by
  unfold runRep
  exact if_pos (bne_iff_ne.mpr counted)

theorem runRep_popped {x : W64} {t : List W64} (uncounted : f.toNat % 512 = 0) (cells : (bank cx.c s).oc = x :: t)
    (settled : takesPending (s.core cx.c).pendingCell 1 (bank cx.c s) = false) (buffer : (s.core cx.c).sb.length ≤ 16) :
    runRep cx f s = .ok .moved (beginIterations cx (f.getLsbD 9) (Nat.min x.toNat (2 ^ 32 - 1)) (putBank cx.c { bank cx.c s with oc := t } s)) := by
  unfold runRep
  rw [uncounted, if_neg (by decide), needCells_one cells settled]
  simp only [Out.next_ok, top_area cells, onFrame_pop buffer cells settled]
  rfl

end

section
variable {p : PCtx} {f : BitVec 10} {nxt : BitVec 20} {s s1 s2 : State}

theorem longCmd_rep (noTransfer : isTransfer nxt = false) (noRep : isRep nxt = false) (noSolo : hasSolo nxt = false)
    (ready : Ready p (longParcel p.cond 0x3C f) nxt s s1) (holds : condHolds p.cond (bank p.core s1).flags = true)
    (run : runRep ⟨p.core, (s.core p.core).pc, false⟩ f s1 = .ok .moved s2) :
    longCmd p 0x3C f nxt s = .next (stepEnd p.core (dropHeld p.core s2)) := by
  rw [longCmd_ready (by decide) ready (long_legal_before (by decide) rfl rfl noTransfer noRep fun _ => noSolo) holds (.inl (by decide)),
    show runLong ⟨p.core, (s.core p.core).pc, false⟩ 0x3C f s1 = .ok .moved s2 from run]
  rfl

/-- A solo operation beside NOP that no delay parcel follows. -/
theorem soloCmd_alone {sa : Nat} {o : Out Flow} (solo : 0x80 ≤ sa ∧ sa ≤ 0x85) (ready : Ready p (pairParcel p.cond sa 0) nopParcel s s1)
    (holds : condHolds p.cond (bank p.core s1).flags = true) (run : runSolo ⟨p.core, (s.core p.core).pc, false⟩ sa s1 = o) :
    pairCmd p sa 0 nopParcel s = .next (flowOut p.core (presented p (pairParcel p.cond sa 0) nopParcel s) o) := by
  rw [soloCmd_ready solo ready (solo_legal solo rfl rfl) holds, run]

end

/-! ## SYNC, FENCE, BRK -/

section
variable {c : CoreId} {s : State}

theorem runSync_eq : runSync c s =
    let s2 := withCore c (fun k => { k with latent := [], code := none, lbact := false }) s
    .ok .done (if (s.core c).detOn && !(s.core c).act.getLsbD 1 then flushDcache c s2 else s2) := by
  unfold runSync
  simp only [core_withCore]
  rfl

theorem runFence_drained (drained : (s.core c).sb = []) : runFence c s = .ok .done s := by
  simp [runFence, needDrained, drained]

theorem runFence_waits (stores : (s.core c).sb ≠ []) : runFence c s = .hold .fence s := by
  simp [runFence, needDrained, stores]

theorem runBrk_halts (level : dbgLevel s = 2) (idle : (s.core c).divide = none) : runBrk c s = .ok .brk s := by
  simp [runBrk, level, idle]

theorem runBrk_raises (level : dbgLevel s ≠ 2) : runBrk c s = .exc excBreak s := by
  simp [runBrk, level]

end

/-- Settles O18: each operation's flow is its `run…` equation. -/
theorem repSyncFenceBrk : Obligations.RepSyncFenceBrk := by
  unfold Obligations.RepSyncFenceBrk
  intro p f nxt s s1 holds idle c pc iterate
  refine ⟨fun noTransfer noRep noSolo ready => ⟨fun counted => ?immediate, fun x t uncounted cells => ?popped⟩, fun ready => ?sync,
    fun ready => ⟨fun drained => ?drained, fun stores => ?waits⟩, fun ready => ⟨fun level free => ?raises, fun level => ?halts⟩⟩
  case immediate => exact longCmd_rep noTransfer noRep noSolo ready holds (runRep_immediate counted)
  case popped =>
    exact longCmd_rep noTransfer noRep noSolo ready holds
      (runRep_popped uncounted cells (takesPending_noDivide _ _ idle) ready.buffer)
  case sync => exact soloCmd_alone (by decide) ready holds runSync_eq
  case drained => exact soloCmd_alone (by decide) ready holds (runFence_drained drained)
  case waits => exact soloCmd_alone (by decide) ready holds (runFence_waits stores)
  case raises => exact (soloCmd_alone (by decide) ready holds (runBrk_raises level)).trans (congrArg _ (exc_flow free))
  case halts => exact soloCmd_alone (by decide) ready holds (runBrk_halts level idle)

end Sys2Proof.Proofs
end

section
/-! SUPPORT. Reserved parcels, synchronous exceptions, and parcels whose condition does not hold (R207 to R209, R215, R219, R342 to R346). -/

namespace Sys2Proof.Proofs

open Sys2Proof.Machine Sys2Proof.Claims Sys2Proof.Laws

/-! ## Reserved parcels -/

theorem parcelCmd_illegal {p : PCtx} {w nxt : BitVec 20} {s s1 : State} (ready : Ready p w nxt s s1) (illegal : parcelIllegal w nxt = true) :
    parcelCmd p w nxt s = .next (takeExc p.core excIllegal (presented p w nxt s) s1) := by
  rw [parcelCmd_ready ready, if_pos illegal]

theorem reservedLong_illegal {w : BitVec 20} (notPair : isPair w = false)
    (reserved : majorListed (majorOf w) = false ∨ fieldLegal (majorOf w) (fieldOf w) = false) : parcelIllegal w nopParcel = true := by
  rcases reserved with reserved | reserved <;> simp [parcelIllegal, codeIllegal, notPair, reserved]

/-- R209: the pairs that are forbidden. -/
theorem pairLegal_false {a b : ShortInfo} (forbidden : (a.cls = .x ∧ b.cls ≠ .n) ∨ (b.cls = .x ∧ a.cls ≠ .n) ∨ (a.cls = .m ∧ b.cls = .m) ∨
    (a.cls = .k ∧ b.cls = .k)) : pairLegal a b = false := by
  rcases forbidden with ⟨ha, hb⟩ | ⟨hb, ha⟩ | ⟨ha, hb⟩ | ⟨ha, hb⟩ <;> simp [pairLegal, ha, hb]

theorem reservedPair_illegal {w : BitVec 20} (pair : isPair w = true)
    (reserved : shortInfo (saOf w) = none ∨ shortInfo (sbOf w) = none ∨
      ∃ a b, shortInfo (saOf w) = some a ∧ shortInfo (sbOf w) = some b ∧ pairLegal a b = false) : parcelIllegal w nopParcel = true := by
  have code : codeIllegal w = true := by
    unfold codeIllegal
    rw [if_pos pair]
    rcases reserved with first | second | ⟨a, b, first, second, forbidden⟩
    · rw [first]
    · rw [second]
      cases shortInfo (saOf w) <;> rfl
    · rw [first, second]
      exact congrArg (! ·) forbidden
  simp [parcelIllegal, code]

/-- Settles O24: a reserved parcel is `parcelIllegal`, and what it raises is `takeExc`. -/
theorem reservedParcelsRaiseIllegal : Obligations.ReservedParcelsRaiseIllegal := by
  unfold Obligations.ReservedParcelsRaiseIllegal
  intro p w s s1 ready s0 raised
  refine ⟨?long, ?pair⟩
  case long =>
    intro notPair m reserved
    exact ⟨_, parcelCmd_illegal ready (reservedLong_illegal notPair reserved), rfl⟩
  case pair =>
    intro pair a b reserved
    refine ⟨_, parcelCmd_illegal ready (reservedPair_illegal pair (reserved.imp_right (Or.imp_right ?_))), rfl⟩
    rintro ⟨i, j, first, second, forbidden⟩
    exact ⟨i, j, first, second, pairLegal_false forbidden⟩

/-! ## Synchronous exceptions -/

/-- R342: the level that a synchronous exception enters, in numbers. -/
theorem excLevel_eq (k : Core) (code : Nat) : k.excLevel code =
    if k.level.toNat = 7 ∨ decide (code = 0x08 ∨ code = 0x20) = true ∨ bitAt 14 (k.bank k.level).estat = true then 7 else k.level.toNat := by
  have seventh : k.level = 7 ↔ k.level.toNat = 7 := BitVec.toNat_inj.symm
  simp only [Core.excLevel, estatLive, seventh, decide_eq_true_eq, or_assoc]

theorem excLevel_lt (k : Core) (code : Nat) : k.excLevel code < 8 := by
  have := k.level.isLt
  unfold Core.excLevel
  split <;> omega

section
variable (c : CoreId) (t : Nat) (sv : Saved) (eaddr : Option W64) (estat : BitVec 7 → W64) (vector code src : Nat) (s : State)

theorem enterAt_core : (enterAt c t sv eaddr estat vector code src s).core c = enterCore (s.core c) t sv eaddr estat vector := by
  rw [enterAt_eq, traceEntry, core_trace]
  split <;> exact core_setCore _ _ _

theorem enterAt_evc : (enterAt c t sv eaddr estat vector code src s).evc =
    if (s.core c).level.toNat < t then s.evc.set c { s.evc.get c with active := (s.evc.get c).active ||| BitVec.ofNat 8 (2 ^ t) } else s.evc := by
  rw [enterAt_eq, traceEntry, evc_trace]
  split <;> rfl

end

/-- R344: ESTAT as a synchronous exception writes it, over the STATUS `st` of the interrupted level. -/
def excEstat (k : Core) (e : Exc) (st : BitVec 7) : W64 :=
  let live := bitAt 14 (k.bank k.level).estat
  mkEstat e.code.toNat false k.saved.bpend k.saved.rpend e.split
    (decide (k.level.toNat < 7) && !decide (e.code.toNat = 0x08 ∨ e.code.toNat = 0x20) && live) (decide (k.level.toNat = 7) && live) 0 st

/-- R293, R342: a synchronous exception is an entry, unless it is a stack overflow at level 7. -/
theorem enterExc_eq {c : CoreId} {e : Exc} {s : State} (noLockup : ¬ (e.code.toNat = 0x08 ∧ (s.core c).level.toNat = 7)) :
    enterExc c e s = enterAt c ((s.core c).excLevel e.code.toNat) (s.core c).saved (some e.eaddr) (excEstat (s.core c) e)
      ((s.core c).exvec.toNat * 1024 + 16 * e.code.toNat) e.code.toNat 0 s :=
  if_neg noLockup

/-- Settles O26: the entry is `enterAt`, whose core is `enterCore`; of the banks it writes the entered level's alone, and of that one no stack. -/
theorem synchronousEntry : Obligations.SynchronousEntry := by
  unfold Obligations.SynchronousEntry
  intro c e s k0 l live seven lev t k st sv noLockup
  have level : k0.excLevel e.code.toNat = lev := excLevel_eq k0 e.code.toNat
  have below : lev < 8 := level ▸ excLevel_lt k0 e.code.toNat
  have entered := enterExc_eq noLockup
  rw [level] at entered
  have core : k = enterCore k0 lev sv (some e.eaddr) (excEstat k0 e) (k0.exvec.toNat * 1024 + 16 * e.code.toNat) :=
    (congrArg (·.core c) entered).trans (enterAt_core ..)
  obtain ⟨newLevel, running, pc, latent, lockRes, chk, delay, rep, written, others, -⟩ :=
    enterCore_facts k0 lev sv (some e.eaddr) (excEstat k0 e) (k0.exvec.toNat * 1024 + 16 * e.code.toNat)
  rw [← core] at newLevel running pc latent lockRes chk delay rep written others
  rw [← newLevel] at written others
  refine ⟨?level, running, pc, latent, lockRes, chk, delay, rep, by rw [written], by rw [written], by rw [written]; rfl, by rw [written]; rfl,
    by rw [written], fun m => ?cells, others, ?active⟩
  case level =>
    rw [newLevel, BitVec.toNat_ofNat]
    exact Nat.mod_eq_of_lt below
  case cells =>
    by_cases same : m = k.level
    · rw [same, written]
      exact ⟨rfl, rfl, rfl, rfl⟩
    · rw [others m same]
      exact ⟨rfl, rfl, rfl, rfl⟩
  case active => exact (congrArg (·.evc) entered).trans (enterAt_evc ..)

/-! ## Parcels whose condition does not hold -/

/-- R209: a solo operation pairs with NOP alone, so neither half of another legal pair is one. -/
theorem noSolo_of_half {cond : BitVec 3} {sa : Nat} {sb : BitVec 8} (below : sa < 256) (legal : codeIllegal (pairParcel cond sa sb) = false)
    (half : ∃ i, shortInfo sa = some i ∧ i.cls ≠ .x ∧ i.cls ≠ .n) :
    ¬ (0x80 ≤ sa ∧ sa ≤ 0x85) ∧ ¬ (0x80 ≤ sb.toNat ∧ sb.toNat ≤ 0x85) := by
  obtain ⟨i, first, notX, notN⟩ := half
  refine ⟨fun solo => ?_, fun solo => ?_⟩ <;> obtain ⟨j, listed, isX⟩ := solo_sb solo
  · rw [first] at listed
    cases listed
    exact notX isX
  · simp [codeIllegal, isPair_pair _ _ _ below, saOf_pair _ _ _ below, sbOf_pair _ _ _ below, first, listed, pairLegal, isX, notN] at legal

theorem pair_legal_beforeNop {cond : BitVec 3} {sa : Nat} {sb : BitVec 8} (below : sa < 256) (legal : codeIllegal (pairParcel cond sa sb) = false) :
    parcelIllegal (pairParcel cond sa sb) nopParcel = false := by
  simp [parcelIllegal, legal, isPair_pair _ _ _ below, nextIllegal_of_allowed (nxt := nopParcel) rfl rfl fun _ => rfl]

section
variable {p : PCtx} {s s1 : State} {nxt : BitVec 20} (fails : condHolds p.cond (bank p.core s1).flags = false)
include fails

theorem longCmd_fails {m : Nat} {f : BitVec 10} (below : m < 64) (legal : parcelIllegal (longParcel p.cond m f) nxt = false)
    (noDelay : m ≠ 0x08 ∧ m ≠ 0x09 ∧ m ≠ 0x30) (ready : Ready p (longParcel p.cond m f) nxt s s1) :
    longCmd p m f nxt s = .next (ends p.core s1) :=
  fails_plain ready legal (by rw [condOf_long _ _ _ below]; exact fails) (by simp [hasDelay_long below, noDelay])

theorem pairCmd_fails {sa : Nat} {sb : BitVec 8} (below : sa < 256) (legal : parcelIllegal (pairParcel p.cond sa sb) nxt = false)
    (noDelay : ¬ (0x80 ≤ sa ∧ sa ≤ 0x82) ∧ ¬ (0x80 ≤ sb.toNat ∧ sb.toNat ≤ 0x82)) (ready : Ready p (pairParcel p.cond sa sb) nxt s s1) :
    pairCmd p sa sb nxt s = .next (ends p.core s1) :=
  fails_plain ready legal (by rw [condOf_pair _ _ _ below]; exact fails) (by
    rw [hasDelay_pair below, Bool.or_eq_false_iff, ← Bool.decide_and, ← Bool.decide_and, decide_eq_false_iff_not, decide_eq_false_iff_not]
    exact noDelay)

theorem longTransfer_fails {m : Nat} {f : BitVec 10} (transfers : m = 0x08 ∨ m = 0x09 ∨ m = 0x30) (field : fieldLegal m f = true)
    (noTransfer : isTransfer nxt = false) (noRep : isRep nxt = false) (ready : Ready p (longParcel p.cond m f) nxt s s1) :
    longCmd p m f nxt s = .next (beforeDelay p.core false 0 false
      (if m = 0x08 then loopBr p.core (s.core p.core).pc (advance (s.core p.core).pc f.toInt) false s1 else s1)) := by
  obtain ⟨below, listed, other⟩ : m < 64 ∧ majorListed m = true ∧ m ≠ 0x3C := by
    rcases transfers with rfl | rfl | rfl <;> decide
  have legal : parcelIllegal (longParcel p.cond m f) nxt = false :=
    long_legal_before below listed field noTransfer noRep fun rep => absurd rep other
  have delay : hasDelay (longParcel p.cond m f) = true := by
    rw [hasDelay_long below]
    rcases transfers with rfl | rfl | rfl <;> rfl
  rw [longCmd, fails_delay ready legal (by rw [condOf_long _ _ _ below]; exact fails) delay, isPair_long _ _ _ below, majorOf_long _ _ _ below,
    fieldOf_long _ _ _ below]
  simp [dispTarget]

theorem soloTransfer_fails {sa : Nat} (transfers : 0x80 ≤ sa ∧ sa ≤ 0x82) (noTransfer : isTransfer nxt = false) (noRep : isRep nxt = false)
    (ready : Ready p (pairParcel p.cond sa 0) nxt s s1) : pairCmd p sa 0 nxt s = .next (beforeDelay p.core false 0 false s1) := by
  have below : sa < 256 := by omega
  have delay : hasDelay (pairParcel p.cond sa 0) = true := by simp [hasDelay_pair below, transfers]
  rw [pairCmd, fails_delay ready (solo_legal ⟨transfers.1, by omega⟩ noTransfer noRep) (by rw [condOf_pair _ _ _ below]; exact fails) delay,
    isPair_pair _ _ _ below]
  rfl

end

/-- Settles O27: a parcel of each form has a `…_fails` lemma. -/
theorem failedConditionsDoNothing : Obligations.FailedConditionsDoNothing := by
  unfold Obligations.FailedConditionsDoNothing
  intro p s s1 fails
  refine ⟨?halves, ?longs, ?solos, fun f nxt noTransfer noRep => ⟨fun noSolo ready => ?rep, ?transfers⟩⟩
  case halves =>
    intro row listed sb ready legal
    obtain ⟨⟨below, -, half⟩, runs⟩ := half_code listed
    have noSolo := noSolo_of_half below legal half
    rw [runs, pairCmd_fails fails below (pair_legal_beforeNop below legal) (by omega) ready]
  case longs =>
    intro row listed f field ready
    obtain ⟨⟨below, known, plain⟩, runs⟩ := long_row listed
    rw [runs, longCmd_fails fails below (long_legal below known field plain) (by simp at plain; omega) ready]
  case solos =>
    simp only [List.forall_mem_cons]
    refine ⟨fun ready => ?_, fun ready => ?_, fun ready => ?_, nofun⟩ <;>
      exact pairCmd_fails fails (by decide) (solo_legal (by decide) rfl rfl) (by decide) ready
  case rep =>
    exact longCmd_fails fails (by decide) (long_legal_before (by decide) rfl rfl noTransfer noRep fun _ => noSolo) (by decide) ready
  case transfers =>
    exact ⟨longTransfer_fails fails (by decide) rfl noTransfer noRep, longTransfer_fails fails (by decide) rfl noTransfer noRep,
      soloTransfer_fails fails (by decide) noTransfer noRep, soloTransfer_fails fails (by decide) noTransfer noRep,
      soloTransfer_fails fails (by decide) noTransfer noRep, longTransfer_fails fails (by decide) rfl noTransfer noRep⟩

end Sys2Proof.Proofs
end

section
/-! SUPPORT. The privileged long operations below their level (R229, R233, R336). -/

namespace Sys2Proof.Proofs

open Sys2Proof.Machine Sys2Proof.Claims Sys2Proof.Laws

/-- R233: the MAJOR codes of the privileged long operations, other than CWR and CWW, with the level that each needs. -/
def privilegedMajors : List (Nat × Nat) :=
  [(0x24, 1), (0x25, 1), (0x26, 1), (0x27, 1), (0x30, 1), (0x31, 1), (0x34, 1), (0x35, 1), (0x38, 1), (0x2C, 2), (0x2D, 2), (0x2E, 2)]

/-- A privileged operation asks for its level before anything else. -/
theorem runLong_asksPriv {m n : Nat} (listed : (m, n) ∈ privilegedMajors) (cx : Cx) (f : BitVec 10) (s : State) :
    ∃ rest : Unit → State → Out Flow, runLong cx m f s = (needPriv cx.c n s).next rest := by
  simp only [privilegedMajors, List.mem_cons, Prod.mk.injEq, List.not_mem_nil, or_false] at listed
  rcases listed with ⟨rfl, rfl⟩ | ⟨rfl, rfl⟩ | ⟨rfl, rfl⟩ | ⟨rfl, rfl⟩ | ⟨rfl, rfl⟩ | ⟨rfl, rfl⟩ | ⟨rfl, rfl⟩ | ⟨rfl, rfl⟩ | ⟨rfl, rfl⟩ |
    ⟨rfl, rfl⟩ | ⟨rfl, rfl⟩ | ⟨rfl, rfl⟩ <;> exact ⟨_, rfl⟩

theorem runLong_priv {m n : Nat} (listed : (m, n) ∈ privilegedMajors) {cx : Cx} {f : BitVec 10} {s : State} (below : (s.core cx.c).pl < n) :
    runLong cx m f s = .exc excPriv s := by
  obtain ⟨rest, asks⟩ := runLong_asksPriv listed cx f s
  rw [asks, needPriv_exc below, Out.next_exc]

section
variable {p : PCtx} {s s1 : State} (holds : condHolds p.cond (bank p.core s1).flags = true) (free : entryFree p.core s1)
include holds free

theorem exec_long_priv {row : (PCtx → BitVec 10 → Instr) × Nat} {n : Nat} {f : BitVec 10} (listed : row ∈ longRows)
    (privileged : (row.2, n) ∈ privilegedMajors) (field : fieldLegal row.2 f = true) (below : (s1.core p.core).pl < n)
    (ready : Ready p (longParcel p.cond row.2 f) nopParcel s s1) : exec (row.1 p f) s = .next (raises p.core excPriv s1) :=
  exec_long_raises listed field ready holds free (runLong_priv privileged below)

theorem longCmd_eret_priv (below : (s1.core p.core).pl < 1) (ready : Ready p (longParcel p.cond 0x30 0) nopParcel s s1) :
    longCmd p 0x30 0 nopParcel s = .next (raises p.core excPriv s1) := by
  rw [longCmd_ready (by decide) ready (long_legal_before (by decide) rfl rfl rfl rfl nofun) holds (.inr rfl),
    runLong_priv (n := 1) (by decide) below, exc_flow free]

end

theorem eos_legal {f : BitVec 10} (level : f.toNat < 8) : fieldLegal 0x35 f = true := by
  have low : f.toNat &&& 0x3F8 = (f.toNat &&& 7) &&& 0x3F8 := by
    rw [show f.toNat &&& 7 = f.toNat from (Nat.and_two_pow_sub_one_eq_mod _ 3).trans (Nat.mod_eq_of_lt level)]
  simp [fieldLegal, low, Nat.and_assoc]

/-- Settles O25: each privileged operation asks for its level first (`runLong_asksPriv`). -/
theorem privilegedOperationsRaisePriv : Obligations.PrivilegedOperationsRaisePriv := by
  unfold Obligations.PrivilegedOperationsRaisePriv
  intro p s s1 holds free
  refine ⟨fun f field below => ?areas, fun below => ?supervisor, fun below => ?monitor⟩
  case areas =>
    exact ⟨exec_long_priv (row := (.saveu, 0x24)) holds free (by simp [longRows]) (by decide) (zero64 field) below,
      exec_long_priv (row := (.savel, 0x25)) holds free (by simp [longRows]) (by decide) (zero64 field) below,
      exec_long_priv (row := (.loadu, 0x26)) holds free (by simp [longRows]) (by decide) (zero64 field) below,
      exec_long_priv (row := (.loadl, 0x27)) holds free (by simp [longRows]) (by decide) (zero64 field) below⟩
  case supervisor =>
    exact ⟨longCmd_eret_priv holds free below,
      exec_long_priv (row := (.frtn, 0x31)) holds free (by simp [longRows]) (by decide) rfl below,
      exec_long_priv (row := (.ack, 0x34)) holds free (by simp [longRows]) (by decide) rfl below,
      fun f level => exec_long_priv (row := (.eos, 0x35)) holds free (by simp [longRows]) (by decide) (eos_legal level) below,
      exec_long_priv (row := (.wait, 0x38)) holds free (by simp [longRows]) (by decide) rfl below⟩
  case monitor =>
    exact ⟨exec_long_priv (row := (.invpg, 0x2C)) holds free (by simp [longRows]) (by decide) rfl below,
      exec_long_priv (row := (.invall, 0x2D)) holds free (by simp [longRows]) (by decide) rfl below,
      exec_long_priv (row := (.invwalk, 0x2E)) holds free (by simp [longRows]) (by decide) rfl below⟩

end Sys2Proof.Proofs
end

section
/-! SUPPORT. The stack operations, arithmetic, logic, compares and divides (R231, R251 to R254, R262, R292). -/

namespace Sys2Proof.Proofs

open Sys2Proof.Machine Sys2Proof.Claims Sys2Proof.Laws

/-! ## A half of a pair that stands beside NOP -/

section
variable {row : (PCtx → BitVec 8 → Instr) × Nat} (half : row ∈ halfRows) {p : PCtx} {s s1 s2 : State}
  (ready : Ready p (pairParcel p.cond row.2 0) nopParcel s s1) (holds : condHolds p.cond (bank p.core s1).flags = true)
include half ready holds

theorem exec_half_done {fr : Fr} {s3 : State} (runs : shortHalf p.core row.2 ⟨bank p.core s1, [], [], none⟩ s1 = .ok fr s2)
    (commits : commit p.core (fr.soiled (bank p.core s1) fr.b) s2 = .ok () s3) : exec (row.1 p 0) s = .next (ends p.core s3) := by
  obtain ⟨⟨below, -, cls⟩, -⟩ := half_code half
  obtain ⟨both, -, -⟩ := pairsExecuteBothHalves row half p 0 s s1 ready (nop_legal below cls) holds
  rw [both fr fr s2 s2 s3 runs (half_nop _ _ _) commits, show (0 : BitVec 8).toNat = 0 from rfl, countPair_nop]

theorem exec_half_raises {e : Exc} (runs : shortHalf p.core row.2 ⟨bank p.core s1, [], [], none⟩ s1 = .exc e s2)
    (free : entryFree p.core s2) : exec (row.1 p 0) s = .next (raises p.core e s2) := by
  obtain ⟨⟨below, -, cls⟩, -⟩ := half_code half
  exact (pairsExecuteBothHalves row half p 0 s s1 ready (nop_legal below cls) holds).2.1 e s2 runs free

end

/-- Where its cells are at hand, a half is its body and the check of room. -/
theorem shortHalf_body {c : CoreId} {code : Nat} {i : ShortInfo} {b : Bank} {s : State} (listed : shortInfo code = some i)
    (cells : i.takes ≤ b.oc.length) (rets : i.takesR ≤ b.rc.length) (idle : (s.core c).divide = none) :
    shortHalf c code ⟨b, [], [], none⟩ s = (shortBody c code ⟨b, [], [], none⟩ s).next (fun fr s1 =>
      (needRoom c b fr.b s1).next (fun _ s2 => .ok fr s2)) := by
  unfold shortHalf
  simp only [listed, needCells_div idle cells rets, Out.next_ok, awaitDivide_none]

theorem shortHalf_fits {c : CoreId} {b : Bank} {fr : Fr} {s : State} (room : hasRoom b fr.b = true) :
    (Out.ok fr s).next (fun fr s1 => (needRoom c b fr.b s1).next (fun _ s2 => .ok fr s2)) = .ok fr s := by
  rw [Out.next_ok, needRoom_ok room, Out.next_ok]

/-! ## Stack operations -/

theorem allOnesWord_eq : allOnesWord = BitVec.ofInt 64 (-1) := rfl

/-- R251: the cells that each stack operation but PICK leaves. -/
theorem stackResults (b : Bank) (a x y : W64) (t r : List W64) :
    halfResult 0x00 b = b ∧
    (b.oc = a :: t →
      halfResult 0x01 b = { b with oc := a :: a :: t } ∧ halfResult 0x02 b = { b with oc := t } ∧
      halfResult 0x0E b = { b with oc := t, rc := a :: b.rc }) ∧
    (b.oc = a :: x :: t →
      halfResult 0x03 b = { b with oc := x :: a :: t } ∧ halfResult 0x04 b = { b with oc := x :: a :: x :: t } ∧
      halfResult 0x06 b = { b with oc := a :: t } ∧ halfResult 0x07 b = { b with oc := a :: x :: a :: t } ∧
      halfResult 0x09 b = { b with oc := a :: x :: a :: x :: t } ∧ halfResult 0x0A b = { b with oc := t }) ∧
    (b.oc = a :: x :: y :: t → halfResult 0x05 b = { b with oc := y :: a :: x :: t }) ∧
    halfResult 0x0B b = { b with oc := 0 :: b.oc } ∧ halfResult 0x0C b = { b with oc := 1 :: b.oc } ∧
    halfResult 0x0D b = { b with oc := BitVec.ofInt 64 (-1) :: b.oc } ∧
    (b.rc = a :: r →
      halfResult 0x0F b = { b with oc := a :: b.oc, rc := r } ∧ halfResult 0x10 b = { b with oc := a :: b.oc } ∧
      halfResult 0x11 b = { b with rc := r }) ∧
    halfResult 0x12 b = { b with oc := BitVec.ofNat 64 (b.oc.length + b.osp.toNat) :: b.oc } := by
  obtain ⟨oc, osp, rc⟩ := b
  refine ⟨rfl, ?_, ?_, ?_, rfl, rfl, rfl, ?_, rfl⟩
  · rintro rfl
    exact ⟨rfl, rfl, rfl⟩
  · rintro rfl
    exact ⟨rfl, rfl, rfl, rfl, rfl, rfl⟩
  · rintro rfl
    rfl
  · rintro rfl
    exact ⟨rfl, rfl, rfl⟩

section
variable {c : CoreId} {b : Bank} {s : State} {n : W64} {t : List W64} (cells : b.oc = n :: t) (idle : (s.core c).divide = none)
include cells idle

/-- R251: PICK takes the cell that n mod 32 counts below n. -/
theorem shortHalf_pick {x : W64} (picked : t[n.toNat % 32]? = some x) :
    shortHalf c 0x08 ⟨b, [], [], none⟩ s = .ok ⟨{ b with oc := x :: t }, [], [], none⟩ s := by
  obtain ⟨within, -⟩ := List.getElem?_eq_some_iff.mp picked
  have deep : ¬ b.depth < n.toNat % 32 + 2 := by simp only [Bank.depth, cells, List.length_cons]; omega
  have body : shortBody c 0x08 ⟨b, [], [], none⟩ s = .ok ⟨{ b with oc := x :: t }, [], [], none⟩ s := by
    show pickOp c ⟨b, [], [], none⟩ s = _
    simp only [pickOp, cells, deep, if_false, picked, Core.pendingCell, idle]
    rfl
  rw [shortHalf_body rfl (by simp [cells]) (Nat.zero_le _) idle, body]
  exact shortHalf_fits (room_of_le (by simp [cells]) le_rfl)

/-- R292: PICK of a cell that the stack does not have. -/
theorem shortHalf_pick_underflows (short : t.length + b.osp.toNat < n.toNat % 32 + 1) :
    shortHalf c 0x08 ⟨b, [], [], none⟩ s = .exc excStkunf s := by
  have shallow : b.depth < n.toNat % 32 + 2 := by simp only [Bank.depth, cells, List.length_cons]; omega
  have body : shortBody c 0x08 ⟨b, [], [], none⟩ s = .exc excStkunf s := by
    show pickOp c ⟨b, [], [], none⟩ s = _
    simp only [pickOp, cells, shallow, if_true]
  rw [shortHalf_body rfl (by simp [cells]) (Nat.zero_le _) idle, body, Out.next_exc]

end

/-- Settles O2: each stack operation by its row, and PICK as the half `shortHalf_pick` beside NOP. -/
theorem stackOperationResults : Obligations.StackOperationResults := by
  unfold Obligations.StackOperationResults
  refine ⟨stackResults, fun p s s1 n t ready holds cells idle => ⟨fun x picked => ?picks, fun short free => ?underflows⟩⟩
  case picks =>
    rw [pair_alone (row := (.pick, 0x08)) (by simp [halfRows]) ready holds (shortHalf_pick cells idle picked) ready.buffer, committed_nil,
      putBank_marked]
  case underflows =>
    exact exec_half_raises (row := (.pick, 0x08)) (by simp [halfRows]) ready holds (shortHalf_pick_underflows cells idle short) free

/-! ## Arithmetic and logic -/

theorem addFlags_noCarry (f : Flg) (x a : W64) : addFlags f x a false =
    (x + a, mkFlags (flT f) (x + a == 0) (decide ((x + a).toInt < 0)) (decide (2 ^ 64 ≤ x.toNat + a.toNat))
      (decide ((x + a).toInt ≠ x.toInt + a.toInt))) := by
  simpa [b2n] using add_flags f x a false

theorem subFlags_noBorrow (f : Flg) (x a : W64) : subFlags f x a false =
    (x - a, mkFlags (flT f) (x - a == 0) (decide ((x - a).toInt < 0)) (decide (a.toNat ≤ x.toNat))
      (decide ((x - a).toInt ≠ x.toInt - a.toInt))) := by
  simpa [b2n] using sub_flags f x a false

theorem b2n_not (h : Bool) : b2n (!h) = 1 - b2n h := by cases h <;> rfl

/-- R252: ABS, whose only overflow is that of the least value. -/
theorem abs_flags (f : Flg) (a : W64) : alu1 0x32 f a =
    (BitVec.ofInt 64 |a.toInt|, flagsZNV f (BitVec.ofInt 64 |a.toInt|) (decide (a.toInt = -(2 ^ 63)))) := by
  have least : a = minWord ↔ a.toInt = -(2 ^ 63) := by
    rw [← BitVec.toInt_inj]
    rfl
  show (if a = minWord then (minWord, flagsZNV f minWord true) else
    (if a.getLsbD 63 then 0 - a else a, flagsZNV f (if a.getLsbD 63 then 0 - a else a) false)) = _
  by_cases isLeast : a = minWord
  · rw [if_pos isLeast, decide_eq_true (least.mp isLeast), isLeast]
    rfl
  · have value : (if a.getLsbD 63 then 0 - a else a) = BitVec.ofInt 64 |a.toInt| := by
      simp only [msb_toInt, decide_eq_true_eq]
      split
      · rename_i negative
        rw [abs_of_neg negative, BitVec.ofInt_neg, BitVec.ofInt_toInt, zero_sub]
      · rename_i positive
        rw [abs_of_nonneg (not_lt.mp positive), BitVec.ofInt_toInt]
    rw [if_neg isLeast, value, decide_eq_false (fun h => isLeast (least.mpr h))]

section
variable {b : Bank} {a : W64} {t : List W64} {r : W64 × Flg}

/-- A code that takes two cells, by its value. -/
theorem halfResult_two (code : Nat) {x : W64} (cells : b.oc = a :: x :: t) (value : alu2 code b.flags x a = r) (low : 0x20 ≤ code := by decide)
    (high : code < 0x50 ∨ code = 0x60 := by decide)
    (two : (code == 0x24 || code == 0x25 || code == 0x26 || code == 0x32 || code == 0x3C || (0x42 ≤ code && code ≤ 0x47)) = false := by decide) :
    halfResult code b = { b with oc := r.1 :: t, flags := r.2 } := by
  rw [aluOp2 code b a x t cells low high two, value]

/-- A code that takes one cell, by its value. -/
theorem halfResult_one (code : Nat) (cells : b.oc = a :: t) (value : alu1 code b.flags a = r) (low : 0x20 ≤ code := by decide)
    (high : code < 0x50 := by decide)
    (one : (code == 0x24 || code == 0x25 || code == 0x26 || code == 0x32 || code == 0x3C || (0x42 ≤ code && code ≤ 0x47)) = true := by decide) :
    halfResult code b = { b with oc := r.1 :: t, flags := r.2 } := by
  rw [aluOp1 code b a t cells low high one, value]

end

theorem pair_zn (f : Flg) {r r' : W64} (value : r = r') :
    (r, flagsZN f r) = (r', mkFlags (flT f) (r' == 0) (decide (r'.toInt < 0)) (flC f) (flV f)) := by
  rw [value, zn_eq]

/-- R253: the number of 1 bits. -/
theorem popc_toNat (a : W64) : (BitVec.ofNat 64 (popc64 a)).toNat = ((List.range 64).map (fun i => b2n (a.getLsbD i))).sum := by
  have few : popc64 a ≤ 64 := (List.length_filter_le _ _).trans (by simp)
  rw [BitVec.toNat_ofNat, Nat.mod_eq_of_lt (few.trans_lt (by decide))]
  exact popc_sum _ _

/-- Settles O3: each result is `alu1` or `alu2` of its code (`halfResult_one`, `halfResult_two`), and its flags are those of `add_flags`,
`sub_flags` and `zn_eq`. -/
theorem arithmeticAndLogicResults : Obligations.ArithmeticAndLogicResults := by
  unfold Obligations.ArithmeticAndLogicResults
  refine ⟨?arithmetic, ?logic⟩
  case arithmetic =>
    intro b a x t f sum diff keep c n
    refine ⟨fun cells => ⟨halfResult_two 0x20 cells (addFlags_noCarry f x a), halfResult_two 0x21 cells (subFlags_noBorrow f x a),
      halfResult_two 0x22 cells (add_flags f x a (flC f)), ?sbc, halfResult_two 0x27 cells (pair_zn f rfl), halfResult_two 0x28 cells (pair_zn f rfl),
      halfResult_two 0x29 cells (pair_zn f rfl), halfResult_two 0x2E cells (pair_zn f rfl), halfResult_two 0x2F cells (pair_zn f rfl),
      halfResult_two 0x30 cells (pair_zn f rfl), halfResult_two 0x31 cells (pair_zn f rfl)⟩,
      fun cells => ⟨?neg, halfResult_one 0x25 cells (addFlags_noCarry f a 1), halfResult_one 0x26 cells (subFlags_noBorrow f a 1), ?abs⟩⟩
    case sbc =>
      have value := sub_flags f x a (!flC f)
      rw [b2n_not] at value
      exact halfResult_two 0x23 cells value
    case neg => exact halfResult_one 0x24 cells (subFlags_noBorrow f 0 a)
    case abs =>
      have value := abs_flags f a
      rw [znv_eq] at value
      exact halfResult_one 0x32 cells value
  case logic =>
    intro b a x t put n
    have below : n < 64 := Nat.mod_lt _ (by decide)
    refine ⟨fun cells => ⟨halfResult_two 0x38 cells (pair_zn _ rfl), halfResult_two 0x39 cells (pair_zn _ rfl),
      halfResult_two 0x3A cells (pair_zn _ rfl), halfResult_two 0x3B cells (pair_zn _ rfl), halfResult_two 0x3D cells (pair_zn _ (shl_nat x n)),
      halfResult_two 0x3E cells (pair_zn _ (shr_nat x n)), halfResult_two 0x3F cells (pair_zn _ (sar_int x n)),
      halfResult_two 0x40 cells (pair_zn _ (rol_nat x n below)), halfResult_two 0x41 cells (pair_zn _ (ror_nat x n below))⟩,
      fun cells => ⟨halfResult_one 0x3C cells (pair_zn _ rfl), halfResult_one 0x46 cells (pair_zn _ rfl),
      halfResult_one 0x47 cells (pair_zn _ ?zext), ⟨_, halfResult_one 0x42 cells (pair_zn _ rfl), popc_toNat a⟩,
      ⟨_, halfResult_one 0x43 cells (pair_zn _ rfl), ?clz⟩, ⟨_, halfResult_one 0x44 cells (pair_zn _ rfl), ?ctz⟩,
      ⟨_, halfResult_one 0x45 cells (pair_zn _ rfl), fun i => bswap_ok a i⟩⟩⟩
    case zext =>
      apply BitVec.eq_of_toNat_eq
      simp
    case clz =>
      obtain ⟨most, clear, set⟩ := clz_ok a
      rw [BitVec.toNat_ofNat, Nat.mod_eq_of_lt (most.trans_lt (by decide))]
      exact ⟨most, clear, set⟩
    case ctz =>
      obtain ⟨most, clear, set⟩ := ctz_ok a
      rw [BitVec.toNat_ofNat, Nat.mod_eq_of_lt (most.trans_lt (by decide))]
      exact ⟨most, clear, set⟩

/-! ## Compares -/

theorem sub_beq_zero (x a : W64) : (x - a == 0) = (x == a) := by
  rw [Bool.eq_iff_iff, beq_iff_eq, beq_iff_eq]
  exact sub_eq_zero

theorem halfResult_compare (code : Nat) {b : Bank} {a x : W64} {t : List W64} (cells : b.oc = a :: x :: t) (low : 0x50 ≤ code := by decide)
    (high : code ≤ 0x59 := by decide) : halfResult code b =
      { b with
        oc := t
        flags := mkFlags (compareHolds code x a) (x == a) (decide ((x - a).toInt < 0)) (decide (a.toNat ≤ x.toNat))
          (decide ((x - a).toInt ≠ x.toInt - a.toInt)) } := by
  rw [aluOpC code b a x t cells low high, compareFlags_eq, sub_beq_zero]

/-- R254: FLAGS after TST and TSTK. -/
theorem testFlags_eq (f : Flg) (a : W64) : testFlags f a = mkFlags (a != 0) (a == 0) (decide (a.toInt < 0)) (flC f) (flV f) := by
  rw [testFlags, zn_eq, withT_mk]

/-- R254: the truth operations, which take no cell. -/
theorem truthResults (b : Bank) :
    halfResult 0x5C b = { b with oc := (if flT b.flags then 1 else 0) :: b.oc } ∧ halfResult 0x5D b = { b with flags := withT b.flags true } ∧
    halfResult 0x5E b = { b with flags := withT b.flags false } ∧ halfResult 0x5F b = { b with flags := withT b.flags (!flT b.flags) } := by
  have word : BitVec.ofNat 64 (b2n (flT b.flags)) = if flT b.flags then 1 else 0 := by cases flT b.flags <;> rfl
  rw [← word]
  obtain ⟨oc, osp, rc⟩ := b
  cases oc <;> exact ⟨rfl, rfl, rfl, rfl⟩

/-- Settles O4: a compare by `compareFlags_eq`, the tests by `testFlags_eq`, the truth operations by `truthResults`. -/
theorem compareResults : Obligations.CompareResults := by
  unfold Obligations.CompareResults
  intro b a x t f cmp test
  refine ⟨fun cells => ?compares, fun cells => ?tests, truthResults b⟩
  case compares =>
    refine ⟨halfResult_compare 0x50 cells, halfResult_compare 0x51 cells, halfResult_compare 0x52 cells, halfResult_compare 0x53 cells,
      halfResult_compare 0x54 cells, halfResult_compare 0x55 cells, halfResult_compare 0x56 cells, halfResult_compare 0x57 cells,
      halfResult_compare 0x58 cells, halfResult_compare 0x59 cells, ?_⟩
    exact halfResult_two 0x60 cells rfl
  case tests =>
    have flags : test = testFlags f a := (testFlags_eq f a).symm
    rw [flags]
    constructor
    · simp [halfResult, aluOp, cells, Fr.setOF, f]
    · simp [halfResult, aluOp, cells, Fr.setOF, f]

/-! ## Divides -/

section
variable (f : Flg) (x a : W64)

/-- R252: the one signed division that overflows. -/
theorem divideOverflow_iff : (x = minWord ∧ a = allOnesWord) ↔ (x.toInt = -(2 ^ 63) ∧ a.toInt = -1) := by
  rw [← BitVec.toInt_inj, ← BitVec.toInt_inj (x := a)]
  rfl

theorem divs_value : alu2 0x2B f x a = (BitVec.ofInt 64 (Int.tdiv x.toInt a.toInt),
    flagsZNV f (BitVec.ofInt 64 (Int.tdiv x.toInt a.toInt)) (decide (x.toInt = -(2 ^ 63) ∧ a.toInt = -1))) := by
  show (if x = minWord ∧ a = allOnesWord then _ else _) = _
  by_cases overflow : x = minWord ∧ a = allOnesWord
  · rw [if_pos overflow, decide_eq_true ((divideOverflow_iff x a).mp overflow), overflow.1, overflow.2]
    rfl
  · rw [if_neg overflow, decide_eq_false (fun h => overflow ((divideOverflow_iff x a).mpr h))]

theorem mods_value : alu2 0x2D f x a = (BitVec.ofInt 64 (Int.tmod x.toInt a.toInt),
    flagsZNV f (BitVec.ofInt 64 (Int.tmod x.toInt a.toInt)) (decide (x.toInt = -(2 ^ 63) ∧ a.toInt = -1))) := by
  show (if x = minWord ∧ a = allOnesWord then _ else _) = _
  by_cases overflow : x = minWord ∧ a = allOnesWord
  · rw [if_pos overflow, decide_eq_true ((divideOverflow_iff x a).mp overflow), overflow.1, overflow.2]
    rfl
  · rw [if_neg overflow, decide_eq_false (fun h => overflow ((divideOverflow_iff x a).mpr h))]

end

theorem divide_code {row : (PCtx → BitVec 8 → Instr) × Nat} (h : row ∈ divideRows) :
    row ∈ halfRows ∧ isDivide row.2 = true ∧ ∃ w, shortInfo row.2 = some ⟨.a, 2, 1, 0, 0, 0, w⟩ := by
  refine ⟨by simp [halfRows, h], ?_⟩
  simp only [divideRows, List.mem_cons, List.not_mem_nil, or_false] at h
  rcases h with rfl | rfl | rfl | rfl <;> exact ⟨rfl, _, rfl⟩

theorem shortBody_divide {code : Nat} (divides : isDivide code = true) (c : CoreId) (fr : Fr) (s : State) :
    shortBody c code fr s = divideOp c code fr s := by
  have range : 0x2A ≤ code ∧ code ≤ 0x2D := by simpa [isDivide] using divides
  simp only [shortBody, show code ≠ 0 by omega, show code ≠ 8 by omega, show ¬ code < 0x20 by omega, divides, if_true, if_false]

section
variable {c : CoreId} {b : Bank} {s : State} {a x : W64} {t : List W64} {code : Nat} {w : Flg} (cells : b.oc = a :: x :: t)
  (idle : (s.core c).divide = none) (divides : isDivide code = true) (listed : shortInfo code = some ⟨.a, 2, 1, 0, 0, 0, w⟩)
include cells idle divides listed

/-- R252: a divisor of 0. -/
theorem shortHalf_divz (zero : a = 0) : shortHalf c code ⟨b, [], [], none⟩ s = .exc excDivz s := by
  have body : divideOp c code ⟨b, [], [], none⟩ s = .exc excDivz s := by simp [divideOp, cells, zero]
  rw [shortHalf_body listed (by simp [cells]) (Nat.zero_le _) idle, shortBody_divide divides, body, Out.next_exc]

/-- R262: a divide is dispatched, its result's cell the top one. -/
theorem shortHalf_divides {r : W64 × Flg} (value : alu2 code b.flags x a = r) (nonzero : a ≠ 0) :
    shortHalf c code ⟨b, [], [], none⟩ s =
      .ok ⟨{ b with oc := r.1 :: t, flags := r.2 }, [], [], some (t.length + b.osp.toNat)⟩ s := by
  have range : 0x2A ≤ code ∧ code ≤ 0x2D := by simpa [isDivide] using divides
  have result : aluOp code ⟨b, [], [], none⟩ = ⟨{ b with oc := r.1 :: t, flags := r.2 }, [], [], none⟩ := by
    have half := halfResult_two code cells value (by omega) (by omega) (by simp; omega)
    rw [halfResult, if_neg (by omega), if_neg (by omega)] at half
    rw [aluOp_frame, half]
  have body : divideOp c code ⟨b, [], [], none⟩ s =
      .ok ⟨{ b with oc := r.1 :: t, flags := r.2 }, [], [], some (t.length + b.osp.toNat)⟩ s := by
    simp only [divideOp, cells, nonzero, if_false, idle, Option.isSome_none, Bool.false_eq_true, result, Bank.depth, List.length_cons]
    rw [show t.length + 1 + b.osp.toNat - 1 = t.length + b.osp.toNat by omega]
  rw [shortHalf_body listed (by simp [cells]) (Nat.zero_le _) idle, shortBody_divide divides, body]
  exact shortHalf_fits (room_of_le (by simp [cells]) le_rfl)

end

/-- R262: a commitment that dispatches a divide. -/
theorem commit_divide {c : CoreId} {b : Bank} {i : Nat} {s : State} (buffer : (s.core c).sb.length ≤ 16) :
    commit c (Fr.soiled ⟨b, [], [], some i⟩ (bank c s) b) s =
      .ok () (setCore c { (s.core c).putRun b with divide := some ⟨(s.core c).level, i⟩ } s) := by
  have soiled : Fr.soiled ⟨b, [], [], some i⟩ (bank c s) b = ⟨marked (bank c s) b, [], [], some i⟩ :=
    congrArg (fun m => (⟨m, [], [], some i⟩ : Fr)) (pairBank_same (bank c s) b)
  have written : (s.core c).putRun (marked (bank c s) b) = (s.core c).putRun b :=
    congrArg ((s.core c).rawBank (s.core c).level) (marked_marked (bank c s) b)
  rw [soiled]
  unfold commit
  rw [if_neg (show ¬ (sbAdd (s.core c).sb []).length > 16 from Nat.not_lt.mpr buffer)]
  dsimp only
  rw [written]
  rfl

section
variable {row : (PCtx → BitVec 8 → Instr) × Nat} (listed : row ∈ divideRows) {p : PCtx} {s s1 : State} {a x : W64} {t : List W64}
  (holds : condHolds p.cond (bank p.core s1).flags = true) (cells : (bank p.core s1).oc = a :: x :: t)
  (idle : (s1.core p.core).divide = none) (ready : Ready p (pairParcel p.cond row.2 0) nopParcel s s1)
include listed holds cells idle ready

theorem exec_divide {r : W64} {fl : Flg} (value : alu2 row.2 (bank p.core s1).flags x a = (r, fl)) (nonzero : a ≠ 0) :
    exec (row.1 p 0) s = .next (ends p.core (setCore p.core
      { (s1.core p.core).putRun { bank p.core s1 with oc := r :: t, flags := fl } with
        divide := some ⟨(s1.core p.core).level, t.length + (bank p.core s1).osp.toNat⟩ } s1)) := by
  obtain ⟨half, divides, w, info⟩ := divide_code listed
  exact exec_half_done half ready holds (shortHalf_divides cells idle divides info value nonzero) (commit_divide ready.buffer)

theorem exec_divz (zero : a = 0) (free : entryFree p.core s1) : exec (row.1 p 0) s = .next (raises p.core excDivz s1) := by
  obtain ⟨half, divides, w, info⟩ := divide_code listed
  exact exec_half_raises half ready holds (shortHalf_divz cells idle divides info zero) free

end

/-- Settles O13: a divide is a half beside NOP (`exec_divide`, `exec_divz`), with its value and flags; DIVIDE_RESULT is its own equation. -/
theorem divides : Obligations.Divides := by
  unfold Obligations.Divides
  refine ⟨?dispatch, ?result⟩
  case dispatch =>
    intro p s s1 a x t holds cells idle f sv divided
    refine ⟨fun ready nonzero => ?divu, fun ready nonzero => ?divs, fun ready nonzero => ?modu, fun ready nonzero => ?mods,
      fun row listed ready zero free => exec_divz listed holds cells idle ready zero free⟩
    case divu => exact exec_divide (row := (.divu, 0x2A)) (by simp [divideRows]) holds cells idle ready (pair_zn f rfl) nonzero
    case divs =>
      have value := divs_value f x a
      rw [znv_eq] at value
      exact exec_divide (row := (.divs, 0x2B)) (by simp [divideRows]) holds cells idle ready value nonzero
    case modu => exact exec_divide (row := (.modu, 0x2C)) (by simp [divideRows]) holds cells idle ready (pair_zn f rfl) nonzero
    case mods =>
      have value := mods_value f x a
      rw [znv_eq] at value
      exact exec_divide (row := (.mods, 0x2D)) (by simp [divideRows]) holds cells idle ready value nonzero
  case result =>
    intro c s runs works
    have working : (s.core c).divide.isSome = true := Option.isSome_iff_ne_none.mpr works
    show execDivideResult c s = _
    simp only [execDivideResult, runs, if_true, divideDone, working, orRefuse]

end Sys2Proof.Proofs
end

section
/-! SUPPORT. Loads and stores (R232 to R234, R255, R275, R276). -/

namespace Sys2Proof.Proofs

open Sys2Proof.Machine Sys2Proof.Claims Sys2Proof.Laws

/-! ## Parcels that work on the frame -/

section
variable {c : CoreId} {n r : Nat} {f : Fr → State → Out Fr} {s : State} (cells : n ≤ (bank c s).oc.length) (rets : r ≤ (bank c s).rc.length)
  (settled : takesPending (s.core c).pendingCell n (bank c s) = false)
include cells rets settled

theorem onFrame_done {b : Bank} {sts : List SbEntry} {acc : List DAcc} {s2 : State}
    (runs : f ⟨bank c s, [], [], none⟩ s = .ok ⟨b, sts, acc, none⟩ s2) (room : hasRoom (bank c s) b = true)
    (fits : (sbAdd (s2.core c).sb sts).length ≤ 16) : onFrame c n r f s = .ok .done (committed c b sts acc s2) := by
  unfold onFrame
  simp only [run_frame, needCells_ok (fr := ⟨bank c s, [], [], none⟩) cells rets settled, Out.next_ok, runs, needRoom_ok room, commit_ok fits]

theorem onFrame_raises {e : Exc} {s2 : State} (runs : f ⟨bank c s, [], [], none⟩ s = .exc e s2) : onFrame c n r f s = .exc e s2 := by
  unfold onFrame
  simp only [run_frame, needCells_ok (fr := ⟨bank c s, [], [], none⟩) cells rets settled, Out.next_ok, runs, Out.next_exc]

end

/-! ## The address of LDC and STC -/

theorem fieldAt_zero (w : Nat) (v : W64) : fieldAt 0 w v = v.toNat % 2 ^ w := by simp [fieldAt]

theorem fieldAt_high_zero {a : W64} (low : a.toNat < 2 ^ 48) : fieldAt 48 16 a = 0 := by
  rw [fieldAt, Nat.shiftRight_eq_div_pow, Nat.div_eq_of_lt low, Nat.zero_mod]

theorem fieldAt_high_ne_zero {a : W64} (high : 2 ^ 48 ≤ a.toNat) : fieldAt 48 16 a ≠ 0 := by
  have below := a.isLt
  rw [fieldAt, Nat.shiftRight_eq_div_pow]
  omega

section
variable {b : Bank} {a : W64} {t : List W64} (f : BitVec 10) (cells : b.oc = a :: t) (s : State)
include cells

theorem offset8_ok (low : a.toNat < 2 ^ 48) : offset8 f ⟨b, [], [], none⟩ s =
    .ok ⟨{ b with oc := (a + BitVec.ofNat 64 (8 * (f.toNat % 64))) :: t }, [], [], none⟩ s := by
  simp only [offset8, cells, fieldAt_high_zero low, if_true]
  rfl

/-- R232: bits [63:48] of a base cell that are not 0. -/
theorem offset8_seg (high : 2 ^ 48 ≤ a.toNat) : offset8 f ⟨b, [], [], none⟩ s =
    .exc (excSeg (f.toNat / 64) ((a.toNat + 8 * (f.toNat % 64)) % 2 ^ 48)) s := by
  have offset : fieldAt 0 48 (a + BitVec.ofNat 64 (8 * (f.toNat % 64))) = (a.toNat + 8 * (f.toNat % 64)) % 2 ^ 48 := by
    rw [fieldAt_zero, BitVec.toNat_add, BitVec.toNat_ofNat]
    omega
  simp only [offset8, cells, fieldAt_high_ne_zero high, if_false, offset]
  rfl

end

/-! ## Loads -/

/-- The cells that a load leaves: the value, and below it the address advanced where the load says so. -/
theorem loadOp_ok {c : CoreId} {sel n : Nat} {sg post : Bool} {b : Bank} {addr v : W64} {t : List W64} {acc : List DAcc} {s s2 : State}
    (cells : b.oc = addr :: t) (loads : loadBytes c sel addr n needRead false s = .ok (v, acc) s2) :
    loadOp c sel n sg post ⟨b, [], [], none⟩ s =
      .ok ⟨{ b with oc := extend n sg v :: (if post then (addr + 8) :: t else t) }, [], acc, none⟩ s2 := by
  simp only [loadOp, cells, loads, Out.next_ok]
  rfl

section
variable {c : CoreId} {f : BitVec 10} {s s2 : State} {addr v : W64} {t : List W64} {acc : List DAcc} (cells : (bank c s).oc = addr :: t)
  (settled : takesPending (s.core c).pendingCell 1 (bank c s) = false)
include cells settled

theorem runLd_eq {n : Nat} {sg : Bool} (type : ldType (f.toNat / 8 % 8) = some (n, sg)) (buffer : (s2.core c).sb.length ≤ 16)
    (loads : loadBytes c (f.toNat / 64) addr n needRead false s = .ok (v, acc) s2) :
    runLd c f s = .ok .done (committed c { bank c s with oc := extend n sg v :: t } [] acc s2) := by
  rw [runLd, type]
  exact onFrame_done (by simp [cells]) (Nat.zero_le _) settled (loadOp_ok cells loads) (room_of_le (by simp [cells]) le_rfl) buffer

theorem runLdc_eq (low : addr.toNat < 2 ^ 48) (buffer : (s2.core c).sb.length ≤ 16)
    (loads : loadBytes c (f.toNat / 64) (addr + BitVec.ofNat 64 (8 * (f.toNat % 64))) 8 needRead false s = .ok (v, acc) s2) :
    runLdc c f s = .ok .done (committed c { bank c s with oc := v :: t } [] acc s2) := by
  refine onFrame_done (by simp [cells]) (Nat.zero_le _) settled ?_ (room_of_le (by simp [cells]) le_rfl) buffer
  rw [offset8_ok f cells s low, Out.next_ok]
  exact loadOp_ok rfl loads

theorem runLdc_seg (high : 2 ^ 48 ≤ addr.toNat) :
    runLdc c f s = .exc (excSeg (f.toNat / 64) ((addr.toNat + 8 * (f.toNat % 64)) % 2 ^ 48)) s := by
  refine onFrame_raises (by simp [cells]) (Nat.zero_le _) settled ?_
  rw [offset8_seg f cells s high, Out.next_exc]

end

/-! ## Values read -/

theorem or_highOnes {n : Nat} (few : 8 * n ≤ 64) {v : W64} (bound : v.toNat < 2 ^ (8 * n)) :
    (v ||| BitVec.ofNat 64 (2 ^ 64 - 2 ^ (8 * n))).toNat = v.toNat + (2 ^ 64 - 2 ^ (8 * n)) := by
  have split : 2 ^ 64 - 2 ^ (8 * n) = (2 ^ (64 - 8 * n) - 1) <<< (8 * n) := by
    rw [Nat.shiftLeft_eq, Nat.sub_mul, ← Nat.pow_add, Nat.sub_add_cancel few, Nat.one_mul]
  have fits : (2 ^ 64 - 2 ^ (8 * n)) % 2 ^ 64 = 2 ^ 64 - 2 ^ (8 * n) :=
    Nat.mod_eq_of_lt (Nat.sub_lt (by decide) (by positivity))
  rw [BitVec.toNat_or, BitVec.toNat_ofNat, fits, split, Nat.or_comm, ← Nat.shiftLeft_add_eq_or_of_lt bound, Nat.add_comm]

/-- R232: sign extension of a value of `n` bytes. -/
theorem signExtend_toInt {n : Nat} (some : 0 < n) (few : 8 * n ≤ 64) {v : W64} (bound : v.toNat < 2 ^ (8 * n)) :
    (extend n true v).toInt = if v.toNat < 2 ^ (8 * n - 1) then (v.toNat : Int) else v.toNat - 2 ^ (8 * n) := by
  have double : 2 ^ (8 * n) = 2 * 2 ^ (8 * n - 1) := by rw [← Nat.pow_succ']; congr 1; omega
  have most : 2 ^ (8 * n) ≤ 2 ^ 64 := Nat.pow_le_pow_right (by decide) few
  have cast : ((2 : Int) ^ (8 * n)) = ((2 ^ (8 * n) : Nat) : Int) := by push_cast; rfl
  have sign : v.getLsbD (8 * n - 1) = decide (2 ^ (8 * n - 1) ≤ v.toNat) := by
    rw [BitVec.getLsbD, Nat.testBit_eq_decide_div_mod_eq, decide_eq_decide]
    have quotient : v.toNat / 2 ^ (8 * n - 1) < 2 := by rw [Nat.div_lt_iff_lt_mul (by positivity)]; omega
    have whole := Nat.one_le_div_iff (a := v.toNat) (show 0 < 2 ^ (8 * n - 1) by positivity)
    generalize v.toNat / 2 ^ (8 * n - 1) = q at quotient whole
    omega
  have value : extend n true v = if 2 ^ (8 * n - 1) ≤ v.toNat then v ||| BitVec.ofNat 64 (2 ^ 64 - 2 ^ (8 * n)) else v := by
    simp only [extend, sign, Bool.true_and, decide_eq_true_eq]
  rw [value]
  split
  · rename_i negative
    rw [if_neg (Nat.not_lt.mpr negative), BitVec.toInt_eq_toNat_cond, or_highOnes few bound, if_neg (by omega), cast]
    omega
  · rename_i positive
    rw [if_pos (Nat.not_le.mp positive), BitVec.toInt_eq_toNat_cond, if_pos (by omega)]

theorem ld_legal {f : BitVec 10} (low : f.toNat % 8 = 0) (listed : f.toNat / 8 % 8 ≠ 7) : fieldLegal 0x10 f = true := by
  have zero : (f.toNat &&& 7 == 0) = true := zero_and (k := 3) rfl low
  simp only [fieldLegal, zero, Bool.true_and, bne_iff_ne]
  exact listed

/-- R234: TYPE of LD. -/
theorem ldType_of_mem {t n : Nat} {sg : Bool}
    (listed : (t, n, sg) ∈ [(0, 1, false), (1, 1, true), (2, 2, false), (3, 2, true), (4, 4, false), (5, 4, true), (6, 8, false)]) :
    ldType t = some (n, sg) ∧ t ≠ 7 := by
  simp only [List.mem_cons, Prod.mk.injEq, List.not_mem_nil, or_false] at listed
  rcases listed with ⟨rfl, rfl, rfl⟩ | ⟨rfl, rfl, rfl⟩ | ⟨rfl, rfl, rfl⟩ | ⟨rfl, rfl, rfl⟩ | ⟨rfl, rfl, rfl⟩ | ⟨rfl, rfl, rfl⟩ |
    ⟨rfl, rfl, rfl⟩ <;> exact ⟨rfl, by decide⟩

theorem load_half {row : (PCtx → BitVec 8 → Instr) × Nat × Nat × Bool × Bool} (listed : row ∈ loadRows) :
    (row.1, row.2.1) ∈ halfRows := by
  simp only [halfRows, List.mem_append, List.mem_map]
  exact .inl (.inr ⟨row, listed, rfl⟩)

/-- Settles O10: a short load is the half `half_load` beside NOP, LD and LDC are `runLd_eq` and `runLdc_eq`; a value read is bounded by
`load_lt` and extended by `signExtend_toInt`. -/
theorem loadsPushTheirValue : Obligations.LoadsPushTheirValue := by
  unfold Obligations.LoadsPushTheirValue
  refine ⟨fun p s s1 s2 addr v t acc holds cells settled buffer => ⟨?short, ?ld, ?ldc, ?seg⟩, ?bound, ?extension⟩
  case short =>
    intro row listed ready room loads
    obtain ⟨info, body⟩ := load_code listed
    exact pair_alone (load_half listed) ready holds (half_load info (body p.core) cells rfl settled room loads) buffer
  case ld =>
    intro f n sg ready low type loads
    obtain ⟨known, notReserved⟩ := ldType_of_mem type
    exact exec_long_done (row := (.ld, 0x10)) (by simp [longRows]) (ld_legal low notReserved) ready holds
      (runLd_eq cells settled known buffer loads)
  case ldc =>
    intro f ready low loads
    exact exec_long_done (row := (.ldc, 0x12)) (by simp [longRows]) rfl ready holds (runLdc_eq cells settled low buffer loads)
  case seg =>
    intro f ready high free
    exact exec_long_raises (row := (.ldc, 0x12)) (by simp [longRows]) rfl ready holds free (runLdc_seg cells settled high)
  case bound => exact fun c sel addr n need locked s s' v acc _ most loads => load_lt most loads
  case extension =>
    intro n size v bound
    refine ⟨rfl, signExtend_toInt ?_ ?_ bound⟩ <;> simp only [List.mem_cons, List.not_mem_nil, or_false] at size <;> omega

/-! ## Stores -/

theorem storeOp_ok {c : CoreId} {sel n : Nat} {post : Bool} {b : Bank} {addr v : W64} {t : List W64} {es : List SbEntry} {acc : List DAcc}
    {s s2 : State} (cells : b.oc = addr :: v :: t) (stores : storeBytes c sel addr n v s = .ok (es, acc) s2) :
    storeOp c sel n post ⟨b, [], [], none⟩ s = .ok ⟨{ b with oc := if post then (addr + 8) :: t else t }, es, acc, none⟩ s2 := by
  simp only [storeOp, cells, stores, Out.next_ok]
  rfl

section
variable {c : CoreId} {f : BitVec 10} {s s2 : State} {addr v : W64} {t : List W64} {es : List SbEntry} {acc : List DAcc}
  (cells : (bank c s).oc = addr :: v :: t) (settled : takesPending (s.core c).pendingCell 2 (bank c s) = false)
  (fits : (sbAdd (s2.core c).sb es).length ≤ 16)
include cells settled fits

theorem runSt_eq (stores : storeBytes c (f.toNat / 64) addr (2 ^ (f.toNat / 16 % 4)) v s = .ok (es, acc) s2) :
    runSt c f s = .ok .done (committed c { bank c s with oc := t } es acc s2) :=
  onFrame_done (by simp [cells]) (Nat.zero_le _) settled (storeOp_ok cells stores) (room_of_le (by simp [cells]; omega) le_rfl) fits

theorem runStc_eq (low : addr.toNat < 2 ^ 48)
    (stores : storeBytes c (f.toNat / 64) (addr + BitVec.ofNat 64 (8 * (f.toNat % 64))) 8 v s = .ok (es, acc) s2) :
    runStc c f s = .ok .done (committed c { bank c s with oc := t } es acc s2) := by
  refine onFrame_done (by simp [cells]) (Nat.zero_le _) settled ?_ (room_of_le (by simp [cells]; omega) le_rfl) fits
  rw [offset8_ok f cells s low, Out.next_ok]
  exact storeOp_ok rfl stores

end

/-! ## The bytes of a store -/

/-- The low `n` bytes of a value, as a store takes them. -/
def lowBytes (n : Nat) (v : W64) : W64 := BitVec.ofNat 64 (v.toNat % 2 ^ (8 * n))

theorem getLsbD_lowBytes (n : Nat) (v : W64) (i : Nat) : (lowBytes n v).getLsbD i = (decide (i < 8 * n) && v.getLsbD i) := by
  rw [BitVec.getLsbD, lowBytes, BitVec.toNat_ofNat, Nat.mod_eq_of_lt ((Nat.mod_le _ _).trans_lt v.isLt), Nat.testBit_mod_two_pow]
  rfl

/-- R276: what a store-buffer entry within one word holds of a byte. -/
theorem sbByte_entry {pa n : Nat} (v : W64) (pl : Nat) (within : pa % 8 + n ≤ 8) (bound : pa < 2 ^ 52) (a : Nat) :
    sbByte [sbEntry pa n v pl] a = if pa ≤ a ∧ a < pa + n then some (v.extractLsb' (8 * (a - pa)) 8) else none := by
  have word : (BitVec.ofNat 49 (pa / 8)).toNat = pa / 8 := by
    rw [BitVec.toNat_ofNat]
    omega
  have enabled : (BitVec.ofNat 8 ((2 ^ n - 1) * 2 ^ (pa % 8))).getLsbD (a % 8) = decide (pa % 8 ≤ a % 8 ∧ a % 8 < n + pa % 8) := by
    rw [BitVec.getLsbD_ofNat, testBit_ones, decide_eq_true (show a % 8 < 8 by omega), Bool.true_and, Bool.decide_and]
  have covered : (pa / 8 = a / 8 ∧ pa % 8 ≤ a % 8 ∧ a % 8 < n + pa % 8) ↔ (pa ≤ a ∧ a < pa + n) := by omega
  have found : sbByte [sbEntry pa n v pl] a =
      if pa ≤ a ∧ a < pa + n then some (wordByte (v <<< (8 * (pa % 8))) (a % 8)) else none := by
    simp only [sbByte, sbEntry, List.reverse_singleton, List.find?_singleton, word, enabled, Bool.and_eq_true, beq_iff_eq, decide_eq_true_eq, covered]
    split <;> rfl
  rw [found]
  split
  · rename_i inside
    congr 1
    apply BitVec.eq_of_getLsbD_eq
    intro i low
    have place : 8 * (a % 8) + i - 8 * (pa % 8) = 8 * (a - pa) + i := by omega
    simp only [wordByte, BitVec.getLsbD_extractLsb', BitVec.getLsbD_shiftLeft, place, low, decide_true, Bool.true_and]
    rw [decide_eq_true (show 8 * (a % 8) + i < 64 by omega), decide_eq_false (show ¬ 8 * (a % 8) + i < 8 * (pa % 8) by omega)]
    rfl
  · rfl

/-- A store within one aligned word makes one entry, at the translated address. -/
theorem storeBytes_inWord {c : CoreId} {sel n lin pa : Nat} {addr v : W64} {s s2 : State}
    (linear : segLinear (s.core c) (s.core c).pl .write sel addr n = some lin) (within : lin % 8 + n ≤ 8)
    (translated : dataXlate c (s.core c).pl lin needWrite false false s = .ok pa s2) :
    storeBytes c sel addr n v s = .ok ([sbEntry pa n (lowBytes n v) (s.core c).pl], [⟨true, n, pa, lowBytes n v⟩]) s2 := by
  simp only [storeBytes, linear, within, if_true, translated, Out.next_ok]
  rfl

theorem lowBytes_byte {n j : Nat} (v : W64) (inside : j < n) : (lowBytes n v).extractLsb' (8 * j) 8 = v.extractLsb' (8 * j) 8 := by
  apply BitVec.eq_of_getLsbD_eq
  intro i low
  simp only [BitVec.getLsbD_extractLsb', getLsbD_lowBytes]
  rw [decide_eq_true (show 8 * j + i < 8 * n by omega), Bool.true_and]

theorem st_legal {f : BitVec 10} (low : f.toNat % 16 = 0) : fieldLegal 0x11 f = true := zero_and (k := 4) rfl low

theorem store_half {row : (PCtx → BitVec 8 → Instr) × Nat × Nat × Bool} (listed : row ∈ storeRows) : (row.1, row.2.1) ∈ halfRows := by
  simp only [halfRows, List.mem_append, List.mem_map]
  exact .inr ⟨row, listed, rfl⟩

/-- Settles O11: a short store is the half `half_store` beside NOP, ST and STC are `runSt_eq` and `runStc_eq`; the bytes are those of
`sbByte_entry`. -/
theorem storesEnterTheStoreBuffer : Obligations.StoresEnterTheStoreBuffer := by
  unfold Obligations.StoresEnterTheStoreBuffer
  refine ⟨fun p s s1 s2 addr v t es acc holds cells settled fits => ⟨?short, ?st, ?stc⟩, ?bytes⟩
  case short =>
    intro row listed ready stores
    obtain ⟨info, body⟩ := store_code listed
    exact pair_alone (store_half listed) ready holds (half_store info (body p.core) cells rfl settled stores) fits
  case st =>
    intro f ready low stores
    exact exec_long_done (row := (.st, 0x11)) (by simp [longRows]) (st_legal low) ready holds (runSt_eq cells settled fits stores)
  case stc =>
    intro f ready low stores
    exact exec_long_done (row := (.stc, 0x13)) (by simp [longRows]) rfl ready holds (runStc_eq cells settled fits low stores)
  case bytes =>
    intro c sel addr v n lin pa s s2 _ _ linear within inWord bound translated
    refine ⟨_, _, storeBytes_inWord linear within translated, fun j inside => ?_, fun a outside => ?_⟩
    · rw [sbByte_entry _ _ inWord bound, if_pos (by omega), Nat.add_sub_cancel_left, lowBytes_byte v inside]
    · rw [sbByte_entry _ _ inWord bound, if_neg (by omega)]

end Sys2Proof.Proofs
end

section
/-! SUPPORT. LOCK and UNLOCK, chain issue and status (R238 to R240, R247 to R249, R258, R299). -/

namespace Sys2Proof.Proofs

open Sys2Proof.Machine Sys2Proof.Claims Sys2Proof.Laws

/-- A long operation that waits. -/
theorem exec_long_holds {row : (PCtx → BitVec 10 → Instr) × Nat} {p : PCtx} {f : BitVec 10} {s s1 s2 : State} {w : HoldFor}
    (listed : row ∈ longRows) (field : fieldLegal row.2 f = true) (ready : Ready p (longParcel p.cond row.2 f) nopParcel s s1)
    (holds : condHolds p.cond (bank p.core s1).flags = true) (run : runLong ⟨p.core, (s.core p.core).pc, false⟩ row.2 f s1 = .hold w s2) :
    exec (row.1 p f) s = .next (holdParcel p.core w s2) := by
  rw [exec_long listed field ready holds, run]
  rfl

/-- The top operand cells of a parcel are at hand. -/
theorem needCells_frame {c : CoreId} {n : Nat} {s : State} (cells : n ≤ (bank c s).oc.length)
    (settled : takesPending (s.core c).pendingCell n (bank c s) = false) : needCells c n 0 (s.core c).frame s = .ok () s :=
  needCells_ok (fr := ⟨bank c s, [], [], none⟩) cells (Nat.zero_le _) settled

/-! ## Aligned addresses (notes/assumptions/67.md) -/

section
variable {c : CoreId} {sel m b : Nat} {addr : W64} {s : State}

theorem needWhole_ok (aligned : addr.toNat % m = 0) (base : segBase ((s.core c).segNow sel).1 % b = 0) :
    needWhole c sel m b addr s = .ok () s := by
  rw [needWhole, needAlign_ok aligned, Out.next_ok, if_pos base]

theorem needWhole_exc (crooked : addr.toNat % m ≠ 0 ∨ segBase ((s.core c).segNow sel).1 % b ≠ 0) :
    needWhole c sel m b addr s = .exc (excAlign sel (addr.toNat % 2 ^ 48)) s := by
  by_cases aligned : addr.toNat % m = 0
  · rw [needWhole, needAlign_ok aligned, Out.next_ok, if_neg (crooked.resolve_left (not_not_intro aligned))]
    simp [fieldAt]
  · rw [needWhole, needAlign_exc aligned, Out.next_exc]

end

/-! ## LOCK -/

section
variable {c : CoreId} {f : BitVec 10} {s : State} {addr : W64} {t : List W64} (cells : (bank c s).oc = addr :: t)
  (settled : takesPending (s.core c).pendingCell 1 (bank c s) = false)
include cells settled

/-- R238: LOCK reads its word, and reserves its line where no grant has. -/
theorem runLock_eq {pa : Nat} {v : W64} {s2 : State} (aligned : addr.toNat % 8 = 0)
    (base : segBase ((s.core c).segNow (f.toNat / 64)).1 % 8 = 0)
    (translated : lockXlate c (f.toNat / 64) .read needLock addr s = .ok pa s)
    (reads : readBytes c (s.core c).pl pa 8 true false true s = .ok v s2) (buffer : (s2.core c).sb.length ≤ 16) :
    runLock c f s = .ok .done (if (ownBankWord s pa).isSome && (s.core c).got.any (fun g => g.word == pa / 8)
      then committed c { bank c s with oc := v :: t } [] [⟨false, 8, pa, v⟩] s2
      else withCore c (fun k => { k with lockRes := some (BitVec.ofNat 46 (pa / 64)) })
        (committed c { bank c s with oc := v :: t } [] [⟨false, 8, pa, v⟩] s2)) := by
  have held : 1 ≤ (bank c s).oc.length := by simp [cells]
  have word : onFrame c 1 0 (fun fr s => (readBytes c (s.core c).pl pa 8 true false true s).next (fun v s' =>
      .ok { fr.setO (v :: fr.b.oc.tail) with acc := [⟨false, 8, pa, v⟩] } s')) s =
      .ok .done (committed c { bank c s with oc := v :: t } [] [⟨false, 8, pa, v⟩] s2) := by
    refine onFrame_done held (Nat.zero_le _) settled ?_ (room_of_le (by simp [cells]) le_rfl) buffer
    simp only [reads, Out.next_ok, Fr.setO, cells, List.tail_cons]
  simp only [runLock, segOf, needCells_frame held settled, Out.next_ok, top_area cells, needWhole_ok aligned base, translated, word]

theorem runLock_align (crooked : addr.toNat % 8 ≠ 0 ∨ segBase ((s.core c).segNow (f.toNat / 64)).1 % 8 ≠ 0) :
    runLock c f s = .exc (excAlign (f.toNat / 64) (addr.toNat % 2 ^ 48)) s := by
  simp only [runLock, segOf, needCells_frame (by simp [cells]) settled, Out.next_ok, top_area cells, needWhole_exc crooked, Out.next_exc]

end

/-! ## UNLOCK -/

section
variable {c : CoreId} {s : State} {addr v : W64} {t : List W64} (cells : (bank c s).oc = addr :: v :: t)
  (settled : takesPending (s.core c).pendingCell 2 (bank c s) = false)
include cells settled

/-- R239: both ends of an UNLOCK pop its cells, write T and clear the reservation. -/
theorem unlockEnd_eq {pa : Nat} (wrote : Bool) (after : State → State) (buffer : (s.core c).sb.length ≤ 16) :
    unlockEnd c pa v wrote after s = .ok .done (withCore c (fun k => { k with lockRes := none }) (after
      (committed c { bank c s with oc := t, flags := withT (bank c s).flags wrote } [] (if wrote then [⟨true, 8, pa, v⟩] else []) s))) := by
  rw [unlockEnd, onFrame_pure (b := { bank c s with oc := t, flags := withT (bank c s).flags wrote })
    (acc := if wrote then [⟨true, 8, pa, v⟩] else []) (by simp [cells]) (Nat.zero_le _) settled
    (by simp [Fr.setOF, cells]) (room_of_le (by simp [cells]; omega) le_rfl) buffer, Out.next_ok]

variable {f : BitVec 10}

theorem runUnlock_align (crooked : addr.toNat % 8 ≠ 0 ∨ segBase ((s.core c).segNow (f.toNat / 64)).1 % 8 ≠ 0) :
    runUnlock c f s = .exc (excAlign (f.toNat / 64) (addr.toNat % 2 ^ 48)) s := by
  simp only [runUnlock, segOf, needCells_frame (by simp [cells]) settled, Out.next_ok, top_area cells, needWhole_exc crooked, Out.next_exc]

variable {pa : Nat} (aligned : addr.toNat % 8 = 0) (base : segBase ((s.core c).segNow (f.toNat / 64)).1 % 8 = 0)
  (translated : lockXlate c (f.toNat / 64) .write needWrite addr s = .ok pa s)
  (asksFirst : (ownBankWord s pa).isSome = true →
    (s.core c).got.find? (fun g => g.word == pa / 8) = none ∧ s.vs.reqs.any (fun r => r.dest == .unlock c (pa / 8)) = false)
include aligned base translated asksFirst

/-- R239, R258: what UNLOCK does before a bank has answered it, by whether its reservation holds and by where its word is. -/
theorem runUnlock_eq {held : Bool}
    (holds : (decide ((s.core c).lockRes = some (BitVec.ofNat 46 (pa / 64))) && !rivalStore s c (pa / 64)) = held) :
    runUnlock c f s =
      if held = false then unlockEnd c pa v false id s
      else if (s.core c).sb.isEmpty = false then .hold .drain s
      else match ownBankWord s pa with
        | none => unlockEnd c pa v true (unlockWrite c pa v) s
        | some w => .hold .vs (present [bankReq 15 w (.write v 255 false) ((s.core c).pl == 2) (.unlock c (pa / 8))] (voidDet c s)) := by
  have second : ((s.core c).run.oc.tail.head?).getD 0 = v := by
    rw [show (s.core c).run.oc = addr :: v :: t from cells]
    rfl
  simp only [runUnlock, segOf, needCells_frame (n := 2) (by simp [cells]) settled, Out.next_ok, top_area cells, needWhole_ok aligned base,
    translated, second, holds]
  cases own : ownBankWord s pa with
  | none => cases (s.core c).got.find? (fun g => g.word == pa / 8) <;> cases held <;> cases (s.core c).sb.isEmpty <;> rfl
  | some w =>
    obtain ⟨noAnswer, noRequest⟩ := asksFirst (by rw [own]; rfl)
    rw [noAnswer]
    simp only [noRequest]
    cases held <;> cases (s.core c).sb.isEmpty <;> rfl

end

/-- Settles O12: LOCK by `runLock_eq`, UNLOCK by `runUnlock_eq` and `unlockEnd_eq`, ALIGN by `needWhole_exc`. -/
theorem lockAndUnlock : Obligations.LockAndUnlock := by
  unfold Obligations.LockAndUnlock
  intro p f s s1 addr pa holds field base
  refine ⟨fun v t s2 ready cells settled => ⟨fun aligned based translated reads buffer => ?lock, fun crooked free => ?lockAlign⟩,
    fun v t ready cells settled => ⟨fun aligned based translated => ?unlock, fun crooked free => ?unlockAlign⟩⟩
  case lock =>
    exact exec_long_done (row := (.lock, 0x18)) (by simp [longRows]) (zero64 field) ready holds
      (runLock_eq cells settled aligned based translated reads buffer)
  case lockAlign =>
    exact exec_long_raises (row := (.lock, 0x18)) (by simp [longRows]) (zero64 field) ready holds free (runLock_align cells settled crooked)
  case unlockAlign =>
    exact exec_long_raises (row := (.unlock, 0x19)) (by simp [longRows]) (zero64 field) ready holds free
      (runUnlock_align cells settled crooked)
  case unlock =>
    intro reserved own asksFirst
    have listed : ((.unlock, 0x19) : (PCtx → BitVec 10 → Instr) × Nat) ∈ longRows := by simp [longRows]
    have run := fun {held : Bool} => runUnlock_eq (held := held) cells settled aligned based translated asksFirst
    have stands : reserved → (decide ((s1.core p.core).lockRes = some (BitVec.ofNat 46 (pa / 64))) && !rivalStore s1 p.core (pa / 64)) = true :=
      fun ⟨line, noRival⟩ => by rw [decide_eq_true line, noRival]; rfl
    refine ⟨fun lost => ?lost, fun kept drained outside => ?outside, fun w kept drained inside => ?inside⟩
    case lost =>
      have fails : (decide ((s1.core p.core).lockRes = some (BitVec.ofNat 46 (pa / 64))) && !rivalStore s1 p.core (pa / 64)) = false := by
        rw [← Bool.not_eq_true, Bool.and_eq_true, decide_eq_true_eq, Bool.not_eq_true']
        exact lost
      refine exec_long_done listed (zero64 field) ready holds ((run fails).trans ?_)
      rw [if_pos rfl, unlockEnd_eq cells settled false id ready.buffer]
      rfl
    case outside =>
      refine exec_long_done listed (zero64 field) ready holds ((run (stands kept)).trans ?_)
      rw [if_neg (by decide), drained, if_neg (by decide), Option.not_isSome_iff_eq_none.mp (Bool.eq_false_iff.mp outside)]
      exact unlockEnd_eq cells settled true _ ready.buffer
    case inside =>
      refine exec_long_holds listed (zero64 field) ready holds ((run (stands kept)).trans ?_)
      rw [if_neg (by decide), drained, if_neg (by decide), inside]

/-! ## VISSUE -/

section
variable {c : CoreId} {f : BitVec 10} {s : State} {x : W64} {t : List W64} {prog : ProgAddr} (cells : (bank c s).oc = x :: t)
  (settled : takesPending (s.core c).pendingCell 1 (bank c s) = false)
  (located : progAddr c (f.getLsbD 9) (f.toNat % 16) x s = .ok prog s) (drained : (s.core c).sb = [])
include cells settled located drained

/-- R247: the ticket of the lowest free entry, which takes the program and the translation state. -/
theorem runVissue_issues {e : Fin 8} (free : freeEntry s c = some e) : runVissue c f s =
    let s2 := setEntry c e { entry0 with taken := true, prog := prog, cap := captureCore (s.core c), stage := .queued }
      (putBank c { bank c s with
        oc := BitVec.ofNat 64 e.val :: t
        flags := withT (bank c s).flags true
        cstage := (bank c s).cstage ||| BitVec.ofNat 8 (2 ^ e.val) } s)
    .ok .done { s2 with iq := s.iq.set c (s.iq.get c ++ [e]) } := by
  have buffer : (s.core c).sb.length ≤ 16 := by simp [drained]
  simp only [runVissue, needCells_frame (n := 1) (by simp [cells]) settled, Out.next_ok, top_area cells, located, needDrained, drained,
    List.isEmpty_nil, if_true, free]
  rw [onFrame_takesOne buffer cells settled
    (b := { bank c s with
      oc := BitVec.ofNat 64 e.val :: t
      flags := withT (bank c s).flags true
      cstage := (bank c s).cstage ||| BitVec.ofNat 8 (2 ^ e.val) })
    (by simp only [cells, List.tail_cons]; rfl) (room_of_le (by simp [cells]) le_rfl), Out.next_ok]
  rfl

/-- R248: without a free entry VISSUE leaves all ones, or waits. -/
theorem runVissue_full (full : freeEntry s c = none) : runVissue c f s =
    if f.getLsbD 8 then .hold .entry s
    else .ok .done (putBank c { bank c s with oc := BitVec.ofInt 64 (-1) :: t, flags := withT (bank c s).flags false } s) := by
  have buffer : (s.core c).sb.length ≤ 16 := by simp [drained]
  simp only [runVissue, needCells_frame (n := 1) (by simp [cells]) settled, Out.next_ok, top_area cells, located, needDrained, drained,
    List.isEmpty_nil, if_true, full]
  rw [onFrame_takesOne buffer cells settled
    (b := { bank c s with oc := BitVec.ofInt 64 (-1) :: t, flags := withT (bank c s).flags false })
    (by simp only [cells, List.tail_cons]; rfl) (room_of_le (by simp [cells]) le_rfl)]

end

theorem freeEntry_lowest {s : State} {c : CoreId} {e : Fin 8} (free : (s.entry c e).taken = false)
    (below : ∀ d : Fin 8, d < e → (s.entry c d).taken = true) : freeEntry s c = some e :=
  find8 (P := fun e => !(s.entry c e).taken) (by simp [free]) (fun d lower => by simp [below d lower])

theorem freeEntry_none {s : State} {c : CoreId} (taken : ∀ d : Fin 8, (s.entry c d).taken = true) : freeEntry s c = none := by
  rw [freeEntry, List.find?_eq_none]
  simp [taken]

/-! ## VWAIT -/

section
variable {c : CoreId} {f : BitVec 10} {s : State} {x : W64} {t : List W64} (cells : (bank c s).oc = x :: t) (room : t.length ≤ 28)
  (settled : takesPending (s.core c).pendingCell 1 (bank c s) = false) (buffer : (s.core c).sb.length ≤ 16)
include cells room settled buffer

/-- R249: no record for VWAIT. -/
theorem vwaitPush_nothing : vwaitPush c [0, 0, 0, 0] false none s =
    .ok .done (putBank c { bank c s with oc := 0 :: 0 :: 0 :: 0 :: t, flags := withT (bank c s).flags false } s) :=
  vwait_push [0, 0, 0, 0] false none rfl cells room settled buffer

theorem runVwait_noTicket (foreign : 7 < x.toNat ∨ (bank c s).cstage.getLsbD x.toNat = false) : runVwait c f s =
    .ok .done (putBank c { bank c s with oc := 0 :: 0 :: 0 :: 0 :: t, flags := withT (bank c s).flags false } s) := by
  have nothing := vwaitPush_nothing cells room settled buffer
  simp only [runVwait, needCells_frame (n := 1) (by simp [cells]) settled, Out.next_ok, top_area cells]
  split
  · exact nothing
  · rename_i few
    rw [if_pos (by
      rw [show (s.core c).run.cstage.getLsbD x.toNat = false from foreign.resolve_left few]
      rfl)]
    exact nothing

/-- R249: VWAIT on a ticket of this context, by the entry's record. -/
theorem runVwait_ticket {e : Fin 8} (names : x.toNat = e.val) (own : (bank c s).cstage.getLsbD e.val = true) : runVwait c f s =
    match (s.entry c e).record with
    | some r => (vwaitPush c [r.w0, r.w1, r.w2, r.w3] true (if (s.entry c e).final then some e else none) s).next (fun f s2 =>
        .ok f (setEntry c e (if (s.entry c e).final then { s.entry c e with taken := false, record := none, final := false }
          else { s.entry c e with record := none }) s2))
    | none => if f.getLsbD 8 && (s.entry c e).taken then .hold .record s
      else .ok .done (putBank c { bank c s with oc := 0 :: 0 :: 0 :: 0 :: t, flags := withT (bank c s).flags false } s) := by
  have few : ¬ x.toNat > 7 := by omega
  have entry : (BitVec.ofNat 3 x.toNat).toFin = e := by
    rw [names]
    apply Fin.ext
    simp
  have ticket : (s.core c).run.cstage.getLsbD x.toNat = true := by
    rw [names]
    exact own
  rw [← vwaitPush_nothing cells room settled buffer]
  simp only [runVwait, needCells_frame (n := 1) (by simp [cells]) settled, Out.next_ok, top_area cells, few, if_false, ticket, entry] <;>
    rfl

/-- R249, R299: VWAIT takes the record, and with a chain's last one its entry. -/
theorem runVwait_record {e : Fin 8} {r : StatusRec} (names : x.toNat = e.val) (own : (bank c s).cstage.getLsbD e.val = true)
    (record : (s.entry c e).record = some r) : runVwait c f s =
    let b := { bank c s with oc := r.w0 :: r.w1 :: r.w2 :: r.w3 :: t, flags := withT (bank c s).flags true }
    .ok .done (if (s.entry c e).final
      then setEntry c e { s.entry c e with taken := false, record := none, final := false }
        (putBank c { b with cstage := b.cstage &&& ~~~ BitVec.ofNat 8 (2 ^ e.val) } s)
      else setEntry c e { s.entry c e with record := none } (putBank c b s)) := by
  rw [runVwait_ticket cells room settled buffer names own, record]
  dsimp only
  rw [vwait_push [r.w0, r.w1, r.w2, r.w3] true _ rfl cells room settled buffer, Out.next_ok]
  cases (s.entry c e).final <;> rfl

end

theorem vwait_legal {f : BitVec 10} (field : f.toNat = 0 ∨ f.toNat = 256) : fieldLegal 0x21 f = true := by
  rcases field with field | field <;> simp [fieldLegal, field]

/-- Bit 8 of VWAIT's field asks to wait. -/
theorem vwait_asks {f : BitVec 10} {n : Nat} (field : f.toNat = n) : f.getLsbD 8 = n.testBit 8 := by rw [BitVec.getLsbD, field]

/-- Settles O20: VISSUE by `runVissue_issues` and `runVissue_full`, VWAIT by `runVwait_noTicket` and `runVwait_ticket`. -/
theorem chainIssueAndStatus : Obligations.ChainIssueAndStatus := by
  unfold Obligations.ChainIssueAndStatus
  refine ⟨?vissue, ?vwait⟩
  case vissue =>
    intro p f s s1 x t prog holds ready field cells settled located drained c b
    have listed : ((.vissue, 0x20) : (PCtx → BitVec 10 → Instr) × Nat) ∈ longRows := by simp [longRows]
    have legal : fieldLegal 0x20 f = true := and_zero16 f field
    refine ⟨fun e free below => ?_, fun taken => ⟨fun noWait => ?_, fun waits => ?_⟩⟩
    · exact exec_long_done listed legal ready holds (runVissue_issues cells settled located drained (freeEntry_lowest free below))
    · refine exec_long_done listed legal ready holds ((runVissue_full cells settled located drained (freeEntry_none taken)).trans ?_)
      rw [if_neg (by rw [noWait]; decide)]
    · refine exec_long_holds listed legal ready holds ((runVissue_full cells settled located drained (freeEntry_none taken)).trans ?_)
      rw [if_pos waits]
  case vwait =>
    intro p f s s1 x t holds ready field cells room settled c b nothing
    have listed : ((.vwait, 0x21) : (PCtx → BitVec 10 → Instr) × Nat) ∈ longRows := by simp [longRows]
    have legal := vwait_legal field
    refine ⟨fun foreign => exec_long_done listed legal ready holds (runVwait_noTicket cells room settled ready.buffer foreign), ?_⟩
    intro e names own q
    have run := runVwait_ticket (f := f) cells room settled ready.buffer names own
    refine ⟨fun record asks => ?noWait, fun record asks idle => ?noChain, fun record asks taken => ?waits, fun r record => ?records⟩
    case noWait =>
      refine exec_long_done listed legal ready holds (run.trans ?_)
      rw [show (s1.entry c e).record = none from record, vwait_asks asks]
      rfl
    case noChain =>
      refine exec_long_done listed legal ready holds (run.trans ?_)
      rw [show (s1.entry c e).record = none from record, show (s1.entry c e).taken = false from idle, Bool.and_false]
      rfl
    case waits =>
      refine exec_long_holds listed legal ready holds (run.trans ?_)
      rw [show (s1.entry c e).record = none from record, show (s1.entry c e).taken = true from taken, vwait_asks asks]
      rfl
    case records =>
      intro oc
      have taken := exec_long_done listed legal ready holds (runVwait_record cells room settled ready.buffer names own record)
      refine ⟨fun more => ?_, fun last => ?_⟩
      · rw [taken, if_neg (by rw [show (s1.entry c e).final = false from more]; decide)]
      · rw [taken, if_pos last]

end Sys2Proof.Proofs
end

section
/-! SUPPORT. The block operations STM and LDM (R246, R301). -/

namespace Sys2Proof.Proofs

open Sys2Proof.Machine Sys2Proof.Claims Sys2Proof.Laws

/-- `i` is the lowest of the 32 mask bits that are set. -/
def lowestBit (mask : W64) (i : Nat) : Prop := i < 32 ∧ mask.getLsbD i = true ∧ ∀ j, j < i → mask.getLsbD j = false

/-- `j` is the highest of the 32 mask bits that are set. -/
def highestBit (mask : W64) (j : Nat) : Prop := j < 32 ∧ mask.getLsbD j = true ∧ ∀ i, j < i → i < 32 → mask.getLsbD i = false

theorem lowestSet_eq {mask : W64} {i : Nat} (low : lowestBit mask i) : lowestSet mask = some i := find_range_some low.1 low.2.1 low.2.2

theorem highestSet_eq {mask : W64} {j : Nat} (high : highestBit mask j) : highestSet mask = some j := find_rev_some high.1 high.2.1 high.2.2

/-- How an element of STM or LDM ends: with the highest bit nothing is left. -/
def blockFlow (i j : Nat) : Flow := if i = j then .done else .more

/-- The cells after an element, over the cells `u` below the address and the mask. -/
def blockCells (addr mask : W64) (i j : Nat) (u : List W64) : List W64 :=
  if i = j then u else (addr + 8) :: (mask &&& ~~~ BitVec.ofNat 64 (2 ^ i)) :: u

theorem depth_enough {b : Bank} {addr mask : W64} {t : List W64} {j : Nat} (cells : b.oc = addr :: mask :: t)
    (enough : j < t.length + b.osp.toNat) : ¬ b.depth < j + 3 := by
  simp only [Bank.depth, cells, List.length_cons]
  omega

section
variable {c : CoreId} {f : BitVec 10} {s : State} {addr mask : W64} {t : List W64} (cells : (bank c s).oc = addr :: mask :: t)
  (idle : (s.core c).divide = none)
include cells idle

theorem needCells_block : needCells c 2 0 ⟨bank c s, [], [], none⟩ s = .ok () s :=
  needCells_div idle (by simp [cells]) (Nat.zero_le _)

/-- R246: a mask without bits. -/
theorem runStmLdm_empty (load : Bool) (none32 : ∀ i, i < 32 → mask.getLsbD i = false) :
    runStmLdm c load f s = (needWhole c (f.toNat / 64) 8 8 addr s).next (fun _ s2 =>
      (commit c ⟨{ bank c s with oc := t }, [], [], none⟩ s2).next (fun _ s3 => .ok .done s3)) := by
  have noLowest : lowestSet mask = none := find_range_no none32
  unfold runStmLdm
  simp only [segOf, needCells_block cells idle, Out.next_ok, run_frame, cells, noLowest]
  rfl

variable {i j : Nat} (low : lowestBit mask i) (high : highestBit mask j)
include low high

/-- R246: too few cells for the highest bit. -/
theorem runStmLdm_underflows (load : Bool) (short : t.length + (bank c s).osp.toNat ≤ j) : runStmLdm c load f s = .exc excStkunf s := by
  have shallow : (bank c s).depth < j + 3 := by simp only [Bank.depth, cells, List.length_cons]; omega
  unfold runStmLdm
  simp only [segOf, needCells_block cells idle, Out.next_ok, run_frame, cells, lowestSet_eq low, highestSet_eq high, shallow, if_true]

variable (enough : j < t.length + (bank c s).osp.toNat)
include enough

theorem runStmLdm_align (load : Bool) (crooked : addr.toNat % 8 ≠ 0 ∨ segBase ((s.core c).segNow (f.toNat / 64)).1 % 8 ≠ 0) :
    runStmLdm c load f s = .exc (excAlign (f.toNat / 64) (addr.toNat % 2 ^ 48)) s := by
  unfold runStmLdm
  simp only [segOf, needCells_block cells idle, Out.next_ok, run_frame, cells, lowestSet_eq low, highestSet_eq high,
    depth_enough cells enough, if_false, needWhole_exc crooked, Out.next_exc]

variable (aligned : addr.toNat % 8 = 0) (base : segBase ((s.core c).segNow (f.toNat / 64)).1 % 8 = 0) (cached : i < t.length)
include aligned base cached

/-- R246: one element, at the cell of the lowest bit. -/
theorem runStmLdm_element (load : Bool) : runStmLdm c load f s =
    if load then (loadBytes c (f.toNat / 64) addr 8 needRead false s).next (fun r s4 =>
      (commit c ⟨{ bank c s with oc := blockCells addr mask i j (t.set i r.1) }, [], r.2, none⟩ s4).next (fun _ s5 => .ok (blockFlow i j) s5))
    else (storeBytes c (f.toNat / 64) addr 8 ((t[i]?).getD 0) s).next (fun r s4 =>
      (commit c ⟨{ bank c s with oc := blockCells addr mask i j t }, r.1, r.2, none⟩ s4).next (fun _ s5 => .ok (blockFlow i j) s5)) := by
  have left : (lowestSet (mask &&& ~~~ BitVec.ofNat 64 (2 ^ i))).isSome = decide (i ≠ j) := left_iff low high
  unfold runStmLdm
  simp only [segOf, needCells_block cells idle, Out.next_ok, run_frame, cells, lowestSet_eq low, highestSet_eq high,
    depth_enough cells enough, if_false, needWhole_ok aligned base, Nat.not_le.mpr cached, needDivide_ok idle, left,
    setCell_set cached, Fr.setO, decide_eq_true_eq, ne_eq, ite_not, blockCells, blockFlow]

theorem runLdm_element {v : W64} {acc : List DAcc} {s2 : State} (loads : loadBytes c (f.toNat / 64) addr 8 needRead false s = .ok (v, acc) s2)
    (buffer : (s2.core c).sb.length ≤ 16) : runStmLdm c true f s =
      .ok (blockFlow i j) (committed c { bank c s with oc := blockCells addr mask i j (t.set i v) } [] acc s2) := by
  rw [runStmLdm_element cells idle low high enough aligned base cached, if_pos rfl, loads, Out.next_ok, commit_ok (sts := []) buffer, Out.next_ok]

theorem runStm_element {es : List SbEntry} {acc : List DAcc} {s2 : State}
    (stores : storeBytes c (f.toNat / 64) addr 8 ((t[i]?).getD 0) s = .ok (es, acc) s2) (fits : (sbAdd (s2.core c).sb es).length ≤ 16) :
    runStmLdm c false f s = .ok (blockFlow i j) (committed c { bank c s with oc := blockCells addr mask i j t } es acc s2) := by
  rw [runStmLdm_element cells idle low high enough aligned base cached, if_neg (by decide), stores, Out.next_ok, commit_ok fits, Out.next_ok]

end

/-- The end of an element, as the state it leaves. -/
theorem flowOut_block (c : CoreId) (before s : State) (b : Bank) (addr mask : W64) (i j : Nat) (u : List W64) (es : List SbEntry)
    (acc : List DAcc) : flowOut c before (.ok (blockFlow i j) (committed c { b with oc := blockCells addr mask i j u } es acc s)) =
      if i = j then ends c (committed c { b with oc := u } es acc s)
      else stepEnd c (doFlow c .more (dropHeld c
        (committed c { b with oc := (addr + 8) :: (mask &&& ~~~ BitVec.ofNat 64 (2 ^ i)) :: u } es acc s))) := by
  by_cases last : i = j <;> simp only [blockFlow, blockCells, last, if_true, if_false] <;> rfl

/-- The rows of STM and LDM. -/
def blockRow (load : Bool) : (PCtx → BitVec 10 → Instr) × Nat := if load then (.ldm, 0x29) else (.stm, 0x28)

theorem blockRow_listed (load : Bool) : blockRow load ∈ longRows := by cases load <;> simp [blockRow, longRows]

theorem blockRow_legal (load : Bool) {f : BitVec 10} (field : f.toNat % 64 = 0) : fieldLegal (blockRow load).2 f = true := by
  cases load <;> exact zero64 field

theorem blockRow_run (load : Bool) (cx : Cx) (f : BitVec 10) (s : State) : runLong cx (blockRow load).2 f s = runStmLdm cx.c load f s := by
  cases load <;> rfl

/-- Settles O22: an element is `runLdm_element` or `runStm_element`, whose end is `flowOut_block`; the other cases have their lemma each. -/
theorem cellBlocks : Obligations.CellBlocks := by
  unfold Obligations.CellBlocks
  intro p f s s1 addr mask t holds field cells idle c low high row base crooked load ready
  have rowEq : row load = (blockRow load).1 p f := by cases load <;> rfl
  have standing : Ready p (longParcel p.cond (blockRow load).2 f) nopParcel s s1 := by cases load <;> exact ready
  have raised : ∀ e, runStmLdm c load f s1 = .exc e s1 → entryFree c s1 → exec (row load) s = .next (raises c e s1) := by
    intro e run free
    rw [rowEq]
    exact exec_long_raises (blockRow_listed load) (blockRow_legal load field) standing holds free ((blockRow_run ..).trans run)
  refine ⟨fun noBits => ⟨fun straight => ?emptied, fun bent free => raised _ ?emptyBent free⟩, fun i j lowest highest =>
    ⟨fun short free => raised _ (runStmLdm_underflows cells idle lowest highest load short) free,
      fun enough bent free => raised _ (runStmLdm_align cells idle lowest highest enough load bent) free, fun enough straight cached => ?element⟩⟩
  case emptied =>
    obtain ⟨aligned, whole⟩ : addr.toNat % 8 = 0 ∧ base % 8 = 0 := by
      simpa only [crooked, not_or, not_not] using straight
    rw [rowEq]
    refine exec_long_done (blockRow_listed load) (blockRow_legal load field) standing holds ((blockRow_run ..).trans ?_)
    rw [runStmLdm_empty cells idle load noBits, needWhole_ok aligned whole, Out.next_ok, commit_plain ready.buffer, Out.next_ok]
  case emptyBent =>
    rw [runStmLdm_empty cells idle load noBits, needWhole_exc bent, Out.next_exc]
  case element =>
    obtain ⟨aligned, whole⟩ : addr.toNat % 8 = 0 ∧ base % 8 = 0 := by
      simpa only [crooked, not_or, not_not] using straight
    intro mask' done
    refine ⟨fun v acc s2 isLoad loads buffer => ?_, fun es acc s2 isStore stores fits => ?_⟩
    · subst isLoad
      rw [show exec (.ldm p f) s = _ from exec_long (blockRow_listed true) (blockRow_legal true field) standing holds, blockRow_run,
        runLdm_element cells idle lowest highest enough aligned whole cached loads buffer, flowOut_block]
    · subst isStore
      rw [show exec (.stm p f) s = _ from exec_long (blockRow_listed false) (blockRow_legal false field) standing holds, blockRow_run,
        runStm_element cells idle lowest highest enough aligned whole cached stores fits, flowOut_block]

end Sys2Proof.Proofs
end

section
/-! SUPPORT. MOVB (R241 to R243). -/

namespace Sys2Proof.Proofs

open Sys2Proof.Machine Sys2Proof.Claims Sys2Proof.Laws

/-! ## Bytes that MOVB has written before (R242) -/

theorem beMask_one : ∀ j, j < 8 → beMask (BitVec.ofNat 8 (2 ^ j)) = 0xFF#64 <<< (8 * j) := by decide

theorem getLsbD_oneByte (p : Nat) : (0xFF#64).getLsbD p = decide (p < 8) := by
  rw [show (0xFF#64) = BitVec.ofNat 64 (2 ^ 8 - 1) from rfl, BitVec.getLsbD_ofNat, Nat.testBit_two_pow_sub_one, ← Bool.decide_and,
    decide_eq_decide]
  omega

/-- A merge of byte `j` writes that byte alone. -/
theorem mergeBytes_byte (m : W64) (x : Byte) {j k : Nat} (written : j < 8) (read : k < 8) :
    (mergeBytes m (x.zeroExtend 64 <<< (8 * j)) (BitVec.ofNat 8 (2 ^ j))).extractLsb' (8 * k) 8 =
      if k = j then x else m.extractLsb' (8 * k) 8 := by
  apply BitVec.eq_of_getLsbD_eq
  intro i low
  have inWord : 8 * k + i < 64 := by omega
  have masked : (beMask (BitVec.ofNat 8 (2 ^ j))).getLsbD (8 * k + i) = decide (k = j) := by
    rw [beMask_one j written, BitVec.getLsbD_shiftLeft, getLsbD_oneByte, decide_eq_true inWord, Bool.true_and, ← decide_not, ← Bool.decide_and,
      decide_eq_decide]
    omega
  rw [BitVec.getLsbD_extractLsb', decide_eq_true low, Bool.true_and, mergeBytes, BitVec.getLsbD_or, BitVec.getLsbD_and, BitVec.getLsbD_and,
    BitVec.getLsbD_not, masked, decide_eq_true inWord]
  by_cases same : k = j
  · subst same
    simp [inWord, low]
  · simp [same, low]

/-- One byte of `mixBytes`: a free value decides between the original value and the written one. -/
def mixByte (orig : List (Nat × Byte)) (slin : Nat) (a : W64 × State) (j : Nat) : W64 × State :=
  match orig.find? (fun e => e.1 == slin + j) with
  | none => a
  | some e =>
    (if a.2.takeBool.1 then mergeBytes a.1 (e.2.zeroExtend 64 <<< (8 * j)) (BitVec.ofNat 8 (2 ^ j)) else a.1, a.2.takeBool.2)

theorem mixBytes_succ (orig : List (Nat × Byte)) (slin n : Nat) (v : W64) (s : State) :
    mixBytes orig slin (n + 1) v s = mixByte orig slin (mixBytes orig slin n v s) n := by
  unfold mixBytes
  rw [List.range_succ, List.foldl_append]
  rfl

theorem mixByte_byte (orig : List (Nat × Byte)) (slin : Nat) (a : W64 × State) {j k : Nat} (written : j < 8) (read : k < 8) :
    (mixByte orig slin a j).1.extractLsb' (8 * k) 8 = a.1.extractLsb' (8 * k) 8 ∨
      k = j ∧ ∃ e ∈ orig, e.1 = slin + j ∧ (mixByte orig slin a j).1.extractLsb' (8 * k) 8 = e.2 := by
  unfold mixByte
  cases found : orig.find? (fun e => e.1 == slin + j) with
  | none => exact .inl rfl
  | some e =>
    dsimp only
    split
    · rw [mergeBytes_byte a.1 e.2 written read]
      split
      · rename_i same
        exact .inr ⟨same, e, List.mem_of_find?_eq_some found, by simpa using List.find?_some found, rfl⟩
      · exact .inl rfl
    · exact .inl rfl

/-- R242: each byte read is the one in memory, or the original value of one that this MOVB has written. -/
theorem mixBytes_byte (orig : List (Nat × Byte)) (slin : Nat) (v : W64) (s : State) (n : Nat) (few : n ≤ 8) (k : Nat) (read : k < 8) :
    (mixBytes orig slin n v s).1.extractLsb' (8 * k) 8 = v.extractLsb' (8 * k) 8 ∨
      ∃ e ∈ orig, e.1 = slin + k ∧ (mixBytes orig slin n v s).1.extractLsb' (8 * k) 8 = e.2 := by
  induction n with
  | zero => exact .inl rfl
  | succ n ih =>
    rw [mixBytes_succ]
    rcases mixByte_byte orig slin (mixBytes orig slin n v s) (show n < 8 by omega) read with kept | ⟨rfl, e, known, place, value⟩
    · rw [kept]
      exact ih (by omega)
    · exact .inr ⟨e, known, place, value⟩

/-! ## An element -/

section
variable {c : CoreId} {f : BitVec 10} {s : State} {n dst src : W64} {t : List W64} (cells : (bank c s).oc = n :: dst :: src :: t)
  (settled : takesPending (s.core c).pendingCell 3 (bank c s) = false)
include cells settled

theorem runMovb_end (none0 : n = 0) (buffer : (s.core c).sb.length ≤ 16) : runMovb c f s =
    .ok .done (withCore c (fun k => { k with movb := none }) (putBank c { bank c s with oc := t } s)) := by
  have run : (s.core c).run.oc = n :: dst :: src :: t := cells
  have held : 3 ≤ (bank c s).oc.length := by simp [cells]
  have popped : onFrame c 3 0 (pureFr (fun fr => fr.setO t)) s = .ok .done (putBank c { bank c s with oc := t } s) :=
    onFrame_bank buffer held (Nat.zero_le _) settled rfl (room_of_le (by simp [cells]; omega) le_rfl)
  simp only [runMovb, needCells_frame held settled, Out.next_ok, run, none0, if_true, popped]

/-- R241: an element of MOVB, from its translations to its commitment. -/
theorem runMovb_element {ps : List (Nat × Nat)} {s2 s3 s4 s5 s5' s6 : State} {v m : W64} {acc acc' : List DAcc} {u : List SbEntry × List DAcc}
    {es : List SbEntry} {new : List (Nat × Byte)} (nonzero : n ≠ 0) :
    let ss := f.toNat / 64
    let ds := f.toNat / 4 % 16
    let len := Nat.min n.toNat (8 - dst.toNat % 8)
    let dlin := segBase ((s.core c).segNow ds).1 + dst.toNat % 2 ^ 48
    let slin := segBase ((s.core c).segNow ss).1 + src.toNat % 2 ^ 48
    let orig := movbOrig (s.core c) src dst
    let left := n - BitVec.ofNat 64 len
    let src' := src + BitVec.ofNat 64 len
    let dst' := dst + BitVec.ofNat 64 len
    loadPieces c ss src len needRead false s = .ok ps s2 → storeBytes c ds dst len 0 s2 = .ok u s3 →
    readPieces c len ps s3 = .ok (v, acc) s4 → mixBytes orig slin len v s4 = (m, s5) →
    storeBytes c ds dst len m s5 = .ok (es, acc') s5' →
    recordBytes c dlin len (slin + len) (slin + n.toNat) acc' s5' = (new, s6) → (sbAdd (s6.core c).sb es).length ≤ 16 →
    runMovb c f s = .ok (if left = 0 then .done else .more) (withCore c (fun k => { k with
        movb := if left = 0 then none else some ⟨src', dst', orig.filter (fun e => slin + len ≤ e.1) ++ new⟩ })
      (committed c { bank c s6 with oc := if left = 0 then t else left :: dst' :: src' :: t } es (acc ++ acc') s6)) := by
  intro ss ds len dlin slin orig left src' dst' loads checks reads mixes stores records fits
  have run : (s.core c).run.oc = n :: dst :: src :: t := cells
  have held : 3 ≤ (bank c s).oc.length := by simp [cells]
  unfold runMovb
  simp only [segOf, needCells_frame held settled, Out.next_ok, run, nonzero, if_false, fieldAt_zero]
  simp only [ss, ds, len, dlin, slin, orig] at loads checks reads mixes stores records
  simp only [loads, checks, reads, mixes, stores, records, Out.next_ok]
  show ((commit c ⟨{ bank c s6 with oc := if left = 0 then t else left :: dst' :: src' :: t }, es, acc ++ acc', none⟩ s6).next _) = _
  rw [commit_ok fits, Out.next_ok]

end

/-- Settles O21: MOVB's end is `runMovb_end`, an element `runMovb_element`, and its bytes are those of `mixBytes_byte`. -/
theorem movbElements : Obligations.MovbElements := by
  unfold Obligations.MovbElements
  intro p f s s1 n dst src t holds ready field cells settled c
  have listed : ((.movb, 0x1C) : (PCtx → BitVec 10 → Instr) × Nat) ∈ longRows := by simp [longRows]
  refine ⟨fun none0 => ?ends, fun ps s2 s3 s4 v acc u => ?element⟩
  case ends => exact exec_long_done listed (movb_legal field) ready holds (runMovb_end cells settled none0 ready.buffer)
  case element =>
    intro ss ds len dlin slin orig m nonzero loads checks reads es acc' s5 stores new s6 fits left src' dst'
    have run := exec_long listed (movb_legal field) ready holds
    have element := runMovb_element cells settled nonzero loads checks reads (m := m.1) (s5 := m.2) rfl stores (new := new.1) (s6 := s6) rfl fits
    rw [show runLong ⟨p.core, (s.core p.core).pc, false⟩ 0x1C f s1 = _ from element] at run
    refine ⟨fun finished => ?finished, fun more => ?more, fun j inside => ?bytes⟩
    case finished =>
      rw [show exec (.movb p f) s = _ from run, if_pos finished, if_pos finished, if_pos finished]
      rfl
    case more =>
      rw [show exec (.movb p f) s = _ from run, if_neg more, if_neg more, if_neg more]
      rfl
    case bytes =>
      have few : len ≤ 8 := (Nat.min_le_right _ _).trans (Nat.sub_le _ _)
      exact mixBytes_byte orig slin v s4 len few j (by omega)

end Sys2Proof.Proofs
end

section
/-! SUPPORT. The saves and loads of contexts (R243 to R245, R294 to R298, R300). -/

namespace Sys2Proof.Proofs

open Sys2Proof.Machine Sys2Proof.Claims Sys2Proof.Laws

/-- The cell of a save or load is at hand. -/
theorem needCells_top {c : CoreId} {s : State} {x : W64} {t : List W64} (cells : (bank c s).oc = x :: t) (idle : (s.core c).divide = none) :
    needCells c 1 0 ⟨bank c s, [], [], none⟩ s = .ok () s :=
  needCells_div idle (by simp [cells]) (Nat.zero_le _)

/-! ## Saves -/

/-- The words of a half's area, over the operand cells below the area cell (R296). -/
def halfWords (b : Bank) (upper : Bool) (below : List W64) : List (W64 × BitVec 4) := if upper then upperWords b below else lowerWords b

/-- The progress with which a save goes on: the one its cell names, or that of a save which begins at the cell (R243, R295). -/
def saveProgress (b : Bank) (upper : Bool) (cell : W64) : SaveProg :=
  ((if upper then b.saveu else b.savel).filter (fun q => q.cell = cell)).getD
    ⟨cell, cell - BitVec.ofNat 64 (cell.toNat % 512), cell.toNat % 512 / 8⟩

/-- The saved progress is taken where it names the cell (R243). -/
theorem saveProgress_cases (b : Bank) (upper : Bool) (cell : W64) :
    ((if upper then b.saveu else b.savel) = none ∨ ∃ q, (if upper then b.saveu else b.savel) = some q ∧ q.cell ≠ cell) ∧
        saveProgress b upper cell = ⟨cell, cell - BitVec.ofNat 64 (cell.toNat % 512), cell.toNat % 512 / 8⟩ ∨
      (if upper then b.saveu else b.savel) = some (saveProgress b upper cell) ∧ (saveProgress b upper cell).cell = cell := by
  unfold saveProgress
  generalize (if upper then b.saveu else b.savel) = saved
  cases saved with
  | none => exact .inl ⟨.inl rfl, rfl⟩
  | some q =>
    by_cases same : q.cell = cell
    · simp [Option.filter, same]
    · simp [Option.filter, same]

/-- The word of an element: nothing where the home area holds it already (R297). -/
def saveWord (c : CoreId) (b : Bank) (upper : Bool) (sel : Nat) (start cell : W64) (w : W64 × BitVec 4) (s : State) :
    Out (List SbEntry × List DAcc) :=
  if saveSkips b upper start w.2 then .ok ([], []) s else storeBytes c sel cell 8 w.1 s

theorem saveWord_ok {c : CoreId} {b : Bank} {upper : Bool} {sel : Nat} {start cell : W64} {w : W64 × BitVec 4} {s s2 : State}
    {es : List SbEntry} {acc : List DAcc}
    (word : if saveSkips b upper start w.2 then es = [] ∧ acc = [] ∧ s2 = s else storeBytes c sel cell 8 w.1 s = .ok (es, acc) s2) :
    saveWord c b upper sel start cell w s = .ok (es, acc) s2 := by
  unfold saveWord
  split
  · rename_i skips
    rw [if_pos skips] at word
    obtain ⟨rfl, rfl, rfl⟩ := word
    rfl
  · rename_i stores
    rwa [if_neg stores] at word

/-- The bank of a save between two words: its cell advanced, and the progress that the cell will name. -/
def savingBank (b : Bank) (upper : Bool) (below : List W64) (q : SaveProg) : Bank :=
  if upper then { b with oc := q.cell :: below, saveu := some q } else { b with oc := q.cell :: below, savel := some q }

section
variable {c : CoreId} {f : BitVec 10} {s : State} {cell : W64} {below : List W64} (level : 1 ≤ (s.core c).pl)
  (cells : (bank c s).oc = cell :: below) (idle : (s.core c).divide = none)
include level cells idle

theorem runSave_align (upper : Bool) (crooked : cell.toNat % 8 ≠ 0 ∨ segBase ((s.core c).segNow (f.toNat / 64)).1 % 8 ≠ 0) :
    runSave c upper f s = .exc (excAlign (f.toNat / 64) (cell.toNat % 2 ^ 48)) s := by
  simp only [runSave, segOf, needPriv_ok level, run_frame, needCells_top cells idle, Out.next_ok, needDivide_ok idle, cells,
    needWhole_exc crooked, Out.next_exc]

variable {upper : Bool} (aligned : cell.toNat % 8 = 0) (base : segBase ((s.core c).segNow (f.toNat / 64)).1 % 8 = 0)
  (room : upper = true → below.length ≤ 31) {w : W64 × BitVec 4}
  (named : (halfWords (bank c s) upper below)[(saveProgress (bank c s) upper cell).pos]? = some w)
include aligned base room named

/-- R243: one element of a save, at the position of its progress. -/
theorem runSave_eq : runSave c upper f s =
    let prog := saveProgress (bank c s) upper cell
    (saveWord c (bank c s) upper (f.toNat / 64) prog.start cell w s).next (fun st s4 =>
      if prog.pos + 1 = (halfWords (bank c s) upper below).length then
        (commit c ⟨{ bank c s with oc := below }, st.1, st.2, none⟩ s4).next (fun _ s5 =>
          .ok .done (withCore c (fun k => k.rawBank k.level (settleHalf upper prog.start k.run)) s5))
      else (nextCell c (f.toNat / 64) cell s4).next (fun nx s5 =>
        (commit c ⟨savingBank (bank c s) upper below ⟨nx.1, prog.start, prog.pos + 1⟩, st.1, st.2 ++ nx.2, none⟩ s5).next (fun _ s6 =>
          .ok .more (keepDirty c (bank c s).dirty s6)))) := by
  have fits : (upper && decide (below.length > 31)) = false := by
    cases upper
    · rfl
    · exact decide_eq_false (Nat.not_lt.mpr (room rfl))
  have progress := saveProgress_cases (bank c s) upper cell
  generalize saveProgress (bank c s) upper cell = prog at named progress ⊢
  unfold halfWords at named
  unfold runSave saveWord savingBank halfWords
  simp only [segOf, needPriv_ok level, run_frame, needCells_top cells idle, Out.next_ok, needDivide_ok idle, cells, needWhole_ok aligned base, fits,
    Bool.false_eq_true, if_false]
  rcases progress with ⟨fresh | ⟨q, other, differs⟩, rfl⟩ | ⟨own, same⟩
  · simp only [fresh, named]
    rfl
  · simp only [other, differs, if_false, named]
    rfl
  · simp only [own, same, if_true, named]
    rfl

variable {es : List SbEntry} {acc : List DAcc} {s2 : State}
  (word : saveWord c (bank c s) upper (f.toNat / 64) (saveProgress (bank c s) upper cell).start cell w s = .ok (es, acc) s2)
include word

/-- R298: the last word settles the half at its area. -/
theorem runSave_last (last : (saveProgress (bank c s) upper cell).pos + 1 = (halfWords (bank c s) upper below).length)
    (fits : (sbAdd (s2.core c).sb es).length ≤ 16) : runSave c upper f s =
      .ok .done (withCore c (fun k => k.rawBank k.level (settleHalf upper (saveProgress (bank c s) upper cell).start k.run))
        (committed c { bank c s with oc := below } es acc s2)) := by
  rw [runSave_eq level cells idle aligned base room named]
  simp only [word, Out.next_ok, last, if_true, commit_ok fits]

/-- R295, R297: after any other word the cell names the next one, and marks no group. -/
theorem runSave_more {nx : W64} {acc' : List DAcc} {s3 : State}
    (more : (saveProgress (bank c s) upper cell).pos + 1 ≠ (halfWords (bank c s) upper below).length)
    (next : nextCell c (f.toNat / 64) cell s2 = .ok (nx, acc') s3) (fits : (sbAdd (s3.core c).sb es).length ≤ 16) : runSave c upper f s =
      .ok .more (keepDirty c (bank c s).dirty (committed c (savingBank (bank c s) upper below
        ⟨nx, (saveProgress (bank c s) upper cell).start, (saveProgress (bank c s) upper cell).pos + 1⟩) es (acc ++ acc') s3)) := by
  rw [runSave_eq level cells idle aligned base room named]
  simp only [word, Out.next_ok, more, if_false, next, commit_ok fits]

end

/-! ## Loads -/

/-- R300: the header that a load accepts. -/
theorem headerCounts_eq (upper : Bool) (top : Nat) (h : W64) : headerCounts upper top h =
    if fieldAt 60 4 h = (if upper then 1 else 2) ∧ fieldAt 0 6 h ≤ top ∧ fieldAt 6 6 h ≤ 32 then some (fieldAt 0 6 h, fieldAt 6 6 h) else none :=
  rfl

section
variable {c : CoreId} {f : BitVec 10} {s s2 s3 : State} {area h : W64} {t : List W64} {acc acc' : List DAcc} (level : 1 ≤ (s.core c).pl)
  (cells : (bank c s).oc = area :: t) (idle : (s.core c).divide = none)
include level cells idle

theorem runLoadu_align (crooked : area.toNat % 512 ≠ 0 ∨ segBase ((s.core c).segNow (f.toNat / 64)).1 % 8 ≠ 0) :
    runLoadu c f s = .exc (excAlign (f.toNat / 64) (area.toNat % 2 ^ 48)) s := by
  simp only [runLoadu, segOf, needPriv_ok level, run_frame, needCells_top cells idle, Out.next_ok, needDivide_ok idle, top_area cells,
    needWhole_exc crooked, Out.next_exc]

theorem runLoadl_align (crooked : area.toNat % 512 ≠ 0 ∨ segBase ((s.core c).segNow (f.toNat / 64)).1 % 8 ≠ 0) :
    runLoadl c f s = .exc (excAlign (f.toNat / 64) (area.toNat % 2 ^ 48)) s := by
  simp only [runLoadl, segOf, needPriv_ok level, run_frame, needCells_top cells idle, Out.next_ok, top_area cells, needWhole_exc crooked,
    Out.next_exc]

variable (aligned : area.toNat % 512 = 0) (base : segBase ((s.core c).segNow (f.toNat / 64)).1 % 8 = 0)
  (header : readArea c (f.toNat / 64) 1 area s = .ok ([h], acc) s2)
include aligned base header

theorem runLoadu_illegal (unfit : headerCounts true 31 h = none) : runLoadu c f s = .exc excIllegal s2 := by
  simp only [runLoadu, segOf, needPriv_ok level, run_frame, needCells_top cells idle, Out.next_ok, needDivide_ok idle, top_area cells,
    needWhole_ok aligned base, header, List.head?_cons, Option.getD_some, unfit]

theorem runLoadl_illegal (unfit : headerCounts false 32 h = none) : runLoadl c f s = .exc excIllegal s2 := by
  simp only [runLoadl, segOf, needPriv_ok level, run_frame, needCells_top cells idle, Out.next_ok, top_area cells, needWhole_ok aligned base,
    header, List.head?_cons, Option.getD_some, unfit]

variable {ws : List W64}

/-- R245: LOADU replaces both stacks and settles the upper half. -/
theorem runLoadu_eq {o r : Nat} (fit : headerCounts true 31 h = some (o, r))
    (words : readArea c (f.toNat / 64) (3 + o + r) area s2 = .ok (ws, acc') s3) (buffer : (s3.core c).sb.length ≤ 16) : runLoadu c f s =
      .ok .done (withCore c (fun k => k.rawBank k.level (settleHalf true area k.run))
        (committed c (loadUpper (bank c s3) o ws) [] acc' s3)) := by
  simp only [runLoadu, segOf, needPriv_ok level, run_frame, needCells_top cells idle, Out.next_ok, needDivide_ok idle, top_area cells,
    needWhole_ok aligned base, header, List.head?_cons, Option.getD_some, fit, words,
    commit_ok (sts := []) buffer]

variable {counts : Nat × Nat} (fit : headerCounts false 32 h = some counts)
  (words : readArea c (f.toNat / 64) 43 area s2 = .ok (ws, acc') s3)
include fit words

/-- R245: LOADL of a higher privilege. -/
theorem runLoadl_priv (above : (s3.core c).pl < fieldAt 0 2 ((ws[1]?).getD 0)) : runLoadl c f s = .exc excPriv s3 := by
  simp only [runLoadl, segOf, needPriv_ok level, run_frame, needCells_top cells idle, Out.next_ok, top_area cells, needWhole_ok aligned base,
    header, List.head?_cons, Option.getD_some, fit, words, gt_iff_lt, above, if_true]

/-- R245: LOADL replaces the control words and settles the lower half. -/
theorem runLoadl_eq (allowed : fieldAt 0 2 ((ws[1]?).getD 0) ≤ (s3.core c).pl) (buffer : (s3.core c).sb.length ≤ 16) : runLoadl c f s =
    .ok .done (withCore c (fun k => (loadLower k ws).rawBank (loadLower k ws).level (settleHalf false area (loadLower k ws).run))
      (committed c { bank c s3 with oc := (bank c s3).oc.tail } [] acc' s3)) := by
  have commits : commit c ⟨{ bank c s3 with oc := (bank c s3).oc.tail }, [], acc', none⟩ s3 =
      .ok () (committed c { bank c s3 with oc := (bank c s3).oc.tail } [] acc' s3) := commit_ok (sts := []) buffer
  simp only [runLoadl, segOf, needPriv_ok level, run_frame, needCells_top cells idle, Out.next_ok, top_area cells, needWhole_ok aligned base,
    header, List.head?_cons, Option.getD_some, fit, words, gt_iff_lt,
    Nat.not_lt.mpr allowed, if_false, Fr.setO, commits]

end

/-- The rows of SAVEU and SAVEL. -/
def saveRow (upper : Bool) : (PCtx → BitVec 10 → Instr) × Nat := if upper then (.saveu, 0x24) else (.savel, 0x25)

theorem saveRow_listed (upper : Bool) : saveRow upper ∈ longRows := by cases upper <;> simp [saveRow, longRows]

theorem saveRow_legal (upper : Bool) {f : BitVec 10} (field : f.toNat % 64 = 0) : fieldLegal (saveRow upper).2 f = true := by
  cases upper <;> exact zero64 field

theorem saveRow_run (upper : Bool) (cx : Cx) (f : BitVec 10) (s : State) : runLong cx (saveRow upper).2 f s = runSave cx.c upper f s := by
  cases upper <;> rfl

/-- Settles O23: a save's element is `runSave_last` or `runSave_more`, the loads are `runLoadu_eq` and `runLoadl_eq`; each exception has its
lemma. -/
theorem savesAndLoadsOfContexts : Obligations.SavesAndLoadsOfContexts := by
  unfold Obligations.SavesAndLoadsOfContexts
  refine ⟨?saves, ?loads⟩
  case saves =>
    intro p f upper s s1 cell below holds field level cells idle ready c b row words fresh prog base
    have rowEq : row = (saveRow upper).1 p f := by cases upper <;> rfl
    have standing : Ready p (longParcel p.cond (saveRow upper).2 f) nopParcel s s1 := by cases upper <;> exact ready
    refine ⟨fun crooked free => ?align, fun aligned whole room w named es acc s2 word => ?element⟩
    case align =>
      rw [rowEq]
      exact exec_long_raises (saveRow_listed upper) (saveRow_legal upper field) standing holds free
        ((saveRow_run ..).trans (runSave_align level cells idle upper crooked))
    case element =>
      have written := saveWord_ok word
      refine ⟨fun last fits => ?_, fun nx acc' s3 more next fits => ?_⟩
      · rw [rowEq]
        exact exec_long_done (saveRow_listed upper) (saveRow_legal upper field) standing holds
          ((saveRow_run ..).trans (runSave_last level cells idle aligned whole room named written last fits))
      · intro q
        rw [rowEq, exec_long (saveRow_listed upper) (saveRow_legal upper field) standing holds, saveRow_run,
          runSave_more level cells idle aligned whole room named written more next fits]
        rfl
  case loads =>
    intro p f s s1 area t holds field level cells idle c sel base
    refine ⟨fun ready => ⟨fun crooked free => ?alignU, ?loadu⟩, fun ready => ⟨fun crooked free => ?alignL, ?loadl⟩⟩
    case alignU =>
      exact exec_long_raises (row := (.loadu, 0x26)) (by simp [longRows]) (zero64 field) ready holds free (runLoadu_align level cells idle crooked)
    case alignL =>
      exact exec_long_raises (row := (.loadl, 0x27)) (by simp [longRows]) (zero64 field) ready holds free (runLoadl_align level cells idle crooked)
    case loadu =>
      intro h acc s2 aligned whole header o r fits
      refine ⟨fun unfit free => ?_, fun ws acc' s3 fit words buffer => ?_⟩
      · exact exec_long_raises (row := (.loadu, 0x26)) (by simp [longRows]) (zero64 field) ready holds free
          (runLoadu_illegal level cells idle aligned whole header ((headerCounts_eq true 31 h).trans (if_neg unfit)))
      · exact exec_long_done (row := (.loadu, 0x26)) (by simp [longRows]) (zero64 field) ready holds
          (runLoadu_eq level cells idle aligned whole header ((headerCounts_eq true 31 h).trans (if_pos fit)) words buffer)
    case loadl =>
      intro h acc s2 aligned whole header fits
      refine ⟨fun unfit free => ?_, fun ws acc' s3 fit words buffer => ⟨fun above free => ?_, fun allowed => ?_⟩⟩
      · exact exec_long_raises (row := (.loadl, 0x27)) (by simp [longRows]) (zero64 field) ready holds free
          (runLoadl_illegal level cells idle aligned whole header ((headerCounts_eq false 32 h).trans (if_neg unfit)))
      · exact exec_long_raises (row := (.loadl, 0x27)) (by simp [longRows]) (zero64 field) ready holds free
          (runLoadl_priv level cells idle aligned whole header ((headerCounts_eq false 32 h).trans (if_pos fit)) words above)
      · exact exec_long_done (row := (.loadl, 0x27)) (by simp [longRows]) (zero64 field) ready holds
          (runLoadl_eq level cells idle aligned whole header ((headerCounts_eq false 32 h).trans (if_pos fit)) words allowed buffer)

end Sys2Proof.Proofs
end

section
/-! SUPPORT. A write of a control word: what it commits, and what stays in force until a SYNC point (R199, R278). -/

namespace Sys2Proof.Proofs

open Sys2Proof.Machine Sys2Proof.Claims Sys2Proof.Laws

/-- R278: at a SYNC point every committed value takes effect. -/
theorem sync_inForce (k : Core) (n : Nat) : k.sync.inForce n = (k.cw n).getD 0 := rfl

/-- R308: only TASKID shows the task's tag. -/
theorem cw_tag (k : Core) (t : BitVec 16) {m : Nat} (other : m ≠ 3) : ({ k with tag := t } : Core).cw m = k.cw m := by
  unfold Core.cw
  split
  case h_4 => exact absurd rfl other
  all_goals rfl

/-- The values in force that a write of control word `n` leaves listed: the old one joins them where the word is latent (R278). -/
def latentAfter (k : Core) (n : Nat) : Tab W64 :=
  if cwLatent n && (Tab.find k.latent n).isNone then Tab.insert k.latent n ((k.cw n).getD 0) else k.latent

theorem writeCw_eq (k : Core) (n : Nat) (v : W64) :
    k.writeCw n v = Core.commitCw { k with latent := latentAfter k n } n (cwWritten n ((k.cw n).getD 0) v) := by
  unfold Core.writeCw latentAfter
  split <;> rfl

theorem writeCw_latent (k : Core) (n : Nat) (v : W64) : (k.writeCw n v).latent = latentAfter k n := by
  rw [writeCw_eq, commit_latent]

/-- R278: the old value of a latent word stays in force. -/
theorem writeCw_inForce_latent {k : Core} {n : Nat} (v : W64) (latent : cwLatent n = true) : (k.writeCw n v).inForce n = k.inForce n := by
  unfold Core.inForce
  rw [writeCw_latent, latentAfter, latent, Bool.true_and]
  cases old : Tab.find k.latent n with
  | none => rw [Option.isNone_none, if_pos rfl, Tab.find_insert_same]; rfl
  | some w => rw [Option.isNone_some, if_neg Bool.false_ne_true, old]; rfl

section
variable {k : Core} {e : Nat × W64 × Nat × Nat} (listed : e ∈ controlWords k) (v : W64)
include listed

/-- R199: a write commits the writable bits of its value. TASKID apart, they are what the word then reads as. -/
theorem writeCw_cw (notTaskid : e.1 ≠ 3) : (k.writeCw e.1 v).cw e.1 = some (cwWritten e.1 e.2.1 v) := by
  rw [writeCw_eq, (cw_find listed).1, Option.getD_some]
  exact commit_cw (mem_cws_latent (latentAfter k e.1) listed) notTaskid e.2.1 v

/-- R278: a word that is not latent has its new value in force at once. -/
theorem writeCw_inForce_plain (plain : cwLatent e.1 = false) (settled : Tab.find k.latent e.1 = none) :
    (k.writeCw e.1 v).inForce e.1 = cwWritten e.1 e.2.1 v := by
  have notTaskid : e.1 ≠ 3 := fun taskid => by rw [taskid] at plain; exact absurd plain (by decide)
  rw [Core.inForce, writeCw_latent, latentAfter, plain, Bool.false_and, if_neg Bool.false_ne_true, settled, writeCw_cw listed v notTaskid]
  rfl

end

/-- R308: a write of TASKID commits its tag and nothing else. -/
theorem writeCw_taskid (k : Core) (v : W64) : k.writeCw 0x003 v = { k with latent := latentAfter k 0x003, tag := v.truncate 16 } := by
  have tag : (cwWritten 0x003 ((k.cw 0x003).getD 0) v).truncate 16 = v.truncate 16 := by
    show (BitVec.ofNat 64 (fieldAt 0 16 v)).truncate 16 = _
    apply BitVec.eq_of_toNat_eq
    simp [fieldAt]
  rw [writeCw_eq, ← tag]
  rfl

/-- Settles O8: the words of R278 list their old value (`writeCw_inForce_latent`), the others list nothing (`writeCw_inForce_plain`), and a
SYNC point empties the list. -/
theorem latentControlWords : Obligations.LatentControlWords := by
  unfold Obligations.LatentControlWords
  intro k v e listed n k1
  refine ⟨fun latent => ?latent, fun plain settled => ?plain, fun notTaskid => ?committed, fun taskid => ?taskid⟩
  case latent => exact writeCw_inForce_latent v ((latent_list listed).2 latent)
  case plain =>
    exact writeCw_inForce_plain listed v (Bool.eq_false_iff.2 fun latent => plain ((latent_list listed).1 latent)) settled
  case committed =>
    have written : k1.cw n = some (cwWritten n e.2.1 v) := writeCw_cw listed v notTaskid
    exact ⟨written, by rw [sync_inForce, written]; rfl⟩
  case taskid =>
    have written : k1 = { k with latent := latentAfter k 0x003, tag := v.truncate 16 } := (congrArg (k.writeCw · v) taskid).trans (writeCw_taskid k v)
    rw [written]
    exact ⟨rfl, fun m other => cw_tag { k with latent := latentAfter k 0x003 } _ other⟩

end Sys2Proof.Proofs
end

section
/-! SUPPORT. What late bus errors, write-backs and evictions of cache lines do, and what they leave alone (R240, R271, R273, R274, R280, R349,
R350). -/

namespace Sys2Proof.Proofs

open Sys2Proof.Machine Sys2Proof.Claims Sys2Proof.Laws

/-! ## Arrivals and late bus errors -/

/-- A change of one core that keeps a part of it keeps that part of every core. -/
theorem coreField_withCore {β : Type} (g : Core → β) {d : CoreId} {f : Core → Core} {s : State} (same : g (f (s.core d)) = g (s.core d))
    (c : CoreId) : g ((withCore d f s).core c) = g (s.core c) := by
  by_cases own : c = d
  · rw [own, core_withCore, same]
  · rw [core_withCore_other f s own]

theorem voidDet_core (d : CoreId) (s : State) (c : CoreId) : ∃ v, (voidDet d s).core c = { s.core c with detvoid := v } := by
  by_cases own : c = d
  · rw [own, voidDet, core_withCore]
    split <;> exact ⟨_, rfl⟩
  · exact ⟨_, core_withCore_other _ s own⟩

/-- R281, R370: of a core, an arrival changes the counts of its slots, and DETVOID. -/
theorem arrive_core (n : Nat) (s : State) (c : CoreId) : ∃ d v, (arrive n s).core c = { s.core c with sched := d, detvoid := v } := by
  have counted : ((s.cores.map (fun k => { k with sched := k.sched.arrive n })).get c) = { s.core c with sched := (s.core c).sched.arrive n } :=
    quad_get_map _ _ _
  unfold arrive takeArrival
  dsimp only
  split
  · exact ⟨_, _, rfl⟩
  split
  · exact ⟨_, _, rfl⟩
  split
  · obtain ⟨v, voided⟩ := voidDet_core (BitVec.toFin (BitVec.ofNat 2 (srcTarget n (Tab.get evSrc0 s.ev n)))) { s with
      ev := Tab.modify evSrc0 s.ev n EvSrc.arrive
      cores := s.cores.map (fun k => { k with sched := k.sched.arrive n })
      pwr := { s.pwr with wake := s.pwr.wake || (if dozes s then endsDoze n else s.cores.any (fun k => k.sched.awaits n)) } } c
    exact ⟨_, v, voided.trans (congrArg (fun k : Core => { k with detvoid := v }) counted)⟩
  · exact ⟨_, _, counted⟩

/-- BELATE after a late bus error (R350): the first one is latched, and a further one sets MORE. -/
def noteLate (pa : BitVec 52) (wb : Bool) (b : Belate) : Belate :=
  if b.valid then { b with more := true } else { b with pa := pa, valid := true, wb := wb }

/-- R349: a late bus error is latched, arrives on BUSERR_LATE, and leaves a record in the log. -/
theorem lateError_form (c : CoreId) (pa : BitVec 52) (wb : Bool) (s : State) : ∃ l, lateError c pa wb s =
    { arrive (srcBuserrLate c) (withCore c (fun k => { k with belate := noteLate pa wb k.belate }) s) with log := l } := ⟨_, rfl⟩

theorem lateError_belate (c : CoreId) (pa : BitVec 52) (wb : Bool) (s : State) :
    ((lateError c pa wb s).core c).belate = noteLate pa wb (s.core c).belate := by
  obtain ⟨l, form⟩ := lateError_form c pa wb s
  obtain ⟨d, v, arrived⟩ := arrive_core (srcBuserrLate c) (withCore c (fun k => { k with belate := noteLate pa wb k.belate }) s) c
  rw [form]
  show ((arrive _ _).core c).belate = _
  rw [arrived, core_withCore]

/-- R349, R350: what of a core a late bus error of any core leaves, `g` being a part that neither an arrival nor BELATE touches. -/
theorem coreField_lateError {β : Type} {g : Core → β} (apart : ∀ k d v b, g { k with sched := d, detvoid := v, belate := b } = g k)
    (c : CoreId) (pa : BitVec 52) (wb : Bool) (s : State) (x : CoreId) : g ((lateError c pa wb s).core x) = g (s.core x) := by
  obtain ⟨l, form⟩ := lateError_form c pa wb s
  obtain ⟨d, v, arrived⟩ := arrive_core (srcBuserrLate c) (withCore c (fun k => { k with belate := noteLate pa wb k.belate }) s) x
  rw [form]
  show g ((arrive _ _).core x) = _
  rw [arrived]
  calc g _ = g ((withCore c (fun k => { k with belate := noteLate pa wb k.belate }) s).core x) := apart _ d v _
    _ = g (s.core x) := coreField_withCore g (apart (s.core c) _ _ _) x

/-! ## What the eviction of a line leaves alone -/

/-- A core without what the eviction of a line can change of one: its data cache, its write-backs and its reservation, and through a late bus
error BELATE, the counts of its slots, and DETVOID. -/
def sansLines (k : Core) : Core :=
  { k with
    dcache := core0.dcache, wbs := core0.wbs, lockRes := core0.lockRes, belate := core0.belate, sched := core0.sched, detvoid := core0.detvoid }

/-- What the evictions of a core's lines leave as it is, of the core and of the tile. -/
def besidesLines (c : CoreId) (s : State) : Core × VStore × Engine × TileRole := (sansLines (s.core c), s.vs, s.eng, s.role)

theorem besidesLines_withCore {c d : CoreId} {f : Core → Core} {s : State} (same : sansLines (f (s.core d)) = sansLines (s.core d)) :
    besidesLines c (withCore d f s) = besidesLines c s := by
  rw [besidesLines, coreField_withCore sansLines same c]
  rfl

theorem besidesLines_lateError (c d : CoreId) (pa : BitVec 52) (wb : Bool) (s : State) :
    besidesLines c (lateError d pa wb s) = besidesLines c s := by
  obtain ⟨l, form⟩ := lateError_form d pa wb s
  have vs : (lateError d pa wb s).vs = s.vs := by rw [form]; exact arrive_vs _ _
  have eng : (lateError d pa wb s).eng = s.eng := by rw [form]; exact arrive_eng _ _
  have role : (lateError d pa wb s).role = s.role := congrArg Prod.fst (roleSide_lateError d pa wb s)
  rw [besidesLines, vs, eng, role, coreField_lateError (g := sansLines) (fun _ _ _ _ => rfl) d pa wb s c]
  rfl

theorem besidesLines_writeBack (c d : CoreId) (line : Nat) (data : Line) (s : State) :
    besidesLines c (writeBack d line data s) = besidesLines c s := by
  unfold writeBack
  split
  · exact besidesLines_withCore rfl
  · exact besidesLines_lateError ..

theorem besidesLines_dropLine (c d : CoreId) (line : Nat) (wb : Bool) (s : State) : besidesLines c (dropLine d line wb s) = besidesLines c s := by
  unfold dropLine
  split
  · rfl
  · dsimp only
    split
    · rw [besidesLines_writeBack]
      exact besidesLines_withCore rfl
    · exact besidesLines_withCore rfl

/-! ## The data caches -/

theorem dcache_writeBack (c : CoreId) (line : Nat) (data : Line) (s : State) (x : CoreId) :
    ((writeBack c line data s).core x).dcache = (s.core x).dcache := by
  unfold writeBack
  split
  · exact coreField_withCore Core.dcache rfl x
  · exact coreField_lateError (g := Core.dcache) (fun _ _ _ _ => rfl) c _ true s x

theorem Tab.erase_of_find_none {α : Type} {t : Tab α} {k : Nat} (absent : Tab.find t k = none) : Tab.erase t k = t := by
  induction t with
  | nil => rfl
  | cons e t ih =>
    obtain ⟨k', v⟩ := e
    rw [Tab.find] at absent
    split at absent
    case isTrue => cases absent
    case isFalse other => rw [Tab.erase, List.filter_cons_of_pos (by simpa using other), ← Tab.erase, ih absent]

theorem dropLine_dcache (c : CoreId) (line : Nat) (wb : Bool) (s : State) :
    ((dropLine c line wb s).core c).dcache = Tab.erase (s.core c).dcache line := by
  unfold dropLine
  split
  next absent => exact (Tab.erase_of_find_none absent).symm
  next =>
    dsimp only
    split
    · rw [dcache_writeBack, core_withCore]
    · rw [core_withCore]

theorem dropLine_dcache_other {c x : CoreId} (other : x ≠ c) (line : Nat) (wb : Bool) (s : State) :
    ((dropLine c line wb s).core x).dcache = (s.core x).dcache := by
  unfold dropLine
  split
  · rfl
  · dsimp only
    split
    · rw [dcache_writeBack, core_withCore_other _ _ other]
    · rw [core_withCore_other _ _ other]

/-- R269: a line that is not held enters after at most one eviction, from the same data cache. -/
theorem dcacheEnter_absent {c : CoreId} {line : Nat} {s : State} (absent : Tab.find (s.core c).dcache line = none) (d : DLine) :
    ∃ u, dcacheEnter c line d s = withCore c (fun k => { k with dcache := Tab.insert k.dcache line d }) u ∧
      besidesLines c u = besidesLines c s ∧ ∀ x, x ≠ c → (u.core x).dcache = (s.core x).dcache := by
  unfold dcacheEnter
  rw [absent]
  dsimp only
  refine ⟨_, rfl, ?_⟩
  split
  · exact ⟨besidesLines_dropLine c c _ true s.takeNat.2, fun x other => dropLine_dcache_other other _ true s.takeNat.2⟩
  · exact ⟨rfl, fun _ _ => rfl⟩

end Sys2Proof.Proofs
end

section
/-! SUPPORT. The responses that a core awaits: line fills, walks, store-buffer drains, write-backs (R262, R271 to R275, R280, R317, R319, R328,
R349, R350). -/

namespace Sys2Proof.Proofs

open Sys2Proof.Machine Sys2Proof.Claims Sys2Proof.Laws

/-- A response that no struck requester is owed reaches a core whose clock runs. -/
theorem coreResponse_next {o : Owed} {c : CoreId} {why : String} {f : State → Option State} {s u : State} (unowed : o ∉ s.ports.owed)
    (runs : dclkRuns s c = true) (answered : f s = some u) : coreResponse o c why f s = .next u := by
  rw [coreResponse, owedFirst_of_not_mem _ unowed, if_pos runs, answered]
  rfl

/-! ## Line fills -/

theorem fillResponse_awaited {c : CoreId} {fetch : Bool} {line : BitVec 46} {f : FillReq} {s : State}
    (awaited : (s.core c).fills.find? (fun f => f.line == line && f.fetch == fetch) = some f) (code : RspCode) (data : Line) :
    fillResponse c fetch line code data s = some (extFill c f code data s) := by
  rw [fillResponse, awaited]

section
variable {c : CoreId} {f : FillReq} {s : State} (clean : dirtyCopy s f.line.toNat = none)
include clean

/-- R263: a line that cannot be had enters no cache. -/
theorem extFill_lost {code : RspCode} (idle : waitsLine (s.core c) f.fetch f.line = false) (lost : code ≠ .okay) (data : Line) :
    extFill c f code data s = setCore c { s.core c with fills := (s.core c).fills.erase f } s := by
  have bad : (code == .okay) = false := by simpa using lost
  simp [extFill, clean, idle, bad]

/-- R263, R270: what a held parcel reads past the caches goes to it alone. -/
theorem extFill_past (waits : waitsLine (s.core c) f.fetch f.line = true) (past : f.cache = false) (code : RspCode) (data : Line) :
    extFill c f code data s = runHeld c (noteGot c (fillWords (s.core c) f data (code != .okay))
      (setCore c { s.core c with fills := (s.core c).fills.erase f } s)) := by
  simp [extFill, clean, waits, past, bne]

/-- R269, R273, R284: a line enters the data cache clean, where nothing has invalidated it on the way. -/
theorem extFill_enters (idle : waitsLine (s.core c) f.fetch f.line = false) (load : f.fetch = false) (toCache : f.cache = true)
    (unsnooped : f.snooped = false) (on : (s.core c).dcOn .cached = true) (notDet : (s.core c).detOn = false) (unlocked : (s.core c).st ≠ .locked)
    (absent : Tab.find (s.core c).dcache f.line.toNat = none) (data : Line) :
    extFill c f .okay data s =
      dcacheEnter c f.line.toNat ⟨data, false⟩ (setCore c { s.core c with fills := (s.core c).fills.erase f } s) := by
  rw [load] at idle
  simp [extFill, clean, idle, load, toCache, unsnooped, on, notDet, unlocked, absent]

end

/-! ## Walks -/

/-- What a walk that goes a level on leaves in the walk cache, unless INVWALK has overtaken it (R328, R335). -/
def walkedTo (c : CoreId) (w : CWalk) (table : Nat) (s : State) : State := if w.late then s else wcacheEnter c w table s

section
variable {c : CoreId} {ea : BitVec 52} {code : RspCode} {entry : W64} {s u : State} {w : CWalk}

theorem exec_pageWalkResponse (unowed : Owed.walk c ea ∉ s.ports.owed) (runs : dclkRuns s c = true)
    (answered : coreWalkResponse c ea code entry s = some u) : exec (.pageWalkResponse c ea code entry) s = .next (wakeWalks u) := by
  show execPageWalkResponse c ea code entry s = _
  rw [execPageWalkResponse, coreResponse_next unowed runs answered]

variable (reads : (s.core c).walks.find? (fun w => w.ea == ea) = some w) (fresh : w.stale = false) (unlocked : (s.core c).st ≠ .locked)
  (clean : dirtyCopy s (ea.toNat / 64) = none)
include reads fresh unlocked clean

theorem coreWalkResponse_fault {g : GotFault} (step : walkStep w (code == .okay) entry = .fault g) : coreWalkResponse c ea code entry s =
    some (retryWhen (fun h => h == .walk ea) c (noteFault c ea g (setCore c { s.core c with walks := (s.core c).walks.erase w } s))) := by
  simp [coreWalkResponse, reads, coherentEntry, clean, fresh, unlocked, step]

theorem coreWalkResponse_leaf {t : TlbEntry} (step : walkStep w (code == .okay) entry = .leaf t) (current : w.overtaken t = false) :
    coreWalkResponse c ea code entry s =
      some (retryWhen (fun h => h == .walk ea) c (coreTlbEnter c t (setCore c { s.core c with walks := (s.core c).walks.erase w } s))) := by
  simp [coreWalkResponse, reads, coherentEntry, clean, fresh, unlocked, step, current]

/-- R317: the walk reads the entry of the next level. -/
theorem coreWalkResponse_descends {table : Nat} {w1 : CWalk} (step : walkStep w (code == .okay) entry = .deeper table)
    (next : walkDeeper (walkedTo c w table (setCore c { s.core c with walks := (s.core c).walks.erase w } s)) w table = .inl w1) :
    coreWalkResponse c ea code entry s = some (retryWhen (fun h => h == .walk ea) c (withCore c (fun k => { k with walks := k.walks ++ [w1] })
      (walkedTo c w table (setCore c { s.core c with walks := (s.core c).walks.erase w } s)))) := by
  rw [walkedTo] at next ⊢
  simp [coreWalkResponse, reads, coherentEntry, clean, fresh, unlocked, step, next]

/-- R324: no read is issued to a device region: the walk ends with WALKDEV. -/
theorem coreWalkResponse_device {table : Nat} {g : GotFault} (step : walkStep w (code == .okay) entry = .deeper table)
    (next : walkDeeper (walkedTo c w table (setCore c { s.core c with walks := (s.core c).walks.erase w } s)) w table = .inr g) :
    coreWalkResponse c ea code entry s = some (retryWhen (fun h => h == .walk ea) c (noteFault c ea g
      (walkedTo c w table (setCore c { s.core c with walks := (s.core c).walks.erase w } s)))) := by
  rw [walkedTo] at next ⊢
  simp [coreWalkResponse, reads, coherentEntry, clean, fresh, unlocked, step, next]

end

/-- R317, R319: an entry that cannot be read, and one that is not valid, end the walk with a fault that names its level and address. -/
theorem walkStep_unread (w : CWalk) (e : W64) :
    walkStep w false e = .fault ⟨w.lin.toNat / 4096, w.priv, w.need, 0x15, BitVec.ofNat 3 w.level, w.ea⟩ := rfl

theorem walkStep_invalid (w : CWalk) {e : W64} (invalid : pteV e = false) :
    walkStep w true e = .fault ⟨w.lin.toNat / 4096, w.priv, w.need, 0x11, BitVec.ofNat 3 w.level, w.ea⟩ := by
  simp [walkStep, invalid]

/-! ## Store-buffer drains -/

/-- The drain of the oldest entry has ended: the next one begins, and a parcel that waits for the buffer executes again. -/
def nextDrain (c : CoreId) (s : State) : State :=
  retryWhen (fun h => h == .drain || h == .fence || h == .sbRoom) c (startDrain c (s.core c).sb.length s)

section
variable {c : CoreId} {s : State} {e : SbEntry} {rest : List SbEntry} (oldest : (s.core c).sb = e :: rest) (began : e.began = true)
include oldest began

/-- R50, R62, R275: a word of the Vector Store leaves the buffer once its bank has granted it, with an error where it was refused. -/
theorem drainResponse_vs {off : Nat} (route : e.route.getD (routeOf s (e.word.toNat * 8)) = .vs off)
    (granted : ∀ r ∈ s.vs.reqs, r.dest ≠ .coreWrite c) (whole : ∀ h ∈ s.vs.halves, h.2.dest ≠ .coreWrite c) (code : RspCode) (data : Line) :
    drainResponse c code data s = some (nextDrain c
      (if e.bad = true ∨ wordSpace s ≤ off / 8 ∨ ((homeWord s (off / 8)).isNone && partnerRefuses (off / 8) e.secure) = true then
        lateError c (BitVec.ofNat 52 (e.word.toNat * 8)) false (setCore c { s.core c with sb := rest } s)
      else setCore c { s.core c with sb := rest } s)) := by
  have free : (s.vs.reqs.any (fun r => r.dest == .coreWrite c) || s.vs.halves.any (fun h => h.2.dest == .coreWrite c)) = false := by
    simpa [Bool.or_eq_false_iff] using ⟨granted, fun i half => whole (i, half)⟩
  simp only [drainResponse, oldest, began, route, free]
  rw [if_neg (by simp), if_neg (by simp)]
  congr 2
  simp only [Bool.or_eq_true, decide_eq_true_eq, ge_iff_le, or_assoc, or_comm (a := wordSpace s ≤ off / 8)]

theorem drainResponse_ext {kind : AttrKind} {emp : Bool} (route : e.route.getD (routeOf s (e.word.toNat * 8)) = .ext kind emp)
    (unlocked : (s.core c).st ≠ .locked) (code : RspCode) (data : Line) :
    drainResponse c code data s = some (nextDrain c (drainExt c e kind code data (setCore c { s.core c with sb := rest } s))) := by
  simp only [drainResponse, oldest, began, route]
  rw [if_neg (by simp), if_neg (by simp [unlocked])]
  rfl

end

section
variable {c : CoreId} {e : SbEntry} {kind : AttrKind} {s : State} (code : RspCode) (data : Line)

/-- R275, R280, R349: a store that no cache takes goes past the caches, and its error is late. -/
theorem drainExt_past (off : (s.core c).dcOn kind = false) : drainExt c e kind code data s =
    if code = .okay then pastCaches c (e.word.toNat / 8) s
    else lateError c (BitVec.ofNat 52 (e.word.toNat * 8)) false (pastCaches c (e.word.toNat / 8) s) := by
  simp [drainExt, off]

theorem drainExt_hit (on : (s.core c).dcOn kind = true) (hit : (Tab.find (s.core c).dcache (e.word.toNat / 8)).isSome = true) :
    drainExt c e kind code data s = cacheStore c e.word.toNat e.data e.be s := by
  simp [drainExt, on, hit]

/-- R272, R275: a store that misses takes its line first; without one it is a late bus error. -/
theorem drainExt_miss (on : (s.core c).dcOn kind = true) (miss : (Tab.find (s.core c).dcache (e.word.toNat / 8)).isSome = false)
    (notDet : (s.core c).detOn = false) (clean : dirtyCopy s (e.word.toNat / 8) = none) : drainExt c e kind code data s =
    if code = .okay then cacheStore c e.word.toNat e.data e.be (dcacheEnter c (e.word.toNat / 8) ⟨data, false⟩ s)
    else lateError c (BitVec.ofNat 52 (e.word.toNat * 8)) false s := by
  simp only [drainExt, on, miss, notDet, clean]
  rfl

end

/-! ## Write-backs, and stores into a line -/

theorem writebackDone_found {c : CoreId} {line : BitVec 46} {w : BitVec 46 × Line} {s : State}
    (found : (s.core c).wbs.find? (fun w => w.1 == line) = some w) (code : RspCode) :
    let s1 := setCore c { s.core c with wbs := (s.core c).wbs.erase w } s
    writebackDone c line code s =
      some (if code = .okay then s1 else dropClean c line.toNat (lateError c (BitVec.ofNat 52 (line.toNat * 64)) true s1)) := by
  rw [writebackDone]
  dsimp only
  rw [found]

section
variable {c : CoreId} {line : Nat} {d : DLine} {s : State} (held : Tab.find (s.core c).dcache line = some d)
include held

/-- R273: a line that a later store has dirtied anew outlives the failure of its earlier write-back. -/
theorem dropClean_dirty (dirty : d.dirty = true) : dropClean c line s = s := by
  rw [dropClean, held]
  exact if_pos dirty

theorem dropClean_clean (clean : d.dirty = false) : dropClean c line s = dropLine c line false s := by
  rw [dropClean, held]
  exact if_neg (by simp [clean])

end

/-- R271, R272: a store changes its enabled bytes of the line, and makes it dirty. -/
theorem cacheStore_line {c : CoreId} {s : State} {word : Nat} {l : DLine} (held : Tab.find (s.core c).dcache (word / 8) = some l) (d : W64)
    (be : BitVec 8) : Tab.find ((cacheStore c word d be s).core c).dcache (word / 8) =
      some ⟨lineSetWord l.data (word % 8) (mergeBytes (wordOfLine l.data (word % 8)) d be), true⟩ := by
  simp [cacheStore, held]

/-- Settles O47: each response reaches its core (`coreResponse_next`), and the lemma on its answer says what it does there. -/
theorem coreResponses : Obligations.CoreResponses := by
  unfold Obligations.CoreResponses
  refine ⟨?fill, ?words, ?walk, ?steps, ?drain, ?writeback, fun c line d s held => ?dropped, lateError_belate,
    fun c s word d be l held => cacheStore_line held d be⟩
  case fill =>
    intro c fetch line code data f s unowed runs awaited clean got
    obtain ⟨rfl, rfl⟩ : f.line = line ∧ f.fetch = fetch := by simpa using List.find?_some awaited
    have answers {u : State} (filled : extFill c f code data s = u) : exec (.lineFillResponse c f.fetch f.line code data) s = .next u :=
      coreResponse_next unowed runs ((fillResponse_awaited awaited code data).trans (congrArg some filled))
    refine ⟨fun idle lost => answers (extFill_lost clean idle lost data), ?enters,
      fun waits past => answers (extFill_past clean waits past code data)⟩
    intro idle okay load toCache unsnooped on notDet unlocked absent
    subst okay
    have gotCore : got.core c = { s.core c with fills := (s.core c).fills.erase f } := core_setCore _ _ _
    obtain ⟨u, entered, beside, others⟩ := dcacheEnter_absent (s := got) (by rw [gotCore]; exact absent) ⟨data, false⟩
    have filled := (extFill_enters clean idle load toCache unsnooped on notDet unlocked absent data).trans entered
    have core : sansLines (u.core c) = sansLines { s.core c with fills := (s.core c).fills.erase f } := by
      rw [← gotCore]; exact congrArg Prod.fst beside
    refine ⟨_, answers filled, ?_, ?_, ?_, ?_, congrArg (·.2.1) beside, fun d other => ?_⟩
    · rw [core_withCore, Tab.find_insert_same]
    · rw [core_withCore]; exact (congrArg Core.fills core :)
    · rw [core_withCore]; exact (congrArg Core.run core :)
    · rw [core_withCore]; exact (congrArg Core.pc core :)
    · rw [core_withCore_other _ _ other, others d other]
      exact congrArg Core.dcache (Quad.get_set_other _ _ _ _ other)
  case words =>
    intro k h f w cached d bad holds why
    simp only [fillWords, holds, why]
  case walk =>
    intro c ea code entry w s unowed runs reads fresh unlocked clean s1 again
    refine ⟨fun g step => ?_, fun t step named => ?_, fun table step => ⟨fun w1 next => ?_, fun g next => ?_⟩⟩
    · exact exec_pageWalkResponse unowed runs (coreWalkResponse_fault reads fresh unlocked clean step)
    · exact exec_pageWalkResponse unowed runs (coreWalkResponse_leaf reads fresh unlocked clean step (by rw [CWalk.overtaken, named]; rfl))
    · exact exec_pageWalkResponse unowed runs (coreWalkResponse_descends reads fresh unlocked clean step next)
    · exact exec_pageWalkResponse unowed runs (coreWalkResponse_device reads fresh unlocked clean step next)
  case steps => exact fun w e => ⟨walkStep_unread w e, fun invalid => walkStep_invalid w (by simpa [pteV, bitAt] using invalid)⟩
  case drain =>
    intro c code data e rest s unowed runs oldest began line late s1 after route
    have answers {u : State} (drained : drainResponse c code data s = some u) : exec (.storeDrainResponse c code data) s = .next u :=
      coreResponse_next unowed runs drained
    refine ⟨fun off leads granted whole => answers (drainResponse_vs oldest began leads granted whole code data), fun kind emp leads unlocked => ?_⟩
    have core : s1.core c = { s.core c with sb := rest } := core_setCore _ _ _
    have goes {u : State} (drained : drainExt c e kind code data s1 = u) : exec (.storeDrainResponse c code data) s = .next (after u) :=
      answers ((drainResponse_ext oldest began leads unlocked code data).trans (congrArg (fun v => some (nextDrain c v)) drained))
    refine ⟨fun off => goes (drainExt_past code data ?_), fun on hit => goes (drainExt_hit code data ?_ ?_),
      fun on miss notDet clean => goes (drainExt_miss code data ?_ ?_ ?_ clean)⟩
    all_goals rw [core]; assumption
  case writeback =>
    intro c line code w s unowed runs found s1
    exact coreResponse_next unowed runs (writebackDone_found found code)
  case dropped =>
    exact ⟨dropClean_dirty held, fun clean => by rw [dropClean_clean held clean, dropLine_dcache]⟩

end Sys2Proof.Proofs
end

section
/-! SUPPORT. What a core takes at a parcel boundary: deliverable sources, halts, and a changed CORECFG (R267, R274, R278, R280, R282, R291, R342
to R344, R363 to R365, R521, R522). -/

namespace Sys2Proof.Proofs

open Sys2Proof.Machine Sys2Proof.Claims Sys2Proof.Laws

/-! ## The source that R364 prefers -/

/-- One source of the search for the deliverable source of the highest level. -/
def betterSource (s : State) (best : Option Nat) (n : Nat) : Option Nat :=
  match best with
  | none => some n
  | some b => if (Tab.get evSrc0 s.ev n).level.toNat > (Tab.get evSrc0 s.ev b).level.toNat then some n else some b

theorem selectSource_eq (s : State) (c : CoreId) :
    selectSource s c = ((s.ev.map (fun e => e.1)).filter (fun n => mayDeliver s c n)).foldl (betterSource s) none := rfl

/-- The search ends at a source whose level no source it has met exceeds: the one it began with, or one of the list. -/
theorem foldl_betterSource (s : State) (l : List Nat) (b : Nat) : ∃ n, l.foldl (betterSource s) (some b) = some n ∧ (n = b ∨ n ∈ l) ∧
    ∀ m, m = b ∨ m ∈ l → (Tab.get evSrc0 s.ev m).level ≤ (Tab.get evSrc0 s.ev n).level := by
  induction l generalizing b with
  | nil => exact ⟨b, rfl, .inl rfl, by simp⟩
  | cons a l ih =>
    rw [List.foldl_cons, betterSource]
    split
    case isTrue higher =>
      obtain ⟨n, ends, among, above⟩ := ih a
      refine ⟨n, ends, .inr (List.mem_cons.2 among), fun m met => ?_⟩
      rcases met with rfl | met
      · exact BitVec.le_trans (BitVec.le_of_lt higher) (above a (.inl rfl))
      · exact above m (List.mem_cons.1 met)
    case isFalse notHigher =>
      obtain ⟨n, ends, among, above⟩ := ih b
      refine ⟨n, ends, among.imp_right (List.mem_cons_of_mem a), fun m met => ?_⟩
      rcases met with rfl | met
      · exact above m (.inl rfl)
      rcases List.mem_cons.1 met with rfl | met
      · exact BitVec.le_trans (Nat.le_of_not_lt notHigher) (above b (.inl rfl))
      · exact above m (.inr met)

/-- R363, R364: the selected source is deliverable, and no deliverable one has a higher level. -/
theorem selectSource_some {s : State} {c : CoreId} {n : Nat} (selected : selectSource s c = some n) : mayDeliver s c n = true ∧
    ∀ m, m ∈ s.ev.map (fun e => e.1) → mayDeliver s c m = true → (Tab.get evSrc0 s.ev m).level ≤ (Tab.get evSrc0 s.ev n).level := by
  have candidate (m : Nat) : m ∈ (s.ev.map (fun e => e.1)).filter (fun n => mayDeliver s c n) ↔
      m ∈ s.ev.map (fun e => e.1) ∧ mayDeliver s c m = true := List.mem_filter
  rw [selectSource_eq] at selected
  generalize (s.ev.map (fun e => e.1)).filter (fun n => mayDeliver s c n) = cands at selected candidate
  cases cands with
  | nil => cases selected
  | cons a l =>
    obtain ⟨best, ends, among, above⟩ := foldl_betterSource s l a
    obtain rfl : best = n := Option.some_inj.1 (ends.symm.trans selected)
    exact ⟨((candidate best).1 (List.mem_cons.2 among)).2, fun m listed deliverable =>
      above m (List.mem_cons.1 ((candidate m).2 ⟨listed, deliverable⟩))⟩

/-! ## Interrupts -/

theorem settleArm_settled {c : CoreId} {s : State} (settled : (s.core c).sched.arm = false) : settleArm c s = s := by
  simp [settleArm, settled]

theorem chkFails_none {k : Core} (hdr : BitVec 8) (unchecked : k.chk = none) : chkFails k hdr = none := by
  rw [chkFails, unchecked]

theorem chkFails_some {k : Core} {src : BitVec 48} (pending : k.chk = some src) (hdr : BitVec 8) :
    chkFails k hdr = if entryFails k.pc hdr then some src else none := by
  rw [chkFails, pending]

section
variable {c : CoreId} {n : Nat} {s : State} {hdr : BitVec 8}

section
variable (settled : (s.core c).sched.arm = false) (issues : interruptible (s.core c) = true) (allowed : asyncAllowed s c = true)
  (selected : selectSource s c = some n)
include settled issues allowed selected

/-- R365: the selected source is entered at its level, once bank 7 has room for that (R291). -/
theorem interruptNow_enters (passes : chkFails (s.core c) hdr = none) (room : sevenWaits s c (Tab.get evSrc0 s.ev n).level.toNat = false) :
    interruptNow c hdr s = some (stepEnd c (enterAsync c n s)) := by
  simp [interruptNow, settleArm_settled settled, issues, allowed, selected, passes, room]

/-- R206, R228: a pending target without an entry mark raises ENTRY instead. -/
theorem interruptNow_entry {src : BitVec 48} (fails : chkFails (s.core c) hdr = some src)
    (room : sevenWaits s c ((s.core c).excLevel 0x03) = false) :
    interruptNow c hdr s = some (stepEnd c (enterExc c (excEntry src) (dropHeld c s))) := by
  simp [interruptNow, settleArm_settled settled, issues, allowed, selected, fails, room]

end

theorem mayDeliver_above (deliverable : mayDeliver s c n = true) : (s.core c).level.toNat < (Tab.get evSrc0 s.ev n).level.toNat := by
  simp only [mayDeliver, Bool.and_eq_true, decide_eq_true_eq] at deliverable
  exact deliverable.1.2

end

/-- R344, R365: ESTAT as the entry of a source writes it, over the STATUS `st` of the interrupted level. -/
def asyncEstat (k : Core) (n : Nat) (st : BitVec 7) : W64 := mkEstat 0x40 true false k.saved.rpend false false false n st

/-- R365: where a core's handler of level `lev` begins. -/
def asyncVector (s : State) (c : CoreId) (lev : BitVec 3) : Nat := (s.evc.get c).vec.toNat * 1024 + 16 * lev.toNat

theorem enterAsync_eq (c : CoreId) (n : Nat) (s : State) : enterAsync c n s =
    enterAt c (Tab.get evSrc0 s.ev n).level.toNat (s.core c).saved none (asyncEstat (s.core c) n)
      (asyncVector s c (Tab.get evSrc0 s.ev n).level) 0x40 n s := rfl

theorem enterAt_ev (c : CoreId) (t : Nat) (sv : Saved) (eaddr : Option W64) (estat : BitVec 7 → W64) (vector code src : Nat) (s : State) :
    (enterAt c t sv eaddr estat vector code src s).ev = s.ev := by
  obtain ⟨w, traced⟩ := trace_cores 3 c.val (BitVec.ofNat 8 code :: BitVec.ofNat 8 t :: bytesLE src 2 ++ bytesLE sv.epc.toNat 6)
    (if t > (s.core c).level.toNat then pushLevel c t (setCore c (enterCore (s.core c) t sv eaddr estat vector) s)
      else setCore c (enterCore (s.core c) t sv eaddr estat vector) s)
  rw [enterAt_eq, traceEntry, traced]
  show (ite _ _ _ : State).ev = _
  split <;> rfl

/-! ## Halts -/

/-- R522: a halt changes its core alone, and around it only the trace and what the partner of a pair hears of the freezes. -/
theorem haltCore_form (c : CoreId) (cause : Nat) (s : State) : ∃ k w p, haltCore c cause s = { setCore c k s with weado := w, pair := p } ∧
    k.st = .halted ∧ k.dbg.cause = BitVec.ofNat 3 cause ∧ k.dbg.dpc = (s.core c).saved.epc ∧ k.dbg.drpend = (s.core c).saved.rpend ∧
    k.dbg.haltreq = false ∧ k.lockRes = none ∧ k.sb = (s.core c).sb ∧ k.level = (s.core c).level ∧ ∀ m, k.bank m = (s.core c).bank m := by
  unfold haltCore
  dsimp only
  generalize halted : Core.leaveBuffer _ = k
  obtain ⟨w, traced⟩ := trace_cores 4 c.val (BitVec.ofNat 8 cause :: bytesLE (s.core c).saved.epc.toNat 6) (setCore c k s)
  obtain ⟨p, told⟩ := tellFreeze_form s { setCore c k s with weado := w }
  refine ⟨k, w, p, ?_, ?_⟩
  · rw [traceHalt, traced, told]
  · subst halted
    exact ⟨rfl, rfl, rfl, rfl, rfl, rfl, rfl, rfl, fun _ => rfl⟩

theorem haltNow_halts {c : CoreId} {s : State} (runs : dclkRuns s c = true) (issues : interruptible (s.core c) = true)
    (due : haltDue s c = true) (free : (s.core c).held = none) (unchecked : (s.core c).chk = none) (hdr : BitVec 8) :
    haltNow c hdr s = some (haltCore c (haltCause (s.core c).dbg) s) := by
  simp [haltNow, runs, issues, due, free, chkFails_none hdr unchecked]

/-! ## CORECFG -/

/-- A core in which a changed CORECFG has taken effect, before its data cache gives up what it is to give up (R267, R274, R278, R282). -/
def reconfigured (k : Core) : Core :=
  { k.sync with
    act := k.cfg
    lbact := if (k.act ^^^ k.cfg) &&& 0x19 != 0 then false else k.lbact
    icache := if k.act.getLsbD 0 && !k.cfg.getLsbD 0 then [] else k.icache }

/-- The same in two steps: the SYNC point, which a change of LBEN, ICEN or DET makes leave the loop buffer, and the instruction cache. -/
theorem reconfigured_eq (k : Core) :
    let k1 := { (if (k.act ^^^ k.cfg) &&& 0x19 != 0 then k.sync.leaveBuffer else k.sync) with act := k.cfg }
    (if k.act.getLsbD 0 && !k.cfg.getLsbD 0 then { k1 with icache := [] } else k1) = reconfigured k := by
  unfold reconfigured
  generalize ((k.act ^^^ k.cfg) &&& 0x19 != 0) = leaves
  generalize (k.act.getLsbD 0 && !k.cfg.getLsbD 0) = uncached
  cases leaves <;> cases uncached <;> rfl

/-- R280: where DET is cleared, dirty lines are written back; R274: where DCEN is cleared, the data cache is emptied. -/
def leaveLines (c : CoreId) (old new : BitVec 5) (s : State) : State :=
  let s1 := if old.getLsbD 4 && !new.getLsbD 4 then cleanDcache c s else s
  if old.getLsbD 1 && !new.getLsbD 1 then flushDcache c s1 else s1

theorem corecfgEffect_drained {c : CoreId} {s : State} (runs : dclkRuns s c = true) (changed : (s.core c).cfg ≠ (s.core c).act)
    (issues : interruptible (s.core c) = true) (free : (s.core c).held = none) (undivided : (s.core c).divide = none)
    (drained : (s.core c).sb = []) :
    corecfgEffect c s = some (leaveLines c (s.core c).act (s.core c).cfg (setCore c (reconfigured (s.core c)) s)) := by
  rw [← reconfigured_eq, corecfgEffect]
  exact if_pos (by simp [runs, changed, issues, free, undivided, drained])

theorem besidesLines_flushDcache (c : CoreId) (s : State) : besidesLines c (flushDcache c s) = besidesLines c s :=
  foldl_field (besidesLines c) (fun s (e : Nat × DLine) => besidesLines_dropLine c c e.1 true s) (s.core c).dcache s

/-- What `cleanDcache` does to one line (R273, R280, R427). -/
def cleanLine (c : CoreId) (s : State) (e : Nat × DLine) : State :=
  if e.2.dirty && !outboundOk s then dropLine c e.1 true s
  else if e.2.dirty then writeBack c e.1 e.2.data (withCore c (fun k => { k with dcache := Tab.insert k.dcache e.1 { e.2 with dirty := false } }) s)
  else s

theorem cleanDcache_eq (c : CoreId) (s : State) : cleanDcache c s = (s.core c).dcache.foldl (cleanLine c) s := rfl

theorem besidesLines_cleanDcache (c : CoreId) (s : State) : besidesLines c (cleanDcache c s) = besidesLines c s := by
  rw [cleanDcache_eq]
  refine foldl_field (besidesLines c) (fun s e => ?_) _ s
  unfold cleanLine
  split
  · exact besidesLines_dropLine c c e.1 true s
  split
  · rw [besidesLines_writeBack]
    exact besidesLines_withCore rfl
  · rfl

theorem besidesLines_leaveLines (c : CoreId) (old new : BitVec 5) (s : State) : besidesLines c (leaveLines c old new s) = besidesLines c s := by
  have cleaned : besidesLines c (if old.getLsbD 4 && !new.getLsbD 4 then cleanDcache c s else s) = besidesLines c s := by
    split
    · exact besidesLines_cleanDcache c s
    · rfl
  unfold leaveLines
  dsimp only
  split
  · exact (besidesLines_flushDcache c _).trans cleaned
  · exact cleaned

/-- Lines dropped one after the other leave the lines whose numbers are not among theirs. -/
theorem foldl_dropLine_dcache (c : CoreId) (l : List (Nat × DLine)) (s : State) :
    ((l.foldl (fun s e => dropLine c e.1 true s) s).core c).dcache = (s.core c).dcache.filter (fun d => l.all (fun e => d.1 != e.1)) := by
  induction l generalizing s with
  | nil => simp
  | cons e l ih => rw [List.foldl_cons, ih, dropLine_dcache, Tab.erase, List.filter_filter]; simp [Bool.and_comm]

/-- R274: the data cache is empty. -/
theorem flushDcache_dcache (c : CoreId) (s : State) : ((flushDcache c s).core c).dcache = [] := by
  rw [flushDcache, foldl_dropLine_dcache, List.filter_eq_nil_iff]
  intro d held
  simpa using ⟨d.2, held⟩

/-- R280: the line is clean or gone, and the others are as they were. -/
theorem cleanLine_find (c : CoreId) (s : State) (e : Nat × DLine) (l : Nat) {d : DLine} (dirty : d.dirty = true)
    (left : Tab.find ((cleanLine c s e).core c).dcache l = some d) : Tab.find (s.core c).dcache l = some d ∧ (l, d) ≠ e := by
  unfold cleanLine at left
  split at left
  · rw [dropLine_dcache] at left
    have other : l ≠ e.1 := fun same => by rw [same, Tab.find_erase_same] at left; cases left
    exact ⟨(Tab.find_erase_other _ _ _ other).symm.trans left, fun same => other (congrArg Prod.fst same)⟩
  split at left
  · rw [dcache_writeBack, core_withCore] at left
    have other : l ≠ e.1 := fun same => by
      rw [same, Tab.find_insert_same] at left
      cases left
      cases dirty
    exact ⟨(Tab.find_insert_other _ _ _ _ other).symm.trans left, fun same => other (congrArg Prod.fst same)⟩
  case isFalse clean => exact ⟨left, fun same => clean (congrArg (fun e => e.2.dirty) same ▸ dirty)⟩

theorem foldl_cleanLine_find (c : CoreId) (t : List (Nat × DLine)) (s : State) (l : Nat) {d : DLine} (dirty : d.dirty = true)
    (left : Tab.find ((t.foldl (cleanLine c) s).core c).dcache l = some d) : Tab.find (s.core c).dcache l = some d ∧ (l, d) ∉ t := by
  induction t generalizing s with
  | nil => exact ⟨left, List.not_mem_nil⟩
  | cons e t ih =>
    obtain ⟨before, notLater⟩ := ih (cleanLine c s e) left
    obtain ⟨first, notNow⟩ := cleanLine_find c s e l dirty before
    exact ⟨first, List.not_mem_cons_of_ne_of_not_mem notNow notLater⟩

theorem Tab.mem_of_find {α : Type} {t : Tab α} {k : Nat} {v : α} (found : Tab.find t k = some v) : (k, v) ∈ t := by
  induction t with
  | nil => cases found
  | cons e t ih =>
    rw [Tab.find] at found
    split at found
    case isTrue same => cases found; cases same; exact List.mem_cons_self
    case isFalse => exact List.mem_cons_of_mem _ (ih found)

/-- R280: no line is dirty any more. -/
theorem cleanDcache_clean (c : CoreId) (s : State) {l : Nat} {d : DLine} (held : Tab.find ((cleanDcache c s).core c).dcache l = some d) :
    d.dirty = false := by
  rw [cleanDcache_eq] at held
  refine Bool.eq_false_iff.2 fun dirty => ?_
  obtain ⟨before, notMet⟩ := foldl_cleanLine_find c _ s l dirty held
  exact notMet (Tab.mem_of_find before)

theorem leaveLines_empty {c : CoreId} {old new : BitVec 5} (was : old.getLsbD 1 = true) (now : new.getLsbD 1 = false) (s : State) :
    ((leaveLines c old new s).core c).dcache = [] := by
  simp only [leaveLines, was, now]
  exact flushDcache_dcache c _

theorem leaveLines_clean {c : CoreId} {old new : BitVec 5} (was : old.getLsbD 4 = true) (now : new.getLsbD 4 = false) {s : State} {l : Nat}
    {d : DLine} (held : Tab.find ((leaveLines c old new s).core c).dcache l = some d) : d.dirty = false := by
  simp only [leaveLines, was, now, Bool.not_false, Bool.and_self, if_true] at held
  split at held
  · rw [flushDcache_dcache] at held
    cases held
  · exact cleanDcache_clean c s held

/-- R267: only a change of LBEN, ICEN or DET leaves the loop buffer. -/
theorem reconfigured_lbact (k : Core) : (reconfigured k).lbact = if (k.act ^^^ k.cfg) &&& 0x19 = 0 then k.lbact else false := by
  simp only [reconfigured, bne_iff_ne, ne_eq, ite_not]

theorem reconfigured_icache {k : Core} (was : k.act.getLsbD 0 = true) (now : k.cfg.getLsbD 0 = false) : (reconfigured k).icache = [] :=
  if_pos (by rw [was, now]; rfl)

/-- Settles O48: `interruptNow_enters` and `interruptNow_entry` are the two ends of a delivery, `enterCore_facts` what an entry writes,
`haltCore_form` a halt; a changed CORECFG is `reconfigured`, and then `leaveLines` of the data cache. -/
theorem coreBoundaries : Obligations.CoreBoundaries := by
  unfold Obligations.CoreBoundaries
  refine ⟨?interrupt, fun c n s selected => selectSource_some selected, ?entry, ?halt, ?config⟩
  case interrupt =>
    intro c hdr n s settled issues allowed selected free
    have answers {u : State} (taken : interruptNow c hdr s = some u) : exec (.interruptEntry c hdr) s = .next u :=
      congrArg (orRefuse "no source is deliverable at this boundary") taken
    have enters (passes : chkFails (s.core c) hdr = none) (room : free = true) :
        exec (.interruptEntry c hdr) s = .next (stepEnd c (enterAsync c n s)) :=
      answers (interruptNow_enters settled issues allowed selected passes (by simpa [free] using room))
    refine ⟨fun unchecked room => enters (chkFails_none hdr unchecked) room, fun src pending => ⟨fun passes room => ?_, fun fails room => ?_⟩⟩
    · exact enters ((chkFails_some pending hdr).trans (if_neg (by simp [passes]))) room
    · exact answers (interruptNow_entry settled issues allowed selected ((chkFails_some pending hdr).trans (if_pos fails)) room)
  case entry =>
    intro c n s deliverable k0 k lev st
    have core : k = enterCore k0 lev.toNat k0.saved none (asyncEstat k0 n) (asyncVector s c lev) := by
      show (enterAsync c n s).core c = _
      rw [enterAsync_eq]
      exact enterAt_core ..
    obtain ⟨newLevel, running, pc, latent, lockRes, -, delay, rep, written, others, -⟩ :=
      enterCore_facts k0 lev.toNat k0.saved none (asyncEstat k0 n) (asyncVector s c lev)
    rw [← core, BitVec.ofNat_toNat, BitVec.setWidth_eq] at newLevel written others
    rw [← core] at running pc latent lockRes delay rep
    have seventh : lev.toNat = 7 ↔ lev = 7 := BitVec.toNat_inj (y := 7)
    refine ⟨newLevel, running, pc, latent, lockRes, delay, rep, by rw [written], by rw [written]; rfl, by rw [written]; rfl, ?status,
      fun m => ?cells, others, ?active, by rw [enterAsync_eq, enterAt_ev]⟩
    case status =>
      rw [written]
      simp only [seventh]
      rfl
    case cells =>
      by_cases same : m = lev
      · rw [same, written]
        exact ⟨rfl, rfl⟩
      · rw [others m same]
        exact ⟨rfl, rfl⟩
    case active =>
      rw [enterAsync_eq, enterAt_evc]
      exact if_pos (mayDeliver_above deliverable)
  case halt =>
    intro c hdr s runs issues due free unchecked k t
    obtain ⟨k', w, p, form, halted, cause, dpc, drpend, haltreq, lockRes, sb, level, banks⟩ := haltCore_form c (haltCause k.dbg) s
    have state : t = _ := form
    have core : t.core c = k' := by rw [state]; exact core_setCore _ _ _
    refine ⟨congrArg (orRefuse "no halt is due at this boundary") (haltNow_halts runs issues due free unchecked hdr), ?_⟩
    rw [core, state]
    exact ⟨halted, cause, dpc, drpend, haltreq, lockRes, sb, level, banks, rfl, rfl, rfl, rfl⟩
  case config =>
    intro c s runs changed issues free undivided drained old new
    have beside := besidesLines_leaveLines c old new (setCore c (reconfigured (s.core c)) s)
    have core : sansLines ((leaveLines c old new (setCore c (reconfigured (s.core c)) s)).core c) = sansLines (reconfigured (s.core c)) :=
      (congrArg Prod.fst beside).trans (congrArg sansLines (core_setCore _ _ _))
    refine ⟨_, congrArg (orRefuse "no CORECFG change can take effect") (corecfgEffect_drained runs changed issues free undivided drained),
      (congrArg Core.act core :), (congrArg Core.cfg core :), (congrArg Core.latent core :),
      fun was now => (congrArg Core.icache core :).trans (reconfigured_icache was now), fun was now => leaveLines_empty was now _,
      (congrArg Core.lbact core :).trans (reconfigured_lbact _), (congrArg Core.lbprev core :),
      fun was now l d held => leaveLines_clean was now held, congrArg (·.2.1) beside, congrArg (·.2.2.1) beside, congrArg (·.2.2.2) beside⟩

end Sys2Proof.Proofs
end

section
/-! SUPPORT. INVPG, INVALL and INVWALK (R331, R332): what an invalidation discards and marks, and that a parcel which has just entered execution
has waited for no walk (notes/assumptions/87.md). -/

namespace Sys2Proof.Proofs

open Sys2Proof.Machine Sys2Proof.Claims Sys2Proof.Laws

/-! ## What the fetch of a code line leaves of the held parcel -/

/-- What the held parcel of a core waits for, or has waited for last. -/
def heldWhy (c : CoreId) (s : State) : Option HoldFor := (s.core c).held.map (fun h => h.why)

theorem hasWaited_iff {w : HoldFor} {c : CoreId} {s : State} : hasWaited w c s = true ↔ heldWhy c s = some w := by
  unfold hasWaited heldWhy
  cases (s.core c).held <;> simp

section
variable {c : CoreId} {s t : State}

theorem heldWhy_voidDet : heldWhy c (voidDet c s) = heldWhy c s := by
  obtain ⟨v, voided⟩ := voidDet_core c s c
  simp only [heldWhy, voided]

theorem heldWhy_noteGot (g : List Got) : heldWhy c (noteGot c g s) = heldWhy c s := by
  simp only [heldWhy, noteGot, core_withCore, Option.map_map]
  rfl

/-- A parcel that enters execution has waited for no walk (R332). -/
theorem heldWhy_presented (p : PCtx) (w nxt : BitVec 20) (s : State) : heldWhy p.core (presented p w nxt s) = some .drain := by
  simp only [heldWhy, presented, core_withCore, Option.map_some]

/-- The Vector Store window begins and ends at a word (R27). -/
theorem vsOffset_wordStart (s : State) (pa : Nat) : (vsOffset s (pa / 8 * 8)).isSome = (vsOffset s pa).isSome := by
  have pairWindow : pa / 8 * 8 / 2 ^ 27 = pa / 2 ^ 27 := by omega
  have ownWindow : pa / 8 * 8 / 2 ^ 26 = pa / 2 ^ 26 := by omega
  unfold vsOffset
  rw [pairWindow, ownWindow]
  dsimp only
  split_ifs <;> rfl

theorem routeOf_vs {pa off : Nat} (route : routeOf s pa = .vs off) : ∃ off', routeOf s (pa / 8 * 8) = .vs off' := by
  have inside : vsOffset s pa = some off := by
    unfold routeOf at route
    split at route
    · rename_i o found
      injection route with same
      rw [found, same]
    · split at route <;> cases route
  obtain ⟨off', found⟩ := Option.isSome_iff_exists.mp ((vsOffset_wordStart s pa).trans (by rw [inside, Option.isSome_some]))
  exact ⟨off', by rw [routeOf, found]⟩

/-- A word of the Vector Store that is at hand joins what the parcel has received (R263, R270). -/
theorem heldWhy_readWordPa {pl pa off : Nat} {full split lock : Bool} {v : W64} (route : routeOf s (pa / 8 * 8) = .vs off)
    (run : readWordPa c pl pa full split lock s = .ok v t) : heldWhy c t = heldWhy c s := by
  unfold readWordPa at run
  simp only [route] at run
  split at run
  case h_1 =>
    split at run <;> cases run
    rfl
  case h_2 =>
    split at run
    · cases run
    split at run
    · split at run <;> cases run
      exact (heldWhy_noteGot _).trans heldWhy_voidDet
    · split at run <;> (split at run <;> cases run)

theorem heldWhy_fetchPart {pl pa : Nat} (run : fetchPart c pl pa s = .ok () t) : heldWhy c t = heldWhy c s := by
  unfold fetchPart at run
  dsimp only at run
  split at run
  case h_1 =>
    cases run
    rfl
  case h_2 off route =>
    obtain ⟨off', start⟩ := routeOf_vs route
    obtain ⟨v, s1, read, rest⟩ := next_ok_inv run
    cases rest
    exact heldWhy_readWordPa start read
  case h_3 =>
    split at run
    · cases run
      rfl
    split at run
    · split at run <;> cases run
      rfl
    · cases run

theorem awaitWalk_unfinished {root : BitVec 40} {tag : BitVec 16} {pl lin : Nat} {need : XNeed} {split : Bool} {pa : Nat} :
    awaitWalk c root tag pl lin need split s ≠ .ok pa t := by
  unfold awaitWalk
  dsimp only
  split
  · nofun
  · split <;> nofun

/-- A translation that is at hand changes nothing (R316, R326). -/
theorem coreXlate_same {pl lin : Nat} {need : XNeed} {split : Bool} {pa : Nat} (run : coreXlate c pl lin need split s = .ok pa t) : t = s := by
  unfold coreXlate at run
  dsimp only at run
  split at run
  · cases run
    rfl
  split at run
  · cases run
  split at run
  · split at run
    · cases run
      rfl
    · exact absurd run awaitWalk_unfinished
  · exact absurd run awaitWalk_unfinished

theorem fetchXlate_same {pl lin first : Nat} {pa : Nat} (run : fetchXlate c pl lin first s = .ok pa t) : t = s := by
  obtain ⟨pa1, s1, found, rest⟩ := next_ok_inv run
  have same : s1 = s := by
    split at found
    · cases found
    · exact coreXlate_same found
  split at rest <;> cases rest
  exact same

/-- R259, R263: the fetch of a code line takes words from the held parcel, and leaves what it waits for. -/
theorem heldWhy_fetchCode {pc : BitVec 48} (run : fetchCode c pc s = .ok () t) : heldWhy c t = heldWhy c s := by
  unfold fetchCode at run
  dsimp only at run
  split at run
  · cases run
  obtain ⟨pa0, s1, first, run⟩ := next_ok_inv run
  obtain ⟨pa1, s2, last, run⟩ := next_ok_inv run
  have translated : s2 = s := by
    rw [← fetchXlate_same first]
    split at last
    · cases last
      rfl
    · exact fetchXlate_same last
  subst translated
  split at run
  · cases run
    rfl
  obtain ⟨_, s3, low, run⟩ := next_ok_inv run
  obtain ⟨_, s4, high, run⟩ := next_ok_inv run
  have fetched : heldWhy c s4 = heldWhy c s2 := by
    rw [← heldWhy_fetchPart low]
    split at high
    · cases high
      rfl
    · exact heldWhy_fetchPart high
  cases run
  split
  · exact fetched
  · rw [← fetched]
    simp only [heldWhy, core_withCore, Option.map_map]
    rfl

theorem heldWhy_reachParcel {cx : Cx} {hdr : BitVec 8} (run : reachParcel cx hdr s = .ok () t) : heldWhy cx.c t = heldWhy cx.c s := by
  unfold reachParcel at run
  split at run
  · exact heldWhy_fetchCode run
  split at run
  · cases run
  obtain ⟨_, s1, fetched, rest⟩ := next_ok_inv run
  split at rest <;> cases rest
  rw [← heldWhy_fetchCode fetched]
  simp only [heldWhy, core_withCore]

end

/-- Log entry 87: an INVWALK that stands ready has discarded nothing yet. -/
theorem ready_notWaited {p : PCtx} {w nxt : BitVec 20} {s s1 : State} (ready : Ready p w nxt s s1) : hasWaited .walks p.core s1 = false := by
  have why : heldWhy p.core s1 = some .drain := (heldWhy_reachParcel ready.reached).trans (heldWhy_presented p w nxt s)
  rw [← Bool.not_eq_true, hasWaited_iff, why]
  nofun

/-! ## What the three operations do -/

section
variable {c : CoreId} {s : State}

theorem needDrained_ok (why : HoldFor) (drained : (s.core c).sb = []) : needDrained c why s = .ok () s := by
  simp [needDrained, drained]

theorem needDrained_hold (why : HoldFor) (stores : (s.core c).sb ≠ []) : needDrained c why s = .hold why s := by
  simp [needDrained, stores]

variable (monitor : 2 ≤ (s.core c).pl)
include monitor

section
variable {x : W64} {t : List W64} (cells : (bank c s).oc = x :: t) (settled : takesPending (s.core c).pendingCell 1 (bank c s) = false)
include cells settled

theorem runInvpg_drained (drained : (s.core c).sb = []) :
    runInvpg c s = .ok .done (discardPage (x.truncate 48) (putBank c { bank c s with oc := t } s)) := by
  simp only [runInvpg, needPriv_ok monitor, needCells_frame (n := 1) (by simp [cells]) settled, needDrained_ok _ drained, Out.next_ok,
    top_area cells, onFrame_pop (by simp [drained]) cells settled]

theorem runInvpg_waits (stores : (s.core c).sb ≠ []) : runInvpg c s = .hold .drain s := by
  simp only [runInvpg, needPriv_ok monitor, needCells_frame (n := 1) (by simp [cells]) settled, needDrained_hold _ stores, Out.next_ok,
    Out.next_hold]

end

theorem runInvall_drained (drained : (s.core c).sb = []) : runInvall c s = .ok .done (discardAll s) := by
  simp only [runInvall, needPriv_ok monitor, needDrained_ok _ drained, Out.next_ok]

theorem runInvall_waits (stores : (s.core c).sb ≠ []) : runInvall c s = .hold .drain s := by
  simp only [runInvall, needPriv_ok monitor, needDrained_hold _ stores, Out.next_ok, Out.next_hold]

/-- Log entry 87: INVWALK empties the walk caches as it begins, and waits while a walk that it has met is in flight. -/
theorem runInvwalk_drained (fresh : hasWaited .walks c s = false) (drained : (s.core c).sb = []) :
    runInvwalk c s = if walksLate (discardWalks s) then .hold .walks (discardWalks s) else .ok .done (discardWalks s) := by
  simp only [runInvwalk, needPriv_ok monitor, needDrained_ok _ drained, Out.next_ok, fresh, Bool.false_eq_true, if_false]

theorem runInvwalk_waits (stores : (s.core c).sb ≠ []) : runInvwalk c s = .hold .drain s := by
  simp only [runInvwalk, needPriv_ok monitor, needDrained_hold _ stores, Out.next_ok, Out.next_hold]

end

/-! ## What the three discards leave -/

@[simp] theorem core_discardPage (lin : BitVec 48) (s : State) (c : CoreId) : (discardPage lin s).core c = { s.core c with
    tlb := (s.core c).tlb.filter (fun e => !e.holds lin.toNat), walks := (s.core c).walks.map (fun w => { w with inv := lin :: w.inv }) } :=
  quad_get_map _ _ _

@[simp] theorem core_discardAll (s : State) (c : CoreId) :
    (discardAll s).core c = { s.core c with tlb := [], walks := (s.core c).walks.map (fun w => { w with stale := true }) } :=
  quad_get_map _ _ _

@[simp] theorem core_discardWalks (s : State) (c : CoreId) :
    (discardWalks s).core c = { s.core c with wcache := [], walks := (s.core c).walks.map (fun w => { w with late := true }) } :=
  quad_get_map _ _ _

/-- R331: the entries whose page does not hold an address stay. -/
theorem mem_otherPages {tlb : List TlbEntry} {lin : BitVec 48} {e : TlbEntry} :
    e ∈ tlb.filter (fun e => !e.holds lin.toNat) ↔ e ∈ tlb ∧ lin.toNat / 2 ^ levelBits e.level ≠ e.page := by
  simp [TlbEntry.holds]

/-- Settles O19: each operation's flow is its `runInv…` equation, and each discard maps every core alike. That INVWALK empties the walk caches
as it begins and waits for the walks in flight then is the model's choice (log entry 87). -/
theorem invalidations : Obligations.Invalidations := by
  unfold Obligations.Invalidations
  intro p s s1 holds monitor
  have invpg : ((.invpg, 0x2C) : (PCtx → BitVec 10 → Instr) × Nat) ∈ longRows := by simp [longRows]
  have invall : ((.invall, 0x2D) : (PCtx → BitVec 10 → Instr) × Nat) ∈ longRows := by simp [longRows]
  have invwalk : ((.invwalk, 0x2E) : (PCtx → BitVec 10 → Instr) × Nat) ∈ longRows := by simp [longRows]
  refine ⟨fun x t ready cells settled => ⟨fun drained => ?pageDrained, fun stores => ?pageWaits⟩,
    fun ready => ⟨fun drained => ?allDrained, fun stores => ?allWaits⟩,
    fun ready => ⟨fun drained => ?walkDrained, fun stores => ?walkWaits⟩, fun c lin => ⟨?cores, ?engine⟩⟩
  case pageDrained => exact exec_long_done invpg rfl ready holds (runInvpg_drained monitor cells settled drained)
  case pageWaits => exact exec_long_holds invpg rfl ready holds (runInvpg_waits monitor cells settled stores)
  case allDrained => exact exec_long_done invall rfl ready holds (runInvall_drained monitor drained)
  case allWaits => exact exec_long_holds invall rfl ready holds (runInvall_waits monitor stores)
  case walkDrained =>
    have run := runInvwalk_drained monitor (ready_notWaited ready) drained
    split
    case isTrue late =>
      rw [if_pos late] at run
      exact exec_long_holds invwalk rfl ready holds run
    case isFalse noneLate =>
      rw [if_neg noneLate] at run
      exact exec_long_done invwalk rfl ready holds run
  case walkWaits => exact exec_long_holds invwalk rfl ready holds (runInvwalk_waits monitor stores)
  case cores =>
    dsimp only
    rw [core_discardPage, core_discardAll, core_discardWalks]
    exact ⟨fun e => mem_otherPages, rfl, rfl, rfl, rfl, rfl, by simp, by simp, by simp, rfl, rfl, rfl⟩
  case engine =>
    exact ⟨fun e => mem_otherPages, rfl, by simp [discardPage], by simp [discardAll], rfl, rfl, rfl⟩

end Sys2Proof.Proofs
end

section
/-! SUPPORT. SVC, FRTN and what ERET restores (R347, R351 to R354). -/

namespace Sys2Proof.Proofs

open Sys2Proof.Machine Sys2Proof.Claims Sys2Proof.Laws

/-! ## Saved words -/

/-- R352: the fields of FSTAT. -/
theorem mkFstat_eq (sstatus : BitVec 7) (nest : Bool) (callno : BitVec 10) : mkFstat sstatus nest callno =
    BitVec.ofNat 64 (sstatus.toNat + 2 ^ 8 + (if nest then 2 ^ 9 else 0) + callno.toNat * 2 ^ 16) := by
  cases nest <;> rfl

/-- R347: the PL restored from the saved STATUS in the low bits of a word. -/
theorem restorePl_status (pl : Nat) (v : W64) : restorePl pl (fieldAt 0 7 v) = Nat.min (v.toNat % 4) pl := by
  rw [restorePl, fieldAt_zero, Nat.mod_mod_of_dvd _ (by decide)]

/-- R347: the PL restored from ESTAT.SSTATUS. -/
theorem restorePl_field (pl lo : Nat) (v : W64) : restorePl pl (fieldAt lo 2 v) = Nat.min (fieldAt lo 2 v) pl :=
  congrArg (Nat.min · pl) (Nat.mod_mod _ 4)

/-- R347: the level returned to is the saved one where it is not above the running level. -/
theorem returnLevel_toNat (level : BitVec 3) (v : W64) (lo : Nat) :
    (if fieldAt lo 3 v ≤ level.toNat then BitVec.ofNat 3 (fieldAt lo 3 v) else level).toNat =
      if fieldAt lo 3 v ≤ level.toNat then fieldAt lo 3 v else level.toNat := by
  split
  · rw [BitVec.toNat_ofNat, fieldAt, Nat.mod_mod]
  · rfl

/-! ## SVC and FRTN -/

/-- A parcel that has set where execution goes on itself. -/
theorem exec_long_moves {row : (PCtx → BitVec 10 → Instr) × Nat} {p : PCtx} {f : BitVec 10} {s s1 s2 : State} (listed : row ∈ longRows)
    (field : fieldLegal row.2 f = true) (ready : Ready p (longParcel p.cond row.2 f) nopParcel s s1)
    (holds : condHolds p.cond (bank p.core s1).flags = true)
    (run : runLong ⟨p.core, (s.core p.core).pc, false⟩ row.2 f s1 = .ok .moved s2) :
    exec (row.1 p f) s = .next (stepEnd p.core (dropHeld p.core s2)) := by
  rw [exec_long listed field ready holds, run]
  rfl

section
variable {cx : Cx} {s : State}

theorem runSvc_eq (f : BitVec 10) : runSvc cx f s =
    let k := ((s.core cx.c).sync).leaveLoop
    let b := k.run
    let target : BitVec 48 := k.fentry.truncate 48
    .ok .moved (traceBranch cx.c target (setCore cx.c
      { (k.putRun { b with
          fpc := advance cx.pc 1
          fstat := BitVec.ofNat 64 (b.status.toNat + 2 ^ 8 + (if bitAt 8 b.fstat then 2 ^ 9 else 0) + f.toNat * 2 ^ 16)
          status := mkStatusWord (Nat.max (b.status.toNat % 4) (if fieldAt 48 2 k.fentry = 2 then 2 else 1)) (b.status.getLsbD 2)
            k.level.toNat }).goTo target with
        lockRes := none, chk := some cx.pc } s)) := by
  simp only [runSvc, mkFstat_eq]

theorem runFrtn_eq (level : 1 ≤ (s.core cx.c).pl) : runFrtn cx s =
    let pl := (s.core cx.c).pl
    let k := ((s.core cx.c).sync).leaveLoop
    let b := k.run
    let saved := bitAt 2 b.fstat
    .ok .moved (traceBranch cx.c b.fpc (setCore cx.c
      { (k.putRun { b with
          status := mkStatusWord (Nat.min (b.fstat.toNat % 4) pl) (if pl = 2 then saved else saved && (s.core cx.c).hold) k.level.toNat
          fstat := b.fstat &&& ~~~ (0x100 : W64) }).goTo b.fpc with lockRes := none } s)) := by
  simp only [runFrtn, needPriv_ok level, Out.next_ok, restorePl_status, restoreHold]

end

/-! ## ERET -/

theorem core_doEret (c : CoreId) (s : State) : (doEret c s).core c =
    let k := s.core c
    let e := (k.bank k.level).estat
    eretCore k (if fieldAt 36 3 e ≤ k.level.toNat then BitVec.ofNat 3 (fieldAt 36 3 e) else k.level)
      (Nat.min (fieldAt 32 2 e) k.pl) (if k.pl = 2 then bitAt 34 e else bitAt 34 e && k.hold) := by
  simp only [doEret_eq, traceBranch, core_trace, core_setCore, restorePl_field, restoreHold]

theorem evc_doEret (c : CoreId) (s : State) : (doEret c s).evc = s.evc := by
  rw [doEret_eq]
  exact evc_trace _ _ _ _

/-- Settles O15: SVC and FRTN set where execution goes on by `runSvc_eq` and `runFrtn_eq`; the core that ERET leaves is `eretCore`, whose words
are `eretCore_facts`. That a latent STATUS write pending at FRTN or ERET is overwritten by what the return restores is the model's choice (log
entry 47). -/
theorem fastCallsAndReturns : Obligations.FastCallsAndReturns := by
  unfold Obligations.FastCallsAndReturns
  refine ⟨fun p f s s1 holds => ⟨fun ready => ?svc, fun ready level => ?frtn⟩, fun c s => ?eret⟩
  case svc => exact exec_long_moves (row := (.svc, 0x0C)) (by simp [longRows]) rfl ready holds (runSvc_eq f)
  case frtn => exact exec_long_moves (row := (.frtn, 0x31)) (by simp [longRows]) rfl ready holds (runFrtn_eq level)
  case eret =>
    intro k0 b e t k lev
    have left : k = eretCore k0 _ _ _ := core_doEret c s
    have words := eretCore_facts k0 (if fieldAt 36 3 e ≤ k0.level.toNat then BitVec.ofNat 3 (fieldAt 36 3 e) else k0.level)
      (Nat.min (fieldAt 32 2 e) k0.pl) (if k0.pl = 2 then bitAt 34 e else bitAt 34 e && k0.hold)
    rw [← left] at words
    obtain ⟨level, status, estat, latent, lockRes, pc, st, repResume, delay, chk⟩ := words
    rw [← level] at status
    have levelIs : k.level.toNat = lev := by rw [level, returnLevel_toNat]
    rw [levelIs] at status
    exact ⟨levelIs, status, estat, latent, lockRes, pc, st, repResume, delay, chk, evc_doEret c s⟩

end Sys2Proof.Proofs
end

section
/-! SUPPORT. A step of the block (notes/assumptions/6.md), and the set-up window by requester, size and offset (R570 to R574). -/

namespace Sys2Proof.Proofs

open Sys2Proof.Machine Sys2Proof.Claims Sys2Proof.Laws

/-! ## The step -/

theorem step_empty {s : State} (empty : s.pending = []) : step s = .next (idleTick s) := by rw [step, empty]

theorem step_front {s : State} {c : Instr} {rest : List Instr} (front : s.pending = c :: rest) :
    step s = exec c { s with pending := rest } := by rw [step, front]

theorem tickAotime_form (s : State) : tickAotime s = { s with log := { s.log with
    aotime := if s.rst.phase ≠ .aopor ∧ clockOn s .aoclk = true then s.log.aotime + 1 else s.log.aotime } } := by
  by_cases counts : s.rst.phase ≠ .aopor ∧ clockOn s .aoclk = true
  · rw [tickAotime, if_pos (by simpa using counts), if_pos counts]
  · rw [tickAotime, if_neg (by simpa using counts), if_neg counts]

theorem tickHub_form (s : State) : ∃ t, tickHub s = { s with troupe := t } := by
  unfold tickHub
  split
  · exact ⟨_, rfl⟩
  · exact ⟨s.troupe, rfl⟩

theorem tickWatchdogs_form (s : State) : ∃ q t, tickWatchdogs s = { s with wds := q, twd := t } := by
  unfold tickWatchdogs
  split
  · exact ⟨_, _, rfl⟩
  · exact ⟨s.wds, s.twd, rfl⟩

/-- Settles O28: an idle step counts AOTIME, then moves the hub's time and the watchdogs alone. -/
theorem stepRunsTheFrontCommand : Obligations.StepRunsTheFrontCommand := by
  unfold Obligations.StepRunsTheFrontCommand
  refine ⟨fun c rest s front => step_front front, fun c s => step_front rfl, fun s empty => ⟨_, step_empty empty, ?_⟩⟩
  obtain ⟨troupe, hub⟩ := tickHub_form (tickAotime s)
  obtain ⟨wds, twd, dogs⟩ := tickWatchdogs_form (tickHub (tickAotime s))
  rw [idleTick, dogs, hub, tickAotime_form]
  exact ⟨rfl, rfl, rfl⟩

/-! ## Accesses that the window answers without a register -/

/-- R570, R572: the response of a write that reaches no register, which changes nothing. -/
theorem windowWrite_unserved {who : Requester} {off : Nat} {be : BitVec 8} {v : W64} {s : State}
    (h : off % 8 ≠ 0 ∨ be ≠ 0xFF ∨ windowRefused who off s = true) : windowWrite who off be v s = (.etgt, s) := by
  rw [windowWrite, if_pos (by simpa [or_assoc] using h)]

theorem windowWrite_above {who : Requester} {off : Nat} {v : W64} {s : State} (whole : off % 8 = 0)
    (served : windowRefused who off s = false) (above : 0xF0000 ≤ off) : windowWrite who off 0xFF v s = (.edec, s) := by
  rw [windowWrite, if_neg (by simp [whole, served]), if_pos above]

theorem exec_setupRegisterWrite (who : Requester) (off : BitVec 24) (be : BitVec 8) (v : W64) (s : State) :
    exec (.setupRegisterWrite who off be v) s = writeCmd who off.toNat be v s := rfl

theorem writeCmd_core {c : CoreId} {off : Nat} {be : BitVec 8} {v : W64} {s : State} (lives : coreLives s c = true) :
    writeCmd (.core c) off be v s =
      .next (answerWindow (.core c) (windowWrite (.core c) off be v s).1 0 (windowWrite (.core c) off be v s).2) := by
  simp only [writeCmd, windowCmd, lives, if_true]

theorem writeCmd_host (off : Nat) (be : BitVec 8) (v : W64) (s : State) :
    writeCmd .host off be v s = .next (answerWindow .host (windowWrite .host off be v s).1 0 (windowWrite .host off be v s).2) := rfl

theorem writeCmd_busy {off : Nat} {be : BitVec 8} {v : W64} {s : State} (busy : s.weado.sam.busy = true) :
    writeCmd .weado off be v s = .next (deny s) := by
  rw [writeCmd, windowCmd, if_pos busy]

theorem writeCmd_low {off : Nat} {be : BitVec 8} {v : W64} {s : State} (idle : s.weado.sam.busy = false)
    (low : effLevel s < writeLevel s off) : writeCmd .weado off be v s = .next (samEnd 4 (deny s)) := by
  rw [writeCmd, windowCmd, if_neg (by simp [idle]), if_pos low]

/-! ## Offsets that hold no register (R572) -/

/-- The error log is read only, the identity block holds VTOUT alone, and the DMA block ends with its channels. -/
theorem writeReg_reserved {off : Nat} (reserved : off / 0x10000 = 0xC ∨ (off / 0x10000 = 0 ∧ off ≠ 0x100) ∨ (0x61000 ≤ off ∧ off < 0x70000))
    (who : Requester) (v : W64) (s : State) : writeReg who off v s = s := by
  rcases reserved with log | ⟨identity, other⟩ | ⟨above, below⟩
  · simp only [writeReg, log]
  · have apart : off % 0x10000 ≠ 0x100 := by omega
    simp only [writeReg, identity, if_neg apart]
  · have block : off / 0x10000 = 6 := by omega
    have past : ¬ off % 0x10000 < 0x1000 := by omega
    simp only [writeReg, block, if_neg past]

/-! ## Commands named for one register -/

/-- A command that writes one register whole is the write of its offset, and completes as that write does. -/
theorem named_write {who : Requester} {c : Instr} {off : Nat} {v : W64} {s : State} (named : exec c s = writeCmd who off 0xFF v s)
    (whole : off % 8 = 0) (inside : off < 0xF0000) :
    exec c s = exec (.setupRegisterWrite who (BitVec.ofNat 24 off) 0xFF v) s ∧
      (mayAccess who (writeLevel s (BitVec.ofNat 24 off).toNat) (BitVec.ofNat 24 off).toNat s = true →
        exec c s = .next (written who (writeReg who (BitVec.ofNat 24 off).toNat v s))) := by
  have offset : (BitVec.ofNat 24 off).toNat = off := by rw [BitVec.toNat_ofNat]; omega
  rw [exec_setupRegisterWrite, offset, named]
  exact ⟨rfl, fun served => writeCmd_ok served whole inside⟩

/-- Settles O34: `windowWrite` decides by size, requester and offset, and every command named for a register is its write. -/
theorem setupWindowAccesses : Obligations.SetupWindowAccesses := by
  unfold Obligations.SetupWindowAccesses
  refine ⟨fun who off v s served whole inside => writeCmd_ok served whole inside,
    fun c off be v s lives => ⟨fun odd => ?size, fun whole full above => ?above⟩, fun off be v s down => ?down,
    fun off be v s busy => writeCmd_busy busy, fun off be v s idle low => writeCmd_low idle low,
    fun who off v s reserved => writeReg_reserved reserved who v s, fun who s => ?named⟩
  case size =>
    rw [exec_setupRegisterWrite, writeCmd_core lives, windowWrite_unserved (by tauto)]
    rfl
  case above =>
    rw [exec_setupRegisterWrite, writeCmd_core lives, full, windowWrite_above whole rfl above]
    rfl
  case down =>
    rw [exec_setupRegisterWrite, writeCmd_host, windowWrite_unserved (.inr (.inr (by simp [windowRefused, hostRefused, down])))]
    rfl
  case named =>
    refine ⟨fun n v => named_write rfl ?_ ?_, fun v => named_write (off := 0x70000) rfl ?_ ?_, fun v => named_write (off := 0x70000) rfl ?_ ?_,
      fun ch v => ⟨named_write rfl ?_ ?_, named_write rfl ?_ ?_, named_write rfl ?_ ?_⟩, fun v => named_write (off := 0x20048) rfl ?_ ?_,
      fun v => named_write (off := 0xA0010) rfl ?_ ?_, fun v => named_write (off := 0xA0010) rfl ?_ ?_, fun c v => named_write rfl ?_ ?_,
      fun v => named_write (off := 0xA0060) rfl ?_ ?_, fun v => named_write (off := 0x100) rfl ?_ ?_⟩
    all_goals omega

end Sys2Proof.Proofs
end

section
/-! SUPPORT. What leaves the fuses, the test wrapper and the queue of commands alone. -/

namespace Sys2Proof.Proofs

open Sys2Proof.Machine Sys2Proof.Claims Sys2Proof.Laws

/-- The fuses, the wrapper that holds the repair fuses, and the commands that wait. -/
def fuseSide (s : State) : Fuses × Wrapper × List Instr := (s.fuses, s.wrap, s.pending)

/-- A record of the state shows its fuse side in its own fields. -/
@[simp] theorem fuseSide_mk (id : IdParam) (role : TileRole) (ev : Tab EvSrc) (evc : Quad EvCore) (log : ErrLog) (vs : VStore) (eng : Engine)
    (entries : Quad (Tab QEntry)) (iq : Quad (List (Fin 8))) (pamap : Tab W64) (cores : Quad Core) (weado : Weado) (rings : Rings) (dma : Dma)
    (troupe : Troupe) (pair : Pair) (rst : ResetClk) (cal : Calib) (pwr : Power) (supv : Supv) (fuses : Fuses) (boot : Boot) (auth : DbgAuth)
    (panel : Panel) (wds : Quad Wdog) (twd : Wdog) (wrap : Wrapper) (ports : Ports) (free : Nat) (pending : List Instr) :
    fuseSide ⟨id, role, ev, evc, log, vs, eng, entries, iq, pamap, cores, weado, rings, dma, troupe, pair, rst, cal, pwr, supv, fuses, boot, auth,
      panel, wds, twd, wrap, ports, free, pending⟩ = (fuses, wrap, pending) := rfl

@[simp] theorem fuseSide_eta (s : State) : (s.fuses, s.wrap, s.pending) = fuseSide s := rfl

@[simp] theorem fuseSide_ite (p : Prop) [Decidable p] (s t : State) : fuseSide (if p then s else t) = if p then fuseSide s else fuseSide t :=
  apply_ite fuseSide p s t

@[simp] theorem fuseSide_foldl {α : Type} {act : State → α → State} (same : ∀ s a, fuseSide (act s a) = fuseSide s) (l : List α) (s : State) :
    fuseSide (l.foldl act s) = fuseSide s := foldl_field fuseSide same l s

/-- A fold that threads the state beside a result. -/
theorem fuseSide_foldl_snd {α β : Type} {act : β × State → α → β × State} (same : ∀ x a, fuseSide (act x a).2 = fuseSide x.2) (l : List α)
    (x : β × State) : fuseSide (l.foldl act x).2 = fuseSide x.2 := by
  induction l generalizing x with
  | nil => rfl
  | cons a l ih => rw [List.foldl_cons, ih, same]


@[simp] theorem fuseSide_takeWord (s : State) : fuseSide (s.takeWord).2 = fuseSide s := rfl

@[simp] theorem fuseSide_takeBool (s : State) : fuseSide (s.takeBool).2 = fuseSide s := rfl

@[simp] theorem fuseSide_takeNat (s : State) : fuseSide (s.takeNat).2 = fuseSide s := rfl

@[simp] theorem fuseSide_setCore (c : CoreId) (k : Core) (s : State) : fuseSide (setCore c k s) = fuseSide s := rfl

@[simp] theorem fuseSide_withCore (c : CoreId) (f : Core → Core) (s : State) : fuseSide (withCore c f s) = fuseSide s := rfl

@[simp] theorem fuseSide_voidDet (c : CoreId) (s : State) : fuseSide (voidDet c s) = fuseSide s := rfl

@[simp] theorem fuseSide_takeArrival (n : Nat) (s : State) : fuseSide (takeArrival n s) = fuseSide s := by
  simp [takeArrival]

@[simp] theorem fuseSide_arrive (n : Nat) (s : State) : fuseSide (arrive n s) = fuseSide s := by
  simp [arrive]

@[simp] theorem fuseSide_logRecord (kind unit : Nat) (addr : BitVec 52) (detail : W64) (mchk : Bool) (s : State) :
    fuseSide (logRecord kind unit addr detail mchk s) = fuseSide s := by
  obtain ⟨l, logged⟩ := logRecord_form kind unit addr detail mchk s
  rw [logged]
  split
  · exact fuseSide_arrive _ _
  · rfl

@[simp] theorem fuseSide_setWeado (w : Weado) (s : State) : fuseSide (setWeado w s) = fuseSide s := rfl

@[simp] theorem fuseSide_traceEnter (pkt : List Byte) (s : State) : fuseSide (traceEnter pkt s) = fuseSide s := by
  simp [traceEnter]

@[simp] theorem fuseSide_tracePacket (kind src : Nat) (payload : List Byte) (s : State) : fuseSide (tracePacket kind src payload s) = fuseSide s := by
  simp [tracePacket]

@[simp] theorem fuseSide_traceLaunch (c : CoreId) (e : Fin 8) (tag : BitVec 32) (s : State) : fuseSide (traceLaunch c e tag s) = fuseSide s := by
  simp [traceLaunch]

@[simp] theorem fuseSide_traceChdone (tag : BitVec 32) (state : Nat) (flags : BitVec 8) (s : State) : fuseSide (traceChdone tag state flags s) = fuseSide s := by
  simp [traceChdone]

@[simp] theorem fuseSide_setPair (p : Pair) (s : State) : fuseSide (setPair p s) = fuseSide s := rfl

@[simp] theorem fuseSide_sendPair (w : PairWord) (s : State) : fuseSide (sendPair w s) = fuseSide s := by
  simp [sendPair]

@[simp] theorem fuseSide_clearLocks (who : Option CoreId) (line : Nat) (s : State) : fuseSide (clearLocks who line s) = fuseSide s := by
  simp [clearLocks]

@[simp] theorem fuseSide_tellFreeze (before s : State) : fuseSide (tellFreeze before s) = fuseSide s := by
  simp [tellFreeze]

@[simp] theorem fuseSide_withTroupe (f : Troupe → Troupe) (s : State) : fuseSide (withTroupe f s) = fuseSide s := rfl

@[simp] theorem fuseSide_sendMsg (m : Msg) (s : State) : fuseSide (sendMsg m s) = fuseSide s := by
  simp [sendMsg]

@[simp] theorem fuseSide_withRings (f : Rings → Rings) (s : State) : fuseSide (withRings f s) = fuseSide s := rfl

@[simp] theorem fuseSide_setEntryW (i : Nat) (e : WEntry) (s : State) : fuseSide (setEntryW i e s) = fuseSide s := rfl

@[simp] theorem fuseSide_watchError (i : Nat) (pa : BitVec 52) (code : BitVec 2) (s : State) : fuseSide (watchError i pa code s) = fuseSide s := by
  simp [watchError]

@[simp] theorem fuseSide_issueArm (i : Nat) (s : State) : fuseSide (issueArm i s) = fuseSide s := by
  unfold issueArm
  dsimp only
  (repeat' split) <;> simp

@[simp] theorem fuseSide_pumpWatch  (n : Nat) (s : State) : fuseSide (pumpWatch n s) = fuseSide s := by
  induction n generalizing s with
  | zero => rfl
  | succ n ih =>
    unfold pumpWatch
    (repeat' split) <;> simp [ih]

@[simp] theorem fuseSide_pumpRings (s : State) : fuseSide (pumpRings s) = fuseSide s := by
  simp [pumpRings]

@[simp] theorem fuseSide_armEntry (i : Nat) (first : Bool) (s : State) : fuseSide (armEntry i first s) = fuseSide s := by
  simp [armEntry]

@[simp] theorem fuseSide_dropWatches (s : State) : fuseSide (dropWatches s) = fuseSide s := rfl

@[simp] theorem fuseSide_ringStop (s : State) : fuseSide (ringStop s) = fuseSide s := rfl

@[simp] theorem fuseSide_armAll (s : State) : fuseSide (armAll s) = fuseSide s := by
  simp [armAll]

@[simp] theorem fuseSide_makeEligible (g : Nat) (mask : W64) (s : State) : fuseSide (makeEligible g mask s) = fuseSide s := by
  simp [makeEligible]

@[simp] theorem fuseSide_arriveCtrl  (n : Nat) (s : State) : fuseSide (arriveCtrl n s) = fuseSide s := by
  induction n generalizing s with
  | zero => rfl
  | succ n ih => simp [arriveCtrl, ih]

@[simp] theorem fuseSide_handleHot (j : Nat) (first : Bool) (d : Line) (s : State) : fuseSide (handleHot j first d s) = fuseSide s := by
  simp [handleHot]

@[simp] theorem fuseSide_setScans (l : List Scan) (s : State) : fuseSide (setScans l s) = fuseSide s := rfl

@[simp] theorem fuseSide_scanFail (x : Scan) (pa : BitVec 52) (code : BitVec 2) (s : State) : fuseSide (scanFail x pa code s) = fuseSide s := by
  simp [scanFail]

@[simp] theorem fuseSide_replaceScan (x : Scan) (s : State) : fuseSide (replaceScan x s) = fuseSide s := rfl

@[simp] theorem fuseSide_scanAdd (x : Scan) (s : State) : fuseSide (scanAdd x s) = fuseSide s := by
  unfold scanAdd
  dsimp only
  (repeat' split) <;> simp

@[simp] theorem fuseSide_scanNext (x : Scan) (s : State) : fuseSide (scanNext x s) = fuseSide s := by
  unfold scanNext
  split <;> simp

@[simp] theorem fuseSide_scanStart (i : Nat) (d : Line) (s : State) : fuseSide (scanStart i d s) = fuseSide s := by
  simp [scanStart]

@[simp] theorem fuseSide_scanReads (x : Scan) (s : State) : fuseSide (scanReads x s) = fuseSide s := by
  unfold scanReads
  dsimp only
  (repeat' split) <;> simp

@[simp] theorem fuseSide_scanRead (x : Scan) (k : Fin 8) (s : State) : fuseSide (scanRead x k s) = fuseSide s := by
  simp [scanRead]

theorem fuseSide_watchResponse (i : Nat) (code : RspCode) (d : Line) (s : State) {t : State} (h : watchResponse i code d s = some t) : fuseSide t = fuseSide s := by
  unfold watchResponse at h
  (repeat' split at h) <;> cases h <;> simp

theorem fuseSide_addResponse (i : BitVec 8) (code : RspCode) (s : State) {t : State} (h : addResponse i code s = some t) : fuseSide t = fuseSide s := by
  unfold addResponse at h
  (repeat' split at h) <;> cases h <;> simp

theorem fuseSide_groupResponse (i : BitVec 8) (k : Fin 8) (code : RspCode) (s : State) {t : State} (h : groupResponse i k code s = some t) : fuseSide t = fuseSide s := by
  unfold groupResponse at h
  (repeat' split at h) <;> cases h <;> simp

@[simp] theorem fuseSide_snoopRings (line : Nat) (s : State) : fuseSide (snoopRings line s) = fuseSide s := by
  unfold snoopRings
  dsimp only
  (repeat' split) <;> simp

@[simp] theorem fuseSide_popRing (s : State) : fuseSide (popRing s) = fuseSide s := by
  unfold popRing
  split <;> simp

@[simp] theorem fuseSide_ringset (v : W64) (s : State) : fuseSide (ringset v s) = fuseSide s := by
  simp [ringset]

@[simp] theorem fuseSide_writeWatchcfg (v : W64) (s : State) : fuseSide (writeWatchcfg v s) = fuseSide s := by
  simp [writeWatchcfg]

@[simp] theorem fuseSide_writeWatcharm (v : W64) (s : State) : fuseSide (writeWatcharm v s) = fuseSide s := by
  simp [writeWatcharm]

@[simp] theorem fuseSide_ringStart (s : State) : fuseSide (ringStart s) = fuseSide s := by
  simp [ringStart]

@[simp] theorem fuseSide_ringTakeover (s : State) : fuseSide (ringTakeover s) = fuseSide s := by
  simp [ringTakeover]

@[simp] theorem fuseSide_sweepEnd (s : State) : fuseSide (sweepEnd s) = fuseSide s := by
  simp [sweepEnd]

@[simp] theorem fuseSide_pollStep (s : State) : fuseSide (pollStep s) = fuseSide s := by
  unfold pollStep
  dsimp only
  (repeat' split) <;> simp

@[simp] theorem fuseSide_setVs (v : VStore) (s : State) : fuseSide (setVs v s) = fuseSide s := rfl

@[simp] theorem fuseSide_countCe (s : State) : fuseSide (countCe s) = fuseSide s := by
  simp [countCe]

@[simp] theorem fuseSide_countUe (s : State) : fuseSide (countUe s) = fuseSide s := by
  simp [countUe]

@[simp] theorem fuseSide_logEcc (dbl : Bool) (rq word pbank : Nat) (s : State) : fuseSide (logEcc dbl rq word pbank s) = fuseSide s := by
  simp [logEcc]

@[simp] theorem fuseSide_readWord (rq word : Nat) (s : State) : fuseSide (readWord rq word s).2 = fuseSide s := by
  unfold readWord
  dsimp only
  (repeat' split) <;> simp

@[simp] theorem fuseSide_writeWord (word : Nat) (d : W64) (poison : Bool) (s : State) : fuseSide (writeWord word d poison s) = fuseSide s := rfl

@[simp] theorem fuseSide_denySecure (rq : Nat) (s : State) : fuseSide (denySecure rq s) = fuseSide s := by
  simp [denySecure]

@[simp] theorem fuseSide_present (rs : List BankReq) (s : State) : fuseSide (present rs s) = fuseSide s := rfl

@[simp] theorem fuseSide_scrubStepDone (s : State) : fuseSide (scrubStepDone s) = fuseSide s := by
  simp [scrubStepDone]

@[simp] theorem fuseSide_grantOne (r : BankReq) (s : State) : fuseSide (grantOne r s).2 = fuseSide s := by
  unfold grantOne
  dsimp only
  (repeat' split) <;> simp

@[simp] theorem fuseSide_countConflicts (losers : List BankReq) (s : State) : fuseSide (countConflicts losers s) = fuseSide s := by
  simp [countConflicts]

@[simp] theorem fuseSide_grantClears (r : BankReq) (s : State) : fuseSide (grantClears r s) = fuseSide s := by
  unfold grantClears
  split <;> simp

@[simp] theorem fuseSide_wipeClears (row : Nat) (s : State) : fuseSide (wipeClears row s) = fuseSide s := by
  unfold wipeClears
  refine fuseSide_foldl (fun s a => ?_) _ _
  (repeat' split) <;> simp

@[simp] theorem fuseSide_grantBank (qual : Bool) (pres : List BankReq) (halves : Tab WriteHalf) (p : Nat)
    (acc : (List (ReqDest × Nat × BankAnswer) × List BankReq) × State) (b : Nat) :
    fuseSide (grantBank qual pres halves p acc b).2 = fuseSide acc.2 := by
  unfold grantBank
  dsimp only
  split
  · simp
  · split <;> simp

@[simp] theorem fuseSide_presentRepair (s : State) : fuseSide (presentRepair s) = fuseSide s := by
  simp [presentRepair]

@[simp] theorem fuseSide_scrubCount (s : State) : fuseSide (scrubCount s) = fuseSide s := by
  simp [scrubCount]

@[simp] theorem fuseSide_tickEngtime (s : State) : fuseSide (tickEngtime s) = fuseSide s := rfl

@[simp] theorem fuseSide_grantCycle (qual : Bool) (s : State) : fuseSide (grantCycle qual s).2 = fuseSide s := by
  unfold grantCycle
  dsimp only
  split
  · simp
  · simp [fuseSide_foldl_snd (fuseSide_grantBank _ _ _ _)]

@[simp] theorem fuseSide_wipeTrigger (s : State) : fuseSide (wipeTrigger s) = fuseSide s := rfl

@[simp] theorem fuseSide_repairStart (lbank : BitVec 10) (spare : BitVec 2) (s : State) : fuseSide (repairStart lbank spare s) = fuseSide s := by
  simp [repairStart]

@[simp] theorem fuseSide_repairDone (s : State) : fuseSide (repairDone s) = fuseSide s := by
  simp [repairDone]

@[simp] theorem fuseSide_pushLevel (c : CoreId) (t : Nat) (s : State) : fuseSide (pushLevel c t s) = fuseSide s := rfl

@[simp] theorem fuseSide_sendAlert (c : CoreId) (cause : Nat) (s : State) : fuseSide (sendAlert c cause s) = fuseSide s := by
  unfold sendAlert
  split <;> simp

@[simp] theorem fuseSide_lockUp (c : CoreId) (cause : Nat) (s : State) : fuseSide (lockUp c cause s) = fuseSide s := by
  simp [lockUp]

@[simp] theorem fuseSide_traceEntry (c : CoreId) (code level src : Nat) (epc : BitVec 48) (s : State) : fuseSide (traceEntry c code level src epc s) = fuseSide s := by
  simp [traceEntry]

@[simp] theorem fuseSide_enterAt (c : CoreId) (t : Nat) (sv : Saved) (eaddr : Option W64) (estat : BitVec 7 → W64) (vector : Nat) (code src : Nat) (s : State) : fuseSide (enterAt c t sv eaddr estat vector code src s) = fuseSide s := by
  simp [enterAt]

@[simp] theorem fuseSide_enterSaved (c : CoreId) (sv : Saved) (e : Exc) (s : State) : fuseSide (enterSaved c sv e s) = fuseSide s := by
  simp [enterSaved]

@[simp] theorem fuseSide_enterExc (c : CoreId) (e : Exc) (s : State) : fuseSide (enterExc c e s) = fuseSide s := by
  simp [enterExc]

@[simp] theorem fuseSide_enterEntry (c : CoreId) (transfer : BitVec 48) (s : State) : fuseSide (enterEntry c transfer s) = fuseSide s := by
  simp [enterEntry]

@[simp] theorem fuseSide_enterAsync (c : CoreId) (n : Nat) (s : State) : fuseSide (enterAsync c n s) = fuseSide s := by
  simp [enterAsync]

@[simp] theorem fuseSide_lateError (c : CoreId) (pa : BitVec 52) (wb : Bool) (s : State) : fuseSide (lateError c pa wb s) = fuseSide s := by
  simp [lateError]

@[simp] theorem fuseSide_writeBack (c : CoreId) (line : Nat) (d : Line) (s : State) : fuseSide (writeBack c line d s) = fuseSide s := by
  simp [writeBack]

@[simp] theorem fuseSide_dropLine (c : CoreId) (line : Nat) (wb : Bool) (s : State) : fuseSide (dropLine c line wb s) = fuseSide s := by
  unfold dropLine
  split <;> simp

@[simp] theorem fuseSide_dcacheEnter (c : CoreId) (line : Nat) (d : DLine) (s : State) : fuseSide (dcacheEnter c line d s) = fuseSide s := by
  unfold dcacheEnter
  dsimp only
  (repeat' split) <;> simp

@[simp] theorem fuseSide_icacheEnter (c : CoreId) (line : Nat) (d : Line) (s : State) : fuseSide (icacheEnter c line d s) = fuseSide s := rfl

@[simp] theorem fuseSide_snoopCores (line : Nat) (s : State) : fuseSide (snoopCores line s) = fuseSide s := by
  simp [snoopCores]

@[simp] theorem fuseSide_coherentWrite (line : Nat) (s : State) : fuseSide (coherentWrite line s) = fuseSide s := by
  simp [coherentWrite]

@[simp] theorem fuseSide_ownLine (c : CoreId) (line : Nat) (s : State) : fuseSide (ownLine c line s) = fuseSide s := by
  simp [ownLine]

@[simp] theorem fuseSide_cacheStore (c : CoreId) (word : Nat) (d : W64) (be : BitVec 8) (s : State) : fuseSide (cacheStore c word d be s) = fuseSide s := by
  unfold cacheStore
  dsimp only
  (repeat' split) <;> simp

@[simp] theorem fuseSide_flushDcache (c : CoreId) (s : State) : fuseSide (flushDcache c s) = fuseSide s := by
  simp [flushDcache]

end Sys2Proof.Proofs
end

section
/-! SUPPORT. What leaves the fuses, the test wrapper and the queue of commands alone: the vector engine and the DMA engine. -/

namespace Sys2Proof.Proofs

open Sys2Proof.Machine Sys2Proof.Claims Sys2Proof.Laws


@[simp] theorem fuseSide_setEng (e : Engine) (s : State) : fuseSide (setEng e s) = fuseSide s := rfl

@[simp] theorem fuseSide_setChain (slot : Fin 4) (ch : Chain) (s : State) : fuseSide (setChain slot ch s) = fuseSide s := rfl

@[simp] theorem fuseSide_withChain (slot : Fin 4) (f : Chain → Chain) (s : State) : fuseSide (withChain slot f s) = fuseSide s := by
  unfold withChain
  split <;> simp

@[simp] theorem fuseSide_setEntry (c : CoreId) (e : Fin 8) (q : QEntry) (s : State) : fuseSide (setEntry c e q s) = fuseSide s := rfl

@[simp] theorem fuseSide_deliverStatus (c : CoreId) (e : Fin 8) (r : StatusRec) (final : Bool) (s : State) : fuseSide (deliverStatus c e r final s) = fuseSide s := by
  simp [deliverStatus]

@[simp] theorem fuseSide_journalProgress (slot : Fin 4) (s : State) : fuseSide (journalProgress slot s) = fuseSide s := by
  unfold journalProgress
  split <;> simp

@[simp] theorem fuseSide_clearFault (slot : Fin 4) (s : State) : fuseSide (clearFault slot s) = fuseSide s := rfl

@[simp] theorem fuseSide_engBump (s : State) (n : Nat) : fuseSide (engBump s n) = fuseSide s := rfl

@[simp] theorem fuseSide_finishChain (slot : Fin 4) (state : Nat) (cause : BitVec 8) (vorx : Nat) (s : State) : fuseSide (finishChain slot state cause vorx s) = fuseSide s := by
  unfold finishChain
  split <;> simp

@[simp] theorem fuseSide_tryEnd (slot : Fin 4) (s : State) : fuseSide (tryEnd slot s) = fuseSide s := by
  unfold tryEnd
  (repeat' split) <;> simp

@[simp] theorem fuseSide_failChain (slot : Fin 4) (cause : BitVec 8) (vorx : Nat) (pa : BitVec 52) (logIt : Bool) (s : State) : fuseSide (failChain slot cause vorx pa logIt s) = fuseSide s := by
  unfold failChain
  dsimp only
  (repeat' split) <;> simp

@[simp] theorem fuseSide_tellSuspended (slot : Fin 4) (s : State) : fuseSide (tellSuspended slot s) = fuseSide s := by
  unfold tellSuspended
  dsimp only
  (repeat' split) <;> simp

@[simp] theorem fuseSide_journalSuspend (slot : Fin 4) (s : State) : fuseSide (journalSuspend slot s) = fuseSide s := by
  unfold journalSuspend
  dsimp only
  (repeat' split) <;> simp

@[simp] theorem fuseSide_journalLate (slot : Fin 4) (s : State) : fuseSide (journalLate slot s) = fuseSide s := by
  unfold journalLate
  (repeat' split) <;> simp

@[simp] theorem fuseSide_xlate (ch : Chain) (key lin : Nat) (write : Bool) (s : State) : fuseSide (xlate ch key lin write s).2 = fuseSide s := by
  unfold xlate
  split
  · rfl
  · dsimp only
    (repeat' split) <;> simp

theorem fuseSide_of_xlate {ch : Chain} {key lin : Nat} {write : Bool} {s s1 : State} {r : XRes} (found : xlate ch key lin write s = (r, s1)) :
    fuseSide s1 = fuseSide s := by rw [← fuseSide_xlate ch key lin write s, found]

@[simp] theorem fuseSide_holdPage (slot : Fin 4) (page key : Nat) (write : Bool) (f : HeldFault) (s : State) : fuseSide (holdPage slot page key write f s) = fuseSide s := by
  simp [holdPage]

@[simp] theorem fuseSide_startWalk (slot : Fin 4) (key lin : Nat) (write : Bool) (s : State) : fuseSide (startWalk slot key lin write s) = fuseSide s := by
  unfold startWalk
  split <;> simp

@[simp] theorem fuseSide_addLine (slot : Fin 4) (l : LineBuf) (s : State) : fuseSide (addLine slot l s) = fuseSide s := by
  simp [addLine]

@[simp] theorem fuseSide_fetchLine (slot : Fin 4) (vi n : Nat) (line : Int) (s : State) :
    fuseSide (fetchLine slot vi n line s).2 = fuseSide s := by
  unfold fetchLine
  split
  · rfl
  next ch _ =>
    dsimp only
    split
    · simp
    split
    · rfl
    rcases found : xlate ch (streamKey vi n) (line.toNat * 64) false s with ⟨r, s1⟩
    have kept := fuseSide_of_xlate found
    cases r with
    | walk => simpa using kept
    | fault f => simpa using kept
    | ok pa =>
      dsimp only
      split
      case h_4 =>
        rw [fuseSide_foldl_snd]
        · simpa using kept
        · intro x i
          split <;> simp
      all_goals simpa using kept

theorem fuseSide_of_fetchLine {slot : Fin 4} {vi n : Nat} {line : Int} {s s1 : State} {ok : Bool}
    (fetched : fetchLine slot vi n line s = (ok, s1)) : fuseSide s1 = fuseSide s := by rw [← fuseSide_fetchLine slot vi n line s, fetched]

@[simp] theorem fuseSide_prefetch (slot : Fin 4) (vi n : Nat) (v : Vor) (words fuel : Nat) (s : State) :
    fuseSide (prefetch slot vi n v words fuel s) = fuseSide s := by
  induction fuel generalizing s with
  | zero => rfl
  | succ fuel ih =>
    unfold prefetch
    split
    · rfl
    dsimp only
    split
    · rfl
    split
    · simp [ih]
    split
    · rfl
    rcases fetched : fetchLine slot vi n _ s with ⟨ok, s1⟩
    have kept := fuseSide_of_fetchLine fetched
    cases ok with
    | true => simpa [ih] using kept
    | false => simpa using kept

@[simp] theorem fuseSide_prefetchAll (slot : Fin 4) (s : State) : fuseSide (prefetchAll slot s) = fuseSide s := by
  unfold prefetchAll
  split
  · rfl
  · exact fuseSide_foldl (fun s x => by simp) _ _

@[simp] theorem fuseSide_expandMask (slot : Fin 4) (vi : Nat) (v : Vor) (i : Nat) (s : State) : fuseSide (expandMask slot vi v i s) = fuseSide s := by
  unfold expandMask
  dsimp only
  (repeat' split) <;> simp

@[simp] theorem fuseSide_expandMasks (slot : Fin 4) (s : State) : fuseSide (expandMasks slot s) = fuseSide s := by
  unfold expandMasks
  split
  · rfl
  · refine fuseSide_foldl (fun s vi => ?_) _ _
    split <;> simp

@[simp] theorem fuseSide_captureFree (slot : Fin 4) (x : Nat × Nat × Nat) (s : State) : fuseSide (captureFree slot x s) = fuseSide s := by
  simp [captureFree]

@[simp] theorem fuseSide_demandLines (slot : Fin 4) (s : State) : fuseSide (demandLines slot s) = fuseSide s := by
  unfold demandLines
  split
  · rfl
  rw [fuseSide_foldl_snd]
  intro acc x
  split
  · rfl
  dsimp only
  split
  · rfl
  split
  · rfl
  rcases fetched : fetchLine slot x.vi x.n _ acc.2 with ⟨ok, s1⟩
  cases ok <;> exact fuseSide_of_fetchLine fetched

@[simp] theorem fuseSide_consumeLines (slot : Fin 4) (s : State) : fuseSide (consumeLines slot s) = fuseSide s := by
  unfold consumeLines
  split <;> simp

@[simp] theorem fuseSide_farWords (slot : Fin 4) (s : State) : fuseSide (farWords slot s) = fuseSide s := by
  unfold farWords
  split
  · rfl
  split
  · rfl
  refine fuseSide_foldl (fun s x => fuseSide_foldl (fun s w => ?_) _ _) _ _
  split <;> simp

@[simp] theorem fuseSide_takeFault (slot : Fin 4) (f : SFault) (s : State) : fuseSide (takeFault slot f s) = fuseSide s := by
  unfold takeFault
  dsimp only
  (repeat' split) <;> simp

@[simp] theorem fuseSide_raiseFault (slot : Fin 4) (f : SFault) (s : State) : fuseSide (raiseFault slot f s) = fuseSide s := by
  unfold raiseFault
  split <;> simp

@[simp] theorem fuseSide_applyActs (slot : Fin 4) (acts : List (Nat × Acts)) (s : State) : fuseSide (applyActs slot acts s) = fuseSide s := by
  unfold applyActs
  split <;> simp

@[simp] theorem fuseSide_presentChain (slot : Fin 4) (s0 : State) : fuseSide (presentChain slot s0) = fuseSide s0 := by
  unfold presentChain
  dsimp only
  (repeat' split) <;> simp

@[simp] theorem fuseSide_lateExpand (slot : Fin 4) (s : State) : fuseSide (lateExpand slot s) = fuseSide s := by
  unfold lateExpand
  dsimp only
  (repeat' split) <;> simp

@[simp] theorem fuseSide_issueWrites (slot : Fin 4) (fuel : Nat) (s : State) : fuseSide (issueWrites slot fuel s) = fuseSide s := by
  induction fuel generalizing s with
  | zero => rfl
  | succ fuel ih =>
    unfold issueWrites
    split
    · rfl
    next ch _ =>
      split
      · rfl
      next w rest _ =>
        split
        · simp
        rcases found : xlate ch (streamKey w.vor 4) (w.vline * 64) true s with ⟨r, s1⟩
        have kept := fuseSide_of_xlate found
        cases r with
        | walk => simpa using kept
        | fault f => simpa using kept
        | ok pa =>
          dsimp only
          split
          · simpa [ih] using kept
          · split <;> simp [ih, kept]

@[simp] theorem fuseSide_issuePx (slot : Fin 4) (fuel : Nat) (s : State) : fuseSide (issuePx slot fuel s) = fuseSide s := by
  induction fuel generalizing s with
  | zero => rfl
  | succ fuel ih =>
    unfold issuePx
    split
    · rfl
    split
    · rfl
    split
    · rfl
    split
    · rfl
    · simp
    dsimp only
    split
    next s1 found => simp [fuseSide_of_xlate found]
    next f s1 found => exact fuseSide_of_xlate found
    next pa s1 found =>
      have kept := fuseSide_of_xlate found
      split
      next => exact kept
      next => simp [kept]
      next => simp [ih, kept]
      next => split <;> simp [ih, kept]

@[simp] theorem fuseSide_pump (slot : Fin 4) (s : State) : fuseSide (pump slot s) = fuseSide s := by
  unfold pump
  (repeat' split) <;> simp

@[simp] theorem fuseSide_runPipes (slot : Fin 4) (s : State) : fuseSide (runPipes slot s) = fuseSide s := by
  unfold runPipes
  split <;> simp

@[simp] theorem fuseSide_enterTime (slot : Fin 4) (s : State) : fuseSide (enterTime slot s) = fuseSide s := by
  simp [enterTime]

@[simp] theorem fuseSide_stallChain (slot : Fin 4) (s : State) : fuseSide (stallChain slot s) = fuseSide s := by
  simp [stallChain]

@[simp] theorem fuseSide_crossLink (group : List (Fin 4)) (s : State) : fuseSide (crossLink group s) = fuseSide s := by
  unfold crossLink
  rw [fuseSide_foldl_snd]
  intro acc i
  split <;> simp

@[simp] theorem fuseSide_tellPeer (slot : Fin 4) (s : State) : fuseSide (tellPeer slot s) = fuseSide s := by
  unfold tellPeer
  split <;> simp

theorem fuseSide_readProgram (c : CoreId) (e : Fin 8) (rsp : List LineRsp) (s : State) {t : State} (h : readProgram c e rsp s = some t) : fuseSide t = fuseSide s := by
  unfold readProgram at h
  dsimp only at h
  (repeat' split at h) <;> cases h <;> simp

@[simp] theorem fuseSide_presentProg (c : CoreId) (s : State) : fuseSide (presentProg c s) = fuseSide s := by
  unfold presentProg
  split
  · rfl
  dsimp only
  split
  · rfl
  split
  · rfl
  split
  · refine fuseSide_foldl (fun s j => ?_) _ _
    split <;> simp
  · rfl

@[simp] theorem fuseSide_presentProgs (s : State) : fuseSide (presentProgs s) = fuseSide s := by
  simp [presentProgs]

@[simp] theorem fuseSide_answerProg (c : CoreId) (e : Fin 8) (i : Nat) (a : BankAnswer) (s : State) : fuseSide (answerProg c e i a s) = fuseSide s := by
  unfold answerProg
  split <;> simp

@[simp] theorem fuseSide_rejectChain (c : CoreId) (e : Fin 8) (vorx cause : Nat) (s : State) :
    fuseSide (rejectChain c e vorx cause s) = fuseSide s := by
  unfold rejectChain
  dsimp only
  rw [fuseSide_traceChdone, fuseSide_arrive, fuseSide_mk, fuseSide_eta, fuseSide_deliverStatus, fuseSide_setEntry, fuseSide_setEng]
  split
  · rw [fuseSide_logRecord]
  · rfl

@[simp] theorem fuseSide_checkHead (c : CoreId) (s : State) : fuseSide (checkHead c s) = fuseSide s := by
  unfold checkHead
  dsimp only
  rw [fuseSide_ite, fuseSide_foldl (fun s e => fuseSide_setEntry _ _ _ _), fuseSide_foldl (fun s x => ?_), ite_self]
  split <;> simp

@[simp] theorem fuseSide_consumeTrigger (c : CoreId) (e : Fin 8) (s : State) : fuseSide (consumeTrigger c e s) = fuseSide s := rfl

@[simp] theorem fuseSide_launchGroup (c : CoreId) (s : State) : fuseSide (launchGroup c s) = fuseSide s := by
  simp [launchGroup]

@[simp] theorem fuseSide_launchFar (progs : List PeerProg) (s : State) : fuseSide (launchFar progs s) = fuseSide s := by
  unfold launchFar
  dsimp only
  split
  · rfl
  · rw [fuseSide_foldl (fun s p => fuseSide_enterTime _ _), fuseSide_setEng, fuseSide_foldl (fun s p => fuseSide_setChain _ _ _)]

@[simp] theorem fuseSide_retryChain (slot : Fin 4) (s : State) : fuseSide (retryChain slot s) = fuseSide s := by
  unfold retryChain
  split <;> simp

@[simp] theorem fuseSide_beforeAdvance (frozen : Bool) (slot : Fin 4) (s : State) : fuseSide (beforeAdvance frozen slot s) = fuseSide s := by
  unfold beforeAdvance
  (repeat' split) <;> simp

@[simp] theorem fuseSide_advanceChain (slot : Fin 4) (s : State) : fuseSide (advanceChain slot s) = fuseSide s := by
  simp [advanceChain]

@[simp] theorem fuseSide_tickGroup (slot : Fin 4) (s : State) : fuseSide (tickGroup slot s) = fuseSide s := by
  unfold tickGroup
  split
  · rfl
  dsimp only
  rw [fuseSide_foldl (fun s i => fuseSide_journalProgress i s), fuseSide_ite, fuseSide_foldl (fun s i => fuseSide_advanceChain i s),
    fuseSide_foldl (fun s i => fuseSide_tellPeer i s), fuseSide_foldl (fun s i => fuseSide_beforeAdvance _ i s),
    fuseSide_foldl (fun s i => fuseSide_withChain i _ s), fuseSide_foldl (fun s i => ?ended), fuseSide_ite, fuseSide_crossLink, ite_self,
    fuseSide_foldl (fun s i => fuseSide_tellPeer i s), fuseSide_foldl (fun s i => fuseSide_beforeAdvance _ i s),
    fuseSide_foldl (fun s i => fuseSide_withChain i _ s), ite_self]
  case ended => split <;> simp

theorem fuseSide_lineResponse (slot : Fin 4) (ch : Chain) (line : Nat) (code : RspCode) (data : Line) (s : State) {t : State} (h : lineResponse slot ch line code data s = some t) : fuseSide t = fuseSide s := by
  unfold lineResponse at h
  dsimp only at h
  (repeat' split at h) <;> cases h <;> simp

theorem fuseSide_writeResponse (slot : Fin 4) (ch : Chain) (line : Nat) (code : RspCode) (s : State) {t : State} (h : writeResponse slot ch line code s = some t) : fuseSide t = fuseSide s := by
  unfold writeResponse at h
  (repeat' split at h) <;> cases h <;> simp

theorem fuseSide_walkResponse (slot : Fin 4) (page : Nat) (code : RspCode) (entry : W64) (s : State) {t : State} (h : walkResponse slot page code entry s = some t) : fuseSide t = fuseSide s := by
  unfold walkResponse at h
  dsimp only at h
  (repeat' split at h) <;> cases h <;> simp

@[simp] theorem fuseSide_refuseAction (slot : Fin 4) (r : BankReq) (vi n e fidx : Nat) (s : State) : fuseSide (refuseAction slot r vi n e fidx s) = fuseSide s := by
  unfold refuseAction
  dsimp only
  (repeat' split) <;> simp

@[simp] theorem fuseSide_answerLoad (slot : Fin 4) (vi n i : Nat) (a : BankAnswer) (s : State) : fuseSide (answerLoad slot vi n i a s) = fuseSide s := by
  unfold answerLoad
  dsimp only
  (repeat' split) <;> simp

@[simp] theorem fuseSide_answerLineWord (slot : Fin 4) (vi n line i : Nat) (a : BankAnswer) (s : State) : fuseSide (answerLineWord slot vi n line i a s) = fuseSide s := by
  simp [answerLineWord]

@[simp] theorem fuseSide_answerGather (slot : Fin 4) (vi e : Nat) (a : BankAnswer) (s : State) : fuseSide (answerGather slot vi e a s) = fuseSide s := by
  unfold answerGather
  dsimp only
  (repeat' split) <;> simp

@[simp] theorem fuseSide_answerStore (slot : Fin 4) (vi e : Nat) (a : BankAnswer) (s : State) : fuseSide (answerStore slot vi e a s) = fuseSide s := by
  unfold answerStore
  (repeat' split) <;> simp

@[simp] theorem fuseSide_putJournal (slot : Fin 4) (tail : Bool) (old new : Journal) (s : State) : fuseSide (putJournal slot tail old new s) = fuseSide s := by
  simp [putJournal]

@[simp] theorem fuseSide_resumeChain (slot : Fin 4) (s : State) : fuseSide (resumeChain slot s) = fuseSide s := by
  simp [resumeChain]

@[simp] theorem fuseSide_cancelChain (slot : Fin 4) (s : State) : fuseSide (cancelChain slot s) = fuseSide s := by
  simp [cancelChain]

@[simp] theorem fuseSide_engfltWrite (slot : Fin 4) (val : W64) (s : State) : fuseSide (engfltWrite slot val s) = fuseSide s := by
  simp [engfltWrite]

@[simp] theorem fuseSide_flushChains (s : State) : fuseSide (flushChains s) = fuseSide s := by
  unfold flushChains
  refine fuseSide_foldl (fun s a => ?_) _ _
  (repeat' split) <;> simp

@[simp] theorem fuseSide_fenceChains (s : State) : fuseSide (fenceChains s) = fuseSide s := by
  unfold fenceChains
  refine fuseSide_foldl (fun s a => ?_) _ _
  (repeat' split) <;> simp

@[simp] theorem fuseSide_setChan (ch : Fin 64) (k : Chan) (s : State) : fuseSide (setChan ch k s) = fuseSide s := rfl

@[simp] theorem fuseSide_dmaSettle (ch : Fin 64) (s : State) : fuseSide (dmaSettle ch s) = fuseSide s := by
  unfold dmaSettle
  dsimp only
  (repeat' split) <;> simp

@[simp] theorem fuseSide_dmaFail (ch : Fin 64) (dir list : Bool) (pa : Nat) (code : BitVec 4) (s : State) : fuseSide (dmaFail ch dir list pa code s) = fuseSide s := by
  simp [dmaFail]

@[simp] theorem fuseSide_dmaLength (ch : Fin 64) (s : State) : fuseSide (dmaLength ch s) = fuseSide s := by
  unfold dmaLength
  dsimp only
  (repeat' split) <;> simp

@[simp] theorem fuseSide_dmaAfter (ch : Fin 64) (s : State) : fuseSide (dmaAfter ch s) = fuseSide s := by
  simp [dmaAfter]

@[simp] theorem fuseSide_dmaRun (ch : Fin 64) (k : Chan) (s : State) : fuseSide (dmaRun ch k s) = fuseSide s := by
  unfold dmaRun
  split <;> simp

@[simp] theorem fuseSide_dmaStartChan (ch : Fin 64) (s : State) : fuseSide (dmaStartChan ch s) = fuseSide s := by
  unfold dmaStartChan
  dsimp only
  (repeat' split) <;> simp

@[simp] theorem fuseSide_dmaRestartChan (ch : Fin 64) (s : State) : fuseSide (dmaRestartChan ch s) = fuseSide s := by
  simp [dmaRestartChan]

@[simp] theorem fuseSide_dmaCancelChan (ch : Fin 64) (s : State) : fuseSide (dmaCancelChan ch s) = fuseSide s := by
  unfold dmaCancelChan
  dsimp only
  (repeat' split) <;> simp

@[simp] theorem fuseSide_writeDmactl (who : Requester) (ch : Fin 64) (v : W64) (s : State) : fuseSide (writeDmactl who ch v s) = fuseSide s := by
  simp [writeDmactl]

@[simp] theorem fuseSide_dmaEntry (ch : Fin 64) (dst : Bool) (addr : Nat) (bs : List Byte) (s : State) : fuseSide (dmaEntry ch dst addr bs s) = fuseSide s := by
  simp [dmaEntry]

@[simp] theorem fuseSide_dmaReadDone (ch : Fin 64) (r : DRead) (bs : List Byte) (s : State) : fuseSide (dmaReadDone ch r bs s) = fuseSide s := by
  unfold dmaReadDone
  split <;> simp

@[simp] theorem fuseSide_dmaReadFailed (ch : Fin 64) (r : DRead) (code : BitVec 4) (s : State) : fuseSide (dmaReadFailed ch r code s) = fuseSide s := by
  simp [dmaReadFailed]

@[simp] theorem fuseSide_dmaReadSettle (ch : Fin 64) (r : DRead) (s : State) : fuseSide (dmaReadSettle ch r s) = fuseSide s := by
  simp [dmaReadSettle]

@[simp] theorem fuseSide_dmaIssueRead (ch : Fin 64) (kind : DReadKind) (addr len pos entry : Nat) (s : State) :
    fuseSide (dmaIssueRead ch kind addr len pos entry s) = fuseSide s := by
  unfold dmaIssueRead
  split
  · simp
  · simp
  · dsimp only
    rw [fuseSide_dmaReadSettle, fuseSide_present, fuseSide_setChan, fuseSide_foldl_snd]
    intro acc w
    split <;> simp

@[simp] theorem fuseSide_dmaAck (ch : Fin 64) (w : DWrite) (s : State) : fuseSide (dmaAck ch w s) = fuseSide s := by
  simp [dmaAck]

@[simp] theorem fuseSide_dmaWriteFailed (ch : Fin 64) (w : DWrite) (code : BitVec 4) (s : State) : fuseSide (dmaWriteFailed ch w code s) = fuseSide s := by
  simp [dmaWriteFailed]

@[simp] theorem fuseSide_dmaVisible (ch : Fin 64) (addr : Nat) (s : State) : fuseSide (dmaVisible ch addr s) = fuseSide s := by
  unfold dmaVisible
  split <;> simp

@[simp] theorem fuseSide_dmaIssueWrite (ch : Fin 64) (n : Nat) (s : State) : fuseSide (dmaIssueWrite ch n s) = fuseSide s := by
  unfold dmaIssueWrite
  dsimp only
  (repeat' split) <;> simp

@[simp] theorem fuseSide_dmaGrantChan (ch : Fin 64) (s : State) : fuseSide (dmaGrantChan ch s) = fuseSide s := by
  unfold dmaGrantChan
  dsimp only
  (repeat' split) <;> simp

theorem fuseSide_dmaGrant {s t : State} (h : dmaGrant s = some t) : fuseSide t = fuseSide s := by
  rw [dmaGrant, Option.map_eq_some_iff] at h
  obtain ⟨ch, -, rfl⟩ := h
  simp

theorem fuseSide_dmaReadResponse (ch : Fin 64) (tag : Nat) (code : RspCode) (data : Line) (s : State) {t : State} (h : dmaReadResponse ch tag code data s = some t) : fuseSide t = fuseSide s := by
  unfold dmaReadResponse at h
  (repeat' split at h) <;> cases h <;> simp

theorem fuseSide_dmaWriteResponse (ch : Fin 64) (tag : Nat) (code : RspCode) (s : State) {t : State} (h : dmaWriteResponse ch tag code s = some t) : fuseSide t = fuseSide s := by
  unfold dmaWriteResponse at h
  (repeat' split at h) <;> cases h <;> simp

@[simp] theorem fuseSide_answerDmaRead (ch : Fin 64) (tag i : Nat) (a : BankAnswer) (s : State) : fuseSide (answerDmaRead ch tag i a s) = fuseSide s := by
  unfold answerDmaRead
  dsimp only
  (repeat' split) <;> simp

@[simp] theorem fuseSide_answerDmaWrite (ch : Fin 64) (tag : Nat) (a : BankAnswer) (s : State) : fuseSide (answerDmaWrite ch tag a s) = fuseSide s := by
  unfold answerDmaWrite
  dsimp only
  (repeat' split) <;> simp

@[simp] theorem fuseSide_dmaFence (s : State) : fuseSide (dmaFence s) = fuseSide s := by
  unfold dmaFence
  dsimp only
  refine fuseSide_foldl (fun s a => ?_) _ _
  (repeat' split) <;> simp

@[simp] theorem fuseSide_dmaFlush (s : State) : fuseSide (dmaFlush s) = fuseSide s := by
  simp [dmaFlush]

@[simp] theorem fuseSide_dmaReset (s : State) : fuseSide (dmaReset s) = fuseSide s := by
  unfold dmaReset
  dsimp only
  rw [fuseSide_mk, fuseSide_eta, fuseSide_foldl (fun s ch => by simp)]
  rfl

@[simp] theorem fuseSide_writeChan (who : Requester) (ch : Fin 64) (off : Nat) (v : W64) (s : State) : fuseSide (writeChan who ch off v s) = fuseSide s := by
  unfold writeChan
  split <;> simp

end Sys2Proof.Proofs
end

section
/-! SUPPORT. What leaves the fuses, the test wrapper and the queue of commands alone: the troupe controller, resets of the parts, the debug
level, boots and authentication, power requests, and the panel. -/

namespace Sys2Proof.Proofs

open Sys2Proof.Machine Sys2Proof.Claims Sys2Proof.Laws


@[simp] theorem fuseSide_setRole (r : TileRole) (s : State) : fuseSide (setRole r s) = fuseSide s := rfl

@[simp] theorem fuseSide_owe (l : List Owed) (s : State) : fuseSide (owe l s) = fuseSide s := rfl

@[simp] theorem fuseSide_discardStores (c : CoreId) (s : State) : fuseSide (discardStores c s) = fuseSide s := by
  simp [discardStores]

@[simp] theorem fuseSide_dropClaim (s : State) : fuseSide (dropClaim s) = fuseSide s := by
  simp [dropClaim]

@[simp] theorem fuseSide_enterFenced (freason : BitVec 4) (relay : Bool) (s : State) : fuseSide (enterFenced freason relay s) = fuseSide s := by
  simp [enterFenced]

@[simp] theorem fuseSide_roleError (s : State) : fuseSide (roleError s) = fuseSide s := rfl

@[simp] theorem fuseSide_becomeManager (s : State) : fuseSide (becomeManager s) = fuseSide s := by
  simp [becomeManager]

@[simp] theorem fuseSide_reqManager (s : State) : fuseSide (reqManager s) = fuseSide s := by
  simp [reqManager]

@[simp] theorem fuseSide_reqSpare (s : State) : fuseSide (reqSpare s) = fuseSide s := by
  simp [reqSpare]

@[simp] theorem fuseSide_reqFenced (s : State) : fuseSide (reqFenced s) = fuseSide s := by
  simp [reqFenced]

@[simp] theorem fuseSide_writeTilerole (v : W64) (s : State) : fuseSide (writeTilerole v s) = fuseSide s := by
  unfold writeTilerole
  (repeat' split) <;> simp

@[simp] theorem fuseSide_ringReset (s : State) : fuseSide (ringReset s) = fuseSide s := rfl

@[simp] theorem fuseSide_roleReset (s : State) : fuseSide (roleReset s) = fuseSide s := by
  simp [roleReset]

@[simp] theorem fuseSide_setSlot (n : BitVec 7) (e : SlotEnt) (s : State) : fuseSide (setSlot n e s) = fuseSide s := rfl

@[simp] theorem fuseSide_countBad (s : State) : fuseSide (countBad s) = fuseSide s := rfl

@[simp] theorem fuseSide_countStale (s : State) : fuseSide (countStale s) = fuseSide s := rfl

@[simp] theorem fuseSide_replyFenced (m : Msg) (s : State) : fuseSide (replyFenced m s) = fuseSide s := by
  simp [replyFenced]

theorem fuseSide_receive (m : Msg) {handle : State → State} (same : ∀ s, fuseSide (handle s) = fuseSide s) (s : State) :
    fuseSide (receive m handle s) = fuseSide s := by
  unfold receive
  split
  · rfl
  · split <;> simp [same]

@[simp] theorem fuseSide_queueMsg (m : Msg) (s : State) : fuseSide (queueMsg m s) = fuseSide s := by
  simp [queueMsg]

@[simp] theorem fuseSide_recordRound (n : BitVec 16) (s : State) : fuseSide (recordRound n s) = fuseSide s := rfl

@[simp] theorem fuseSide_renewLease (n : BitVec 16) (s : State) : fuseSide (renewLease n s) = fuseSide s := by
  unfold renewLease
  split <;> simp

@[simp] theorem fuseSide_startRound (s : State) : fuseSide (startRound s) = fuseSide s := by
  simp [startRound]

@[simp] theorem fuseSide_sendHback (round : BitVec 16) (s : State) : fuseSide (sendHback round s) = fuseSide s := by
  simp [sendHback]

@[simp] theorem fuseSide_takeHeartbeat (m : Msg) (s : State) : fuseSide (takeHeartbeat m s) = fuseSide s := by
  unfold takeHeartbeat
  split <;> simp

@[simp] theorem fuseSide_onHeartbeat (m : Msg) (s : State) : fuseSide (onHeartbeat m s) = fuseSide s := by
  simp [onHeartbeat]

@[simp] theorem fuseSide_slotDies (slot : BitVec 7) (s : State) : fuseSide (slotDies slot s) = fuseSide s := by
  simp [slotDies]

@[simp] theorem fuseSide_deadFirst (slot : BitVec 7) (s : State) : fuseSide (deadFirst slot s) = fuseSide s := by
  simp [deadFirst]

@[simp] theorem fuseSide_onHback (m : Msg) (s : State) : fuseSide (onHback m s) = fuseSide s := rfl

@[simp] theorem fuseSide_onDephb (m : Msg) (s : State) : fuseSide (onDephb m s) = fuseSide s := by
  simp [onDephb]

@[simp] theorem fuseSide_takeSlot (m : Msg) (s : State) : fuseSide (takeSlot m s) = fuseSide s := by
  simp [takeSlot]

@[simp] theorem fuseSide_onAdmit (m : Msg) (s : State) : fuseSide (onAdmit m s) = fuseSide s := by
  simp [onAdmit]

@[simp] theorem fuseSide_setBusy (b : SlBusy) (r : BitVec 3) (s : State) : fuseSide (setBusy b r s) = fuseSide s := rfl

@[simp] theorem fuseSide_onAdmitack (m : Msg) (s : State) : fuseSide (onAdmitack m s) = fuseSide s := by
  unfold onAdmitack
  dsimp only
  (repeat' split) <;> simp

theorem fuseSide_lateFirst {timedOut : State → State} (same : ∀ s, fuseSide (timedOut s) = fuseSide s) (s : State) :
    fuseSide (lateFirst timedOut s) = fuseSide s := by
  rw [lateFirst, fuseSide_ite, same, ite_self]

@[simp] theorem fuseSide_admitTimedOut (slot : BitVec 7) (s : State) : fuseSide (admitTimedOut slot s) = fuseSide s := by
  simp [admitTimedOut]

@[simp] theorem fuseSide_onAppoint (m : Msg) (s : State) : fuseSide (onAppoint m s) = fuseSide s := by
  simp [onAppoint]

@[simp] theorem fuseSide_onAppointack (_m : Msg) (s : State) : fuseSide (onAppointack _m s) = fuseSide s := by
  unfold onAppointack
  split <;> simp

@[simp] theorem fuseSide_onRelease (m : Msg) (s : State) : fuseSide (onRelease m s) = fuseSide s := by
  simp [onRelease]

@[simp] theorem fuseSide_becomeSpare (s : State) : fuseSide (becomeSpare s) = fuseSide s := by
  simp [becomeSpare]

@[simp] theorem fuseSide_releaseDone (s : State) : fuseSide (releaseDone s) = fuseSide s := by
  simp [releaseDone]

theorem fuseSide_partDone {whole : State → State} (same : ∀ s, fuseSide (whole s) = fuseSide s) (s : State) :
    fuseSide (partDone whole s) = fuseSide s := by
  simp [partDone, same]

@[simp] theorem fuseSide_onReleased (m : Msg) (s : State) : fuseSide (onReleased m s) = fuseSide s := by
  simp [onReleased]

@[simp] theorem fuseSide_onProbe (m : Msg) (s : State) : fuseSide (onProbe m s) = fuseSide s := by
  simp [onProbe]

@[simp] theorem fuseSide_onGrpmirror (m : Msg) (s : State) : fuseSide (onGrpmirror m s) = fuseSide s := by
  simp [onGrpmirror]

@[simp] theorem fuseSide_onGrpack (m : Msg) (s : State) : fuseSide (onGrpack m s) = fuseSide s := by
  unfold onGrpack
  split <;> simp

@[simp] theorem fuseSide_slProbe (node : BitVec 8) (slot : BitVec 7) (s : State) : fuseSide (slProbe node slot s) = fuseSide s := by
  simp [slProbe]

@[simp] theorem fuseSide_slAdmit (node : BitVec 8) (slot : BitVec 7) (s : State) : fuseSide (slAdmit node slot s) = fuseSide s := by
  simp [slAdmit]

@[simp] theorem fuseSide_slAppoint (node : BitVec 8) (s : State) : fuseSide (slAppoint node s) = fuseSide s := by
  simp [slAppoint]

@[simp] theorem fuseSide_slRelease (slot : BitVec 7) (s : State) : fuseSide (slRelease slot s) = fuseSide s := by
  simp [slRelease]

@[simp] theorem fuseSide_slFence (node : BitVec 8) (slot : BitVec 7) (s : State) : fuseSide (slFence node slot s) = fuseSide s := by
  simp [slFence]

@[simp] theorem fuseSide_slcmd (kind : Nat) (node : BitVec 8) (slot : BitVec 7) (s : State) : fuseSide (slcmd kind node slot s) = fuseSide s := by
  unfold slcmd
  (repeat' split) <;> simp

@[simp] theorem fuseSide_writeSlcmd (v : W64) (s : State) : fuseSide (writeSlcmd v s) = fuseSide s := by
  simp [writeSlcmd]

@[simp] theorem fuseSide_managerClaims (s : State) : fuseSide (managerClaims s) = fuseSide s := by
  simp [managerClaims]

@[simp] theorem fuseSide_managerAnswered (code : RspCode) (old : W64) (s : State) : fuseSide (managerAnswered code old s) = fuseSide s := by
  simp [managerAnswered]

@[simp] theorem fuseSide_deputyClaims (s : State) : fuseSide (deputyClaims s) = fuseSide s := rfl

@[simp] theorem fuseSide_takeOver (s : State) : fuseSide (takeOver s) = fuseSide s := by
  simp [takeOver]

@[simp] theorem fuseSide_deputyAnswered (code : RspCode) (old : W64) (s : State) : fuseSide (deputyAnswered code old s) = fuseSide s := by
  simp [deputyAnswered]

@[simp] theorem fuseSide_sltxGo (s : State) : fuseSide (sltxGo s) = fuseSide s := by
  unfold sltxGo
  split <;> simp

@[simp] theorem fuseSide_writeSltxctl (v : W64) (s : State) : fuseSide (writeSltxctl v s) = fuseSide s := by
  simp [writeSltxctl]

@[simp] theorem fuseSide_writeSlrxctl (v : W64) (s : State) : fuseSide (writeSlrxctl v s) = fuseSide s := rfl

@[simp] theorem fuseSide_fuseRequest (s : State) : fuseSide (fuseRequest s) = fuseSide s := by
  unfold fuseRequest
  (repeat' split) <;> simp

@[simp] theorem fuseSide_fuseFail (e : BitVec 4) (s : State) : fuseSide (fuseFail e s) = fuseSide s := rfl

theorem fuseSide_branch {p : Prop} [Decidable p] {s t u : State} (yes : fuseSide s = fuseSide u) (no : fuseSide t = fuseSide u) :
    fuseSide (if p then s else t) = fuseSide u := by rw [fuseSide_ite, yes, no, ite_self]

@[simp] theorem fuseSide_fuseFinish (p : Partner) (s : State) : fuseSide (fuseFinish p s) = fuseSide s := by
  unfold fuseFinish
  dsimp only
  iterate 6 refine fuseSide_branch rfl ?_
  rw [fuseSide_arrive, fuseSide_ite, fuseSide_sendPair, ite_self]
  exact fuseSide_branch rfl rfl

@[simp] theorem fuseSide_unfuse (s : State) : fuseSide (unfuse s) = fuseSide s := by
  simp [unfuse]

@[simp] theorem fuseSide_unfuseRequest (partnerIdle : Bool) (s : State) : fuseSide (unfuseRequest partnerIdle s) = fuseSide s := by
  simp [unfuseRequest]

@[simp] theorem fuseSide_writePairctl (v : W64) (partnerIdle : Bool) (s : State) : fuseSide (writePairctl v partnerIdle s) = fuseSide s := by
  simp [writePairctl]

@[simp] theorem fuseSide_pairPresent (q : PairReq) (s : State) : fuseSide (pairPresent q s) = fuseSide s := by
  unfold pairPresent
  (repeat' split) <;> simp

@[simp] theorem fuseSide_answerPair (tag : BitVec 32) (a : BankAnswer) (s : State) : fuseSide (answerPair tag a s) = fuseSide s := rfl

@[simp] theorem fuseSide_writeTroupecfg (v : W64) (s : State) : fuseSide (writeTroupecfg v s) = fuseSide s := rfl

@[simp] theorem fuseSide_writeSlottab (n : BitVec 7) (v : W64) (s : State) : fuseSide (writeSlottab n v s) = fuseSide s := rfl

@[simp] theorem fuseSide_setRst (r : ResetClk) (s : State) : fuseSide (setRst r s) = fuseSide s := rfl

@[simp] theorem fuseSide_setCal (c : Calib) (s : State) : fuseSide (setCal c s) = fuseSide s := rfl

@[simp] theorem fuseSide_traceHalt (c : CoreId) (cause : Nat) (dpc : BitVec 48) (s : State) : fuseSide (traceHalt c cause dpc s) = fuseSide s := by
  simp [traceHalt]

@[simp] theorem fuseSide_startCore (c : CoreId) (s : State) : fuseSide (startCore c s) = fuseSide s := by
  simp [startCore]

@[simp] theorem fuseSide_startCores (s : State) : fuseSide (startCores s) = fuseSide s := by
  simp [startCores]

@[simp] theorem fuseSide_settleWrite (r : BankReq) (s : State) : fuseSide (settleWrite r s) = fuseSide s := by
  unfold settleWrite
  dsimp only
  (repeat' split) <;> simp

@[simp] theorem fuseSide_withdraw (mine : ReqDest → Bool) (s : State) : fuseSide (withdraw mine s) = fuseSide s := by
  simp [withdraw]

@[simp] theorem fuseSide_settleStore (c : CoreId) (e : SbEntry) (s : State) : fuseSide (settleStore c e s) = fuseSide s := by
  unfold settleStore
  (repeat' split) <;> simp

@[simp] theorem fuseSide_orphanEntries (c : CoreId) (s : State) : fuseSide (orphanEntries c s) = fuseSide s := rfl

@[simp] theorem fuseSide_clearCore (c : CoreId) (s : State) : fuseSide (clearCore c s) = fuseSide s := by
  simp [clearCore]

@[simp] theorem fuseSide_coreResetOne (c : CoreId) (s : State) : fuseSide (coreResetOne c s) = fuseSide s := by
  simp [coreResetOne]

@[simp] theorem fuseSide_writeRun (run : BitVec 4) (s : State) : fuseSide (writeRun run s) = fuseSide s := by
  simp [writeRun]

@[simp] theorem fuseSide_abandonChains (s : State) : fuseSide (abandonChains s) = fuseSide s := by
  simp [abandonChains]

@[simp] theorem fuseSide_vsWarm (s : State) : fuseSide (vsWarm s) = fuseSide s := rfl

@[simp] theorem fuseSide_roleWarm (s : State) : fuseSide (roleWarm s) = fuseSide s := by
  unfold roleWarm
  split <;> simp

@[simp] theorem fuseSide_warmRole (relay : Bool) (s : State) : fuseSide (warmRole relay s) = fuseSide s := by
  simp [warmRole]

@[simp] theorem fuseSide_warmStrike (s : State) : fuseSide (warmStrike s) = fuseSide s := by
  simp [warmStrike]

@[simp] theorem fuseSide_wipeNow (s : State) : fuseSide (wipeNow s) = fuseSide s := by
  simp [wipeNow]

@[simp] theorem fuseSide_freshChallenge (s : State) : fuseSide (freshChallenge s) = fuseSide s := rfl

@[simp] theorem fuseSide_sampleParams (t : TieOffs) (s : State) : fuseSide (sampleParams t s) = fuseSide s := rfl

@[simp] theorem fuseSide_coldRelease (t : TieOffs) (s : State) : fuseSide (coldRelease t s) = fuseSide s := by
  simp [coldRelease]

@[simp] theorem fuseSide_clockLoss (c : Clock) (s : State) : fuseSide (clockLoss c s) = fuseSide s := by
  simp [clockLoss]

@[simp] theorem fuseSide_clockBack (c : Clock) (s : State) : fuseSide (clockBack c s) = fuseSide s := rfl

@[simp] theorem fuseSide_requestPass (s : State) : fuseSide (requestPass s) = fuseSide s := by
  simp [requestPass]

@[simp] theorem fuseSide_takeTemp (temp : BitVec 12) (s : State) : fuseSide (takeTemp temp s) = fuseSide s := by
  simp [takeTemp]

@[simp] theorem fuseSide_passStart (s : State) : fuseSide (passStart s) = fuseSide s := rfl

@[simp] theorem fuseSide_passEnd (s : State) : fuseSide (passEnd s) = fuseSide s := by
  simp [passEnd]

@[simp] theorem fuseSide_retrainBegin (l : Link) (s : State) : fuseSide (retrainBegin l s) = fuseSide s := by
  simp [retrainBegin]

@[simp] theorem fuseSide_passFail (s : State) : fuseSide (passFail s) = fuseSide s := by
  simp [passFail]

@[simp] theorem fuseSide_marginLow (l : Link) (s : State) : fuseSide (marginLow l s) = fuseSide s := by
  simp [marginLow]

@[simp] theorem fuseSide_retrainEnd (l : Link) (s : State) : fuseSide (retrainEnd l s) = fuseSide s := by
  simp [retrainEnd]

@[simp] theorem fuseSide_writeCalctl (v : W64) (s : State) : fuseSide (writeCalctl v s) = fuseSide s := by
  simp [writeCalctl]

@[simp] theorem fuseSide_withDbg (c : CoreId) (f : CoreDbg → CoreDbg) (s : State) : fuseSide (withDbg c f s) = fuseSide s := rfl

@[simp] theorem fuseSide_thawed (before s : State) : fuseSide (thawed before s) = fuseSide s := by
  simp [thawed]

@[simp] theorem fuseSide_haltCore (c : CoreId) (cause : Nat) (s : State) : fuseSide (haltCore c cause s) = fuseSide s := by
  simp [haltCore]

@[simp] theorem fuseSide_resumeCore (c : CoreId) (s : State) : fuseSide (resumeCore c s) = fuseSide s := by
  simp [resumeCore]

@[simp] theorem fuseSide_setLevel (l : BitVec 2) (byRma : Bool) (s : State) : fuseSide (setLevel l byRma s) = fuseSide s := by
  simp [setLevel]

@[simp] theorem fuseSide_debugReset (s : State) : fuseSide (debugReset s) = fuseSide s := by
  unfold debugReset
  dsimp only
  rw [fuseSide_foldl (fun s c => fuseSide_withDbg c _ s)]
  split <;> exact fuseSide_setLevel _ _ _

@[simp] theorem fuseSide_setBoot (b : Boot) (s : State) : fuseSide (setBoot b s) = fuseSide s := rfl

@[simp] theorem fuseSide_setAuth (a : DbgAuth) (s : State) : fuseSide (setAuth a s) = fuseSide s := rfl

@[simp] theorem fuseSide_bootFail (cause : Nat) (s : State) : fuseSide (bootFail cause s) = fuseSide s := by
  simp [bootFail]

@[simp] theorem fuseSide_bootWiped (s : State) : fuseSide (bootWiped s) = fuseSide s := by
  simp [bootWiped]

@[simp] theorem fuseSide_wipeTrip (s : State) : fuseSide (wipeTrip s) = fuseSide s := by
  simp [wipeTrip]

@[simp] theorem fuseSide_wipeTripPair (s : State) : fuseSide (wipeTripPair s) = fuseSide s := by
  simp [wipeTripPair]

@[simp] theorem fuseSide_bootStart (port : Bool) (addr : BitVec 45) (s : State) : fuseSide (bootStart port addr s) = fuseSide s := by
  unfold bootStart
  dsimp only
  (repeat' split) <;> simp

@[simp] theorem fuseSide_writeBootctl (v : W64) (s : State) : fuseSide (writeBootctl v s) = fuseSide s := by
  simp [writeBootctl]

@[simp] theorem fuseSide_bootCopy (s : State) : fuseSide (bootCopy s) = fuseSide s := by
  simp [bootCopy]

@[simp] theorem fuseSide_bootWatch (s : State) : fuseSide (bootWatch s) = fuseSide s := by
  simp [bootWatch]

@[simp] theorem fuseSide_bootHeader (code : RspCode) (h : List Byte) (s : State) : fuseSide (bootHeader code h s) = fuseSide s := by
  unfold bootHeader
  dsimp only
  (repeat' split) <;> simp

@[simp] theorem fuseSide_bootPass (s : State) : fuseSide (bootPass s) = fuseSide s := by
  simp [bootPass]

@[simp] theorem fuseSide_bootVerified (s : State) : fuseSide (bootVerified s) = fuseSide s := by
  simp [bootVerified]

@[simp] theorem fuseSide_bootAgain (s : State) : fuseSide (bootAgain s) = fuseSide s := by
  unfold bootAgain
  split <;> simp

@[simp] theorem fuseSide_authRefuse (s : State) : fuseSide (authRefuse s) = fuseSide s := rfl

@[simp] theorem fuseSide_authGrant (l : BitVec 2) (byRma : Bool) (s : State) : fuseSide (authGrant l byRma s) = fuseSide s := by
  simp [authGrant]

@[simp] theorem fuseSide_authGo (req : BitVec 2) (s : State) : fuseSide (authGo req s) = fuseSide s := by
  simp [authGo]

@[simp] theorem fuseSide_writeDbgauth (who : Requester) (v : W64) (s : State) : fuseSide (writeDbgauth who v s) = fuseSide s := by
  simp [writeDbgauth]

@[simp] theorem fuseSide_authDone (r : AuthRun) (s : State) : fuseSide (authDone r s) = fuseSide s := by
  simp [authDone]

@[simp] theorem fuseSide_tamperLevel (s : State) : fuseSide (tamperLevel s) = fuseSide s := by
  simp [tamperLevel]

@[simp] theorem fuseSide_writeDbgresp (who : Requester) (i : Nat) (v : W64) (s : State) : fuseSide (writeDbgresp who i v s) = fuseSide s := by
  simp [writeDbgresp]

@[simp] theorem fuseSide_setPwr (p : Power) (s : State) : fuseSide (setPwr p s) = fuseSide s := rfl

@[simp] theorem fuseSide_driveReq (target : BitVec 3) (up : Bool) (s : State) : fuseSide (driveReq target up s) = fuseSide s := rfl

@[simp] theorem fuseSide_dozeCaches (s : State) : fuseSide (dozeCaches s) = fuseSide s := by
  simp [dozeCaches]

@[simp] theorem fuseSide_dozeRetrain (s : State) : fuseSide (dozeRetrain s) = fuseSide s := by
  simp [dozeRetrain]

@[simp] theorem fuseSide_deliverHeld (s : State) : fuseSide (deliverHeld s) = fuseSide s := by
  simp [deliverHeld]

@[simp] theorem fuseSide_wakeUp (s : State) : fuseSide (wakeUp s) = fuseSide s := rfl

@[simp] theorem fuseSide_wakeBoth (s : State) : fuseSide (wakeBoth s) = fuseSide s := by
  simp [wakeBoth]

@[simp] theorem fuseSide_startTransition (s : State) : fuseSide (startTransition s) = fuseSide s := by
  simp [startTransition]

@[simp] theorem fuseSide_flushBegin (presence : Bool) (s : State) : fuseSide (flushBegin presence s) = fuseSide s := by
  simp [flushBegin]

@[simp] theorem fuseSide_flushTrip (presence : Bool) (s : State) : fuseSide (flushTrip presence s) = fuseSide s := by
  simp [flushTrip]

@[simp] theorem fuseSide_flushAfter (s : State) : fuseSide (flushAfter s) = fuseSide s := by
  unfold flushAfter
  split <;> simp

@[simp] theorem fuseSide_flushStep4 (done : Bool) (f : Flush) (s : State) : fuseSide (flushStep4 done f s) = fuseSide s := by
  simp [flushStep4]

@[simp] theorem fuseSide_pwrRequest (r : BitVec 3) (relay : Bool) (s : State) : fuseSide (pwrRequest r relay s) = fuseSide s := by
  simp [pwrRequest]

@[simp] theorem fuseSide_flushDone (s : State) : fuseSide (flushDone s) = fuseSide s := by
  unfold flushDone
  split <;> simp

@[simp] theorem fuseSide_writePwrctl (v : W64) (s : State) : fuseSide (writePwrctl v s) = fuseSide s := by
  simp [writePwrctl]

@[simp] theorem fuseSide_writePwrstat (v : W64) (s : State) : fuseSide (writePwrstat v s) = fuseSide s := rfl

@[simp] theorem fuseSide_vbusSample (v : BitVec 12) (s : State) : fuseSide (vbusSample v s) = fuseSide s := by
  simp [vbusSample]

@[simp] theorem fuseSide_writeSupvcfg (v : W64) (s : State) : fuseSide (writeSupvcfg v s) = fuseSide s := rfl

@[simp] theorem fuseSide_writeSupvstat (v : W64) (s : State) : fuseSide (writeSupvstat v s) = fuseSide s := rfl

@[simp] theorem fuseSide_writeFlushcfg (v : W64) (s : State) : fuseSide (writeFlushcfg v s) = fuseSide s := rfl

@[simp] theorem fuseSide_setPanel (p : Panel) (s : State) : fuseSide (setPanel p s) = fuseSide s := rfl

@[simp] theorem fuseSide_press (s : State) : fuseSide (press s) = fuseSide s := by
  simp [press]

@[simp] theorem fuseSide_cancelEvac (s : State) : fuseSide (cancelEvac s) = fuseSide s := rfl

theorem fuseSide_evacStep (s : State) {t : State} (h : evacStep s = some t) : fuseSide t = fuseSide s := by
  unfold evacStep at h
  (repeat' split at h) <;> cases h <;> simp

@[simp] theorem fuseSide_evacTimeout (s : State) : fuseSide (evacTimeout s) = fuseSide s := by
  simp [evacTimeout]

@[simp] theorem fuseSide_presenceLost (s : State) : fuseSide (presenceLost s) = fuseSide s := by
  simp [presenceLost]

@[simp] theorem fuseSide_presenceGained (s : State) : fuseSide (presenceGained s) = fuseSide s := by
  simp [presenceGained]

@[simp] theorem fuseSide_tamperTrip (s : State) : fuseSide (tamperTrip s) = fuseSide s := by
  simp [tamperTrip]

@[simp] theorem fuseSide_wdTick (s : State) : fuseSide (wdTick s) = fuseSide s := rfl

@[simp] theorem fuseSide_coreWdWarn (c : CoreId) (s : State) : fuseSide (coreWdWarn c s) = fuseSide s := by
  simp [coreWdWarn]

@[simp] theorem fuseSide_tileWdWarn (s : State) : fuseSide (tileWdWarn s) = fuseSide s := by
  simp [tileWdWarn]

@[simp] theorem fuseSide_coreWdExpire (c : CoreId) (s : State) : fuseSide (coreWdExpire c s) = fuseSide s := by
  simp [coreWdExpire]

@[simp] theorem fuseSide_writePnlcfg (v : W64) (s : State) : fuseSide (writePnlcfg v s) = fuseSide s := rfl

@[simp] theorem fuseSide_writePnlstat (v : W64) (s : State) : fuseSide (writePnlstat v s) = fuseSide s := rfl

@[simp] theorem fuseSide_writePnlctl (v : W64) (s : State) : fuseSide (writePnlctl v s) = fuseSide s := by
  simp [writePnlctl]

end Sys2Proof.Proofs
end

section
/-! SUPPORT. What leaves the fuses, the test wrapper and the queue of commands alone: registers of the set-up window, and parcels. -/

namespace Sys2Proof.Proofs

open Sys2Proof.Machine Sys2Proof.Claims Sys2Proof.Laws

/-- The state in which a part of a parcel ends, however it ends. -/
def stateOf {α : Type} (o : Out α) : State :=
  match o with
  | .ok _ s => s
  | .exc _ s => s
  | .hold _ s => s

@[simp] theorem stateOf_ok {α : Type} (a : α) (s : State) : stateOf (.ok a s) = s := rfl
@[simp] theorem stateOf_exc {α : Type} (e : Exc) (s : State) : stateOf (.exc e s : Out α) = s := rfl
@[simp] theorem stateOf_hold {α : Type} (w : HoldFor) (s : State) : stateOf (.hold w s : Out α) = s := rfl

@[simp] theorem stateOf_ite {α : Type} (p : Prop) [Decidable p] (o q : Out α) :
    stateOf (if p then o else q) = if p then stateOf o else stateOf q := apply_ite stateOf p o q

/-- Two parts of a parcel in turn leave what each leaves. -/
theorem fuseSide_next {α β : Type} {f : α → State → Out β} {o : Out α} {s : State} (first : fuseSide (stateOf o) = fuseSide s)
    (second : ∀ a t, fuseSide (stateOf (f a t)) = fuseSide t) : fuseSide (stateOf (o.next f)) = fuseSide s := by
  cases o with
  | ok a t => exact (second a t).trans first
  | exc e t => exact first
  | hold w t => exact first


@[simp] theorem fuseSide_setVt (t : Vterm) (s : State) : fuseSide (setVt t s) = fuseSide s := rfl

@[simp] theorem fuseSide_writeVtout (v : W64) (s : State) : fuseSide (writeVtout v s) = fuseSide s := by
  simp [writeVtout]

@[simp] theorem fuseSide_consumeVtin (s : State) : fuseSide (consumeVtin s) = fuseSide s := rfl

@[simp] theorem fuseSide_writeVsrepair (v : W64) (s : State) : fuseSide (writeVsrepair v s) = fuseSide s := by
  simp [writeVsrepair]

@[simp] theorem fuseSide_writeVs (off : Nat) (v : W64) (s : State) : fuseSide (writeVs off v s) = fuseSide s := by
  unfold writeVs
  split <;> simp

@[simp] theorem fuseSide_writeEngflt (slot : Fin 4) (v : W64) (s : State) : fuseSide (writeEngflt slot v s) = fuseSide s := by
  simp [writeEngflt]

@[simp] theorem fuseSide_writeEng (off : Nat) (v : W64) (s : State) : fuseSide (writeEng off v s) = fuseSide s := by
  unfold writeEng
  (repeat' split) <;> simp

@[simp] theorem fuseSide_writeEvsrc (n : Nat) (v : W64) (s : State) : fuseSide (writeEvsrc n v s) = fuseSide s := by
  simp [writeEvsrc]

theorem fuseSide_evc (q : Quad EvCore) (s : State) : fuseSide { s with evc := q } = fuseSide s := rfl

@[simp] theorem fuseSide_writeEv (off : Nat) (v : W64) (s : State) : fuseSide (writeEv off v s) = fuseSide s := by
  unfold writeEv
  rw [fuseSide_ite, fuseSide_ite, fuseSide_writeEvsrc]
  dsimp only
  generalize off % 0x20 = r
  split
  · rfl
  · split
    · split
      · exact fuseSide_evc _ _
      · exact fuseSide_evc _ _
      · rfl
    · rfl

@[simp] theorem fuseSide_writeRings (off : Nat) (v : W64) (s : State) : fuseSide (writeRings off v s) = fuseSide s := by
  unfold writeRings
  split <;> simp

@[simp] theorem fuseSide_writeCore (c : CoreId) (off : Nat) (v : W64) (s : State) : fuseSide (writeCore c off v s) = fuseSide s := by
  unfold writeCore
  (repeat' split) <;> simp

@[simp] theorem fuseSide_writeBootvec (c : CoreId) (v : W64) (s : State) : fuseSide (writeBootvec c v s) = fuseSide s := rfl

@[simp] theorem fuseSide_writeSlstat (v : W64) (s : State) : fuseSide (writeSlstat v s) = fuseSide s := rfl

@[simp] theorem fuseSide_writeTroupe (off : Nat) (v : W64) (s : State) : fuseSide (writeTroupe off v s) = fuseSide s := by
  unfold writeTroupe
  (repeat' split) <;> simp

@[simp] theorem fuseSide_writeLink (off : Nat) (v : W64) (idle : Bool) (s : State) : fuseSide (writeLink off v idle s) = fuseSide s := by
  unfold writeLink
  (repeat' split) <;> simp

@[simp] theorem fuseSide_writeCoreWd (c : CoreId) (v : W64) (s : State) : fuseSide (writeCoreWd c v s) = fuseSide s := rfl

@[simp] theorem fuseSide_writeTileWd (v : W64) (s : State) : fuseSide (writeTileWd v s) = fuseSide s := rfl

@[simp] theorem fuseSide_writePanel (off : Nat) (v : W64) (s : State) : fuseSide (writePanel off v s) = fuseSide s := by
  unfold writePanel
  (repeat' split) <;> simp

@[simp] theorem fuseSide_consumeReg (off : Nat) (s : State) : fuseSide (consumeReg off s) = fuseSide s := by
  simp [consumeReg]

@[simp] theorem fuseSide_answerWindow (who : Requester) (code : RspCode) (data : W64) (s : State) : fuseSide (answerWindow who code data s) = fuseSide s := by
  unfold answerWindow
  split <;> simp

@[simp] theorem fuseSide_windowRead (who : Requester) (off : Nat) (peek : Bool) (s : State) : fuseSide (windowRead who off peek s).2.2 = fuseSide s := by
  unfold windowRead
  (repeat' split) <;> simp

@[simp] theorem fuseSide_setupRead (who : Requester) (off : Nat) (s : State) : fuseSide (setupRead who off s) = fuseSide s := by
  simp [setupRead]

@[simp] theorem fuseSide_raiseSpill (c : CoreId) (ret : Bool) (e : SpillErr) (s : State) : fuseSide (stateOf (raiseSpill c ret e s)) = fuseSide s := rfl

@[simp] theorem fuseSide_awaitCell (c : CoreId) (ret : Bool) (b : Bank) (s : State) : fuseSide (stateOf (awaitCell c ret b s)) = fuseSide s := by
  unfold awaitCell
  split <;> simp

@[simp] theorem fuseSide_needCells (c : CoreId) (n r : Nat) (fr : Fr) (s : State) : fuseSide (stateOf (needCells c n r fr s)) = fuseSide s := by
  unfold needCells
  (repeat' split) <;> simp

@[simp] theorem fuseSide_needSpills (c : CoreId) (ret : Bool) (n : Nat) (s : State) : fuseSide (stateOf (needSpills c ret n s)) = fuseSide s := by
  unfold needSpills
  dsimp only
  (repeat' split) <;> simp

@[simp] theorem fuseSide_needRoom (c : CoreId) (before after : Bank) (s : State) : fuseSide (stateOf (needRoom c before after s)) = fuseSide s := by
  simp [needRoom]

@[simp] theorem fuseSide_noteGot (c : CoreId) (g : List Got) (s : State) : fuseSide (noteGot c g s) = fuseSide s := rfl

@[simp] theorem fuseSide_awaitWalk (c : CoreId) (root : BitVec 40) (tag : BitVec 16) (pl lin : Nat) (need : XNeed) (split : Bool) (s : State) : fuseSide (stateOf (awaitWalk c root tag pl lin need split s)) = fuseSide s := by
  unfold awaitWalk
  dsimp only
  (repeat' split) <;> simp

@[simp] theorem fuseSide_coreXlate (c : CoreId) (pl lin : Nat) (need : XNeed) (split : Bool) (s : State) : fuseSide (stateOf (coreXlate c pl lin need split s)) = fuseSide s := by
  unfold coreXlate
  dsimp only
  (repeat' split) <;> simp

@[simp] theorem fuseSide_dataXlate (c : CoreId) (pl lin : Nat) (need : XNeed) (locked split : Bool) (s : State) :
    fuseSide (stateOf (dataXlate c pl lin need locked split s)) = fuseSide s := by
  refine fuseSide_next (fuseSide_coreXlate _ _ _ _ _ _) (fun _ _ => ?_)
  rw [stateOf_ite, stateOf_exc, stateOf_ok, ite_self]

@[simp] theorem fuseSide_requestLine (c : CoreId) (line : Nat) (fetch keep : Bool) (s : State) : fuseSide (requestLine c line fetch keep s) = fuseSide s := by
  simp [requestLine]

@[simp] theorem fuseSide_readWordPa (c : CoreId) (pl pa : Nat) (full split lock : Bool) (s : State) : fuseSide (stateOf (readWordPa c pl pa full split lock s)) = fuseSide s := by
  unfold readWordPa
  dsimp only
  (repeat' split) <;> simp

@[simp] theorem fuseSide_readBytes (c : CoreId) (pl pa n : Nat) (full split lock : Bool) (s : State) :
    fuseSide (stateOf (readBytes c pl pa n full split lock s)) = fuseSide s := by
  unfold readBytes
  dsimp only
  split
  · rfl
  · split
    · rfl
    · exact fuseSide_next (fuseSide_readWordPa _ _ _ _ _ _ _) (fun _ _ => rfl)

@[simp] theorem fuseSide_loadPieces (c : CoreId) (sel : Nat) (addr : W64) (n : Nat) (need : XNeed) (locked : Bool) (s : State) :
    fuseSide (stateOf (loadPieces c sel addr n need locked s)) = fuseSide s := by
  unfold loadPieces
  dsimp only
  split
  · rfl
  · split
    · exact fuseSide_next (fuseSide_dataXlate _ _ _ _ _ _ _) (fun _ _ => rfl)
    · exact fuseSide_next (fuseSide_dataXlate _ _ _ _ _ _ _) (fun _ _ => fuseSide_next (fuseSide_dataXlate _ _ _ _ _ _ _) (fun _ _ => rfl))

@[simp] theorem fuseSide_readPieces (c : CoreId) (n : Nat) (ps : List (Nat × Nat)) (s : State) :
    fuseSide (stateOf (readPieces c n ps s)) = fuseSide s := by
  unfold readPieces
  dsimp only
  split
  · rfl
  · split
    · exact fuseSide_next (fuseSide_readBytes _ _ _ _ _ _ _ _) (fun _ _ => rfl)
    · exact fuseSide_next (fuseSide_readBytes _ _ _ _ _ _ _ _)
        (fun _ _ => fuseSide_next (fuseSide_readBytes _ _ _ _ _ _ _ _) (fun _ _ => rfl))
    · rfl

@[simp] theorem fuseSide_loadBytes (c : CoreId) (sel : Nat) (addr : W64) (n : Nat) (need : XNeed) (locked : Bool) (s : State) :
    fuseSide (stateOf (loadBytes c sel addr n need locked s)) = fuseSide s :=
  fuseSide_next (fuseSide_loadPieces _ _ _ _ _ _ _) (fun _ _ => fuseSide_readPieces _ _ _ _)

@[simp] theorem fuseSide_storeBytes (c : CoreId) (sel : Nat) (addr : W64) (n : Nat) (v : W64) (s : State) :
    fuseSide (stateOf (storeBytes c sel addr n v s)) = fuseSide s := by
  unfold storeBytes
  dsimp only
  split
  · rfl
  · split
    · exact fuseSide_next (fuseSide_dataXlate _ _ _ _ _ _ _) (fun _ _ => rfl)
    · exact fuseSide_next (fuseSide_dataXlate _ _ _ _ _ _ _) (fun _ _ => fuseSide_next (fuseSide_dataXlate _ _ _ _ _ _ _) (fun _ _ => rfl))

@[simp] theorem fuseSide_startDrain (c : CoreId) (n : Nat) (s : State) : fuseSide (startDrain c n s) = fuseSide s := by
  induction n generalizing s with
  | zero => rfl
  | succ n ih =>
    unfold startDrain
    dsimp only
    (repeat' split) <;> simp [ih]

@[simp] theorem fuseSide_makeStores (c : CoreId) (es : List SbEntry) (s : State) : fuseSide (makeStores c es s) = fuseSide s := by
  simp [makeStores]

@[simp] theorem fuseSide_sizeLog (n : Nat) (s : State) : fuseSide (sizeLog n s).2 = fuseSide s := by
  unfold sizeLog
  split <;> simp

@[simp] theorem fuseSide_watchAccess (c : CoreId) (a : DAcc) (s : State) : fuseSide (watchAccess c a s) = fuseSide s := by
  simp [watchAccess]

@[simp] theorem fuseSide_commit (c : CoreId) (fr : Fr) (s : State) : fuseSide (stateOf (commit c fr s)) = fuseSide s := by
  simp [commit]

@[simp] theorem fuseSide_fetchPart (c : CoreId) (pl pa : Nat) (s : State) : fuseSide (stateOf (fetchPart c pl pa s)) = fuseSide s := by
  unfold fetchPart
  dsimp only
  split
  · rfl
  · exact fuseSide_next (fuseSide_readWordPa _ _ _ _ _ _ _) (fun _ _ => rfl)
  · split
    · rfl
    · split
      · split <;> rfl
      · exact fuseSide_requestLine _ _ _ _ _

@[simp] theorem fuseSide_fetchXlate (c : CoreId) (pl lin first : Nat) (s : State) :
    fuseSide (stateOf (fetchXlate c pl lin first s)) = fuseSide s := by
  have walked := fuseSide_coreXlate c pl lin needFetch false s
  unfold fetchXlate
  refine fuseSide_next ?_ (fun pa t => ?_)
  · cases h : coreXlate c pl lin needFetch false s <;> rw [h] at walked <;> exact walked
  · split <;> rfl

@[simp] theorem fuseSide_fetchCode (c : CoreId) (pc : BitVec 48) (s : State) : fuseSide (stateOf (fetchCode c pc s)) = fuseSide s := by
  unfold fetchCode
  dsimp only
  split
  · rfl
  · refine fuseSide_next (fuseSide_fetchXlate _ _ _ _ _) (fun _ t => fuseSide_next ?_ (fun _ u => ?_))
    · rw [stateOf_ite, stateOf_ok]
      exact fuseSide_branch rfl (fuseSide_fetchXlate _ _ _ _ _)
    · rw [stateOf_ite, stateOf_ok]
      refine fuseSide_branch rfl (fuseSide_next (fuseSide_fetchPart _ _ _ _) (fun _ v => fuseSide_next ?_ (fun _ w => ?_)))
      · rw [stateOf_ite, stateOf_ok]
        exact fuseSide_branch rfl (fuseSide_fetchPart _ _ _ _)
      · rw [stateOf_ok]
        exact fuseSide_branch rfl (fuseSide_withCore _ _ _)

end Sys2Proof.Proofs
end

section
/-! SUPPORT. What leaves the fuses, the test wrapper and the queue of commands alone: what the instructions do. -/

namespace Sys2Proof.Proofs

open Sys2Proof.Machine Sys2Proof.Claims Sys2Proof.Laws

/-- As `fuseSide_next`, for `simp`, which rewrites the second part under its binders. -/
@[simp] theorem fuseSide_next_left {α β : Type} {f : α → State → Out β} (second : ∀ a t, fuseSide (stateOf (f a t)) = fuseSide t) (o : Out α) :
    fuseSide (stateOf (o.next f)) = fuseSide (stateOf o) := fuseSide_next rfl second


@[simp] theorem fuseSide_loadOp (c : CoreId) (sel n : Nat) (signed post : Bool) (fr : Fr) (s : State) : fuseSide (stateOf (loadOp c sel n signed post fr s)) = fuseSide s := by
  unfold loadOp
  split <;> simp -implicitDefEqProofs

@[simp] theorem fuseSide_storeOp (c : CoreId) (sel n : Nat) (post : Bool) (fr : Fr) (s : State) : fuseSide (stateOf (storeOp c sel n post fr s)) = fuseSide s := by
  unfold storeOp
  split <;> simp -implicitDefEqProofs

@[simp] theorem fuseSide_memOp (c : CoreId) (code : Nat) (fr : Fr) (s : State) : fuseSide (stateOf (memOp c code fr s)) = fuseSide s := by
  unfold memOp
  (repeat' split) <;> simp

@[simp] theorem fuseSide_pickOp (c : CoreId) (fr : Fr) (s : State) : fuseSide (stateOf (pickOp c fr s)) = fuseSide s := by
  unfold pickOp
  dsimp only
  (repeat' split) <;> simp -implicitDefEqProofs

@[simp] theorem fuseSide_divideOp (c : CoreId) (code : Nat) (fr : Fr) (s : State) : fuseSide (stateOf (divideOp c code fr s)) = fuseSide s := by
  unfold divideOp
  (repeat' split) <;> simp

@[simp] theorem fuseSide_awaitDivide (c : CoreId) (takes : Nat) (fr : Fr) (s : State) : fuseSide (stateOf (awaitDivide c takes fr s)) = fuseSide s := by
  unfold awaitDivide
  (repeat' split) <;> simp

@[simp] theorem fuseSide_shortBody (c : CoreId) (code : Nat) (fr : Fr) (s : State) : fuseSide (stateOf (shortBody c code fr s)) = fuseSide s := by
  simp [shortBody]

@[simp] theorem fuseSide_shortHalf (c : CoreId) (code : Nat) (fr0 : Fr) (s : State) : fuseSide (stateOf (shortHalf c code fr0 s)) = fuseSide s := by
  unfold shortHalf
  split
  · rfl
  · exact fuseSide_next (fuseSide_needCells _ _ _ _ _) (fun _ _ => fuseSide_next (fuseSide_awaitDivide _ _ _ _) (fun _ _ =>
      fuseSide_next (fuseSide_shortBody _ _ _ _) (fun _ _ => fuseSide_next (fuseSide_needRoom _ _ _ _) (fun _ _ => rfl))))

@[simp] theorem fuseSide_runPair (c : CoreId) (sa sb : Nat) (s : State) : fuseSide (stateOf (runPair c sa sb s)) = fuseSide s :=
  fuseSide_next (fuseSide_shortHalf _ _ _ _) (fun _ _ => fuseSide_next (fuseSide_shortHalf _ _ _ _) (fun _ _ =>
    fuseSide_next (fuseSide_commit _ _ _) (fun _ _ => fuseSide_branch (fuseSide_withCore _ _ _) rfl)))

@[simp] theorem fuseSide_pureFr (f : Fr → Fr) (fr : Fr) (s : State) : fuseSide (stateOf (pureFr f fr s)) = fuseSide s := rfl

@[simp] theorem fuseSide_onFrame {f : Fr → State → Out Fr} (same : ∀ fr s, fuseSide (stateOf (f fr s)) = fuseSide s) (c : CoreId) (n r : Nat) (s : State) :
    fuseSide (stateOf (onFrame c n r f s)) = fuseSide s :=
  fuseSide_next (fuseSide_needCells _ _ _ _ _) (fun _ _ => fuseSide_next (same _ _) (fun _ _ => fuseSide_next (fuseSide_needRoom _ _ _ _)
    (fun _ _ => fuseSide_next (fuseSide_commit _ _ _) (fun _ _ => rfl))))

@[simp] theorem fuseSide_needPriv (c : CoreId) (level : Nat) (s : State) : fuseSide (stateOf (needPriv c level s)) = fuseSide s := by
  simp [needPriv]

@[simp] theorem fuseSide_runLit (c : CoreId) (field : BitVec 10) (s : State) : fuseSide (stateOf (runLit c field s)) = fuseSide s := by
  simp -implicitDefEqProofs [runLit]

@[simp] theorem fuseSide_runLitx (c : CoreId) (field : BitVec 10) (s : State) : fuseSide (stateOf (runLitx c field s)) = fuseSide s := by
  simp -implicitDefEqProofs [runLitx]

@[simp] theorem fuseSide_runAddi (c : CoreId) (field : BitVec 10) (s : State) : fuseSide (stateOf (runAddi c field s)) = fuseSide s := by
  simp -implicitDefEqProofs [runAddi]

@[simp] theorem fuseSide_runCwr (c : CoreId) (field : BitVec 10) (s : State) : fuseSide (stateOf (runCwr c field s)) = fuseSide s := by
  unfold runCwr
  split <;> simp -implicitDefEqProofs

@[simp] theorem fuseSide_runCww (c : CoreId) (field : BitVec 10) (s : State) : fuseSide (stateOf (runCww c field s)) = fuseSide s := by
  unfold runCww
  split <;> simp -implicitDefEqProofs

@[simp] theorem fuseSide_runLd (c : CoreId) (field : BitVec 10) (s : State) : fuseSide (stateOf (runLd c field s)) = fuseSide s := by
  unfold runLd
  (repeat' split) <;> simp

@[simp] theorem fuseSide_runSt (c : CoreId) (field : BitVec 10) (s : State) : fuseSide (stateOf (runSt c field s)) = fuseSide s := by
  simp [runSt]

@[simp] theorem fuseSide_offset8 (field : BitVec 10) (fr : Fr) (s : State) : fuseSide (stateOf (offset8 field fr s)) = fuseSide s := by
  unfold offset8
  (repeat' split) <;> simp

@[simp] theorem fuseSide_runLdc (c : CoreId) (field : BitVec 10) (s : State) : fuseSide (stateOf (runLdc c field s)) = fuseSide s := by
  simp [runLdc]

@[simp] theorem fuseSide_runStc (c : CoreId) (field : BitVec 10) (s : State) : fuseSide (stateOf (runStc c field s)) = fuseSide s := by
  simp [runStc]

@[simp] theorem fuseSide_needAlign (sel m : Nat) (addr : W64) (s : State) : fuseSide (stateOf (needAlign sel m addr s)) = fuseSide s := by
  simp [needAlign]

@[simp] theorem fuseSide_needWhole (c : CoreId) (sel m b : Nat) (addr : W64) (s : State) : fuseSide (stateOf (needWhole c sel m b addr s)) = fuseSide s := by
  simp [needWhole]

@[simp] theorem fuseSide_lockXlate (c : CoreId) (sel : Nat) (kind : Access) (need : XNeed) (addr : W64) (s : State) : fuseSide (stateOf (lockXlate c sel kind need addr s)) = fuseSide s := by
  unfold lockXlate
  (repeat' split) <;> simp

@[simp] theorem fuseSide_runLock (c : CoreId) (field : BitVec 10) (s : State) : fuseSide (stateOf (runLock c field s)) = fuseSide s :=
  fuseSide_next (fuseSide_needCells _ _ _ _ _) (fun _ _ => fuseSide_next (fuseSide_needWhole _ _ _ _ _ _) (fun _ _ =>
    fuseSide_next (fuseSide_lockXlate _ _ _ _ _ _) (fun _ _ => fuseSide_next
      (fuseSide_onFrame (fun _ _ => fuseSide_next (fuseSide_readBytes _ _ _ _ _ _ _ _) (fun _ _ => rfl)) _ _ _ _)
      (fun _ _ => fuseSide_branch rfl (fuseSide_withCore _ _ _)))))

@[simp] theorem fuseSide_unlockWrite (c : CoreId) (pa : Nat) (v : W64) (s : State) : fuseSide (unlockWrite c pa v s) = fuseSide s := by
  unfold unlockWrite
  (repeat' split) <;> simp

theorem fuseSide_unlockEnd {after : State → State} (same : ∀ s, fuseSide (after s) = fuseSide s) (c : CoreId) (pa : Nat) (v : W64) (t : Bool) (s : State) :
    fuseSide (stateOf (unlockEnd c pa v t after s)) = fuseSide s := by
  simp -implicitDefEqProofs [unlockEnd, same]

@[simp] theorem fuseSide_runUnlock (c : CoreId) (field : BitVec 10) (s : State) : fuseSide (stateOf (runUnlock c field s)) = fuseSide s := by
  refine fuseSide_next (fuseSide_needCells _ _ _ _ _) (fun _ t => fuseSide_next (fuseSide_needWhole _ _ _ _ _ _) (fun _ u =>
    fuseSide_next (fuseSide_lockXlate _ _ _ _ _ _) (fun pa v => ?_)))
  have plain (w : W64) (t : Bool) : fuseSide (stateOf (unlockEnd c pa w t id v)) = fuseSide v := fuseSide_unlockEnd (fun _ => rfl) _ _ _ _ _
  dsimp only
  split
  · rw [stateOf_ite]
    exact fuseSide_branch (fuseSide_unlockEnd (fun s => fuseSide_lateError _ _ _ s) _ _ _ _ _) (plain _ _)
  · simp only [stateOf_ite]
    refine fuseSide_branch rfl (fuseSide_branch (plain _ _) (fuseSide_branch rfl ?_))
    simp
  · simp only [stateOf_ite]
    exact fuseSide_branch (plain _ _) (fuseSide_branch rfl (fuseSide_unlockEnd (fun s => fuseSide_unlockWrite _ _ _ s) _ _ _ _ _))

@[simp] theorem fuseSide_needDrained (c : CoreId) (why : HoldFor) (s : State) : fuseSide (stateOf (needDrained c why s)) = fuseSide s := by
  simp [needDrained]

@[simp] theorem fuseSide_progAddr (c : CoreId) (form : Bool) (sel : Nat) (addr : W64) (s : State) :
    fuseSide (stateOf (progAddr c form sel addr s)) = fuseSide s := by
  unfold progAddr
  rw [stateOf_ite]
  refine fuseSide_branch (fuseSide_next (fuseSide_needAlign _ _ _ _) (fun _ _ => rfl)) ?_
  refine fuseSide_next (fuseSide_needWhole _ _ _ _ _ _) (fun _ t => ?_)
  dsimp only
  split
  · rfl
  · refine fuseSide_next (fuseSide_coreXlate _ _ _ _ _ _) (fun _ u => ?_)
    rw [stateOf_ite]
    exact fuseSide_branch rfl (fuseSide_next (fuseSide_coreXlate _ _ _ _ _ _) (fun _ _ => rfl))

@[simp] theorem fuseSide_runVissue (c : CoreId) (field : BitVec 10) (s : State) : fuseSide (stateOf (runVissue c field s)) = fuseSide s := by
  refine fuseSide_next (fuseSide_needCells _ _ _ _ _) (fun _ _ => fuseSide_next (fuseSide_progAddr _ _ _ _ _) (fun _ _ =>
    fuseSide_next (fuseSide_needDrained _ _ _) (fun _ t => ?_)))
  split
  · rw [stateOf_ite]
    exact fuseSide_branch rfl (fuseSide_onFrame (fun _ _ => rfl) _ _ _ _)
  · exact fuseSide_next (fuseSide_onFrame (fun _ _ => rfl) _ _ _ _) (fun _ _ => by simp)

@[simp] theorem fuseSide_vwaitPush (c : CoreId) (ws : List W64) (t : Bool) (e : Option (Fin 8)) (s : State) : fuseSide (stateOf (vwaitPush c ws t e s)) = fuseSide s := by
  simp -implicitDefEqProofs [vwaitPush]

@[simp] theorem fuseSide_runVwait (c : CoreId) (field : BitVec 10) (s : State) : fuseSide (stateOf (runVwait c field s)) = fuseSide s := by
  refine fuseSide_next (fuseSide_needCells _ _ _ _ _) (fun _ t => ?_)
  dsimp only
  rw [stateOf_ite, stateOf_ite]
  refine fuseSide_branch (by simp) (fuseSide_branch (by simp) ?_)
  split
  · refine fuseSide_next (by simp) (fun _ u => ?_)
    simp
  · rw [stateOf_ite]
    exact fuseSide_branch rfl (by simp)

@[simp] theorem fuseSide_discardPage (lin : BitVec 48) (s : State) : fuseSide (discardPage lin s) = fuseSide s := rfl

@[simp] theorem fuseSide_discardAll (s : State) : fuseSide (discardAll s) = fuseSide s := rfl

@[simp] theorem fuseSide_discardWalks (s : State) : fuseSide (discardWalks s) = fuseSide s := rfl

@[simp] theorem fuseSide_runInvpg (c : CoreId) (s : State) : fuseSide (stateOf (runInvpg c s)) = fuseSide s :=
  fuseSide_next (fuseSide_needPriv _ _ _) (fun _ _ => fuseSide_next (fuseSide_needCells _ _ _ _ _) (fun _ _ =>
    fuseSide_next (fuseSide_needDrained _ _ _) (fun _ _ => fuseSide_next (fuseSide_onFrame (fun _ _ => rfl) _ _ _ _)
      (fun _ _ => fuseSide_discardPage _ _))))

@[simp] theorem fuseSide_runInvall (c : CoreId) (s : State) : fuseSide (stateOf (runInvall c s)) = fuseSide s := by
  simp -implicitDefEqProofs [runInvall]

@[simp] theorem fuseSide_runInvwalk (c : CoreId) (s : State) : fuseSide (stateOf (runInvwalk c s)) = fuseSide s := by
  simp [runInvwalk]

@[simp] theorem fuseSide_runAck (c : CoreId) (s : State) : fuseSide (stateOf (runAck c s)) = fuseSide s :=
  fuseSide_next (fuseSide_needPriv _ _ _) (fun _ _ => fuseSide_next (fuseSide_needCells _ _ _ _ _) (fun _ _ =>
    fuseSide_next (fuseSide_onFrame (fun _ _ => rfl) _ _ _ _) (fun _ _ => rfl)))

@[simp] theorem fuseSide_runEos (c : CoreId) (field : BitVec 10) (s : State) : fuseSide (stateOf (runEos c field s)) = fuseSide s := by
  simp [runEos]

@[simp] theorem fuseSide_settleArm (c : CoreId) (s : State) : fuseSide (settleArm c s) = fuseSide s := by
  simp [settleArm]

@[simp] theorem fuseSide_runWait (c : CoreId) (s : State) : fuseSide (stateOf (runWait c s)) = fuseSide s := by
  refine fuseSide_next (fuseSide_needPriv _ _ _) (fun _ t => ?_)
  dsimp only
  split
  · split
    · simp only [stateOf_ite]
      exact fuseSide_branch (fuseSide_setCore _ _ _) (fuseSide_branch rfl rfl)
    · rfl
  · rfl

@[simp] theorem fuseSide_traceBranch (c : CoreId) (target : BitVec 48) (s : State) : fuseSide (traceBranch c target s) = fuseSide s := by
  simp [traceBranch]

@[simp] theorem fuseSide_pastLoop (c : CoreId) (s : State) : fuseSide (pastLoop c s) = fuseSide s := rfl

@[simp] theorem fuseSide_loopBr (c : CoreId) (pc target : BitVec 48) (taken : Bool) (s : State) : fuseSide (loopBr c pc target taken s) = fuseSide s := rfl

@[simp] theorem fuseSide_runBr (cx : Cx) (field : BitVec 10) (s : State) : fuseSide (stateOf (runBr cx field s)) = fuseSide s := by
  simp [runBr]

@[simp] theorem fuseSide_runCall (cx : Cx) (field : BitVec 10) (s : State) : fuseSide (stateOf (runCall cx field s)) = fuseSide s := by
  simp -implicitDefEqProofs [runCall]

@[simp] theorem fuseSide_runBrx (cx : Cx) (s : State) : fuseSide (stateOf (runBrx cx s)) = fuseSide s := by
  simp -implicitDefEqProofs [runBrx]

@[simp] theorem fuseSide_runCallx (cx : Cx) (s : State) : fuseSide (stateOf (runCallx cx s)) = fuseSide s := by
  simp -implicitDefEqProofs [runCallx]

@[simp] theorem fuseSide_runRet (cx : Cx) (s : State) : fuseSide (stateOf (runRet cx s)) = fuseSide s := by
  simp -implicitDefEqProofs [runRet]

@[simp] theorem fuseSide_runSvc (cx : Cx) (field : BitVec 10) (s : State) : fuseSide (stateOf (runSvc cx field s)) = fuseSide s := by
  simp [runSvc]

@[simp] theorem fuseSide_runFrtn (cx : Cx) (s : State) : fuseSide (stateOf (runFrtn cx s)) = fuseSide s := by
  simp [runFrtn]

@[simp] theorem fuseSide_doEret (c : CoreId) (s : State) : fuseSide (doEret c s) = fuseSide s := by
  simp [doEret]

@[simp] theorem fuseSide_runRep (cx : Cx) (field : BitVec 10) (s : State) : fuseSide (stateOf (runRep cx field s)) = fuseSide s := by
  simp -implicitDefEqProofs [runRep]

@[simp] theorem fuseSide_runSync (c : CoreId) (s : State) : fuseSide (stateOf (runSync c s)) = fuseSide s := by
  simp [runSync]

@[simp] theorem fuseSide_runFence (c : CoreId) (s : State) : fuseSide (stateOf (runFence c s)) = fuseSide s := by
  simp -implicitDefEqProofs [runFence]

@[simp] theorem fuseSide_runBrk (c : CoreId) (s : State) : fuseSide (stateOf (runBrk c s)) = fuseSide s := by
  simp [runBrk]

@[simp] theorem fuseSide_needDivide (c : CoreId) (takes : Nat → Bool) (s : State) : fuseSide (stateOf (needDivide c takes s)) = fuseSide s := by
  simp [needDivide]

@[simp] theorem fuseSide_peekByte (c : CoreId) (pa : Nat) (s : State) : fuseSide (peekByte c pa s).2 = fuseSide s := by
  unfold peekByte
  dsimp only
  (repeat' split) <;> simp -implicitDefEqProofs

@[simp] theorem fuseSide_mixBytes (orig : List (Nat × Byte)) (slin n : Nat) (v : W64) (s : State) :
    fuseSide (mixBytes orig slin n v s).2 = fuseSide s := by
  refine fuseSide_foldl_snd (fun x j => ?_) _ _
  split
  · rfl
  · exact fuseSide_takeBool _

@[simp] theorem fuseSide_recordBytes (c : CoreId) (dlin n lo hi : Nat) (acc : List DAcc) (s : State) :
    fuseSide (recordBytes c dlin n lo hi acc s).2 = fuseSide s := by
  refine fuseSide_foldl_snd (fun x j => ?_) _ _
  split
  · exact fuseSide_peekByte _ _ _
  · rfl

@[simp] theorem fuseSide_runMovb (c : CoreId) (field : BitVec 10) (s : State) : fuseSide (stateOf (runMovb c field s)) = fuseSide s := by
  refine fuseSide_next (fuseSide_needCells _ _ _ _ _) (fun _ t => ?_)
  dsimp only
  split
  · rw [stateOf_ite]
    refine fuseSide_branch (fuseSide_next (fuseSide_onFrame (fun _ _ => rfl) _ _ _ _) (fun _ _ => by simp)) ?_
    refine fuseSide_next (fuseSide_loadPieces _ _ _ _ _ _ _) (fun _ _ => fuseSide_next (fuseSide_storeBytes _ _ _ _ _ _) (fun _ _ =>
      fuseSide_next (fuseSide_readPieces _ _ _ _) (fun _ v => ?_)))
    refine (fuseSide_next (fuseSide_storeBytes _ _ _ _ _ _) (fun _ _ => ?_)).trans (fuseSide_mixBytes _ _ _ _ _)
    exact (fuseSide_next (fuseSide_commit _ _ _) (fun _ _ => by simp)).trans (fuseSide_recordBytes _ _ _ _ _ _ _)
  · rfl

@[simp] theorem fuseSide_runStmLdm (c : CoreId) (load : Bool) (field : BitVec 10) (s : State) :
    fuseSide (stateOf (runStmLdm c load field s)) = fuseSide s := by
  have ends (fr : Fr) (f : Flow) (t : State) : fuseSide (stateOf ((commit c fr t).next (fun _ s' => .ok f s'))) = fuseSide t :=
    fuseSide_next (fuseSide_commit _ _ _) (fun _ _ => rfl)
  refine fuseSide_next (fuseSide_needCells _ _ _ _ _) (fun _ t => ?_)
  dsimp only
  split
  · split
    · rw [stateOf_ite]
      refine fuseSide_branch rfl (fuseSide_next (fuseSide_needWhole _ _ _ _ _ _) (fun _ _ => fuseSide_next (fuseSide_next ?_
        (fun _ _ => fuseSide_needDivide _ _ _)) (fun _ _ => ?_)))
      · rw [stateOf_ite]
        exact fuseSide_branch (fuseSide_awaitCell _ _ _ _) rfl
      · rw [stateOf_ite]
        exact fuseSide_branch (fuseSide_next (fuseSide_loadBytes _ _ _ _ _ _ _) (fun _ _ => ends _ _ _))
          (fuseSide_next (fuseSide_storeBytes _ _ _ _ _ _) (fun _ _ => ends _ _ _))
    · exact fuseSide_next (fuseSide_needWhole _ _ _ _ _ _) (fun _ _ => ends _ _ _)
  · rfl

@[simp] theorem fuseSide_nextCell (c : CoreId) (sel : Nat) (cell : W64) (s : State) : fuseSide (stateOf (nextCell c sel cell s)) = fuseSide s := by
  simp [nextCell]

@[simp] theorem fuseSide_keepDirty (c : CoreId) (dirty : BitVec 4) (s : State) : fuseSide (keepDirty c dirty s) = fuseSide s := rfl

@[simp] theorem fuseSide_runSave (c : CoreId) (upper : Bool) (field : BitVec 10) (s : State) :
    fuseSide (stateOf (runSave c upper field s)) = fuseSide s := by
  refine fuseSide_next (fuseSide_needPriv _ _ _) (fun _ _ => fuseSide_next (fuseSide_needCells _ _ _ _ _) (fun _ _ =>
    fuseSide_next (fuseSide_needDivide _ _ _) (fun _ t => ?_)))
  dsimp only
  split
  · rfl
  · refine fuseSide_next (fuseSide_needWhole _ _ _ _ _ _) (fun _ u => ?_)
    rw [stateOf_ite]
    refine fuseSide_branch rfl ?_
    split
    · exact fuseSide_next (fuseSide_commit _ _ _) (fun _ _ => by simp)
    · refine fuseSide_next ?_ (fun _ v => ?_)
      · rw [stateOf_ite]
        exact fuseSide_branch rfl (fuseSide_storeBytes _ _ _ _ _ _)
      · rw [stateOf_ite]
        exact fuseSide_branch (fuseSide_next (fuseSide_commit _ _ _) (fun _ _ => by simp))
          (fuseSide_next (fuseSide_nextCell _ _ _ _) (fun _ _ => fuseSide_next (fuseSide_commit _ _ _) (fun _ _ => fuseSide_keepDirty _ _ _)))

@[simp] theorem fuseSide_readArea (c : CoreId) (sel n : Nat) (cell : W64) (s : State) : fuseSide (stateOf (readArea c sel n cell s)) = fuseSide s := by
  induction n generalizing cell s with
  | zero => rfl
  | succ n ih =>
    refine fuseSide_next (fuseSide_loadBytes _ _ _ _ _ _ _) (fun _ t => ?_)
    rw [stateOf_ite]
    exact fuseSide_branch rfl (fuseSide_next (fuseSide_nextCell _ _ _ _) (fun _ _ => fuseSide_next (ih _ _) (fun _ _ => rfl)))

@[simp] theorem fuseSide_runLoadu (c : CoreId) (field : BitVec 10) (s : State) : fuseSide (stateOf (runLoadu c field s)) = fuseSide s := by
  refine fuseSide_next (fuseSide_needPriv _ _ _) (fun _ _ => fuseSide_next (fuseSide_needCells _ _ _ _ _) (fun _ _ =>
    fuseSide_next (fuseSide_needDivide _ _ _) (fun _ t => fuseSide_next (fuseSide_needWhole _ _ _ _ _ _) (fun _ u =>
      fuseSide_next (fuseSide_readArea _ _ _ _ _) (fun _ v => ?_)))))
  split
  · rfl
  · exact fuseSide_next (fuseSide_readArea _ _ _ _ _) (fun _ _ => fuseSide_next (fuseSide_commit _ _ _) (fun _ _ => by simp))

@[simp] theorem fuseSide_runLoadl (c : CoreId) (field : BitVec 10) (s : State) : fuseSide (stateOf (runLoadl c field s)) = fuseSide s := by
  refine fuseSide_next (fuseSide_needPriv _ _ _) (fun _ _ => fuseSide_next (fuseSide_needCells _ _ _ _ _) (fun _ _ =>
    fuseSide_next (fuseSide_needWhole _ _ _ _ _ _) (fun _ u => fuseSide_next (fuseSide_readArea _ _ _ _ _) (fun _ v => ?_))))
  split
  · rfl
  · refine fuseSide_next (fuseSide_readArea _ _ _ _ _) (fun _ _ => ?_)
    rw [stateOf_ite]
    exact fuseSide_branch rfl (fuseSide_next (fuseSide_commit _ _ _) (fun _ _ => by simp))

end Sys2Proof.Proofs
end

section
/-! SUPPORT. What leaves the fuses, the test wrapper and the queue of commands alone: the cores. -/

namespace Sys2Proof.Proofs

open Sys2Proof.Machine Sys2Proof.Claims Sys2Proof.Laws


@[simp] theorem fuseSide_runLong (cx : Cx) (m : Nat) (f : BitVec 10) (s : State) : fuseSide (stateOf (runLong cx m f s)) = fuseSide s := by
  unfold runLong
  split <;> simp -implicitDefEqProofs

@[simp] theorem fuseSide_runSolo (cx : Cx) (code : Nat) (s : State) : fuseSide (stateOf (runSolo cx code s)) = fuseSide s := by
  unfold runSolo
  (repeat' split) <;> simp

@[simp] theorem fuseSide_runHolds (cx : Cx) (p : BitVec 20) (s : State) : fuseSide (stateOf (runHolds cx p s)) = fuseSide s := by
  simp -implicitDefEqProofs [runHolds]

@[simp] theorem fuseSide_runFails (cx : Cx) (p : BitVec 20) (s : State) : fuseSide (stateOf (runFails cx p s)) = fuseSide s := by
  simp [runFails]

@[simp] theorem fuseSide_runCond (cx : Cx) (p nxt : BitVec 20) (s : State) : fuseSide (stateOf (runCond cx p nxt s)) = fuseSide s := by
  simp [runCond]

@[simp] theorem fuseSide_resumeRep (c : CoreId) (p : BitVec 20) (s : State) : fuseSide (resumeRep c p s) = fuseSide s := rfl

@[simp] theorem fuseSide_reachParcel (cx : Cx) (hdr : BitVec 8) (s : State) : fuseSide (stateOf (reachParcel cx hdr s)) = fuseSide s := by
  unfold reachParcel
  split <;> simp -implicitDefEqProofs

@[simp] theorem fuseSide_execParcel (cx : Cx) (hdr : BitVec 8) (p nxt : BitVec 20) (s : State) : fuseSide (stateOf (execParcel cx hdr p nxt s)) = fuseSide s := by
  simp [execParcel]

@[simp] theorem fuseSide_execFed (cx : Cx) (p : BitVec 20) (s : State) : fuseSide (stateOf (execFed cx p s)) = fuseSide s := by
  simp [execFed]

@[simp] theorem fuseSide_followOn (c : CoreId) (s : State) : fuseSide (followOn c s) = fuseSide s := by
  unfold followOn
  dsimp only
  (repeat' split) <;> simp -implicitDefEqProofs

@[simp] theorem fuseSide_giveUpSlot (c : CoreId) (s : State) : fuseSide (giveUpSlot c s) = fuseSide s := by
  unfold giveUpSlot
  dsimp only
  (repeat' split) <;> simp -implicitDefEqProofs

@[simp] theorem fuseSide_doFlow (c : CoreId) (f : Flow) (s : State) : fuseSide (doFlow c f s) = fuseSide s := by
  unfold doFlow
  (repeat' split) <;> simp

@[simp] theorem fuseSide_stepEnd (c : CoreId) (s : State) : fuseSide (stepEnd c s) = fuseSide s := by
  simp [stepEnd]

@[simp] theorem fuseSide_holdParcel (c : CoreId) (w : HoldFor) (s : State) : fuseSide (holdParcel c w s) = fuseSide s := by
  simp [holdParcel]

@[simp] theorem fuseSide_dropHeld (c : CoreId) (s : State) : fuseSide (dropHeld c s) = fuseSide s := rfl

@[simp] theorem fuseSide_holdExc (c : CoreId) (w : HoldFor) (before s : State) : fuseSide (holdExc c w before s) = fuseSide s := by
  simp [holdExc]

@[simp] theorem fuseSide_takeExc (c : CoreId) (e : Exc) (before s : State) : fuseSide (takeExc c e before s) = fuseSide s := by
  simp [takeExc]

@[simp] theorem fuseSide_fedEnd (c : CoreId) (s : State) : fuseSide (fedEnd c s) = fuseSide s := by
  simp [fedEnd]

@[simp] theorem fuseSide_fedExc (c : CoreId) (e : Exc) (s : State) : fuseSide (fedExc c e s) = fuseSide s := by
  simp [fedExc]

@[simp] theorem fuseSide_runFed (c : CoreId) (h : Held) (n : Nat) (s : State) : fuseSide (runFed c h n s) = fuseSide s := by
  induction n generalizing s with
  | zero => rfl
  | succ n ih =>
    have part := fuseSide_execFed ⟨c, (s.core c).pc, true⟩ h.parcel s
    unfold runFed
    split <;> simp_all

@[simp] theorem fuseSide_runHeld (c : CoreId) (s : State) : fuseSide (runHeld c s) = fuseSide s := by
  unfold runHeld
  dsimp only
  split
  · rfl
  next h hs =>
    have part := fuseSide_execParcel ⟨c, (s.core c).pc, false⟩ h.hdr h.parcel h.nxt s
    refine fuseSide_branch (fuseSide_runFed _ _ _ _) ?_
    split <;> simp_all

@[simp] theorem fuseSide_retryWhen (p : HoldFor → Bool) (c : CoreId) (s : State) : fuseSide (retryWhen p c s) = fuseSide s := by
  unfold retryWhen
  (repeat' split) <;> simp

@[simp] theorem fuseSide_startParcel (c : CoreId) (hdr : BitVec 8) (p nxt : BitVec 20) (s : State) : fuseSide (startParcel c hdr p nxt s) = fuseSide s := by
  simp [startParcel]

@[simp] theorem fuseSide_feedParcel (c : CoreId) (p : BitVec 20) (s : State) : fuseSide (feedParcel c p s) = fuseSide s := by
  simp [feedParcel]

end Sys2Proof.Proofs
end

section
/-! SUPPORT. What leaves the fuses, the test wrapper and the queue of commands alone: events at the cores, the debugger, and commands. -/

namespace Sys2Proof.Proofs

open Sys2Proof.Machine Sys2Proof.Claims Sys2Proof.Laws


@[simp] theorem fuseSide_answerCoreRead (c : CoreId) (w : Nat) (a : BankAnswer) (s : State) : fuseSide (answerCoreRead c w a s) = fuseSide s := by
  unfold answerCoreRead
  (repeat' split) <;> simp

@[simp] theorem fuseSide_answerLock (c : CoreId) (w : Nat) (a : BankAnswer) (s : State) : fuseSide (answerLock c w a s) = fuseSide s := by
  unfold answerLock
  (repeat' split) <;> simp

@[simp] theorem fuseSide_answerCoreWrite (c : CoreId) (a : BankAnswer) (s : State) : fuseSide (answerCoreWrite c a s) = fuseSide s := by
  unfold answerCoreWrite
  (repeat' split) <;> simp

@[simp] theorem fuseSide_extFill (c : CoreId) (f : FillReq) (code : RspCode) (data : Line) (s : State) : fuseSide (extFill c f code data s) = fuseSide s := by
  simp [extFill]

theorem fuseSide_fillResponse (c : CoreId) (fetch : Bool) (line : BitVec 46) (code : RspCode) (data : Line) (s : State) {t : State} (h : fillResponse c fetch line code data s = some t) : fuseSide t = fuseSide s := by
  unfold fillResponse at h
  dsimp only at h
  (repeat' split at h) <;> cases h <;> simp

@[simp] theorem fuseSide_wcacheEnter (c : CoreId) (w : CWalk) (table : Nat) (s : State) : fuseSide (wcacheEnter c w table s) = fuseSide s := rfl

@[simp] theorem fuseSide_coreTlbEnter (c : CoreId) (t : TlbEntry) (s : State) : fuseSide (coreTlbEnter c t s) = fuseSide s := rfl

@[simp] theorem fuseSide_noteFault (c : CoreId) (ea : BitVec 52) (g : GotFault) (s : State) : fuseSide (noteFault c ea g s) = fuseSide s := rfl

theorem fuseSide_coreWalkResponse (c : CoreId) (ea : BitVec 52) (code : RspCode) (entry : W64) (s : State) {t : State} (h : coreWalkResponse c ea code entry s = some t) : fuseSide t = fuseSide s := by
  unfold coreWalkResponse at h
  dsimp only at h
  (repeat' split at h) <;> cases h <;> simp

@[simp] theorem fuseSide_wakeWalks (s : State) : fuseSide (wakeWalks s) = fuseSide s := by
  simp [wakeWalks]

@[simp] theorem fuseSide_pastCaches (c : CoreId) (line : Nat) (s : State) : fuseSide (pastCaches c line s) = fuseSide s := by
  simp [pastCaches]

@[simp] theorem fuseSide_drainExt (c : CoreId) (e : SbEntry) (kind : AttrKind) (code : RspCode) (data : Line) (s : State) : fuseSide (drainExt c e kind code data s) = fuseSide s := by
  unfold drainExt
  dsimp only
  (repeat' split) <;> simp -implicitDefEqProofs

@[simp] theorem fuseSide_dropClean (c : CoreId) (line : Nat) (s : State) : fuseSide (dropClean c line s) = fuseSide s := by
  unfold dropClean
  (repeat' split) <;> simp

theorem fuseSide_writebackDone (c : CoreId) (line : BitVec 46) (code : RspCode) (s : State) {t : State} (h : writebackDone c line code s = some t) : fuseSide t = fuseSide s := by
  unfold writebackDone at h
  dsimp only at h
  (repeat' split at h) <;> cases h <;> simp

theorem fuseSide_divideDone (c : CoreId) (s : State) {t : State} (h : divideDone c s = some t) : fuseSide t = fuseSide s := by
  unfold divideDone at h
  split at h <;> cases h <;> simp

theorem fuseSide_interruptNow (c : CoreId) (hdr : BitVec 8) (s0 : State) {t : State} (h : interruptNow c hdr s0 = some t) : fuseSide t = fuseSide s0 := by
  unfold interruptNow at h
  dsimp only at h
  (repeat' split at h) <;> cases h <;> simp

theorem fuseSide_haltNow (c : CoreId) (hdr : BitVec 8) (s : State) {t : State} (h : haltNow c hdr s = some t) : fuseSide t = fuseSide s := by
  unfold haltNow at h
  dsimp only at h
  (repeat' split at h) <;> cases h <;> simp

@[simp] theorem fuseSide_cleanDcache (c : CoreId) (s : State) : fuseSide (cleanDcache c s) = fuseSide s := by
  simp [cleanDcache]

theorem fuseSide_corecfgEffect (c : CoreId) (s : State) {t : State} (h : corecfgEffect c s = some t) : fuseSide t = fuseSide s := by
  unfold corecfgEffect at h
  dsimp only at h
  (repeat' split at h) <;> cases h <;> simp

@[simp] theorem fuseSide_spillFails (c : CoreId) (level : BitVec 3) (ret : Bool) (e : SpillErr) (s : State) : fuseSide (spillFails c level ret e s) = fuseSide s := by
  simp [spillFails]

@[simp] theorem fuseSide_engSet (c : CoreId) (r : Option EngRun) (s : State) : fuseSide (engSet c r s) = fuseSide s := rfl

@[simp] theorem fuseSide_engAsk (c : CoreId) (r : EngRun) (n : Nat) (q : BankReq) (w : Nat) (wr : Option (W64 × BitVec 8)) (s : State) : fuseSide (engAsk c r n q w wr s) = fuseSide s := rfl

@[simp] theorem fuseSide_switchError (c : CoreId) (slot pa : Nat) (s : State) : fuseSide (switchError c slot pa s) = fuseSide s := by
  simp [switchError]

@[simp] theorem fuseSide_enterSlot (c : CoreId) (i : Nat) (s : State) : fuseSide (enterSlot c i s) = fuseSide s := rfl

@[simp] theorem fuseSide_deny (s : State) : fuseSide (deny s) = fuseSide s := rfl

@[simp] theorem fuseSide_answerWd (v : W64) (s : State) : fuseSide (answerWd v s) = fuseSide s := rfl

@[simp] theorem fuseSide_setSam (m : Sam) (s : State) : fuseSide (setSam m s) = fuseSide s := rfl

@[simp] theorem fuseSide_samEnd (result : Nat) (s : State) : fuseSide (samEnd result s) = fuseSide s := rfl

@[simp] theorem fuseSide_samVsAccess (w : Nat) (s : State) : fuseSide (samVsAccess w s) = fuseSide s := by
  unfold samVsAccess
  dsimp only
  (repeat' split) <;> simp -implicitDefEqProofs

@[simp] theorem fuseSide_samExtAccess (kind : AttrKind) (emp : Bool) (s : State) : fuseSide (samExtAccess kind emp s) = fuseSide s := by
  simp [samExtAccess]

@[simp] theorem fuseSide_samResponse (code : RspCode) (data : W64) (s : State) : fuseSide (samResponse code data s) = fuseSide s := by
  simp [samResponse]

@[simp] theorem fuseSide_answerSam (a : BankAnswer) (s : State) : fuseSide (answerSam a s) = fuseSide s := by
  unfold answerSam
  (repeat' split) <;> simp

@[simp] theorem fuseSide_vtRead (s : State) : fuseSide (vtRead s) = fuseSide s := by
  simp [vtRead]

@[simp] theorem fuseSide_vtWrite (d : BitVec 32) (s : State) : fuseSide (vtWrite d s) = fuseSide s := by
  simp [vtWrite]

@[simp] theorem fuseSide_traceOvf (s : State) : fuseSide (traceOvf s) = fuseSide s := by
  simp [traceOvf]

@[simp] theorem fuseSide_traceTransfer (s : State) : fuseSide (traceTransfer s) = fuseSide s := by
  simp [traceTransfer]

@[simp] theorem fuseSide_writeTrctl (v : W64) (s : State) : fuseSide (writeTrctl v s) = fuseSide s := by
  simp [writeTrctl]

@[simp] theorem fuseSide_stepCore (c : CoreId) (s : State) : fuseSide (stepCore c s) = fuseSide s := by
  simp [stepCore]

@[simp] theorem fuseSide_writeDctl (c : CoreId) (v : W64) (s : State) : fuseSide (writeDctl c v s) = fuseSide s := by
  simp [writeDctl]

@[simp] theorem fuseSide_writeDpc (c : CoreId) (v : W64) (s : State) : fuseSide (writeDpc c v s) = fuseSide s := by
  simp [writeDpc]

@[simp] theorem fuseSide_writeDtop (c : CoreId) (ret : Bool) (v : W64) (s : State) : fuseSide (writeDtop c ret v s) = fuseSide s := by
  unfold writeDtop
  dsimp only
  (repeat' split) <;> simp -implicitDefEqProofs

@[simp] theorem fuseSide_writeWfreeze (v : W64) (s : State) : fuseSide (writeWfreeze v s) = fuseSide s := by
  simp [writeWfreeze]

@[simp] theorem fuseSide_writeDstat (c : CoreId) (v : W64) (s : State) : fuseSide (writeDstat c v s) = fuseSide s := rfl

@[simp] theorem fuseSide_wakeRecords (s : State) : fuseSide (wakeRecords s) = fuseSide s := by
  simp [wakeRecords]

@[simp] theorem fuseSide_scrubPresents (s : State) : fuseSide (scrubPresents s) = fuseSide s := rfl

@[simp] theorem fuseSide_setOverride (rq word : Nat) (s : State) : fuseSide (setOverride rq word s) = fuseSide s := rfl

@[simp] theorem fuseSide_wipeEnds (s : State) : fuseSide (wipeEnds s) = fuseSide s := by
  simp [wipeEnds]

theorem fuseSide_journalIssue (slot : Fin 4) (s : State) {t : State} (h : journalIssue slot s = some t) : fuseSide t = fuseSide s := by
  simp only [journalIssue, Option.bind_eq_some_iff, Option.map_eq_some_iff] at h
  obtain ⟨x, -, j, -, rfl⟩ := h
  simp

@[simp] theorem fuseSide_journalError (j : Journal) (code : RspCode) (s : State) : fuseSide (journalError j code s) = fuseSide s := by
  simp [journalError]

theorem fuseSide_journalAnswer (slot : Fin 4) (code : RspCode) (s : State) {t : State} (h : journalAnswer slot code s = some t) :
    fuseSide t = fuseSide s := by
  simp only [journalAnswer, Option.map_eq_some_iff] at h
  obtain ⟨x, -, rfl⟩ := h
  simp

@[simp] theorem fuseSide_ackTimesOut (s : State) : fuseSide (ackTimesOut s) = fuseSide s := by
  simp [ackTimesOut]

@[simp] theorem fuseSide_firstPanelSample (pnl : PanelPins) (s : State) : fuseSide (firstPanelSample pnl s) = fuseSide s := rfl

@[simp] theorem fuseSide_snoopTile (line : BitVec 46) (tag : BitVec 10) (s : State) : fuseSide (snoopTile line tag s) = fuseSide s := by
  simp [snoopTile]

@[simp] theorem fuseSide_sendDephb (s : State) : fuseSide (sendDephb s) = fuseSide s := by
  simp [sendDephb]

@[simp] theorem fuseSide_timeoutNow (s : State) : fuseSide (timeoutNow s) = fuseSide s := by
  unfold timeoutNow
  (repeat' split) <;> simp

@[simp] theorem fuseSide_relayedMsg (m : Msg) (s : State) : fuseSide (relayedMsg m s) = fuseSide s := by
  unfold relayedMsg
  (repeat' split) <;> simp

@[simp] theorem fuseSide_relayAcked (round : BitVec 16) (s : State) : fuseSide (relayAcked round s) = fuseSide s := by
  simp [relayAcked]

@[simp] theorem fuseSide_partnerCold (s : State) : fuseSide (partnerCold s) = fuseSide s := by
  simp [partnerCold]

@[simp] theorem fuseSide_partnerPower (req : BitVec 3) (s : State) : fuseSide (partnerPower req s) = fuseSide s := by
  simp [partnerPower]

@[simp] theorem fuseSide_partnerReports (slot : Fin 4) (r : PeerReport) (s : State) : fuseSide (partnerReports slot r s) = fuseSide s := by
  simp [partnerReports]

@[simp] theorem fuseSide_partnerSpare (s : State) : fuseSide (partnerSpare s) = fuseSide s := by
  unfold partnerSpare
  (repeat' split) <;> simp

end Sys2Proof.Proofs
end

section
/-! SUPPORT. What restores no fuse (R501, R505, R565, R567): the relation between a state and a later one, and the parts of the model that write fuses. -/

namespace Sys2Proof.Proofs

open Sys2Proof.Machine Sys2Proof.Claims Sys2Proof.Laws

/-! ## The relation -/

/-- From `s` to `t` no command has been taken from the queue, a running fuse command has stayed sound, and no fuse has been restored. -/
structure Unrestored (s t : State) : Prop where
  queue : t.pending = s.pending
  sound : FusesSound s → FusesSound t
  blown : FusesSound s → onlyBlown s t

theorem keyKept_refl (k : KeySlot) : keyKept k k := ⟨id, fun _ => ⟨‹_›, rfl, rfl, rfl, rfl⟩⟩

theorem keyKept_trans {a b c : KeySlot} (h : keyKept a b) (g : keyKept b c) : keyKept a c := by
  obtain ⟨hr, hp⟩ := h
  obtain ⟨gr, gp⟩ := g
  refine ⟨gr ∘ hr, fun prog => ?_⟩
  obtain ⟨prog', d, b, e, r⟩ := hp prog
  obtain ⟨prog'', d', b', e', r'⟩ := gp prog'
  exact ⟨prog'', d'.trans d, b'.trans b, e'.trans e, r'.trans r⟩

theorem onlyBlown_trans {s t u : State} (h : onlyBlown s t) (g : onlyBlown t u) : onlyBlown s u := by
  obtain ⟨hl, hm, hk, hu, hf⟩ := h
  obtain ⟨gl, gm, gk, gu, gf⟩ := g
  refine ⟨BitVec.le_trans hl gl, BitVec.le_trans hm gm, fun n => keyKept_trans (hk n) (gk n), fun prog => ?_, fun n i blown => gf n i (hf n i blown)⟩
  obtain ⟨prog', a, b⟩ := hu prog
  obtain ⟨prog'', a', b'⟩ := gu prog'
  exact ⟨prog'', a'.trans a, b'.trans b⟩

theorem Unrestored.trans {s t u : State} (h : Unrestored s t) (g : Unrestored t u) : Unrestored s u :=
  ⟨g.queue.trans h.queue, fun ok => g.sound (h.sound ok), fun ok => onlyBlown_trans (h.blown ok) (g.blown (h.sound ok))⟩

/-- The fuses that hold their value for ever: the lifecycle state, MINSVN, the keys and the UID. -/
def fuseCells (f : Fuses) : BitVec 3 × BitVec 6 × Quad KeySlot × Bool × W64 × W64 := (f.lc, f.minsvn, f.keys, f.uidProg, f.uid0, f.uid1)

/-- What changes no fuse restores none, whichever sound command runs then. -/
theorem unrestored_of_cells {s t : State} (queue : t.pending = s.pending) (cells : fuseCells t.fuses = fuseCells s.fuses)
    (repair : t.wrap.fuses = s.wrap.fuses) (sound : FusesSound s → FusesSound t) : Unrestored s t := by
  simp only [fuseCells, Prod.mk.injEq] at cells
  obtain ⟨lc, svn, keys, prog, u0, u1⟩ := cells
  refine ⟨queue, sound, fun _ => ⟨lc ▸ BitVec.le_refl _, svn ▸ BitVec.le_refl _, fun n => keys ▸ keyKept_refl _, fun h => ⟨prog ▸ h, u0, u1⟩,
    fun n i h => ?_⟩⟩
  rwa [State.fuseOf, repair]

/-- The same fuses and the same running command, or none. -/
theorem fusesSound_of_op {s t : State} (cells : fuseCells t.fuses = fuseCells s.fuses)
    (op : t.fuses.op = s.fuses.op ∨ t.fuses.op = none) (sound : FusesSound s) : FusesSound t := by
  simp only [fuseCells, Prod.mk.injEq] at cells
  obtain ⟨lc, svn, keys, prog, -, -⟩ := cells
  rcases op with same | none
  · exact ⟨lc ▸ sound.listed, fun t h => lc ▸ sound.forward t (same ▸ h), fun n h => svn ▸ sound.rises n (same ▸ h),
      fun n use d h => keys ▸ sound.empty n use d (same ▸ h), fun a b h => prog ▸ sound.once a b (same ▸ h)⟩
  · exact ⟨lc ▸ sound.listed, by simp [none], by simp [none], by simp [none], by simp [none]⟩

theorem unrestored_of_op {s t : State} (queue : t.pending = s.pending) (cells : fuseCells t.fuses = fuseCells s.fuses)
    (repair : t.wrap.fuses = s.wrap.fuses) (op : t.fuses.op = s.fuses.op ∨ t.fuses.op = none) : Unrestored s t :=
  unrestored_of_cells queue cells repair (fusesSound_of_op cells op)

/-- What leaves the fuses, the wrapper and the queue alone restores nothing. -/
theorem unrestored_of_same {s t : State} (same : fuseSide t = fuseSide s) : Unrestored s t := by
  simp only [fuseSide, Prod.mk.injEq] at same
  obtain ⟨fuses, wrap, pending⟩ := same
  exact unrestored_of_op pending (by rw [fuses]) (by rw [wrap]) (.inl (by rw [fuses]))

theorem Unrestored.refl (s : State) : Unrestored s s := unrestored_of_same rfl

/-- Before or after, a part that leaves the fuse side alone. -/
theorem Unrestored.after {s t u : State} (h : Unrestored t u) (same : fuseSide t = fuseSide s) : Unrestored s u :=
  (unrestored_of_same same).trans h

theorem Unrestored.before {s t u : State} (h : Unrestored s t) (same : fuseSide u = fuseSide t) : Unrestored s u :=
  h.trans (unrestored_of_same same)

theorem Unrestored.branch {s t u : State} {p : Prop} [Decidable p] (yes : Unrestored s t) (no : Unrestored s u) :
    Unrestored s (if p then t else u) := by
  split
  · exact yes
  · exact no

theorem unrestored_foldl {α : Type} {act : State → α → State} (each : ∀ s a, Unrestored s (act s a)) (l : List α) (s : State) :
    Unrestored s (l.foldl act s) := by
  induction l generalizing s with
  | nil => exact .refl s
  | cons a l ih => exact (each s a).trans (ih _)

/-! ## Resets -/

/-- A reset ends a transition that runs, and no other fuse command (R503). -/
theorem endTransition_cases (op : Option FuseOp) :
    (match op with
      | some (.transition _) => none
      | o => o) = op ∨
    (match op with
      | some (.transition _) => none
      | o => o) = none := by
  split
  · exact .inr rfl
  · exact .inl rfl

theorem unrestored_warmMark (cause : BitVec 4) (again : Bool) (s : State) : Unrestored s (warmMark cause again s) :=
  unrestored_of_op rfl rfl rfl (endTransition_cases _)

theorem unrestored_warmBegin (cause : BitVec 4) (relay : Bool) (s : State) : Unrestored s (warmBegin cause relay s) :=
  (unrestored_warmMark _ _ _).after (by simp)

theorem unrestored_warmReset (cause : BitVec 4) (relay : Bool) (s : State) : Unrestored s (warmReset cause relay s) :=
  .branch (unrestored_warmBegin _ _ _) (.refl s)

theorem unrestored_warmResetAfterFlush (cause : BitVec 4) (s : State) : Unrestored s (warmResetAfterFlush cause s) :=
  .branch (unrestored_of_same (by simp)) (unrestored_warmReset _ _ _)

theorem unrestored_coldClear (cause : BitVec 4) (s : State) : Unrestored s (coldClear cause s) :=
  unrestored_of_op rfl rfl rfl (endTransition_cases _)

theorem unrestored_coldAssert (s : State) : Unrestored s (coldAssert s) := (unrestored_coldClear _ _).after (by simp)

theorem unrestored_alwaysOnClear (s : State) : Unrestored s (alwaysOnClear s) :=
  (unrestored_coldClear 1 s).trans (unrestored_of_op rfl rfl rfl (.inr rfl))

theorem fuseOf_or {t : Tab (BitVec 16)} {n : Nat} (f : BitVec 16 → BitVec 16) (more : ∀ x i, x.getLsbD i = true → (f x).getLsbD i = true) (m i : Nat)
    (blown : (Tab.get 0 t m).getLsbD i = true) : (Tab.get 0 (Tab.modify 0 t n f) m).getLsbD i = true := by
  rw [Tab.modify]
  by_cases h : m = n
  · rw [h, Tab.get_set_same]
    exact more _ _ (h ▸ blown)
  · rwa [Tab.get_set_other _ _ _ _ _ _ h]

/-- What only blows repair fuses restores none. -/
theorem unrestored_of_repair {s t : State} (queue : t.pending = s.pending) (same : t.fuses = s.fuses)
    (repair : ∀ n i, (s.fuseOf n).getLsbD i = true → (t.fuseOf n).getLsbD i = true) : Unrestored s t :=
  ⟨queue, fusesSound_of_op (by rw [same]) (.inl (by rw [same])),
    fun _ => ⟨same ▸ BitVec.le_refl _, same ▸ BitVec.le_refl _, fun n => same ▸ keyKept_refl _, fun h => ⟨same ▸ h, by rw [same], by rw [same]⟩,
      repair⟩⟩

theorem unrestored_wrapCut (s : State) : Unrestored s (wrapCut s) := by
  refine unrestored_of_repair rfl rfl (fun n i blown => ?_)
  rw [State.fuseOf, wrapCut]
  dsimp only
  split
  · exact fuseOf_or _ (fun x i h => by simp [h]) n i blown
  · exact blown

theorem unrestored_alwaysOnAssert (s : State) : Unrestored s (alwaysOnAssert s) :=
  ((unrestored_wrapCut s).trans (unrestored_alwaysOnClear _)).before rfl

theorem unrestored_loadFuses (s : State) : Unrestored s (loadFuses s) := unrestored_of_op rfl rfl rfl (.inl rfl)

theorem unrestored_stepDone (n : Nat) (s : State) : Unrestored s (stepDone n s) := by
  unfold stepDone
  split
  · exact unrestored_of_same (by simp)
  · exact (unrestored_loadFuses s).before (by simp)
  · exact unrestored_of_same (by simp)

theorem unrestored_writeRstctl (v : W64) (s : State) : Unrestored s (writeRstctl v s) := by
  have before : fuseSide (writeRun (v.extractLsb' 4 4) (fours.foldl (fun s c => if bitAt c.val v then coreResetOne c s else s) s)) = fuseSide s := by
    simp
  exact .branch ((unrestored_warmReset _ _ _).after before) (unrestored_of_same before)

/-! ## Fuse commands -/

theorem unrestored_lcError (s : State) : Unrestored s (lcError s) := unrestored_of_op rfl rfl rfl (.inl rfl)

theorem unrestored_keyError (s : State) : Unrestored s (keyError s) := unrestored_of_op rfl rfl rfl (.inl rfl)

/-- R501: a transition leads above the fused state, to a listed one. -/
theorem transitionOk_forward {who : Requester} {t : Nat} {s : State} (ok : transitionOk who t s = true) : s.fuses.lc.toNat < t ∧ t ≤ 5 := by
  unfold transitionOk at ok
  dsimp only at ok
  rw [Bool.and_eq_true, decide_eq_true_eq] at ok
  obtain ⟨listed, above⟩ := ok
  refine ⟨above, ?_⟩
  split at listed
  case h_6 => cases listed
  all_goals omega

theorem unrestored_lcTransition (who : Requester) (t : BitVec 3) (s : State) : Unrestored s (lcTransition who t s) := by
  unfold lcTransition
  split
  · exact unrestored_lcError s
  next accepted =>
    have ok : transitionOk who t.toNat s = true := by simp_all
    obtain ⟨above, listed⟩ := transitionOk_forward ok
    refine Unrestored.before (t := setFuses { s.fuses with op := some (.transition t) } s) ?_ (by simp)
    refine unrestored_of_cells rfl rfl rfl (fun sound => ⟨sound.listed, fun u h => ?_, nofun, nofun, nofun⟩)
    cases h
    exact ⟨above, listed⟩

theorem unrestored_lcRaise (svn : BitVec 6) (s : State) : Unrestored s (lcRaise svn s) := by
  unfold lcRaise
  split
  · exact unrestored_lcError s
  next accepted =>
    refine unrestored_of_cells rfl rfl rfl (fun sound => ⟨sound.listed, nofun, fun n h => ?_, nofun, nofun⟩)
    cases h
    simp only [Bool.or_eq_true, decide_eq_true_eq, not_or, not_le] at accepted
    exact accepted.2

theorem unrestored_writeLccmd (who : Requester) (v : W64) (s : State) : Unrestored s (writeLccmd who v s) := by
  have cleared : Unrestored s (if bitAt 13 v then setFuses { s.fuses with lcErr := false } s else s) :=
    .branch (unrestored_of_op rfl rfl rfl (.inl rfl)) (.refl s)
  unfold writeLccmd
  dsimp only
  generalize (if bitAt 13 v then setFuses { s.fuses with lcErr := false } s else s) = u at cleared ⊢
  refine .branch (.refl s) (.branch cleared (cleared.trans ?_))
  split
  · exact unrestored_lcTransition _ _ _
  · exact unrestored_lcRaise _ _
  · exact unrestored_of_same (by simp)
  · exact unrestored_lcError _

theorem unrestored_keyProgram (slot : BitVec 2) (use : BitVec 3) (s : State) : Unrestored s (keyProgram slot use s) := by
  unfold keyProgram
  dsimp only
  refine .branch (unrestored_keyError s) ?_
  split
  · split
    · exact unrestored_keyError s
    next fresh =>
      refine unrestored_of_cells rfl rfl rfl (fun sound => ⟨sound.listed, nofun, nofun, nofun, fun a b _ => ?_⟩)
      simpa using fresh
  · split
    · exact unrestored_keyError s
    next fresh =>
      refine unrestored_of_cells rfl rfl rfl (fun sound => ⟨sound.listed, nofun, nofun, fun n use d h => ?_, nofun⟩)
      cases h
      simpa using fresh

theorem unrestored_keyRevoke (slot : BitVec 2) (s : State) : Unrestored s (keyRevoke slot s) :=
  .branch (unrestored_keyError s) (unrestored_of_cells rfl rfl rfl (fun sound => ⟨sound.listed, nofun, nofun, nofun, nofun⟩))

theorem unrestored_writeKeycmd (who : Requester) (v : W64) (s : State) : Unrestored s (writeKeycmd who v s) := by
  have cleared : Unrestored s (if bitAt 8 v then setFuses { s.fuses with keyErr := false } s else s) :=
    .branch (unrestored_of_op rfl rfl rfl (.inl rfl)) (.refl s)
  unfold writeKeycmd
  dsimp only
  generalize (if bitAt 8 v then setFuses { s.fuses with keyErr := false } s else s) = u at cleared ⊢
  refine .branch (.refl s) (.branch cleared (cleared.trans ?_))
  split
  · exact unrestored_keyProgram _ _ _
  · exact unrestored_keyRevoke _ _
  · exact unrestored_keyError _

theorem unrestored_writeKeydata (who : Requester) (i : Nat) (v : W64) (s : State) : Unrestored s (writeKeydata who i v s) :=
  .branch (unrestored_of_op rfl rfl rfl (.inl rfl)) (.refl s)

/-- The end of a sound fuse command blows what it names: each case reads the condition under which the command was accepted. -/
theorem unrestored_fuseDone {op : FuseOp} {s : State} (runs : s.fuses.op = some op) : Unrestored s (fuseDone op s) := by
  cases op with
  | transition t =>
    refine Unrestored.trans ?_ (unrestored_warmResetAfterFlush _ _)
    refine Unrestored.before (t := setFuses { s.fuses with op := none, lc := t } s) ?_ (by simp)
    refine ⟨rfl, fun sound => ⟨(sound.forward t runs).2, nofun, nofun, nofun, nofun⟩, fun sound => ?_⟩
    exact ⟨BitVec.le_of_lt (sound.forward t runs).1, BitVec.le_refl _, fun _ => keyKept_refl _, fun h => ⟨h, rfl, rfl⟩, fun _ _ h => h⟩
  | raisesvn n =>
    refine ⟨rfl, fun sound => ⟨sound.listed, nofun, nofun, nofun, nofun⟩, fun sound => ?_⟩
    exact ⟨BitVec.le_refl _, BitVec.le_of_lt (sound.rises n runs), fun _ => keyKept_refl _, fun h => ⟨h, rfl, rfl⟩, fun _ _ h => h⟩
  | uid a b =>
    refine ⟨rfl, fun sound => ⟨sound.listed, nofun, nofun, nofun, nofun⟩, fun sound => ?_⟩
    have fresh := sound.once a b runs
    exact ⟨BitVec.le_refl _, BitVec.le_refl _, fun _ => keyKept_refl _, fun prog => absurd prog (by simp [fresh]), fun _ _ h => h⟩
  | program n use d =>
    refine ⟨rfl, fun sound => ⟨sound.listed, nofun, nofun, nofun, nofun⟩, fun sound => ?_⟩
    have fresh := sound.empty n use d runs
    refine ⟨BitVec.le_refl _, BitVec.le_refl _, fun m => ?_, fun h => ⟨h, rfl, rfl⟩, fun _ _ h => h⟩
    by_cases h : m = n.toFin
    · rw [h, show (fuseDone (.program n use d) s).fuses.keys.get n.toFin = _ from Quad.get_set_same _ _ _]
      exact ⟨fun r => r, fun prog => by rw [prog] at fresh; cases fresh⟩
    · rw [show (fuseDone (.program n use d) s).fuses.keys.get m = s.fuses.keys.get m from Quad.get_set_other _ _ _ _ h]
      exact keyKept_refl _
  | revoke n =>
    refine ⟨rfl, fun sound => ⟨sound.listed, nofun, nofun, nofun, nofun⟩, fun sound => ?_⟩
    refine ⟨BitVec.le_refl _, BitVec.le_refl _, fun m => ?_, fun h => ⟨h, rfl, rfl⟩, fun _ _ h => h⟩
    by_cases h : m = n.toFin
    · rw [h, show (fuseDone (.revoke n) s).fuses.keys.get n.toFin = _ from Quad.get_set_same _ _ _]
      exact ⟨fun _ => rfl, fun prog => ⟨prog, rfl, rfl, rfl, rfl⟩⟩
    · rw [show (fuseDone (.revoke n) s).fuses.keys.get m = s.fuses.keys.get m from Quad.get_set_other _ _ _ _ h]
      exact keyKept_refl _

/-! ## Power, the watchdog of the tile, and the test wrapper -/

theorem unrestored_enterOff (s : State) : Unrestored s (enterOff s) :=
  ((unrestored_wrapCut s).trans (unrestored_coldClear s.rst.cause (wrapCut s))).before rfl

theorem unrestored_stateInForce (target : BitVec 3) (s : State) : Unrestored s (stateInForce target s) := by
  refine .branch (unrestored_enterOff s) (unrestored_of_same ?_)
  simp

theorem unrestored_flushEnd (done : Bool) (f : Flush) (s : State) : Unrestored s (flushEnd done f s) := by
  unfold flushEnd
  dsimp only
  generalize h : logRecord _ _ _ _ _ _ = u
  have logged : fuseSide u = fuseSide s := by rw [← h]; simp
  split
  · exact unrestored_of_same ((fuseSide_setPwr _ _).trans logged)
  · split
    · exact (unrestored_warmReset _ _ _).after ((fuseSide_setRst _ _).trans logged)
    · exact unrestored_of_same logged

theorem unrestored_tileWdExpire (s : State) : Unrestored s (tileWdExpire s) :=
  (unrestored_warmResetAfterFlush _ _).after (by simp)

/-- The wrapper, with its repair fuses as they are. -/
theorem unrestored_setWrap {w : Wrapper} {s : State} (repair : w.fuses = s.wrap.fuses) : Unrestored s (setWrap w s) :=
  unrestored_of_op rfl rfl repair (.inl rfl)

theorem unrestored_testHold (s : State) : Unrestored s (testHold s) := by
  unfold testHold
  dsimp only
  generalize h : List.foldl _ _ _ = u
  have cleared : fuseSide u = fuseSide s := by rw [← h]; simp
  exact .branch (.refl s) ((unrestored_setWrap (by rfl)).after cleared)

theorem unrestored_wirUpdate (code : Nat) (s : State) : Unrestored s (wirUpdate code s) := by
  have captured : Unrestored s (setWrap { s.wrap with wirCap := wirCapture s } s) := unrestored_setWrap (by rfl)
  exact .branch (.branch (captured.trans ((unrestored_testHold _).trans (unrestored_setWrap (by rfl)))) (captured.trans (unrestored_setWrap (by rfl))))
    (captured.trans (unrestored_setWrap (by rfl)))

theorem unrestored_wbrUpdate (cells : List (Nat × Bool)) (s : State) : Unrestored s (wbrUpdate cells s) :=
  .branch (unrestored_setWrap (by rfl)) (.refl s)

theorem unrestored_capture (v : W64) (s : State) : Unrestored s (capture v s) := unrestored_setWrap (by rfl)

theorem unrestored_mbistUpdate (v : W64) (s : State) : Unrestored s (mbistUpdate v s) := by
  unfold mbistUpdate
  dsimp only
  split
  · exact (unrestored_setWrap (by rfl)).before (fuseSide_setVs _ _)
  · exact unrestored_setWrap (by rfl)

theorem unrestored_mbistEnd (s : State) : Unrestored s (mbistEnd s) := unrestored_setWrap (by rfl)

theorem unrestored_wrstn (s : State) : Unrestored s (wrstn s) := unrestored_setWrap (by rfl)

theorem unrestored_wrepairUpdate (v : W64) (s : State) : Unrestored s (wrepairUpdate v s) :=
  .branch (unrestored_setWrap (by rfl)) (.branch (unrestored_setWrap (by rfl)) (unrestored_setWrap (by rfl)))

theorem unrestored_fuseBlown (n : BitVec 2) (lb : BitVec 10) (s : State) : Unrestored s (fuseBlown n lb s) := by
  refine unrestored_of_repair rfl rfl (fun m i blown => ?_)
  rw [State.fuseOf, fuseBlown, setWrap]
  dsimp only
  exact fuseOf_or _ (fun x i h => by rw [BitVec.getLsbD_or, BitVec.getLsbD_or, h, Bool.true_or, Bool.true_or]) m i blown

/-! ## The set-up window -/

theorem unrestored_writeSec (who : Requester) (off : Nat) (v : W64) (s : State) : Unrestored s (writeSec who off v s) := by
  unfold writeSec
  refine .branch (unrestored_of_same (by simp)) (.branch (unrestored_writeKeydata _ _ _ _) (.branch (unrestored_of_same rfl) ?_))
  split
  · exact unrestored_writeLccmd _ _ _
  · exact unrestored_of_same (by simp)
  · exact unrestored_of_same (by simp)
  · exact unrestored_writeKeycmd _ _ _
  · exact .refl s

theorem unrestored_writeRst (off : Nat) (v : W64) (s : State) : Unrestored s (writeRst off v s) := by
  unfold writeRst
  split
  · exact unrestored_writeRstctl _ _
  all_goals exact unrestored_of_same (by simp)

theorem unrestored_writeReg (who : Requester) (off : Nat) (v : W64) (s : State) : Unrestored s (writeReg who off v s) := by
  unfold writeReg
  dsimp only
  split
  case h_3 => exact unrestored_writeRst _ _ _
  case h_10 => exact unrestored_writeSec _ _ _ _
  all_goals exact unrestored_of_same (by (repeat' split) <;> simp)

theorem unrestored_windowWrite (who : Requester) (off : Nat) (be : BitVec 8) (v : W64) (s : State) :
    Unrestored s (windowWrite who off be v s).2 := by
  unfold windowWrite
  split
  · exact .refl s
  · split
    · exact .refl s
    · exact unrestored_writeReg _ _ _ _

end Sys2Proof.Proofs
end

section
/-! SUPPORT. What restores no fuse: accesses of the spill engine, the task scheduler and Weado, and one VCLK. -/

namespace Sys2Proof.Proofs

open Sys2Proof.Machine Sys2Proof.Claims Sys2Proof.Laws

/-! ## Accesses that a command makes as a whole -/

/-- An access restores no fuse, however it ends. -/
def physUnrestored {α : Type} (s : State) (p : Phys α) : Prop :=
  match p with
  | .ok _ t => Unrestored s t
  | .err _ _ t => Unrestored s t
  | .wait _ _ _ _ => True
  | .missing => True

theorem physUnrestored_next {α β : Type} {s : State} {p : Phys α} {f : α → State → Phys β} (first : physUnrestored s p)
    (second : ∀ a t, physUnrestored t (f a t)) : physUnrestored s (p.next f) := by
  cases p with
  | ok a t =>
    have rest := second a t
    rw [Phys.next]
    cases h : f a t with
    | ok b u =>
      rw [h] at rest
      exact first.trans rest
    | err e pa u =>
      rw [h] at rest
      exact first.trans rest
    | wait n r w wr => trivial
    | missing => trivial
  | err e pa t => exact first
  | wait n r w wr => trivial
  | missing => trivial

theorem physUnrestored_same {α : Type} {s t : State} {p : Phys α} (same : fuseSide t = fuseSide s) (h : physUnrestored t p) : physUnrestored s p := by
  cases p with
  | ok a u => exact Unrestored.after h same
  | err e pa u => exact Unrestored.after h same
  | wait n r w wr => trivial
  | missing => trivial

theorem physUnrestored_branch {α : Type} {s : State} {c : Prop} [Decidable c] {p q : Phys α} (yes : physUnrestored s p) (no : physUnrestored s q) :
    physUnrestored s (if c then p else q) := by
  split
  · exact yes
  · exact no

theorem physUnrestored_upper {α : Type} {s : State} {p : Phys α} (h : physUnrestored s p) : physUnrestored s p.upper := by
  cases p <;> exact h

theorem physUnrestored_bankWord (c : CoreId) (secure : Bool) (w lw : Nat) (wr : Option (W64 × BitVec 8)) (s : State) :
    physUnrestored s (bankWord c secure w lw wr s) := by
  unfold bankWord
  split
  · trivial
  · dsimp only
    split
    · trivial
    · refine physUnrestored_branch trivial (physUnrestored_branch ?_ ?_) <;> exact unrestored_of_same (fuseSide_withCore _ _ _)

theorem physUnrestored_readPhys (c : CoreId) (secure : Bool) (rsp : List LineRsp) (w pa : Nat) (s : State) :
    physUnrestored s (readPhys c secure rsp w pa s) := by
  unfold readPhys
  dsimp only
  split
  next off _ =>
    refine physUnrestored_branch (.refl s) ?_
    split
    · exact physUnrestored_branch (.refl s) (unrestored_of_same (fuseSide_takeWord s))
    next lw _ =>
      have asked := physUnrestored_bankWord c secure w lw none s
      split
      next h => rw [h] at asked; exact asked
      · exact asked
  next off _ =>
    have same : fuseSide (windowRead (.core c) off false (voidDet c s)).2.2 = fuseSide s := by simp
    exact physUnrestored_branch (unrestored_of_same same) (unrestored_of_same same)
  · split
    · exact .refl s
    · split
      · trivial
      · refine physUnrestored_branch ?_ (.refl s)
        refine unrestored_of_same ?_
        exact fuseSide_branch (fuseSide_dcacheEnter _ _ _ _) (fuseSide_voidDet _ _)

theorem physUnrestored_writePhys (c : CoreId) (secure : Bool) (rsp : List LineRsp) (w pa : Nat) (d : W64) (be : BitVec 8) (s : State) :
    physUnrestored s (writePhys c secure rsp w pa d be s) := by
  unfold writePhys
  dsimp only
  split
  next off _ =>
    refine physUnrestored_branch (.refl s) ?_
    split
    · exact physUnrestored_branch (.refl s) (.refl s)
    next lw _ =>
      have asked := physUnrestored_bankWord c secure w lw (some (d, be)) s
      split
      next h => rw [h] at asked; exact asked
      · exact physUnrestored_next asked (fun _ t => .refl t)
  next off _ =>
    have written : Unrestored s (windowWrite (.core c) off be d (voidDet c s)).2 := (unrestored_windowWrite _ _ _ _ _).after (by simp)
    exact physUnrestored_branch written written
  · refine physUnrestored_branch (unrestored_of_same (by simp)) ?_
    split
    · trivial
    · refine physUnrestored_branch (physUnrestored_branch (unrestored_of_same (by simp)) (.refl s)) (physUnrestored_branch (.refl s)
        (physUnrestored_branch (unrestored_of_same (by simp)) (.refl s)))

theorem physUnrestored_walkNow (c : CoreId) (rsp : List LineRsp) (n : Nat) (w : CWalk) (s : State) : physUnrestored s (walkNow c rsp n w s) := by
  induction n generalizing w s with
  | zero => trivial
  | succ n ih =>
    unfold walkNow
    dsimp only
    split
    · trivial
    · split
      · exact .refl s
      · exact unrestored_of_same (by simp)
      · split
        · exact physUnrestored_same (fuseSide_wcacheEnter _ _ _ _) (ih _ _)
        · exact unrestored_of_same (fuseSide_wcacheEnter _ _ _ _)

theorem physUnrestored_xlateNow (c : CoreId) (rsp : List LineRsp) (pl lin : Nat) (need : XNeed) (s : State) :
    physUnrestored s (xlateNow c rsp pl lin need s) := by
  unfold xlateNow
  dsimp only
  refine physUnrestored_branch (.refl s) ?_
  split
  next t _ =>
    refine physUnrestored_branch (.refl s) ?_
    refine physUnrestored_same (t := voidDet c (setCore c { s.core c with tlb := (s.core c).tlb.erase t } s)) (by simp) ?_
    exact physUnrestored_branch (.refl _) (physUnrestored_walkNow _ _ _ _ _)
  · refine physUnrestored_same (fuseSide_voidDet c s) ?_
    exact physUnrestored_branch (.refl _) (physUnrestored_walkNow _ _ _ _ _)

theorem physUnrestored_spillXlate (c : CoreId) (rsp : List LineRsp) (pl lin : Nat) (need : XNeed) (s : State) :
    physUnrestored s (spillXlate c rsp pl lin need s) :=
  physUnrestored_next (physUnrestored_xlateNow _ _ _ _ _ _) (fun _ t => physUnrestored_branch (.refl t) (.refl t))

theorem physUnrestored_storeCell (c : CoreId) (rsp : List LineRsp) (d : W64 × W64) (pl off : Nat) (v : W64) (s : State) :
    physUnrestored s (storeCell c rsp d pl off v s) := by
  unfold storeCell
  split
  · exact .refl s
  · exact physUnrestored_branch (physUnrestored_next (physUnrestored_spillXlate _ _ _ _ _ _) (fun _ _ => physUnrestored_writePhys _ _ _ _ _ _ _ _))
      (physUnrestored_next (physUnrestored_spillXlate _ _ _ _ _ _) (fun _ _ =>
        physUnrestored_next (physUnrestored_upper (physUnrestored_spillXlate _ _ _ _ _ _)) (fun _ _ =>
          physUnrestored_next (physUnrestored_writePhys _ _ _ _ _ _ _ _) (fun _ _ => physUnrestored_upper (physUnrestored_writePhys _ _ _ _ _ _ _ _)))))

theorem physUnrestored_loadCell (c : CoreId) (rsp : List LineRsp) (d : W64 × W64) (pl off : Nat) (s : State) :
    physUnrestored s (loadCell c rsp d pl off s) := by
  unfold loadCell
  split
  · exact .refl s
  · exact physUnrestored_branch (physUnrestored_next (physUnrestored_spillXlate _ _ _ _ _ _) (fun _ _ => physUnrestored_readPhys _ _ _ _ _ _))
      (physUnrestored_next (physUnrestored_spillXlate _ _ _ _ _ _) (fun _ _ =>
        physUnrestored_next (physUnrestored_upper (physUnrestored_spillXlate _ _ _ _ _ _)) (fun _ _ =>
          physUnrestored_next (physUnrestored_readPhys _ _ _ _ _ _) (fun _ _ =>
            physUnrestored_next (physUnrestored_upper (physUnrestored_readPhys _ _ _ _ _ _)) (fun _ t => .refl t)))))

theorem physUnrestored_nextPhys (c : CoreId) (rsp : List LineRsp) (cell : Nat) (s : State) : physUnrestored s (nextPhys c rsp cell s) :=
  physUnrestored_branch (.refl s) (physUnrestored_next (physUnrestored_readPhys _ _ _ _ _ _) (fun _ t => physUnrestored_branch (.refl t) (.refl t)))

theorem physUnrestored_saveWords (c : CoreId) (rsp : List LineRsp) (skip : BitVec 4 → Bool) (ws : List (W64 × BitVec 4)) (cell : Nat) (s : State) :
    physUnrestored s (saveWords c rsp skip ws cell s) := by
  induction ws generalizing cell s with
  | nil => exact .refl s
  | cons w ws ih =>
    exact physUnrestored_next (physUnrestored_branch (.refl s) (physUnrestored_writePhys _ _ _ _ _ _ _ _)) (fun _ t =>
      physUnrestored_branch (.refl t) (physUnrestored_next (physUnrestored_nextPhys _ _ _ _) (fun _ _ => ih _ _)))

theorem physUnrestored_saveSlot (c : CoreId) (rsp : List LineRsp) (t : TSlot) (s : State) : physUnrestored s (saveSlot c rsp t s) :=
  physUnrestored_next (physUnrestored_next (physUnrestored_saveWords _ _ _ _ _ _) (fun _ _ => unrestored_of_same (by simp)))
    (fun _ _ => physUnrestored_next (physUnrestored_saveWords _ _ _ _ _ _) (fun _ _ => unrestored_of_same (by simp)))

theorem physUnrestored_loadWords (c : CoreId) (rsp : List LineRsp) (n cell : Nat) (s : State) : physUnrestored s (loadWords c rsp n cell s) := by
  induction n generalizing cell s with
  | zero => exact .refl s
  | succ n ih =>
    exact physUnrestored_next (physUnrestored_readPhys _ _ _ _ _ _) (fun _ t => physUnrestored_branch (.refl t)
      (physUnrestored_next (physUnrestored_nextPhys _ _ _ _) (fun _ _ => physUnrestored_next (ih _ _) (fun _ t => .refl t))))

theorem physUnrestored_loadSlot (c : CoreId) (rsp : List LineRsp) (t : TSlot) (s : State) : physUnrestored s (loadSlot c rsp t s) := by
  refine physUnrestored_next (physUnrestored_loadWords _ _ _ _ _) (fun _ u => ?_)
  split
  · exact .refl u
  · refine physUnrestored_next (physUnrestored_loadWords _ _ _ _ _) (fun _ _ => physUnrestored_next (physUnrestored_loadWords _ _ _ _ _) (fun _ v => ?_))
    split
    · exact .refl v
    · exact physUnrestored_next (physUnrestored_loadWords _ _ _ _ _) (fun _ _ => unrestored_of_same (by simp))

/-! ## Events at the cores -/

/-- A part that some states do not allow restores no fuse. -/
def partUnrestored (s : State) (o : Option State) : Prop := ∀ t, o = some t → Unrestored s t

theorem partUnrestored_none (s : State) : partUnrestored s none := fun _ h => by cases h

theorem partUnrestored_some {s t : State} (h : Unrestored s t) : partUnrestored s (some t) := fun _ e => Option.some.inj e ▸ h

theorem partUnrestored_branch {s : State} {c : Prop} [Decidable c] {p q : Option State} (yes : partUnrestored s p) (no : partUnrestored s q) :
    partUnrestored s (if c then p else q) := by
  split
  · exact yes
  · exact no

theorem partUnrestored_of_same {s : State} {o : Option State} (same : ∀ t, o = some t → fuseSide t = fuseSide s) : partUnrestored s o :=
  fun t h => unrestored_of_same (same t h)

theorem partUnrestored_after {s t : State} {o : Option State} (h : Unrestored s t) (rest : partUnrestored t o) : partUnrestored s o :=
  fun u e => h.trans (rest u e)

theorem partUnrestored_map {s : State} {o : Option State} {f : State → State} (h : partUnrestored s o) (same : ∀ t, fuseSide (f t) = fuseSide t) :
    partUnrestored s (o.map f) := by
  intro t e
  obtain ⟨u, hu, rfl⟩ := Option.map_eq_some_iff.mp e
  exact (h u hu).before (same u)

theorem unrestored_getD {s t : State} {o : Option State} (h : partUnrestored s o) (same : fuseSide t = fuseSide s) : Unrestored s (o.getD t) := by
  cases o with
  | none => exact unrestored_of_same same
  | some u => exact h u rfl

theorem partUnrestored_drainResponse (c : CoreId) (code : RspCode) (data : Line) (s : State) : partUnrestored s (drainResponse c code data s) := by
  unfold drainResponse
  dsimp only
  split
  · exact partUnrestored_none s
  next e t _ =>
    refine partUnrestored_branch (partUnrestored_none s) ?_
    split
    · exact partUnrestored_branch (partUnrestored_none s) (partUnrestored_some (unrestored_of_same (by split <;> simp)))
    next off _ =>
      refine partUnrestored_some ?_
      have written : Unrestored s (windowWrite (.core c) off e.be e.data (setCore c { s.core c with sb := t } s)).2 :=
        (unrestored_windowWrite _ _ _ _ _).after (fuseSide_setCore _ _ _)
      exact written.before (by simp)
    · exact partUnrestored_branch (partUnrestored_none s) (partUnrestored_some (unrestored_of_same (by simp)))

theorem partUnrestored_spillGo (c : CoreId) (level : BitVec 3) (ret : Bool) (r : EngRun) (s : State) : partUnrestored s (spillGo c level ret r s) := by
  unfold spillGo
  dsimp only
  refine partUnrestored_branch (partUnrestored_none s) ?_
  have stored := physUnrestored_same (fuseSide_engSet c (some r) s) (physUnrestored_storeCell c r.rsp
    (spillSeg ((engSet c (some r) s).core c) level).1 (spillSeg ((engSet c (some r) s).core c) level).2
    (spillOffset (segLimit (spillSeg ((engSet c (some r) s).core c) level).1.2 + 1) ret
      (if ret then (((engSet c (some r) s).core c).bank level).rsp else (((engSet c (some r) s).core c).bank level).osp).toNat)
    (((if ret then (((engSet c (some r) s).core c).bank level).rc else (((engSet c (some r) s).core c).bank level).oc).getLast?).getD 0) _)
  split
  · exact partUnrestored_none s
  · exact partUnrestored_some (unrestored_of_same (by simp))
  next h =>
    rw [h] at stored
    exact partUnrestored_some (Unrestored.before stored (by simp))
  next h =>
    rw [h] at stored
    exact partUnrestored_some (Unrestored.before stored (by simp))

theorem partUnrestored_spillOne (c : CoreId) (level : BitVec 3) (ret : Bool) (rsp : List LineRsp) (s : State) :
    partUnrestored s (spillOne c level ret rsp s) :=
  partUnrestored_branch (partUnrestored_none s) (partUnrestored_spillGo _ _ _ _ _)

theorem partUnrestored_fillGo (c : CoreId) (ret : Bool) (r : EngRun) (s : State) : partUnrestored s (fillGo c ret r s) := by
  unfold fillGo
  dsimp only
  refine partUnrestored_branch (partUnrestored_none s) ?_
  have loaded := physUnrestored_same (fuseSide_engSet c (some r) s) (physUnrestored_loadCell c r.rsp
    (spillSeg ((engSet c (some r) s).core c) ((engSet c (some r) s).core c).level).1
    (spillSeg ((engSet c (some r) s).core c) ((engSet c (some r) s).core c).level).2
    (spillOffset (segLimit (spillSeg ((engSet c (some r) s).core c) ((engSet c (some r) s).core c).level).1.2 + 1) ret
      ((if ret then ((engSet c (some r) s).core c).run.rsp else ((engSet c (some r) s).core c).run.osp).toNat - 1)) _)
  split
  · exact partUnrestored_none s
  · exact partUnrestored_some (unrestored_of_same (by simp))
  next h =>
    rw [h] at loaded
    exact partUnrestored_some (Unrestored.before loaded (by simp))
  next h =>
    rw [h] at loaded
    exact partUnrestored_some (Unrestored.before loaded (by simp))

theorem partUnrestored_fillOne (c : CoreId) (ret : Bool) (rsp : List LineRsp) (s : State) : partUnrestored s (fillOne c ret rsp s) :=
  partUnrestored_branch (partUnrestored_none s) (partUnrestored_fillGo _ _ _ _)

theorem partUnrestored_switchGo (c : CoreId) (out inn : Option Nat) (r : EngRun) (s : State) : partUnrestored s (switchGo c out inn r s) := by
  have load (u : State) (so : Unrestored s u) : partUnrestored s (match inn with
      | none => some (withCore c (fun k => { (k.rawBank 0 (bank0 0)) with st := .idle, lockRes := none, eng := none }) u)
      | some i => match loadSlot c r.rsp ((u.core c).sched.at i) u with
        | .missing => none
        | .wait n q w wr => some (engAsk c r n q w wr s)
        | .err _ pa s1 => some (switchError c i pa s1)
        | .ok _ s1 => some (enterSlot c i (engSet c none s1))) := by
    split
    · exact partUnrestored_some (so.before (by simp))
    next i =>
      have loaded := physUnrestored_loadSlot c r.rsp ((u.core c).sched.at i) u
      split
      · exact partUnrestored_none s
      · exact partUnrestored_some (unrestored_of_same (by simp))
      next h =>
        rw [h] at loaded
        exact partUnrestored_some ((so.trans loaded).before (by simp))
      next h =>
        rw [h] at loaded
        exact partUnrestored_some ((so.trans loaded).before (by simp))
  have begun : Unrestored s (engSet c (some r) s) := unrestored_of_same (by simp)
  unfold switchGo
  dsimp only
  split
  · exact load _ begun
  next o =>
    have saved := physUnrestored_saveSlot c r.rsp (((engSet c (some r) s).core c).sched.at o) (engSet c (some r) s)
    split
    · exact partUnrestored_none s
    · exact partUnrestored_some (unrestored_of_same (by simp))
    next h =>
      rw [h] at saved
      exact partUnrestored_some ((begun.trans saved).before (by simp))
    next h =>
      rw [h] at saved
      exact load _ (begun.trans saved)

theorem partUnrestored_switchStart (c : CoreId) (out inn : Option Nat) (rsp : List LineRsp) (s : State) :
    partUnrestored s (switchStart c out inn rsp s) :=
  partUnrestored_after (unrestored_of_same (fuseSide_withCore _ _ _)) (partUnrestored_switchGo _ _ _ _ _)

theorem partUnrestored_switchMore (c : CoreId) (rsp : List LineRsp) (s : State) : partUnrestored s (switchMore c rsp s) := by
  unfold switchMore
  split
  · split
    · exact partUnrestored_switchGo _ _ _ _ _
    · exact partUnrestored_none s
  · exact partUnrestored_none s

theorem partUnrestored_switchFrom (c : CoreId) (hdr : BitVec 8) (o i : Nat) (rsp : List LineRsp) (s : State) :
    partUnrestored s (switchFrom c hdr o i rsp s) := by
  unfold switchFrom
  dsimp only
  split
  · exact partUnrestored_branch (partUnrestored_none s) (partUnrestored_some (unrestored_of_same (by simp)))
  · exact partUnrestored_after (unrestored_of_same (fuseSide_setCore _ _ _)) (partUnrestored_switchStart _ _ _ _ _)

theorem partUnrestored_taskSwitchNow (c : CoreId) (hdr : BitVec 8) (rsp : List LineRsp) (s : State) :
    partUnrestored s (taskSwitchNow c hdr rsp s) := by
  unfold taskSwitchNow
  dsimp only
  have settled : Unrestored s (settleArm c s) := unrestored_of_same (by simp)
  refine partUnrestored_branch (partUnrestored_none s) (partUnrestored_branch (partUnrestored_after settled (partUnrestored_switchMore _ _ _))
    (partUnrestored_branch (partUnrestored_none s) ?_))
  split
  · split
    · exact partUnrestored_after settled (partUnrestored_switchStart _ _ _ _ _)
    · exact partUnrestored_none s
  · exact partUnrestored_after settled (partUnrestored_switchStart _ _ _ _ _)
  · refine partUnrestored_branch ?_ (partUnrestored_none s)
    split
    · exact partUnrestored_branch (partUnrestored_after settled (partUnrestored_switchFrom _ _ _ _ _ _)) (partUnrestored_none s)
    · exact partUnrestored_none s

theorem unrestored_answerEng (c : CoreId) (a : BankAnswer) (s : State) : Unrestored s (answerEng c a s) := by
  unfold answerEng
  split
  · exact .refl s
  · split
    · exact .refl s
    · dsimp only
      split
      · exact unrestored_getD (partUnrestored_spillGo _ _ _ _ _) (by simp)
      · exact unrestored_getD (partUnrestored_fillGo _ _ _ _) (by simp)
      · exact unrestored_getD (partUnrestored_switchGo _ _ _ _ _) (by simp)

/-! ## Weado -/

theorem unrestored_samSetupAccess (off : Nat) (s : State) : Unrestored s (samSetupAccess off s) := by
  unfold samSetupAccess
  dsimp only
  have written := unrestored_windowWrite .weado off s.weado.sam.be s.weado.sam.data s
  exact .branch (written.before (by simp)) (unrestored_of_same (by simp))

theorem unrestored_samGo (s : State) : Unrestored s (samGo s) := by
  unfold samGo
  dsimp only
  refine .branch (unrestored_of_same (by simp)) (.branch (unrestored_of_same (by simp)) (.branch (unrestored_of_same (by simp)) ?_))
  split
  · exact unrestored_samSetupAccess _ _
  · exact unrestored_of_same (by simp)
  · exact unrestored_of_same (by simp)

theorem unrestored_writeSamctl (v : W64) (s : State) : Unrestored s (writeSamctl v s) :=
  .branch (unrestored_of_same (by simp)) (.branch ((unrestored_samGo _).after (by simp)) (unrestored_of_same (by simp)))

theorem unrestored_writeWeado {feed : CoreId → BitVec 20 → State → State} (same : ∀ c p s, fuseSide (feed c p s) = fuseSide s) (off : Nat) (v : W64)
    (s : State) : Unrestored s (writeWeado feed off v s) := by
  unfold writeWeado
  dsimp only
  split
  · exact unrestored_of_same (by simp)
  · split
    · refine unrestored_of_same ?_
      split <;> simp [same]
    · split
      case h_2 => exact unrestored_writeSamctl _ _
      all_goals exact unrestored_of_same (by simp)

/-! ## One VCLK -/

theorem unrestored_deliverAnswer (x : ReqDest × Nat × BankAnswer) (s : State) : Unrestored s (deliverAnswer x s) := by
  obtain ⟨dest, n, a⟩ := x
  cases dest with
  | coreEng c => exact unrestored_answerEng _ _ _
  | load | lineWord | store | gather | sadd | prog | coreRead | coreWrite | lock | unlock | dmaRead | dmaWrite | sam | pair | scrub | repair =>
    exact unrestored_of_same (by simp [deliverAnswer])

theorem unrestored_vclk (s : State) : Unrestored s (vclk s) := by
  unfold vclk
  dsimp only
  have granted : fuseSide (grantCycle (qualRuns s) (presentProgs s)).2 = fuseSide s := by simp
  have answered := unrestored_foldl (fun s x => unrestored_deliverAnswer x s) (grantCycle (qualRuns s) (presentProgs s)).1
    (grantCycle (qualRuns s) (presentProgs s)).2
  exact (answered.after granted).before (by rw [fuseSide_wakeRecords, fuseSide_bootWatch])

end Sys2Proof.Proofs
end

section
/-! SUPPORT. What restores no fuse: every command (R501, R505, R565, R567). -/

namespace Sys2Proof.Proofs

open Sys2Proof.Machine Sys2Proof.Claims Sys2Proof.Laws

/-! ## The parts of commands that write fuses -/

theorem unrestored_warmRelease (s : State) : Unrestored s (warmRelease s) := by
  have inForce : Unrestored s { s with fuses := { s.fuses with now := s.fuses.lc }, rst := { s.rst with phase := .up } } :=
    unrestored_of_op rfl rfl rfl (.inl rfl)
  unfold warmRelease
  dsimp only
  exact inForce.before ((fuseSide_bootAgain _).trans (fuseSide_branch (fuseSide_wipeNow _) rfl))

theorem unrestored_goodLost (s : State) : Unrestored s (goodLost s) := by
  have logged : fuseSide (logRecord 0x0A unitSec 0 (s.pwr.out.zeroExtend 64) true (setPwr { s.pwr with goodlost := true } s)) = fuseSide s := by
    simp
  exact .branch (unrestored_of_same logged) ((unrestored_enterOff _).after logged)

theorem unrestored_partnerWarm (s : State) : Unrestored s (partnerWarm s) := (unrestored_warmReset _ _ _).after (fuseSide_takeNat s)

theorem unrestored_pairWordEffect (w : PairWord) (s : State) : Unrestored s (pairWordEffect w s) := by
  cases w with
  | warmReset => exact unrestored_partnerWarm s
  | enteredFenced | heartbeat | heartbeatAck | coldReset | wipe | power | resume | cancel | chain | fault | launch | drained | spare | roleReset
    | unfuse | freeze => exact unrestored_of_same (by simp [pairWordEffect])

theorem unrestored_selectRegister {code : Nat} {word : State → W64} {update : State → State} (h : ∀ s, Unrestored s (update s)) (s : State) :
    Unrestored s (selectRegister code word update s) :=
  .branch ((unrestored_wirUpdate _ s).trans ((unrestored_capture _ _).trans (h _))) (unrestored_wirUpdate _ s)

/-! ## Answers -/

/-- The state that an answer leads to, where it leads to one, has no fuse restored. -/
def outcomeUnrestored (s : State) (o : Host.Outcome State Fault Refusal) : Prop := ∀ t, o = .next t → Unrestored s t

theorem outcomeUnrestored_next {s t : State} (h : Unrestored s t) : outcomeUnrestored s (.next t) := fun _ e => Host.Outcome.next.inj e ▸ h

theorem outcomeUnrestored_refused (s : State) (r : Refusal) : outcomeUnrestored s (.refused r) := fun _ e => by cases e

theorem outcomeUnrestored_branch {s : State} {c : Prop} [Decidable c] {p q : Host.Outcome State Fault Refusal} (yes : outcomeUnrestored s p)
    (no : outcomeUnrestored s q) : outcomeUnrestored s (if c then p else q) := by
  split
  · exact yes
  · exact no

theorem outcomeUnrestored_onlyIf {s t : State} {ok : Bool} {why : String} (h : Unrestored s t) : outcomeUnrestored s (onlyIf ok why t) :=
  outcomeUnrestored_branch (outcomeUnrestored_next h) (outcomeUnrestored_refused _ _)

theorem outcomeUnrestored_orRefuse {s : State} {why : String} {o : Option State} (h : partUnrestored s o) :
    outcomeUnrestored s (orRefuse why o) := by
  cases o with
  | none => exact outcomeUnrestored_refused _ _
  | some t => exact outcomeUnrestored_next (h t rfl)

theorem outcomeUnrestored_owedFirst {o : Owed} {s : State} {f : State → Host.Outcome State Fault Refusal} (h : outcomeUnrestored s (f s)) :
    outcomeUnrestored s (owedFirst o f s) :=
  outcomeUnrestored_branch (outcomeUnrestored_next (unrestored_of_same rfl)) h

/-! ## Commands of one shape -/

theorem outcomeUnrestored_parcelCmd (p : PCtx) (w nxt : BitVec 20) (s : State) : outcomeUnrestored s (parcelCmd p w nxt s) :=
  outcomeUnrestored_branch (outcomeUnrestored_next (unrestored_of_same (fuseSide_startParcel _ _ _ _ _))) (outcomeUnrestored_refused _ _)

theorem outcomeUnrestored_windowCmd (who : Requester) (level : Nat) (read : Bool) {act : State → RspCode × W64 × State}
    (h : ∀ s, Unrestored s (act s).2.2) (s : State) : outcomeUnrestored s (windowCmd who level read act s) := by
  unfold windowCmd
  split
  · exact outcomeUnrestored_branch (outcomeUnrestored_next ((h s).before (by simp))) (outcomeUnrestored_refused _ _)
  · refine outcomeUnrestored_branch (outcomeUnrestored_next (unrestored_of_same (by simp)))
      (outcomeUnrestored_branch (outcomeUnrestored_next (unrestored_of_same (by simp))) (outcomeUnrestored_next ((h s).before ?_)))
    dsimp only
    rw [fuseSide_samEnd]
    exact fuseSide_branch (by simp) (by simp)
  · exact outcomeUnrestored_next ((h s).before (by simp))

theorem outcomeUnrestored_writeCmd (who : Requester) (off : Nat) (be : BitVec 8) (v : W64) (s : State) :
    outcomeUnrestored s (writeCmd who off be v s) :=
  outcomeUnrestored_windowCmd _ _ _ (fun s => unrestored_windowWrite _ _ _ _ s) s

theorem outcomeUnrestored_readCmd (who : Requester) (off : Nat) (s : State) : outcomeUnrestored s (readCmd who off s) :=
  outcomeUnrestored_windowCmd _ _ _ (fun s => unrestored_of_same (fuseSide_windowRead _ _ _ s)) s

theorem outcomeUnrestored_weadoWrite (off : Nat) (v : W64) (s : State) : outcomeUnrestored s (weadoWrite off v s) := by
  refine outcomeUnrestored_branch (outcomeUnrestored_refused _ _) (outcomeUnrestored_onlyIf ?_)
  exact ((unrestored_writeWeado (fun c p s => fuseSide_feedParcel c p s) _ _ _).after (fuseSide_setWeado _ _)).before (fuseSide_answerWd _ _)

theorem outcomeUnrestored_messageCmd {type : BitVec 8} {m : Msg} {handle : State → State} (same : ∀ s, fuseSide (handle s) = fuseSide s) {s t : State}
    (begun : fuseSide t = fuseSide s) : outcomeUnrestored s (messageCmd type m handle t) :=
  outcomeUnrestored_onlyIf (unrestored_of_same ((fuseSide_receive m same t).trans begun))

theorem outcomeUnrestored_coreResponse {o : Owed} {c : CoreId} {why : String} {f : State → Option State} {s : State} (h : partUnrestored s (f s)) :
    outcomeUnrestored s (coreResponse o c why f s) :=
  outcomeUnrestored_owedFirst (outcomeUnrestored_branch (outcomeUnrestored_orRefuse h) (outcomeUnrestored_refused _ _))

/-- Every command, by the shape of its meaning: commands of one shape by the lemma on that shape, every other by the part of the model that it runs. -/
theorem outcomeUnrestored_exec (i : Instr) (s : State) : outcomeUnrestored s (exec i s) := by
  cases i
  case nop | dup | drop | swap | rot | nip | tuck | pick | twoDup | twoDrop | push0 | push1 | pushm1 | tor | fromr | rfetch | rdrop |
      depth | add | sub | adc | sbc | neg | inc | dec | mul | mulhu | mulhs | divu | divs | modu | mods | min | max | minu | maxu | abs | and |
      or | xor | andn | invert | shl | shr | sar | rol | ror | popc | clz | ctz | bswap | sext32 | zext32 | ceq | cne | clt | cle | cgt | cge |
      cltu | cleu | cgtu | cgeu | tst | tstk | pusht | sett | clrt | nott | sel | ld64 | st64 | ld32u | ld32s | ld16u | ld16s | ld8u | ld8s |
      st32 | st16 | st8 | ld64p | st64p | brx | callx | ret | sync | fence | brk =>
    exact outcomeUnrestored_parcelCmd _ _ _ _
  case vissue | vwait | lit | litx | addi | cwr | cww | br | call | svc | ld | st | ldc | stc | lock | unlock | movb | saveu | savel | loadu |
      loadl | stm | ldm | invpg | invall | invwalk | eret | frtn | ack | eos | wait | rep | reservedParcel =>
    exact outcomeUnrestored_parcelCmd _ _ _ _
  case coreReset | calctlRequal | reqroleManager | reqroleSpare | reqroleFenced | slcmdProbe | slcmdAdmit | slcmdAppoint | slcmdRelease |
      slcmdFence | sltxSend | slrxPop | pairctlFuse | vsRepairStart | chainResume | chainCancel | watcharmGo | ringsetSet | ringsetGroup |
      flushdone | lccmdTransition | lccmdRaisesvn | lccmdWipe | keycmdProgram | keycmdRevoke | bootctlGo | dbgauthGo | setupRegisterWrite |
      evsrcSet | watchcfgEn | armall | dmaStart | dmaRestart | dmaCancel | pwrctlReq | vtoutWrite | pnlctlEvac | pnlctlCancel | watchdogKick =>
    exact outcomeUnrestored_writeCmd _ _ _ _ _
  case ringnextRead | vtinRead =>
    exact outcomeUnrestored_readCmd _ _ _
  case wdWrite | haltreq | debugResume | debugStep | dfeed | dpcWrite | dx0Write | dy0Write =>
    exact outcomeUnrestored_weadoWrite _ _ _
  case wdSelect | vtread | vtwrite =>
    exact outcomeUnrestored_onlyIf (unrestored_of_same (by simp))
  case coldResetRelease | debugReset | clockLost | qualPassStart | qualPassEnd | tempSample | linkMarginLow | linkRetrainEnd | snoopInvalidate |
      leaseExpiry | heartbeatRound | dephbTimer | slotDead | managerClaim | managerLeaseExpiry | deputyClaim | fuseTimeout | pairLinkRequest |
      pairLinkFailure | vsRepairDone | scrubStep | starvationOverride | wipeStart | wipeDone | chainCheck | triggerConsume | engdetTakeEffect |
      eventArrival | pollRead | powerTransitionStart | pwrAckTimeout | napWake | dozeWake | vbusSample | bootHeaderResponse | bootCopyDone |
      bootVerifyDone | panelPress | evacTimeout | presenceLoss | presenceGain | tamperTrip | coreWatchdogExpiry | clockReturn | attnRelease |
      tamperClose =>
    exact outcomeUnrestored_onlyIf (unrestored_of_same (by simp))
  case wfreezeWrite => exact outcomeUnrestored_weadoWrite 0x000 _ _
  case samGo => exact outcomeUnrestored_weadoWrite 0x008 _ _
  case pairctlUnfuse =>
    rw [exec, execPairctlUnfuse]
    refine outcomeUnrestored_windowCmd _ _ _ (fun s => ?_) s
    split
    · exact .refl s
    · exact unrestored_of_same (fuseSide_writePairctl _ _ _)
  case droopGuard => exact outcomeUnrestored_next (unrestored_of_same rfl)
  -- messages
  case heartbeat m => exact outcomeUnrestored_messageCmd (fun s => fuseSide_onHeartbeat m s) rfl
  case hback m => exact outcomeUnrestored_messageCmd (fun s => fuseSide_onHback m s) (fuseSide_deadFirst _ _)
  case dephb m => exact outcomeUnrestored_messageCmd (fun s => fuseSide_onDephb m s) rfl
  case probe m => exact outcomeUnrestored_messageCmd (fun s => fuseSide_onProbe m s) rfl
  case proberep m | alert m => exact outcomeUnrestored_messageCmd (fun s => fuseSide_queueMsg m s) rfl
  case admitMsg m => exact outcomeUnrestored_messageCmd (fun s => fuseSide_onAdmit m s) rfl
  case admitack m =>
    exact outcomeUnrestored_messageCmd (fun s => fuseSide_onAdmitack m s) (fuseSide_lateFirst (fun s => fuseSide_timeoutNow s) s)
  case appoint m => exact outcomeUnrestored_messageCmd (fun s => fuseSide_onAppoint m s) rfl
  case appointack m =>
    exact outcomeUnrestored_messageCmd (fun s => fuseSide_onAppointack m s) (fuseSide_lateFirst (fun s => fuseSide_timeoutNow s) s)
  case release m => exact outcomeUnrestored_messageCmd (fun s => fuseSide_onRelease m s) rfl
  case released m => exact outcomeUnrestored_messageCmd (fun s => fuseSide_onReleased m s) rfl
  case fenced m => exact outcomeUnrestored_messageCmd (fun s => fuseSide_enterFenced 2 true s) rfl
  case grpmirror m => exact outcomeUnrestored_messageCmd (fun s => fuseSide_onGrpmirror m s) rfl
  case grpack m => exact outcomeUnrestored_messageCmd (fun s => fuseSide_onGrpack m s) rfl
  case firmwareMessage m => exact outcomeUnrestored_onlyIf (unrestored_of_same (fuseSide_receive m (fun s => fuseSide_queueMsg m s) s))
  case reservedMessage m => exact outcomeUnrestored_onlyIf (unrestored_of_same (fuseSide_receive m (fun _ => rfl) s))
  -- the hub and pairs
  case roleResetDone => exact outcomeUnrestored_onlyIf (unrestored_of_same (fuseSide_partDone (fun s => fuseSide_roleReset s) s))
  case releaseDrainDone => exact outcomeUnrestored_onlyIf (unrestored_of_same (fuseSide_partDone (fun s => fuseSide_releaseDone s) s))
  case fuseComplete p => exact outcomeUnrestored_onlyIf (unrestored_of_same (fuseSide_fuseFinish p s))
  case admitTimeout =>
    rw [exec, execAdmitTimeout]
    split
    · exact outcomeUnrestored_onlyIf (unrestored_of_same (by simp))
    · exact outcomeUnrestored_refused _ _
  case appointTimeout =>
    rw [exec, execAppointTimeout]
    split
    · exact outcomeUnrestored_onlyIf (unrestored_of_same (by simp))
    · exact outcomeUnrestored_refused _ _
  case grpmirrorTimeout =>
    refine outcomeUnrestored_branch (outcomeUnrestored_orRefuse (partUnrestored_of_same (fun t h => ?_))) (outcomeUnrestored_refused _ _)
    obtain ⟨x, -, rfl⟩ := Option.map_eq_some_iff.mp h
    exact fuseSide_scanAdd x s
  case managerClaimResponse =>
    rw [exec, execManagerClaimResponse]
    refine outcomeUnrestored_owedFirst ?_
    exact outcomeUnrestored_onlyIf (unrestored_of_same (by simp))
  case deputyClaimResponse =>
    rw [exec, execDeputyClaimResponse]
    refine outcomeUnrestored_owedFirst ?_
    exact outcomeUnrestored_onlyIf (unrestored_of_same (by simp))
  case samResponse =>
    rw [exec, execSamResponse]
    refine outcomeUnrestored_owedFirst ?_
    exact outcomeUnrestored_onlyIf (unrestored_of_same (by simp))
  case pairLinkControlWord w => exact outcomeUnrestored_onlyIf (unrestored_pairWordEffect w s)
  -- resets, power and the service panel
  case coldResetAssert => exact outcomeUnrestored_onlyIf (unrestored_coldAssert s)
  case alwaysOnResetAssert => exact outcomeUnrestored_next (unrestored_alwaysOnAssert s)
  case aoporRelease t pnl => exact outcomeUnrestored_onlyIf ((unrestored_alwaysOnClear s).before (by simp))
  case startupStepDone =>
    rw [exec, execStartupStepDone]
    split
    · exact outcomeUnrestored_onlyIf (unrestored_stepDone _ s)
    · exact outcomeUnrestored_refused _ _
  case warmReset src =>
    cases src with
    | pin => exact outcomeUnrestored_onlyIf (unrestored_warmReset _ _ s)
    | rstctl who => exact outcomeUnrestored_writeCmd _ _ _ _ _
    | weado => exact outcomeUnrestored_onlyIf (.branch (unrestored_of_same (fuseSide_deny s)) (unrestored_warmReset _ _ s))
  case warmResetRelease => exact outcomeUnrestored_onlyIf (unrestored_warmRelease s)
  case pwrGoodLost => exact outcomeUnrestored_onlyIf (unrestored_goodLost s)
  case pwrAckToggle =>
    rw [exec, execPwrAckToggle]
    split
    · exact outcomeUnrestored_next (.branch (unrestored_of_same (fuseSide_setPwr _ _)) ((unrestored_stateInForce _ s).before (fuseSide_flushAfter _)))
    · exact outcomeUnrestored_refused _ _
  case powerTilePartDone =>
    rw [exec, execPowerTilePartDone]
    split
    · exact outcomeUnrestored_onlyIf (.branch ((unrestored_stateInForce _ s).before (fuseSide_flushAfter _)) (unrestored_of_same (fuseSide_driveReq _ _ _)))
    · exact outcomeUnrestored_refused _ _
  case flushBudgetExpiry =>
    refine outcomeUnrestored_orRefuse (partUnrestored_of_same (fun t h => ?_))
    obtain ⟨f, -, rfl⟩ := Option.map_eq_some_iff.mp h
    exact fuseSide_flushStep4 _ f s
  case flushDrainDone =>
    rw [exec, execFlushDrainDone]
    split
    · split
      · exact outcomeUnrestored_onlyIf (unrestored_flushEnd _ _ s)
      · exact outcomeUnrestored_refused _ _
    · exact outcomeUnrestored_refused _ _
  case evacSafe => exact outcomeUnrestored_orRefuse (partUnrestored_of_same (fun _ h => fuseSide_evacStep s h))
  case watchdogWarning wd =>
    cases wd with
    | core c => exact outcomeUnrestored_onlyIf (unrestored_of_same (fuseSide_coreWdWarn c s))
    | tile => exact outcomeUnrestored_onlyIf (unrestored_of_same (fuseSide_tileWdWarn s))
  case tileWatchdogExpiry => exact outcomeUnrestored_onlyIf (unrestored_tileWdExpire s)
  -- the Vector Store and the engine
  case bankGrantCycle => exact outcomeUnrestored_onlyIf (.branch (unrestored_vclk s) (unrestored_of_same (fuseSide_tickEngtime s)))
  case chainProgramRead c rsp =>
    rw [exec, execChainProgramRead]
    split
    · exact outcomeUnrestored_refused _ _
    · exact outcomeUnrestored_branch (outcomeUnrestored_refused _ _)
        (outcomeUnrestored_orRefuse (partUnrestored_of_same (fun _ h => fuseSide_readProgram _ _ _ _ h)))
  case chainLaunch =>
    refine outcomeUnrestored_branch (outcomeUnrestored_refused _ _) (outcomeUnrestored_orRefuse (partUnrestored_of_same (fun t h => ?_)))
    obtain ⟨c, -, rfl⟩ := Option.map_eq_some_iff.mp h
    exact fuseSide_launchGroup c s
  case chainTimeTick slot =>
    rw [exec, execChainTimeTick]
    split
    · exact outcomeUnrestored_refused _ _
    · exact outcomeUnrestored_onlyIf (unrestored_of_same (by simp))
  case chainComplete slot =>
    rw [exec, execChainComplete]
    split
    · exact outcomeUnrestored_refused _ _
    · exact outcomeUnrestored_onlyIf (unrestored_of_same (by simp))
  case streamLineResponse slot line code data =>
    rw [exec, execStreamLineResponse]
    refine outcomeUnrestored_owedFirst ?_
    refine outcomeUnrestored_orRefuse (partUnrestored_of_same (fun t h => ?_))
    obtain ⟨ch, -, h⟩ := Option.bind_eq_some_iff.mp h
    obtain ⟨u, answered, rfl⟩ := Option.map_eq_some_iff.mp h
    exact (fuseSide_wakeRecords u).trans (fuseSide_lineResponse _ _ _ _ _ _ answered)
  case streamWalkResponse slot page code entry =>
    rw [exec, execStreamWalkResponse]
    refine outcomeUnrestored_owedFirst ?_
    refine outcomeUnrestored_orRefuse (partUnrestored_of_same (fun t h => ?_))
    obtain ⟨u, answered, rfl⟩ := Option.map_eq_some_iff.mp h
    exact (fuseSide_wakeRecords u).trans (fuseSide_walkResponse _ _ _ _ _ answered)
  case streamWriteResponse slot line code =>
    rw [exec, execStreamWriteResponse]
    refine outcomeUnrestored_owedFirst ?_
    refine outcomeUnrestored_orRefuse (partUnrestored_of_same (fun t h => ?_))
    obtain ⟨ch, -, h⟩ := Option.bind_eq_some_iff.mp h
    obtain ⟨u, answered, rfl⟩ := Option.map_eq_some_iff.mp h
    exact (fuseSide_wakeRecords u).trans (fuseSide_writeResponse _ _ _ _ _ answered)
  case journalRecordIssue slot =>
    exact outcomeUnrestored_branch (outcomeUnrestored_refused _ _)
      (outcomeUnrestored_orRefuse (partUnrestored_of_same (fun _ h => fuseSide_journalIssue _ _ h)))
  case journalWriteResponse slot code =>
    rw [exec, execJournalWriteResponse]
    refine outcomeUnrestored_owedFirst ?_
    exact outcomeUnrestored_orRefuse (partUnrestored_of_same (fun _ h => fuseSide_journalAnswer _ _ _ h))
  -- the cores
  case interruptEntry c hdr => exact outcomeUnrestored_orRefuse (partUnrestored_of_same (fun _ h => fuseSide_interruptNow _ _ _ h))
  case coreHalt c hdr => exact outcomeUnrestored_orRefuse (partUnrestored_of_same (fun _ h => fuseSide_haltNow _ _ _ h))
  case corecfgTakeEffect c => exact outcomeUnrestored_orRefuse (partUnrestored_of_same (fun _ h => fuseSide_corecfgEffect _ _ h))
  case stackSpill c level ret rsp => exact outcomeUnrestored_orRefuse (partUnrestored_spillOne _ _ _ _ _)
  case stackFill c ret rsp => exact outcomeUnrestored_orRefuse (partUnrestored_fillOne _ _ _ _)
  case taskSwitch c hdr rsp => exact outcomeUnrestored_orRefuse (partUnrestored_taskSwitchNow _ _ _ _)
  case divideResult c =>
    exact outcomeUnrestored_branch (outcomeUnrestored_orRefuse (partUnrestored_of_same (fun _ h => fuseSide_divideDone _ _ h)))
      (outcomeUnrestored_refused _ _)
  case lineFillResponse c fetch line code data =>
    exact outcomeUnrestored_coreResponse (partUnrestored_of_same (fun _ h => fuseSide_fillResponse _ _ _ _ _ _ h))
  case storeDrainResponse c code data => exact outcomeUnrestored_coreResponse (partUnrestored_drainResponse _ _ _ _)
  case writebackResponse c line code =>
    exact outcomeUnrestored_coreResponse (partUnrestored_of_same (fun _ h => fuseSide_writebackDone _ _ _ _ h))
  case pageWalkResponse c ea code entry =>
    have answered : outcomeUnrestored s (coreResponse (.walk c ea) c "no walk reads that entry" (coreWalkResponse c ea code entry) s) :=
      outcomeUnrestored_coreResponse (partUnrestored_of_same (fun _ h => fuseSide_coreWalkResponse _ _ _ _ _ h))
    rw [exec, execPageWalkResponse]
    split
    next h => exact outcomeUnrestored_next ((answered _ h).before (fuseSide_wakeWalks _))
    · exact answered
  -- rings and DMA
  case watchReadResponse entry code data =>
    exact outcomeUnrestored_orRefuse (partUnrestored_of_same (fun _ h => fuseSide_watchResponse _ _ _ _ h))
  case summaryAddResponse entry code => exact outcomeUnrestored_orRefuse (partUnrestored_of_same (fun _ h => fuseSide_addResponse _ _ _ h))
  case groupReadResponse entry k code data =>
    exact outcomeUnrestored_orRefuse (partUnrestored_of_same (fun _ h => fuseSide_groupResponse _ _ _ _ h))
  case dmaRequestGrant =>
    exact outcomeUnrestored_branch (outcomeUnrestored_refused _ _) (outcomeUnrestored_orRefuse (partUnrestored_map
      (partUnrestored_of_same (fun _ h => fuseSide_dmaGrant h)) (fun s => fuseSide_bootWatch s)))
  case dmaReadResponse ch tag code data =>
    rw [exec, execDmaReadResponse]
    refine outcomeUnrestored_owedFirst ?_
    exact outcomeUnrestored_orRefuse (partUnrestored_map
      (partUnrestored_of_same (fun _ h => fuseSide_dmaReadResponse _ _ _ _ _ h)) (fun s => fuseSide_bootWatch s))
  case dmaWriteResponse ch tag code =>
    rw [exec, execDmaWriteResponse]
    refine outcomeUnrestored_owedFirst ?_
    exact outcomeUnrestored_orRefuse (partUnrestored_map
      (partUnrestored_of_same (fun _ h => fuseSide_dmaWriteResponse _ _ _ _ h)) (fun s => fuseSide_bootWatch s))
  -- security and debug
  case fuseCommandDone =>
    refine outcomeUnrestored_orRefuse (fun t h => ?_)
    obtain ⟨op, runs, rfl⟩ := Option.map_eq_some_iff.mp h
    exact unrestored_fuseDone runs
  case debugVerifyDone =>
    refine outcomeUnrestored_orRefuse (partUnrestored_of_same (fun t h => ?_))
    obtain ⟨r, -, rfl⟩ := Option.map_eq_some_iff.mp h
    exact fuseSide_authDone r s
  case wdRead => exact outcomeUnrestored_branch (outcomeUnrestored_refused _ _) (outcomeUnrestored_onlyIf (unrestored_of_same (by simp)))
  case wdReservedCommand cmd =>
    exact outcomeUnrestored_branch (outcomeUnrestored_refused _ _) (outcomeUnrestored_onlyIf (unrestored_of_same (by simp)))
  case tracePortTransfer =>
    exact outcomeUnrestored_branch (outcomeUnrestored_onlyIf (unrestored_of_same (by simp))) (outcomeUnrestored_refused _ _)
  -- the test wrapper
  case wrstnAssert => exact outcomeUnrestored_onlyIf (unrestored_wrstn s)
  case wsBypass | wsSafe | wsClamp => exact outcomeUnrestored_onlyIf (unrestored_wirUpdate _ s)
  case wsExtest | wsIntest | wsPreload => exact outcomeUnrestored_onlyIf ((unrestored_wirUpdate _ s).trans (unrestored_wbrUpdate _ _))
  case widcode | wfuserd => exact outcomeUnrestored_onlyIf ((unrestored_wirUpdate _ s).trans (unrestored_capture _ _))
  case wmbist => exact outcomeUnrestored_onlyIf (unrestored_selectRegister (fun s => unrestored_mbistUpdate _ s) s)
  case wrepair => exact outcomeUnrestored_onlyIf (unrestored_selectRegister (fun s => unrestored_wrepairUpdate _ s) s)
  case mbistStart => exact outcomeUnrestored_onlyIf (unrestored_mbistUpdate _ s)
  case mbistDone => exact outcomeUnrestored_onlyIf (unrestored_mbistEnd s)
  case repairFuseProgram => exact outcomeUnrestored_onlyIf (unrestored_wrepairUpdate _ s)
  case repairFuseDone =>
    refine outcomeUnrestored_orRefuse (fun t h => ?_)
    obtain ⟨x, -, rfl⟩ := Option.map_eq_some_iff.mp h
    exact unrestored_fuseBlown _ _ s
  -- OVER, which a case cannot name: the word is Lean's own
  next => exact outcomeUnrestored_parcelCmd _ _ _ _

/-! ## Steps -/

theorem fuseSide_idleTick (s : State) : fuseSide (idleTick s) = fuseSide s := by
  simp [idleTick, tickWatchdogs, tickHub, tickAotime]

/-- Settles O60: the front command runs on the queue's rest, and no command restores a fuse (`outcomeUnrestored_exec`); on an empty queue one AOCLK
passes, which touches none. -/
theorem fusesAreNeverRestored : Obligations.FusesAreNeverRestored := by
  unfold Obligations.FusesAreNeverRestored
  intro s t sound stepped
  cases h : s.pending with
  | nil =>
    rw [step_empty h] at stepped
    obtain rfl := Host.Outcome.next.inj stepped
    have ticked : Unrestored s (idleTick s) := unrestored_of_same (fuseSide_idleTick s)
    exact ⟨ticked.sound sound, ticked.blown sound, ticked.queue.trans h⟩
  | cons i rest =>
    rw [step_front h] at stepped
    have taken : FusesSound { s with pending := rest } := ⟨sound.listed, sound.forward, sound.rises, sound.empty, sound.once⟩
    have ran := outcomeUnrestored_exec i { s with pending := rest } t stepped
    exact ⟨ran.sound taken, ran.blown taken, ran.queue⟩

end Sys2Proof.Proofs
end

section
/-! SUPPORT. Failed boots, and the test wrapper: instructions, memory test and repair fuses (R507, R558 to R568). -/

namespace Sys2Proof.Proofs

open Sys2Proof.Machine Sys2Proof.Claims Sys2Proof.Laws

/-! ## Failed boots -/

/-- A record is counted, and changes nothing else than the log and what an arrival on MCHK changes. -/
theorem logRecord_counts (kind unit : Nat) (addr : BitVec 52) (detail : W64) (mchk : Bool) (s : State) : ∃ l,
    logRecord kind unit addr detail mchk s = (if mchk then arrive srcMchk { s with log := l } else { s with log := l }) ∧
    l.wcount = s.log.wcount + 1 ∧ l.aotime = s.log.aotime := ⟨_, rfl, rfl, rfl⟩

theorem logRecord_mchk (kind unit : Nat) (addr : BitVec 52) (detail : W64) (s : State) : ∃ l ev cores pwr,
    logRecord kind unit addr detail true s = { s with log := l, ev := ev, cores := cores, pwr := pwr } ∧ l.wcount = s.log.wcount + 1 ∧
    l.aotime = s.log.aotime := by
  obtain ⟨l, logged, counted, time⟩ := logRecord_counts kind unit addr detail true s
  obtain ⟨ev, cores, pwr, arrived⟩ := arrive_form srcMchk { s with log := l }
  exact ⟨l, ev, cores, pwr, logged.trans ((if_pos rfl).trans arrived), counted, time⟩

/-- What a channel of the DMA engine does when its accesses have come back: it may end, and make an arrival (R415, R417, R418). -/
theorem dmaSettle_form (ch : Fin 64) (s : State) : ∃ d ev cores pwr,
    dmaSettle ch s = { s with dma := d, ev := ev, cores := cores, pwr := pwr } := by
  have arrives (n : Nat) (k : Chan) : ∃ d ev cores pwr, arrive n (setChan ch k s) = { s with dma := d, ev := ev, cores := cores, pwr := pwr } := by
    obtain ⟨ev, cores, pwr, arrived⟩ := arrive_form n (setChan ch k s)
    exact ⟨_, ev, cores, pwr, arrived⟩
  have stays : ∃ d ev cores pwr, s = { s with dma := d, ev := ev, cores := cores, pwr := pwr } := ⟨_, _, _, _, rfl⟩
  unfold dmaSettle
  dsimp only
  split
  · exact stays
  · split
    · split
      · exact arrives _ _
      · exact stays
    · split
      · exact arrives _ _
      · exact stays
    · split
      · exact ⟨_, _, _, _, rfl⟩
      · exact stays

theorem dmaCancelChan_form (ch : Fin 64) (s : State) : ∃ d ev cores pwr,
    dmaCancelChan ch s = { s with dma := d, ev := ev, cores := cores, pwr := pwr } := by
  unfold dmaCancelChan
  dsimp only
  split
  · obtain ⟨d, ev, cores, pwr, settled⟩ := dmaSettle_form ch (setChan ch { s.chan ch with stop := .cancel } s)
    exact ⟨d, ev, cores, pwr, settled⟩
  · exact ⟨_, _, _, _, rfl⟩
  · exact ⟨_, _, _, _, rfl⟩

/-- R507, R515: what a boot that fails leaves. -/
theorem bootFail_form (cause : Nat) (s : State) : ∃ d p l ev cores pwr, bootFail cause s = { s with
      boot := { s.boot with state := 4, cause := BitVec.ofNat 4 cause, step := .none }
      vs := { s.vs with wipePending := true, wipeRow := 7680 }
      panel := { s.panel with fcause := s.panel.fcause ||| 1 }
      dma := d, pair := p, log := l, ev := ev, cores := cores, pwr := pwr } ∧ l.wcount = s.log.wcount + 1 := by
  have stopped : ∃ d ev cores pwr, (if s.boot.step == .copy then
      dmaCancelChan 63 (setBoot { s.boot with state := 4, cause := BitVec.ofNat 4 cause, step := .none } s)
      else setBoot { s.boot with state := 4, cause := BitVec.ofNat 4 cause, step := .none } s) =
      { s with boot := { s.boot with state := 4, cause := BitVec.ofNat 4 cause, step := .none }, dma := d, ev := ev, cores := cores, pwr := pwr } := by
    split
    · obtain ⟨d, ev, cores, pwr, cancelled⟩ := dmaCancelChan_form 63
        (setBoot { s.boot with state := 4, cause := BitVec.ofNat 4 cause, step := .none } s)
      exact ⟨d, ev, cores, pwr, cancelled⟩
    · exact ⟨_, _, _, _, rfl⟩
  obtain ⟨d, ev, cores, pwr, stopped⟩ := stopped
  unfold bootFail
  dsimp only
  rw [stopped]
  obtain ⟨p, sent⟩ := sendPair_form .wipe (wipeTrigger
    { s with boot := { s.boot with state := 4, cause := BitVec.ofNat 4 cause, step := .none }, dma := d, ev := ev, cores := cores, pwr := pwr })
  rw [sent]
  obtain ⟨l, ev', cores', pwr', logged, counted, -⟩ := logRecord_mchk 0x07 unitSec (BitVec.ofNat 52 (imageAddr s.boot.cur.2)) (BitVec.ofNat 64 cause)
    { s with
      boot := { s.boot with state := 4, cause := BitVec.ofNat 4 cause, step := .none }
      vs := { s.vs with wipePending := true, wipeRow := 7680 }
      panel := { s.panel with fcause := s.panel.fcause ||| 1 }
      dma := d, pair := p, ev := ev, cores := cores, pwr := pwr }
  exact ⟨d, p, l, ev', cores', pwr', logged, counted⟩

/-- A wipe that is tripped: WIPE_PENDING, and a boot under way fails (R515). -/
theorem wipeTrip_facts (s : State) : (wipeTrip s).vs.wipePending = true ∧ (wipeTrip s).fuses = s.fuses ∧ (wipeTrip s).vs.mem = s.vs.mem ∧
    (wipeTrip s).role = s.role := by
  obtain ⟨p, sent⟩ := sendPair_form .wipe (wipeTrigger s)
  unfold wipeTrip bootWiped
  rw [sent]
  split
  · obtain ⟨d, p, l, ev, cores, pwr, failed, -⟩ := bootFail_form 7 { wipeTrigger s with pair := p }
    rw [failed]
    exact ⟨rfl, rfl, rfl, rfl⟩
  · exact ⟨rfl, rfl, rfl, rfl⟩

/-! ## The first test instruction (R561) -/

theorem wrap_of_fuseSide {s t : State} (same : fuseSide t = fuseSide s) : t.wrap = s.wrap := congrArg (fun x => x.2.1) same

theorem fuses_of_fuseSide {s t : State} (same : fuseSide t = fuseSide s) : t.fuses = s.fuses := congrArg (fun x => x.1) same

theorem bootWiped_wipePending {s : State} (pending : s.vs.wipePending = true) : (bootWiped s).vs.wipePending = true := by
  unfold bootWiped
  split
  · obtain ⟨d, p, l, ev, cores, pwr, failed, -⟩ := bootFail_form 7 s
    rw [failed]
  · exact pending

/-- Core `c` is held as RUN = 0 holds it, with nothing left to store. -/
def coreOff (c : CoreId) (s : State) : Prop := (s.core c).st = .off ∧ (s.core c).sb = []

/-- A core is struck: it is held, its entries are orphans. -/
def strikeCore (s : State) (c : CoreId) : State := orphanEntries c (clearCore c s)

theorem strikeCore_off (c : CoreId) (s : State) : coreOff c (strikeCore s c) := by
  obtain ⟨dbg, cleared⟩ := (cleared_clearCore c s).this.1
  have core : (strikeCore s c).core c = { core0 with dbg := dbg } := cleared
  rw [coreOff, core]
  exact ⟨rfl, rfl⟩

theorem strikeCore_keepsOff (d c : CoreId) {s : State} (off : coreOff c s) : coreOff c (strikeCore s d) := by
  by_cases same : c = d
  · exact same ▸ strikeCore_off c s
  · have kept := ((cleared_clearCore d s).other c same).1
    exact ⟨(congrArg Core.st kept).trans off.1, (congrArg Core.sb kept).trans off.2⟩

theorem strikeAll_off (c : CoreId) (s : State) : coreOff c (fours.foldl strikeCore s) := by
  show coreOff c (strikeCore (strikeCore (strikeCore (strikeCore s 0) 1) 2) 3)
  fin_cases c
  · exact strikeCore_keepsOff 3 _ (strikeCore_keepsOff 2 _ (strikeCore_keepsOff 1 _ (strikeCore_off 0 _)))
  · exact strikeCore_keepsOff 3 _ (strikeCore_keepsOff 2 _ (strikeCore_off 1 _))
  · exact strikeCore_keepsOff 3 _ (strikeCore_off 2 _)
  · exact strikeCore_off 3 _

theorem strikeCore_wipePending (s : State) (c : CoreId) : (strikeCore s c).vs.wipePending = s.vs.wipePending := by
  rw [strikeCore, orphanEntries]
  exact (cleared_clearCore c s).vs.2.2

theorem strikeAll_wipePending (s : State) : (fours.foldl strikeCore s).vs.wipePending = s.vs.wipePending :=
  foldl_field (fun s => s.vs.wipePending) strikeCore_wipePending fours s

theorem testHold_held {s : State} (held : s.wrap.hold = true) : testHold s = s := by rw [testHold, if_pos held]

/-- The first test instruction holds every core as RUN = 0 holds it, and a wipe is pending. -/
theorem testHold_first {s : State} (free : s.wrap.hold = false) : (testHold s).wrap = { s.wrap with hold := true } ∧
    (testHold s).vs.wipePending = true ∧ (testHold s).fuses = s.fuses ∧ ∀ c : CoreId, coreOff c (testHold s) := by
  have same : fuseSide (fours.foldl strikeCore (bootWiped (wipeTrigger s))) = fuseSide s := by simp [strikeCore]
  have wiped : (fours.foldl strikeCore (bootWiped (wipeTrigger s))).vs.wipePending = true :=
    (strikeAll_wipePending _).trans (bootWiped_wipePending rfl)
  have off (c : CoreId) := strikeAll_off c (bootWiped (wipeTrigger s))
  have form : testHold s = setWrap { (fours.foldl strikeCore (bootWiped (wipeTrigger s))).wrap with hold := true }
      (fours.foldl strikeCore (bootWiped (wipeTrigger s))) := by
    have each : (fun s c => orphanEntries c (clearCore c s)) = strikeCore := rfl
    simp only [testHold, free, Bool.false_eq_true, if_false, each]
  rw [form]
  generalize fours.foldl strikeCore (bootWiped (wipeTrigger s)) = u at same wiped off
  have fuses := fuses_of_fuseSide same
  rw [wrap_of_fuseSide same]
  exact ⟨rfl, wiped, fuses, off⟩

/-! ## The instruction register (R559, R560) -/

theorem wirUpdate_plain {code : Nat} (plain : isTestCode code = false) (s : State) : wirUpdate code s =
    { s with wrap := { s.wrap with wirCap := wirCapture s, wir := BitVec.ofNat 4 code, refused := false } } := by
  unfold wirUpdate
  rw [plain]
  rfl

theorem testAllowed_iff (s : State) : testAllowed s = true ↔
    (s.fuses.now = 0 ∨ s.fuses.now = 1 ∨ s.fuses.now = 4) ∧ s.role.role = .spare := by
  simp [testAllowed, or_assoc]

theorem wirUpdate_refused {code : Nat} (test : isTestCode code = true) {s : State} (no : testAllowed s = false) : wirUpdate code s =
    { s with wrap := { s.wrap with wirCap := wirCapture s, wir := 0, refused := true } } := by
  unfold wirUpdate
  have no' : testAllowed (setWrap { s.wrap with wirCap := wirCapture s } s) = false := no
  dsimp only
  rw [if_pos test, if_neg (by simp [no'])]
  rfl

theorem wirUpdate_taken {code : Nat} (test : isTestCode code = true) {s : State} (yes : testAllowed s = true) : wirUpdate code s =
    (let held := testHold { s with wrap := { s.wrap with wirCap := wirCapture s } }
     { held with wrap := { held.wrap with wir := BitVec.ofNat 4 code, refused := false } }) := by
  unfold wirUpdate
  have yes' : testAllowed (setWrap { s.wrap with wirCap := wirCapture s } s) = true := yes
  dsimp only
  rw [if_pos test, if_pos yes']
  rfl

theorem exec_wrapper {s t : State} (on : switchedOn s = true) : wrapCmd s t = .next t := onlyIf_of_true on

/-- A test register is selected: its capture, then its update. -/
theorem selectRegister_taken {code : Nat} (test : isTestCode code = true) (small : code < 16) {s : State} (yes : testAllowed s = true)
    (word : State → W64) (update : State → State) : selectRegister code word update s =
      update (capture (word (wirUpdate code s)) (wirUpdate code s)) := by
  refine if_pos ?_
  rw [wirUpdate_taken test yes]
  exact Nat.mod_eq_of_lt small

theorem selectRegister_refused {code : Nat} (test : isTestCode code = true) {s : State} (no : testAllowed s = false)
    (word : State → W64) (update : State → State) : selectRegister code word update s =
      { s with wrap := { s.wrap with wirCap := wirCapture s, wir := 0, refused := true } } := by
  have other : (0 : BitVec 4).toNat ≠ code := by rintro rfl; cases test
  rw [selectRegister, wirUpdate_refused test no]
  exact if_neg other

theorem wbrUpdate_other {s : State} (other : s.wrap.wir = 0) (cells : List (Nat × Bool)) : wbrUpdate cells s = s :=
  if_neg (by rw [other]; decide)

theorem wbrUpdate_selected {s : State} (wir : s.wrap.wir = 1 ∨ s.wrap.wir = 2 ∨ s.wrap.wir = 4) (cells : List (Nat × Bool)) :
    wbrUpdate cells s = { s with wrap := { s.wrap with
      wbr := cells.foldl (fun t c => if c.1 < 33272 then Tab.set false t c.1 c.2 else t) s.wrap.wbr } } :=
  if_pos (by simpa [or_assoc] using wir)

/-! ## MBIST and repair fuses (R563 to R567) -/

theorem mbistUpdate_start {v : W64} {s : State} (start : bitAt 2 v = true) (idle : s.wrap.mbusy = false) (algo : v.extractLsb' 0 2 ≠ (3 : BitVec 2))
    (free : s.wrap.rbusy = none) : mbistUpdate v s = { s with
      wrap := { s.wrap with
        algo := v.extractLsb' 0 2, banksel := v.extractLsb' 6 10, mbusy := true, done := false, fail := false, nfail := 0, runs := s.wrap.runs + 1 }
      vs := { s.vs with mem := ⟨some (s.wrap.runs + 1), [], []⟩ } } :=
  if_pos (by simpa [start, idle, free] using algo)

theorem mbistUpdate_stay {v : W64} {s : State} (stay : bitAt 2 v = false ∨ s.wrap.mbusy = true ∨ v.extractLsb' 0 2 = (3 : BitVec 2)) :
    mbistUpdate v s = { s with wrap := { s.wrap with algo := v.extractLsb' 0 2, banksel := v.extractLsb' 6 10 } } :=
  if_neg (by rcases stay with h | h | h <;> simp [h])

theorem wrepairUpdate_stay {v : W64} (stay : bitAt 12 v = false) (s : State) : wrepairUpdate v s =
    { s with wrap := { s.wrap with lbank := v.extractLsb' 0 10, spare := v.extractLsb' 10 2 } } := if_pos (by simp [stay])

theorem wrepairUpdate_program {v : W64} (program : bitAt 12 v = true) (s : State) : wrepairUpdate v s =
    (if fuseRefused (v.extractLsb' 0 10) (v.extractLsb' 10 2) s then
      { s with wrap := { s.wrap with lbank := v.extractLsb' 0 10, spare := v.extractLsb' 10 2, rerr := true } }
    else { s with wrap := { s.wrap with
      lbank := v.extractLsb' 0 10, spare := v.extractLsb' 10 2, rerr := false, rbusy := some (v.extractLsb' 10 2, v.extractLsb' 0 10) } }) :=
  if_neg (by simp [program])

/-- R567: what refuses to blow a repair fuse. -/
theorem fuseRefused_iff (lb : BitVec 10) (sp : BitVec 2) (s : State) : fuseRefused lb sp s = true ↔
    s.wrap.rbusy.isSome = true ∨ sp = 3 ∨ Tab.get 0 s.wrap.fuses sp.toNat ≠ 0 ∨ 1020 < lb.toNat ∨
    (∃ n, n < 3 ∧ (Tab.get 0 s.wrap.fuses n).getLsbD 10 = true ∧ (Tab.get 0 s.wrap.fuses n).truncate 10 = lb) ∨
    ∃ r, s.wrap.lastRun = some r ∧ Config.mbistFails r (1021 + sp.toNat) = true := by
  have named : [0, 1, 2].any (fun n => fuseValid (s.fuseOf n) && (s.fuseOf n).truncate 10 == lb) = true ↔
      ∃ n, n < 3 ∧ (Tab.get 0 s.wrap.fuses n).getLsbD 10 = true ∧ (Tab.get 0 s.wrap.fuses n).truncate 10 = lb := by
    rw [List.any_eq_true]
    constructor
    · rintro ⟨n, mem, hit⟩
      refine ⟨n, ?_, by simpa [fuseValid, State.fuseOf] using hit⟩
      simp only [List.mem_cons, List.not_mem_nil, or_false] at mem
      omega
    · rintro ⟨n, below, hit⟩
      refine ⟨n, ?_, by simpa [fuseValid, State.fuseOf] using hit⟩
      simp only [List.mem_cons, List.not_mem_nil, or_false]
      omega
  have failed : (match s.wrap.lastRun with
      | some r => Config.mbistFails r (1021 + sp.toNat)
      | none => false) = true ↔ ∃ r, s.wrap.lastRun = some r ∧ Config.mbistFails r (1021 + sp.toNat) = true := by
    cases s.wrap.lastRun <;> simp
  unfold fuseRefused
  rw [Bool.or_eq_true, Bool.or_eq_true, Bool.or_eq_true, Bool.or_eq_true, Bool.or_eq_true, named]
  refine (or_congr Iff.rfl failed).trans ?_
  simp only [State.fuseOf, beq_iff_eq, bne_iff_ne, decide_eq_true_eq, gt_iff_lt, or_assoc]

theorem mbist_start_bits (v : W64) : bitAt 2 (v ||| 4) = true ∧ (v ||| 4).extractLsb' 0 2 = v.extractLsb' 0 2 ∧
    (v ||| 4).extractLsb' 6 10 = v.extractLsb' 6 10 := by
  refine ⟨by simp [bitAt], ?_, ?_⟩ <;> rw [BitVec.extractLsb'_or] <;> simp

theorem mbist_plain_bits (v : W64) : bitAt 2 (v &&& ~~~ 4) = false ∧ (v &&& ~~~ 4).extractLsb' 0 2 = v.extractLsb' 0 2 ∧
    (v &&& ~~~ 4).extractLsb' 6 10 = v.extractLsb' 6 10 := by
  refine ⟨by simp [bitAt], ?_, ?_⟩ <;> rw [BitVec.extractLsb'_and]
  · exact BitVec.and_allOnes
  · exact BitVec.and_allOnes

theorem wrepair_program_bits (v : W64) : bitAt 12 (v ||| 0x1000) = true ∧ (v ||| 0x1000).extractLsb' 0 10 = v.extractLsb' 0 10 ∧
    (v ||| 0x1000).extractLsb' 10 2 = v.extractLsb' 10 2 := by
  refine ⟨by simp [bitAt], ?_, ?_⟩ <;> rw [BitVec.extractLsb'_or] <;> simp

theorem wrepair_plain_bits (v : W64) : bitAt 12 (v &&& ~~~ 0x1000) = false ∧ (v &&& ~~~ 0x1000).extractLsb' 0 10 = v.extractLsb' 0 10 ∧
    (v &&& ~~~ 0x1000).extractLsb' 10 2 = v.extractLsb' 10 2 := by
  refine ⟨by simp [bitAt], ?_, ?_⟩ <;> rw [BitVec.extractLsb'_and]
  · exact BitVec.and_allOnes
  · exact BitVec.and_allOnes

/-- Settles O59: each instruction is an update of the WIR (`wirUpdate_plain`, `wirUpdate_taken`, `wirUpdate_refused`), and then of the register that
it selects. -/
theorem wrapperCommands : Obligations.WrapperCommands := by
  unfold Obligations.WrapperCommands
  refine ⟨fun s on => exec_wrapper on, fun s => rfl, ?plain, ?refused, ?taken, ?mbistStart, ?mbistDone, ?program, ?blown⟩
  case plain =>
    intro s on loaded
    refine ⟨?_, fun cells => ?_, ?_, ?_⟩
    · exact (exec_wrapper on).trans (by rw [wirUpdate_plain rfl]; rfl)
    · refine (exec_wrapper on).trans ?_
      rw [wirUpdate_plain rfl, wbrUpdate_selected (.inr (.inr rfl))]
      rfl
    · exact (exec_wrapper on).trans (by rw [wirUpdate_plain rfl]; rfl)
    · exact (exec_wrapper on).trans (by rw [wirUpdate_plain rfl]; rfl)
  case refused =>
    intro s on notAllowed refused cells v
    have no : testAllowed s = false := by rw [← Bool.not_eq_true, testAllowed_iff]; exact notAllowed
    refine ⟨?_, ?_, ?_, ?_, ?_, ?_⟩ <;> refine (exec_wrapper on).trans ?_
    · rw [wirUpdate_refused rfl no, wbrUpdate_other rfl]
    · rw [wirUpdate_refused rfl no, wbrUpdate_other rfl]
    · rw [wirUpdate_refused rfl no]
    · rw [wirUpdate_refused rfl no]
    · rw [selectRegister_refused rfl no]
    · rw [selectRegister_refused rfl no]
  case taken =>
    intro s on state spare s0 held loaded cellsIn
    have yes : testAllowed s = true := (testAllowed_iff s).mpr ⟨state, spare⟩
    refine ⟨fun cells => ⟨?_, ?_⟩, ?_, ?_, fun v => ?_, fun v => ?_, fun h => testHold_held h, fun h => ?_⟩
    · refine (exec_wrapper on).trans ?_
      rw [wirUpdate_taken rfl yes, wbrUpdate_selected (.inl rfl)]
      rfl
    · refine (exec_wrapper on).trans ?_
      rw [wirUpdate_taken rfl yes, wbrUpdate_selected (.inr (.inl rfl))]
      rfl
    · exact (exec_wrapper on).trans (by rw [wirUpdate_taken rfl yes]; rfl)
    · exact (exec_wrapper on).trans (by rw [wirUpdate_taken rfl yes]; rfl)
    · obtain ⟨noStart, algo, banksel⟩ := mbist_plain_bits v
      refine (exec_wrapper on).trans ?_
      rw [selectRegister_taken rfl (by decide) yes, wirUpdate_taken rfl yes, mbistUpdate_stay (.inl noStart), algo, banksel]
      rfl
    · obtain ⟨noProgram, lbank, spareNo⟩ := wrepair_plain_bits v
      refine (exec_wrapper on).trans ?_
      rw [selectRegister_taken rfl (by decide) yes, wirUpdate_taken rfl yes, wrepairUpdate_stay noProgram, lbank, spareNo]
      rfl
    · exact testHold_first h
  case mbistStart =>
    intro v s on wir w
    obtain ⟨start, algo, banksel⟩ := mbist_start_bits v
    have runs : exec (.mbistStart v) s = .next (mbistUpdate (v ||| 4) s) := onlyIf_of_true (by simp [on, wir])
    refine ⟨fun stay => ?_, fun idle other free => ?_⟩
    · rw [runs, mbistUpdate_stay (.inr (by rwa [algo])), algo, banksel]
    · rw [runs, mbistUpdate_start start idle (by rwa [algo]) free, algo, banksel]
  case mbistDone => exact fun s busy clock => onlyIf_of_true (by simp [busy, clock])
  case program =>
    intro v s on wir lb sp w named failed
    obtain ⟨program, lbank, spareNo⟩ := wrepair_program_bits v
    have runs : exec (.repairFuseProgram v) s = .next (wrepairUpdate (v ||| 0x1000) s) := onlyIf_of_true (by simp [on, wir])
    rw [wrepairUpdate_program program, lbank, spareNo] at runs
    refine ⟨fun refused => ?_, fun idle entry unblown bank unnamed passed => ?_⟩
    · rw [runs, if_pos ((fuseRefused_iff lb sp s).mpr refused)]
    · rw [runs, if_neg (fun refused => ?_)]
      rcases (fuseRefused_iff lb sp s).mp refused with busy | three | already | high | hit | bad
      · rw [idle] at busy
        cases busy
      · exact entry three
      · exact already unblown
      · omega
      · exact unnamed hit
      · exact passed bad
  case blown =>
    intro n lb s on busy
    show orRefuse _ (((if switchedOn s then s.wrap.rbusy else none).map (fun x => fuseBlown x.1 x.2 s))) = _
    rw [if_pos on, busy]
    rfl

end Sys2Proof.Proofs
end

section
/-! SUPPORT. Fields of register values, debug levels that fall, and the fuse commands (R501 to R505, R515, R517, R518). -/

namespace Sys2Proof.Proofs

open Sys2Proof.Machine Sys2Proof.Claims Sys2Proof.Laws

/-! ## Fields of a register value -/

theorem bitAt_ofNat {i n : Nat} (small : n < 2 ^ 64) : bitAt i (BitVec.ofNat 64 n) = decide (n / 2 ^ i % 2 = 1) := by
  rw [bitAt, BitVec.getLsbD, BitVec.toNat_ofNat, Nat.mod_eq_of_lt small, Nat.testBit_eq_decide_div_mod_eq]

theorem fieldAt_ofNat {lo width n : Nat} (small : n < 2 ^ 64) : fieldAt lo width (BitVec.ofNat 64 n) = n / 2 ^ lo % 2 ^ width := by
  rw [fieldAt, BitVec.toNat_ofNat, Nat.mod_eq_of_lt small, Nat.shiftRight_eq_div_pow]

theorem extract_ofNat {lo width n : Nat} (small : n < 2 ^ 64) {x : BitVec width} (field : n / 2 ^ lo % 2 ^ width = x.toNat) :
    (BitVec.ofNat 64 n).extractLsb' lo width = x := by
  apply BitVec.eq_of_toNat_eq
  rw [BitVec.extractLsb'_toNat, BitVec.toNat_ofNat, Nat.mod_eq_of_lt small, Nat.shiftRight_eq_div_pow, field]

/-! ## A debug level that falls (R513, R518, R532) -/

theorem thawed_form (b s : State) : ∃ p w t, thawed b s = { s with pair := p, wds := w, twd := t } := by
  obtain ⟨p, told⟩ := tellFreeze_form b { s with
    wds := fours.foldl (fun (q : Quad Wdog) c => if cwdFrozen b c && !cwdFrozen s c then q.set c (q.get c).thaw else q) s.wds
    twd := if twdFrozen b && !twdFrozen s then s.twd.thaw else s.twd }
  exact ⟨p, _, _, told⟩

/-- What a core's resumption and a change of the debug level may touch. -/
def debugTouched (s t : State) : Prop := ∃ cores weado pair wds twd, t = { s with cores := cores, weado := weado, pair := pair, wds := wds, twd := twd }

theorem debugTouched_refl (s : State) : debugTouched s s := ⟨_, _, _, _, _, rfl⟩

theorem debugTouched_trans {s t u : State} (h : debugTouched s t) (g : debugTouched t u) : debugTouched s u := by
  obtain ⟨c, w, p, d, e, rfl⟩ := h
  obtain ⟨c', w', p', d', e', rfl⟩ := g
  exact ⟨_, _, _, _, _, rfl⟩

theorem debugTouched_thawed (b s : State) : debugTouched s (thawed b s) := by
  obtain ⟨p, w, t, form⟩ := thawed_form b s
  exact ⟨_, _, _, _, _, form⟩

theorem debugTouched_foldl {α : Type} {act : State → α → State} (each : ∀ s a, debugTouched s (act s a)) (l : List α) (s : State) :
    debugTouched s (l.foldl act s) := by
  induction l generalizing s with
  | nil => exact debugTouched_refl s
  | cons a l ih => exact debugTouched_trans (each s a) (ih _)

theorem debugTouched_resumeCore (c : CoreId) (s : State) : debugTouched s (resumeCore c s) := by
  unfold resumeCore
  dsimp only
  split
  · exact debugTouched_refl s
  · split
    · exact ⟨_, _, _, _, _, rfl⟩
    · obtain ⟨w, traced⟩ := trace_cores 4 c.val (BitVec.ofNat 8 0 :: bytesLE (s.core c).dbg.dpc.toNat 6)
        (setCore c { ((s.core c).sync.leaveBuffer).goTo (s.core c).dbg.dpc with
          repResume := (s.core c).dbg.drpend, repHold := (s.core c).dbg.drpend
          dbg := { (s.core c).dbg with resumeDue := false, stepping := false, stepDue := false } } s)
      rw [traceHalt, traced]
      exact debugTouched_trans ⟨_, _, _, _, _, rfl⟩ (debugTouched_thawed _ _)

/-- A change of the debug level changes the authentication's level, and otherwise only what resumption and Weado touch. -/
theorem setLevel_form (l : BitVec 2) (byRma : Bool) (s : State) :
    debugTouched { s with auth := { s.auth with level := l, byRma := byRma } } (setLevel l byRma s) := by
  unfold setLevel
  dsimp only
  have resumed : debugTouched { s with auth := { s.auth with level := l, byRma := byRma } }
      (if dbgLevel s == 2 && l != 2 then
        fours.foldl (fun s c => withDbg c (fun d => { d with stepping := false, stepDue := false }) (resumeCore c s))
          { s with auth := { s.auth with level := l, byRma := byRma } }
      else { s with auth := { s.auth with level := l, byRma := byRma } }) := by
    split
    · exact debugTouched_foldl (fun s c => debugTouched_trans (debugTouched_resumeCore c s) ⟨_, _, _, _, _, rfl⟩) _ _
    · exact debugTouched_refl _
  generalize (if dbgLevel s == 2 && l != 2 then _ else _ : State) = u at resumed
  have fell := debugTouched_trans resumed (debugTouched_thawed s u)
  split
  · exact debugTouched_trans fell ⟨_, _, _, _, _, rfl⟩
  · exact fell

/-! ## Warm resets -/

/-- A field of the state that no warm strike touches. -/
def strikeBlind {α : Type} (f : State → α) : Prop := ∀ s cores pwr free ports evc vs ev rings troupe dma eng entries iq pair,
  f { s with cores := cores, pwr := pwr, free := free, ports := ports, evc := evc, vs := vs, ev := ev, rings := rings, troupe := troupe
             dma := dma, eng := eng, entries := entries, iq := iq, pair := pair } = f s

theorem dmaWithdrawn_field {α : Type} {f : State → α} (blind : strikeBlind f) (s : State) : f (dmaReset (withdraw (fun d => match d with
    | .dmaRead _ _ _ => true
    | .dmaWrite _ _ => true
    | _ => false) (ringReset s))) = f s := by
  obtain ⟨r, t, p, stopped, -⟩ := ringReset_form s
  rw [stopped]
  generalize taken : ({ s with rings := r, troupe := t, ports := p } : State) = s0
  have untouched : f s0 = f s := by
    rw [← taken]
    exact blind s s.cores s.pwr s.free p s.evc s.vs s.ev r t s.dma s.eng s.entries s.iq s.pair
  have withdrawn := settled_withdraw (fun d => match d with
    | .dmaRead _ _ _ => true
    | .dmaWrite _ _ => true
    | _ => false) s0
  generalize withdraw (fun d => match d with
    | .dmaRead _ _ _ => true
    | .dmaWrite _ _ => true
    | _ => false) s0 = s1 at withdrawn
  obtain ⟨d, p', q, reset⟩ := dmaReset_form s1
  rw [reset]
  have kept : f s1 = f s0 := settled_field f (fun a v e c w n => blind a c w n a.ports a.evc v e a.rings a.troupe a.dma a.eng a.entries a.iq a.pair) withdrawn
  exact ((blind s1 s1.cores s1.pwr s1.free p' s1.evc { s1.vs with reqs := q } s1.ev s1.rings s1.troupe d s1.eng s1.entries s1.iq s1.pair).trans kept).trans untouched

theorem vsAbandoned_field {α : Type} {f : State → α} (blind : strikeBlind f) (s : State) : f (vsWarm (abandonChains s)) = f s := by
  obtain ⟨u, e, p, settled, form, -⟩ := abandon_form s
  rw [form]
  have kept := settled_field f (fun a v e c w n => blind a c w n a.ports a.evc v e a.rings a.troupe a.dma a.eng a.entries a.iq a.pair) settled
  have abandoned : f { u with eng := e, entries := Quad.same [], iq := Quad.same [] } = f u :=
    blind u u.cores u.pwr u.free u.ports u.evc u.vs u.ev u.rings u.troupe u.dma e (Quad.same []) (Quad.same []) u.pair
  generalize ({ u with eng := e, entries := Quad.same [], iq := Quad.same [] } : State) = u' at abandoned
  have warmed : f (vsWarm u') = f u' :=
    blind u' u'.cores u'.pwr u'.free u'.ports u'.evc (vsWarm u').vs u'.ev u'.rings u'.troupe u'.dma u'.eng u'.entries u'.iq u'.pair
  rw [warmed, abandoned, kept]
  exact blind s s.cores s.pwr s.free p s.evc s.vs s.ev s.rings s.troupe s.dma s.eng s.entries s.iq s.pair

theorem warmStrike_field {α : Type} {f : State → α} (blind : strikeBlind f) (s : State) : f (warmStrike s) = f s := by
  unfold warmStrike
  dsimp only
  generalize stopped : dmaReset (withdraw (fun d => match d with
    | .dmaRead _ _ _ => true
    | .dmaWrite _ _ => true
    | _ => false) (ringReset s)) = s1
  have first : f s1 = f s := by rw [← stopped]; exact dmaWithdrawn_field blind s
  have second := vsAbandoned_field blind s1
  generalize vsWarm (abandonChains s1) = s2 at second
  have third : f (fours.foldl (fun s c => clearCore c s) s2) = f s2 :=
    clearAll_field f (fun a v e c w n q x => blind a c w n q x v e a.rings a.troupe a.dma a.eng a.entries a.iq a.pair) s2
  generalize fours.foldl (fun s c => clearCore c s) s2 = s3 at third
  obtain ⟨p, told⟩ := tellFreeze_form s { s3 with ev := [] }
  rw [told]
  have told' : f { s3 with ev := [], pair := p } = f s3 :=
    blind s3 s3.cores s3.pwr s3.free s3.ports s3.evc s3.vs [] s3.rings s3.troupe s3.dma s3.eng s3.entries s3.iq p
  exact told'.trans (third.trans (second.trans first))

theorem warmStrike_auth (s : State) : (warmStrike s).auth = s.auth :=
  warmStrike_field (f := State.auth) (fun _ _ _ _ _ _ _ _ _ _ _ _ _ _ _ => rfl) s

/-! ## Fuse commands (R501 to R505, R515, R517, R518) -/

theorem writeReg_lccmd (who : Requester) (v : W64) (s : State) : writeReg who 0x90008 v s = writeLccmd who v s := rfl

theorem writeReg_keycmd (who : Requester) (v : W64) (s : State) : writeReg who 0x90270 v s = writeKeycmd who v s := rfl

theorem exec_lccmd {who : Requester} {s : State} (may : mayAccess who (writeLevel s 0x90008) 0x90008 s = true) (n : Nat) :
    regCmd who 0x90008 n s = .next (written who (writeLccmd who (BitVec.ofNat 64 n) s)) := by
  rw [regCmd, writeCmd_ok may (by norm_num) (by norm_num), writeReg_lccmd]

theorem exec_keycmd {who : Requester} {s : State} (may : mayAccess who (writeLevel s 0x90270) 0x90270 s = true) (n : Nat) :
    regCmd who 0x90270 n s = .next (written who (writeKeycmd who (BitVec.ofNat 64 n) s)) := by
  rw [regCmd, writeCmd_ok may (by norm_num) (by norm_num), writeReg_keycmd]

/-- A write of LCCMD with GO and without CLRERR runs the command of its code. -/
theorem writeLccmd_go {who : Requester} {s : State} {n : Nat} (small : n < 2 ^ 13) (go : n / 2 ^ 12 % 2 = 1) (may : lcMayWrite who s = true) :
    writeLccmd who (BitVec.ofNat 64 n) s = match n % 8 with
      | 1 => lcTransition who ((BitVec.ofNat 64 n).extractLsb' 3 3) s
      | 2 => lcRaise ((BitVec.ofNat 64 n).extractLsb' 6 6) s
      | 3 => wipeTrip s
      | _ => lcError s := by
  have clears : bitAt 13 (BitVec.ofNat 64 n) = false := by rw [bitAt_ofNat (by omega)]; exact decide_eq_false (by omega)
  have goes : bitAt 12 (BitVec.ofNat 64 n) = true := by rw [bitAt_ofNat (by omega)]; exact decide_eq_true go
  have code : fieldAt 0 3 (BitVec.ofNat 64 n) = n % 8 := by rw [fieldAt_ofNat (by omega)]; omega
  rw [writeLccmd, may, clears, goes, code]
  rfl

/-- A write of KEYCMD with GO and without CLRERR runs the command of its code. -/
theorem writeKeycmd_go {who : Requester} {s : State} {n : Nat} (small : n < 2 ^ 8) (go : n / 2 ^ 7 % 2 = 1) (may : lcMayWrite who s = true) :
    writeKeycmd who (BitVec.ofNat 64 n) s = match n / 32 % 4 with
      | 1 => keyProgram ((BitVec.ofNat 64 n).extractLsb' 0 2) ((BitVec.ofNat 64 n).extractLsb' 2 3) s
      | 2 => keyRevoke ((BitVec.ofNat 64 n).extractLsb' 0 2) s
      | _ => keyError s := by
  have clears : bitAt 8 (BitVec.ofNat 64 n) = false := by rw [bitAt_ofNat (by omega)]; exact decide_eq_false (by omega)
  have goes : bitAt 7 (BitVec.ofNat 64 n) = true := by rw [bitAt_ofNat (by omega)]; exact decide_eq_true go
  have code : fieldAt 5 2 (BitVec.ofNat 64 n) = n / 32 % 4 := by rw [fieldAt_ofNat (by omega)]; rfl
  rw [writeKeycmd, may, clears, goes, code]
  rfl

theorem writeLccmd_denied {who : Requester} {s : State} (denied : lcMayWrite who s = false) (v : W64) : writeLccmd who v s = s := by
  rw [writeLccmd, denied]; rfl

theorem writeKeycmd_denied {who : Requester} {s : State} (denied : lcMayWrite who s = false) (v : W64) : writeKeycmd who v s = s := by
  rw [writeKeycmd, denied]; rfl

theorem exec_lccmdTransition {who : Requester} {s : State} (may : mayAccess who (writeLevel s 0x90008) 0x90008 s = true) (t : BitVec 3) :
    exec (.lccmdTransition who t) s = .next (written who (if lcMayWrite who s then lcTransition who t s else s)) := by
  show regCmd who 0x90008 (1 + t.toNat * 8 + 2 ^ 12) s = _
  have := t.isLt
  rw [exec_lccmd may]
  cases admitted : lcMayWrite who s
  · rw [writeLccmd_denied admitted]; rfl
  · rw [writeLccmd_go (by omega) (by omega) admitted, show (1 + t.toNat * 8 + 2 ^ 12) % 8 = 1 by omega,
      extract_ofNat (x := t) (by omega) (by omega)]
    rfl

theorem exec_lccmdRaisesvn {who : Requester} {s : State} (may : mayAccess who (writeLevel s 0x90008) 0x90008 s = true) (svn : BitVec 6) :
    exec (.lccmdRaisesvn who svn) s = .next (written who (if lcMayWrite who s then lcRaise svn s else s)) := by
  show regCmd who 0x90008 (2 + svn.toNat * 64 + 2 ^ 12) s = _
  have := svn.isLt
  rw [exec_lccmd may]
  cases admitted : lcMayWrite who s
  · rw [writeLccmd_denied admitted]; rfl
  · rw [writeLccmd_go (by omega) (by omega) admitted, show (2 + svn.toNat * 64 + 2 ^ 12) % 8 = 2 by omega,
      extract_ofNat (x := svn) (by omega) (by omega)]
    rfl

theorem exec_lccmdWipe {who : Requester} {s : State} (may : mayAccess who (writeLevel s 0x90008) 0x90008 s = true) :
    exec (.lccmdWipe who) s = .next (written who (if lcMayWrite who s then wipeTrip s else s)) := by
  show regCmd who 0x90008 (3 + 2 ^ 12) s = _
  rw [exec_lccmd may]
  cases admitted : lcMayWrite who s
  · rw [writeLccmd_denied admitted]; rfl
  · rw [writeLccmd_go (by omega) (by omega) admitted]
    rfl

theorem exec_keycmdProgram {who : Requester} {s : State} (may : mayAccess who (writeLevel s 0x90270) 0x90270 s = true) (slot : BitVec 2)
    (use : BitVec 3) :
    exec (.keycmdProgram who slot use) s = .next (written who (if lcMayWrite who s then keyProgram slot use s else s)) := by
  show regCmd who 0x90270 (slot.toNat + use.toNat * 4 + 32 + 128) s = _
  have := slot.isLt
  have := use.isLt
  rw [exec_keycmd may]
  cases admitted : lcMayWrite who s
  · rw [writeKeycmd_denied admitted]; rfl
  · rw [writeKeycmd_go (by omega) (by omega) admitted, show (slot.toNat + use.toNat * 4 + 32 + 128) / 32 % 4 = 1 by omega,
      extract_ofNat (x := slot) (by omega) (by omega), extract_ofNat (x := use) (by omega) (by omega)]
    rfl

theorem exec_keycmdRevoke {who : Requester} {s : State} (may : mayAccess who (writeLevel s 0x90270) 0x90270 s = true) (slot : BitVec 2) :
    exec (.keycmdRevoke who slot) s = .next (written who (if lcMayWrite who s then keyRevoke slot s else s)) := by
  show regCmd who 0x90270 (slot.toNat + 64 + 128) s = _
  have := slot.isLt
  rw [exec_keycmd may]
  cases admitted : lcMayWrite who s
  · rw [writeKeycmd_denied admitted]; rfl
  · rw [writeKeycmd_go (by omega) (by omega) admitted, show (slot.toNat + 64 + 128) / 32 % 4 = 2 by omega,
      extract_ofNat (x := slot) (by omega) (by omega)]
    rfl

theorem exec_fuseCommandDone {s : State} {op : FuseOp} (runs : s.fuses.op = some op) : exec .fuseCommandDone s = .next (fuseDone op s) := by
  show orRefuse "no fuse command runs" (s.fuses.op.map (fun op => fuseDone op s)) = _
  rw [runs]
  rfl

theorem lcTransition_refused {who : Requester} {t : BitVec 3} {s : State} (h : s.fuses.op.isSome = true ∨ transitionOk who t.toNat s = false) :
    lcTransition who t s = lcError s := by
  unfold lcTransition fuseBusy
  rcases h with h | h <;> simp [h]

theorem lcTransition_runs {who : Requester} {t : BitVec 3} {s : State} (idle : s.fuses.op = none) (ok : transitionOk who t.toNat s = true) :
    lcTransition who t s = wipeTrip (setFuses { s.fuses with op := some (.transition t) } s) := by
  rw [lcTransition, fuseBusy, idle, ok]; rfl

theorem lcRaise_refused {svn : BitVec 6} {s : State} (h : s.fuses.op.isSome = true ∨ svn ≤ s.fuses.minsvn) : lcRaise svn s = lcError s := by
  unfold lcRaise fuseBusy
  rcases h with h | h
  · simp [h]
  · simp [BitVec.le_def.1 h]

theorem lcRaise_runs {svn : BitVec 6} {s : State} (idle : s.fuses.op = none) (rises : s.fuses.minsvn < svn) :
    lcRaise svn s = setFuses { s.fuses with op := some (.raisesvn svn) } s := by
  have := BitVec.lt_def.1 rises
  rw [lcRaise, fuseBusy, idle, if_neg (by simpa using this)]

theorem quad_any_iff {α : Type} {q : Quad α} {p : α → Bool} : q.any p = true ↔ ∃ n : Fin 4, p (q.get n) = true := by
  rw [Fin.exists_fin_succ, Fin.exists_fin_succ, Fin.exists_fin_succ, Fin.exists_fin_succ]
  simp [Quad.any, Quad.get, or_assoc]

theorem dbgLevel_halt (s : State) : (dbgLevel s == 2) = decide (s.auth.level = 2) := by
  rw [Bool.eq_iff_iff]; simp [dbgLevel, ← BitVec.toNat_inj]

theorem anyLive_iff {q : Quad KeySlot} {use : KeySlot → Bool} :
    q.any (fun k => k.live && use k) = true ↔ ∃ n : Fin 4, (q.get n).prog = true ∧ use (q.get n) = true ∧ (q.get n).revoked = false := by
  rw [quad_any_iff]
  simp only [KeySlot.live, Bool.and_eq_true, Bool.not_eq_true', and_assoc, and_comm]

/-- The requester that may start the transition to RMA_DEBUG's state 4. -/
theorem rmaRequester_iff {who : Requester} {s : State} : (match who with
      | .core _ => true
      | .weado => dbgLevel s == 2 && s.auth.byRma
      | .host => false) = true ↔ (∃ c, who = .core c) ∨ who = .weado ∧ s.auth.level = 2 ∧ s.auth.byRma = true := by
  cases who <;> simp [dbgLevel_halt]

theorem transitionOk_iff (who : Requester) (t : Nat) (s : State) : transitionOk who t s = true ↔ s.fuses.lc.toNat < t ∧
    ((s.fuses.now = 0 ∧ t = 1) ∨ (s.fuses.now = 1 ∧ t = 2) ∨
      (s.fuses.now = 2 ∧ t = 3 ∧ ∃ n : Fin 4, (s.fuses.keys.get n).prog = true ∧ (s.fuses.keys.get n).boot = true ∧ (s.fuses.keys.get n).revoked = false) ∨
      (s.fuses.now = 3 ∧ t = 4 ∧ (∃ n : Fin 4, (s.fuses.keys.get n).prog = true ∧ (s.fuses.keys.get n).rma = true ∧
        (s.fuses.keys.get n).revoked = false) ∧ ((∃ c, who = .core c) ∨ who = .weado ∧ s.auth.level = 2 ∧ s.auth.byRma = true)) ∨ t = 5) := by
  have value : ∀ k : BitVec 3, s.fuses.now = k ↔ s.fuses.now.toNat = k.toNat := fun k => BitVec.toNat_inj.symm
  unfold transitionOk
  dsimp only
  rw [Bool.and_eq_true, and_comm, decide_eq_true_eq, ← anyLive_iff, ← anyLive_iff, ← rmaRequester_iff]
  simp only [value]
  refine and_congr_right fun _ => ?_
  generalize s.fuses.now.toNat = now
  split <;> simp_all <;> (intro; cases who <;> rfl)

/-- The reset that ends a transition: from an up tile it begins at once, and otherwise waits for the hold-up flush (R496, R517). -/
theorem warmBegin_rst (cause : BitVec 4) (relay : Bool) (s : State) :
    (warmBegin cause relay s).rst.phase = .warm ∧ (warmBegin cause relay s).rst.cause = cause := ⟨rfl, rfl⟩

theorem warmBegin_auth (cause : BitVec 4) (relay : Bool) (s : State) : (warmBegin cause relay s).auth = (warmRole relay s).auth := by
  show (warmStrike (warmRole relay s)).auth = _
  exact warmStrike_auth _

theorem warmRole_auth (s : State) : (warmRole true s).auth = s.auth := by
  obtain ⟨r, t, p, q, form, -⟩ := warmRole_form s
  rw [form]

theorem warmMark_fuses {cause : BitVec 4} {again : Bool} {s : State} (idle : s.fuses.op = none) : (warmMark cause again s).fuses = s.fuses := by
  rw [warmMark]
  dsimp only
  generalize s.fuses = f at idle
  cases f
  cases idle
  rfl

theorem warmBegin_fuses {cause : BitVec 4} {s : State} (idle : s.fuses.op = none) : (warmBegin cause true s).fuses = s.fuses := by
  have same : (warmStrike (warmRole true s)).fuses = s.fuses := fuses_of_fuseSide (by simp)
  rw [warmBegin, warmMark_fuses (by rw [same, idle]), same]

theorem resetDue_form (s : State) (idle : s.fuses.op = none) :
    (warmResetAfterFlush 7 s).fuses = s.fuses ∧ (warmResetAfterFlush 7 s).auth = s.auth ∧
    (s.pwr.flush = none → s.rst.phase = .up → (warmResetAfterFlush 7 s).rst.phase = .warm ∧ (warmResetAfterFlush 7 s).rst.cause = 7) ∧
    (s.pwr.flush.isSome = true → (warmResetAfterFlush 7 s).rst.warmDue = some 7 ∧ (warmResetAfterFlush 7 s).rst.phase = s.rst.phase) := by
  unfold warmResetAfterFlush
  cases flushing : s.pwr.flush with
  | some f => exact ⟨rfl, rfl, fun no => absurd no (Option.some_ne_none f), fun _ => ⟨rfl, rfl⟩⟩
  | none =>
    simp only [Option.isSome_none, Bool.false_eq_true, if_false, false_implies, and_true, true_implies]
    by_cases up : s.rst.phase = .up
    · rw [warmReset_up up]
      exact ⟨warmBegin_fuses idle, (warmBegin_auth 7 true s).trans (warmRole_auth s), fun _ => warmBegin_rst 7 true s⟩
    · rw [warmReset, if_neg up]
      exact ⟨rfl, rfl, fun no => absurd no up⟩

theorem setLevel_kept (l : BitVec 2) (byRma : Bool) (s : State) :
    (setLevel l byRma s).fuses = s.fuses ∧ (setLevel l byRma s).auth = { s.auth with level := l, byRma := byRma } ∧
    (setLevel l byRma s).pwr = s.pwr ∧ (setLevel l byRma s).rst = s.rst := by
  obtain ⟨c, w, p, d, e, form⟩ := setLevel_form l byRma s
  rw [form]
  exact ⟨rfl, rfl, rfl, rfl⟩

/-- A transition that ends: the new state in the fuses, the level at NONE, and the warm reset, which a hold-up flush defers. -/
theorem transition_ends (t : BitVec 3) (s : State) : ∀ u, u = fuseDone (.transition t) s → u.fuses = { s.fuses with lc := t, op := none } ∧
    u.auth.level = 0 ∧ (s.pwr.flush = none → s.rst.phase = .up → u.rst.phase = .warm ∧ u.rst.cause = 7) ∧
    (s.pwr.flush.isSome = true → u.rst.warmDue = some 7 ∧ u.rst.phase = s.rst.phase) := by
  intro u ended
  have form : u = warmResetAfterFlush 7 (freshChallenge (setLevel 0 false (setFuses { s.fuses with op := none, lc := t } s))) := ended
  obtain ⟨fuses, auth, pwr, rst⟩ := setLevel_kept 0 false (setFuses { s.fuses with op := none, lc := t } s)
  generalize setLevel 0 false (setFuses { s.fuses with op := none, lc := t } s) = s1 at form fuses auth pwr rst
  obtain ⟨keptFuses, keptAuth, begins, waits⟩ := resetDue_form (freshChallenge s1) (congrArg Fuses.op fuses)
  rw [← form] at keptFuses keptAuth begins waits
  have level : u.auth.level = s1.auth.level := (congrArg DbgAuth.level keptAuth : _)
  have flush : (freshChallenge s1).pwr.flush = s.pwr.flush := congrArg Power.flush pwr
  have phase : (freshChallenge s1).rst.phase = s.rst.phase := congrArg ResetClk.phase rst
  rw [flush, phase] at begins
  rw [flush, phase] at waits
  exact ⟨keptFuses.trans fuses, level.trans (congrArg DbgAuth.level auth), begins, waits⟩

theorem keyRevoke_cases (slot : BitVec 2) (s : State) : keyRevoke slot s =
    if s.fuses.op = none ∧ (s.fuses.now = 2 ∨ s.fuses.now = 3 ∨ s.fuses.now = 4) then setFuses { s.fuses with op := some (.revoke slot) } s
    else keyError s := by
  unfold keyRevoke fuseBusy
  cases s.fuses.op with
  | some op => rfl
  | none =>
    by_cases listed : s.fuses.now = 2 ∨ s.fuses.now = 3 ∨ s.fuses.now = 4
    · rw [if_neg (by simp at listed ⊢; tauto), if_pos ⟨rfl, listed⟩]
    · rw [if_pos (by simp at listed ⊢; tauto), if_neg (fun both => listed both.2)]

theorem keyProgram_refused {slot : BitVec 2} {use : BitVec 3} {s : State} (h : s.fuses.op.isSome = true ∨ s.fuses.now ≠ 2) :
    keyProgram slot use s = keyError s := by
  unfold keyProgram fuseBusy
  rcases h with h | h
  · simp [h]
  · rw [if_pos (by simp at h ⊢; exact .inr h)]

theorem keyProgram_slot {slot : BitVec 2} {use : BitVec 3} {s : State} (idle : s.fuses.op = none) (sealed : s.fuses.now = 2) (own : use ≠ 0 ∨ slot ≠ 3) :
    keyProgram slot use s = if (s.fuses.keys.get slot.toFin).prog then keyError s
      else setFuses { s.fuses with op := some (.program slot use (keyDigest s)) } s := by
  have other : (use = 0 && slot = 3 : Bool) = false := by
    rcases own with h | h <;> simp only [h, decide_false, Bool.and_false, Bool.false_and]
  unfold keyProgram fuseBusy
  dsimp only
  rw [idle, sealed, other]
  rfl

theorem keyProgram_uid {s : State} (idle : s.fuses.op = none) (sealed : s.fuses.now = 2) :
    keyProgram 3 0 s = if s.fuses.uidProg then keyError s
      else setFuses { s.fuses with op := some (.uid (Tab.get 0 s.fuses.keydata 0) (Tab.get 0 s.fuses.keydata 1)) } s := by
  unfold keyProgram fuseBusy
  simp [idle, sealed]

/-- Settles O54: each command is the write of its register with GO (`exec_lccmdTransition` and the like); `transitionOk_iff` lists the transitions;
`transition_ends` says what the end of one leaves. -/
theorem fuseCommands : Obligations.FuseCommands := by
  unfold Obligations.FuseCommands
  refine ⟨?lifecycle, transitionOk_iff, wipeTrip_facts, ?keys, ?ends⟩
  case lifecycle =>
    intro who t svn s may
    dsimp only
    rw [exec_lccmdTransition may, exec_lccmdRaisesvn may, exec_lccmdWipe may]
    refine ⟨fun denied => by rw [denied]; exact ⟨rfl, rfl, rfl⟩, fun admitted => ?_⟩
    simp only [admitted, if_true]
    refine ⟨fun h => ?_, fun idle ok => ?_, fun h => ?_, fun idle rises => ?_, trivial⟩
    · rw [lcTransition_refused h]; rfl
    · rw [lcTransition_runs idle ok]; rfl
    · rw [lcRaise_refused h]; rfl
    · rw [lcRaise_runs idle rises]; rfl
  case keys =>
    intro who slot use s may
    dsimp only
    rw [exec_keycmdProgram may, exec_keycmdRevoke may]
    refine ⟨fun denied => by rw [denied]; exact ⟨rfl, rfl⟩, fun admitted => ?_⟩
    simp only [admitted, if_true]
    refine ⟨fun h => ?_, fun idle sealed own => ?_, fun idle sealed noUse last => ?_, ?_⟩
    · rw [keyProgram_refused h]; rfl
    · rw [keyProgram_slot idle sealed own]; rfl
    · rw [noUse, last, keyProgram_uid idle sealed]; rfl
    · rw [keyRevoke_cases]; rfl
  case ends =>
    intro s
    refine ⟨fun n runs => exec_fuseCommandDone runs, fun a b runs => exec_fuseCommandDone runs, fun n use d runs => exec_fuseCommandDone runs,
      fun n runs => exec_fuseCommandDone runs, fun t runs => ?_⟩
    obtain ⟨fuses, level, begins, waits⟩ := transition_ends t s _ rfl
    refine ⟨_, exec_fuseCommandDone runs, ?_⟩
    generalize fuseDone (.transition t) s = u at fuses level begins waits
    rw [fuses]
    exact ⟨rfl, rfl, rfl, rfl, rfl, level, begins, waits⟩

end Sys2Proof.Proofs
end

section
/-! SUPPORT. Debug authentication (R511 to R513, R516, R518). -/

namespace Sys2Proof.Proofs

open Sys2Proof.Machine Sys2Proof.Claims Sys2Proof.Laws

theorem writeReg_dbgauth (who : Requester) (v : W64) (s : State) : writeReg who 0x90020 v s = writeDbgauth who v s := rfl

/-- DBGAUTH is written at every debug level (R520). -/
theorem writeLevel_dbgauth (s : State) : writeLevel s 0x90020 = 0 := rfl

/-- A requester other than Weado has no debug level to meet. -/
theorem mayAccess_level {who : Requester} {off l : Nat} {s : State} (other : who ≠ .weado) (n : Nat) (may : mayAccess who l off s = true) :
    mayAccess who n off s = true := by
  cases who with
  | weado => exact absurd rfl other
  | core c => exact may
  | host => exact may

/-- Weado reaches what needs no level once its access master is free. -/
theorem mayAccess_weado_free {off : Nat} {s : State} (idle : s.weado.sam.busy = false) : mayAccess .weado 0 off s = true := by
  unfold mayAccess
  simp [windowRefused, idle]

/-- A write of DBGAUTH with GO and without CLRDENIED. -/
theorem exec_dbgauthGo {who : Requester} {s : State} (may : mayAccess who 0 0x90020 s = true) (req : BitVec 2) :
    exec (.dbgauthGo who req) s = .next (written who (if who = .weado then authGo req s else s)) := by
  show regCmd who 0x90020 (req.toNat + 4) s = _
  have := req.isLt
  have clears : bitAt 4 (BitVec.ofNat 64 (req.toNat + 4)) = false := by rw [bitAt_ofNat (by omega)]; exact decide_eq_false (by omega)
  have goes : bitAt 2 (BitVec.ofNat 64 (req.toNat + 4)) = true := by rw [bitAt_ofNat (by omega)]; exact decide_eq_true (by omega)
  rw [regCmd, writeCmd_ok (by rwa [writeLevel_dbgauth]) (by norm_num) (by norm_num), writeReg_dbgauth, writeDbgauth, clears, goes,
    extract_ofNat (x := req) (by omega) (by omega)]
  cases who <;> rfl

theorem authGrant_facts (l : BitVec 2) (byRma : Bool) (s : State) : (authGrant l byRma s).auth.level = l ∧ (authGrant l byRma s).auth.byRma = byRma ∧
    (authGrant l byRma s).auth.run = none ∧ (authGrant l byRma s).auth.fails = s.auth.fails ∧ (authGrant l byRma s).vs = s.vs ∧
    (authGrant l byRma s).role = s.role := by
  obtain ⟨c, w, p, d, e, form⟩ := setLevel_form l byRma s
  rw [authGrant, form]
  exact ⟨rfl, rfl, rfl, rfl, rfl, rfl⟩

theorem exec_debugVerifyDone {s : State} {r : AuthRun} (runs : s.auth.run = some r) : exec .debugVerifyDone s = .next (authDone r s) := by
  show orRefuse "no verification runs" (s.auth.run.map (fun r => authDone r s)) = _
  rw [runs]
  rfl

theorem authGo_idle {req : BitVec 2} {s : State} (idle : s.auth.run = none) : authGo req s =
    if req = 3 then authRefuse (freshChallenge s)
    else if req.toNat ≤ freeLevel s then authGrant req false (freshChallenge s)
    else if s.auth.lock then authRefuse (freshChallenge s)
    else setAuth { (freshChallenge s).auth with run := some (authCheck req s) } (freshChallenge s) := by
  obtain ⟨ch, n, drawn⟩ := freshChallenge_form s
  have free : freeLevel (freshChallenge s) = freeLevel s := by rw [drawn]; rfl
  have lock : (freshChallenge s).auth.lock = s.auth.lock := by rw [drawn]
  unfold authGo
  dsimp only
  rw [idle, free, lock]
  rfl

/-- Settles O56: a GO of Weado's is `authGo`, whose challenge `freshChallenge_form` draws; `setLevel_form` says what a grant changes. -/
theorem debugAuthentication : Obligations.DebugAuthentication := by
  unfold Obligations.DebugAuthentication
  refine ⟨fun req s => ⟨?others, ?busy, ?go⟩, ?free, ?done, fun s => rfl, authGrant_facts⟩
  case others =>
    intro who other may
    rw [exec_dbgauthGo (mayAccess_level other 0 may), if_neg other]
  case busy =>
    intro idle runs
    rw [exec_dbgauthGo (mayAccess_weado_free idle), if_pos rfl, authGo, if_pos runs]
  case go =>
    intro idle none
    obtain ⟨ch, n, drawn⟩ := freshChallenge_form s
    refine ⟨ch, n, ?_⟩
    dsimp only
    rw [exec_dbgauthGo (mayAccess_weado_free idle), if_pos rfl, authGo_idle none, drawn]
    rfl
  case free =>
    intro s
    simp only [freeLevel, Bool.or_eq_true, decide_eq_true_eq]
  case done =>
    intro r s runs
    refine ⟨fun discarded => ?_, fun kept ok => ?_, fun kept failed => ?_⟩
    · rw [exec_debugVerifyDone runs, authDone, if_pos discarded]; rfl
    · rw [exec_debugVerifyDone runs, authDone, kept, ok]; rfl
    · rw [exec_debugVerifyDone runs, authDone, kept, failed]; rfl

end Sys2Proof.Proofs
end

section
/-! SUPPORT. Weado: its commands, run control, the virtual terminal and the trace port (R519 to R539). -/

namespace Sys2Proof.Proofs

open Sys2Proof.Machine Sys2Proof.Claims Sys2Proof.Laws

/-! ## Commands of WD.CMD (R519, R520) -/

/-- A register is the selected one. -/
def selected (off : Nat) (s : State) : State := { s with weado := { s.weado with sel := BitVec.ofNat 12 off } }

/-! The named writes of Weado's registers (R521 to R533). -/

theorem haltreq_write (c : CoreId) (m : Bool) (s : State) :
    exec (.haltreq c m) s = weadoWrite (coreDbgOff c 0x00) (BitVec.ofNat 64 (1 + 8 * b2n m)) s := rfl
theorem debugResume_write (c : CoreId) (m : Bool) (s : State) :
    exec (.debugResume c m) s = weadoWrite (coreDbgOff c 0x00) (BitVec.ofNat 64 (2 + 8 * b2n m)) s := rfl
theorem debugStep_write (c : CoreId) (m : Bool) (s : State) :
    exec (.debugStep c m) s = weadoWrite (coreDbgOff c 0x00) (BitVec.ofNat 64 (4 + 8 * b2n m)) s := rfl
theorem dpcWrite_write (c : CoreId) (v : W64) (s : State) : exec (.dpcWrite c v) s = weadoWrite (coreDbgOff c 0x10) v s := rfl
theorem dfeed_write (c : CoreId) (p : BitVec 20) (s : State) : exec (.dfeed c p) s = weadoWrite (coreDbgOff c 0x18) (p.zeroExtend 64) s := rfl
theorem dx0Write_write (c : CoreId) (v : W64) (s : State) : exec (.dx0Write c v) s = weadoWrite (coreDbgOff c 0x20) v s := rfl
theorem dy0Write_write (c : CoreId) (v : W64) (s : State) : exec (.dy0Write c v) s = weadoWrite (coreDbgOff c 0x28) v s := rfl
theorem wfreezeWrite_write (v : W64) (s : State) : exec (.wfreezeWrite v) s = weadoWrite 0x000 v s := rfl
theorem samGo_write (v : W64) (s : State) : exec (.samGo v) s = weadoWrite 0x008 v s := rfl

theorem weadoCmd_awake {s : State} (awake : s.rst.phase ≠ .aopor) (u : State) : weadoCmd s u = .next u :=
  onlyIf_of_true (by simpa using awake)

theorem weadoWrite_ok {s : State} {off : Nat} (awake : s.rst.phase ≠ .aopor) (waits : (weadoWaits s off && effLevel s == 2) = false) (v : W64) :
    weadoWrite off v s = .next (answerWd 0 (writeWeado feedParcel off v (selected off s))) := by
  rw [weadoWrite, waits, weadoCmd_awake awake]
  rfl

/-- Below HALT a write that needs HALT is denied (R520). -/
theorem weadoWrite_denied {s : State} {off : Nat} (awake : s.rst.phase ≠ .aopor) (low : effLevel s < 2) (needs : needsHalt off = true) (v : W64) :
    weadoWrite off v s = .next (answerWd 0 (deny (selected off s))) := by
  have level : effLevel (selected off s) < 2 := low
  have passes : (weadoWaits s off && effLevel s == 2) = false := by
    rw [beq_false_of_ne (by omega), Bool.and_false]
  rw [weadoWrite_ok awake passes]
  unfold writeWeado
  rw [needs, decide_eq_true level]
  rfl

/-- At HALT a write of WFREEZE changes it (R529). -/
theorem weadoWrite_wfreeze {s : State} (awake : s.rst.phase ≠ .aopor) (halt : effLevel s = 2) (v : W64) :
    weadoWrite 0x000 v s = .next (answerWd 0 (writeWfreeze v (selected 0 s))) := by
  have level : (decide (effLevel (selected 0 s) < 2)) = false := decide_eq_false (by show ¬ effLevel s < 2; omega)
  rw [weadoWrite_ok awake rfl]
  unfold writeWeado
  rw [level]
  rfl

theorem needsHalt_core (c : CoreId) {r : Nat} (which : r = 0 ∨ r = 0x10 ∨ r = 0x18 ∨ r = 0x20 ∨ r = 0x28) : needsHalt (coreDbgOff c r) = true := by
  rcases which with rfl | rfl | rfl | rfl | rfl <;> revert c <;> decide

/-- A register of a core's debug block, written at HALT. -/
theorem writeWeado_core {s : State} {feed : CoreId → BitVec 20 → State → State} (halt : effLevel s = 2) (c : CoreId) (v : W64) :
    writeWeado feed (coreDbgOff c 0x00) v s = writeDctl c v s ∧ writeWeado feed (coreDbgOff c 0x10) v s = writeDpc c v s ∧
    writeWeado feed (coreDbgOff c 0x18) v s = feed c (v.truncate 20) s ∧ writeWeado feed (coreDbgOff c 0x20) v s = writeDtop c false v s ∧
    writeWeado feed (coreDbgOff c 0x28) v s = writeDtop c true v s := by
  have level : (decide (effLevel s < 2)) = false := decide_eq_false (by omega)
  unfold writeWeado
  rw [level]
  fin_cases c <;> exact ⟨rfl, rfl, rfl, rfl, rfl⟩

/-- What a write of a register of a core's debug block waits for: the spilled top cell that it names (R528). -/
theorem weadoWaits_core (s : State) (c : CoreId) : weadoWaits s (coreDbgOff c 0x00) = false ∧ weadoWaits s (coreDbgOff c 0x10) = false ∧
    weadoWaits s (coreDbgOff c 0x18) = false ∧ weadoWaits s (coreDbgOff c 0x20) = dtopSpilled s c false ∧
    weadoWaits s (coreDbgOff c 0x28) = dtopSpilled s c true := by
  fin_cases c <;> refine ⟨rfl, rfl, rfl, ?_, ?_⟩ <;> simp [weadoWaits, coreDbgOff] <;> rfl

/-! ## Run control (R521, R523, R524) -/

/-- DCTL as a write of HALTREQ, RESUME or STEP holds it. -/
theorem dctl_bits (n : Nat) (m : Bool) (small : n < 8) : bitAt 3 (BitVec.ofNat 64 (n + 8 * b2n m)) = m ∧
    bitAt 0 (BitVec.ofNat 64 (n + 8 * b2n m)) = decide (n % 2 = 1) ∧ bitAt 1 (BitVec.ofNat 64 (n + 8 * b2n m)) = decide (n / 2 % 2 = 1) ∧
    bitAt 2 (BitVec.ofNat 64 (n + 8 * b2n m)) = decide (n / 4 % 2 = 1) := by
  have flag : b2n m = 0 ∧ m = false ∨ b2n m = 1 ∧ m = true := by cases m <;> decide
  have bound : n + 8 * b2n m < 2 ^ 64 := by omega
  rw [bitAt_ofNat bound, bitAt_ofNat bound, bitAt_ofNat bound, bitAt_ofNat bound]
  refine ⟨?_, ?_, ?_, ?_⟩
  · rcases flag with ⟨e, rfl⟩ | ⟨e, rfl⟩ <;> rw [e] <;> simp <;> omega
  all_goals exact decide_eq_decide.2 (by omega)

/-- What a write of DCTL leaves before a RESUME or a STEP acts. -/
def dctlCore (k : Core) (m req : Bool) : Core :=
  { k with dbg := { k.dbg with stepmask := m, haltreq := if k.st = .halted then false else k.dbg.haltreq || req } }

theorem writeDctl_of {c : CoreId} {s : State} {v : W64} {m req resume step : Bool} (mask : bitAt 3 v = m) (asks : bitAt 0 v = req)
    (resumes : bitAt 1 v = resume) (steps : bitAt 2 v = step) : writeDctl c v s =
      let s1 := setCore c (dctlCore (s.core c) m req) s
      if resume then resumeCore c s1 else if step then stepCore c s1 else s1 := by
  unfold writeDctl
  rw [mask, asks, resumes, steps]
  have form : (let s1 := withDbg c (fun d => { d with stepmask := m, haltreq := d.haltreq || req }) s
      if (s1.core c).st = .halted then withDbg c (fun d => { d with haltreq := false }) s1 else s1) = setCore c (dctlCore (s.core c) m req) s := by
    by_cases halted : (s.core c).st = .halted
    · simp only [withDbg, withCore, core_setCore, setCore_setCore, dctlCore, halted, if_true]
    · simp only [withDbg, withCore, core_setCore, dctlCore, halted, if_false]
  dsimp only at form ⊢
  rw [form]

theorem resumeCore_other {c : CoreId} {s : State} (other : (s.core c).st ≠ .halted) : resumeCore c s = s := (resume_same c s).1 other

theorem stepCore_other {c : CoreId} {s : State} (other : (s.core c).st ≠ .halted) : stepCore c s = s := by
  rw [stepCore, if_pos (by simp [other])]

/-- The core that a resumption leaves. -/
def resumedCore (k : Core) : Core :=
  { ((k.sync.leaveBuffer).goTo k.dbg.dpc) with
    repResume := k.dbg.drpend, repHold := k.dbg.drpend, dbg := { k.dbg with resumeDue := false, stepping := false, stepDue := false } }

theorem resumeCore_form {c : CoreId} {s : State} (halted : (s.core c).st = .halted) (free : (s.core c).held = none) :
    ∃ w p wds twd, resumeCore c s = { setCore c (resumedCore (s.core c)) s with weado := w, pair := p, wds := wds, twd := twd } := by
  unfold resumeCore
  dsimp only
  rw [halted, free]
  obtain ⟨w, traced⟩ := trace_cores 4 c.val (BitVec.ofNat 8 0 :: bytesLE (s.core c).dbg.dpc.toNat 6) (setCore c (resumedCore (s.core c)) s)
  obtain ⟨p, wds, twd, told⟩ := thawed_form s { setCore c (resumedCore (s.core c)) s with weado := w }
  refine ⟨w, p, wds, twd, ?_⟩
  rw [← told, ← traced]
  rfl

theorem stepCore_form {c : CoreId} {s : State} (halted : (s.core c).st = .halted) (free : (s.core c).held = none) :
    stepCore c s = setCore c { (s.core c).goTo (s.core c).dbg.dpc with
      repResume := (s.core c).dbg.drpend, repHold := (s.core c).dbg.drpend, dbg := { (s.core c).dbg with stepping := true } } s := by
  unfold stepCore
  dsimp only
  rw [halted, free]
  rfl

/-- A write of a core's debug register at HALT that awaits no fill. -/
theorem weadoWrite_core {s : State} {c : CoreId} {r : Nat} (awake : s.rst.phase ≠ .aopor) (waits : weadoWaits s (coreDbgOff c r) = false) (v : W64) :
    weadoWrite (coreDbgOff c r) v s = .next (answerWd 0 (writeWeado feedParcel (coreDbgOff c r) v (selected (coreDbgOff c r) s))) :=
  weadoWrite_ok awake (by rw [waits, Bool.false_and]) v

theorem exec_dctl {s : State} {c : CoreId} (awake : s.rst.phase ≠ .aopor) (halt : effLevel s = 2) (n : Nat) (m : Bool) (small : n < 8) :
    weadoWrite (coreDbgOff c 0x00) (BitVec.ofNat 64 (n + 8 * b2n m)) s = .next (answerWd 0 (
      let s1 := setCore c (dctlCore (s.core c) m (decide (n % 2 = 1))) (selected (coreDbgOff c 0x00) s)
      if n / 2 % 2 = 1 then resumeCore c s1 else if n / 4 % 2 = 1 then stepCore c s1 else s1)) := by
  obtain ⟨mask, asks, resumes, steps⟩ := dctl_bits n m small
  rw [weadoWrite_core awake (weadoWaits_core s c).1, (writeWeado_core (s := selected _ s) halt c _).1, writeDctl_of mask asks resumes steps]
  simp only [decide_eq_true_eq]
  rfl

theorem exec_haltreq {s : State} (awake : s.rst.phase ≠ .aopor) (halt : effLevel s = 2) (c : CoreId) (m : Bool) : exec (.haltreq c m) s =
    .next (answerWd 0 (setCore c (dctlCore (s.core c) m true) (selected (coreDbgOff c 0x00) s))) := by
  rw [haltreq_write, exec_dctl awake halt 1 m (by norm_num)]
  rfl

theorem exec_debugResume {s : State} (awake : s.rst.phase ≠ .aopor) (halt : effLevel s = 2) (c : CoreId) (m : Bool) : exec (.debugResume c m) s =
    .next (answerWd 0 (resumeCore c (setCore c (dctlCore (s.core c) m false) (selected (coreDbgOff c 0x00) s)))) := by
  rw [debugResume_write, exec_dctl awake halt 2 m (by norm_num)]
  rfl

theorem exec_debugStep {s : State} (awake : s.rst.phase ≠ .aopor) (halt : effLevel s = 2) (c : CoreId) (m : Bool) : exec (.debugStep c m) s =
    .next (answerWd 0 (stepCore c (setCore c (dctlCore (s.core c) m false) (selected (coreDbgOff c 0x00) s)))) := by
  rw [debugStep_write, exec_dctl awake halt 4 m (by norm_num)]
  rfl

theorem exec_dpcWrite {s : State} (awake : s.rst.phase ≠ .aopor) (halt : effLevel s = 2) (c : CoreId) (v : W64) : exec (.dpcWrite c v) s =
    .next (answerWd 0 (writeDpc c v (selected (coreDbgOff c 0x10) s))) := by
  rw [dpcWrite_write, weadoWrite_core awake (weadoWaits_core s c).2.1, (writeWeado_core (s := selected _ s) halt c v).2.1]

theorem exec_dfeed {s : State} (awake : s.rst.phase ≠ .aopor) (halt : effLevel s = 2) (c : CoreId) (p : BitVec 20) : exec (.dfeed c p) s =
    .next (answerWd 0 (feedParcel c p (selected (coreDbgOff c 0x18) s))) := by
  have parcel : (p.zeroExtend 64).truncate 20 = p := by ext i; simp
  rw [dfeed_write, weadoWrite_core awake (weadoWaits_core s c).2.2.1, (writeWeado_core (s := selected _ s) halt c _).2.2.1, parcel]

theorem exec_dx0Write {s : State} {c : CoreId} (awake : s.rst.phase ≠ .aopor) (halt : effLevel s = 2) (there : dtopSpilled s c false = false) (v : W64) :
    exec (.dx0Write c v) s = .next (answerWd 0 (writeDtop c false v (selected (coreDbgOff c 0x20) s))) := by
  rw [dx0Write_write, weadoWrite_core awake ((weadoWaits_core s c).2.2.2.1.trans there), (writeWeado_core (s := selected _ s) halt c v).2.2.2.1]

theorem exec_dy0Write {s : State} {c : CoreId} (awake : s.rst.phase ≠ .aopor) (halt : effLevel s = 2) (there : dtopSpilled s c true = false) (v : W64) :
    exec (.dy0Write c v) s = .next (answerWd 0 (writeDtop c true v (selected (coreDbgOff c 0x28) s))) := by
  rw [dy0Write_write, weadoWrite_core awake ((weadoWaits_core s c).2.2.2.2.trans there), (writeWeado_core (s := selected _ s) halt c v).2.2.2.2]

/-- No top cell of a core that is not halted is awaited. -/
theorem dtopSpilled_running {s : State} {c : CoreId} (running : (s.core c).st ≠ .halted) (ret : Bool) : dtopSpilled s c ret = false := by
  simp [dtopSpilled, running]

theorem dtopSpilled_oc {s : State} {c : CoreId} (there : (s.core c).run.oc ≠ [] ∨ (s.core c).run.osp = 0) : dtopSpilled s c false = false := by
  rcases there with h | h <;> simp [dtopSpilled, h]

theorem dtopSpilled_rc {s : State} {c : CoreId} (there : (s.core c).run.rc ≠ [] ∨ (s.core c).run.rsp = 0) : dtopSpilled s c true = false := by
  rcases there with h | h <;> simp [dtopSpilled, h]

theorem writeDtop_running {s : State} {c : CoreId} (running : (s.core c).st ≠ .halted) (ret : Bool) (v : W64) : writeDtop c ret v s = deny s := by
  simp [writeDtop, running]

theorem writeDtop_empty {s : State} {c : CoreId} {ret : Bool} (empty : (if ret then (s.core c).run.rc else (s.core c).run.oc) = []) (v : W64) :
    writeDtop c ret v s = deny s := by
  unfold writeDtop
  dsimp only
  rw [empty, ite_self]

theorem writeDtop_oc {s : State} {c : CoreId} {x : W64} {t : List W64} (halted : (s.core c).st = .halted) (top : (s.core c).run.oc = x :: t) (v : W64) :
    writeDtop c false v s = setCore c ((s.core c).putRun { (s.core c).run with oc := v :: t }) s := by
  simp [writeDtop, halted, top]

theorem writeDtop_rc {s : State} {c : CoreId} {x : W64} {t : List W64} (halted : (s.core c).st = .halted) (top : (s.core c).run.rc = x :: t) (v : W64) :
    writeDtop c true v s = setCore c ((s.core c).putRun { (s.core c).run with rc := v :: t }) s := by
  simp [writeDtop, halted, top]

/-! ## Reads of the window that consume (R573) -/

theorem readCmd_ok {who : Requester} {off : Nat} {s : State} (may : mayAccess who 2 off s = true) (whole : off % 8 = 0) (inside : off < 0xF0000) :
    readCmd who off s = .next (readBy who (readReg s off) (consumeReg off s)) := by
  have served : windowRefused who off s = false := by
    unfold mayAccess at may
    simpa using (Bool.and_eq_true_iff.1 may).1
  have answered : windowRead who off false s = (.okay, readReg s off, consumeReg off s) := by
    rw [windowRead, served, if_neg (by simp [whole]), if_neg (by omega)]
    rfl
  unfold mayAccess at may
  rw [served] at may
  unfold readCmd windowCmd
  cases who with
  | core c =>
    have lives : coreLives s c = true := by simpa using may
    dsimp only
    rw [if_pos lives, answered]
    rfl
  | weado =>
    have free : s.weado.sam.busy = false := by simp at may; exact may.1
    have level : ¬ effLevel s < 2 := by simp at may; omega
    dsimp only
    rw [free, if_neg level, answered]
    rfl
  | host =>
    dsimp only
    rw [answered]
    rfl

/-! ## The terminal and the trace port -/

theorem vtRead_empty {s : State} (open_ : vtRefused s = false) (empty : s.weado.vt.outFull = false) :
    vtRead s = answerWd (s.weado.vt.outData.zeroExtend 64) s := by
  have word : BitVec.ofNat 64 (s.weado.vt.outData.toNat + b2n false * 2 ^ 32) = s.weado.vt.outData.zeroExtend 64 := by
    apply BitVec.eq_of_toNat_eq
    simp [b2n]
  have kept : ({ s.weado.vt with outFull := false } : Vterm) = s.weado.vt := by rw [← empty]
  unfold vtRead
  rw [open_]
  dsimp only
  rw [kept, empty, word]
  rfl

theorem vtRead_full {s : State} (open_ : vtRefused s = false) (full : s.weado.vt.outFull = true) :
    vtRead s = arrive srcWeadoVt (answerWd (BitVec.ofNat 64 (s.weado.vt.outData.toNat + 2 ^ 32)) (setVt { s.weado.vt with outFull := false } s)) := by
  unfold vtRead
  rw [open_]
  dsimp only
  rw [full]
  rfl

theorem vtWrite_cases {s : State} (open_ : vtRefused s = false) (d : BitVec 32) : vtWrite d s = if s.weado.vt.inFull then answerWd 0 s
    else arrive srcWeadoVt (answerWd 1 (setVt { s.weado.vt with inData := d, inFull := true } s)) := by
  unfold vtWrite
  rw [open_]
  rfl

theorem vtRefused_iff {s : State} : vtRefused s = true ↔ s.fuses.now = 5 ∨ onlyAlwaysOn s = true := by
  rw [vtRefused, Bool.or_eq_true, beq_iff_eq]

theorem traceOvf_noDrop {s : State} (noDrop : s.weado.tr.lost = 0) : traceOvf s = s := by
  simp [traceOvf, noDrop]

/-- One TRCLK with bytes in the FIFO and no drop to report sends the earliest bytes. -/
theorem traceTransfer_sends {s : State} (bytes : s.weado.tr.fifo ≠ []) (noDrop : s.weado.tr.lost = 0) : traceTransfer s =
    setWeado { s.weado with tr := { s.weado.tr with
      port := s.weado.tr.fifo.take (traceBytes s) ++ List.replicate (traceBytes s - (s.weado.tr.fifo.take (traceBytes s)).length) 0
      fifo := s.weado.tr.fifo.drop (traceBytes s), mid := midAfter s.weado.tr.mid (s.weado.tr.fifo.take (traceBytes s)) } } s := by
  have some : s.weado.tr.fifo.isEmpty = false := by simpa using bytes
  unfold traceTransfer
  dsimp only
  rw [some, Bool.false_and, if_neg (by decide)]
  exact traceOvf_noDrop noDrop

/-- A command that a write denied below HALT answers. -/
def answeredDenied (off : Nat) (s : State) : State := answerWd 0 (deny (selected off s))

/-- A command whose write left core `c` as `k` answers. -/
def answeredCore (c : CoreId) (r : Nat) (k : Core) (s : State) : State := answerWd 0 (setCore c k (selected (coreDbgOff c r) s))

theorem writes_below_halt {s : State} (awake : s.rst.phase ≠ .aopor) (low : effLevel s < 2) (c : CoreId) (m : Bool) (p : BitVec 20) (v : W64) :
    exec (.haltreq c m) s = .next (answeredDenied (coreDbgOff c 0x00) s) ∧ exec (.debugResume c m) s = .next (answeredDenied (coreDbgOff c 0x00) s) ∧
    exec (.debugStep c m) s = .next (answeredDenied (coreDbgOff c 0x00) s) ∧ exec (.dpcWrite c v) s = .next (answeredDenied (coreDbgOff c 0x10) s) ∧
    exec (.dfeed c p) s = .next (answeredDenied (coreDbgOff c 0x18) s) ∧ exec (.dx0Write c v) s = .next (answeredDenied (coreDbgOff c 0x20) s) ∧
    exec (.dy0Write c v) s = .next (answeredDenied (coreDbgOff c 0x28) s) ∧ exec (.wfreezeWrite v) s = .next (answeredDenied 0 s) := by
  have denied (r : Nat) (which : r = 0 ∨ r = 0x10 ∨ r = 0x18 ∨ r = 0x20 ∨ r = 0x28) (v : W64) :=
    weadoWrite_denied awake low (needsHalt_core c which) v
  rw [haltreq_write, debugResume_write, debugStep_write, dpcWrite_write, dfeed_write, dx0Write_write, dy0Write_write, wfreezeWrite_write]
  exact ⟨denied 0 (by simp) _, denied 0 (by simp) _, denied 0 (by simp) _, denied 0x10 (by simp) _, denied 0x18 (by simp) _,
    denied 0x20 (by simp) _, denied 0x28 (by simp) _, weadoWrite_denied awake low (show needsHalt 0x000 = true from rfl) v⟩

section
variable {s : State} {c : CoreId} (awake : s.rst.phase ≠ .aopor) (halt : effLevel s = 2)
include awake halt

/-- The run-control writes that a core which is not halted takes. -/
theorem dctl_of_running (running : (s.core c).st ≠ .halted) (m : Bool) :
    exec (.haltreq c m) s = .next (answeredCore c 0x00 { s.core c with dbg := { (s.core c).dbg with stepmask := m, haltreq := true } } s) ∧
    exec (.debugResume c m) s = .next (answeredCore c 0x00 { s.core c with dbg := { (s.core c).dbg with stepmask := m } } s) ∧
    exec (.debugStep c m) s = .next (answeredCore c 0x00 { s.core c with dbg := { (s.core c).dbg with stepmask := m } } s) := by
  have other (off : Nat) (req : Bool) : ((setCore c (dctlCore (s.core c) m req) (selected off s)).core c).st ≠ .halted := by
    rw [core_setCore]; exact running
  have asked (req : Bool) : dctlCore (s.core c) m req = { s.core c with dbg := { (s.core c).dbg with
      stepmask := m, haltreq := (s.core c).dbg.haltreq || req } } := by rw [dctlCore, if_neg running]
  rw [exec_haltreq awake halt, exec_debugResume awake halt, exec_debugStep awake halt, resumeCore_other (other _ _), stepCore_other (other _ _),
    asked, asked, Bool.or_true, Bool.or_false]
  exact ⟨rfl, rfl, rfl⟩

/-- The other debug writes find a core that is not halted. -/
theorem writes_of_running (running : (s.core c).st ≠ .halted) (p : BitVec 20) (v : W64) :
    exec (.dpcWrite c v) s = .next (answeredDenied (coreDbgOff c 0x10) s) ∧
    exec (.dfeed c p) s = .next (answeredCore c 0x18 { s.core c with dbg := { (s.core c).dbg with feederr := true } } s) ∧
    exec (.dx0Write c v) s = .next (answeredDenied (coreDbgOff c 0x20) s) ∧ exec (.dy0Write c v) s = .next (answeredDenied (coreDbgOff c 0x28) s) := by
  have there (off : Nat) : ((selected off s).core c).st ≠ .halted := running
  have refused : feedRefused (selected (coreDbgOff c 0x18) s) c p = true := by
    show feedRefused s c p = true
    simp [feedRefused, running]
  rw [exec_dpcWrite awake halt, exec_dfeed awake halt, exec_dx0Write awake halt (dtopSpilled_running running false),
    exec_dy0Write awake halt (dtopSpilled_running running true), writeDpc, if_neg (there _), feedParcel, if_pos refused, writeDtop_running (there _),
    writeDtop_running (there _)]
  exact ⟨rfl, rfl, rfl, rfl⟩

/-- The run-control writes of a halted core that executes nothing: a RESUME and a STEP let it go on from DPC. -/
theorem dctl_of_halted (halted : (s.core c).st = .halted) (free : (s.core c).held = none) (m : Bool) :
    exec (.haltreq c m) s = .next (answeredCore c 0x00 { s.core c with dbg := { (s.core c).dbg with stepmask := m, haltreq := false } } s) ∧
    (∃ u, exec (.debugResume c m) s = .next u ∧ (u.core c).st = .running ∧ (u.core c).pc = (s.core c).dbg.dpc ∧
      (u.core c).repResume = (s.core c).dbg.drpend ∧ (u.core c).latent = [] ∧ (u.core c).delay = none ∧ (∀ l, (u.core c).bank l = (s.core c).bank l) ∧
      u.evc = s.evc ∧ u.vs = s.vs) ∧
    ∃ u, exec (.debugStep c m) s = .next u ∧ (u.core c).st = .running ∧ (u.core c).pc = (s.core c).dbg.dpc ∧
      (u.core c).repResume = (s.core c).dbg.drpend ∧ (u.core c).dbg.stepping = true ∧ (u.core c).dbg.stepmask = m ∧
      ∀ l, (u.core c).bank l = (s.core c).bank l := by
  have asked (req : Bool) : dctlCore (s.core c) m req = { s.core c with dbg := { (s.core c).dbg with stepmask := m, haltreq := false } } := by
    rw [dctlCore, if_pos halted]
  have same : ((setCore c (dctlCore (s.core c) m false) (selected (coreDbgOff c 0x00) s)).core c).st = .halted ∧
      ((setCore c (dctlCore (s.core c) m false) (selected (coreDbgOff c 0x00) s)).core c).held = none := by
    rw [core_setCore]; exact ⟨halted, free⟩
  refine ⟨?_, ⟨_, exec_debugResume awake halt c m, ?_⟩, ⟨_, exec_debugStep awake halt c m, ?_⟩⟩
  · rw [exec_haltreq awake halt, asked]; rfl
  · obtain ⟨w, q, wds, twd, form⟩ := resumeCore_form same.1 same.2
    rw [form, setCore_setCore, core_setCore]
    dsimp only [answerWd, setWeado, State.core, setCore]
    rw [Quad.get_set_same]
    exact ⟨rfl, rfl, rfl, rfl, rfl, fun _ => rfl, rfl, rfl⟩
  · rw [stepCore_form same.1 same.2, setCore_setCore, core_setCore]
    dsimp only [answerWd, setWeado, State.core, setCore]
    rw [Quad.get_set_same]
    exact ⟨rfl, rfl, rfl, rfl, rfl, fun _ => rfl⟩

/-- DPC and the feed of a halted core that executes nothing. -/
theorem feeds_of_halted (halted : (s.core c).st = .halted) (p : BitVec 20) (v : W64) :
    exec (.dpcWrite c v) s = .next (answeredCore c 0x10 { s.core c with dbg := { (s.core c).dbg with dpc := v.truncate 48, drpend := v.getLsbD 48 } } s) ∧
    (feedRefused s c p = true → exec (.dfeed c p) s =
      .next (answeredCore c 0x18 { s.core c with dbg := { (s.core c).dbg with feederr := true } } s)) ∧
    (feedRefused s c p = false → exec (.dfeed c p) s = .next (answerWd 0 (runHeld c
      (setCore c { s.core c with held := some ⟨0, p, nopParcel, true, .drain, [], [], false⟩ } (selected (coreDbgOff c 0x18) s))))) := by
  have there (off : Nat) : ((selected off s).core c).st = .halted := halted
  have same : feedRefused (selected (coreDbgOff c 0x18) s) c p = feedRefused s c p := rfl
  rw [exec_dpcWrite awake halt, exec_dfeed awake halt, writeDpc, if_pos (there _), feedParcel, same]
  refine ⟨rfl, fun refused => ?_, fun taken => ?_⟩
  · rw [refused]; rfl
  · rw [taken]; rfl

/-- The top cells of a halted core. -/
theorem tops_of_halted (halted : (s.core c).st = .halted) (v : W64) :
    (∀ x t, (s.core c).run.oc = x :: t → exec (.dx0Write c v) s =
      .next (answeredCore c 0x20 ((s.core c).putRun { (s.core c).run with oc := v :: t }) s)) ∧
    (∀ x t, (s.core c).run.rc = x :: t → exec (.dy0Write c v) s =
      .next (answeredCore c 0x28 ((s.core c).putRun { (s.core c).run with rc := v :: t }) s)) ∧
    ((s.core c).run.oc = [] → (s.core c).run.osp = 0 → exec (.dx0Write c v) s = .next (answeredDenied (coreDbgOff c 0x20) s)) ∧
    ((s.core c).run.rc = [] → (s.core c).run.rsp = 0 → exec (.dy0Write c v) s = .next (answeredDenied (coreDbgOff c 0x28) s)) := by
  refine ⟨fun x t top => ?_, fun x t top => ?_, fun empty none => ?_, fun empty none => ?_⟩
  · rw [exec_dx0Write awake halt (dtopSpilled_oc (.inl (by rw [top]; simp))), writeDtop_oc (s := selected _ s) halted top]; rfl
  · rw [exec_dy0Write awake halt (dtopSpilled_rc (.inl (by rw [top]; simp))), writeDtop_rc (s := selected _ s) halted top]; rfl
  · rw [exec_dx0Write awake halt (dtopSpilled_oc (.inr none)), writeDtop_empty (s := selected _ s) (ret := false) empty]; rfl
  · rw [exec_dy0Write awake halt (dtopSpilled_rc (.inr none)), writeDtop_empty (s := selected _ s) (ret := true) empty]; rfl

end

/-- Settles O57: `weadoWrite_ok` and `weadoWrite_denied` answer a write, `writeWeado_core` names the action of each debug register, and
`resumeCore_form` and `stepCore_form` say what a halted core goes on as. -/
theorem weadoCommands : Obligations.WeadoCommands := by
  unfold Obligations.WeadoCommands
  intro s awake
  dsimp only
  refine ⟨?select, ?access, ?reserved, ?low, ?halt, ?terminal, ?closed, ?vtin, ?trace⟩
  case select => exact fun di => weadoCmd_awake awake _
  case access =>
    intro there
    have passes : (weadoWaits s s.weado.sel.toNat && effLevel s == 2) = false := by rw [there, Bool.false_and]
    refine ⟨?_, fun di => ?_⟩
    · show (if weadoWaits s s.weado.sel.toNat then _ else weadoCmd s _) = _
      rw [there, weadoCmd_awake awake]
      rfl
    · have kept : selected s.weado.sel.toNat s = s := by rw [selected, BitVec.ofNat_toNat, BitVec.setWidth_eq]
      show weadoWrite s.weado.sel.toNat di s = _
      rw [weadoWrite_ok awake passes, kept]
      rfl
  case reserved =>
    intro cmd reserved
    show (if 1 ≤ cmd.toNat && cmd.toNat ≤ 5 then _ else weadoCmd s _) = _
    rw [if_neg (by simpa using reserved), weadoCmd_awake awake]
    rfl
  case low =>
    intro low c m p v
    have denied := writes_below_halt awake low c m p v
    dsimp only [answeredDenied, answerWd, deny, selected, setWeado, coreDbgOff] at denied
    exact denied
  case halt =>
    intro halt c m p v
    refine ⟨fun running => ?_, fun halted free => ?_⟩
    · have control := dctl_of_running awake halt running m
      have writes := writes_of_running awake halt running p v
      dsimp only [answeredDenied, answeredCore, answerWd, deny, selected, setWeado, setCore, coreDbgOff] at control writes ⊢
      exact ⟨control.1, control.2.1, control.2.2, writes⟩
    · have control := dctl_of_halted awake halt halted free m
      have feeds := feeds_of_halted awake halt halted p v
      have tops := tops_of_halted awake halt halted v
      dsimp only [answeredDenied, answeredCore, answerWd, deny, selected, setWeado, setCore, coreDbgOff] at control feeds tops ⊢
      exact ⟨control.1, control.2.1, control.2.2, feeds.1, feeds.2.1, feeds.2.2, tops⟩
  case terminal =>
    intro living reach
    have open_ : vtRefused s = false := by
      rw [← Bool.not_eq_true, vtRefused_iff]
      rintro (h | h)
      · exact living h
      · rw [reach] at h; exact absurd h (by decide)
    refine ⟨fun empty => ?_, fun full => ?_, fun d => ⟨fun full => ?_, fun empty => ?_⟩⟩
    · show weadoCmd s (vtRead s) = _
      rw [weadoCmd_awake awake, vtRead_empty open_ empty]; rfl
    · show weadoCmd s (vtRead s) = _
      rw [weadoCmd_awake awake, vtRead_full open_ full]; rfl
    · show weadoCmd s (vtWrite d s) = _
      rw [weadoCmd_awake awake, vtWrite_cases open_, if_pos full]; rfl
    · show weadoCmd s (vtWrite d s) = _
      rw [weadoCmd_awake awake, vtWrite_cases open_, empty]; rfl
  case closed =>
    intro shut
    have refused := vtRefused_iff.2 shut
    refine ⟨?_, fun d => ?_⟩
    · show weadoCmd s (vtRead s) = _
      rw [weadoCmd_awake awake, vtRead, if_pos refused]; rfl
    · show weadoCmd s (vtWrite d s) = _
      rw [weadoCmd_awake awake, vtWrite, if_pos refused]; rfl
  case vtin =>
    intro who may
    show readCmd who 0x108 s = _
    rw [readCmd_ok may (by norm_num) (by norm_num)]
    rfl
  case trace =>
    intro bytes noDrop on
    have length : ∀ n : Nat, n - (s.weado.tr.fifo.take n).length = n - s.weado.tr.fifo.length := fun n => by rw [List.length_take]; omega
    refine ⟨traceTransfer s, ?_, ?_⟩
    · show (if switchedOn s then weadoCmd s (traceTransfer s) else _) = _
      rw [if_pos on, weadoCmd_awake awake]
    · rw [traceTransfer_sends bytes noDrop, length]
      exact ⟨rfl, rfl, rfl⟩

end Sys2Proof.Proofs
end

section
/-! SUPPORT. WFREEZE and the system access master (R460, R520, R531, R533 to R535). -/

namespace Sys2Proof.Proofs

open Sys2Proof.Machine Sys2Proof.Claims Sys2Proof.Laws

/-- SAMCTL is written at every debug level, and waits for nothing. -/
theorem exec_samGo {s : State} (awake : s.rst.phase ≠ .aopor) (v : W64) : exec (.samGo v) s = .next (answerWd 0 (writeSamctl v (selected 8 s))) := by
  have free : needsHalt 8 = false := rfl
  rw [samGo_write, weadoWrite_ok awake rfl]
  unfold writeWeado
  rw [free]
  rfl

theorem writeSamctl_busy {v : W64} {s : State} (go : bitAt 0 v = true) (busy : s.weado.sam.busy = true) : writeSamctl v s = deny s := by
  unfold writeSamctl
  dsimp only
  rw [go, busy]
  rfl

theorem writeSamctl_go {v : W64} {s : State} (go : bitAt 0 v = true) (idle : s.weado.sam.busy = false) : writeSamctl v s =
    samGo (setSam { s.weado.sam with
      write := bitAt 1 v, consume := bitAt 2 v, posted := bitAt 3 v, space := v.extractLsb' 4 2, be := v.extractLsb' 6 8 } s) := by
  unfold writeSamctl
  dsimp only
  rw [go, idle]
  rfl

section
variable {s : State}

theorem samGo_low (low : effLevel s < samLevel s) : samGo s = samEnd 4 (deny s) := by rw [samGo, if_pos low]

/-- An access of the level it needs goes by its address space. -/
theorem samGo_levelled (enough : samLevel s ≤ effLevel s) : samGo s =
    if s.weado.sam.space = 1 then samVsAccess (s.weado.sam.addr.toNat % 2 ^ 23) s
    else if s.weado.sam.space != 0 || s.weado.sam.addr.toNat % 8 != 0 then samEnd 4 s
    else match routeOf s s.weado.sam.addr.toNat with
      | .setup off => samSetupAccess off s
      | .vs off => samVsAccess (off / 8) s
      | .ext kind emp => samExtAccess kind emp s := by
  have : ¬ effLevel s < samLevel s := by omega
  unfold samGo
  exact if_neg this

theorem samGo_reservedSpace (enough : samLevel s ≤ effLevel s) (space : 2 ≤ s.weado.sam.space.toNat) : samGo s = samEnd 4 s := by
  have notVs : s.weado.sam.space ≠ 1 := fun h => by rw [h] at space; exact absurd space (by decide)
  have notPa : s.weado.sam.space ≠ 0 := fun h => by rw [h] at space; exact absurd space (by decide)
  rw [samGo_levelled enough, if_neg notVs, bne_iff_ne.2 notPa]
  rfl

theorem samGo_unaligned (enough : samLevel s ≤ effLevel s) (space : s.weado.sam.space = 0) (part : s.weado.sam.addr.toNat % 8 ≠ 0) :
    samGo s = samEnd 4 s := by
  rw [samGo_levelled enough, space, bne_iff_ne.2 part]
  rfl

/-- An aligned access by physical address goes by its route. -/
theorem samGo_routed (enough : samLevel s ≤ effLevel s) (space : s.weado.sam.space = 0) (whole : s.weado.sam.addr.toNat % 8 = 0) (r : Route) :
    routeOf s s.weado.sam.addr.toNat = r → samGo s = match r with
      | .setup off => samSetupAccess off s
      | .vs off => samVsAccess (off / 8) s
      | .ext kind emp => samExtAccess kind emp s := by
  intro route
  rw [samGo_levelled enough, space, whole, route]
  cases r <;> rfl

/-- A peek of a set-up register brings its data and changes no register (R534). -/
theorem samSetupAccess_peek {off : Nat} (whole : off % 8 = 0) (inside : off < 0xF0000) (reads : s.weado.sam.write = false)
    (peeks : s.weado.sam.consume = false) : samSetupAccess off s = samEnd 0 (setSam { s.weado.sam with data := readReg s off } s) := by
  have answered : windowRead .weado off (!s.weado.sam.consume) s = (.okay, readReg s off, s) := by
    have served : windowRefused .weado off s = false := rfl
    rw [peeks, windowRead, served, if_neg (by simp [whole]), if_neg (by omega)]
    rfl
  unfold samSetupAccess
  dsimp only
  rw [if_neg (by simp [reads]), answered]
  rfl

/-- A read of a Vector Store word of this tile waits at its bank for WEADO. -/
theorem samVsAccess_read {w lw : Nat} (inside : w < wordSpace s) (home : homeWord s w = some lw) (reads : s.weado.sam.write = false) :
    samVsAccess w s = present [bankReq 17 lw .read (samSecure s) .sam] (setSam { s.weado.sam with busy := true, rd := true } s) := by
  unfold samVsAccess
  dsimp only
  rw [if_neg (by omega), home, reads]
  rfl

theorem samExtAccess_device {emp : Bool} (reads : s.weado.sam.write = false) (peeks : s.weado.sam.consume = false) :
    samExtAccess .device emp s = samEnd 5 s := by
  unfold samExtAccess
  dsimp only
  rw [reads, peeks]
  rfl

theorem samExtAccess_read {kind : AttrKind} {emp : Bool} (reads : s.weado.sam.write = false) (may : kind ≠ .device ∨ s.weado.sam.consume = true) :
    samExtAccess kind emp s = setSam { s.weado.sam with busy := true, rd := true, out := some s.weado.sam.addr } s := by
  have goes : (decide (kind = .device) && !s.weado.sam.consume) = false := by
    rcases may with h | h <;> simp [h]
  unfold samExtAccess
  dsimp only
  rw [reads, goes]
  rfl

theorem samExtAccess_noOutbound {kind : AttrKind} {emp : Bool} (writes : s.weado.sam.write = true) (none : outboundOk s = false) :
    samExtAccess kind emp s = samEnd 4 s := by
  unfold samExtAccess
  dsimp only
  rw [writes, none]
  rfl

/-- A peek of a set-up register needs OBSERVE, but for the registers that are free (R7, R516, R520). -/
theorem samLevel_peek {off : Nat} (names : samSetup s = some off) (reads : s.weado.sam.write = false) (peeks : s.weado.sam.consume = false) :
    samLevel s = if samFreeRead s off then 0 else 1 := by
  unfold samLevel
  dsimp only
  rw [reads, peeks, names]
  rfl

theorem samFreeRead_iff (off : Nat) : samFreeRead s off = true ↔ off < 0x10000 ∨ off = 0x90000 ∨ (off = 0x90018 ∧ onlyAlwaysOn s = false) ∨
    (0x90040 ≤ off ∧ off < 0x90070) ∨ (0xC0000 ≤ off ∧ off < 0xD0000) := by
  simp [samFreeRead, or_assoc]

/-- The data of a response is its own while no core holds the line dirty. -/
theorem samResponse_clean {pa : BitVec 52} (waits : s.weado.sam.out = some pa) (clean : dirtyCopy s (pa.toNat / 64) = none) (code : RspCode) (data : W64) :
    samResponse code data s = samEnd (codeNum code)
      (if s.weado.sam.rd && (code = .okay || code = .epoi) then setSam { s.weado.sam with data := data } s else s) := by
  unfold samResponse
  dsimp only
  rw [waits]
  dsimp only [Option.getD_some]
  rw [clean]
  cases routeOf s pa.toNat with
  | ext kind emp => cases kind <;> rfl
  | vs off => rfl
  | setup off => rfl

end

/-- Settles O58: `samGo_routed` sends an access by its route, and each access is what its own lemma says. -/
theorem systemAccesses : Obligations.SystemAccesses := by
  unfold Obligations.SystemAccesses
  refine ⟨?commands, ?accesses, ?levels, ?response⟩
  case commands =>
    intro v s awake
    dsimp only
    refine ⟨fun halt => ?_, fun go => ⟨fun busy => ?_, fun idle => ?_⟩⟩
    · rw [wfreezeWrite_write, weadoWrite_wfreeze awake halt]; rfl
    · rw [exec_samGo awake, writeSamctl_busy (s := selected 8 s) go busy]; rfl
    · rw [exec_samGo awake, writeSamctl_go (s := selected 8 s) go idle]; rfl
  case accesses =>
    intro s
    dsimp only
    refine ⟨fun low => samGo_low low, fun enough reserved => samGo_reservedSpace enough reserved,
      fun enough space part => samGo_unaligned enough space part, fun enough space whole => ⟨?_, ?_, ?_⟩⟩
    · intro off route whole' inside reads peeks
      rw [samGo_routed enough space whole _ route]
      exact samSetupAccess_peek whole' inside reads peeks
    · intro off lw route inside home reads
      rw [samGo_routed enough space whole _ route]
      exact ⟨_, samVsAccess_read inside home reads, rfl, rfl, rfl, rfl⟩
    · intro kind emp route
      rw [samGo_routed enough space whole _ route]
      refine ⟨fun reads device peeks => ?_, fun reads may => samExtAccess_read reads may, fun writes none => samExtAccess_noOutbound writes none⟩
      subst device
      exact samExtAccess_device reads peeks
  case levels =>
    intro off s names reads peeks
    rw [samLevel_peek names reads peeks, ← samFreeRead_iff]
    exact ⟨fun free => if_pos free, fun bound => if_neg bound⟩
  case response =>
    intro code data pa s unowed busy waits clean
    dsimp only
    have awaited : (s.weado.sam.busy && s.weado.sam.out.isSome) = true := by rw [busy, waits]; rfl
    show owedFirst .sam (fun s => onlyIf (s.weado.sam.busy && s.weado.sam.out.isSome) "no access awaits a response" (samResponse code data s)) s = _
    rw [owedFirst_of_not_mem _ unowed, onlyIf_of_true awaited, samResponse_clean waits clean]
    by_cases brings : s.weado.sam.rd = true ∧ (code = .okay ∨ code = .epoi)
    · rw [if_pos (by simpa using brings), if_pos brings]; rfl
    · rw [if_neg (by simpa using brings), if_neg brings]; rfl

end Sys2Proof.Proofs
end

section
/-! SUPPORT. Secure boot in END, where no service channel starts (R507, R516). -/

namespace Sys2Proof.Proofs

open Sys2Proof.Machine Sys2Proof.Claims Sys2Proof.Laws

/-- No service channel starts in END (R516). -/
theorem dmaStartChan_inEnd {ch : Fin 64} {s : State} (service : isService ch.val = true) (dead : s.fuses.now = 5) : dmaStartChan ch s = s := by
  rw [dmaStartChan, service, dead]
  rfl

/-- A copy that begins in END leaves channel 63 as it stood. -/
theorem bootCopy_inEnd {s : State} (dead : s.fuses.now = 5) : ((bootCopy s).chan 63).st = (s.chan 63).st := by
  have stays (k : Chan) (b : Boot) : (dmaStartChan 63 (setChan 63 k (setBoot b s))).chan 63 = k := by
    have there : (setChan 63 k (setBoot b s)).fuses.now = 5 := dead
    rw [dmaStartChan_inEnd rfl there, State.chan, setChan, Tab.get_set_same]
  rw [bootCopy, stays]

/-- A tile in END whose boot block holds a header of a one-byte image. -/
def endWithHeader : State :=
  { State.reset with
    fuses := { State.reset.fuses with lc := 5, now := 5 }
    boot := { State.reset.boot with hdr := [0, 0, 0, 0, 1, 0, 0, 0] } }

/-- Refutes O55: its clause on the copy omits that the lifecycle state is not END, where `dmaStartChan` starts no service channel
(`bootCopy_inEnd`); at `endWithHeader` channel 63 is IDLE before the copy and stays so, though the clause has it running. -/
theorem not_secureBoot : ¬ Obligations.SecureBoot := by
  unfold Obligations.SecureBoot
  rintro ⟨-, -, -, copies, -⟩
  have idle : (endWithHeader.chan 63).st = .idle := by decide
  obtain ⟨running, -⟩ := copies endWithHeader (by rw [idle]; decide) (by rw [idle]; decide) (by decide) (by decide) (by decide)
  rw [bootCopy_inEnd (by decide), idle] at running
  exact absurd running (by decide)

end Sys2Proof.Proofs
end

section
/-! SUPPORT. The service panel and the watchdogs (R470, R543, R546 to R551, R553). -/

namespace Sys2Proof.Proofs

open Sys2Proof.Machine Sys2Proof.Claims Sys2Proof.Laws

/-! ## What an arrival and a log record may change of the power controller -/

theorem arrive_power (n : Nat) (s : State) : ∃ ev cores held wake,
    arrive n s = { s with ev := ev, cores := cores, pwr := { s.pwr with heldArr := held, wake := wake } } := by
  unfold arrive takeArrival voidDet withCore setCore
  dsimp only
  split
  · exact ⟨s.ev, s.cores, s.pwr.heldArr, s.pwr.wake, rfl⟩
  split
  · exact ⟨s.ev, s.cores, _, s.pwr.wake, rfl⟩
  split <;> exact ⟨_, _, s.pwr.heldArr, _, rfl⟩

theorem logRecord_power (kind unit : Nat) (addr : BitVec 52) (detail : W64) (mchk : Bool) (s : State) : ∃ l ev cores held wake,
    logRecord kind unit addr detail mchk s = { s with log := l, ev := ev, cores := cores, pwr := { s.pwr with heldArr := held, wake := wake } } ∧
    l.wcount = s.log.wcount + 1 ∧ l.aotime = s.log.aotime := by
  obtain ⟨l, logged, counted, time⟩ := logRecord_counts kind unit addr detail mchk s
  rw [logged]
  cases mchk with
  | false => exact ⟨l, s.ev, s.cores, s.pwr.heldArr, s.pwr.wake, rfl, counted, time⟩
  | true =>
    obtain ⟨ev, cores, held, wake, arrived⟩ := arrive_power srcMchk { s with log := l }
    exact ⟨l, ev, cores, held, wake, arrived, counted, time⟩

/-! ## Tamper (R550) -/

theorem tamperLevel_facts (s : State) : (tamperLevel s).auth.level = 0 ∧ (∀ r, (tamperLevel s).auth.run = some r → r.discard = true) ∧
    (tamperLevel s).vs = s.vs ∧ (tamperLevel s).role = s.role ∧ (tamperLevel s).panel = s.panel := by
  obtain ⟨c, w, p, d, e, form⟩ := setLevel_form 0 false s
  rw [tamperLevel, form]
  refine ⟨rfl, fun r run => ?_, rfl, rfl, rfl⟩
  obtain ⟨r', -, rfl⟩ := Option.map_eq_some_iff.1 run
  rfl

theorem tamperTrip_facts (s : State) : (tamperTrip s).panel.tamper = true ∧ (tamperTrip s).panel.tampered = true ∧ (tamperTrip s).auth.level = 0 ∧
    (tamperTrip s).vs.wipePending = true ∧ (tamperTrip s).vs.mem = s.vs.mem ∧ (tamperTrip s).role = s.role ∧
    ∀ r, (tamperTrip s).auth.run = some r → r.discard = true := by
  obtain ⟨wipes, -, mem, role⟩ := wipeTrip_facts s
  obtain ⟨level, discards, vs, role', -⟩ := tamperLevel_facts (wipeTrip s)
  unfold tamperTrip
  dsimp only
  generalize tamperLevel (wipeTrip s) = s1 at level discards vs role'
  obtain ⟨ev, cores, held, wake, arrived⟩ := arrive_power srcPanelTamper (setPanel { s1.panel with tamper := true, tampered := true } s1)
  obtain ⟨l, ev', cores', held', wake', logged, -⟩ := logRecord_power 0x0F unitSec 0 (s.fuses.now.zeroExtend 64) true
    (arrive srcPanelTamper (setPanel { s1.panel with tamper := true, tampered := true } s1))
  rw [logged, arrived]
  exact ⟨rfl, rfl, level, (congrArg VStore.wipePending vs).trans wipes, (congrArg VStore.mem vs).trans mem, role'.trans role, discards⟩

/-! ## A core that its watchdog resets (R551) -/

theorem startCore_form (c : CoreId) (s : State) : ∃ cores weado, startCore c s = { s with cores := cores, weado := weado } ∧
    ∀ d : CoreId, (cores.get d).banks = (s.core d).banks ∧ (cores.get d).sb = (s.core d).sb := by
  have kept (k : Core) (banks : k.banks = (s.core c).banks) (sb : k.sb = (s.core c).sb) (d : CoreId) :
      ((s.cores.set c k).get d).banks = (s.core d).banks ∧ ((s.cores.set c k).get d).sb = (s.core d).sb := by
    by_cases same : d = c
    · rw [same, Quad.get_set_same]; exact ⟨banks, sb⟩
    · rw [Quad.get_set_other _ _ _ _ same]; exact ⟨rfl, rfl⟩
  unfold startCore traceHalt
  dsimp only
  split
  · obtain ⟨w, traced⟩ := trace_cores 4 c.val (BitVec.ofNat 8 1 :: bytesLE (s.rst.bootvec.get c).toNat 6) (setCore c { s.core c with
      st := .halted, ran := false, pc := s.rst.bootvec.get c
      dbg := { (s.core c).dbg with haltAtStart := false, cause := 1, dpc := s.rst.bootvec.get c, drpend := false } } s)
    exact ⟨_, w, traced, kept _ rfl rfl⟩
  · exact ⟨_, s.weado, rfl, kept _ rfl rfl⟩

theorem startCores_form (s : State) : ∃ cores weado, startCores s = { s with cores := cores, weado := weado } ∧
    ∀ d : CoreId, (cores.get d).banks = (s.core d).banks ∧ (cores.get d).sb = (s.core d).sb := by
  have folded (l : List CoreId) (s : State) : ∃ cores weado,
      l.foldl (fun s c => if s.rst.run.getLsbD c.val && (s.core c).st == .off then startCore c s else s) s =
        { s with cores := cores, weado := weado } ∧
      ∀ d : CoreId, (cores.get d).banks = (s.core d).banks ∧ (cores.get d).sb = (s.core d).sb := by
    induction l generalizing s with
    | nil => exact ⟨_, _, rfl, fun _ => ⟨rfl, rfl⟩⟩
    | cons c l ih =>
      rw [List.foldl_cons]
      split
      · obtain ⟨cores, weado, started, kept⟩ := startCore_form c s
        obtain ⟨cores', weado', rest, kept'⟩ := ih (startCore c s)
        rw [started] at rest kept'
        exact ⟨cores', weado', by rw [started]; exact rest, fun d => ⟨(kept' d).1.trans (kept d).1, (kept' d).2.trans (kept d).2⟩⟩
      · exact ih s
  unfold startCores
  split
  · exact folded fours s
  · exact ⟨_, _, rfl, fun _ => ⟨rfl, rfl⟩⟩

/-- A write of the run mask that clears no bit resets no core. -/
theorem writeRun_grows {run : BitVec 4} {s : State} (grows : ∀ c : Fin 4, s.rst.run.getLsbD c.val = true → run.getLsbD c.val = true) :
    writeRun run s = startCores (setRst { s.rst with run := run } s) := by
  have none (c : Fin 4) : (s.rst.run.getLsbD c.val && !run.getLsbD c.val) = false := by
    cases on : s.rst.run.getLsbD c.val
    · rfl
    · rw [grows c on]; rfl
  have stays (l : List CoreId) : l.foldl (fun s c => if s.rst.run.getLsbD c.val && !run.getLsbD c.val then coreResetOne c s else s) s = s := by
    induction l with
    | nil => rfl
    | cons c l ih => rw [List.foldl_cons, none c, if_neg (by decide), ih]
  unfold writeRun
  dsimp only
  rw [stays]

theorem or_grows (x y : BitVec 4) (c : Fin 4) (on : x.getLsbD c.val = true) : (x ||| y).getLsbD c.val = true := by
  rw [BitVec.getLsbD_or, on, Bool.true_or]

theorem clear_or_bit (x : BitVec 4) (c : CoreId) : (x &&& ~~~ BitVec.ofNat 4 (2 ^ c.val)) ||| BitVec.ofNat 4 (2 ^ c.val) = x ||| BitVec.ofNat 4 (2 ^ c.val) := by
  revert x c
  decide

/-- The reset of one core: the core and its event controller are as after reset, its run bit is clear, and no watchdog and no log changes. -/
theorem coreResetOne_facts (c : CoreId) (s : State) : ((coreResetOne c s).core c).st = .off ∧ ((coreResetOne c s).core c).banks = [] ∧
    ((coreResetOne c s).core c).sb = [] ∧ (coreResetOne c s).evc.get c = evCore0 ∧
    (coreResetOne c s).rst.run = s.rst.run &&& ~~~ BitVec.ofNat 4 (2 ^ c.val) ∧ (coreResetOne c s).wds = s.wds ∧ (coreResetOne c s).log = s.log := by
  have cleared := cleared_clearCore c s
  obtain ⟨⟨dbg, core⟩, evc⟩ := cleared.this
  have rst := cleared_field State.rst (fun _ _ _ _ _ _ _ _ => rfl) cleared
  have wds := cleared_field State.wds (fun _ _ _ _ _ _ _ _ => rfl) cleared
  have log := cleared_field State.log (fun _ _ _ _ _ _ _ _ => rfl) cleared
  obtain ⟨e, p, r, form, run⟩ := coreResetOne_form c s
  rw [form]
  dsimp only [State.core]
  rw [core, run, rst]
  exact ⟨rfl, rfl, rfl, evc, rfl, wds, log⟩

theorem coreWdExpire_facts (c : CoreId) (s : State) : ∀ u, u = coreWdExpire c s → (u.wds.get c).expired = true ∧
    (u.wds.get c).remain = BitVec.ofNat 24 (s.wds.get c).ticks ∧ (u.core c).banks = [] ∧ (u.core c).sb = [] ∧ u.evc.get c = evCore0 ∧
    ((s.wds.get c).restart = false → (u.core c).st = .off ∧ u.rst.run = s.rst.run &&& ~~~ BitVec.ofNat 4 (2 ^ c.val)) ∧
    ((s.wds.get c).restart = true → u.rst.run = s.rst.run ||| BitVec.ofNat 4 (2 ^ c.val)) ∧ u.log.wcount = s.log.wcount + 1 := by
  intro u expires
  obtain ⟨l, ev, cores, held, wake, logged, counted, -⟩ := logRecord_power 0x0D unitSec 0 (BitVec.ofNat 64 c.val) true
    { s with wds := s.wds.set c { (s.wds.get c).reload with expired := true } }
  unfold coreWdExpire at expires
  dsimp only at expires
  rw [logged] at expires
  obtain ⟨off, banks, sb, evc, run, wds, log⟩ := coreResetOne_facts c { s with
    wds := s.wds.set c { (s.wds.get c).reload with expired := true }, log := l, ev := ev, cores := cores, pwr := { s.pwr with heldArr := held, wake := wake } }
  generalize coreResetOne c _ = s2 at expires off banks sb evc run wds log
  dsimp only at run wds log
  have watchdog : s2.wds.get c = { (s.wds.get c).reload with expired := true } := by rw [wds, Quad.get_set_same]
  cases restart : (s.wds.get c).restart with
  | false =>
    rw [restart, if_neg (by decide)] at expires
    rw [expires, watchdog, log, run]
    exact ⟨rfl, rfl, banks, sb, evc, fun _ => ⟨off, rfl⟩, fun no => absurd no (by decide), counted⟩
  | true =>
    rw [restart, if_pos rfl, writeRun_grows (or_grows _ _)] at expires
    obtain ⟨cores', weado, started, kept⟩ := startCores_form (setRst { s2.rst with run := s2.rst.run ||| BitVec.ofNat 4 (2 ^ c.val) } s2)
    rw [started] at expires
    rw [expires]
    dsimp only [State.core, setRst]
    rw [(kept c).1, (kept c).2, watchdog, log, run]
    exact ⟨rfl, rfl, banks, sb, evc, fun no => absurd no (by decide), fun _ => clear_or_bit _ _, counted⟩

/-! ## The commands of the panel -/

theorem alwaysOn_of {s : State} (awake : s.rst.phase ≠ .aopor) : alwaysOn s = true := by simpa [alwaysOn] using awake

theorem press_cases (s : State) : press s = arrive srcPanelAttn (setPanel (if s.panel.evac = 0
    then { s.panel with presses := satInc s.panel.presses, evac := 1, since := s.log.aotime, told := false }
    else { s.panel with presses := satInc s.panel.presses }) s) := rfl

theorem panelPress_effect {s : State} (awake : s.rst.phase ≠ .aopor) (released : s.panel.attn = false) : exec .panelPress s =
    .next (arrive srcPanelAttn { s with panel := if s.panel.evac = 0
      then { s.panel with attn := true, presses := satInc s.panel.presses, evac := 1, since := s.log.aotime, told := false }
      else { s.panel with attn := true, presses := satInc s.panel.presses } }) := by
  show onlyIf (alwaysOn s && !s.panel.attn) "the attention button is pressed already" _ = _
  rw [onlyIf_of_true (by rw [alwaysOn_of awake, released]; rfl)]
  rfl

theorem presenceLoss_effect {s : State} (awake : s.rst.phase ≠ .aopor) (seated : s.panel.pres = true) :
    exec .presenceLoss s = .next (presenceLost s) := by
  show onlyIf (alwaysOn s && s.panel.pres) "the sled is not seated" _ = _
  rw [onlyIf_of_true (by rw [alwaysOn_of awake, seated]; rfl)]

theorem tamperTrip_effect {s : State} (awake : s.rst.phase ≠ .aopor) (closed : s.panel.tamper = false) : exec .tamperTrip s = .next (tamperTrip s) := by
  show onlyIf (alwaysOn s && !s.panel.tamper) "the chassis is open already" _ = _
  rw [onlyIf_of_true (by rw [alwaysOn_of awake, closed]; rfl)]

theorem evacStep_safe {s : State} (migrating : s.panel.evac = 1) (quiet : evacQuiet s = true) (stays : s.panel.evacoff = false ∨ s.pwr.state = 4) :
    evacStep s = some (setPanel { s.panel with evac := 2 } s) := by
  have reached : (!s.panel.evacoff || decide (s.pwr.state = 4)) = true := by
    rcases stays with h | h <;> simp [h]
  unfold evacStep
  rw [migrating, quiet, reached]
  rfl

theorem evacStep_off {s : State} (migrating : s.panel.evac = 1) (quiet : evacQuiet s = true) (turnsOff : s.panel.evacoff = true)
    (on : s.pwr.state ≠ 4) (unasked : offAsked s = false) : evacStep s = some (pwrRequest 4 true s) := by
  unfold evacStep
  rw [migrating, quiet, turnsOff, decide_eq_false on, unasked]
  rfl

/-- Settles O53: each event of the panel is its own function (`press_cases`, `evacStep_safe`, `tamperTrip_facts`), and `coreWdExpire_facts`
says what the expiry of a core's watchdog leaves. -/
theorem panelAndWatchdogs : Obligations.PanelAndWatchdogs := by
  unfold Obligations.PanelAndWatchdogs
  refine ⟨?panel, ?evacuation, ?timeout, ?coreWarning, ?tileWarning, ?coreExpiry, ?tileExpiry⟩
  case panel =>
    intro s awake
    have on := alwaysOn_of awake
    refine ⟨fun released => panelPress_effect awake released, fun pressed => ?_, fun opened => ?_, fun pulled => ?_, fun seated => ?_, fun closed => ?_⟩
    · exact onlyIf_of_true (by rw [on, pressed]; rfl)
    · exact onlyIf_of_true (by rw [on, opened]; rfl)
    · exact onlyIf_of_true (by rw [on, pulled]; rfl)
    · dsimp only
      refine ⟨fun safe => ?_, fun surprised => ?_⟩
      · rw [presenceLoss_effect awake seated, presenceLost, if_pos safe]; rfl
      · rw [presenceLoss_effect awake seated, presenceLost, if_neg surprised]; rfl
    · obtain ⟨tamper, tampered, level, wipes, mem, role, discards⟩ := tamperTrip_facts s
      exact ⟨_, tamperTrip_effect awake closed, tamper, tampered, level, wipes, mem, role, discards⟩
  case evacuation =>
    intro s migrating quiet
    refine ⟨fun stays => ?_, fun turnsOff on unasked => ?_⟩
    · show orRefuse "the evacuation cannot go on now" (evacStep s) = _
      rw [evacStep_safe migrating quiet stays]; rfl
    · show orRefuse "the evacuation cannot go on now" (evacStep s) = _
      rw [evacStep_off migrating quiet turnsOff on unasked]; rfl
  case timeout =>
    intro s migrating set untold late
    refine onlyIf_of_true ?_
    have overdue : s.log.aotime.toNat - s.panel.since.toNat ≥ s.panel.evactmo.toNat * aoPerSecond := late
    rw [evacTimeoutDue, migrating, bne_iff_ne.2 set, untold, decide_eq_true overdue]
    rfl
  case coreWarning =>
    intro c s enabled unwarned low
    refine onlyIf_of_true ?_
    simp only [enabled, Wdog.warns, unwarned, Bool.true_and, Bool.not_false, decide_eq_true_eq]
    exact low
  case tileWarning =>
    intro s enabled unwarned low
    refine onlyIf_of_true ?_
    simp only [enabled, Wdog.warns, unwarned, Bool.true_and, Bool.not_false, decide_eq_true_eq]
    exact low
  case coreExpiry =>
    intro c s enabled ended
    exact ⟨_, onlyIf_of_true (by rw [enabled, ended]; rfl), coreWdExpire_facts c s _ rfl⟩
  case tileExpiry =>
    intro s enabled ended
    have expires : exec .tileWatchdogExpiry s = .next (tileWdExpire s) := onlyIf_of_true (by rw [enabled, ended]; rfl)
    obtain ⟨l, ev, cores, held, wake, logged, -⟩ := logRecord_power 0x0E unitSec 0 0 true { s with
      twd := { s.twd.reload with expired := true }, panel := { s.panel with fcause := s.panel.fcause ||| 2 } }
    have flush : (logRecord 0x0E unitSec 0 0 true { s with
      twd := { s.twd.reload with expired := true }, panel := { s.panel with fcause := s.panel.fcause ||| 2 } }).pwr.flush = s.pwr.flush := by rw [logged]
    refine ⟨fun quiet => ?_, fun flushing => ?_⟩
    · rw [expires, tileWdExpire, warmResetAfterFlush, flush, quiet]; rfl
    · rw [expires, tileWdExpire, warmResetAfterFlush, flush, if_pos (Option.isSome_iff_ne_none.2 flushing)]; rfl

end Sys2Proof.Proofs
end

section
/-! SUPPORT. Power transitions, the supply supervisor and the hold-up flush (R484 to R498, R553). -/

namespace Sys2Proof.Proofs

open Sys2Proof.Machine Sys2Proof.Claims Sys2Proof.Laws

/-! ## What the flush and an entry to FENCED leave of the power controller -/

/-- The power controller but for the arrivals that DOZE holds and the wake-up mark, with the supervisor and the time. -/
def powerSide (s : State) : Power × Supv × BitVec 64 := ({ s.pwr with heldArr := [], wake := false }, s.supv, s.log.aotime)

@[simp] theorem powerSide_arrive (n : Nat) (s : State) : powerSide (arrive n s) = powerSide s := by
  obtain ⟨ev, cores, held, wake, arrived⟩ := arrive_power n s
  rw [arrived]
  rfl

@[simp] theorem powerSide_logRecord (kind unit : Nat) (addr : BitVec 52) (detail : W64) (mchk : Bool) (s : State) :
    powerSide (logRecord kind unit addr detail mchk s) = powerSide s := by
  obtain ⟨l, ev, cores, held, wake, logged, -, time⟩ := logRecord_power kind unit addr detail mchk s
  rw [logged, powerSide, powerSide, time]

@[simp] theorem powerSide_withCore (c : CoreId) (f : Core → Core) (s : State) : powerSide (withCore c f s) = powerSide s := rfl
@[simp] theorem powerSide_setEng (e : Engine) (s : State) : powerSide (setEng e s) = powerSide s := rfl
@[simp] theorem powerSide_setVs (v : VStore) (s : State) : powerSide (setVs v s) = powerSide s := rfl
@[simp] theorem powerSide_setChain (i : Fin 4) (ch : Chain) (s : State) : powerSide (setChain i ch s) = powerSide s := rfl
@[simp] theorem powerSide_clearFault (i : Fin 4) (s : State) : powerSide (clearFault i s) = powerSide s := rfl
@[simp] theorem powerSide_setEntry (c : CoreId) (e : Fin 8) (q : QEntry) (s : State) : powerSide (setEntry c e q s) = powerSide s := rfl
@[simp] theorem powerSide_setChan (ch : Fin 64) (k : Chan) (s : State) : powerSide (setChan ch k s) = powerSide s := rfl
@[simp] theorem powerSide_ringStop (s : State) : powerSide (ringStop s) = powerSide s := rfl

@[simp] theorem powerSide_tracePacket (kind src : Nat) (payload : List Byte) (s : State) : powerSide (tracePacket kind src payload s) = powerSide s := by
  obtain ⟨w, traced⟩ := trace_cores kind src payload s
  rw [traced]
  rfl

@[simp] theorem powerSide_sendPair (w : PairWord) (s : State) : powerSide (sendPair w s) = powerSide s := by
  unfold sendPair
  split <;> rfl

@[simp] theorem powerSide_deliverStatus (c : CoreId) (e : Fin 8) (r : StatusRec) (final : Bool) (s : State) :
    powerSide (deliverStatus c e r final s) = powerSide s := by
  unfold deliverStatus
  dsimp only
  split_ifs <;> rfl

theorem powerSide_finishChain (i : Fin 4) (state : Nat) (cause : BitVec 8) (vorx : Nat) (s : State) :
    powerSide (finishChain i state cause vorx s) = powerSide s := by
  unfold finishChain
  split
  · rfl
  · dsimp only
    split
    · rfl
    · rw [traceChdone, powerSide_tracePacket, powerSide_arrive, powerSide_deliverStatus]; rfl

theorem powerSide_failChain (i : Fin 4) (cause : BitVec 8) (vorx : Nat) (pa : BitVec 52) (logIt : Bool) (s : State) :
    powerSide (failChain i cause vorx pa logIt s) = powerSide s := by
  unfold failChain
  split
  · rfl
  split
  · rfl
  · dsimp only
    split <;> simp

theorem powerSide_tryEnd (i : Fin 4) (s : State) : powerSide (tryEnd i s) = powerSide s := by
  unfold tryEnd
  split
  · rfl
  split
  · split
    · rfl
    · exact powerSide_finishChain ..
  · rfl

theorem powerSide_fenceChains (s : State) : powerSide (fenceChains s) = powerSide s := by
  refine foldl_field powerSide (fun s i => ?_) fours s
  split
  · rw [powerSide_tryEnd, powerSide_failChain]
  · rfl

theorem powerSide_takeFault (i : Fin 4) (f : SFault) (s : State) : powerSide (takeFault i f s) = powerSide s := by
  unfold takeFault
  split
  · rfl
  dsimp only
  split
  · rfl
  split <;> rfl

theorem powerSide_raiseFault (i : Fin 4) (f : SFault) (s : State) : powerSide (raiseFault i f s) = powerSide s := by
  unfold raiseFault
  split
  · rfl
  · rw [powerSide_takeFault, powerSide_sendPair]

theorem powerSide_flushChains (s : State) : powerSide (flushChains s) = powerSide s := by
  refine foldl_field powerSide (fun s i => ?_) fours s
  split
  · split
    · exact powerSide_raiseFault ..
    · exact powerSide_raiseFault ..
    · rfl
  · rfl

theorem powerSide_dmaSettle (ch : Fin 64) (s : State) : powerSide (dmaSettle ch s) = powerSide s := by
  unfold dmaSettle
  dsimp only
  split
  · rfl
  split <;> split <;> simp

theorem powerSide_dmaFail (ch : Fin 64) (dir list : Bool) (pa : Nat) (code : BitVec 4) (s : State) :
    powerSide (dmaFail ch dir list pa code s) = powerSide s := by
  rw [dmaFail, powerSide_dmaSettle]
  rfl

theorem powerSide_dmaFlush (s : State) : powerSide (dmaFlush s) = powerSide s := by
  refine foldl_field powerSide (fun s ch => ?_) allChans s
  dsimp only
  split
  · exact powerSide_dmaFail ..
  · rfl

theorem powerSide_dmaFence (s : State) : powerSide (dmaFence s) = powerSide s := by
  refine foldl_field powerSide (fun s ch => ?_) allChans s
  dsimp only
  split
  · split
    · exact powerSide_dmaFail ..
    · rfl
  · rfl

theorem powerSide_lateError (c : CoreId) (pa : BitVec 52) (wb : Bool) (s : State) : powerSide (lateError c pa wb s) = powerSide s := by
  simp [lateError]

theorem powerSide_discardStores (c : CoreId) (s : State) : powerSide (discardStores c s) = powerSide s :=
  foldl_field powerSide (fun s _ => powerSide_lateError c _ false s) _ _

theorem powerSide_enterFenced (freason : BitVec 4) (relay : Bool) (s : State) : powerSide (enterFenced freason relay s) = powerSide s := by
  have claimed (s : State) : powerSide (dropClaim s) = powerSide s := by
    unfold dropClaim
    dsimp only
    split <;> rfl
  have acted (s : State) : powerSide (arrive srcRoleChange (fours.foldl (fun s c => discardStores c s) (dmaFence (fenceChains s)))) = powerSide s := by
    rw [powerSide_arrive, foldl_field powerSide (fun s c => powerSide_discardStores c s), powerSide_dmaFence, powerSide_fenceChains]
  unfold enterFenced
  dsimp only
  split
  · rfl
  split <;> split <;> simp only [powerSide_sendPair, acted, powerSide_ringStop, claimed] <;> rfl

theorem supv_of_powerSide {s t : State} (same : powerSide t = powerSide s) : t.supv = s.supv := congrArg (fun x => x.2.1) same

theorem aotime_of_powerSide {s t : State} (same : powerSide t = powerSide s) : t.log.aotime = s.log.aotime := congrArg (fun x => x.2.2) same

/-- A field that arrivals and wake-ups leave is the same where the power sides are. -/
theorem power_field {β : Type} {s t : State} (same : powerSide t = powerSide s) (f : Power → β)
    (blind : ∀ p : Power, f { p with heldArr := [], wake := false } = f p) : f t.pwr = f s.pwr := by
  rw [← blind t.pwr, ← blind s.pwr]
  exact congrArg (fun x => f x.1) same

/-! ## OFF (R484, R490) -/

theorem enterOff_facts (s : State) : (enterOff s).pwr.state = 4 ∧ (enterOff s).rst.phase = .off ∧ (enterOff s).rst.cause = s.rst.cause ∧
    (enterOff s).log = s.log ∧ (enterOff s).fuses.lc = s.fuses.lc ∧ (enterOff s).weado = s.weado ∧ (enterOff s).panel = s.panel ∧
    (enterOff s).supv = { s.supv with vbus := 0, valid := false, low := false, high := false, nWarn := 0, nOver := 0 } ∧
    (enterOff s).id = { s.id with paramerr := false } ∧ (enterOff s).vs.wipePending = s.vs.wipePending ∧ (enterOff s).vs.mem = Memory.zero ∧
    (enterOff s).pwr.goodlost = s.pwr.goodlost ∧ ∀ c : CoreId, ((enterOff s).core c).st = .off ∧ ((enterOff s).core c).dcache = [] := by
  obtain ⟨f, cut, -⟩ := wrapCut_form s
  unfold enterOff
  rw [cut]
  refine ⟨rfl, rfl, rfl, rfl, rfl, rfl, rfl, rfl, rfl, rfl, rfl, rfl, fun c => ?_⟩
  fin_cases c <;> exact ⟨rfl, rfl⟩

/-! ## The caches on entry to DOZE (R484) -/

/-- A core without cached lines and translations. -/
def bare (k : Core) : Prop := k.dcache = [] ∧ k.icache = [] ∧ k.tlb = [] ∧ k.wcache = []

/-- What the entry to DOZE does to one core's caches. -/
def dozeCore (c : CoreId) (s : State) : State :=
  withCore c (fun k => { k with dcache := [], icache := [], tlb := [], wcache := [], code := none }) (flushDcache c s)

theorem flushDcache_kept (c d : CoreId) (s : State) : ((flushDcache c s).core d).banks = (s.core d).banks ∧
    ((flushDcache c s).core d).level = (s.core d).level ∧ ((flushDcache c s).core d).pc = (s.core d).pc ∧
    ((flushDcache c s).core d).icache = (s.core d).icache ∧ ((flushDcache c s).core d).tlb = (s.core d).tlb ∧
    ((flushDcache c s).core d).wcache = (s.core d).wcache ∧ (flushDcache c s).vs = s.vs := by
  have same : besidesLines d (flushDcache c s) = besidesLines d s :=
    foldl_field (besidesLines d) (fun s (e : Nat × DLine) => besidesLines_dropLine d c e.1 true s) (s.core c).dcache s
  have core : sansLines ((flushDcache c s).core d) = sansLines (s.core d) := congrArg Prod.fst same
  have field {β : Type} (f : Core → β) (apart : ∀ k, f (sansLines k) = f k) : f ((flushDcache c s).core d) = f (s.core d) := by
    rw [← apart, core, apart]
  exact ⟨field Core.banks (fun _ => rfl), field Core.level (fun _ => rfl), field Core.pc (fun _ => rfl), field Core.icache (fun _ => rfl),
    field Core.tlb (fun _ => rfl), field Core.wcache (fun _ => rfl), congrArg (fun x => x.2.1) same⟩

theorem flushDcache_other {c d : CoreId} (other : d ≠ c) (s : State) : ((flushDcache c s).core d).dcache = (s.core d).dcache :=
  foldl_field (fun s => (s.core d).dcache) (fun s (e : Nat × DLine) => dropLine_dcache_other other e.1 true s) (s.core c).dcache s

theorem dozeCore_facts (c d : CoreId) (s : State) : ((dozeCore c s).core d).banks = (s.core d).banks ∧
    ((dozeCore c s).core d).level = (s.core d).level ∧ ((dozeCore c s).core d).pc = (s.core d).pc ∧ (dozeCore c s).vs = s.vs ∧
    (d = c ∨ bare (s.core d) → bare ((dozeCore c s).core d)) := by
  obtain ⟨banks, level, pc, icache, tlb, wcache, vs⟩ := flushDcache_kept c d s
  by_cases same : d = c
  · subst same
    rw [dozeCore, core_withCore]
    exact ⟨banks, level, pc, vs, fun _ => ⟨rfl, rfl, rfl, rfl⟩⟩
  · have apart : (dozeCore c s).core d = (flushDcache c s).core d := Quad.get_set_other _ _ _ _ same
    rw [apart]
    refine ⟨banks, level, pc, vs, fun was => ?_⟩
    obtain ⟨noData, noCode, noTlb, noWalk⟩ := was.resolve_left same
    exact ⟨(flushDcache_other same s).trans noData, icache.trans noCode, tlb.trans noTlb, wcache.trans noWalk⟩

theorem foldl_dozeCore (d : CoreId) (l : List CoreId) (s : State) : ∀ u, u = l.foldl (fun s c => dozeCore c s) s →
    (u.core d).banks = (s.core d).banks ∧ (u.core d).level = (s.core d).level ∧ (u.core d).pc = (s.core d).pc ∧ u.vs = s.vs ∧
    (d ∈ l ∨ bare (s.core d) → bare (u.core d)) := by
  induction l generalizing s with
  | nil =>
    rintro u rfl
    exact ⟨rfl, rfl, rfl, rfl, fun h => h.resolve_left (List.not_mem_nil)⟩
  | cons c l ih =>
    intro u folded
    obtain ⟨banks, level, pc, vs, empties⟩ := dozeCore_facts c d s
    obtain ⟨banks', level', pc', vs', empties'⟩ := ih (dozeCore c s) u folded
    refine ⟨banks'.trans banks, level'.trans level, pc'.trans pc, vs'.trans vs, fun h => empties' ?_⟩
    rcases h with member | was
    · rcases List.mem_cons.1 member with here | later
      · exact .inr (empties (.inl here))
      · exact .inl later
    · exact .inr (empties (.inr was))

theorem dozeCaches_form (s : State) : ∃ e, dozeCaches s = setEng e (fours.foldl (fun s c => dozeCore c s) s) ∧ e.tlb = [] := ⟨_, rfl, rfl⟩

theorem dozeCaches_facts (s : State) : (dozeCaches s).eng.tlb = [] ∧ (dozeCaches s).vs = s.vs ∧ ∀ c : CoreId, bare ((dozeCaches s).core c) ∧
    ((dozeCaches s).core c).run = (s.core c).run ∧ ((dozeCaches s).core c).pc = (s.core c).pc := by
  have every : ∀ c : CoreId, c ∈ fours := by decide
  obtain ⟨e, form, noTlb⟩ := dozeCaches_form s
  rw [form]
  have folded (c : CoreId) := foldl_dozeCore c fours s _ rfl
  generalize fours.foldl (fun s c => dozeCore c s) s = u at folded
  refine ⟨noTlb, (folded 0).2.2.2.1, fun c => ?_⟩
  obtain ⟨banks, level, pc, -, empties⟩ := folded c
  refine ⟨empties (.inl (every c)), ?_, pc⟩
  show (u.core c).run = _
  rw [Core.run, Core.run, Core.bank, Core.bank, banks, level]

/-! ## Transitions (R484, R486 to R488) -/

theorem exec_powerTransitionStart {s : State} (up : s.rst.phase = .up) (asked : s.pwr.asked = true) (idle : s.pwr.step = .idle)
    (noFlush : s.pwr.flush = none) (noneDue : s.pwr.flushDue = none) (ready : entryReady s = true) :
    exec .powerTransitionStart s = .next (startTransition s) :=
  onlyIf_of_true (by rw [up, asked, idle, noFlush, noneDue, ready]; rfl)

theorem startTransition_up {s : State} (higher : s.pwr.req < s.pwr.state) : startTransition s =
    driveReq s.pwr.req true (setPwr { s.pwr with asked := false, wake := false } s) := if_pos (BitVec.lt_def.1 higher)

theorem startTransition_down {s : State} (lower : s.pwr.state ≤ s.pwr.req) (other : s.pwr.req ≠ 3) :
    startTransition s = setPwr { s.pwr with asked := false, wake := false, step := .part s.pwr.req false } s := by
  have down : ¬ s.pwr.req.toNat < s.pwr.state.toNat := by have := BitVec.le_def.1 lower; omega
  unfold startTransition
  dsimp only
  rw [if_neg down, if_neg other]
  rfl

theorem startTransition_doze {s : State} (lower : s.pwr.state ≤ s.pwr.req) (doze : s.pwr.req = 3) : startTransition s =
    setPwr { (dozeCaches (setPwr { s.pwr with asked := false, wake := false } s)).pwr with step := .part 3 false }
      (dozeCaches (setPwr { s.pwr with asked := false, wake := false } s)) := by
  have down : ¬ s.pwr.req.toNat < s.pwr.state.toNat := by have := BitVec.le_def.1 lower; omega
  unfold startTransition
  dsimp only
  rw [if_neg down, if_pos doze, doze]

theorem exec_powerTilePartDone {s : State} {t : BitVec 3} {up : Bool} (part : s.pwr.step = .part t up) (ends : partEnds t up s = true) :
    exec .powerTilePartDone s = .next (if up then flushAfter (stateInForce t s) else driveReq t false s) := by
  show execPowerTilePartDone s = _
  unfold execPowerTilePartDone
  rw [part]
  exact onlyIf_of_true ends

theorem exec_pwrAckToggle {s : State} {t : BitVec 3} {up : Bool} (waits : s.pwr.step = .ack t up) :
    exec .pwrAckToggle s = .next (if up then setPwr { s.pwr with step := .part t true } s else flushAfter (stateInForce t s)) := by
  show execPwrAckToggle s = _
  unfold execPwrAckToggle
  rw [waits]

/-- From RUN or TRIM a state other than OFF is in force without more. -/
theorem stateInForce_near {t : BitVec 3} {s : State} (on : t ≠ 4) (near : s.pwr.state.toNat ≤ 1) : stateInForce t s = setPwr { s.pwr with
      state := t, emul := s.pwr.out == 5 || s.pwr.out == 6, step := .idle, wake := s.pwr.wake && (t == 2 || t == 3)
      before := if t = 2 then s.pwr.state else s.pwr.before
      asked := s.pwr.asked && s.pwr.req != t } s := by
  have awake : ¬ (s.pwr.state = 3) := fun h => by rw [h] at near; exact absurd near (by decide)
  have low : decide (s.pwr.state.toNat ≥ 2) = false := decide_eq_false (by omega)
  unfold stateInForce
  dsimp only
  rw [if_neg on, low, decide_eq_false awake]
  simp only [Bool.false_and, Bool.and_false, Bool.false_eq_true, if_false]

theorem partEnds_down {t : BitVec 3} {s : State} (h : t ≠ 3 ∨ s.cores.all (fun k => k.wbs.isEmpty) = true) : partEnds t false s = true := by
  rcases h with h | h
  · rw [partEnds, bne_iff_ne.2 h]; rfl
  · rw [partEnds, h, Bool.or_true]

/-! ## The end of NAP and DOZE (R487) -/

theorem sendPair_alone {s : State} (alone : s.role.fused = false) (w : PairWord) : sendPair w s = s := by
  rw [sendPair, alone]; rfl

theorem reqCode_run (s : State) : reqCode 0 s = 0 := by
  have plain : (dbgLevel s != 0 && ((0 : Nat) = 2 || (0 : Nat) = 3)) = false := by simp
  rw [reqCode, if_neg (by rw [plain]; decide)]
  rfl

/-! ## Supply samples (R493) -/

theorem flushTrip_begins {s : State} (noFlush : s.pwr.flush = none) (noneDue : s.pwr.flushDue = none) (idle : s.pwr.step = .idle)
    (near : s.pwr.state.toNat ≤ 1) (presence : Bool) : flushTrip presence s = flushBegin presence s := by
  have two : ¬ (s.pwr.state = 2) := fun h => by rw [h] at near; exact absurd near (by decide)
  have three : ¬ (s.pwr.state = 3) := fun h => by rw [h] at near; exact absurd near (by decide)
  unfold flushTrip
  rw [noFlush, noneDue, idle, decide_eq_false two, decide_eq_false three]
  rfl

theorem flushBegin_side (presence : Bool) (s : State) : ∃ f : Flush, f.start = s.log.aotime ∧ f.presence = presence ∧
    powerSide (flushBegin presence s) = powerSide (setPwr { s.pwr with flush := some f, flushDue := none } s) := by
  unfold flushBegin
  dsimp only
  rw [powerSide_dmaFlush, powerSide_flushChains, powerSide_arrive]
  exact ⟨⟨s.log.aotime, _, presence, _⟩, rfl, rfl, rfl⟩

theorem flushTrip_supv (presence : Bool) (s : State) : (flushTrip presence s).supv = s.supv := by
  unfold flushTrip
  split
  · rfl
  split
  · rfl
  split
  · rfl
  · obtain ⟨f, -, -, side⟩ := flushBegin_side presence s
    exact (supv_of_powerSide side).trans rfl

/-- Whether a sample lies below a threshold that is enabled. -/
def belowThreshold (v : BitVec 12) (t : BitVec 12) : Bool :=
  match threshold t with
  | some x => v.toNat < x
  | none => false

/-- Whether a sample lies above a threshold that is enabled. -/
def aboveThreshold (v : BitVec 12) (t : BitVec 12) : Bool :=
  match threshold t with
  | some x => v.toNat > x
  | none => false

/-- The supervisor after a sample. -/
def sampled (v : BitVec 12) (u : Supv) : Supv :=
  { u with vbus := v, valid := true, minv := if v.toNat < u.minv.toNat then v else u.minv }

/-- The supervisor after a sample that it compares. -/
def compared (v : BitVec 12) (u : Supv) : Supv :=
  let low := filterStep (belowThreshold v u.warn) u.low u.nWarn u.need
  let under := filterStep (belowThreshold v u.flush) u.under u.nFlush u.need
  let high := filterStep (aboveThreshold v u.overv) u.high u.nOver u.need
  { sampled v u with low := low.1, under := under.1, high := high.1, nWarn := low.2, nFlush := under.2, nOver := high.2 }

theorem vbusSample_off {v : BitVec 12} {s : State} (off : s.supv.en = false) : vbusSample v s = { s with supv := sampled v s.supv } := by
  unfold vbusSample
  exact if_pos (show (!s.supv.en) = true by rw [off]; rfl)

/-- The arrivals and the record of a sample that a threshold trips. -/
def sampleNoted (v : BitVec 12) (s : State) : State :=
  let s1 := { s with supv := compared v s.supv }
  let s2 := if (compared v s.supv).low && !s.supv.low then arrive srcSupvWarn s1 else s1
  if (compared v s.supv).high && !s.supv.high then logRecord 0x0B unitSec 0 (v.zeroExtend 64) true (arrive srcSupvWarn s2) else s2

theorem vbusSample_on {v : BitVec 12} {s : State} (on : s.supv.en = true) : vbusSample v s =
    if (compared v s.supv).under && !s.supv.under then flushTrip false (sampleNoted v s) else sampleNoted v s := by
  unfold vbusSample
  exact if_neg (show ¬ (!s.supv.en) = true by rw [on]; decide)

theorem powerSide_sampleNoted (v : BitVec 12) (s : State) : powerSide (sampleNoted v s) = powerSide { s with supv := compared v s.supv } := by
  unfold sampleNoted
  dsimp only
  split <;> split <;> simp only [powerSide_logRecord, powerSide_arrive]

theorem filterStep_trips (meets tripped : Bool) (n need : Nat) : (filterStep meets tripped n need).1 =
    if meets = tripped then tripped else if need ≤ n + 1 then !tripped else tripped := by
  unfold filterStep
  simp only [beq_iff_eq]
  split
  · rfl
  split <;> rfl

theorem powerSide_flushTrip_none {v : BitVec 12} {s : State} (on : s.supv.en = true)
    (untripped : (compared v s.supv).under = false ∨ s.supv.under = true) : vbusSample v s = sampleNoted v s := by
  rw [vbusSample_on on, if_neg]
  rcases untripped with h | h <;> simp [h]

theorem vbusSample_supv {v : BitVec 12} {s : State} (on : s.supv.en = true) : (vbusSample v s).supv = compared v s.supv := by
  have noted := supv_of_powerSide (powerSide_sampleNoted v s)
  rw [vbusSample_on on]
  split
  · rw [flushTrip_supv, noted]
  · exact noted

/-- A sample that trips FLUSH from RUN or TRIM starts the flush (R493, R494). -/
theorem vbusSample_trips {v : BitVec 12} {s : State} (on : s.supv.en = true) (under : (compared v s.supv).under = true) (was : s.supv.under = false)
    (noFlush : s.pwr.flush = none) (noneDue : s.pwr.flushDue = none) (idle : s.pwr.step = .idle) (near : s.pwr.state.toNat ≤ 1) :
    ∃ f, (vbusSample v s).pwr.flush = some f ∧ f.start = s.log.aotime ∧ f.presence = false := by
  have noted := powerSide_sampleNoted v s
  have flush : (sampleNoted v s).pwr.flush = none := (power_field noted Power.flush (fun _ => rfl)).trans noFlush
  have due : (sampleNoted v s).pwr.flushDue = none := (power_field noted Power.flushDue (fun _ => rfl)).trans noneDue
  have step : (sampleNoted v s).pwr.step = .idle := (power_field noted Power.step (fun _ => rfl)).trans idle
  have state : (sampleNoted v s).pwr.state.toNat ≤ 1 := by rw [power_field noted Power.state (fun _ => rfl)]; exact near
  have time : (sampleNoted v s).log.aotime = s.log.aotime := (aotime_of_powerSide noted).trans rfl
  rw [vbusSample_on on, under, was, if_pos (by decide), flushTrip_begins flush due step state]
  obtain ⟨f, start, presence, side⟩ := flushBegin_side false (sampleNoted v s)
  exact ⟨f, power_field side Power.flush (fun _ => rfl), start.trans time, presence⟩

/-! ## The hold-up flush (R494) -/

theorem notFenced_of_holdsRole {s : State} (holds : holdsRole s = true) : s.role.role ≠ .fenced := by
  intro fenced
  rw [holdsRole, fenced] at holds
  exact absurd holds (by decide)

theorem flushStep4_plain {done : Bool} {f : Flush} {s : State} (plain : holdsRole s = false) :
    flushStep4 done f s = setPwr { s.pwr with flush := some { f with stage := .draining done } } s :=
  if_neg (show ¬ holdsRole s = true by rw [plain]; decide)

theorem flushStep4_fences {done : Bool} {f : Flush} {s : State} (holds : holdsRole s = true) :
    flushStep4 done f s = enterFenced 4 true (setPwr { s.pwr with flush := some { f with stage := .draining done } } s) :=
  if_pos (show holdsRole s = true from holds)

theorem exec_flushBudgetExpiry {f : Flush} {s : State} (runs : s.pwr.flush = some f) (works : f.stage = .working)
    (overdue : f.budget * 50 ≤ s.log.aotime.toNat - f.start.toNat) : exec .flushBudgetExpiry s = .next (flushStep4 false f s) := by
  have due : budgetOver s = some f := by
    have spent : (f.stage == .working && f.budget * aoPerUs ≤ s.log.aotime.toNat - f.start.toNat) = true := by
      rw [works, decide_eq_true (show f.budget * aoPerUs ≤ _ from overdue)]
      rfl
    rw [budgetOver, runs]
    exact if_pos spent
  show orRefuse "no flush has used up its budget" ((budgetOver s).map (fun f => flushStep4 false f s)) = _
  rw [due]
  rfl

/-- FLUSHDONE writes PWRCTL with its other fields as they stand (R498). -/
theorem writePwrctl_flushdone (s : State) : writePwrctl (BitVec.ofNat 64 (flushdoneValue s)) s = pwrRequest s.pwr.req true (flushDone s) := by
  have := s.pwr.req.isLt
  have := s.pwr.acktmo.isLt
  have flag : b2n s.pwr.autooff = 0 ∧ s.pwr.autooff = false ∨ b2n s.pwr.autooff = 1 ∧ s.pwr.autooff = true := by
    cases s.pwr.autooff <;> decide
  have bound : flushdoneValue s < 2 ^ 64 := by rw [flushdoneValue]; omega
  have keepsErr : bitAt 3 (BitVec.ofNat 64 (flushdoneValue s)) = false := by
    rw [bitAt_ofNat bound]
    exact decide_eq_false (by rw [flushdoneValue]; omega)
  have ends : bitAt 4 (BitVec.ofNat 64 (flushdoneValue s)) = true := by
    rw [bitAt_ofNat bound]
    exact decide_eq_true (by rw [flushdoneValue]; omega)
  have autooff : bitAt 5 (BitVec.ofNat 64 (flushdoneValue s)) = s.pwr.autooff := by
    rw [bitAt_ofNat bound, flushdoneValue]
    rcases flag with ⟨e, off⟩ | ⟨e, on⟩
    · rw [off] at e ⊢
      rw [e]
      exact decide_eq_false (by omega)
    · rw [on] at e ⊢
      rw [e]
      exact decide_eq_true (by omega)
  have acktmo : (BitVec.ofNat 64 (flushdoneValue s)).extractLsb' 16 16 = s.pwr.acktmo := extract_ofNat bound (by rw [flushdoneValue]; omega)
  have req : (BitVec.ofNat 64 (flushdoneValue s)).extractLsb' 0 3 = s.pwr.req := extract_ofNat bound (by rw [flushdoneValue]; omega)
  unfold writePwrctl
  dsimp only
  rw [keepsErr, ends, autooff, acktmo, req, Bool.not_false, Bool.and_true]
  rfl

theorem exec_flushdone {who : Requester} {s : State} (may : mayAccess who 2 0x20048 s = true) :
    exec (.flushdone who) s = .next (written who (pwrRequest s.pwr.req true (flushDone s))) := by
  show regCmd who 0x20048 (flushdoneValue s) s = _
  rw [regCmd_ok may (by norm_num) (by norm_num) (by simp [samFreeWrite]), ← writePwrctl_flushdone]
  rfl

/-- While a flush runs, a request sets ERR. -/
theorem pwrRequest_flushing {s : State} (runs : s.pwr.flush.isSome = true) (r : BitVec 3) (relay : Bool) :
    pwrRequest r relay s = setPwr { s.pwr with wake := true, err := true } s := by
  unfold pwrRequest
  dsimp only
  rw [runs, Bool.or_true, Bool.true_or]
  rfl

theorem flushDone_working {f : Flush} {s : State} (runs : s.pwr.flush = some f) (works : f.stage = .working) : flushDone s = flushStep4 true f s := by
  rw [flushDone, runs]
  exact if_pos works

theorem exec_flushDrainDone {f : Flush} {done : Bool} {s : State} (runs : s.pwr.flush = some f) (drains : f.stage = .draining done)
    (quiet : responsesDue s = false) : exec .flushDrainDone s = .next (flushEnd done f s) := by
  show execFlushDrainDone s = _
  unfold execFlushDrainDone
  rw [runs]
  dsimp only
  rw [drains]
  exact onlyIf_of_true (by rw [quiet]; rfl)

/-- The flush's step 5 (R494, R553, R556). -/
theorem flushEnd_form (done : Bool) (f : Flush) (s : State) : ∀ s1, s1 = logRecord 0x0C 6 0 (if f.presence then 2 else if done then 1 else 0) false
      { s with pwr := { s.pwr with flush := none } } →
    flushEnd done f s = (if s.pwr.autooff && s.pwr.state != 4 && s.rst.phase != .cold then setPwr { s1.pwr with step := .part 4 false } s1
      else match s.rst.warmDue with
        | some c => warmReset c true (setRst { s1.rst with warmDue := none } s1)
        | none => s1) := by
  have detail : BitVec.ofNat 64 (if f.presence then 2 else b2n done) = if f.presence then 2 else if done then 1 else 0 := by
    cases f.presence <;> cases done <;> rfl
  rintro s1 logged
  unfold flushEnd
  dsimp only
  rw [detail, ← show s1 = logRecord 0x0C unitSec 0 _ false (setPwr { s.pwr with flush := none } s) from logged]
  obtain ⟨l, form⟩ := logRecord_quiet 0x0C 6 0 (if f.presence then 2 else if done then 1 else 0) { s with pwr := { s.pwr with flush := none } }
  have same : s1.pwr = { s.pwr with flush := none } ∧ s1.rst = s.rst := by rw [logged, form]; exact ⟨rfl, rfl⟩
  obtain ⟨pwr, rst⟩ := same
  rw [pwr, rst] <;> rfl

/-- What PWRCTL.REQ starts, once its entry condition holds. -/
theorem transitions_start {s : State} (up : s.rst.phase = .up) (asked : s.pwr.asked = true) (idle : s.pwr.step = .idle)
    (noFlush : s.pwr.flush = none) (noneDue : s.pwr.flushDue = none) (ready : entryReady s = true) :
    (s.pwr.req < s.pwr.state → exec .powerTransitionStart s = .next { s with pwr := { s.pwr with
      asked := false, wake := false, out := reqCode s.pwr.req.toNat s, reqAt := s.log.aotime, told := false, step := .ack s.pwr.req true } }) ∧
    (s.pwr.state ≤ s.pwr.req → s.pwr.req ≠ 3 → exec .powerTransitionStart s = .next { s with pwr := { s.pwr with
      asked := false, wake := false, step := .part s.pwr.req false } }) ∧
    (s.pwr.state ≤ s.pwr.req → s.pwr.req = 3 → ∃ u, exec .powerTransitionStart s = .next u ∧ u.pwr.step = .part 3 false ∧ u.eng.tlb = [] ∧
      u.vs = s.vs ∧ ∀ c : CoreId, (u.core c).dcache = [] ∧ (u.core c).icache = [] ∧ (u.core c).tlb = [] ∧ (u.core c).wcache = [] ∧
        (u.core c).run = (s.core c).run ∧ (u.core c).pc = (s.core c).pc) := by
  rw [exec_powerTransitionStart up asked idle noFlush noneDue ready]
  refine ⟨fun higher => ?_, fun lower other => ?_, fun lower doze => ?_⟩
  · rw [startTransition_up higher]; rfl
  · rw [startTransition_down lower other]; rfl
  · obtain ⟨noTlb, vs, cores⟩ := dozeCaches_facts (setPwr { s.pwr with asked := false, wake := false } s)
    have form := startTransition_doze lower doze
    refine ⟨_, rfl, ?_⟩
    generalize dozeCaches (setPwr { s.pwr with asked := false, wake := false } s) = w at noTlb vs cores form
    rw [form]
    refine ⟨rfl, noTlb, vs, fun c => ?_⟩
    obtain ⟨⟨noData, noCode, noTlb', noWalk⟩, run, pc⟩ := cores c
    exact ⟨noData, noCode, noTlb', noWalk, run, pc⟩

/-- What a supply sample does (R493). -/
theorem samples_compared {v : BitVec 12} {s : State} (on : s.supv.en = true) : ∀ u, u = vbusSample v s →
    u.supv.vbus = v ∧ u.supv.valid = true ∧ u.supv.minv = (if v.toNat < s.supv.minv.toNat then v else s.supv.minv) ∧
    u.supv.low = (if belowThreshold v s.supv.warn = s.supv.low then s.supv.low
      else if s.supv.need ≤ s.supv.nWarn + 1 then !s.supv.low else s.supv.low) ∧
    u.supv.under = (if belowThreshold v s.supv.flush = s.supv.under then s.supv.under
      else if s.supv.need ≤ s.supv.nFlush + 1 then !s.supv.under else s.supv.under) ∧
    (u.supv.under = false ∨ s.supv.under = true → u.pwr.flush = s.pwr.flush) ∧
    (u.supv.under = true → s.supv.under = false → s.pwr.flush = none → s.pwr.flushDue = none → s.pwr.step = .idle → s.pwr.state.toNat ≤ 1 →
      ∃ f, u.pwr.flush = some f ∧ f.start = s.log.aotime ∧ f.presence = false) := by
  rintro u rfl
  rw [vbusSample_supv on]
  refine ⟨rfl, rfl, rfl, filterStep_trips .., filterStep_trips .., fun untripped => ?_, fun under was noFlush noneDue idle near => ?_⟩
  · rw [powerSide_flushTrip_none on untripped]
    exact power_field (powerSide_sampleNoted v s) Power.flush (fun _ => rfl)
  · exact vbusSample_trips on under was noFlush noneDue idle near

/-- The end of the flush's step 3 by its budget or by firmware (R494). -/
theorem flush_step3_ends {f : Flush} {s : State} (runs : s.pwr.flush = some f) (works : f.stage = .working) :
    let drains (done : Bool) : State := { s with pwr := { s.pwr with flush := some { f with stage := .draining done } } }
    (f.budget * 50 ≤ s.log.aotime.toNat - f.start.toNat →
      (holdsRole s = false → exec .flushBudgetExpiry s = .next (drains false)) ∧
      (holdsRole s = true → ∃ u, exec .flushBudgetExpiry s = .next u ∧ fencedAs 4 true (drains false) u)) ∧
    ∀ who : Requester, mayAccess who 2 0x20048 s = true →
      (holdsRole s = false → exec (.flushdone who) s = .next (written who { drains true with
        pwr := { (drains true).pwr with wake := true, err := true } })) ∧
      (holdsRole s = true → ∃ u v, exec (.flushdone who) s = .next (written who u) ∧ fencedAs 4 true (drains true) v ∧
        u = { v with pwr := { v.pwr with wake := true, err := true } }) := by
  intro drains
  refine ⟨fun overdue => ?_, fun who may => ⟨fun plain => ?_, fun holds => ?_⟩⟩
  · rw [exec_flushBudgetExpiry runs works overdue]
    refine ⟨fun plain => by rw [flushStep4_plain plain]; rfl, fun holds => ⟨_, rfl, ?_⟩⟩
    rw [flushStep4_fences holds]
    exact enterFenced_fencedAs 4 true (notFenced_of_holdsRole holds)
  · rw [exec_flushdone may, flushDone_working runs works, flushStep4_plain plain, pwrRequest_flushing rfl]
    rfl
  · refine ⟨_, enterFenced 4 true (drains true), ?_, enterFenced_fencedAs 4 true (notFenced_of_holdsRole holds), rfl⟩
    have still : (enterFenced 4 true (drains true)).pwr.flush = (drains true).pwr.flush :=
      power_field (powerSide_enterFenced 4 true (drains true)) Power.flush (fun _ => rfl)
    rw [exec_flushdone may, flushDone_working runs works, flushStep4_fences holds]
    exact congrArg (fun u => Host.Outcome.next (written who u)) (pwrRequest_flushing (s := enterFenced 4 true (drains true)) (by rw [still]; rfl) _ _)

/-- A tile part and a toggle each take a transition one step further. -/
theorem transitions_proceed (t : BitVec 3) (s : State) :
    (s.pwr.step = .part t false → t ≠ 3 ∨ s.cores.all (fun k => k.wbs.isEmpty) = true → exec .powerTilePartDone s = .next (driveReq t false s)) ∧
    (s.pwr.step = .part t true → exec .powerTilePartDone s = .next (flushAfter (stateInForce t s))) ∧
    (s.pwr.step = .ack t true → exec .pwrAckToggle s = .next (setPwr { s.pwr with step := .part t true } s)) ∧
    (s.pwr.step = .ack t false → exec .pwrAckToggle s = .next (flushAfter (stateInForce t s))) := by
  refine ⟨fun part ends => ?_, fun part => ?_, fun waits => ?_, fun waits => ?_⟩
  · rw [exec_powerTilePartDone part (partEnds_down ends)]; rfl
  · rw [exec_powerTilePartDone part rfl]; rfl
  · rw [exec_pwrAckToggle waits]; rfl
  · rw [exec_pwrAckToggle waits]; rfl

/-- Settles O52: `transitions_start` and `transitions_proceed` follow a request, `enterOff_facts` says what OFF keeps, `samples_compared` what a supply
sample does, and `flush_step3_ends` and `flushEnd_form` how the flush ends. -/
theorem powerCommands : Obligations.PowerCommands := by
  unfold Obligations.PowerCommands
  refine ⟨fun s => transitions_start, ?proceed, fun s late => onlyIf_of_true late, ?goodLost, ?wakes, ?samples, fun f s => flush_step3_ends,
    ?request, ?drained⟩
  case proceed =>
    intro t s
    obtain ⟨down, inForce, toggled, downInForce⟩ := transitions_proceed t s
    refine ⟨down, inForce, toggled, downInForce, stateInForce_near, ?_⟩
    have off : stateInForce 4 s = enterOff s := if_pos rfl
    dsimp only
    rw [off]
    exact enterOff_facts s
  case goodLost =>
    intro s awake notDoze notOff
    have falls : (alwaysOn s && s.pwr.out != 3 && s.pwr.out != 4) = true := by
      rw [alwaysOn_of awake, bne_iff_ne.2 notDoze, bne_iff_ne.2 notOff]; rfl
    have lost : exec .pwrGoodLost s = .next (goodLost s) := onlyIf_of_true falls
    obtain ⟨l, ev, cores, held, wake, logged, -⟩ := logRecord_power 0x0A unitSec 0 (s.pwr.out.zeroExtend 64) true
      { s with pwr := { s.pwr with goodlost := true } }
    dsimp only
    rw [lost]
    refine ⟨fun cold => ?_, fun on => ⟨goodLost s, rfl, ?_⟩⟩
    · rw [goodLost, cold]; rfl
    · have off : goodLost s = enterOff (logRecord 0x0A unitSec 0 (s.pwr.out.zeroExtend 64) true { s with pwr := { s.pwr with goodlost := true } }) :=
        if_neg (by simpa using on)
      have good : (logRecord 0x0A unitSec 0 (s.pwr.out.zeroExtend 64) true { s with pwr := { s.pwr with goodlost := true } }).pwr.goodlost = true := by
        rw [logged]
      obtain ⟨state, phase, -, log, -, -, -, -, -, -, -, goodlost, -⟩ :=
        enterOff_facts (logRecord 0x0A unitSec 0 (s.pwr.out.zeroExtend 64) true { s with pwr := { s.pwr with goodlost := true } })
      rw [off]
      exact ⟨goodlost.trans good, state, phase, log⟩
  case wakes =>
    intro s due alone
    have both : wakeBoth s = wakeUp s := by rw [wakeBoth, sendPair_alone alone]
    refine ⟨fun nap => ?_, fun doze => ?_⟩
    · have wakes : exec .napWake s = .next (wakeBoth s) := onlyIf_of_true (by rw [nap, due]; rfl)
      rw [wakes, both, wakeUp, if_pos nap]; rfl
    · have wakes : exec .dozeWake s = .next (wakeBoth s) := onlyIf_of_true (by rw [doze, due]; rfl)
      have notNap : ¬ (s.pwr.state = 2) := by rw [doze]; decide
      have code : reqCode (0 : BitVec 3).toNat s = 0 := reqCode_run s
      rw [wakes, both, wakeUp, if_neg notNap, driveReq, code]; rfl
  case samples =>
    intro v s awake clocked
    have taken : exec (.vbusSample v) s = .next (vbusSample v s) := onlyIf_of_true (by rw [alwaysOn_of awake, clocked]; rfl)
    dsimp only
    rw [taken]
    refine ⟨fun off => by rw [vbusSample_off off]; rfl, fun on => ⟨_, rfl, samples_compared on _ rfl⟩⟩
  case request =>
    intro who s may none
    have idle : flushDone s = s := by rw [flushDone, none]
    rw [exec_flushdone may, idle]
  case drained =>
    intro f done s runs drains quiet
    dsimp only
    rw [exec_flushDrainDone runs drains quiet, flushEnd_form done f s _ rfl]
    refine ⟨fun auto on warm => ?_, fun stays noneDue => ?_, fun cause plain due => ?_⟩
    · have turnsOff : (s.pwr.autooff && s.pwr.state != 4 && s.rst.phase != .cold) = true := by
        rw [auto, bne_iff_ne.2 on, bne_iff_ne.2 warm]; rfl
      rw [turnsOff]; rfl
    · have keeps : (s.pwr.autooff && s.pwr.state != 4 && s.rst.phase != .cold) = false := by
        rcases stays with h | h <;> simp [h]
      rw [keeps, noneDue]; rfl
    · have keeps : (s.pwr.autooff && s.pwr.state != 4 && s.rst.phase != .cold) = false := by rw [plain]; rfl
      rw [keeps, due]; rfl

end Sys2Proof.Proofs
end

section
/-! SUPPORT. Lost clocks, qualification passes, temperature bands and droop (R465, R476 to R483). -/

namespace Sys2Proof.Proofs

open Sys2Proof.Machine Sys2Proof.Claims Sys2Proof.Laws

/-! ## Temperature bands (R479) -/

/-- The highest band whose floor lies 2 °C below the sample. -/
def bandUp (t : Int) : Nat := ([5, 4, 3, 2, 1].find? (fun x => bandFloor x ≤ t - 8)).getD 0

/-- The lowest band whose ceiling lies 2 °C above the sample. -/
def bandDown (t : Int) : Nat := ([0, 1, 2, 3, 4].find? (fun x => bandFloor (x + 1) > t + 8)).getD 5

theorem bandUp_steps (t : Int) : bandUp t =
    if 400 ≤ t - 8 then 5 else if 340 ≤ t - 8 then 4 else if 260 ≤ t - 8 then 3 else if 180 ≤ t - 8 then 2 else if 100 ≤ t - 8 then 1 else 0 := by
  simp only [bandUp, List.find?_cons, List.find?_nil, bandFloor]
  split_ifs <;> simp only [*, decide_true, decide_false, Option.getD_some, Option.getD_none]

theorem bandDown_steps (t : Int) : bandDown t =
    if 100 > t + 8 then 0 else if 180 > t + 8 then 1 else if 260 > t + 8 then 2 else if 340 > t + 8 then 3 else if 400 > t + 8 then 4 else 5 := by
  simp only [bandDown, List.find?_cons, List.find?_nil, bandFloor]
  split_ifs <;> simp only [*, decide_true, decide_false, Option.getD_some, Option.getD_none]

theorem bandUp_spec (t : Int) : bandUp t ≤ 5 ∧ (bandUp t = 0 ∨ bandFloor (bandUp t) ≤ t - 8) ∧
    ∀ x, bandUp t < x → x ≤ 5 → t - 8 < bandFloor x := by
  rw [bandUp_steps]
  refine ⟨by split_ifs <;> omega, ?_, fun x above listed => ?_⟩
  · split_ifs <;> simp [bandFloor] <;> omega
  · interval_cases x <;> simp only [bandFloor] <;> split_ifs at above <;> omega

theorem bandDown_spec (t : Int) : bandDown t ≤ 5 ∧ (bandDown t = 5 ∨ t + 8 < bandFloor (bandDown t + 1)) ∧
    ∀ x, x < bandDown t → bandFloor (x + 1) ≤ t + 8 := by
  rw [bandDown_steps]
  refine ⟨by split_ifs <;> omega, ?_, fun x below => ?_⟩
  · split_ifs <;> simp [bandFloor] <;> omega
  · have listed : x < 5 := by split_ifs at below <;> omega
    interval_cases x <;> simp only [bandFloor] <;> split_ifs at below <;> omega

/-- BAND rises, falls or stays, each with its hysteresis. -/
theorem nextBand_cases (t : Int) {old : Nat} (listed : old ≤ 5) : nextBand t old ≤ 5 ∧
    ((old < nextBand t old ∧ bandFloor (nextBand t old) ≤ t - 8 ∧ (nextBand t old = 5 ∨ t - 8 < bandFloor (nextBand t old + 1))) ∨
      ((old = 5 ∨ t - 8 < bandFloor (old + 1)) ∧ nextBand t old < old ∧ t + 8 < bandFloor (nextBand t old + 1) ∧
        (nextBand t old = 0 ∨ bandFloor (nextBand t old) ≤ t + 8)) ∨
      ((old = 5 ∨ t - 8 < bandFloor (old + 1)) ∧ (old = 0 ∨ bandFloor old ≤ t + 8) ∧ nextBand t old = old)) := by
  obtain ⟨upListed, upFloor, upHighest⟩ := bandUp_spec t
  obtain ⟨downListed, downCeiling, downLowest⟩ := bandDown_spec t
  have band : nextBand t old = if bandUp t > old then bandUp t else if bandDown t < old then bandDown t else old := rfl
  rw [band]
  have atMost5 (b : Nat) (small : b ≤ 5) (above : bandUp t < b + 1) : b = 5 ∨ t - 8 < bandFloor (b + 1) := by
    by_cases top : b = 5
    · exact .inl top
    · exact .inr (upHighest (b + 1) above (by omega))
  have atLeast0 (b : Nat) (below : b ≤ bandDown t) : b = 0 ∨ bandFloor b ≤ t + 8 := by
    cases b with
    | zero => exact .inl rfl
    | succ b => exact .inr (downLowest b (by omega))
  by_cases rises : bandUp t > old
  · rw [if_pos rises]
    exact ⟨upListed, .inl ⟨rises, upFloor.resolve_left (by omega), atMost5 _ upListed (by omega)⟩⟩
  · rw [if_neg rises]
    by_cases falls : bandDown t < old
    · rw [if_pos falls]
      exact ⟨downListed, .inr (.inl ⟨atMost5 old listed (by omega), falls, downCeiling.resolve_left (by omega), atLeast0 _ le_rfl⟩)⟩
    · rw [if_neg falls]
      exact ⟨listed, .inr (.inr ⟨atMost5 old listed (by omega), atLeast0 old (by omega), rfl⟩)⟩

theorem requestPass_form (s : State) : requestPass s = setCal { s.cal with wanted := s.cal.wanted || !s.cal.running } s := by
  unfold requestPass
  cases running : s.cal.running with
  | true =>
    have kept : ({ s.cal with wanted := s.cal.wanted || !true } : Calib) = s.cal := by rw [Bool.not_true, Bool.or_false]
    rw [if_pos rfl, kept]
    rfl
  | false => rw [if_neg (by decide), Bool.not_false, Bool.or_true]

/-! ## Links (R478, R480) -/

theorem setRetrain_kept (l : Link) (b : Bool) (c : Calib) :
    (setRetrain l b c).running = c.running ∧ (setRetrain l b c).restarts = c.restarts ∧ (setRetrain l b c).retrains = c.retrains := by
  cases l <;> exact ⟨rfl, rfl, rfl⟩

theorem arrive_cal (n : Nat) (s : State) : (arrive n s).cal = s.cal := by
  obtain ⟨ev, cores, pwr, form⟩ := arrive_form n s
  rw [form]

theorem retrainBegin_cal (l : Link) (s : State) :
    (retrainBegin l s).cal.running = s.cal.running ∧ (retrainBegin l s).cal.restarts = s.cal.restarts := by
  rw [retrainBegin, arrive_cal]
  exact ⟨(setRetrain_kept l true s.cal).1, (setRetrain_kept l true s.cal).2.1⟩

theorem marginLow_cases (l : Link) (s : State) : marginLow l s = if s.cal.running = false then retrainBegin l s
    else if s.cal.restarts < 2 then setCal { (retrainBegin l s).cal with restarts := (retrainBegin l s).cal.restarts + 1 } (retrainBegin l s)
    else passFail (retrainBegin l s) := by
  obtain ⟨running, restarts⟩ := retrainBegin_cal l s
  unfold marginLow
  dsimp only
  rw [running, restarts]
  cases s.cal.running with
  | false => rfl
  | true =>
    by_cases few : s.cal.restarts < 2
    · rw [if_neg (by decide), if_neg (by omega), if_neg (by decide), if_pos few]
    · rw [if_neg (by decide), if_pos (by omega), if_neg (by decide), if_neg few]

theorem noneFlying {s : State} (none : ∀ i, s.chain i = none) : (flying s).isEmpty = true := by
  have empty : s.eng.slots.toList.filterMap id = [] := by
    have h0 := none 0
    have h1 := none 1
    have h2 := none 2
    have h3 := none 3
    simp only [State.chain, Quad.get] at h0 h1 h2 h3
    simp [Quad.toList, h0, h1, h2, h3]
  rw [flying, empty]
  rfl

theorem exec_calctlRequal {who : Requester} {s : State} (may : mayAccess who 2 0x20040 s = true) (margin : BitVec 7) :
    exec (.calctlRequal who margin) s = .next (written who (requestPass (setCal { s.cal with margin := margin } s))) := by
  have := margin.isLt
  have go : bitAt 0 (BitVec.ofNat 64 (1 + margin.toNat * 2)) = true := by rw [bitAt_ofNat (by omega)]; exact decide_eq_true (by omega)
  have field : (BitVec.ofNat 64 (1 + margin.toNat * 2)).extractLsb' 1 7 = margin := extract_ofNat (by omega) (by omega)
  have effect : writeReg who 0x20040 (BitVec.ofNat 64 (1 + margin.toNat * 2)) s = writeCalctl (BitVec.ofNat 64 (1 + margin.toNat * 2)) s := rfl
  show regCmd who 0x20040 (1 + margin.toNat * 2) s = _
  rw [regCmd_ok may (by norm_num) (by norm_num) (by simp [samFreeWrite]), effect, writeCalctl, go, field]
  rfl

/-- Settles O32: `nextBand_cases` says where BAND goes, `requestPass_form` what a request leaves, and `marginLow_cases` what a low margin does. -/
theorem clocksAndCalibration : Obligations.ClocksAndCalibration := by
  unfold Obligations.ClocksAndCalibration
  refine ⟨?lost, ?returns, ?starts, ?ends, ?requal, ?temp, ?margin, ?retrained, fun below s => rfl⟩
  case lost =>
    intro k s seen on
    exact onlyIf_of_true (by rw [seen, on]; rfl)
  case returns =>
    intro k s stopped
    exact onlyIf_of_true (by rw [stopped]; rfl)
  case starts =>
    intro s wanted idle up runs none
    exact onlyIf_of_true (by rw [wanted, idle, up, runs, noneFlying none]; rfl)
  case ends =>
    intro s running runs
    exact onlyIf_of_true (by rw [running, runs]; rfl)
  case requal =>
    intro who margin s may
    rw [exec_calctlRequal may, requestPass_form]
    rfl
  case temp =>
    intro temp s awake notCold notOff clocked listed
    obtain ⟨band, cases⟩ := nextBand_cases temp.toInt listed
    have taken : exec (.tempSample temp) s = .next (takeTemp temp s) :=
      onlyIf_of_true (by rw [bne_iff_ne.2 awake, bne_iff_ne.2 notCold, bne_iff_ne.2 notOff, clocked]; rfl)
    refine ⟨nextBand temp.toInt s.cal.band.toNat, band, cases, ?_⟩
    rw [taken, takeTemp, requestPass_form]
    rfl
  case margin =>
    intro l margin s phase runs there steady low
    have tracked : ((s.rst.phase == .up || s.rst.phase == .warm) && hubRuns s && linkThere s l && !retraining s.cal l &&
        margin.toNat < s.cal.margin.toNat) = true := by
      rw [runs, there, steady, decide_eq_true low]
      rcases phase with h | h <;> rw [h] <;> rfl
    have falls : exec (.linkMarginLow l margin) s = .next (marginLow l s) := onlyIf_of_true tracked
    dsimp only
    rw [falls, marginLow_cases]
    rfl
  case retrained =>
    intro l s retrains
    exact onlyIf_of_true retrains

end Sys2Proof.Proofs
end

section
/-! SUPPORT. Arrivals at event sources and task slots, and snoop-invalidates (R357 to R360, R370, R371, R373, R459). -/

namespace Sys2Proof.Proofs

open Sys2Proof.Machine Sys2Proof.Claims Sys2Proof.Laws

/-! ## Arrivals -/

/-- Up to NAP the hub counts an arrival at once (R487). -/
theorem arrive_awake {n : Nat} {s : State} (awake : s.pwr.state.toNat ≤ 2) : arrive n s = takeArrival n s := by
  have notOff : ¬ (s.pwr.state = 4) := fun h => by rw [h] at awake; exact absurd awake (by decide)
  have notDoze : ¬ (s.pwr.state = 3) := fun h => by rw [h] at awake; exact absurd awake (by decide)
  rw [arrive, if_neg notOff, decide_eq_false notDoze]
  rfl

theorem takeArrival_ev (n : Nat) (s : State) : (takeArrival n s).ev = Tab.modify evSrc0 s.ev n EvSrc.arrive := by
  unfold takeArrival
  dsimp only
  split <;> rfl

theorem takeArrival_sched (n : Nat) (s : State) (c : CoreId) : ((takeArrival n s).core c).sched = (s.core c).sched.arrive n := by
  unfold takeArrival
  dsimp only
  split
  · obtain ⟨v, voided⟩ := voidDet_core (BitVec.toFin (BitVec.ofNat 2 (srcTarget n (Tab.get evSrc0 s.ev n)))) { s with
      ev := Tab.modify evSrc0 s.ev n EvSrc.arrive
      cores := s.cores.map (fun k => { k with sched := k.sched.arrive n })
      pwr := { s.pwr with wake := s.pwr.wake || (if dozes s then endsDoze n else s.cores.any (fun k => k.sched.awaits n)) } } c
    rw [voided]
    show (Quad.get (s.cores.map (fun k : Core => { k with sched := k.sched.arrive n })) c).sched = _
    rw [quad_get_map]
    rfl
  · show (Quad.get (s.cores.map (fun k : Core => { k with sched := k.sched.arrive n })) c).sched = _
    rw [quad_get_map]
    rfl

/-- What an arrival counts at a source (R357, R358, R373). -/
theorem evSrc_arrive_facts (e : EvSrc) :
    (e.en = true → e.cnt.toNat < 255 → e.arrive.cnt = e.cnt + 1 ∧ e.arrive.ovf = e.ovf) ∧
    (e.en = true → e.cnt.toNat = 255 → e.arrive.cnt = e.cnt ∧ e.arrive.ovf = true) ∧
    (e.en = false → e.arrive.cnt = e.cnt ∧ e.arrive.ovf = e.ovf) ∧
    (e.trgen = true → e.trgcnt.toNat < 255 → e.arrive.trgcnt = e.trgcnt + 1 ∧ e.arrive.trgovf = e.trgovf) ∧
    (e.trgen = true → e.trgcnt.toNat = 255 → e.arrive.trgcnt = e.trgcnt ∧ e.arrive.trgovf = true) ∧
    (e.trgen = false → e.arrive.trgcnt = e.trgcnt ∧ e.arrive.trgovf = e.trgovf) ∧
    e.arrive.level = e.level ∧ e.arrive.en = e.en ∧ e.arrive.trgen = e.trgen := by
  have full (x : BitVec 8) : x.toNat = 255 ↔ x = 255#8 := ⟨fun h => BitVec.eq_of_toNat_eq h, fun h => by rw [h]; rfl⟩
  unfold EvSrc.arrive
  cases en : e.en <;> cases tr : e.trgen <;> by_cases c1 : e.cnt = 255#8 <;> by_cases c2 : e.trgcnt = 255#8 <;> simp [en, tr, c1, c2, full]

/-- A slot among the first `n` that an arrival at source `m` meets, as the fold over the slots leaves it. -/
theorem slots_arrive (m n : Nat) (slots : Tab TSlot) (i : Nat) :
    Tab.get slot0 ((List.range n).foldl (fun t i =>
      let x := Tab.get slot0 t i
      if x.ten && x.tsrc.toNat == m then Tab.set slot0 t i x.arrive else t) slots) i =
    let t := Tab.get slot0 slots i
    if i < n ∧ t.ten = true ∧ t.tsrc.toNat = m then t.arrive else t := by
  induction n with
  | zero => simp
  | succ n ih =>
    rw [List.range_succ, List.foldl_append]
    generalize (List.range n).foldl _ slots = u at ih
    dsimp only [List.foldl_cons, List.foldl_nil] at ih ⊢
    by_cases here : i = n
    · subst here
      rw [if_neg (by omega)] at ih
      rw [← ih]
      by_cases waits : (Tab.get slot0 u i).ten = true ∧ (Tab.get slot0 u i).tsrc.toNat = m
      · rw [if_pos (by simpa using waits), Tab.get_set_same, if_pos ⟨by omega, waits⟩]
      · rw [if_neg (by simpa using waits), if_neg (fun h => waits h.2)]
    · have bound : (i < n + 1) = (i < n) := propext (by omega)
      simp only [bound]
      rw [← ih]
      split
      · exact Tab.get_set_other _ _ _ _ _ _ here
      · rfl

theorem sched_arrive_at (m : Nat) (d : Sched) {i : Nat} (listed : i < 8) : (d.arrive m).at i =
    if (d.at i).ten = true ∧ (d.at i).tsrc.toNat = m then (d.at i).arrive else d.at i := by
  have every := slots_arrive m 8 d.slots i
  simp only [listed, true_and] at every
  exact every

theorem writeReg_evsrc (who : Requester) (n : BitVec 9) (v : W64) (s : State) :
    writeReg who (0x50000 + 8 * n.toNat) v s = writeEvsrc n.toNat v s := by
  have := n.isLt
  have block : (0x50000 + 8 * n.toNat) / 0x10000 = 0x5 := by omega
  have offset : (0x50000 + 8 * n.toNat) % 0x10000 = 8 * n.toNat := by omega
  unfold writeReg
  dsimp only
  rw [block, offset]
  show writeEv (8 * n.toNat) v s = _
  rw [writeEv, if_pos (by omega), Nat.mul_div_cancel_left _ (by norm_num)]

theorem exec_evsrcSet {who : Requester} {n : BitVec 9} {s : State} (may : mayAccess who 2 (0x50000 + 8 * n.toNat) s = true) (v : W64) :
    exec (.evsrcSet who n v) s = .next (written who (writeEvsrc n.toNat v s)) := by
  have := n.isLt
  have guarded : samFreeWrite s (0x50000 + 8 * n.toNat) = false := by
    unfold samFreeWrite
    simp
    omega
  show writeCmd who (0x50000 + 8 * n.toNat) 0xFF v s = _
  rw [writeCmd_ok2 may (by omega) (by omega) guarded, writeReg_evsrc]

/-! ## Snoop-invalidates -/

/-- What a snoop-invalidate does at one core (R459). -/
def snoopCore (line : Nat) (c : CoreId) (s : State) : State :=
  withCore c (fun k => { k with
    icache := Tab.erase k.icache line
    fills := k.fills.map (fun f => if f.line.toNat = line then { f with snooped := true } else f)
    lockRes := if k.lockRes = some (BitVec.ofNat 46 line) then none else k.lockRes }) (dropLine c line true s)

theorem snoopCores_eq (line : Nat) (s : State) : snoopCores line s = fours.foldl (fun s c => snoopCore line c s) s := rfl

/-- A core that neither holds the line nor a reservation on it. -/
def without (line : BitVec 46) (k : Core) : Prop :=
  Tab.find k.icache line.toNat = none ∧ Tab.find k.dcache line.toNat = none ∧ k.lockRes ≠ some line

theorem arrive_ports (n : Nat) (s : State) : (arrive n s).ports = s.ports := by
  obtain ⟨ev, cores, pwr, form⟩ := arrive_form n s
  rw [form]

theorem lateError_ports (c : CoreId) (pa : BitVec 52) (wb : Bool) (s : State) : (lateError c pa wb s).ports = s.ports := by
  obtain ⟨l, form⟩ := lateError_form c pa wb s
  rw [form]
  exact arrive_ports _ _

theorem dropLine_ports (c : CoreId) (line : Nat) (wb : Bool) (s : State) : (dropLine c line wb s).ports = s.ports := by
  unfold dropLine
  split
  · rfl
  · dsimp only
    split
    · unfold writeBack
      split
      · rfl
      · exact lateError_ports ..
    · rfl

theorem dropLine_lockRes_other {c d : CoreId} (other : d ≠ c) (line : Nat) (wb : Bool) (s : State) :
    ((dropLine c line wb s).core d).lockRes = (s.core d).lockRes := by
  unfold dropLine
  split
  · rfl
  · dsimp only
    split
    · unfold writeBack
      split
      · rw [core_withCore_other _ _ other, core_withCore_other _ _ other]
      · rw [coreField_lateError (g := Core.lockRes) (fun _ _ _ _ => rfl), core_withCore_other _ _ other]
    · rw [core_withCore_other _ _ other]

theorem dropLine_icache (c d : CoreId) (line : Nat) (wb : Bool) (s : State) : ((dropLine c line wb s).core d).icache = (s.core d).icache := by
  have apart (k : Core) : (sansLines k).icache = k.icache := rfl
  rw [← apart, ← apart (s.core d)]
  exact congrArg (fun x => x.1.icache) (besidesLines_dropLine d c line wb s)

theorem snoopCore_facts (line : BitVec 46) (c d : CoreId) (s : State) : (snoopCore line.toNat c s).ports = s.ports ∧
    (d = c ∨ without line (s.core d) → without line ((snoopCore line.toNat c s).core d)) := by
  refine ⟨dropLine_ports c line.toNat true s, fun h => ?_⟩
  by_cases same : d = c
  · subst same
    rw [snoopCore, core_withCore]
    refine ⟨Tab.find_erase_same _ _, ?_, ?_⟩
    · show Tab.find ((dropLine d line.toNat true s).core d).dcache line.toNat = none
      rw [dropLine_dcache, Tab.find_erase_same]
    · dsimp only
      rw [BitVec.ofNat_toNat, BitVec.setWidth_eq]
      split
      · exact nofun
      · assumption
  · obtain ⟨noCode, noData, noLock⟩ := h.resolve_left same
    rw [snoopCore, core_withCore_other _ _ same]
    refine ⟨?_, ?_, ?_⟩
    · rw [dropLine_icache]; exact noCode
    · rw [dropLine_dcache_other same]; exact noData
    · rw [dropLine_lockRes_other same]; exact noLock

theorem snoopCores_facts (line : BitVec 46) (s : State) : (snoopCores line.toNat s).ports = s.ports ∧
    ∀ d : CoreId, without line ((snoopCores line.toNat s).core d) := by
  have folded (l : List CoreId) (d : CoreId) (s : State) : (l.foldl (fun s c => snoopCore line.toNat c s) s).ports = s.ports ∧
      (d ∈ l ∨ without line (s.core d) → without line ((l.foldl (fun s c => snoopCore line.toNat c s) s).core d)) := by
    induction l generalizing s with
    | nil => exact ⟨rfl, fun h => h.resolve_left List.not_mem_nil⟩
    | cons c l ih =>
      obtain ⟨ports, freed⟩ := snoopCore_facts line c d s
      obtain ⟨ports', freed'⟩ := ih (snoopCore line.toNat c s)
      refine ⟨ports'.trans ports, fun h => freed' ?_⟩
      rcases h with member | was
      · rcases List.mem_cons.1 member with here | later
        · exact .inr (freed (.inl here))
        · exact .inl later
      · exact .inr (freed (.inr was))
  have every : ∀ d : CoreId, d ∈ fours := by decide
  rw [snoopCores_eq]
  exact ⟨(folded fours 0 s).1, fun d => (folded fours d s).2 (.inl (every d))⟩

/-! ### The Watch Table -/

/-- What the ring engine leaves alone: the ports, and of each core what a line is held in. -/
def lineSide (c : CoreId) (s : State) : Ports × Tab Line × Tab DLine × Option (BitVec 46) :=
  (s.ports, (s.core c).icache, (s.core c).dcache, (s.core c).lockRes)

theorem lineSide_arrive (c : CoreId) (n : Nat) (s : State) : lineSide c (arrive n s) = lineSide c s := by
  obtain ⟨d, v, core⟩ := arrive_core n s c
  rw [lineSide, arrive_ports, core]
  rfl

theorem lineSide_logRecord (c : CoreId) (kind unit : Nat) (addr : BitVec 52) (detail : W64) (mchk : Bool) (s : State) :
    lineSide c (logRecord kind unit addr detail mchk s) = lineSide c s := by
  obtain ⟨l, logged, -⟩ := logRecord_counts kind unit addr detail mchk s
  rw [logged]
  split
  · exact lineSide_arrive c _ _
  · rfl

theorem lineSide_withRings (c : CoreId) (f : Rings → Rings) (s : State) : lineSide c (withRings f s) = lineSide c s := rfl

theorem lineSide_issueArm (c : CoreId) (i : Nat) (s : State) : lineSide c (issueArm i s) = lineSide c s := by
  unfold issueArm
  dsimp only
  split
  · rfl
  split
  · rfl
  split
  · rw [watchError, lineSide_logRecord]; rfl
  · rfl

theorem lineSide_pumpWatch (c : CoreId) (n : Nat) (s : State) : lineSide c (pumpWatch n s) = lineSide c s := by
  induction n generalizing s with
  | zero => rfl
  | succ n ih =>
    unfold pumpWatch
    split
    · rfl
    split
    · rfl
    · rw [ih, lineSide_issueArm, lineSide_withRings]

theorem lineSide_armEntry (c : CoreId) (i : Nat) (first : Bool) (s : State) : lineSide c (armEntry i first s) = lineSide c s := by
  unfold armEntry
  dsimp only
  split
  · rfl
  split
  · rfl
  · rw [pumpRings, lineSide_pumpWatch]; rfl

theorem lineSide_snoopRings (c : CoreId) (line : Nat) (s : State) : lineSide c (snoopRings line s) = lineSide c s := by
  unfold snoopRings
  split
  · rfl
  split
  · rfl
  dsimp only
  split
  · rfl
  split
  · rw [lineSide_armEntry]; rfl
  · rfl
  · rfl

theorem snoopTile_facts (line : BitVec 46) (tag : BitVec 10) (s : State) : (snoopTile line tag s).ports.snpack = s.ports.snpack ++ [tag] ∧
    ∀ c : CoreId, without line ((snoopTile line tag s).core c) := by
  obtain ⟨ports, freed⟩ := snoopCores_facts line s
  have side (c : CoreId) := lineSide_snoopRings c line.toNat (snoopCores line.toNat s)
  unfold snoopTile
  generalize snoopRings line.toNat (snoopCores line.toNat s) = u at side
  have kept : u.ports = s.ports := (congrArg Prod.fst (side 0)).trans ports
  refine ⟨?_, fun c => ?_⟩
  · show u.ports.snpack ++ [tag] = _
    rw [kept]
  · have same := side c
    simp only [lineSide, Prod.mk.injEq] at same
    obtain ⟨-, icache, dcache, lockRes⟩ := same
    obtain ⟨noCode, noData, noLock⟩ := freed c
    show without line (u.core c)
    rw [without, icache, dcache, lockRes]
    exact ⟨noCode, noData, noLock⟩

/-- Settles O35: `evSrc_arrive_facts` and `sched_arrive_at` say what an arrival counts, `exec_evsrcSet` that SET makes one, and `snoopTile_facts` what a
snoop-invalidate leaves in the caches. -/
theorem arrivalsAndSnoops : Obligations.ArrivalsAndSnoops := by
  unfold Obligations.ArrivalsAndSnoops
  refine ⟨fun n s pulse => onlyIf_of_true pulse, ?counts, ?set, ?snoops⟩
  case counts =>
    intro n s awake
    obtain ⟨c1, c2, c3, t1, t2, t3, level, en, trgen⟩ := evSrc_arrive_facts (Tab.get evSrc0 s.ev n)
    have here : Tab.get evSrc0 (arrive n s).ev n = (Tab.get evSrc0 s.ev n).arrive := by
      rw [arrive_awake awake, takeArrival_ev, Tab.modify, Tab.get_set_same]
    dsimp only
    rw [here]
    refine ⟨c1, c2, c3, t1, t2, t3, level, en, trgen, fun m other => ?_, fun c i listed => ?_⟩
    · rw [arrive_awake awake, takeArrival_ev, Tab.modify, Tab.get_set_other _ _ _ _ _ _ other]
    · rw [arrive_awake awake, takeArrival_sched, sched_arrive_at n _ listed]
  case set =>
    intro who n v s may set
    have sets : bitAt 7 v = true := set
    rw [exec_evsrcSet may, writeEvsrc, sets]
    rfl
  case snoops =>
    intro line tag s up
    obtain ⟨answered, freed⟩ := snoopTile_facts line tag s
    exact ⟨_, onlyIf_of_true (by rw [up]; rfl), answered, freed⟩

end Sys2Proof.Proofs
end

section
/-! SUPPORT. ACK, EOS and WAIT (R362, R368, R369). -/

namespace Sys2Proof.Proofs

open Sys2Proof.Machine Sys2Proof.Claims Sys2Proof.Laws

/-! ## ACK -/

/-- R362: a counter falls by one and stays at 0. -/
theorem count_less_one (n : BitVec 8) : (if n = 0 then 0 else n - 1) = BitVec.ofNat 8 (n.toNat - 1) := by
  have low := n.isLt
  split
  case isTrue none => rw [none]; rfl
  case isFalse some =>
    have positive : n.toNat ≠ 0 := fun zero => some (BitVec.eq_of_toNat_eq zero)
    apply BitVec.eq_of_toNat_eq
    rw [BitVec.toNat_sub, BitVec.toNat_ofNat, show BitVec.toNat (1 : BitVec 8) = 1 from rfl]
    omega

section
variable {cx : Cx} {s : State} {v : W64} {t : List W64} (level : 1 ≤ (s.core cx.c).pl) (cells : (bank cx.c s).oc = v :: t)
  (settled : takesPending (s.core cx.c).pendingCell 1 (bank cx.c s) = false) (buffer : (s.core cx.c).sb.length ≤ 16)
include level cells settled buffer

theorem runAck_popped : runAck cx.c s = .ok .done { putBank cx.c { bank cx.c s with oc := t } s with
    ev := Tab.modify evSrc0 s.ev (v.toNat % 512) (fun e => { e with cnt := BitVec.ofNat 8 (e.cnt.toNat - 1) }) } := by
  simp only [runAck, needPriv_ok level, Out.next_ok, needCells_one cells settled, onFrame_pop buffer cells settled, top_area cells,
    count_less_one]
  rfl

end

/-! ## EOS -/

section
variable {c : CoreId} {s : State} {f : BitVec 10} (level : 1 ≤ (s.core c).pl) (field : f.toNat < 8)
include level field

/-- R368: EOS names the level on top of the priority stack. -/
theorem runEos_top (serving : (s.evc.get c).active ≠ 0) (top : topOf (s.evc.get c).active = f.toNat) :
    runEos c f s = .ok .done { s with
      evc := s.evc.set c { s.evc.get c with active := (s.evc.get c).active &&& ~~~ BitVec.ofNat 8 (2 ^ f.toNat) } } := by
  unfold runEos
  rw [needPriv_ok level, Out.next_ok]
  dsimp only
  rw [Nat.mod_eq_of_lt field]
  exact if_pos (by rw [bne_iff_ne.mpr serving, beq_iff_eq.mpr top]; rfl)

/-- R368: EOS names another level. -/
theorem runEos_other (other : (s.evc.get c).active = 0 ∨ topOf (s.evc.get c).active ≠ f.toNat) :
    runEos c f s = .exc (excPriofault f.toNat) s := by
  rcases other with none | other
  · simp [runEos, needPriv_ok level, Nat.mod_eq_of_lt field, none]
  · simp [runEos, needPriv_ok level, Nat.mod_eq_of_lt field, other]

end

/-! ## WAIT -/

section
variable {c : CoreId} {s : State} (level : 1 ≤ (s.core c).pl)
include level

/-- R369: no task slot runs. -/
theorem runWait_unslotted
    (unslotted : (s.core c).level ≠ 0 ∨ (s.core c).sched.en = false ∨ (s.core c).sched.runningSlot = none) :
    runWait c s = .ok .wait s := by
  simp only [runWait, needPriv_ok level, Out.next_ok]
  split
  case isFalse => rfl
  case isTrue slotted =>
    obtain ⟨base, on⟩ := Bool.and_eq_true_iff.mp slotted
    rcases unslotted with above | off | none
    · exact absurd (of_decide_eq_true base) above
    · exact absurd (on.symm.trans off) nofun
    · rw [none]

section
variable {i : Nat} (base : (s.core c).level = 0) (on : (s.core c).sched.en = true) (running : (s.core c).sched.runningSlot = some i)
include base on running

/-- R369: an arrival is waiting for the running task slot. -/
theorem runWait_arrived (arrived : ((s.core c).sched.at i).tcnt ≠ 0) : runWait c s = .ok .done (setCore c { s.core c with
    sched := (s.core c).sched.put i { (s.core c).sched.at i with tcnt := ((s.core c).sched.at i).tcnt - 1 } } s) := by
  unfold runWait
  rw [needPriv_ok level, Out.next_ok]
  dsimp only
  rw [running, if_pos (by rw [base, on]; rfl)]
  exact if_pos (bne_iff_ne.mpr arrived)

/-- R369: none is waiting for it. -/
theorem runWait_waits (noArrival : ((s.core c).sched.at i).tcnt = 0) (idle : (s.core c).divide = none) : runWait c s = .ok .wait s := by
  simp [runWait, needPriv_ok level, base, on, running, noArrival, idle]

end
end

/-- R306, R369: issue stops where no task slot runs. -/
theorem giveUpSlot_unslotted {c : CoreId} {s : State} (unslotted : (s.core c).level ≠ 0 ∨ (s.core c).sched.en = false) :
    giveUpSlot c s = withCore c (fun k => { k with st := .waiting }) s := by
  unfold giveUpSlot
  refine if_neg fun slotted => ?_
  obtain ⟨base, on⟩ := Bool.and_eq_true_iff.mp slotted
  rcases unslotted with above | off
  · exact above (of_decide_eq_true base)
  · exact absurd (on.symm.trans off) nofun

/-- R306, R369: the running task slot waits, and the scheduler switches. -/
theorem giveUpSlot_slotted {c : CoreId} {s : State} {i : Nat} (base : (s.core c).level = 0) (on : (s.core c).sched.en = true)
    (running : (s.core c).sched.runningSlot = some i) : giveUpSlot c s = withCore c (fun k => { k with
      st := .switching
      sched := { k.sched.put i { k.sched.at i with st := .waiting, pc := k.saved.epc, rpend := k.saved.rpend, chk := k.chk } with
        out := BitVec.ofNat 3 i } }) s := by
  simp [giveUpSlot, withCore, base, on, running]

/-- A parcel that gives up the slot goes on first. -/
theorem exec_wait_gives {p : PCtx} {s s1 : State} (ready : Ready p (longParcel p.cond 0x38 0) nopParcel s s1)
    (holds : condHolds p.cond (bank p.core s1).flags = true) (run : runWait p.core s1 = .ok .wait s1) :
    exec (.wait p 0) s = .next (stepEnd p.core (giveUpSlot p.core (followOn p.core (dropHeld p.core s1)))) := by
  rw [exec_long (row := (.wait, 0x38)) (by simp [longRows]) rfl ready holds,
    show runLong ⟨p.core, (s.core p.core).pc, false⟩ 0x38 0 s1 = .ok .wait s1 from run]
  rfl

/-- Settles O17: each operation's flow is its `run…` equation. That WAIT gives up the slot under HOLD too is the model's choice (log entry 91). -/
theorem eventOperations : Obligations.EventOperations := by
  unfold Obligations.EventOperations
  intro p f s s1 holds level idle c x k
  have ack : ((.ack, 0x34) : (PCtx → BitVec 10 → Instr) × Nat) ∈ longRows := by simp [longRows]
  have eos : ((.eos, 0x35) : (PCtx → BitVec 10 → Instr) × Nat) ∈ longRows := by simp [longRows]
  have wait : ((.wait, 0x38) : (PCtx → BitVec 10 → Instr) × Nat) ∈ longRows := by simp [longRows]
  refine ⟨fun v t ready cells => ?ack, fun ready field => ⟨fun serving top => ?top, fun other free => ?other⟩,
    fun ready => ⟨fun unslotted => ?unslotted, fun i base on running => ⟨fun arrived => ?arrived, fun noArrival => ?waits⟩⟩,
    fun s2 => ⟨giveUpSlot_unslotted, fun i base on running => giveUpSlot_slotted base on running⟩⟩
  case ack =>
    exact exec_long_done ack rfl ready holds
      (runAck_popped (cx := ⟨c, (s.core c).pc, false⟩) level cells (takesPending_noDivide _ _ idle) ready.buffer)
  case top => exact exec_long_done eos (eos_legal field) ready holds (runEos_top level field serving top)
  case other => exact exec_long_raises eos (eos_legal field) ready holds free (runEos_other level field other)
  case unslotted => exact exec_wait_gives ready holds (runWait_unslotted level unslotted)
  case arrived => exact exec_long_done wait rfl ready holds (runWait_arrived level base on running arrived)
  case waits => exact exec_wait_gives ready holds (runWait_waits level base on running noArrival idle)

end Sys2Proof.Proofs
end

section
/-! SUPPORT. SLCMD, SLTXCTL and SLRXCTL (R433, R434, R437, R442, R451). -/

namespace Sys2Proof.Proofs

open Sys2Proof.Machine Sys2Proof.Claims Sys2Proof.Laws

/-! ## What a message sent leaves -/

/-- A message that is sent, or dropped, changes the messages sent alone. -/
theorem sendMsg_form (m : Msg) (s : State) : ∃ tx, sendMsg m s = { s with troupe := { s.troupe with tx := tx } } := by
  unfold sendMsg
  split <;> exact ⟨_, rfl⟩

theorem oddFused_of_alone {s : State} (alone : s.role.fused = false) : oddFused s = false := by
  rw [oddFused, alone]; rfl

/-- A tile out of the test hold that is no ODD tile of a pair sends. -/
theorem sendMsg_sends {m : Msg} {s : State} (free : s.wrap.hold = false) (link : oddFused s = false) :
    sendMsg m s = { s with troupe := { s.troupe with tx := s.troupe.tx ++ [m] } } := by
  rw [sendMsg, free, link]; rfl

theorem truncate_ofNat {w n : Nat} (small : n < 2 ^ 64) {x : BitVec w} (field : n % 2 ^ w = x.toNat) :
    (BitVec.ofNat 64 n).truncate w = x := by
  apply BitVec.eq_of_toNat_eq
  rw [BitVec.truncate_eq_setWidth, BitVec.toNat_setWidth, BitVec.toNat_ofNat, Nat.mod_eq_of_lt small, field]

section
variable {n : BitVec 7} {e : SlotEnt} {s u : State} (slots : u.troupe.slots = Tab.set slot0T s.troupe.slots n.toNat e)
include slots

theorem slotOf_set_same : u.slotOf n = e := by
  rw [State.slotOf, slots, Tab.get_set_same]

theorem slotOf_set_other (m : BitVec 7) (other : m ≠ n) : u.slotOf m = s.slotOf m := by
  rw [State.slotOf, slots, Tab.get_set_other _ _ _ _ _ _ fun same => other (BitVec.eq_of_toNat_eq same)]
  rfl

end

/-! ## SLCMD -/

section
variable {kind : Nat} {node : BitVec 8} {slot : BitVec 7}

theorem writeReg_slcmd (who : Requester) (v : W64) (s : State) : writeReg who 0x10018 v s = writeSlcmd v s := rfl

theorem writeSlcmd_value (small : kind < 8) (s : State) :
    writeSlcmd (BitVec.ofNat 64 (slcmdValue kind node slot)) s = slcmd kind node slot s := by
  have n := node.isLt
  have m := slot.isLt
  have fits : slcmdValue kind node slot < 2 ^ 64 := by unfold slcmdValue; omega
  have go : bitAt 19 (BitVec.ofNat 64 (slcmdValue kind node slot)) = true := by
    rw [bitAt_ofNat fits, decide_eq_true_eq]; unfold slcmdValue; omega
  have kindIs : fieldAt 16 3 (BitVec.ofNat 64 (slcmdValue kind node slot)) = kind := by
    rw [fieldAt_ofNat fits]; unfold slcmdValue; omega
  rw [writeSlcmd, if_pos go, kindIs, truncate_ofNat fits (x := node) (by unfold slcmdValue; omega),
    extract_ofNat fits (x := slot) (by unfold slcmdValue; omega)]

variable {who : Requester} {s : State} (may : mayAccess who 2 0x10018 s = true)
include may

/-- A command of SLCMD is a write of it. -/
theorem regCmd_slcmd (small : kind < 8) : regCmd who 0x10018 (slcmdValue kind node slot) s = .next (written who (slcmd kind node slot s)) := by
  rw [regCmd_ok may (by norm_num) (by norm_num) (by simp [samFreeWrite]), writeReg_slcmd, writeSlcmd_value small]

/-- The five kinds of SLCMD answer alike. -/
theorem slcmds_answer {u : State} (same : ∀ kind, slcmd kind node slot s = u) :
    ∀ c ∈ ([.slcmdProbe who node slot, .slcmdAdmit who node slot, .slcmdAppoint who node slot, .slcmdRelease who node slot,
      .slcmdFence who node slot] : List Instr), exec c s = .next (written who u) := by
  have each (kind : Nat) (small : kind < 8) :
      regCmd who 0x10018 (slcmdValue kind node slot) s = .next (written who u) := by rw [regCmd_slcmd may small, same]
  intro c listed
  simp only [List.mem_cons, List.not_mem_nil, or_false] at listed
  rcases listed with rfl | rfl | rfl | rfl | rfl
  · exact each 1 (by decide)
  · exact each 2 (by decide)
  · exact each 3 (by decide)
  · exact each 4 (by decide)
  · exact each 5 (by decide)

end

section
variable {s : State}

theorem slcmd_busy (busy : s.troupe.busy ≠ .no) (kind : Nat) (node : BitVec 8) (slot : BitVec 7) : slcmd kind node slot s = s :=
  if_pos (bne_iff_ne.mpr busy)

variable (idle : s.troupe.busy = .no)
include idle

theorem slcmd_noManager (other : s.role.role ≠ .manager) (kind : Nat) (node : BitVec 8) (slot : BitVec 7) :
    slcmd kind node slot s = setBusy .no 2 s := by
  unfold slcmd
  rw [if_neg (by rw [idle]; decide), if_pos (bne_iff_ne.mpr other)]

/-- On a MANAGER that is not busy the KIND says what happens. -/
theorem slcmd_manager (manager : s.role.role = .manager) (node : BitVec 8) (slot : BitVec 7) :
    slcmd 1 node slot s = slProbe node slot s ∧ slcmd 2 node slot s = slAdmit node slot s ∧ slcmd 3 node slot s = slAppoint node s ∧
    slcmd 4 node slot s = slRelease slot s ∧ slcmd 5 node slot s = slFence node slot s := by
  have notBusy : ¬(s.troupe.busy != .no) = true := by rw [idle]; decide
  have isManager : ¬(s.role.role != .manager) = true := by rw [manager]; decide
  refine ⟨?_, ?_, ?_, ?_, ?_⟩ <;> (unfold slcmd; exact (if_neg notBusy).trans (if_neg isManager))

end

section
variable {node : BitVec 8} {slot : BitVec 7} {s : State}

theorem slAdmit_held (held : (s.slotOf slot).st = .admitting ∨ (s.slotOf slot).st = .live) : slAdmit node slot s = setBusy .no 2 s := by
  unfold slAdmit
  refine if_neg ?_
  rcases held with st | st <;> rw [st] <;> decide

theorem slAdmit_free (free : (s.slotOf slot).st = .empty ∨ (s.slotOf slot).st = .dead) :
    let e := s.slotOf slot
    let s1 := setSlot slot { e with st := .admitting, node := node, epoch := e.epoch + 1, ackRound := 0 } s
    slAdmit node slot s = sendMsg (hubMsg s1 0x0A node slot (e.epoch + 1) s.troupe.hbseq 0 0 0 0)
      (setBusy (.admission slot (s.troupe.now + 16000)) 0 s1) := by
  unfold slAdmit
  refine if_pos ?_
  rcases free with st | st <;> rw [st] <;> decide

theorem slRelease_live (live : (s.slotOf slot).st = .live) :
    slRelease slot s = setBusy .no 1 (sendMsg (hubMsg s 0x0E (s.slotOf slot).node slot (s.slotOf slot).epoch 0 0 0 0 0) s) := if_pos live

theorem slRelease_other (other : (s.slotOf slot).st ≠ .live) : slRelease slot s = setBusy .no 2 s := if_neg other

theorem slFence_slot (other : (s.troupe.dvalid && node == s.troupe.dnode) = false) : slFence node slot s =
    setBusy .no 1 (setSlot slot { s.slotOf slot with st := .dead }
      (sendMsg (hubMsg s 0x10 (s.slotOf slot).node slot (s.slotOf slot).epoch 0 0 0 0 0) s)) := by
  unfold slFence
  exact if_neg (by rw [other]; decide)

theorem dropClaim_none {s : State} (noClaim : s.troupe.claim ≠ .out) : dropClaim s = { s with troupe := { s.troupe with claim := .no } } :=
  if_neg noClaim

/-- R437: a fenced deputy leaves the manager SOLO. -/
theorem slFence_deputy (deputy : (s.troupe.dvalid && node == s.troupe.dnode) = true) (noClaim : s.troupe.claim ≠ .out) :
    let s1 := sendMsg (hubMsg s 0x10 node 0 s.troupe.mepoch 0 0 0 0 0) s
    slFence node slot s = { s1 with troupe := { s1.troupe with
      dvalid := false, solo := true, leaseEnd := none, claim := .no, busy := .no, result := 1 } } := by
  obtain ⟨tx, sent⟩ := sendMsg_form (hubMsg s 0x10 node 0 s.troupe.mepoch 0 0 0 0 0) s
  unfold slFence
  rw [if_pos deputy, sent]
  exact congrArg (setBusy .no 1) (dropClaim_none (by exact noClaim))

end

/-! ## SLTXCTL -/

/-- R442: SLTXCTL with SEND. -/
theorem writeSltxctl_send (type : BitVec 8) (slot : BitVec 7) (toDep : Bool) (s : State) :
    writeSltxctl (BitVec.ofNat 64 (type.toNat + slot.toNat * 2 ^ 8 + b2n toDep * 2 ^ 15 + 2 ^ 16)) s =
      sltxGo { s with troupe := { s.troupe with txType := type, txSlot := slot, txDep := toDep } } := by
  have t := type.isLt
  have n := slot.isLt
  have d : b2n toDep ≤ 1 := by cases toDep <;> decide
  have fits : type.toNat + slot.toNat * 2 ^ 8 + b2n toDep * 2 ^ 15 + 2 ^ 16 < 2 ^ 64 := by omega
  have dep : bitAt 15 (BitVec.ofNat 64 (type.toNat + slot.toNat * 2 ^ 8 + b2n toDep * 2 ^ 15 + 2 ^ 16)) = toDep := by
    rw [bitAt_ofNat fits]
    cases toDep
    · exact decide_eq_false (by rw [show b2n false = 0 from rfl]; omega)
    · exact decide_eq_true (by rw [show b2n true = 1 from rfl]; omega)
  have send : bitAt 16 (BitVec.ofNat 64 (type.toNat + slot.toNat * 2 ^ 8 + b2n toDep * 2 ^ 15 + 2 ^ 16)) = true := by
    rw [bitAt_ofNat fits, decide_eq_true_eq]; omega
  rw [writeSltxctl, if_pos send, dep, truncate_ofNat fits (x := type) (by omega), extract_ofNat fits (x := slot) (by omega)]
  rfl

section
variable {s : State}

theorem sltxGo_none (refused : sltxTarget s = none) : sltxGo s = { s with troupe := { s.troupe with refused := true } } := by
  rw [sltxGo, refused]
  rfl

theorem sltxGo_some {node : BitVec 8} {slot : BitVec 7} {epoch : BitVec 32} (target : sltxTarget s = some (node, slot, epoch)) :
    sltxGo s = sendMsg ⟨s.troupe.txType, s.troupe.node, node, slot, epoch, s.troupe.mepoch, 0, 0, Tab.get 0 s.troupe.sltxw 2,
      Tab.get 0 s.troupe.sltxw 3, Tab.get 0 s.troupe.sltxw 4, Tab.get 0 s.troupe.sltxw 5, Tab.get 0 s.troupe.sltxw 6, Tab.get 0 s.troupe.sltxw 7⟩
      { s with troupe := { s.troupe with refused := false } } := by
  rw [sltxGo, target]
  dsimp only [hubMsg]
  rw [BitVec.ofNat_toNat, BitVec.setWidth_eq]
  rfl

/-- R442: firmware sends types 0x20 to 0x3F, and a SPARE tile none. -/
theorem sltxTarget_none (refused : s.troupe.txType.toNat < 0x20 ∨ 0x3F < s.troupe.txType.toNat ∨ s.role.role = .spare) :
    sltxTarget s = none := by
  unfold sltxTarget
  dsimp only
  split
  case isTrue => rfl
  case isFalse listed =>
    simp only [Bool.not_eq_true', Bool.not_eq_false, Bool.and_eq_true, decide_eq_true_eq] at listed
    rcases refused with low | high | spare
    · omega
    · omega
    · rw [spare]

/-- R442: where each role sends. -/
theorem sltxTarget_role (low : 0x20 ≤ s.troupe.txType.toNat) (high : s.troupe.txType.toNat ≤ 0x3F) :
    (s.role.role = .worker → sltxTarget s = some (s.troupe.mnode, s.role.slot, s.role.epoch)) ∧
    (s.role.role = .deputy → sltxTarget s = some (s.troupe.mnode, 0, s.troupe.mepoch)) ∧
    (s.role.role = .fenced → s.troupe.txType.toNat < 0x30 → sltxTarget s = none) ∧
    (s.role.role = .manager → s.troupe.txDep = true → s.troupe.dvalid = true → sltxTarget s = some (s.troupe.dnode, 0, s.troupe.mepoch)) ∧
    (s.role.role = .manager → s.troupe.txDep = true → s.troupe.dvalid = false → sltxTarget s = none) ∧
    (s.role.role = .manager → s.troupe.txDep = false → sltxTarget s =
      if (s.slotOf s.troupe.txSlot).st = .live then
        some ((s.slotOf s.troupe.txSlot).node, s.troupe.txSlot, (s.slotOf s.troupe.txSlot).epoch) else none) := by
  have listed : ¬(!(decide (0x20 ≤ s.troupe.txType.toNat) && decide (s.troupe.txType.toNat ≤ 0x3F))) = true := by simp [low, high]
  unfold sltxTarget
  dsimp only
  rw [if_neg listed]
  refine ⟨fun role => ?_, fun role => ?_, fun role below => ?_, fun role dep valid => ?_, fun role dep invalid => ?_, fun role slot => ?_⟩
  · rw [role]
  · rw [role]
  · rw [role]; exact if_pos below
  · rw [role, dep, valid]; rfl
  · rw [role, dep, invalid]; rfl
  · rw [role, slot]; rfl

end

section
variable {who : Requester} {s : State}

theorem writeReg_sltxctl (who : Requester) (v : W64) (s : State) : writeReg who 0xD0040 v s = writeSltxctl v s := rfl

theorem writeReg_slrxctl (who : Requester) (v : W64) (s : State) : writeReg who 0xD00C0 v s = writeSlrxctl v s := rfl

theorem exec_sltxSend (type : BitVec 8) (slot : BitVec 7) (toDep : Bool) (may : mayAccess who 2 0xD0040 s = true) :
    exec (.sltxSend who type slot toDep) s =
      .next (written who (sltxGo { s with troupe := { s.troupe with txType := type, txSlot := slot, txDep := toDep } })) := by
  have write := regCmd_ok (v := type.toNat + slot.toNat * 2 ^ 8 + b2n toDep * 2 ^ 15 + 2 ^ 16) may (by norm_num) (by norm_num)
    (by simp [samFreeWrite])
  rw [writeReg_sltxctl, writeSltxctl_send] at write
  exact write

/-- R451: SLRXCTL with POP. -/
theorem exec_slrxPop (clear : Bool) (may : mayAccess who 2 0xD00C0 s = true) : exec (.slrxPop who clear) s = .next (written who
    { s with troupe := { s.troupe with slrx := s.troupe.slrx.drop 1, ovf := if clear then false else s.troupe.ovf } }) := by
  have write := regCmd_ok (v := 128 + 256 * b2n clear) may (by norm_num) (by norm_num) (by simp [samFreeWrite])
  rw [writeReg_slrxctl] at write
  refine write.trans (congrArg (fun u => Host.Outcome.next (written who u)) ?_)
  cases clear <;> rfl

end

/-! ## The obligation -/

section
variable {node : BitVec 8} {slot : BitVec 7} {s : State} (hold : s.wrap.hold = false) (alone : s.role.fused = false)
include hold alone

/-- R433: ADMIT makes a free slot ADMITTING and sends ADMIT. -/
theorem slAdmit_facts (free : (s.slotOf slot).st = .empty ∨ (s.slotOf slot).st = .dead) :
    let e := s.slotOf slot
    let u := slAdmit node slot s
    u.slotOf slot = { e with st := .admitting, node := node, epoch := e.epoch + 1, ackRound := 0 } ∧
    u.troupe.busy = .admission slot (s.troupe.now + 16000) ∧ u.troupe.hbseq = s.troupe.hbseq ∧
    (∃ m : Msg, u.troupe.tx = s.troupe.tx ++ [m] ∧ m.type = 0x0A ∧ m.dst = node ∧ m.slot = slot ∧ m.epoch = e.epoch + 1 ∧
      m.mepoch = s.troupe.mepoch ∧ m.hbseq = s.troupe.hbseq) ∧
    ∀ n, n ≠ slot → u.slotOf n = s.slotOf n := by
  dsimp only
  have slots : (slAdmit node slot s).troupe.slots = Tab.set slot0T s.troupe.slots slot.toNat
      { s.slotOf slot with st := .admitting, node := node, epoch := (s.slotOf slot).epoch + 1, ackRound := 0 } := by
    rw [slAdmit_free free, sendMsg_sends (by exact hold) (by exact oddFused_of_alone alone)]
    rfl
  refine ⟨slotOf_set_same slots, ?_, ?_, ?_, slotOf_set_other slots⟩ <;>
    rw [slAdmit_free free, sendMsg_sends (by exact hold) (by exact oddFused_of_alone alone)]
  · rfl
  · rfl
  · exact ⟨_, rfl, rfl, rfl, rfl, rfl, rfl, rfl⟩

/-- R437: APPOINT takes a new DGEN and sends APPOINT. -/
theorem slAppoint_facts : let u := slAppoint node s
    u.troupe.dgen = s.troupe.dgen + 1 ∧ u.troupe.busy = .appoint node (s.troupe.now + 16000) ∧ u.troupe.dvalid = s.troupe.dvalid ∧
    ∃ m : Msg, u.troupe.tx = s.troupe.tx ++ [m] ∧ m.type = 0x0C ∧ m.dst = node ∧ m.mepoch = s.troupe.mepoch ∧
      m.m2 = (s.troupe.dgen + 1).zeroExtend 64 := by
  dsimp only
  rw [slAppoint, sendMsg_sends (by exact hold) (by exact oddFused_of_alone alone)]
  exact ⟨rfl, rfl, rfl, _, rfl, rfl, rfl, rfl, rfl⟩

end

/-- Settles O40: a command of SLCMD is a write of it (`regCmd_slcmd`), whose KIND says what happens (`slcmd_manager`); SLTXCTL and SLRXCTL are
`exec_sltxSend` and `exec_slrxPop`. That FENCE makes a slot DEAD whatever it was, and that ADMIT begins with `ackRound` 0, is the model's choice
(log entry 39). -/
theorem stringLinkCommands : Obligations.StringLinkCommands := by
  unfold Obligations.StringLinkCommands
  refine ⟨fun who node slot s may => ?slcmd, fun who type slot toDep s may => ?sltx, fun who clear s may => exec_slrxPop clear may⟩
  case slcmd =>
    refine ⟨fun busy => slcmds_answer may fun kind => slcmd_busy busy kind node slot,
      fun idle other => slcmds_answer may fun kind => slcmd_noManager idle other kind node slot, fun idle manager => ?_⟩
    obtain ⟨probe, admitting, appoint, release, fence⟩ := slcmd_manager idle manager node slot
    have run {kind : Nat} (small : kind < 8) {u : State} (effect : slcmd kind node slot s = u) :
        regCmd who 0x10018 (slcmdValue kind node slot) s = .next (written who u) := by rw [regCmd_slcmd may small, effect]
    refine ⟨run (kind := 1) (by decide) probe, fun held => run (kind := 2) (by decide) (admitting.trans (slAdmit_held held)),
      fun free hold alone => ⟨_, run (kind := 2) (by decide) admitting, slAdmit_facts hold alone free⟩,
      fun hold alone => ⟨_, run (kind := 3) (by decide) appoint, slAppoint_facts hold alone⟩,
      fun live => run (kind := 4) (by decide) (release.trans (slRelease_live live)),
      fun other => run (kind := 4) (by decide) (release.trans (slRelease_other other)),
      fun deputy noClaim => run (kind := 5) (by decide) (fence.trans (slFence_deputy deputy noClaim)),
      fun other => run (kind := 5) (by decide) (fence.trans (slFence_slot other))⟩
  case sltx =>
    refine ⟨?sends, fun refused => sltxTarget_none refused, fun low high =>
      sltxTarget_role (s := { s with troupe := { s.troupe with txType := type, txSlot := slot, txDep := toDep } }) low high⟩
    rw [exec_sltxSend type slot toDep may]
    refine congrArg (fun u => Host.Outcome.next (written who u)) ?_
    split
    case h_1 refused => exact sltxGo_none refused
    case h_2 target => exact sltxGo_some target

end Sys2Proof.Proofs
end

section
/-! SUPPORT. The hub's timers and the claims of the arbitration word (R425, R428, R433, R434, R437 to R439, R441). -/

namespace Sys2Proof.Proofs

open Sys2Proof.Machine Sys2Proof.Claims Sys2Proof.Laws

/-! ## Rounds (R425, R437) -/

/-- HEARTBEAT of round `n` to a slot. -/
def slotBeat (n : BitVec 16) (s : State) (e : BitVec 7 × SlotEnt) : Msg := hubMsg s 0x01 e.2.node e.1 e.2.epoch n e.2.ackRound 0 0 0

theorem send_slotBeats (n : BitVec 16) (l : List (BitVec 7 × SlotEnt)) {s : State} (free : s.wrap.hold = false) (link : oddFused s = false) :
    l.foldl (fun s e => sendMsg (slotBeat n s e) s) s =
      { s with troupe := { s.troupe with tx := s.troupe.tx ++ l.map (slotBeat n s) } } := by
  induction l generalizing s with
  | nil => rw [List.map_nil, List.append_nil]; rfl
  | cons e l ih =>
    have same : slotBeat n (sendMsg (slotBeat n s e) s) = slotBeat n s := by rw [sendMsg_sends free link]; rfl
    have rest := ih (s := sendMsg (slotBeat n s e) s) (by rw [sendMsg_sends free link]; exact free)
      (by rw [sendMsg_sends free link]; exact link)
    rw [List.foldl_cons, rest, same, sendMsg_sends free link, List.map_cons]
    simp only [List.append_assoc, List.singleton_append]

theorem roundSlots_st {s : State} {e : BitVec 7 × SlotEnt} (reached : e ∈ roundSlots s) : e.2.st = .admitting ∨ e.2.st = .live := by
  obtain ⟨x, among, rfl⟩ := List.mem_map.mp reached
  simpa using (List.mem_filter.mp among).2

section
variable {s : State} (free : s.wrap.hold = false) (link : oddFused s = false)
include free link

/-- R425: a round counts, sets the time of the next, and sends to every slot that it reaches and to the deputy. -/
theorem startRound_form : let n := s.troupe.hbseq + 1
    ∃ rounds, startRound s = { s with troupe := { s.troupe with
      hbseq := n, nextRound := s.troupe.now + 8000, rounds := rounds
      tx := s.troupe.tx ++ (roundSlots s).map (slotBeat n s) ++
        (if s.troupe.dvalid then [hubMsg s 0x01 s.troupe.dnode 0 s.troupe.mepoch n s.troupe.depRound 0 0 0] else []) } } := by
  obtain ⟨rounds, begun⟩ : ∃ rounds, recordRound (s.troupe.hbseq + 1)
      (withTroupe (fun t => { t with hbseq := s.troupe.hbseq + 1, nextRound := t.now + 8000 }) s) = { s with troupe := { s.troupe with
        hbseq := s.troupe.hbseq + 1, nextRound := s.troupe.now + 8000, rounds := rounds } } := ⟨_, rfl⟩
  refine ⟨rounds, ?_⟩
  have beats := send_slotBeats (s.troupe.hbseq + 1) (roundSlots s) (s := { s with troupe := { s.troupe with
    hbseq := s.troupe.hbseq + 1, nextRound := s.troupe.now + 8000, rounds := rounds } }) free link
  unfold startRound
  dsimp only
  rw [begun, show (fun (s : State) (e : BitVec 7 × SlotEnt) => sendMsg (hubMsg s 0x01 e.2.node e.1 e.2.epoch (_ : BitVec 16) e.2.ackRound 0 0 0) s) =
    fun s e => sendMsg (slotBeat _ s e) s from rfl, beats]
  by_cases valid : s.troupe.dvalid = true
  · rw [if_pos valid, if_pos valid, sendMsg_sends (by exact free) (by exact link)]
    rfl
  · rw [if_neg valid, if_neg valid, List.append_nil]
    rfl

end

section
variable {s : State} (hub : hubListens s = true)
include hub

theorem exec_heartbeatRound (manager : s.role.role = .manager) (running : hbFrozen s = false) (due : s.troupe.nextRound ≤ s.troupe.now) :
    exec .heartbeatRound s = .next (startRound s) :=
  onlyIf_of_true (by simp [hubTimes, hub, manager, running, due])

theorem exec_dephbTimer (deputy : s.role.role = .deputy) (due : s.troupe.nextRound ≤ s.troupe.now) :
    exec .dephbTimer s = .next (sendDephb s) :=
  onlyIf_of_true (by simp [hubTimes, hub, deputy, due])

theorem exec_slotDead {slot : BitVec 7} (manager : s.role.role = .manager) (running : hbFrozen s = false) (live : (s.slotOf slot).st = .live)
    (silent : (s.slotOf slot).ackAt + 96000 ≤ s.troupe.now) : exec (.slotDead slot) s = .next (slotDies slot s) :=
  onlyIf_of_true (by simp [hubTimes, hub, slotSilent, manager, running, live, silent])

theorem exec_admitTimeout {slot : BitVec 7} {till : Nat} (busy : s.troupe.busy = .admission slot till) (past : till ≤ s.troupe.now) :
    exec .admitTimeout s = .next (admitTimedOut slot s) := by
  change execAdmitTimeout s = _
  unfold execAdmitTimeout
  rw [busy]
  exact onlyIf_of_true (by simp [hubTimes, hub, past])

theorem exec_appointTimeout {node : BitVec 8} {till : Nat} (busy : s.troupe.busy = .appoint node till) (past : till ≤ s.troupe.now) :
    exec .appointTimeout s = .next (setBusy .no 3 s) := by
  change execAppointTimeout s = _
  unfold execAppointTimeout
  rw [busy]
  exact onlyIf_of_true (by simp [hubTimes, hub, past])

theorem exec_releaseDrainDone (releasing : s.troupe.releasing = true) (worker : s.role.role = .worker) (drained : releaseDrained s = true)
    (part : partAllowed s = true) : exec .releaseDrainDone s = .next (partDone releaseDone s) :=
  onlyIf_of_true (by simp [hubTimes, hub, releasing, worker, drained, part])

/-- R441: a scan whose GRPACK is overdue goes on. -/
theorem exec_grpmirrorTimeout {x : Scan} {till : Nat} (among : x ∈ s.rings.scans) (mirrors : x.step = .mirror till) (past : till ≤ s.troupe.now) :
    ∃ y : Scan, y ∈ s.rings.scans ∧ (∃ till', y.step = .mirror till' ∧ till' ≤ s.troupe.now) ∧ exec .grpmirrorTimeout s = .next (scanAdd y s) := by
  change ∃ y, _ ∧ _ ∧ execGrpmirrorTimeout s = _
  unfold execGrpmirrorTimeout
  rw [if_pos (by exact hub)]
  cases found : mirrorScan s _ with
  | none =>
    have none := List.find?_eq_none.mp found x among
    simp [mirrors, past] at none
  | some y =>
    have holds := List.find?_some found
    refine ⟨y, List.mem_of_find?_eq_some found, ?_, rfl⟩
    cases step : y.step with
    | mirror till' => exact ⟨till', rfl, by simpa [step] using holds⟩
    | _ => simp [step] at holds

/-- R438: the manager claims once less than 32 µs of its lease remain. -/
theorem exec_managerClaim {e : Nat} (manager : s.role.role = .manager) (deputy : s.troupe.solo = false) (none : s.troupe.claim = .no)
    (lease : s.troupe.leaseEnd = some e) (short : e < s.troupe.now + 32000) : exec .managerClaim s = .next (managerClaims s) :=
  onlyIf_of_true (by simp [hubTimes, hub, managerMayClaim, manager, deputy, none, lease, short])

theorem exec_deputyClaim (deputy : s.role.role = .deputy)
    (due : (s.troupe.claim = .no ∧ s.troupe.lastHb + 96000 ≤ s.troupe.now) ∨ (∃ t, s.troupe.claim = .retry t ∧ t ≤ s.troupe.now)) :
    exec .deputyClaim s = .next (deputyClaims s) := by
  have may : deputyMayClaim s = true := by
    rcases due with ⟨claim, silent⟩ | ⟨t, claim, past⟩
    · simp [deputyMayClaim, deputy, claim, silent]
    · simp [deputyMayClaim, deputy, claim, past]
  exact onlyIf_of_true (by rw [hubTimes, hub, may]; rfl)

end

/-! ## The end of an admission (R433) -/

theorem admitTimedOut_facts (slot : BitVec 7) (s : State) : let u := admitTimedOut slot s
    u.troupe.busy = .no ∧ u.troupe.result = 3 ∧ ((s.slotOf slot).st = .admitting → (u.slotOf slot).st = .dead) ∧
    ∀ n, n ≠ slot → u.slotOf n = s.slotOf n := by
  unfold admitTimedOut
  dsimp only
  by_cases admitting : (s.slotOf slot).st = .admitting
  · rw [if_pos admitting]
    have slots : (setBusy .no 3 (setSlot slot { s.slotOf slot with st := .dead } s)).troupe.slots =
        Tab.set slot0T s.troupe.slots slot.toNat { s.slotOf slot with st := .dead } := rfl
    exact ⟨rfl, rfl, fun _ => by rw [slotOf_set_same slots], slotOf_set_other slots⟩
  · rw [if_neg admitting]
    exact ⟨rfl, rfl, fun same => absurd same admitting, fun n _ => rfl⟩

/-! ## The end of a drain (R23, R434) -/

section
variable {s : State}

theorem releaseDrained_of (noChain : anyChain s = false) (empty : queuesEmpty s = true) (noWrites : ∀ e ∈ s.dma.chans, e.2.writes = []) :
    releaseDrained s = true := by
  have none : s.dma.chans.all (fun e => e.2.writes.isEmpty) = true :=
    List.all_eq_true.mpr fun e among => List.isEmpty_iff.mpr (noWrites e among)
  rw [releaseDrained, noChain, empty, none]
  rfl

theorem partDone_odd (odd : oddFused s = true) (whole : State → State) :
    partDone whole s = { s with pair := { s.pair with tx := s.pair.tx ++ [.drained], drained := true } } := if_pos odd

theorem partDone_even (even : oddFused s = false) (whole : State → State) : partDone whole s =
    if s.role.fused then { whole s with pair := { (whole s).pair with tx := (whole s).pair.tx ++ [.spare], drained := false } } else whole s := by
  unfold partDone
  rw [even]
  rfl

theorem arrive_pair (n : Nat) (s : State) : (arrive n s).pair = s.pair := by
  obtain ⟨ev, cores, pwr, form⟩ := arrive_form n s
  rw [form]

theorem releaseDone_pair (s : State) : (releaseDone s).pair = s.pair := by
  obtain ⟨tx, sent⟩ := sendMsg_form (hubMsg s 0x0F s.troupe.mnode s.role.slot s.role.epoch 0 0 0 0 0) s
  rw [releaseDone, becomeSpare, arrive_pair, sent]
  rfl

end

/-! ## Claims (R438, R439) -/

/-- R438: a win that comes before the lease end, on a word that the deputy does not hold. -/
theorem managerAnswered_eq (code : RspCode) (old : W64) (s : State) : managerAnswered code old s =
    if code = .okay ∧ s.troupe.leaseEnd.all (fun e => s.troupe.now ≤ e) = true ∧ old.getLsbD 1 = false then
      let s1 := sendMsg (hubMsg s 0x10 s.troupe.dnode 0 s.troupe.mepoch 0 0 0 0 0) s
      { s1 with troupe := { s1.troupe with claim := .no, solo := true, dvalid := false, leaseEnd := none } }
    else { s with troupe := { s.troupe with claim := .lost } } := by
  have same : (code = .okay && !(match s.troupe.leaseEnd with
      | some e => decide (e < s.troupe.now)
      | none => false) && !bitAt 1 old) = true ↔
      code = .okay ∧ s.troupe.leaseEnd.all (fun e => s.troupe.now ≤ e) = true ∧ old.getLsbD 1 = false := by
    cases s.troupe.leaseEnd <;> simp [bitAt, and_assoc]
  unfold managerAnswered
  exact if_congr same rfl rfl

section
variable {code : RspCode} {old : W64} {s : State}

theorem exec_managerClaimResponse (manager : s.role.role = .manager) (out : s.troupe.claim = .out) (unowed : Owed.claim ∉ s.ports.owed) :
    exec (.managerClaimResponse code old) s = .next (managerAnswered code old s) :=
  (owedFirst_of_not_mem (fun s => onlyIf (s.role.role == .manager && s.troupe.claim == .out) "no claim of a manager is outstanding"
    (managerAnswered code old s)) unowed).trans (onlyIf_of_true (by simp [manager, out]))

theorem exec_deputyClaimResponse (deputy : s.role.role = .deputy) (out : s.troupe.claim = .out) (unowed : Owed.claim ∉ s.ports.owed) :
    exec (.deputyClaimResponse code old) s = .next (deputyAnswered code old s) :=
  (owedFirst_of_not_mem (fun s => onlyIf (s.role.role == .deputy && s.troupe.claim == .out) "no claim of a deputy is outstanding"
    (deputyAnswered code old s)) unowed).trans (onlyIf_of_true (by simp [deputy, out]))

theorem deputyAnswered_retries (failed : code ≠ .okay) : deputyAnswered code old s =
    { s with troupe := { s.troupe with claim := .retry (s.troupe.now + 8000) } } := if_pos (bne_iff_ne.mpr failed)

theorem deputyAnswered_lost (okay : code = .okay) (taken : old.getLsbD 0 = true) :
    deputyAnswered code old s = enterFenced 1 true { s with troupe := { s.troupe with claim := .no } } := by
  unfold deputyAnswered
  rw [if_neg (by rw [okay]; decide), if_pos (by exact taken)]
  rfl

theorem deputyAnswered_won (okay : code = .okay) (free : old.getLsbD 0 = false) : deputyAnswered code old s = takeOver s := by
  unfold deputyAnswered
  rw [if_neg (by rw [okay]; decide), if_neg (by rw [bitAt, free]; decide)]

end

/-! ## The takeover (R439, R441) -/

theorem find_mapConst {α : Type} (v : α) {l : List Nat} {k : Nat} (among : k ∈ l) : Tab.find (l.map (fun i => (i, v))) k = some v := by
  induction l with
  | nil => cases among
  | cons i l ih =>
    by_cases here : i = k
    · exact if_pos here
    · exact (if_neg here).trans (ih ((List.mem_cons.mp among).resolve_left (Ne.symm here)))

theorem roleSide_makeEligible (g : Nat) (mask : W64) (s : State) : roleSide (makeEligible g mask s) = roleSide s := by
  unfold makeEligible
  dsimp only
  split
  · rfl
  · split
    · rw [roleSide_arrive]; rfl
    · rfl

/-- R439, R441: the deputy that takes over is MANAGER in a new epoch, SOLO, with every slot DEAD. -/
theorem takeOver_facts (s : State) : let u := takeOver s
    u.role = { s.role with role := .manager, slot := 0, epoch := s.troupe.mepoch + 1 } ∧ u.troupe.mepoch = s.troupe.mepoch + 1 ∧
    u.troupe.solo = true ∧ u.troupe.dvalid = false ∧ u.troupe.leaseEnd = none ∧ u.troupe.groups = [] ∧
    ∀ n : BitVec 7, (u.slotOf n).st = .dead ∧ (u.slotOf n).epoch = 0 ∧ (u.slotOf n).node = 0 := by
  unfold takeOver
  dsimp only
  generalize fresh : withTroupe _ s = s1
  have manager := roleSide_becomeManager s1
  have scans (gs : List Nat) : roleSide (gs.foldl (fun s g => makeEligible g (BitVec.allOnes 64) s) (becomeManager s1)) = roleSide (becomeManager s1) :=
    foldl_field roleSide (fun s g => roleSide_makeEligible g _ s) gs _
  unfold ringTakeover
  dsimp only
  generalize List.flatMap _ _ = gs
  have side := (scans gs).trans manager
  simp only [roleSide, Prod.mk.injEq] at side
  obtain ⟨role, troupe, -⟩ := side
  have slots (n : BitVec 7) : (withTroupe (fun t => { t with groups := [] })
      (gs.foldl (fun s g => makeEligible g (BitVec.allOnes 64) s) (becomeManager s1))).slotOf n = ⟨.dead, false, 0, 0, 0, 0⟩ := by
    have all : Tab.find s1.troupe.slots n.toNat = some ⟨.dead, false, 0, 0, 0, 0⟩ := by
      rw [← fresh]; exact find_mapConst _ (List.mem_range.mpr n.isLt)
    unfold State.slotOf withTroupe
    dsimp only
    rw [troupe]
    exact congrArg (Option.getD · slot0T) all
  refine ⟨?_, ?_, ?_, ?_, ?_, rfl, fun n => by simp only [slots, and_self]⟩
  · exact role.trans (fresh ▸ rfl)
  · exact (congrArg (·.mepoch) troupe).trans (by rw [← fresh])
  · exact congrArg (·.solo) troupe
  · exact congrArg (·.dvalid) troupe
  · exact congrArg (·.leaseEnd) troupe

/-- Settles O39: each timer and claim is its `exec_…` equation. The first round 8 µs after the start and the ODD and EVEN ends released together
are the model's choices (log entries 39 and 64). -/
theorem hubTimersAndClaims : Obligations.HubTimersAndClaims := by
  unfold Obligations.HubTimersAndClaims
  intro s hub
  refine ⟨fun manager running due hold alone => ?round, fun deputy due => exec_dephbTimer hub deputy due,
    fun slot manager running live silent => exec_slotDead hub manager running live silent,
    fun slot till busy past => ⟨_, exec_admitTimeout hub busy past, admitTimedOut_facts slot s⟩,
    fun node till busy past => exec_appointTimeout hub busy past, fun worker releasing noChain empty noWrites => ⟨fun odd part => ?odd,
    fun even part => ?even⟩, fun x till among mirrors past => exec_grpmirrorTimeout hub among mirrors past,
    fun e manager deputy noClaim lease short => exec_managerClaim hub manager deputy noClaim lease short,
    fun code old manager out unowed => ?answered, fun deputy due => exec_deputyClaim hub deputy due,
    fun code old deputy out unowed => ?deputyAnswered⟩
  case round =>
    obtain ⟨rounds, form⟩ := startRound_form hold (oddFused_of_alone alone)
    refine ⟨_, exec_heartbeatRound hub manager running due, ?_⟩
    rw [form]
    exact ⟨rfl, rfl, rfl, rfl, rfl, fun e reached => roundSlots_st reached⟩
  case odd =>
    rw [exec_releaseDrainDone hub releasing worker (releaseDrained_of noChain empty noWrites) (by simp [partAllowed, odd, part]), partDone_odd odd]
  case even =>
    have allowed : partAllowed s = true := by
      cases fused : s.role.fused with
      | false => simp [partAllowed, fused]
      | true => simp [partAllowed, even, part fused]
    rw [exec_releaseDrainDone hub releasing worker (releaseDrained_of noChain empty noWrites) allowed, partDone_even even, releaseDone_pair]
    obtain ⟨tx, sent⟩ := sendMsg_form (hubMsg s 0x0F s.troupe.mnode s.role.slot s.role.epoch 0 0 0 0 0) s
    rw [releaseDone, sent]
    rfl
  case answered => rw [exec_managerClaimResponse manager out unowed, managerAnswered_eq]
  case deputyAnswered =>
    rw [exec_deputyClaimResponse deputy out unowed]
    refine ⟨fun failed => by rw [deputyAnswered_retries failed], fun okay taken => ⟨_, rfl, ?_⟩, fun okay free => ⟨_, rfl, ?_⟩⟩
    · rw [deputyAnswered_lost okay taken]
      exact enterFenced_fencedAs 1 true (s := { s with troupe := { s.troupe with claim := .no } }) (by rw [deputy]; decide)
    · rw [deputyAnswered_won okay free]
      exact takeOver_facts s

end Sys2Proof.Proofs
end

section
/-! SUPPORT. What each string-link message does on the tile that accepts it (R423, R426, R428, R431, R433 to R435, R437 to R439, R441, R442). -/

namespace Sys2Proof.Proofs

open Sys2Proof.Machine Sys2Proof.Claims Sys2Proof.Laws

/-! ## A message that is accepted -/

section
variable {m : Msg} {s : State} (accepted : heard m s)
include accepted

/-- R22, R424: an accepted message is handled. -/
theorem receive_heard (handle : State → State) : receive m handle s = handle s := by
  obtain ⟨hub, even, fate, flush⟩ := accepted
  unfold receive
  rw [if_neg (by rw [hub, even]; decide), fate]
  refine if_neg ?_
  rcases flush with none | other
  · rw [roleHeld, none]; exact Bool.false_ne_true
  · rw [other, Bool.and_false]; decide

/-- The command of an accepted message of its own type handles it. -/
theorem messageCmd_heard {type : BitVec 8} (own : m.type.toNat = type.toNat) (handle : State → State) :
    messageCmd type m handle s = .next (handle s) := by
  rw [messageCmd_of_type own, receive_heard accepted]

theorem heard_typeAccepted : typeAccepted s.role.role m.type.toNat = true := by
  by_contra unlisted
  have bad := msgFate_bad (m := m) (s := s) (.inr (Bool.eq_false_iff.mpr unlisted))
  exact absurd (accepted.2.2.1.symm.trans bad) nofun

end

/-- R423: a FENCED tile accepts nothing. -/
theorem heard_notFenced {m : Msg} {s : State} (accepted : heard m s) : s.role.role ≠ .fenced := by
  intro fenced
  have listed := heard_typeAccepted accepted
  rw [fenced] at listed
  cases listed

/-! ## HEARTBEAT and DEPHB (R425, R426, R438) -/

section
variable {m : Msg} {s : State}

/-- R22, R426: the end of the lease comes before a HEARTBEAT that meets it. -/
theorem onHeartbeat_over (worker : s.role.role = .worker) (ended : leaseOver s = true) : onHeartbeat m s = enterFenced 1 true s :=
  if_pos (by rw [worker, ended]; rfl)

theorem renewLease_form (n : BitVec 16) (s : State) : renewLease n s = { s with troupe := { s.troupe with
    leaseEnd := match s.troupe.rounds.find? (fun r => r.1 == n) with
      | none => s.troupe.leaseEnd
      | some r => some (Nat.max (s.troupe.leaseEnd.getD 0) (r.2 + 64000)) } } := by
  unfold renewLease
  cases s.troupe.rounds.find? (fun r => r.1 == n) <;> rfl

theorem onHeartbeat_worker (worker : s.role.role = .worker) (lasts : leaseOver s = false) (alone : s.role.fused = false) :
    onHeartbeat m s = sendHback m.hbseq (renewLease m.ackseq (recordRound m.hbseq s)) := by
  have takes : takeHeartbeat m s = renewLease m.ackseq (recordRound m.hbseq s) := by rw [takeHeartbeat, worker]
  unfold onHeartbeat
  rw [if_neg (by rw [lasts, Bool.and_false]; decide)]
  dsimp only
  rw [takes, worker, alone]
  rfl

theorem onHeartbeat_deputy (deputy : s.role.role = .deputy) : onHeartbeat m s =
    withTroupe (fun t => { t with depRound := m.hbseq, lastHb := t.now }) (recordRound m.hbseq s) := by
  have takes : takeHeartbeat m s = withTroupe (fun t => { t with depRound := m.hbseq, lastHb := t.now }) (recordRound m.hbseq s) := by
    rw [takeHeartbeat, deputy]
  unfold onHeartbeat
  rw [if_neg (by rw [deputy]; exact nofun)]
  dsimp only
  rw [takes, if_pos (by rw [deputy]; rfl)]

theorem onDephb_form (m : Msg) (s : State) : onDephb m s = { s with troupe := { s.troupe with
    depRound := m.hbseq
    leaseEnd := if s.troupe.claim = .lost then s.troupe.leaseEnd else match s.troupe.rounds.find? (fun r => r.1 == m.hbseq) with
      | none => s.troupe.leaseEnd
      | some r => some (Nat.max (s.troupe.leaseEnd.getD 0) (r.2 + 64000)) } } := by
  unfold onDephb
  dsimp only
  by_cases lost : s.troupe.claim = .lost
  · rw [if_pos lost, if_pos lost]; rfl
  · rw [if_neg lost, if_neg lost, renewLease_form]; rfl

end

/-! ## HBACK (R428, R452) -/

/-- A slot is DEAD after `slotDies`. -/
theorem slotDies_slots (slot : BitVec 7) (s : State) :
    (slotDies slot s).troupe.slots = Tab.set slot0T s.troupe.slots slot.toNat { s.slotOf slot with st := .dead } := by
  obtain ⟨ev, cores, pwr, form⟩ := arrive_form srcSlLease (setSlot slot { s.slotOf slot with st := .dead } s)
  rw [slotDies, form]
  rfl

theorem replyFenced_slots (m : Msg) (s : State) : (replyFenced m s).troupe.slots = s.troupe.slots := by
  have answers : replyFenced m s = sendMsg (hubMsg s 0x10 m.src m.slot m.epoch 0 0 0 0 0)
      (withTroupe (fun t => { t with fencedAt := Tab.insert t.fencedAt m.src.toNat t.now }) s) ∨ replyFenced m s = s := ite_eq_or_eq _ _ _
  rcases answers with sends | quiet
  · obtain ⟨tx, sent⟩ := sendMsg_form (hubMsg s 0x10 m.src m.slot m.epoch 0 0 0 0 0)
      (withTroupe (fun t => { t with fencedAt := Tab.insert t.fencedAt m.src.toNat t.now }) s)
    rw [sends, sent]
    rfl
  · rw [quiet]

/-- An HBACK changes the state of no slot, whatever becomes of it. -/
theorem receive_hback_st (m : Msg) (s : State) : ((receive m (onHback m) s).slotOf m.slot).st = (s.slotOf m.slot).st := by
  have answered : ((onHback m s).slotOf m.slot).st = (s.slotOf m.slot).st := by
    have slots : (onHback m s).troupe.slots =
        Tab.set slot0T s.troupe.slots m.slot.toNat { s.slotOf m.slot with ackAt := s.troupe.now, ackRound := m.hbseq } := rfl
    rw [slotOf_set_same slots]
  have replied : (replyFenced m (countStale s)).troupe.slots = s.troupe.slots := replyFenced_slots m (countStale s)
  unfold receive
  split
  · rfl
  split
  · rfl
  · split
    · exact congrArg (fun slots => (Tab.get slot0T slots m.slot.toNat).st) replied
    · rfl
  · split
    · rfl
    · exact answered

/-! ## ADMIT and ADMITACK (R433) -/

section
variable {m : Msg} {s : State}

theorem onAdmit_keeps (kept : s.pair.busy = true ∨ s.fuses.now = 5) : onAdmit m s = s :=
  if_pos (by rcases kept with busy | ended <;> simp [*])

theorem role_takeSlot : (takeSlot m s).role = { s.role with role := .worker, slot := m.slot, epoch := m.epoch } := by
  obtain ⟨ev, cores, pwr, form⟩ := arrive_form srcRoleChange (withTroupe (fun t => { t with
    mnode := m.src, mepoch := m.mepoch, rounds := [(m.hbseq, t.now)], leaseEnd := some (t.now + 64000), releasing := false,
    lastSlot := m.slot }) (setRole { s.role with role := .worker, slot := m.slot, epoch := m.epoch } s))
  rw [takeSlot, form]
  rfl

/-- R433: a tile that is not fused takes the slot and answers ADMITACK. -/
theorem onAdmit_takes (free : s.pair.busy = false) (alone : s.role.fused = false) (lives : s.fuses.now ≠ 5) :
    onAdmit m s = sendMsg (hubMsg (takeSlot m s) 0x0B m.src m.slot m.epoch m.hbseq 0 0 0 0) (takeSlot m s) := by
  unfold onAdmit
  rw [if_neg (by rw [free, oddFused_of_alone alone, decide_eq_false lives]; decide)]
  obtain ⟨tx, sent⟩ := sendMsg_form (hubMsg (takeSlot m s) 0x0B m.src m.slot m.epoch m.hbseq 0 0 0 0) (takeSlot m s)
  refine sendPair_alone ?_ _
  rw [sent]
  exact (congrArg TileRole.fused role_takeSlot).trans alone

theorem lateFirst_timely (inTime : timely s) (timedOut : State → State) : lateFirst timedOut s = s := by
  have notLate (till : Nat) (bound : s.troupe.now ≤ till) : ¬(hubListens s && decide (till < s.troupe.now)) = true := by
    rw [decide_eq_false (Nat.not_lt.mpr bound), Bool.and_false]
    exact Bool.false_ne_true
  unfold lateFirst
  dsimp only
  cases busy : s.troupe.busy with
  | no => exact if_neg (by rw [Bool.and_false]; exact Bool.false_ne_true)
  | admission n till => exact if_neg (notLate till (inTime till (.inl ⟨n, busy⟩)))
  | appoint n till => exact if_neg (notLate till (inTime till (.inr ⟨n, busy⟩)))

/-- R433: ADMITACK makes its slot LIVE, with FUSED free. -/
theorem onAdmitack_facts (m : Msg) (s : State) : let u := onAdmitack m s
    (u.slotOf m.slot).st = .live ∧ (u.slotOf m.slot).ackAt = s.troupe.now ∧ (u.slotOf m.slot).ackRound = m.hbseq ∧
    (u.slotOf m.slot).epoch = (s.slotOf m.slot).epoch ∧ (u.slotOf m.slot).node = (s.slotOf m.slot).node ∧
    (∀ till, s.troupe.busy = .admission m.slot till → u.troupe.busy = .no ∧ u.troupe.result = 1) ∧
    (∀ n, n ≠ m.slot → u.slotOf n = s.slotOf n) ∧ u.role = s.role := by
  obtain ⟨fused, slots, role⟩ : ∃ f, (onAdmitack m s).troupe.slots = Tab.set slot0T s.troupe.slots m.slot.toNat
      { s.slotOf m.slot with st := .live, fused := f, ackAt := s.troupe.now, ackRound := m.hbseq } ∧ (onAdmitack m s).role = s.role := by
    refine ⟨s.takeBool.1, ?_⟩
    unfold onAdmitack
    dsimp only
    split
    · split <;> exact ⟨rfl, rfl⟩
    · exact ⟨rfl, rfl⟩
  have here := slotOf_set_same slots
  dsimp only
  rw [here]
  refine ⟨rfl, rfl, rfl, rfl, rfl, fun till busy => ?_, slotOf_set_other slots, role⟩
  unfold onAdmitack
  dsimp only
  rw [busy]
  dsimp only
  rw [if_pos rfl]
  exact ⟨rfl, rfl⟩

end

/-! ## APPOINT and APPOINTACK (R437) -/

section
variable {m : Msg} {s : State}

theorem onAppoint_fused (fused : s.role.fused = true) : onAppoint m s = { s with troupe := { s.troupe with bad := satInc s.troupe.bad } } :=
  if_pos fused

theorem onAppoint_ended (alone : s.role.fused = false) (ended : s.fuses.now = 5) : onAppoint m s = s := by
  unfold onAppoint
  rw [if_neg (by rw [alone]; decide), if_pos ended]

theorem onAppoint_takes (alone : s.role.fused = false) (lives : s.fuses.now ≠ 5) :
    let s1 : State := { s with
      role := { s.role with role := .deputy, slot := 0, epoch := m.mepoch }
      troupe := { s.troupe with
        mnode := m.src, mepoch := m.mepoch, dgen := m.m2.truncate 6, lastHb := s.troupe.now, depRound := 0, nextRound := s.troupe.now + 8000,
        rounds := [], leaseEnd := none, groups := [], claim := .no, lastSlot := 0 } }
    onAppoint m s = arrive srcRoleChange (sendMsg (hubMsg s1 0x0D m.src 0 m.mepoch 0 0 0 0 0) s1) := by
  unfold onAppoint
  rw [if_neg (by rw [alone]; decide), if_neg lives]
  rfl

theorem onAppointack_takes {node : BitVec 8} {till : Nat} (busy : s.troupe.busy = .appoint node till) :
    onAppointack m s = { s with troupe := { s.troupe with
      dnode := node, dvalid := true, solo := false, depRound := 0, leaseEnd := some (till - 16000 + 64000), claim := .no, busy := .no, result := 1 } } := by
  unfold onAppointack
  rw [busy]
  rfl

/-! ## Messages for firmware (R423, R442, R451) -/

theorem queueMsg_room (room : s.troupe.slrx.length < 64) : queueMsg m s = arrive srcSlMsg { s with troupe := { s.troupe with slrx := s.troupe.slrx ++ [m] } } :=
  if_neg (Nat.not_le.mpr room)

theorem queueMsg_full (full : 64 ≤ s.troupe.slrx.length) : queueMsg m s = { s with troupe := { s.troupe with
    ovf := true, rxovf := if ofFirmware m then satInc s.troupe.rxovf else s.troupe.rxovf } } := if_pos full

/-- PROBEREP, ALERT and firmware's messages are queued. -/
theorem exec_queued (accepted : heard m s) {c : Instr} (kind : (m.type.toNat = 0x09 ∧ c = .proberep m) ∨ (m.type.toNat = 0x11 ∧ c = .alert m) ∨
    (0x20 ≤ m.type.toNat ∧ m.type.toNat ≤ 0x3F ∧ c = .firmwareMessage m)) : exec c s = .next (queueMsg m s) := by
  rcases kind with ⟨own, rfl⟩ | ⟨own, rfl⟩ | ⟨low, high, rfl⟩
  · exact messageCmd_heard accepted (type := 0x09) own _
  · exact messageCmd_heard accepted (type := 0x11) own _
  · rw [exec_firmwareMessage low high, receive_heard accepted]

end

/-- Settles O38: every command of an accepted message is its handler (`messageCmd_heard`), whose equation is an `on…` lemma. RXOVF not counting hub
messages (log entry 86), an END tile ignoring ADMIT and APPOINT (log entry 72) and the deputy's times (log entry 39) are the model's choices. -/
theorem acceptedMessages : Obligations.AcceptedMessages := by
  unfold Obligations.AcceptedMessages
  intro m s accepted own
  refine ⟨fun type worker ended => ?heartbeatLate, fun type worker lasts alone => ?heartbeat, fun type deputy => ?heartbeatDeputy,
    fun type silent => ?hbackDead, fun type speaks => ?hback, fun type => ?dephb, fun type => ?probe, fun type free alone lives => ?take,
    fun type kept => ?takesNot, fun type inTime => ?admitack, fun type fused => ?appointFused, fun type alone ended => ?appointEnded,
    fun type alone lives => ?appoint, fun type inTime node till busy => ?appointack, fun type alone => ?release, fun type => ?released,
    fun type => ?fenced, fun type => ?grpmirror, fun type => ?grpack, fun c kind => ⟨fun room => ?room, fun full => ?full⟩⟩
  case heartbeatLate =>
    exact ⟨_, (messageCmd_heard accepted (type := 0x01) type _).trans (congrArg _ (onHeartbeat_over worker ended)),
      enterFenced_fencedAs 1 true (heard_notFenced accepted)⟩
  case heartbeat =>
    refine (messageCmd_heard accepted (type := 0x01) type _).trans (congrArg _ ?_)
    rw [onHeartbeat_worker worker lasts alone, renewLease_form]
    rfl
  case heartbeatDeputy => exact (messageCmd_heard accepted (type := 0x01) type _).trans (congrArg _ (onHeartbeat_deputy deputy))
  case hbackDead =>
    refine ⟨_, messageCmd_of_type (type := 0x02) type _ _, ?_⟩
    have dies : deadFirst m.slot s = slotDies m.slot s := if_pos (by rw [accepted.1, silent]; rfl)
    rw [dies, receive_hback_st, slotOf_set_same (slotDies_slots m.slot s)]
  case hback =>
    have stays : deadFirst m.slot s = s := if_neg (by rw [speaks, Bool.and_false]; decide)
    have run : exec (.hback m) s = .next (receive m (onHback m) (deadFirst m.slot s)) := messageCmd_of_type (type := 0x02) type _ _
    rw [run, stays, receive_heard accepted]
    rfl
  case dephb => exact (messageCmd_heard accepted (type := 0x03) type _).trans (congrArg _ (onDephb_form m s))
  case probe => exact messageCmd_heard accepted (type := 0x08) type _
  case take => exact (messageCmd_heard accepted (type := 0x0A) type _).trans (congrArg _ (onAdmit_takes free alone lives))
  case takesNot => exact (messageCmd_heard accepted (type := 0x0A) type _).trans (congrArg _ (onAdmit_keeps kept))
  case admitack =>
    have run : exec (.admitack m) s = .next (receive m (onAdmitack m) (lateFirst timeoutNow s)) := messageCmd_of_type (type := 0x0B) type _ _
    rw [lateFirst_timely inTime, receive_heard accepted] at run
    exact ⟨_, run, onAdmitack_facts m s⟩
  case appointFused => exact (messageCmd_heard accepted (type := 0x0C) type _).trans (congrArg _ (onAppoint_fused fused))
  case appointEnded => exact (messageCmd_heard accepted (type := 0x0C) type _).trans (congrArg _ (onAppoint_ended alone ended))
  case appoint => exact (messageCmd_heard accepted (type := 0x0C) type _).trans (congrArg _ (onAppoint_takes alone lives))
  case appointack =>
    have run : exec (.appointack m) s = .next (receive m (onAppointack m) (lateFirst timeoutNow s)) :=
      messageCmd_of_type (type := 0x0D) type _ _
    rw [run, lateFirst_timely inTime, receive_heard accepted, onAppointack_takes busy]
  case release => exact (messageCmd_heard accepted (type := 0x0E) type _).trans (congrArg _ (sendPair_alone (by exact alone) _))
  case released => exact messageCmd_heard accepted (type := 0x0F) type _
  case fenced => exact ⟨_, messageCmd_heard accepted (type := 0x10) type _, enterFenced_fencedAs 2 true (heard_notFenced accepted)⟩
  case grpmirror =>
    refine (messageCmd_heard accepted (type := 0x12) type _).trans (congrArg _ ?_)
    rw [onGrpmirror, fieldAt_zero]
    rfl
  case grpack =>
    refine (messageCmd_heard accepted (type := 0x13) type _).trans (congrArg _ ?_)
    unfold onGrpack
    rw [fieldAt_zero] <;> rfl
  case room => rw [exec_queued accepted kind, queueMsg_room room]
  case full => rw [exec_queued accepted kind, queueMsg_full full]

end Sys2Proof.Proofs
end

section
/-! SUPPORT. The Watch Table, hot lines, scans and cold polls (R387, R389 to R392, R396, R399, R402). -/

namespace Sys2Proof.Proofs

open Sys2Proof.Machine Sys2Proof.Claims Sys2Proof.Laws

theorem orRefuse_some {why : String} {o : Option State} {u : State} (answered : o = some u) : orRefuse why o = .next u := by
  rw [answered]; rfl

/-! ## What leaves the ring engine -/

theorem arrive_rings (n : Nat) (s : State) : (arrive n s).rings = s.rings := by
  obtain ⟨ev, cores, pwr, form⟩ := arrive_form n s
  rw [form]

theorem logRecord_rings (kind unit : Nat) (addr : BitVec 52) (detail : W64) (mchk : Bool) (s : State) :
    (logRecord kind unit addr detail mchk s).rings = s.rings := by
  obtain ⟨l, ev, cores, held, wake, form, -⟩ := logRecord_power kind unit addr detail mchk s
  rw [form]

/-- R391: an error of one entry leaves which entries are in use. -/
theorem inUse_watchError (i : Nat) (pa : BitVec 52) (code : BitVec 2) (s : State) : (watchError i pa code s).rings.inUse = s.rings.inUse := by
  unfold watchError
  dsimp only
  rw [logRecord_rings]
  unfold withRings
  dsimp only
  split <;> rfl

/-! ## WATCHARM and RINGSET (R402) -/

section
variable {who : Requester} {s : State}

theorem writeReg_watcharm (who : Requester) (v : W64) (s : State) : writeReg who 0x70030 v s = writeWatcharm v s := rfl

theorem exec_watcharmGo (entry : BitVec 15) (may : mayAccess who 2 0x70030 s = true) : exec (.watcharmGo who entry) s =
    .next (written who (if ringsOn s = true ∧ entry.toNat < s.rings.inUse then armEntry entry.toNat true s else s)) := by
  have n := entry.isLt
  have fits : entry.toNat + 2 ^ 15 < 2 ^ 64 := by omega
  have go : bitAt 15 (BitVec.ofNat 64 (entry.toNat + 2 ^ 15)) = true := by rw [bitAt_ofNat fits, decide_eq_true_eq]; omega
  have named : fieldAt 0 15 (BitVec.ofNat 64 (entry.toNat + 2 ^ 15)) = entry.toNat := by rw [fieldAt_ofNat fits]; omega
  have effect : writeWatcharm (BitVec.ofNat 64 (entry.toNat + 2 ^ 15)) s =
      if ringsOn s = true ∧ entry.toNat < s.rings.inUse then armEntry entry.toNat true s else s := by
    unfold writeWatcharm
    dsimp only
    rw [go, named, Bool.true_and]
    exact if_congr (by rw [Bool.and_eq_true, decide_eq_true_eq]) rfl rfl
  have write := regCmd_ok (v := entry.toNat + 2 ^ 15) may (by norm_num) (by norm_num) (by simp [samFreeWrite])
  rw [writeReg_watcharm, effect] at write
  exact write

theorem ringset_other (other : s.role.role ≠ .manager) (v : W64) : ringset v s = s := if_pos (bne_iff_ne.mpr other)

theorem ringset_manager (manager : s.role.role = .manager) {n : Nat} (ring : n < 2 ^ 20) :
    ringset (BitVec.ofNat 64 (n + 2 ^ 20)) s = makeEligible (n / 64) (BitVec.ofNat 64 (2 ^ (n % 64))) s ∧
    ringset (BitVec.ofNat 64 (n + 2 ^ 21)) s = makeEligible (n / 64) (BitVec.allOnes 64) s := by
  have isManager : ¬(s.role.role != .manager) = true := by rw [manager]; decide
  have set : n + 2 ^ 20 < 2 ^ 64 := by omega
  have group : n + 2 ^ 21 < 2 ^ 64 := by omega
  constructor <;> (unfold ringset; rw [if_neg isManager]; dsimp only)
  · rw [fieldAt_ofNat set, show (n + 2 ^ 20) / 2 ^ 0 % 2 ^ 20 = n by omega,
      if_pos (by rw [bitAt_ofNat set, decide_eq_true_eq]; omega), if_neg (by rw [bitAt_ofNat set, decide_eq_true_eq]; omega)]
  · rw [fieldAt_ofNat group, show (n + 2 ^ 21) / 2 ^ 0 % 2 ^ 20 = n by omega,
      if_neg (by rw [bitAt_ofNat group, decide_eq_true_eq]; omega), if_pos (by rw [bitAt_ofNat group, decide_eq_true_eq]; omega)]

theorem writeReg_ringset (who : Requester) (v : W64) (s : State) : writeReg who 0x70028 v s = ringset v s := rfl

theorem regCmd_ringset (v : Nat) (may : mayAccess who 2 0x70028 s = true) :
    regCmd who 0x70028 v s = .next (written who (ringset (BitVec.ofNat 64 v) s)) := by
  rw [regCmd_ok may (by norm_num) (by norm_num) (by simp [samFreeWrite]), writeReg_ringset]

end

/-! ## Eligibility (R387, R399, R400) -/

theorem makeEligible_eq {mask : W64} (some : mask ≠ 0) (g : Nat) (s : State) :
    let s1 : State := { s with rings := { s.rings with elig := Tab.modify 0 s.rings.elig g (fun m => m ||| mask) } }
    makeEligible g mask s = if s.rings.elig = [] then arrive srcRingWatch s1 else s1 := by
  unfold makeEligible
  rw [if_neg some]
  exact if_congr List.isEmpty_iff rfl rfl

/-- What a group becoming eligible leaves in the ring engine. -/
theorem makeEligible_rings {mask : W64} (some : mask ≠ 0) (g : Nat) (s : State) :
    (makeEligible g mask s).rings = { s.rings with elig := Tab.modify 0 s.rings.elig g (fun m => m ||| mask) } := by
  rw [makeEligible_eq some]
  dsimp only
  split
  · rw [arrive_rings]
  · rfl

theorem makeEligible_facts (g : Nat) (mask : W64) (s : State) : let u := makeEligible g mask s
    Tab.get 0 u.rings.elig g = Tab.get 0 s.rings.elig g ||| mask ∧ (∀ h, h ≠ g → Tab.get 0 u.rings.elig h = Tab.get 0 s.rings.elig h) ∧
    u.rings.shadows = s.rings.shadows ∧ u.rings.entries = s.rings.entries := by
  dsimp only
  by_cases none : mask = 0
  · rw [makeEligible, if_pos none, none]
    exact ⟨BitVec.or_zero.symm, fun h _ => rfl, rfl, rfl⟩
  · rw [makeEligible_rings none]
    exact ⟨Tab.get_set_same _ _ _ _, fun h other => Tab.get_set_other _ _ _ _ _ _ other, rfl, rfl⟩

section
variable {s : State}

theorem nextWord_none (none : s.rings.next = none) : s.rings.nextWord = 0 ∧ popRing s = s := by
  unfold Rings.nextWord popRing
  rw [none]
  exact ⟨rfl, rfl⟩

theorem nextWord_some {n : Nat} (next : s.rings.next = some n) :
    s.rings.nextWord = (if n < 8 * s.rings.hot then BitVec.ofNat 64 (n + 2 ^ 20 + (Tab.get 0 s.rings.shadows n).toNat * 2 ^ 32)
      else BitVec.ofNat 64 (n + 2 ^ 20 + 2 ^ 21)) ∧
    popRing s = { s with rings := { s.rings with
      elig := Tab.modify 0 s.rings.elig (n / 64) (fun m => m &&& ~~~ BitVec.ofNat 64 (2 ^ (n % 64)))
      ptr := if n = 0 then s.rings.ptr else (n + 1) % 2 ^ 20 } } := by
  unfold Rings.nextWord popRing
  rw [next]
  exact ⟨rfl, rfl⟩

theorem exec_ringnextRead {who : Requester} (may : mayAccess who 2 0x70020 s = true) :
    exec (.ringnextRead who) s = .next (readBy who s.rings.nextWord (popRing s)) :=
  readCmd_ok may (by norm_num) (by norm_num)

end

/-! ## Hot lines (R389, R390) -/

theorem get_foldl_set_other {v : Nat → BitVec 32} {b k : Nat} {l : List Nat} (t : Tab (BitVec 32)) (other : ∀ w ∈ l, k ≠ b + w) :
    Tab.get 0 (l.foldl (fun t w => Tab.set 0 t (b + w) (v w)) t) k = Tab.get 0 t k := by
  induction l generalizing t with
  | nil => rfl
  | cons w l ih =>
    rw [List.foldl_cons, ih _ fun x among => other x (List.mem_cons_of_mem _ among), Tab.get_set_other _ _ _ _ _ _ (other w List.mem_cons_self)]

theorem get_foldl_set_mem {v : Nat → BitVec 32} {b w : Nat} {l : List Nat} (t : Tab (BitVec 32)) (among : w ∈ l) :
    Tab.get 0 (l.foldl (fun t w => Tab.set 0 t (b + w) (v w)) t) (b + w) = v w := by
  induction l generalizing t with
  | nil => cases among
  | cons x l ih =>
    rw [List.foldl_cons]
    by_cases later : w ∈ l
    · exact ih _ later
    · obtain rfl := (List.mem_cons.mp among).resolve_right later
      rw [get_foldl_set_other _ fun y there same => later (by obtain rfl := Nat.add_left_cancel same; exact there), Tab.get_set_same]

theorem getLsbD_foldl_or {f : Nat → Nat} (small : ∀ w, f w < 64) (l : List Nat) (m : W64) (i : Nat) :
    (l.foldl (fun m w => m ||| BitVec.ofNat 64 (2 ^ f w)) m).getLsbD i = (m.getLsbD i || l.any (fun w => f w == i)) := by
  induction l generalizing m with
  | nil => rw [List.foldl_nil, List.any_nil, Bool.or_false]
  | cons w l ih =>
    have bit : (BitVec.ofNat 64 (2 ^ f w)).getLsbD i = (f w == i) := by
      rw [BitVec.getLsbD_ofNat, Nat.testBit_two_pow]
      by_cases same : f w = i
      · have := small w
        simp [same]
        omega
      · simp [same]
    rw [List.foldl_cons, ih, BitVec.getLsbD_or, bit, List.any_cons, Bool.or_assoc]

/-- The rings of hot line `j` whose doorbell differs from its shadow, or all of them on a first arming (R389). -/
def hitWords (j : Nat) (first : Bool) (d : Line) (s : State) : List Nat :=
  (List.range 8).filter (fun w => first || (wordAt d w).truncate 32 != Tab.get 0 s.rings.shadows (8 * j + w))

/-- The data of a line that is not ring 0's is the shadows of its hit words and their eligibility. -/
theorem handleHot_eq {j : Nat} (other : j ≠ 0) (first : Bool) (d : Line) (s : State) : handleHot j first d s =
    makeEligible (8 * j / 64) ((hitWords j first d s).foldl (fun m w => m ||| BitVec.ofNat 64 (2 ^ ((8 * j + w) % 64))) 0)
      (withRings (fun r => { r with
        shadows := (hitWords j first d s).foldl (fun t w => Tab.set 0 t (8 * j + w) ((wordAt d w).truncate 32)) r.shadows }) s) := by
  unfold handleHot
  exact if_neg other

theorem handleHot_facts {j : Nat} (other : j ≠ 0) (first : Bool) (d : Line) (s : State) :
    let p (w : Nat) : BitVec 32 := (wordAt d w).truncate 32
    let u := handleHot j first d s
    (∀ w, w < 8 → Tab.get 0 u.rings.shadows (8 * j + w) = p w ∧
      (Tab.get 0 u.rings.elig (8 * j / 64)).getLsbD ((8 * j + w) % 64) =
        ((Tab.get 0 s.rings.elig (8 * j / 64)).getLsbD ((8 * j + w) % 64) || first || p w != Tab.get 0 s.rings.shadows (8 * j + w))) ∧
    (∀ r, r / 8 ≠ j → Tab.get 0 u.rings.shadows r = Tab.get 0 s.rings.shadows r) ∧
    (∀ g, g ≠ 8 * j / 64 → Tab.get 0 u.rings.elig g = Tab.get 0 s.rings.elig g) ∧ u.rings.entries = s.rings.entries := by
  intro p u
  have hit {w : Nat} : w ∈ hitWords j first d s ↔ w < 8 ∧ (first || p w != Tab.get 0 s.rings.shadows (8 * j + w)) = true := by
    rw [hitWords, List.mem_filter, List.mem_range]
  obtain ⟨here, elsewhere, shadows, entries⟩ := makeEligible_facts (8 * j / 64)
    ((hitWords j first d s).foldl (fun m w => m ||| BitVec.ofNat 64 (2 ^ ((8 * j + w) % 64))) 0)
    (withRings (fun r => { r with
        shadows := (hitWords j first d s).foldl (fun t w => Tab.set 0 t (8 * j + w) ((wordAt d w).truncate 32)) r.shadows }) s)
  rw [← handleHot_eq other] at here elsewhere shadows entries
  refine ⟨fun w low => ⟨?_, ?_⟩, fun r outside => ?_, elsewhere, entries⟩
  · change Tab.get 0 (handleHot j first d s).rings.shadows (8 * j + w) = p w
    rw [shadows]
    by_cases hits : w ∈ hitWords j first d s
    · exact get_foldl_set_mem _ hits
    · have same : p w = Tab.get 0 s.rings.shadows (8 * j + w) := by
        by_contra differs
        exact hits (hit.mpr ⟨low, by rw [bne_iff_ne.mpr differs, Bool.or_true]⟩)
      rw [same]
      exact get_foldl_set_other _ fun x among equal => hits (by obtain rfl := Nat.add_left_cancel equal; exact among)
  · change (Tab.get 0 (handleHot j first d s).rings.elig (8 * j / 64)).getLsbD _ = _
    have bits : (hitWords j first d s).any (fun x => (8 * j + x) % 64 == (8 * j + w) % 64) =
        (first || p w != Tab.get 0 s.rings.shadows (8 * j + w)) := by
      rw [Bool.eq_iff_iff, List.any_eq_true]
      constructor
      · rintro ⟨x, among, same⟩
        obtain ⟨small, differs⟩ := hit.mp among
        have equal := beq_iff_eq.mp same
        obtain rfl : x = w := by omega
        exact differs
      · exact fun differs => ⟨w, hit.mpr ⟨low, differs⟩, beq_self_eq_true _⟩
    rw [here, BitVec.getLsbD_or, getLsbD_foldl_or (fun w => Nat.mod_lt _ (by decide)), bits,
      show (0 : W64).getLsbD ((8 * j + w) % 64) = false from BitVec.getLsbD_zero, Bool.false_or, Bool.or_assoc]
    rfl
  · change Tab.get 0 (handleHot j first d s).rings.shadows r = _
    rw [shadows]
    exact get_foldl_set_other _ fun x among equal => outside (by have := (hit.mp among).1; omega)

/-! ## Watch reads that return (R389 to R391, R396) -/

section
variable {i : Nat} {code : RspCode} {data : Line} {x : WRead} {s : State} (found : s.rings.reads.find? (fun x => x.entry == i) = some x)
include found

theorem watchResponse_discarded (gone : x.discard = true) :
    watchResponse i code data s = some (pumpRings { s with rings := { s.rings with reads := s.rings.reads.erase x } }) := by
  unfold watchResponse
  rw [found]
  exact if_pos gone

variable (counts : x.discard = false)
include counts

theorem watchResponse_failed (failed : code ≠ .okay) : watchResponse i code data s =
    some (pumpRings (watchError i (BitVec.ofNat 52 (s.rings.lineOf i * 64)) (errCodeOf code)
      { s with rings := { s.rings with reads := s.rings.reads.erase x } })) := by
  unfold watchResponse
  rw [found]
  exact (if_neg (by rw [counts]; decide)).trans (if_pos (bne_iff_ne.mpr failed))

variable (okay : code = .okay) (once : (s.rings.entry i).redo = false)
include okay once

/-- The data of an entry without a redo mark is handled once. -/
theorem watchResponse_handled : let e := s.rings.entry i
    let s2 := setEntryW i { e with st := (if polling s then e.st else .watching), redo := false, first := false, inPass := false }
      { s with rings := { s.rings with reads := s.rings.reads.erase x } }
    watchResponse i code data s = some (pumpRings (if i < 256 then scanStart i data s2 else handleHot (i - 256) e.first data s2)) := by
  unfold watchResponse
  rw [found]
  refine ((if_neg (by rw [counts]; decide)).trans (if_neg (by rw [okay]; decide))).trans ?_
  dsimp only
  rw [once, Bool.and_false, Bool.false_and]
  rfl

end

/-! ## Scans (R392) -/

section
variable {s : State}

theorem scanStart_empty {i : Nat} {d : Line} (none : wordAt d 0 = 0) : scanStart i d s = s := if_pos none

theorem addResponse_found {entry : BitVec 8} {code : RspCode} {x : Scan} (unowed : (entry, none) ∉ s.rings.late)
    (found : s.rings.scans.find? (fun x => x.entry == entry && x.step == .add) = some x) : addResponse entry code s =
      some (if code = .okay then scanReads x s
        else scanFail { x with step := .mirror 0 } (BitVec.ofNat 52 (s.rings.lineOf entry.toNat * 64)) (errCodeOf code) s) := by
  unfold addResponse
  rw [if_neg (by simpa using unowed), found]
  by_cases okay : code = .okay
  · rw [if_pos okay]; exact if_pos okay
  · rw [if_neg okay]; exact if_neg okay

theorem scanReads_open {x : Scan} (reach : ∀ k, k < 8 → hubRefuses s (s.rings.groupLine x k) false = none) :
    scanReads x s = replaceScan { x with step := .reads [0, 1, 2, 3, 4, 5, 6, 7] } s := by
  have none : ([0, 1, 2, 3, 4, 5, 6, 7] : List (Fin 8)).find? (fun k => (hubRefuses s (s.rings.groupLine x k.val) false).isSome) = none :=
    List.find?_eq_none.mpr fun k _ => by rw [reach k.val k.isLt]; exact Bool.false_ne_true
  unfold scanReads
  dsimp only
  rw [none] <;> rfl

/-- A scan that awaits group read `k`. -/
def readsGroup (entry : BitVec 8) (k : Fin 8) (x : Scan) : Bool :=
  x.entry == entry && (match x.step with
    | .reads l => l.contains k
    | _ => false)

theorem groupResponse_found {entry : BitVec 8} {k : Fin 8} {code : RspCode} {x : Scan} {l : List (Fin 8)}
    (unowed : (entry, some k) ∉ s.rings.late) (found : s.rings.scans.find? (readsGroup entry k) = some x) (reads : x.step = .reads l) :
    groupResponse entry k code s = some (if code = .okay then scanRead x k s
      else scanFail { x with step := .reads (l.erase k) } (BitVec.ofNat 52 (s.rings.groupLine x k.val * 64)) (errCodeOf code) s) := by
  unfold groupResponse
  rw [if_neg (by simpa using unowed)]
  split
  next missing => exact absurd (missing.symm.trans found) nofun
  next y there =>
    obtain rfl : y = x := Option.some.inj (there.symm.trans found)
    by_cases okay : code = .okay
    · rw [if_pos okay, if_pos okay]
    · rw [if_neg okay, if_neg okay, reads] <;> rfl

end

/-! ## Cold polls (R396) -/

/-- An entry that the polling reads. -/
def pollFree (s : State) (i : Nat) : Bool :=
  (s.rings.entry i).st != .error && !scanning s i && !s.rings.reads.any (fun x => x.entry == i && !x.discard)

/-- The polling has read an entry. -/
def pollPassed (i : Nat) (s : State) : State :=
  if i + 1 < s.rings.inUse then { s with rings := { s.rings with pollNext := i + 1 } } else sweepEnd s

section
variable {s : State}

theorem pollStep_none (allBusy : ∀ i, s.rings.pollNext ≤ i → i < s.rings.inUse → pollFree s i = false) : pollStep s = sweepEnd s := by
  have searched : (List.range s.rings.inUse).find? (fun i => decide (i ≥ s.rings.pollNext) && pollFree s i) = none :=
    find_range_no fun i low => by
      by_cases reached : s.rings.pollNext ≤ i
      · rw [allBusy i reached low, Bool.and_false]
      · rw [decide_eq_false reached, Bool.false_and]
  unfold pollFree at searched
  unfold pollStep
  dsimp only
  rw [searched] <;> rfl

variable {i : Nat} (reached : s.rings.pollNext ≤ i) (low : i < s.rings.inUse) (free : pollFree s i = true)
  (before : ∀ j, s.rings.pollNext ≤ j → j < i → pollFree s j = false)
include reached low free before

theorem pollStep_some : pollStep s =
    let s1 := (hubRefuses s (s.rings.lineOf i) false).elim { s with rings := { s.rings with reads := s.rings.reads ++ [⟨i, false⟩] } }
      (fun c => watchError i (BitVec.ofNat 52 (s.rings.lineOf i * 64)) c s)
    if i + 1 ≥ s.rings.inUse then sweepEnd s1 else { s1 with rings := { s1.rings with pollNext := i + 1 } } := by
  have searched : (List.range s.rings.inUse).find? (fun i => decide (i ≥ s.rings.pollNext) && pollFree s i) = some i :=
    find_range_some low (by rw [decide_eq_true reached, free]; rfl) fun j lower => by
      by_cases later : s.rings.pollNext ≤ j
      · rw [before j later lower, Bool.and_false]
      · rw [decide_eq_false later, Bool.false_and]
  unfold pollFree at searched
  unfold pollStep
  dsimp only
  rw [searched]
  dsimp only
  cases hubRefuses s (s.rings.lineOf i) false <;> rfl

theorem pollStep_reads (reach : hubRefuses s (s.rings.lineOf i) false = none) :
    pollStep s = pollPassed i { s with rings := { s.rings with reads := s.rings.reads ++ [⟨i, false⟩] } } := by
  rw [pollStep_some reached low free before, reach]
  unfold pollPassed
  by_cases last : i + 1 < s.rings.inUse
  · exact (if_neg (Nat.not_le.mpr last)).trans (if_pos last).symm
  · exact (if_pos (Nat.not_lt.mp last)).trans (if_neg last).symm

theorem pollStep_refused {e : BitVec 2} (refused : hubRefuses s (s.rings.lineOf i) false = some e) :
    pollStep s = pollPassed i (watchError i (BitVec.ofNat 52 (s.rings.lineOf i * 64)) e s) := by
  rw [pollStep_some reached low free before, refused]
  unfold pollPassed
  rw [inUse_watchError]
  by_cases last : i + 1 < s.rings.inUse
  · exact (if_neg (Nat.not_le.mpr last)).trans (if_pos last).symm
  · exact (if_pos (Nat.not_lt.mp last)).trans (if_neg last).symm

end

theorem exec_pollRead {s : State} (clocked : tclkRuns s = true) (on : ringsOn s = true) (polls : polling s = true) :
    exec .pollRead s = .next (pollStep s) :=
  onlyIf_of_true (by rw [clocked, on, polls]; rfl)

/-- Settles O50: each command is the equation of what it runs, a hot line's data is `handleHot_facts`, and a polling read `pollStep_reads` or
`pollStep_refused`. RINGSET's arrival with EN 0, and a polling that skips entries in ERROR or scanned, are the model's choices (log entry 36). -/
theorem ringCommands : Obligations.RingCommands := by
  unfold Obligations.RingCommands
  refine ⟨fun who entry s may => exec_watcharmGo entry may, fun who ring s may => ⟨fun other => ⟨?setOther, ?groupOther⟩,
    fun manager => ⟨?set, ?group⟩⟩, fun g mask s some => makeEligible_eq some g s, fun who s may => ⟨fun none => ?popsNone, fun n next => ?pops⟩,
    fun s ring0 => if_pos ring0, fun entry code data x s found => ⟨fun gone => ?discarded, fun counts failed => ?failed,
    fun counts okay once low empty => ?summary, fun counts okay once hot => ?hot⟩, fun j first d s other => handleHot_facts other first d s,
    fun entry code x s unowed found => orRefuse_some (addResponse_found unowed found), fun x s reach => scanReads_open reach,
    fun entry k code data x l s unowed found reads => orRefuse_some (groupResponse_found unowed found reads),
    fun s clocked on polls => ⟨fun none => ?sweep, fun i reached low free before => ⟨fun reach => ?polls, fun e refused => ?refused⟩⟩⟩
  case setOther => exact (regCmd_ringset _ may).trans (by rw [ringset_other other])
  case groupOther => exact (regCmd_ringset _ may).trans (by rw [ringset_other other])
  case set => exact (regCmd_ringset _ may).trans (by rw [(ringset_manager manager ring.isLt).1])
  case group => exact (regCmd_ringset _ may).trans (by rw [(ringset_manager manager ring.isLt).2])
  case popsNone => rw [exec_ringnextRead may, (nextWord_none none).1, (nextWord_none none).2]
  case pops =>
    obtain ⟨word, popped⟩ := nextWord_some next
    rw [exec_ringnextRead may, word, popped]
    exact ⟨fun hot => by rw [if_pos hot], fun cold => by rw [if_neg (Nat.not_lt.mpr cold)]⟩
  case discarded => exact orRefuse_some (watchResponse_discarded found gone)
  case failed => exact orRefuse_some (watchResponse_failed found counts failed)
  case summary =>
    refine (orRefuse_some (watchResponse_handled found counts okay once)).trans ?_
    rw [if_pos low, scanStart_empty empty]
  case hot =>
    refine (orRefuse_some (watchResponse_handled found counts okay once)).trans ?_
    rw [if_neg (Nat.not_lt.mpr hot)]
  case sweep => rw [exec_pollRead clocked on polls, pollStep_none none]
  case polls => rw [exec_pollRead clocked on polls, pollStep_reads reached low free before reach]; rfl
  case refused => rw [exec_pollRead clocked on polls, pollStep_refused reached low free before refused]; rfl

end Sys2Proof.Proofs
end

section
/-! SUPPORT. DMA grants, responses, failures and endings (R406, R408, R411, R413, R415, R416, R507). -/

namespace Sys2Proof.Proofs

open Sys2Proof.Machine Sys2Proof.Claims Sys2Proof.Laws

/-! ## Channels -/

theorem insert_insert {α : Type} (t : Tab α) (k : Nat) (v w : α) : Tab.insert (Tab.insert t k v) k w = Tab.insert t k w := by
  induction t with
  | nil => simp [Tab.insert]
  | cons e t ih =>
    obtain ⟨k', x⟩ := e
    simp only [Tab.insert]
    split
    · simp [Tab.insert]
    · split
      · simp [Tab.insert]
      next notBelow other => simp [Tab.insert, notBelow, other, ih]

theorem chan_setChan (ch : Fin 64) (k : Chan) (s : State) : (setChan ch k s).chan ch = k := Tab.get_set_same _ _ _ _

theorem running_ne_chan0 {k : Chan} (running : k.st = .running) (n : Nat) : k ≠ chan0 n := by
  rintro rfl
  cases running

/-- Of two writes of a channel that runs, the later stays. -/
theorem setChan_setChan {ch : Fin 64} {k1 k2 : Chan} (first : k1.st = .running) (second : k2.st = .running) (s : State) :
    setChan ch k2 (setChan ch k1 s) = setChan ch k2 s := by
  simp only [setChan, Tab.set, if_neg (running_ne_chan0 first _), if_neg (running_ne_chan0 second _), insert_insert]

/-! ## Grants (R413) -/

theorem act_running {k : Chan} {roomR roomW : Bool} (acts : k.act roomR roomW ≠ .none) : k.st = .running ∧ k.stop = .none := by
  by_contra idle
  refine acts (if_pos ?_)
  by_cases running : k.st = .running
  · have stops : k.stop ≠ .none := fun none => idle ⟨running, none⟩
    rw [bne_iff_ne.mpr stops, Bool.or_true]
  · rw [bne_iff_ne.mpr running, Bool.true_or]

theorem chanAct_running {s : State} {ch : Fin 64} (acts : chanAct s ch ≠ .none) : (s.chan ch).st = .running ∧ (s.chan ch).stop = .none := by
  unfold chanAct at acts
  split at acts
  · exact absurd rfl acts
  · exact act_running acts

section
variable {s : State} {base n ptr : Nat}

theorem findChan_some {ch : Fin 64} (found : findChan s base n ptr = some ch) (fits : base + n ≤ 64) (nonempty : 0 < n) :
    chanAct s ch ≠ .none ∧ base ≤ ch.val ∧ ch.val < base + n := by
  refine ⟨bne_iff_ne.mp (List.find?_some (p := fun ch => chanAct s ch != .none) found), ?_⟩
  obtain ⟨i, -, rfl⟩ := List.mem_map.mp (List.mem_of_find?_eq_some found)
  have low := Nat.mod_lt (ptr + i) nonempty
  change base ≤ (base + (ptr + i) % n) % 64 ∧ (base + (ptr + i) % n) % 64 < base + n
  omega

theorem findChan_none (missing : findChan s base n ptr = none) (fits : base + n ≤ 64) {ch : Fin 64} (above : base ≤ ch.val) (below : ch.val < base + n) :
    chanAct s ch = .none := by
  -- the place of a channel in the round robin from `ptr` on
  obtain ⟨i, low, place⟩ : ∃ i, i < n ∧ (ptr + i) % n = ch.val - base := by
    have inside : ch.val - base < n := by omega
    have start := Nat.mod_lt ptr (by omega : 0 < n)
    refine ⟨(ch.val - base + n - ptr % n) % n, Nat.mod_lt _ (by omega), ?_⟩
    rw [Nat.add_mod, Nat.mod_mod, ← Nat.add_mod, ← Nat.mod_add_mod,
      show ptr % n + (ch.val - base + n - ptr % n) = ch.val - base + n by omega, Nat.add_mod_right, Nat.mod_eq_of_lt inside]
  have here : BitVec.toFin (BitVec.ofNat 6 (base + (ptr + i) % n)) = ch := by
    rw [place]
    apply Fin.ext
    change (base + (ch.val - base)) % 64 = ch.val
    omega
  have all := List.find?_eq_none.mp missing ch (List.mem_map.mpr ⟨i, List.mem_range.mpr low, here⟩)
  simpa using all

end

/-- R413: a channel that is granted asks and runs, and a list channel is granted where no service channel asks. -/
theorem dmaNext_facts {s : State} {ch : Fin 64} (next : dmaNext s = some ch) : chanAct s ch ≠ .none ∧ (s.chan ch).st = .running ∧
    (ch.val < 60 → ∀ d : Fin 64, 60 ≤ d.val → chanAct s d = .none) := by
  unfold dmaNext at next
  cases service : findChan s 60 4 s.dma.svcPtr with
  | some c =>
    rw [service] at next
    obtain rfl := Option.some.inj next
    obtain ⟨acts, above, -⟩ := findChan_some service (by decide) (by decide)
    exact ⟨acts, (chanAct_running acts).1, fun list => absurd list (Nat.not_lt.mpr above)⟩
  | none =>
    rw [service] at next
    obtain ⟨acts, -⟩ := findChan_some next (by decide) (by decide)
    exact ⟨acts, (chanAct_running acts).1, fun _ d above => findChan_none service (by decide) above d.isLt⟩

theorem exec_dmaRequestGrant {s : State} {ch : Fin 64} (clocked : tclkRuns s = true) (issues : dmaFrozen s = false) (next : dmaNext s = some ch) :
    exec .dmaRequestGrant s = .next (bootWatch (dmaGrantChan ch s)) := by
  change execDmaRequestGrant s = _
  unfold execDmaRequestGrant
  rw [if_neg (by rw [clocked, issues]; decide), dmaGrant, next]
  rfl

/-- R410: where a list channel's access goes does not depend on the channels. -/
theorem dmaTarget_list {ch : Fin 64} (list : ch.val < 60) (d : Dma) (s : State) (addr len : Nat) :
    dmaTarget { s with dma := d } ch addr len = dmaTarget s ch addr len := by
  have noBoot (k : Chan) : ¬(decide (ch.val = 63) && s.boot.step == .copy && decide (k.src.toNat ≤ addr) &&
      decide (addr < k.src.toNat + k.len.toNat)) = true := by
    rw [decide_eq_false (by omega)]
    exact nofun
  unfold dmaTarget
  exact (if_neg (noBoot _)).trans (if_neg (noBoot _)).symm

theorem dmaIssueRead_ext {ch : Fin 64} {addr len : Nat} {cached : Bool} {s : State} (target : dmaTarget s ch addr len = .ext cached)
    (kind : DReadKind) (pos entry : Nat) : dmaIssueRead ch kind addr len pos entry s = setChan ch { s.chan ch with
      reads := (s.chan ch).reads ++ [⟨(s.chan ch).tag, kind, addr, len, pos, entry, 0, [], false⟩], tag := (s.chan ch).tag + 1 } s := by
  unfold dmaIssueRead
  dsimp only
  rw [target]

/-- A read of a list channel on TFP or EMP is issued with the next tag. -/
theorem dmaGrantChan_read {ch : Fin 64} {cached : Bool} {s : State} (list : ch.val < 60) (acts : chanAct s ch = .read)
    (target : dmaTarget s ch (s.chan ch).sw.piece (s.chan ch).readLen = .ext cached) :
    let k := s.chan ch
    let n := k.readLen
    dmaGrantChan ch s = dmaAfter ch (setChan ch { k with
        rpos := k.rpos + n
        sw := { k.sw with piece := (if k.fixs then k.sw.piece else k.sw.piece + n), left := k.sw.left - n }
        reads := k.reads ++ [⟨k.tag, .data, k.sw.piece, n, k.rpos, k.sw.entry, 0, [], false⟩]
        tag := k.tag + 1 }
      { s with dma := { s.dma with listPtr := (ch.val + 1) % 60 } }) := by
  intro k n
  have running : k.st = .running := (chanAct_running (by rw [acts]; exact nofun)).1
  have notService : ¬isService ch.val = true := by rw [isService, decide_eq_false (by omega)]; exact nofun
  unfold dmaGrantChan
  rw [acts, if_neg notService]
  dsimp only
  rw [show State.chan { s with dma := { s.dma with listPtr := (ch.val + 1) % 60 } } ch = s.chan ch from rfl, dmaTarget_list list,
    show dmaTarget s ch (s.chan ch).sw.piece _ = .ext cached from target]
  dsimp only
  refine congrArg (dmaAfter ch) ?_
  rw [dmaIssueRead_ext (cached := cached) (by exact (dmaTarget_list list _ s _ _).trans target), chan_setChan]
  exact setChan_setChan (by exact running) (by exact running) _

/-! ## Lines that a write makes visible (R240, R411) -/

theorem arrive_dma (n : Nat) (s : State) : (arrive n s).dma = s.dma := by
  obtain ⟨ev, cores, pwr, form⟩ := arrive_form n s
  rw [form]

theorem dropLine_dma (c : CoreId) (line : Nat) (wb : Bool) (s : State) : (dropLine c line wb s).dma = s.dma := by
  unfold dropLine
  split
  · rfl
  · dsimp only
    split
    · unfold writeBack
      split
      · rfl
      · obtain ⟨l, form⟩ := lateError_form c _ true _
        rw [form]
        exact arrive_dma _ _
    · rfl

theorem clearLocks_dma (who : Option CoreId) (line : Nat) (s : State) : (clearLocks who line s).dma = s.dma :=
  foldl_field State.dma (fun s c => by split <;> rfl) fours s

theorem snoopCores_dma (line : Nat) (s : State) : (snoopCores line s).dma = s.dma :=
  foldl_field State.dma (act := fun s c => snoopCore line c s) (fun s c => dropLine_dma c line true s) fours s

theorem chan_dmaVisible (ch : Fin 64) (addr : Nat) (s : State) : (dmaVisible ch addr s).chan ch = s.chan ch := by
  have same : (dmaVisible ch addr s).dma = s.dma := by
    unfold dmaVisible
    split
    · exact snoopCores_dma _ s
    · exact clearLocks_dma _ _ s
  rw [State.chan, same]
  rfl

/-! ## Responses (R411, R415, R416) -/

/-- A response that nobody else awaits is the engine's, and the boot that copies sees what it leaves (R507). -/
theorem dmaAnswers {o : Owed} {why : String} {f : State → Option State} {s u : State} (unowed : o ∉ s.ports.owed) (answers : f s = some u) :
    owedFirst o (fun s => orRefuse why ((f s).map bootWatch)) s = .next (bootWatch u) := by
  rw [owedFirst_of_not_mem _ unowed, answers]
  rfl

section
variable {ch : Fin 64} {tag : Nat} {code : RspCode} {data : Line} {s : State}

section
variable {r : DRead} (found : (s.chan ch).reads.find? (fun r => r.tag == tag && r.words == 0) = some r)
include found

theorem dmaReadResponse_failed (failed : code ≠ .okay) : dmaReadResponse ch tag code data s = some (dmaReadFailed ch r (dmaCode code) s) := by
  unfold dmaReadResponse
  rw [found]
  exact if_neg failed

/-- A read on TFP or EMP that no core holds a line of leaves its bytes at their place. -/
theorem dmaReadResponse_data (okay : code = .okay) (target : dmaTarget s ch r.addr r.len ≠ .ext true) (running : (s.chan ch).st = .running)
    (goes : (s.chan ch).stop = .none) (kind : r.kind = .data) : dmaReadResponse ch tag code data s =
      some (dmaAfter ch (setChan ch { s.chan ch with
        reads := (s.chan ch).reads.erase r
        chunks := insertChunk ⟨r.pos, ((lineBytes data).drop (r.addr % 64)).take r.len, r.entry⟩ (s.chan ch).chunks } s)) := by
  have done (bs : List Byte) : dmaReadDone ch r bs s = dmaAfter ch (setChan ch { s.chan ch with
      reads := (s.chan ch).reads.erase r, chunks := insertChunk ⟨r.pos, bs, r.entry⟩ (s.chan ch).chunks } s) := by
    unfold dmaReadDone
    rw [if_neg (by rw [goes]; exact nofun), kind]
    dsimp only
    rw [chan_setChan, setChan_setChan (by exact running) (by exact running)]
  unfold dmaReadResponse
  rw [found]
  dsimp only
  rw [if_pos okay, done]
  split
  next here => exact absurd here target
  next => rfl

end

section
variable {w : DWrite} (found : (s.chan ch).writes.find? (fun w => w.tag == tag && w.words == 0) = some w)
include found

theorem dmaWriteResponse_failed (failed : code ≠ .okay) : dmaWriteResponse ch tag code s =
    some (dmaFail ch true false w.addr (dmaCode code) (setChan ch { s.chan ch with writes := (s.chan ch).writes.erase w } s)) := by
  unfold dmaWriteResponse
  rw [found]
  exact if_neg failed

/-- The first range that is acknowledged moves DMAPROG past it (R416). -/
theorem dmaWriteResponse_first (okay : code = .okay) (noneBefore : (s.chan ch).acked = []) (next : (s.chan ch).prog = w.pos) :
    dmaWriteResponse ch tag code s = some (dmaAfter ch (setChan ch { s.chan ch with
      writes := (s.chan ch).writes.erase w, prog := w.pos + w.len } (dmaVisible ch w.addr s))) := by
  have moves : absorb 1 w.pos [(w.pos, w.pos + w.len)] = (w.pos + w.len, []) := by simp [absorb]
  unfold dmaWriteResponse
  rw [found]
  refine (if_pos okay).trans (congrArg some ?_)
  unfold dmaAck
  dsimp only
  rw [chan_dmaVisible, noneBefore, next, List.nil_append, show [(w.pos, w.pos + w.len)].length = 1 from rfl, moves] <;> rfl

end
end

/-! ## Failures and endings (R415, R416) -/

section
variable {ch : Fin 64} {s : State}

theorem dmaSettle_done (running : (s.chan ch).st = .running) (goes : (s.chan ch).stop = .none) (complete : (s.chan ch).complete = true) :
    dmaSettle ch s = arrive (srcDmaDone ch.val) (setChan ch { s.chan ch with st := .done, prog := (s.chan ch).wpos, acked := [] } s) := by
  unfold dmaSettle
  rw [if_neg (by rw [running]; decide), goes]
  exact (if_pos complete).trans (by dsimp only; rw [goes])

theorem dmaSettle_halts (running : (s.chan ch).st = .running) (halts : (s.chan ch).stop = .halt)
    (reads : (s.chan ch).reads = []) (writes : (s.chan ch).writes = []) :
    dmaSettle ch s = arrive srcDmaHalt (setChan ch { s.chan ch with st := .halted, stop := .none, chunks := [], acked := [] } s) := by
  unfold dmaSettle
  rw [if_neg (by rw [running]; decide), halts]
  dsimp only
  exact if_pos (by rw [reads, writes]; rfl)

theorem chan_arrive (n : Nat) (s : State) : (arrive n s).chan ch = s.chan ch := by
  rw [State.chan, arrive_dma]
  rfl

/-- What a channel that settles keeps of its error. -/
theorem err_dmaSettle (ch : Fin 64) (s : State) : ((dmaSettle ch s).chan ch).err = (s.chan ch).err := by
  unfold dmaSettle
  dsimp only
  split
  · rfl
  split
  · split
    · rw [chan_arrive, chan_setChan]
    · rfl
  · split
    · rw [chan_arrive, chan_setChan]
    · rfl
  · split
    · rw [chan_setChan]
    · rfl

theorem err_dmaFail (dir list : Bool) (pa : Nat) (code : BitVec 4) : ((dmaFail ch dir list pa code s).chan ch).err =
    if (s.chan ch).err.valid then { (s.chan ch).err with more := true } else ⟨BitVec.ofNat 52 pa, true, dir, list, code, false⟩ := by
  unfold dmaFail
  rw [err_dmaSettle, chan_setChan]

theorem dmaFail_halts (running : (s.chan ch).st = .running) (reads : (s.chan ch).reads = []) (writes : (s.chan ch).writes = [])
    (kept : (s.chan ch).stop ≠ .cancel) (dir list : Bool) (pa : Nat) (code : BitVec 4) :
    ((dmaFail ch dir list pa code s).chan ch).st = .halted := by
  have halts : (if (s.chan ch).stop = .none then .halt else (s.chan ch).stop) = DmaStop.halt := by
    cases stop : (s.chan ch).stop with
    | none => rfl
    | halt => rfl
    | cancel => exact absurd stop kept
  unfold dmaFail
  dsimp only
  rw [dmaSettle_halts (by rw [chan_setChan]; exact running) (by rw [chan_setChan]; exact halts) (by rw [chan_setChan]; exact reads)
    (by rw [chan_setChan]; exact writes), chan_arrive, chan_setChan]

end

/-- Settles O51: a grant is `dmaNext_facts` and `dmaGrantChan_read`, a response `dmaReadResponse_data` or `dmaWriteResponse_first`, a failure
`err_dmaFail`, and the end of a run `dmaSettle_done`. -/
theorem dmaCommands : Obligations.DmaCommands := by
  unfold Obligations.DmaCommands
  refine ⟨fun ch s clocked issues next => ⟨exec_dmaRequestGrant clocked issues next, dmaNext_facts next⟩,
    fun ch cached s list acts target => dmaGrantChan_read list acts target,
    fun ch tag code data r s unowed found => ⟨fun failed => ?readFailed, fun okay target running goes kind => ?read⟩,
    fun ch tag code w s unowed found => ⟨fun failed => ?writeFailed, fun okay noneBefore next => ?written⟩,
    fun ch dir list pa code s => ⟨err_dmaFail dir list pa code, fun running reads writes kept => dmaFail_halts running reads writes kept dir list pa code⟩,
    fun ch s running goes complete => dmaSettle_done running goes complete⟩
  case readFailed =>
    exact dmaAnswers (f := dmaReadResponse ch tag code data) (o := .dmaRead ch tag) unowed (dmaReadResponse_failed found failed)
  case read =>
    exact dmaAnswers (f := dmaReadResponse ch tag code data) (o := .dmaRead ch tag) unowed
      (dmaReadResponse_data found okay target running goes kind)
  case writeFailed =>
    exact dmaAnswers (f := dmaWriteResponse ch tag code) (o := .dmaWrite ch tag) unowed (dmaWriteResponse_failed found failed)
  case written =>
    exact dmaAnswers (f := dmaWriteResponse ch tag code) (o := .dmaWrite ch tag) unowed
      (dmaWriteResponse_first found okay noneBefore next)

end Sys2Proof.Proofs
end
